-- ==== Sys2Proof/Word.lean ====
section
/-! DEFINITION. Word types of the Zellux instruction set: the 32-bit instruction word (R70), the 64-bit data
register half, the 128-bit capability register (R55), the 512-bit vector register (R64), bytes, and the plain
concatenation of a list of bytes in the spec's little-endian order. -/

namespace Sys2Proof

/-- One byte. -/
abbrev Byte := BitVec 8
/-- One instruction word (R70). -/
abbrev Insn := BitVec 32
/-- The data half of a register, an address, a system register (R55, R100). -/
abbrev Word := BitVec 64
/-- A capability register without its tag (R103). -/
abbrev Cap := BitVec 128
/-- A vector register (R64). -/
abbrev VWord := BitVec 512
/-- A local virtual address, the program counter (R24, R118). -/
abbrev Va := BitVec 48

/-- The unsigned value of bytes in ascending address order (little-endian, R70, R251). -/
def leNat : List Byte → Nat
  | [] => 0
  | b :: bs => b.toNat + 256 * leNat bs

/-- The `n` low bytes of `x`, lowest first. -/
def natBytes : Nat → Nat → List Byte
  | 0, _ => []
  | n + 1, x => BitVec.ofNat 8 x :: natBytes n (x / 256)

end Sys2Proof
end

