-- ==== Sys2Proof/Config.lean ====
section
/-! DEFINITION. What one implementation fixes and the manual does not give. Each is an opaque constant: nothing in Lean
can evaluate it, so every statement holds for each value it may have (guide: a free value). -/

namespace Sys2Proof.Config

/-- The cluster whose router is the torus node of a die's catalogue home, by die number. R156 names the home of a die as an
end of catalogue streams and R300 to R302 carry them over the torus; the manual does not say at which router the home
stands. -/
opaque homeRouter : Nat → Nat

/-- The cluster whose router leads to the hub die. R300 has the routers carry a peer's flit to the hub die and does not
say where the hub joins the torus. -/
opaque hubRouter : Nat

/-- The fixed hash that selects a scale-up port for a stream among the ports of its route mask (R309): device id, source
core and tag, the number of usable ports, to an index below that number when it is reduced by it. -/
opaque portHash : Nat → Nat → Nat → Nat

/-- Whether, at a TIME, every replica of every other module that takes part holds all that was merged here before the release
of a number (R221): what the peers hold is not in this module's state. -/
opaque peersHold : Nat → Nat → Bool

/-- OPND of a flit or of a message on a link, by its KIND, address and count of data bytes; 44 bits of it count. R300 and R307 call it
kind-specific and give no layout. -/
opaque opnd : Nat → Nat → Nat → Nat

/-- The output port that a router gives a flit among the free ports that R301 lets it choose from, by the cycle and the
flit's target; it is reduced by their number. -/
opaque portChoice : Nat → Nat → Nat

/-- The address at which a control core starts after reset, by control-core number. R320 says that the hub ROM boots
first and gives it no address. -/
opaque bootPc : Nat → Va

/-- The context in which the resident OS runs: its runtime entry, and its range table's place and length. No rule gives them. -/
opaque bootTvec : Va
opaque bootTable : Nat
opaque bootEntries : Nat

/-- The value of a peer's cell when the issuing core's LTMO ends an LWAIT that the peer still holds, by the request's
number: R210 puts the view into the result, and the view stands on the peer (R220). -/
opaque peerView : Nat → Word

/-- What the bytes of a read hold when it is answered with poison, by the request's number and the byte's place: the siphon
writes them as poison (R189), and no rule gives their values. -/
opaque poisonByte : Nat → Nat → Byte

/-- TSTART in the record of a node that is cancelled before it starts (R238, R240), by instance and node. -/
opaque noStart : Nat → Nat → Nat

end Sys2Proof.Config
end

