-- ==== Sys2Proof/Syntax.lean ====
section
/-! DEFINITION. The instructions and events of the opcode table as data: one constructor of `Instr` for each row.
The first 167 rows are instruction words (R70 to R85), then comes the row of a word that is none; the others are the part's events, which have no encoding: they
stand for what the table calls a step of the machine that no word starts. -/

namespace Sys2Proof

/-- A register c0 to c63 (R55). -/
abbrev Reg := BitVec 6
/-- A vector register v0 to v31 (R64). -/
abbrev VReg := BitVec 5
/-- A mask register m0 to m7 (R64). -/
abbrev MReg := BitVec 3
/-- A stream register, counted from c48 (R197). -/
abbrev SReg := BitVec 3

/-- The width code of SEXT and ZEXT (R389). -/
inductive ExtCode where
  | b | h | w
  deriving DecidableEq, Repr

/-- The conditions of CMP, CMPI, BC and VCMP (R74). -/
inductive Cond where
  | eq | ne | lt | ge | ltu | geu | gt | le | gtu | leu
  deriving DecidableEq, Repr

/-- The selector of CGET (R348). -/
inductive CapField where
  | addr | base | top | perms | tag | gran
  deriving DecidableEq, Repr

/-- The w field of LD (R72). -/
inductive LdWidth where
  | b | h | w | d | q | bu | hu | wu
  deriving DecidableEq, Repr

/-- The w field of ST (R72). -/
inductive StWidth where
  | b | h | w | d | q
  deriving DecidableEq, Repr

/-- Vector element widths of 8, 16, 32 and 64 bits (R65). -/
inductive ElemWidth where
  | e8 | e16 | e32 | e64
  deriving DecidableEq, Repr

/-- The widths of VGATH and VSCAT (R65). -/
inductive WideElem where
  | e32 | e64
  deriving DecidableEq, Repr

/-- The order suffixes (R168). -/
inductive Order where
  | rlx | acq | rel | ar | sc
  deriving DecidableEq, Repr

/-- The operation of AMO (R331). -/
inductive AmoOp where
  | add | and | or | xor | min | max | minu | maxu | swap
  deriving DecidableEq, Repr

/-- The scalar floating-point formats (R75). -/
inductive FpFmt where
  | fp32 | fp64
  deriving DecidableEq, Repr

/-- The vector floating-point formats (R65). -/
inductive VfFmt where
  | bf16 | fp32 | fp64
  deriving DecidableEq, Repr

/-- The floating-point comparisons (R75). -/
inductive FcmpOp where
  | eq | lt | le | un
  deriving DecidableEq, Repr

/-- The conversion codes of FCVT (R358); F is the format named by the format field. -/
inductive FcvtCode where
  | fOfOther | fOfI64 | fOfN64 | fOfI32 | fOfN32 | i64OfF | n64OfF | i32OfF | n32OfF | i64tOfF | i32tOfF | bf16OfF | fOfBf16 | e4m3OfF | fOfE4m3
  deriving DecidableEq, Repr

/-- The conversion codes of VCVT (R405). -/
inductive VcvtCode where
  | f32OfBf16 | bf16OfF32 | f64OfF32 | f32OfF64 | e4m3OfF32 | f32OfE4m3 | e4m3OfBf16 | bf16OfE4m3 | f32OfI32 | f32OfN32 | i32OfF32 | n32OfF32 | i32tOfF32 | f64OfI64 | i64OfF64 | i64tOfF64 | i32OfI8 | i32OfI16 | i8OfI32 | i16OfI32
  deriving DecidableEq, Repr

/-- The operation of VRED (R77). -/
inductive RedOp where
  | add | min | max | minu | maxu | and | or | xor
  deriving DecidableEq, Repr

/-- The operation of MOP (R77). -/
inductive MaskOp where
  | and | or | xor | andn
  deriving DecidableEq, Repr

/-- The condition of BM (R78). -/
inductive MaskCond where
  | none | any | all | nall
  deriving DecidableEq, Repr

/-- The selector of SWMR (R194). -/
inductive SwmrSel where
  | status | dlo | fault
  deriving DecidableEq, Repr

/-- The accumulator kinds (R254). -/
inductive AccKind where
  | f32 | i32 | f32s | f64
  deriving DecidableEq, Repr

/-- The system registers (R67). -/
inductive SysReg where
  | status | cause | epc | tval | tvec | deadmask | fpc | ltmo | btmo | ctxid | coord | epoch | time | deferr | twin | scpbase | caplist | rttw
  deriving DecidableEq, Repr

/-- The allocation policies of HINT.CACHE (R146). -/
inductive CachePol where
  | nal1 | nal2 | stream | keep
  deriving DecidableEq, Repr

/-- One word of a message payload (R42): a data word, or a capability word with the tag it keeps. -/
inductive PWord where
  | data (v : Word)
  | cap (v : Cap) (tag : Bool)
  deriving DecidableEq, Repr

/-- The answer of another agent (a core, a peer or the host) to a request (R102, R319). -/
inductive RemoteResp where
  | ok (data : List Byte) (tag : Bool)
  | error
  | poison
  /-- refused for good, with a cause of R127 -/
  | refused (cause : Nat)
  /-- refused for now: the sender retries (R29, R315) -/
  | retry
  deriving DecidableEq, Repr

/-- What a peer asks of this module (R220, R307, R310). -/
inductive PeerOp where
  /-- a message with its payload and its c9.KIND (R41) -/
  | msg (words : List PWord) (kind : Nat)
  /-- a remote register write (R59) -/
  | rput (index : Nat) (word : PWord)
  /-- a read of `size` bytes -/
  | read (size : Nat)
  /-- a read by a vector load or a siphon, which no cistern serves (R207) -/
  | vread (size : Nat)
  /-- a write of bytes; `tag` is the tag of a 16-byte write -/
  | write (data : List Byte) (tag : Bool)
  /-- an AMO of `size` bytes; `ret` when it returns the old value -/
  | amo (op : AmoOp) (size : Nat) (operand : Word) (ret : Bool)
  /-- a CAS of `size` bytes -/
  | cas (size : Nat) (expected new : Word)
  /-- a join, its raw operand, whether the issuer's 8-byte check passed (R220), and for a release the fixed scope that its scope
  names (R221) -/
  | join (raw : Word) (ok8 : Bool) (rel : Option Nat)
  /-- a plain store that may reach a cistern (R220) -/
  | cellStore (data : List Byte) (ok8 : Bool)
  /-- a wait of a cistern threshold (R220) -/
  | lwait (raw : Word) (ok8 : Bool)
  /-- the initialisation, a count and an arrival of a barrier object (R336) -/
  | barm (w : Word)
  | barb (w : Word)
  | barr
  /-- a count that applies only to an object with AUTO set (R187) -/
  | barAuto (w : Word)
  /-- a write of which the bytes at the places named are poisoned (R189) -/
  | spoiled (data : List Byte) (bad : List Nat)
  /-- a dirty block of a cistern range that a peer's pump sends (R216, R219) -/
  | pump (data : List Byte)
  /-- no request but the answer to one of this module's, by its number -/
  | answer (id : Nat) (resp : RemoteResp)
  deriving DecidableEq, Repr

/-- A request of a peer as the receiving hub sees it (R307). -/
structure PeerReq where
  sdev : Nat
  score : Nat
  ctx : Nat
  dcore : Nat
  tag : Nat
  addr : Word
  op : PeerOp
  deriving DecidableEq, Repr

/-- Where a soft error is found (R145, R278). -/
inductive SoftTarget where
  /-- a sector of a core's L1F -/
  | l1f (core sector : Nat)
  /-- a sector of a cluster's L2F -/
  | l2f (cluster sector : Nat)
  /-- a 32-byte ECC word of memory, by its number PA div 32 -/
  | memory (word : Nat)
  /-- a register of a carrel -/
  | reg (core carrel : Nat) (r : Reg)
  /-- a vector register of a carrel -/
  | vreg (core carrel : Nat) (v : VReg)
  /-- a mask of a carrel -/
  | mask (core carrel : Nat) (m : MReg)
  /-- an entry of a carrel's outbox -/
  | outbox (core carrel idx : Nat)
  /-- an entry of a core's commit queue -/
  | commit (core idx : Nat)
  deriving DecidableEq, Repr

/-- What the hub ROM finds at reset (R320): whether each flash slot and the egress policy verify, and the device id
and the fences of the policy. -/
structure BootInput where
  slot0 : Bool
  slot1 : Bool
  policy : Bool
  devid : Nat
  fences : List (Word × Word)
  features : List Nat
  deriving DecidableEq, Repr

/-- A hub register that REGISTER_WRITE reaches (R4, R288, R309, R317). -/
inductive HubReg where
  /-- the health register of a physical core -/
  | health (cluster phys : Nat)
  /-- a route table entry, by device id -/
  | route (dev : Nat)
  /-- FABLIM -/
  | fablim
  /-- BAR0 at an offset, by an access of 4 or 8 bytes from the host -/
  | bar0 (off size : Nat)
  /-- HCMD, written by a control core through the hub's own window (R232) -/
  | hcmd
  /-- an event of the resident OS for the host (R319) -/
  | osEvent
  /-- BSTAT.ERR, in which the resident OS says that the DRAM or a port failed to train (R320, R321) -/
  | bootErr
  deriving DecidableEq, Repr

/-- What the resident OS gives a new context (R109, R115, R171). -/
structure CtxInit where
  ctx : Nat
  colour : Nat
  tvec : Va
  rtBase : Nat
  rtCount : Nat
  windows : List (Nat × Nat)
  caplist : Va
  deriving DecidableEq, Repr

/-- What the resident OS gives a new cistern range (R206, R216): the context, the table entry's number, its four
words, the schedule code, the interval in nanoseconds and the peer list. -/
structure RangeInit where
  ctx : Nat
  entry : Nat
  vgran : Nat
  len : Nat
  pgran : Nat
  typ : Nat
  rd : Bool
  wr : Bool
  sched : Nat
  interval : Nat
  peers : List Nat
  deriving DecidableEq, Repr

/-- The rows of the opcode table. -/
inductive Instr where
  /-- ADD: ALU function 0x00 (R74) -/
  | add (d : Reg) (a : Reg) (b : Reg) (w : Bool)
  /-- SUB: ALU function 0x01 (R74) -/
  | sub (d : Reg) (a : Reg) (b : Reg) (w : Bool)
  /-- AND: ALU function 0x02 (R74) -/
  | and_ (d : Reg) (a : Reg) (b : Reg) (w : Bool)
  /-- OR: ALU function 0x03 (R74) -/
  | or_ (d : Reg) (a : Reg) (b : Reg) (w : Bool)
  /-- XOR: ALU function 0x04 (R74) -/
  | xor_ (d : Reg) (a : Reg) (b : Reg) (w : Bool)
  /-- SHL: ALU function 0x05 (R74) -/
  | shl (d : Reg) (a : Reg) (b : Reg) (w : Bool)
  /-- SHR: ALU function 0x06 (R74) -/
  | shr (d : Reg) (a : Reg) (b : Reg) (w : Bool)
  /-- SRA: ALU function 0x07 (R74) -/
  | sra (d : Reg) (a : Reg) (b : Reg) (w : Bool)
  /-- MUL: ALU function 0x08 (R74) -/
  | mul (d : Reg) (a : Reg) (b : Reg) (w : Bool)
  /-- MULH: ALU function 0x09 (R74) -/
  | mulh (d : Reg) (a : Reg) (b : Reg) (w : Bool)
  /-- MULHU: ALU function 0x0A (R74) -/
  | mulhu (d : Reg) (a : Reg) (b : Reg) (w : Bool)
  /-- DIV: ALU function 0x0B (R74) -/
  | div (d : Reg) (a : Reg) (b : Reg) (w : Bool)
  /-- DIVU: ALU function 0x0C (R74) -/
  | divu (d : Reg) (a : Reg) (b : Reg) (w : Bool)
  /-- REM: ALU function 0x0D (R74) -/
  | rem (d : Reg) (a : Reg) (b : Reg) (w : Bool)
  /-- REMU: ALU function 0x0E (R74) -/
  | remu (d : Reg) (a : Reg) (b : Reg) (w : Bool)
  /-- MIN: ALU function 0x0F (R74) -/
  | min (d : Reg) (a : Reg) (b : Reg) (w : Bool)
  /-- MAX: ALU function 0x10 (R74) -/
  | max (d : Reg) (a : Reg) (b : Reg) (w : Bool)
  /-- MINU: ALU function 0x11 (R74) -/
  | minu (d : Reg) (a : Reg) (b : Reg) (w : Bool)
  /-- MAXU: ALU function 0x12 (R74) -/
  | maxu (d : Reg) (a : Reg) (b : Reg) (w : Bool)
  /-- CLZ: ALU function 0x13 (R349) -/
  | clz (d : Reg) (a : Reg) (w : Bool)
  /-- POPC: ALU function 0x14 (R349) -/
  | popc (d : Reg) (a : Reg) (w : Bool)
  /-- SEL: select (R388) -/
  | sel (d : Reg) (a : Reg) (b : Reg)
  /-- SEXT: sign extension (R389) -/
  | sext (d : Reg) (a : Reg) (c : ExtCode)
  /-- ZEXT: zero extension (R389) -/
  | zext (d : Reg) (a : Reg) (c : ExtCode)
  /-- CMP: compare (R350) -/
  | cmp (d : Reg) (a : Reg) (b : Reg) (w : Bool) (c : Cond)
  /-- ADDI: immediate form (R330) -/
  | addi (d : Reg) (a : Reg) (i : BitVec 14)
  /-- ANDI: immediate form (R330) -/
  | andi (d : Reg) (a : Reg) (i : BitVec 14)
  /-- ORI: immediate form (R330) -/
  | ori (d : Reg) (a : Reg) (i : BitVec 14)
  /-- XORI: immediate form (R330) -/
  | xori (d : Reg) (a : Reg) (i : BitVec 14)
  /-- SHLI: immediate shift (R391) -/
  | shli (d : Reg) (a : Reg) (k : BitVec 6)
  /-- SHRI: immediate shift (R391) -/
  | shri (d : Reg) (a : Reg) (k : BitVec 6)
  /-- SRAI: immediate shift (R391) -/
  | srai (d : Reg) (a : Reg) (k : BitVec 6)
  /-- CMPI: compare with immediate (R350) -/
  | cmpi (d : Reg) (a : Reg) (c : Cond) (i : BitVec 10)
  /-- MOVI: move immediate (R375) -/
  | movi (d : Reg) (i : BitVec 20)
  /-- BFX_U: bit field; l is the length minus one (R339) -/
  | bfxU (d : Reg) (a : Reg) (p : BitVec 6) (l : BitVec 6)
  /-- BFX_S: bit field; l is the length minus one (R339) -/
  | bfxS (d : Reg) (a : Reg) (p : BitVec 6) (l : BitVec 6)
  /-- BFI: bit field; l is the length minus one (R339) -/
  | bfi (d : Reg) (a : Reg) (p : BitVec 6) (l : BitVec 6)
  /-- CBND: capability (R345) -/
  | cbnd (d : Reg) (a : Reg) (b : Reg)
  /-- CPERM: capability (R345) -/
  | cperm (d : Reg) (a : Reg) (b : Reg)
  /-- CINC: capability (R345) -/
  | cinc (d : Reg) (a : Reg) (b : Reg)
  /-- CGET: capability field (R348) -/
  | cget (d : Reg) (a : Reg) (s : CapField)
  /-- CTEST: capability containment (R348) -/
  | ctest (d : Reg) (a : Reg) (b : Reg)
  /-- CSETA: capability address (R347) -/
  | cseta (d : Reg) (a : Reg) (b : Reg)
  /-- CINCI: capability increment (R347) -/
  | cinci (d : Reg) (a : Reg) (i : BitVec 14)
  /-- LD: scalar load (R367) -/
  | ld (d : Reg) (a : Reg) (w : LdWidth) (o : BitVec 11)
  /-- ST: scalar store (R392) -/
  | st (s : Reg) (a : Reg) (w : StWidth) (o : BitVec 11)
  /-- VLD: vector load (R414) -/
  | vld (v : VReg) (a : Reg) (m : MReg) (o : BitVec 12)
  /-- VST: vector store (R414) -/
  | vst (v : VReg) (a : Reg) (m : MReg) (o : BitVec 12)
  /-- VLDS: strided load (R417) -/
  | vlds (d : VReg) (a : Reg) (b : Reg) (w : ElemWidth) (m : MReg)
  /-- VSTS: strided store (R417) -/
  | vsts (d : VReg) (a : Reg) (b : Reg) (w : ElemWidth) (m : MReg)
  /-- VGATH: gather (R410) -/
  | vgath (d : VReg) (a : Reg) (b : VReg) (w : WideElem) (m : MReg)
  /-- VSCAT: scatter (R410) -/
  | vscat (d : VReg) (a : Reg) (b : VReg) (w : WideElem) (m : MReg)
  /-- AMO: value-returning AMO, d other than c0 (R331) -/
  | amo (d : Reg) (a : Reg) (b : Reg) (o : Order) (w : Bool) (p : AmoOp)
  /-- AMO_NO_RETURN: no-return AMO (R331) -/
  | amoNoReturn (a : Reg) (b : Reg) (o : Order) (w : Bool) (p : AmoOp)
  /-- CAS: compare and swap (R343) -/
  | cas (d : Reg) (a : Reg) (b : Reg) (o : Order) (w : Bool)
  /-- FENCE: fence (R169) -/
  | fence (s : BitVec 5) (c : Bool) (o : Order)
  /-- PREF: range operation (R364) -/
  | pref (a : Reg) (b : Reg)
  /-- WBR: range operation (R364) -/
  | wbr (a : Reg) (b : Reg)
  /-- INVR: range operation (R364) -/
  | invr (a : Reg) (b : Reg)
  /-- WBRI: range operation (R364) -/
  | wbri (a : Reg) (b : Reg)
  /-- LJOIN: cistern join (R209) -/
  | ljoin (a : Reg) (b : Reg) (r : Bool)
  /-- LWAIT: cistern wait (R209) -/
  | lwait (d : Reg) (a : Reg) (b : Reg) (q : Bool)
  /-- FADD: scalar floating point (R355) -/
  | fadd (d : Reg) (a : Reg) (b : Reg) (f : FpFmt)
  /-- FSUB: scalar floating point (R355) -/
  | fsub (d : Reg) (a : Reg) (b : Reg) (f : FpFmt)
  /-- FMUL: scalar floating point (R355) -/
  | fmul (d : Reg) (a : Reg) (b : Reg) (f : FpFmt)
  /-- FDIV: scalar floating point (R355) -/
  | fdiv (d : Reg) (a : Reg) (b : Reg) (f : FpFmt)
  /-- FSQRT: square root (R355) -/
  | fsqrt (d : Reg) (a : Reg) (f : FpFmt)
  /-- FMIN: scalar floating point (R355) -/
  | fmin (d : Reg) (a : Reg) (b : Reg) (f : FpFmt)
  /-- FMAX: scalar floating point (R355) -/
  | fmax (d : Reg) (a : Reg) (b : Reg) (f : FpFmt)
  /-- FFMA: scalar floating point (R355) -/
  | ffma (d : Reg) (a : Reg) (b : Reg) (f : FpFmt)
  /-- FCMP: floating-point compare (R357) -/
  | fcmp (d : Reg) (a : Reg) (b : Reg) (f : FpFmt) (c : FcmpOp)
  /-- FCVT: conversion (R358) -/
  | fcvt (d : Reg) (a : Reg) (c : FcvtCode) (f : FpFmt)
  /-- VADD: vector integer (R400) -/
  | vadd (v : VReg) (a : VReg) (b : VReg) (m : MReg) (w : ElemWidth)
  /-- VSUB: vector integer (R400) -/
  | vsub (v : VReg) (a : VReg) (b : VReg) (m : MReg) (w : ElemWidth)
  /-- VMUL: vector integer (R400) -/
  | vmul (v : VReg) (a : VReg) (b : VReg) (m : MReg) (w : ElemWidth)
  /-- VMIN: vector integer (R400) -/
  | vmin (v : VReg) (a : VReg) (b : VReg) (m : MReg) (w : ElemWidth)
  /-- VMAX: vector integer (R400) -/
  | vmax (v : VReg) (a : VReg) (b : VReg) (m : MReg) (w : ElemWidth)
  /-- VMINU: vector integer (R400) -/
  | vminu (v : VReg) (a : VReg) (b : VReg) (m : MReg) (w : ElemWidth)
  /-- VMAXU: vector integer (R400) -/
  | vmaxu (v : VReg) (a : VReg) (b : VReg) (m : MReg) (w : ElemWidth)
  /-- VAND: vector integer (R400) -/
  | vand (v : VReg) (a : VReg) (b : VReg) (m : MReg) (w : ElemWidth)
  /-- VOR: vector integer (R400) -/
  | vor (v : VReg) (a : VReg) (b : VReg) (m : MReg) (w : ElemWidth)
  /-- VXOR: vector integer (R400) -/
  | vxor (v : VReg) (a : VReg) (b : VReg) (m : MReg) (w : ElemWidth)
  /-- VSHL: vector integer (R400) -/
  | vshl (v : VReg) (a : VReg) (b : VReg) (m : MReg) (w : ElemWidth)
  /-- VSHR: vector integer (R400) -/
  | vshr (v : VReg) (a : VReg) (b : VReg) (m : MReg) (w : ElemWidth)
  /-- VSRA: vector integer (R400) -/
  | vsra (v : VReg) (a : VReg) (b : VReg) (m : MReg) (w : ElemWidth)
  /-- VCMP: vector compare (R404) -/
  | vcmp (d : MReg) (a : VReg) (b : VReg) (m : MReg) (w : ElemWidth) (c : Cond)
  /-- VFADD: vector floating point (R407) -/
  | vfadd (v : VReg) (a : VReg) (b : VReg) (m : MReg) (f : VfFmt)
  /-- VFSUB: vector floating point (R407) -/
  | vfsub (v : VReg) (a : VReg) (b : VReg) (m : MReg) (f : VfFmt)
  /-- VFMUL: vector floating point (R407) -/
  | vfmul (v : VReg) (a : VReg) (b : VReg) (m : MReg) (f : VfFmt)
  /-- VFMA: vector floating point (R407) -/
  | vfma (v : VReg) (a : VReg) (b : VReg) (m : MReg) (f : VfFmt)
  /-- VFMIN: vector floating point (R407) -/
  | vfmin (v : VReg) (a : VReg) (b : VReg) (m : MReg) (f : VfFmt)
  /-- VFMAX: vector floating point (R407) -/
  | vfmax (v : VReg) (a : VReg) (b : VReg) (m : MReg) (f : VfFmt)
  /-- VFDIV: vector floating point (R407) -/
  | vfdiv (v : VReg) (a : VReg) (b : VReg) (m : MReg) (f : VfFmt)
  /-- VFSQRT: vector square root (R407) -/
  | vfsqrt (v : VReg) (a : VReg) (m : MReg) (f : VfFmt)
  /-- VFCMP: vector compare (R409) -/
  | vfcmp (d : MReg) (a : VReg) (b : VReg) (m : MReg) (f : VfFmt) (c : FcmpOp)
  /-- VBCAST: broadcast (R402) -/
  | vbcast (d : VReg) (a : Reg) (w : ElemWidth)
  /-- VINS: insert element (R402) -/
  | vins (d : VReg) (a : Reg) (b : Reg) (w : ElemWidth)
  /-- VEXT: extract element (R402) -/
  | vext (d : Reg) (a : VReg) (b : Reg) (w : ElemWidth)
  /-- VRED: reduction (R402) -/
  | vred (d : Reg) (a : VReg) (o : RedOp) (w : ElemWidth)
  /-- MTOC: mask to register (R351) -/
  | mtoc (d : Reg) (a : MReg) (w : ElemWidth)
  /-- CTOM: register to mask (R351) -/
  | ctom (d : MReg) (a : Reg) (w : ElemWidth)
  /-- MCNT: mask count (R351) -/
  | mcnt (d : Reg) (a : MReg) (w : ElemWidth)
  /-- VSEL: vector select (R413) -/
  | vsel (v : VReg) (a : VReg) (b : VReg) (m : MReg) (w : ElemWidth)
  /-- VPERM: vector permute (R413) -/
  | vperm (v : VReg) (a : VReg) (b : VReg) (m : MReg) (w : ElemWidth)
  /-- VIOTA: element numbers (R413) -/
  | viota (v : VReg) (m : MReg) (w : ElemWidth)
  /-- VCVT: vector conversion (R405) -/
  | vcvt (v : VReg) (a : VReg) (c : VcvtCode) (m : MReg) (p : BitVec 2)
  /-- VMOV: vector move (R413) -/
  | vmov (v : VReg) (a : VReg) (m : MReg) (w : ElemWidth)
  /-- MOP: mask operation (R374) -/
  | mop (d : MReg) (a : MReg) (b : MReg) (o : MaskOp)
  /-- B: branch (R334) -/
  | b (d : BitVec 26)
  /-- BC: conditional branch (R338) -/
  | bc (c : Cond) (a : Reg) (b : Reg) (d : BitVec 10)
  /-- BM: mask branch (R340) -/
  | bm (c : MaskCond) (a : MReg) (b : MReg) (d : BitVec 10)
  /-- CALL: call (R341) -/
  | call (d : BitVec 26)
  /-- JR: jump to register (R342) -/
  | jr (a : Reg)
  /-- CALLR: call register (R342) -/
  | callr (a : Reg)
  /-- RET: return (R342) -/
  | ret
  /-- END: end of the activation (R353) -/
  | end_
  /-- SEND: message (R378) -/
  | send (d : Reg) (a : Reg) (t : BitVec 6) (n : BitVec 5)
  /-- RPUT: remote register write (R379) -/
  | rput (d : Reg) (a : Reg) (t : BitVec 6) (i : BitVec 5)
  /-- PCLR: clear a presence bit (R380) -/
  | pclr (i : BitVec 5)
  /-- TAGCTL_EN: handler-table entry (R381) -/
  | tagctlEn (k : BitVec 6)
  /-- TAGCTL_DIS: handler-table entry (R381) -/
  | tagctlDis (k : BitVec 6)
  /-- TAGCTL_PRIO: handler-table entry (R381) -/
  | tagctlPrio (a : Reg) (k : BitVec 6)
  /-- TAGCTL_ADDR: handler-table entry (R381) -/
  | tagctlAddr (a : Reg) (k : BitVec 6)
  /-- TAGCTL_MODE: handler-table entry (R381) -/
  | tagctlMode (a : Reg) (k : BitVec 6)
  /-- TAGCTL_GATE: handler-table entry (R381) -/
  | tagctlGate (g : BitVec 2) (a : Reg) (k : BitVec 6)
  /-- TAGCTL_CAP: handler-table entry (R381) -/
  | tagctlCap (g : BitVec 2) (a : Reg) (k : BitVec 6)
  /-- TAGCTL_STAT: handler-table entry (R381) -/
  | tagctlStat (d : Reg) (k : BitVec 6)
  /-- SBIND: bind a stream register; s counts from c48 (R384) -/
  | sbind (s : SReg) (a : Reg) (b : Reg)
  /-- SUNBIND: unbind a stream register (R384) -/
  | sunbind (s : SReg)
  /-- SSTAT: stream status (R384) -/
  | sstat (d : Reg) (s : SReg)
  /-- SIPH: siphon command (R182) -/
  | siph (d : Reg) (a : Reg) (b : Reg) (h : BitVec 6)
  /-- SGATH: siphon command (R182) -/
  | sgath (d : Reg) (a : Reg) (b : Reg) (h : BitVec 6)
  /-- SCFG: channel options (R193) -/
  | scfg (a : Reg) (h : BitVec 6)
  /-- SWMR: channel status (R194) -/
  | swmr (d : Reg) (s : SwmrSel) (h : BitVec 6)
  /-- BARM: barrier initialisation (R200) -/
  | barm (a : Reg) (b : Reg)
  /-- BARB: barrier count (R200) -/
  | barb (a : Reg) (b : Reg)
  /-- BARR: barrier arrival (R200) -/
  | barr (d : Reg) (a : Reg)
  /-- BWAIT: barrier wait (R200) -/
  | bwait (d : Reg) (a : Reg) (b : Reg)
  /-- TDSET: tile descriptor (R260) -/
  | tdset (t : BitVec 4) (a : Reg)
  /-- TDGET: tile descriptor or status (R260) -/
  | tdget (d : Reg) (t : BitVec 4)
  /-- TDGET_ST: tile descriptor or status (R260) -/
  | tdgetSt (d : Reg) (t : BitVec 4)
  /-- TDGET_ACC: accumulator status (R260) -/
  | tdgetAcc (d : Reg) (t : BitVec 3)
  /-- MMA: matrix multiply (R262) -/
  | mma (c : BitVec 3) (a : BitVec 4) (b : BitVec 4) (i : Bool)
  /-- MACZ: clear an accumulator (R263) -/
  | macz (c : BitVec 3) (k : AccKind)
  /-- MACST: store an accumulator (R265) -/
  | macst (c : BitVec 3) (a : Reg) (b : Reg) (k : AccKind)
  /-- LOCQ_WHERE: locality query (R296) -/
  | locqWhere (d : Reg) (a : Reg)
  /-- LOCQ_EPOCH: locality query (R297) -/
  | locqEpoch (d : Reg)
  /-- LOCQ_HOPS: locality query (R298) -/
  | locqHops (d : Reg) (a : Reg)
  /-- SCPSET: set a scope (R173) -/
  | scpset (a : Reg) (i : BitVec 6)
  /-- SCPGET: read a scope (R173) -/
  | scpget (d : Reg) (i : BitVec 6)
  /-- SYSR: read a system register (R395) -/
  | sysr (d : Reg) (n : SysReg)
  /-- SYSW: write a system register (R395) -/
  | sysw (a : Reg) (n : SysReg)
  /-- SYSW_RTTW: write a system register (R396) -/
  | syswRttw (a : Reg)
  /-- SYSW_TWIN: write a system register (R396) -/
  | syswTwin (a : Reg)
  /-- SYSW_SCPBASE: write a system register (R396) -/
  | syswScpbase (a : Reg)
  /-- TRAP: trap (R129) -/
  | trap (c : BitVec 12)
  /-- ERET: return from the runtime level (R120) -/
  | eret
  /-- RTINV: invalidate a translation (R114) -/
  | rtinv (a : Reg)
  /-- IDLE: idle (R361) -/
  | idle (a : Reg)
  /-- HALT: halt a control core (R361) -/
  | halt
  /-- HINT_IMM: hint (R362) -/
  | hintImm (p : BitVec 22)
  /-- HINT_SCOPE: hint (R362) -/
  | hintScope (s : BitVec 5)
  /-- HINT_YIELD: hint (R362) -/
  | hintYield (n : BitVec 16)
  /-- HINT_CACHE: hint (R362) -/
  | hintCache (p : CachePol)
  /-- HINT_DISP: hint (R362) -/
  | hintDisp (p : BitVec 22)
  /-- HINT_PRIO: hint (R362) -/
  | hintPrio
  /-- HINT_NOP: hint (R362) -/
  | hintNop
  /-- ILLEGAL_INSTRUCTION. R85: a word that raises 0x041 -/
  | illegalInstruction (w : Insn)
  /-- HALTED_CARREL_RELEASE. R124: the resident OS releases a halted carrel -/
  | haltedCarrelRelease (core carrel : Nat)
  /-- MESSAGE_ARRIVAL. R29: the idx-th message that has reached the cluster's router is offered to its core -/
  | messageArrival (cluster idx : Nat)
  /-- RPUT_ARRIVAL. R59: the idx-th remote register write that has reached the cluster's router -/
  | rputArrival (cluster idx : Nat)
  /-- DISPATCH. R36: the core makes its dispatch of this cycle -/
  | dispatch (core : Nat)
  /-- EPRIO_AGING. R37: a waiting tag's wait counter reaches the next priority step -/
  | eprioAging (core tag : Nat)
  /-- YIELD_PERIOD_EXPIRY. R363: a yield period runs out -/
  | yieldPeriodExpiry (core carrel : Nat)
  /-- OUTBOX_HANDOFF. R44: an Ending carrel hands its outbox over -/
  | outboxHandoff (core carrel : Nat)
  /-- COMMIT_ENTRY_PERFORM. R166: the idx-th commit-queue entry takes effect -/
  | commitEntryPerform (core idx : Nat)
  /-- MESSAGE_INJECT. R302: the idx-th drained message is injected as a flit -/
  | messageInject (core idx : Nat)
  /-- STREAM_ACK. R302: the idx-th acknowledgement that has reached the cluster -/
  | streamAck (cluster idx : Nat)
  /-- LOAD_COMPLETE. R164: the idx-th outstanding access of the carrel completes -/
  | loadComplete (core carrel idx : Nat)
  /-- WAIT_RESUME. R39: a parked carrel's awaited condition holds -/
  | waitResume (core carrel : Nat)
  /-- FILL_DATA_RETURN. R136: count more bytes reach the idx-th Filling L1F folio -/
  | fillDataReturn (core idx count : Nat)
  /-- SOFT_ERROR_DETECTED. R145, R278: an uncorrectable soft error is found -/
  | softErrorDetected (target : SoftTarget)
  /-- CORRECTED_ERROR. R279: an ECC correction; user is the logical core whose launch uses the data -/
  | correctedError (cluster phys : Nat) (user : Option Nat)
  /-- HEALTH_LEAK. R288: a LEAK interval has passed -/
  | healthLeak (cluster phys : Nat)
  /-- HEALTH_RQ_WRITE. R288: 1 is written to RQ -/
  | healthRqWrite (cluster phys : Nat)
  /-- EVAC_LIMIT_EXPIRY. R289: EVAC_LIMIT cycles have passed -/
  | evacLimitExpiry (cluster : Nat)
  /-- RESHELVE_COPY. R289: step 3 of reshelving -/
  | reshelveCopy (cluster : Nat)
  /-- RESHELVE_MAP_RELEASE. R289: steps 4 and 5 of reshelving -/
  | reshelveMapRelease (cluster : Nat)
  /-- CORE_FAILURE. R292: a physical core cannot be read -/
  | coreFailure (cluster phys : Nat)
  /-- CATALOGUE_GETS. R157: the home serves a fill request -/
  | catalogueGets (die idx : Nat)
  /-- CATALOGUE_GETO. R157: the home serves an ownership request -/
  | catalogueGeto (die idx : Nat)
  /-- CATALOGUE_UNCR. R157: the home serves an uncached read -/
  | catalogueUncr (die idx : Nat)
  /-- CATALOGUE_UNCW. R157: the home serves an uncached write -/
  | catalogueUncw (die idx : Nat)
  /-- CATALOGUE_EVN. R157: the home processes an eviction notice -/
  | catalogueEvn (die idx : Nat)
  /-- CATALOGUE_EACK. R156: a Dirty eviction is confirmed -/
  | catalogueEack (cluster idx : Nat)
  /-- CATALOGUE_INV. R141: an L2F serves an invalidation -/
  | catalogueInv (cluster idx : Nat)
  /-- CATALOGUE_IACK. R157: the home counts an invalidation acknowledgement -/
  | catalogueIack (die idx : Nat)
  /-- CATALOGUE_FETCH. R143: an L2F writes back for a fetch -/
  | catalogueFetch (cluster idx : Nat)
  /-- CATALOGUE_FACK. R157: the home counts a fetch acknowledgement -/
  | catalogueFack (die idx : Nat)
  /-- CATALOGUE_DISC. R159: an L2F answers a discovery -/
  | catalogueDisc (cluster idx : Nat)
  /-- CATALOGUE_DACK. R159: the home counts a discovery reply -/
  | catalogueDack (die idx : Nat)
  /-- CATALOGUE_DATA. R156: a requester receives data -/
  | catalogueData (cluster idx : Nat)
  /-- CATALOGUE_GRANT. R157: a requester receives ownership -/
  | catalogueGrant (cluster idx : Nat)
  /-- CATALOGUE_REPLACEMENT. R159: the home replaces an entry -/
  | catalogueReplacement (die : Nat)
  /-- TRACT_MERGE. R158: two quiet sibling entries merge -/
  | tractMerge (die base : Nat)
  /-- SPACE2_ACCESS_ARRIVAL. R150: a remote scratchpad access reaches its core -/
  | space2AccessArrival (cluster idx : Nat)
  /-- PEER_REQUEST_ARRIVAL. R310: a peer's request reaches this module -/
  | peerRequestArrival (req : PeerReq)
  /-- REMOTE_RESPONSE. R102: a remote access is answered -/
  | remoteResponse (id : Nat) (resp : RemoteResp)
  /-- FABLIM_TIMEOUT. R309: no response within FABLIM -/
  | fablimTimeout (id : Nat)
  /-- FLIT_ROUTE. R301: one router assigns its flits to ports -/
  | flitRoute (cluster : Nat)
  /-- LINK_FLIT_RECEIVE. R306: a link flit arrives, carrying msgs -/
  | linkFlitReceive (port : Nat) (flit : List Byte) (msgs : List PeerReq)
  /-- LINK_REPLAY. R306: the sender replays -/
  | linkReplay (port : Nat)
  /-- PORT_DOWN. R309: a port is declared down -/
  | portDown (port : Nat)
  /-- SIPH_ACCEPT. R187: a channel accepts a command of the commit queue -/
  | siphAccept (core idx : Nat)
  /-- SIPH_ELEMENT_WRITE. R188: the channel's next destination write -/
  | siphElementWrite (core ch : Nat)
  /-- SIPH_DONE. R188: the channel's command completes -/
  | siphDone (core ch : Nat)
  /-- SIPH_FAULT. R191: the channel's command fails -/
  | siphFault (core ch : Nat)
  /-- SGATH_ACCEPT. R196: a channel accepts a gather -/
  | sgathAccept (core idx : Nat)
  /-- SCFG_APPLY. R193: drained channel options take effect -/
  | scfgApply (core idx : Nat)
  /-- STREAM_FETCH. R197: a read stream fetches its next element -/
  | streamFetch (core carrel reg : Nat)
  /-- STREAM_CONVERT. R197: a write-stream element becomes a store -/
  | streamConvert (core carrel reg : Nat)
  /-- BARM_APPLY. R336: a drained initialisation -/
  | barmApply (core idx : Nat)
  /-- BARB_APPLY. R336: a drained count -/
  | barbApply (core idx : Nat)
  /-- BARR_UPDATE. R336: the carrel's arrival at the barrier object -/
  | barrUpdate (core carrel : Nat)
  /-- BWAIT_TIMEOUT. R200: a BWAIT reaches BTMO -/
  | bwaitTimeout (core carrel : Nat)
  /-- LWAIT_TIMEOUT. R210: an LWAIT reaches LTMO -/
  | lwaitTimeout (core carrel : Nat)
  /-- IDLE_TIMEOUT. R361: an IDLE count expires -/
  | idleTimeout (core carrel : Nat)
  /-- CISTERN_MERGE. R214: a drained join merges into the die replica -/
  | cisternMerge (core idx : Nat)
  /-- REPLICA_PUSH. R214: an L2F joins a pushed value -/
  | replicaPush (cluster idx : Nat)
  /-- PUMP_ROUND_START. R217: a participant starts its next round -/
  | pumpRoundStart (part range : Nat)
  /-- PUMP_BLOCK_RECEIVE. R216: a block in flight is received -/
  | pumpBlockReceive (idx : Nat)
  /-- PUMP_BLOCK_ACK. R216: a block's acknowledgement is received -/
  | pumpBlockAck (idx : Nat)
  /-- ENGINE_QUEUE_ENTRY. R270: an engine command enters the queue -/
  | engineQueueEntry (core idx : Nat)
  /-- ENGINE_COMMAND_START. R271: the head command starts -/
  | engineCommandStart (cluster : Nat)
  /-- ENGINE_COMMAND_COMPLETE. R266: the running command finishes -/
  | engineCommandComplete (cluster : Nat)
  /-- MACST_WRITE. R265: the running MACST writes its next element -/
  | macstWrite (cluster : Nat)
  /-- MIGRATION. R274: a queued MMA migrates to the neighbour -/
  | migration (cluster idx : Nat)
  /-- MIGRATED_MMA_START. R271: the neighbour starts the migrated MMA -/
  | migratedMmaStart (cluster : Nat)
  /-- MIGRATION_RETURN. R274: the neighbour returns the accumulator -/
  | migrationReturn (cluster : Nat)
  /-- PAIR_COMPARE. R286: outbox hashes are compared -/
  | pairCompare (core carrel : Nat)
  /-- TWIN_SYNC_WORD. R284: the twin takes the primary's result -/
  | twinSyncWord (core carrel : Nat)
  /-- GRAPH_LOAD. R232: HCMD LOAD -/
  | graphLoad (w : Word) (host : Bool)
  /-- GRAPH_UNLOAD. R232: HCMD UNLOAD -/
  | graphUnload (w : Word) (host : Bool)
  /-- NODE_RELEASE. R240: HCMD RELEASE -/
  | nodeRelease (w : Word) (host : Bool)
  /-- NODE_CANCEL. R240: HCMD CANCEL -/
  | nodeCancel (w : Word) (host : Bool)
  /-- HCMD_INVALID. R232: an HCMD operation unknown or not permitted -/
  | hcmdInvalid (w : Word) (host : Bool)
  /-- HCMD_PARTIAL_WRITE. R232: a 4-byte write to HCMD -/
  | hcmdPartialWrite (off : Nat) (w : BitVec 32)
  /-- TRIGGER_WRITE. R234: a write of size bytes to TRIG -/
  | triggerWrite (q size : Nat) (w : Word)
  /-- INSTANCE_START. R234: the head trigger of a queue starts -/
  | instanceStart (q : Nat)
  /-- KERNEL_RESERVE. R237: a ready kernel node -/
  | kernelReserve (inst node : Nat)
  /-- LAUNCH_FINISH. R50: a launch finishes -/
  | launchFinish (idx : Nat)
  /-- SIPH_NODE_START. R229: a ready SIPH node -/
  | siphNodeStart (inst node : Nat)
  /-- BARRIER_NODE_START. R230: a ready BARRIER node -/
  | barrierNodeStart (inst node : Nat)
  /-- NOTIFY_HOST_NODE_START. R231: a ready NOTIFY-HOST node -/
  | notifyHostNodeStart (inst node : Nat)
  /-- NOTIFY_HOST_READBACK. R231: the host read-back completes -/
  | notifyHostReadback (inst node : Nat) (ok : Bool)
  /-- PARTITION_SWITCH_OUT. R312: steps 1 and 2 of a switch-out -/
  | partitionSwitchOut (ctx : Nat)
  /-- PARTITION_DRAIN_DONE. R312: steps 3 and 4 of a switch-out -/
  | partitionDrainDone (ctx : Nat)
  /-- PARTITION_SWITCH_IN. R314: a partition is restored -/
  | partitionSwitchIn (ctx colour : Nat)
  /-- MODULE_RESET. R320: reset, with what the hub ROM finds -/
  | moduleReset (boot : BootInput)
  /-- BOOT_STAGE_ADVANCE. R321: the resident OS completes a boot step -/
  | bootStageAdvance
  /-- BAR2_READ. R318: a host read through BAR2 -/
  | bar2Read (off count : Nat)
  /-- BAR2_WRITE. R318: a host write through BAR2 -/
  | bar2Write (off : Nat) (data : List Byte)
  /-- W2BASE_WRITE. R318: a write to W2BASE -/
  | w2baseWrite (w : Word)
  /-- BAR0_INVALID_ACCESS. R317: an access BAR0 does not accept -/
  | bar0InvalidAccess (off size : Nat) (write : Bool)
  /-- REGISTER_WRITE. R4: a write to a hub register -/
  | registerWrite (r : HubReg) (w : Word)
  /-- TIME_TICK. R304: one 1 GHz tick -/
  | timeTick
  /-- MESSAGE_RETRY. R29: the sender retries a refused message -/
  | messageRetry (core idx : Nat)
  /-- SHELF_MAP_WRITE. R293: the resident OS writes a shelf-map entry -/
  | shelfMapWrite (cluster : Nat) (w : Cap)
  /-- CONTEXT_CREATION. R171: the resident OS creates a context -/
  | contextCreation (init : CtxInit)
  /-- CISTERN_RANGE_CREATION. R206: the resident OS creates a cistern range -/
  | cisternRangeCreation (init : RangeInit)
  /-- ENGINE_ALLOTMENT. R255: the resident OS allots engine tiles and accumulators -/
  | engineAllotment (cluster ctx tlb tln alb aln : Nat)
  /-- ACTIVATION_REMOVAL. R43: the resident OS removes a parked activation -/
  | activationRemoval (core carrel : Nat)
  deriving DecidableEq, Repr

/-- The rows without an encoding (the events of the table). -/
def Instr.isEvent : Instr → Bool
  | .add _ _ _ _ => false
  | .sub _ _ _ _ => false
  | .and_ _ _ _ _ => false
  | .or_ _ _ _ _ => false
  | .xor_ _ _ _ _ => false
  | .shl _ _ _ _ => false
  | .shr _ _ _ _ => false
  | .sra _ _ _ _ => false
  | .mul _ _ _ _ => false
  | .mulh _ _ _ _ => false
  | .mulhu _ _ _ _ => false
  | .div _ _ _ _ => false
  | .divu _ _ _ _ => false
  | .rem _ _ _ _ => false
  | .remu _ _ _ _ => false
  | .min _ _ _ _ => false
  | .max _ _ _ _ => false
  | .minu _ _ _ _ => false
  | .maxu _ _ _ _ => false
  | .clz _ _ _ => false
  | .popc _ _ _ => false
  | .sel _ _ _ => false
  | .sext _ _ _ => false
  | .zext _ _ _ => false
  | .cmp _ _ _ _ _ => false
  | .addi _ _ _ => false
  | .andi _ _ _ => false
  | .ori _ _ _ => false
  | .xori _ _ _ => false
  | .shli _ _ _ => false
  | .shri _ _ _ => false
  | .srai _ _ _ => false
  | .cmpi _ _ _ _ => false
  | .movi _ _ => false
  | .bfxU _ _ _ _ => false
  | .bfxS _ _ _ _ => false
  | .bfi _ _ _ _ => false
  | .cbnd _ _ _ => false
  | .cperm _ _ _ => false
  | .cinc _ _ _ => false
  | .cget _ _ _ => false
  | .ctest _ _ _ => false
  | .cseta _ _ _ => false
  | .cinci _ _ _ => false
  | .ld _ _ _ _ => false
  | .st _ _ _ _ => false
  | .vld _ _ _ _ => false
  | .vst _ _ _ _ => false
  | .vlds _ _ _ _ _ => false
  | .vsts _ _ _ _ _ => false
  | .vgath _ _ _ _ _ => false
  | .vscat _ _ _ _ _ => false
  | .amo _ _ _ _ _ _ => false
  | .amoNoReturn _ _ _ _ _ => false
  | .cas _ _ _ _ _ => false
  | .fence _ _ _ => false
  | .pref _ _ => false
  | .wbr _ _ => false
  | .invr _ _ => false
  | .wbri _ _ => false
  | .ljoin _ _ _ => false
  | .lwait _ _ _ _ => false
  | .fadd _ _ _ _ => false
  | .fsub _ _ _ _ => false
  | .fmul _ _ _ _ => false
  | .fdiv _ _ _ _ => false
  | .fsqrt _ _ _ => false
  | .fmin _ _ _ _ => false
  | .fmax _ _ _ _ => false
  | .ffma _ _ _ _ => false
  | .fcmp _ _ _ _ _ => false
  | .fcvt _ _ _ _ => false
  | .vadd _ _ _ _ _ => false
  | .vsub _ _ _ _ _ => false
  | .vmul _ _ _ _ _ => false
  | .vmin _ _ _ _ _ => false
  | .vmax _ _ _ _ _ => false
  | .vminu _ _ _ _ _ => false
  | .vmaxu _ _ _ _ _ => false
  | .vand _ _ _ _ _ => false
  | .vor _ _ _ _ _ => false
  | .vxor _ _ _ _ _ => false
  | .vshl _ _ _ _ _ => false
  | .vshr _ _ _ _ _ => false
  | .vsra _ _ _ _ _ => false
  | .vcmp _ _ _ _ _ _ => false
  | .vfadd _ _ _ _ _ => false
  | .vfsub _ _ _ _ _ => false
  | .vfmul _ _ _ _ _ => false
  | .vfma _ _ _ _ _ => false
  | .vfmin _ _ _ _ _ => false
  | .vfmax _ _ _ _ _ => false
  | .vfdiv _ _ _ _ _ => false
  | .vfsqrt _ _ _ _ => false
  | .vfcmp _ _ _ _ _ _ => false
  | .vbcast _ _ _ => false
  | .vins _ _ _ _ => false
  | .vext _ _ _ _ => false
  | .vred _ _ _ _ => false
  | .mtoc _ _ _ => false
  | .ctom _ _ _ => false
  | .mcnt _ _ _ => false
  | .vsel _ _ _ _ _ => false
  | .vperm _ _ _ _ _ => false
  | .viota _ _ _ => false
  | .vcvt _ _ _ _ _ => false
  | .vmov _ _ _ _ => false
  | .mop _ _ _ _ => false
  | .b _ => false
  | .bc _ _ _ _ => false
  | .bm _ _ _ _ => false
  | .call _ => false
  | .jr _ => false
  | .callr _ => false
  | .ret => false
  | .end_ => false
  | .send _ _ _ _ => false
  | .rput _ _ _ _ => false
  | .pclr _ => false
  | .tagctlEn _ => false
  | .tagctlDis _ => false
  | .tagctlPrio _ _ => false
  | .tagctlAddr _ _ => false
  | .tagctlMode _ _ => false
  | .tagctlGate _ _ _ => false
  | .tagctlCap _ _ _ => false
  | .tagctlStat _ _ => false
  | .sbind _ _ _ => false
  | .sunbind _ => false
  | .sstat _ _ => false
  | .siph _ _ _ _ => false
  | .sgath _ _ _ _ => false
  | .scfg _ _ => false
  | .swmr _ _ _ => false
  | .barm _ _ => false
  | .barb _ _ => false
  | .barr _ _ => false
  | .bwait _ _ _ => false
  | .tdset _ _ => false
  | .tdget _ _ => false
  | .tdgetSt _ _ => false
  | .tdgetAcc _ _ => false
  | .mma _ _ _ _ => false
  | .macz _ _ => false
  | .macst _ _ _ _ => false
  | .locqWhere _ _ => false
  | .locqEpoch _ => false
  | .locqHops _ _ => false
  | .scpset _ _ => false
  | .scpget _ _ => false
  | .sysr _ _ => false
  | .sysw _ _ => false
  | .syswRttw _ => false
  | .syswTwin _ => false
  | .syswScpbase _ => false
  | .trap _ => false
  | .eret => false
  | .rtinv _ => false
  | .idle _ => false
  | .halt => false
  | .hintImm _ => false
  | .hintScope _ => false
  | .hintYield _ => false
  | .hintCache _ => false
  | .hintDisp _ => false
  | .hintPrio => false
  | .hintNop => false
  | .illegalInstruction _ => false
  | .haltedCarrelRelease _ _ => true
  | .messageArrival _ _ => true
  | .rputArrival _ _ => true
  | .dispatch _ => true
  | .eprioAging _ _ => true
  | .yieldPeriodExpiry _ _ => true
  | .outboxHandoff _ _ => true
  | .commitEntryPerform _ _ => true
  | .messageInject _ _ => true
  | .streamAck _ _ => true
  | .loadComplete _ _ _ => true
  | .waitResume _ _ => true
  | .fillDataReturn _ _ _ => true
  | .softErrorDetected _ => true
  | .correctedError _ _ _ => true
  | .healthLeak _ _ => true
  | .healthRqWrite _ _ => true
  | .evacLimitExpiry _ => true
  | .reshelveCopy _ => true
  | .reshelveMapRelease _ => true
  | .coreFailure _ _ => true
  | .catalogueGets _ _ => true
  | .catalogueGeto _ _ => true
  | .catalogueUncr _ _ => true
  | .catalogueUncw _ _ => true
  | .catalogueEvn _ _ => true
  | .catalogueEack _ _ => true
  | .catalogueInv _ _ => true
  | .catalogueIack _ _ => true
  | .catalogueFetch _ _ => true
  | .catalogueFack _ _ => true
  | .catalogueDisc _ _ => true
  | .catalogueDack _ _ => true
  | .catalogueData _ _ => true
  | .catalogueGrant _ _ => true
  | .catalogueReplacement _ => true
  | .tractMerge _ _ => true
  | .space2AccessArrival _ _ => true
  | .peerRequestArrival _ => true
  | .remoteResponse _ _ => true
  | .fablimTimeout _ => true
  | .flitRoute _ => true
  | .linkFlitReceive _ _ _ => true
  | .linkReplay _ => true
  | .portDown _ => true
  | .siphAccept _ _ => true
  | .siphElementWrite _ _ => true
  | .siphDone _ _ => true
  | .siphFault _ _ => true
  | .sgathAccept _ _ => true
  | .scfgApply _ _ => true
  | .streamFetch _ _ _ => true
  | .streamConvert _ _ _ => true
  | .barmApply _ _ => true
  | .barbApply _ _ => true
  | .barrUpdate _ _ => true
  | .bwaitTimeout _ _ => true
  | .lwaitTimeout _ _ => true
  | .idleTimeout _ _ => true
  | .cisternMerge _ _ => true
  | .replicaPush _ _ => true
  | .pumpRoundStart _ _ => true
  | .pumpBlockReceive _ => true
  | .pumpBlockAck _ => true
  | .engineQueueEntry _ _ => true
  | .engineCommandStart _ => true
  | .engineCommandComplete _ => true
  | .macstWrite _ => true
  | .migration _ _ => true
  | .migratedMmaStart _ => true
  | .migrationReturn _ => true
  | .pairCompare _ _ => true
  | .twinSyncWord _ _ => true
  | .graphLoad _ _ => true
  | .graphUnload _ _ => true
  | .nodeRelease _ _ => true
  | .nodeCancel _ _ => true
  | .hcmdInvalid _ _ => true
  | .hcmdPartialWrite _ _ => true
  | .triggerWrite _ _ _ => true
  | .instanceStart _ => true
  | .kernelReserve _ _ => true
  | .launchFinish _ => true
  | .siphNodeStart _ _ => true
  | .barrierNodeStart _ _ => true
  | .notifyHostNodeStart _ _ => true
  | .notifyHostReadback _ _ _ => true
  | .partitionSwitchOut _ => true
  | .partitionDrainDone _ => true
  | .partitionSwitchIn _ _ => true
  | .moduleReset _ => true
  | .bootStageAdvance => true
  | .bar2Read _ _ => true
  | .bar2Write _ _ => true
  | .w2baseWrite _ => true
  | .bar0InvalidAccess _ _ _ => true
  | .registerWrite _ _ => true
  | .timeTick => true
  | .messageRetry _ _ => true
  | .shelfMapWrite _ _ => true
  | .contextCreation _ => true
  | .cisternRangeCreation _ => true
  | .engineAllotment _ _ _ _ _ _ => true
  | .activationRemoval _ _ => true

end Sys2Proof
end

