-- ==== Sys2Proof/WellFormed.lean ====
section
/-! DEFINITION. The checks of an instruction that its types leave open: the field combinations that R73 to R85 call
illegal although each field alone holds a listed value. An ill-formed instruction has no word of its own: its word
raises the illegal-instruction cause. -/

namespace Sys2Proof

/-- The number of parts a VCVT divides its wider register into: the ratio of the two widths (R406). -/
def VcvtCode.ratio : VcvtCode → Nat
  | .f32OfBf16 | .bf16OfF32 | .f64OfF32 | .f32OfF64 | .e4m3OfBf16 | .bf16OfE4m3 | .i32OfI16 | .i16OfI32 => 2
  | .e4m3OfF32 | .f32OfE4m3 | .i32OfI8 | .i8OfI32 => 4
  | .f32OfI32 | .f32OfN32 | .i32OfF32 | .n32OfF32 | .i32tOfF32 | .f64OfI64 | .i64OfF64 | .i64tOfF64 => 1

/-- SYSR reads every register of R67 but RTTW. -/
def SysReg.readable : SysReg → Bool
  | .rttw => false
  | _ => true

/-- SYSW writes these registers (R67); the rows of RTTW, TWIN and SCPBASE are separate. -/
def SysReg.writable : SysReg → Bool
  | .status | .cause | .epc | .tval | .tvec | .deadmask | .fpc | .ltmo | .btmo | .ctxid | .deferr => true
  | .coord | .epoch | .time | .twin | .scpbase | .caplist | .rttw => false

/-- The checks over several fields of one instruction. -/
def Instr.wellFormed : Instr → Bool
  -- R73, R339: position plus length may not pass 64
  | .bfxU _ _ p l | .bfxS _ _ p l | .bfi _ _ p l => p.toNat + l.toNat + 1 ≤ 64
  -- R331: with d = c0 the word is the no-return form
  | .amo d _ _ _ _ _ => d ≠ 0
  -- R377: n of 0 to 8, the registers within c0 to c63, d zero when it is not used
  | .send d _ _ n => n.toNat ≤ 8 && d.toNat + n.toNat ≤ 64 && (n ≠ 0 || d = 0)
  -- R406: the part names a slice of the wider register
  | .vcvt _ _ c _ p => p.toNat < c.ratio
  -- R173: b[5] is zero, and SCPSET names an id of 6 to 31
  | .scpset _ i => 6 ≤ i.toNat && i.toNat < 32
  | .scpget _ i => i.toNat < 32
  -- R67
  | .sysr _ n => n.readable
  | .sysw _ n => n.writable
  | _ => true

end Sys2Proof
end

