-- ==== Sys2Proof/Decode.lean ====
section
/-! DEFINITION. Decoding an instruction word and, after it, encoding an instruction, both written from the formats
of R71 and the opcode map of R73 to R82. `decodeWord` is total and rejects by name; the machine turns a rejected word
into the row ILLEGAL_INSTRUCTION (R85). -/

namespace Sys2Proof

/-- Why a word is no instruction (R85, case 2). -/
inductive DecodeError where
  /-- a major opcode that R73 leaves without instructions -/
  | reservedMajor
  /-- a hint kind of 7 to 15 (R80) -/
  | reservedHint
  /-- an unlisted function, condition, width or conversion code, a register number beyond its file, or a non-zero
  field that must be zero (R71 to R82) -/
  | illegalField
  /-- fields whose values together are illegal, as a bit field that passes bit 63 (R73) -/
  | illegalOperands
  deriving DecidableEq, Repr

/-- The `n` bits of `w` from bit `lo` up, as a number (R7: x[msb:lsb]). -/
def fld (w : Insn) (lo n : Nat) : Nat := w.toNat / 2 ^ lo % 2 ^ n

/-- The `n` bits of `w` from bit `lo` up. -/
def bits (w : Insn) (lo n : Nat) : BitVec n := BitVec.ofNat n (fld w lo n)

/-- Bit `lo` of `w`. -/
def bit (w : Insn) (lo : Nat) : Bool := fld w lo 1 == 1

/-- The 6-bit code of a `ExtCode`. -/
def ExtCode.code : ExtCode → Nat
  | .b => 0 | .h => 1 | .w => 2

/-- The `ExtCode` of a code, if it names one. -/
def ExtCode.ofCode : Nat → Option ExtCode
  | 0 => some .b | 1 => some .h | 2 => some .w
  | _ => none

/-- The 4-bit code of a `Cond`. -/
def Cond.code : Cond → Nat
  | .eq => 0 | .ne => 1 | .lt => 2 | .ge => 3 | .ltu => 4 | .geu => 5 | .gt => 6 | .le => 7 | .gtu => 8 | .leu => 9

/-- The `Cond` of a code, if it names one. -/
def Cond.ofCode : Nat → Option Cond
  | 0 => some .eq | 1 => some .ne | 2 => some .lt | 3 => some .ge | 4 => some .ltu | 5 => some .geu
  | 6 => some .gt | 7 => some .le | 8 => some .gtu | 9 => some .leu
  | _ => none

/-- The 6-bit code of a `CapField`. -/
def CapField.code : CapField → Nat
  | .addr => 0 | .base => 1 | .top => 2 | .perms => 3 | .tag => 4 | .gran => 5

/-- The `CapField` of a code, if it names one. -/
def CapField.ofCode : Nat → Option CapField
  | 0 => some .addr | 1 => some .base | 2 => some .top | 3 => some .perms | 4 => some .tag | 5 => some .gran
  | _ => none

/-- The 3-bit code of a `LdWidth`. -/
def LdWidth.code : LdWidth → Nat
  | .b => 0 | .h => 1 | .w => 2 | .d => 3 | .q => 4 | .bu => 5 | .hu => 6 | .wu => 7

/-- The `LdWidth` of a code, if it names one. -/
def LdWidth.ofCode : Nat → Option LdWidth
  | 0 => some .b | 1 => some .h | 2 => some .w | 3 => some .d | 4 => some .q | 5 => some .bu
  | 6 => some .hu | 7 => some .wu
  | _ => none

/-- The 3-bit code of a `StWidth`. -/
def StWidth.code : StWidth → Nat
  | .b => 0 | .h => 1 | .w => 2 | .d => 3 | .q => 4

/-- The `StWidth` of a code, if it names one. -/
def StWidth.ofCode : Nat → Option StWidth
  | 0 => some .b | 1 => some .h | 2 => some .w | 3 => some .d | 4 => some .q
  | _ => none

/-- The 2-bit code of a `ElemWidth`. -/
def ElemWidth.code : ElemWidth → Nat
  | .e8 => 0 | .e16 => 1 | .e32 => 2 | .e64 => 3

/-- The `ElemWidth` of a code, if it names one. -/
def ElemWidth.ofCode : Nat → Option ElemWidth
  | 0 => some .e8 | 1 => some .e16 | 2 => some .e32 | 3 => some .e64
  | _ => none

/-- The 2-bit code of a `WideElem`. -/
def WideElem.code : WideElem → Nat
  | .e32 => 2 | .e64 => 3

/-- The `WideElem` of a code, if it names one. -/
def WideElem.ofCode : Nat → Option WideElem
  | 2 => some .e32 | 3 => some .e64
  | _ => none

/-- The 3-bit code of a `Order`. -/
def Order.code : Order → Nat
  | .rlx => 0 | .acq => 1 | .rel => 2 | .ar => 3 | .sc => 4

/-- The `Order` of a code, if it names one. -/
def Order.ofCode : Nat → Option Order
  | 0 => some .rlx | 1 => some .acq | 2 => some .rel | 3 => some .ar | 4 => some .sc
  | _ => none

/-- The 4-bit code of a `AmoOp`. -/
def AmoOp.code : AmoOp → Nat
  | .add => 0 | .and => 1 | .or => 2 | .xor => 3 | .min => 4 | .max => 5 | .minu => 6 | .maxu => 7 | .swap => 8

/-- The `AmoOp` of a code, if it names one. -/
def AmoOp.ofCode : Nat → Option AmoOp
  | 0 => some .add | 1 => some .and | 2 => some .or | 3 => some .xor | 4 => some .min | 5 => some .max
  | 6 => some .minu | 7 => some .maxu | 8 => some .swap
  | _ => none

/-- The 2-bit code of a `FpFmt`. -/
def FpFmt.code : FpFmt → Nat
  | .fp32 => 1 | .fp64 => 2

/-- The `FpFmt` of a code, if it names one. -/
def FpFmt.ofCode : Nat → Option FpFmt
  | 1 => some .fp32 | 2 => some .fp64
  | _ => none

/-- The 2-bit code of a `VfFmt`. -/
def VfFmt.code : VfFmt → Nat
  | .bf16 => 0 | .fp32 => 1 | .fp64 => 2

/-- The `VfFmt` of a code, if it names one. -/
def VfFmt.ofCode : Nat → Option VfFmt
  | 0 => some .bf16 | 1 => some .fp32 | 2 => some .fp64
  | _ => none

/-- The 2-bit code of a `FcmpOp`. -/
def FcmpOp.code : FcmpOp → Nat
  | .eq => 0 | .lt => 1 | .le => 2 | .un => 3

/-- The `FcmpOp` of a code, if it names one. -/
def FcmpOp.ofCode : Nat → Option FcmpOp
  | 0 => some .eq | 1 => some .lt | 2 => some .le | 3 => some .un
  | _ => none

/-- The 6-bit code of a `FcvtCode`. -/
def FcvtCode.code : FcvtCode → Nat
  | .fOfOther => 0 | .fOfI64 => 1 | .fOfN64 => 2 | .fOfI32 => 3 | .fOfN32 => 4 | .i64OfF => 8 | .n64OfF => 9 | .i32OfF => 10 | .n32OfF => 11 | .i64tOfF => 12 | .i32tOfF => 13 | .bf16OfF => 16 | .fOfBf16 => 17 | .e4m3OfF => 18 | .fOfE4m3 => 19

/-- The `FcvtCode` of a code, if it names one. -/
def FcvtCode.ofCode : Nat → Option FcvtCode
  | 0 => some .fOfOther | 1 => some .fOfI64 | 2 => some .fOfN64 | 3 => some .fOfI32 | 4 => some .fOfN32 | 8 => some .i64OfF
  | 9 => some .n64OfF | 10 => some .i32OfF | 11 => some .n32OfF | 12 => some .i64tOfF | 13 => some .i32tOfF | 16 => some .bf16OfF
  | 17 => some .fOfBf16 | 18 => some .e4m3OfF | 19 => some .fOfE4m3
  | _ => none

/-- The 5-bit code of a `VcvtCode`. -/
def VcvtCode.code : VcvtCode → Nat
  | .f32OfBf16 => 0 | .bf16OfF32 => 1 | .f64OfF32 => 2 | .f32OfF64 => 3 | .e4m3OfF32 => 4 | .f32OfE4m3 => 5 | .e4m3OfBf16 => 6 | .bf16OfE4m3 => 7 | .f32OfI32 => 8 | .f32OfN32 => 9 | .i32OfF32 => 10 | .n32OfF32 => 11 | .i32tOfF32 => 12 | .f64OfI64 => 13 | .i64OfF64 => 14 | .i64tOfF64 => 15 | .i32OfI8 => 16 | .i32OfI16 => 17 | .i8OfI32 => 18 | .i16OfI32 => 19

/-- The `VcvtCode` of a code, if it names one. -/
def VcvtCode.ofCode : Nat → Option VcvtCode
  | 0 => some .f32OfBf16 | 1 => some .bf16OfF32 | 2 => some .f64OfF32 | 3 => some .f32OfF64 | 4 => some .e4m3OfF32 | 5 => some .f32OfE4m3
  | 6 => some .e4m3OfBf16 | 7 => some .bf16OfE4m3 | 8 => some .f32OfI32 | 9 => some .f32OfN32 | 10 => some .i32OfF32 | 11 => some .n32OfF32
  | 12 => some .i32tOfF32 | 13 => some .f64OfI64 | 14 => some .i64OfF64 | 15 => some .i64tOfF64 | 16 => some .i32OfI8 | 17 => some .i32OfI16
  | 18 => some .i8OfI32 | 19 => some .i16OfI32
  | _ => none

/-- The 3-bit code of a `RedOp`. -/
def RedOp.code : RedOp → Nat
  | .add => 0 | .min => 1 | .max => 2 | .minu => 3 | .maxu => 4 | .and => 5 | .or => 6 | .xor => 7

/-- The `RedOp` of a code, if it names one. -/
def RedOp.ofCode : Nat → Option RedOp
  | 0 => some .add | 1 => some .min | 2 => some .max | 3 => some .minu | 4 => some .maxu | 5 => some .and
  | 6 => some .or | 7 => some .xor
  | _ => none

/-- The 2-bit code of a `MaskOp`. -/
def MaskOp.code : MaskOp → Nat
  | .and => 0 | .or => 1 | .xor => 2 | .andn => 3

/-- The `MaskOp` of a code, if it names one. -/
def MaskOp.ofCode : Nat → Option MaskOp
  | 0 => some .and | 1 => some .or | 2 => some .xor | 3 => some .andn
  | _ => none

/-- The 4-bit code of a `MaskCond`. -/
def MaskCond.code : MaskCond → Nat
  | .none => 0 | .any => 1 | .all => 2 | .nall => 3

/-- The `MaskCond` of a code, if it names one. -/
def MaskCond.ofCode : Nat → Option MaskCond
  | 0 => some .none | 1 => some .any | 2 => some .all | 3 => some .nall
  | _ => Option.none

/-- The 6-bit code of a `SwmrSel`. -/
def SwmrSel.code : SwmrSel → Nat
  | .status => 0 | .dlo => 1 | .fault => 2

/-- The `SwmrSel` of a code, if it names one. -/
def SwmrSel.ofCode : Nat → Option SwmrSel
  | 0 => some .status | 1 => some .dlo | 2 => some .fault
  | _ => none

/-- The 2-bit code of a `AccKind`. -/
def AccKind.code : AccKind → Nat
  | .f32 => 0 | .i32 => 1 | .f32s => 2 | .f64 => 3

/-- The `AccKind` of a code, if it names one. -/
def AccKind.ofCode : Nat → Option AccKind
  | 0 => some .f32 | 1 => some .i32 | 2 => some .f32s | 3 => some .f64
  | _ => none

/-- The 6-bit code of a `SysReg`. -/
def SysReg.code : SysReg → Nat
  | .status => 0 | .cause => 1 | .epc => 2 | .tval => 3 | .tvec => 4 | .deadmask => 5 | .fpc => 6 | .ltmo => 7 | .btmo => 8 | .ctxid => 9 | .coord => 10 | .epoch => 11 | .time => 12 | .deferr => 13 | .twin => 14 | .scpbase => 15 | .caplist => 16 | .rttw => 17

/-- The `SysReg` of a code, if it names one. -/
def SysReg.ofCode : Nat → Option SysReg
  | 0 => some .status | 1 => some .cause | 2 => some .epc | 3 => some .tval | 4 => some .tvec | 5 => some .deadmask
  | 6 => some .fpc | 7 => some .ltmo | 8 => some .btmo | 9 => some .ctxid | 10 => some .coord | 11 => some .epoch
  | 12 => some .time | 13 => some .deferr | 14 => some .twin | 15 => some .scpbase | 16 => some .caplist | 17 => some .rttw
  | _ => none

/-- The 2-bit code of a `CachePol`. -/
def CachePol.code : CachePol → Nat
  | .nal1 => 0 | .nal2 => 1 | .stream => 2 | .keep => 3

/-- The `CachePol` of a code, if it names one. -/
def CachePol.ofCode : Nat → Option CachePol
  | 0 => some .nal1 | 1 => some .nal2 | 2 => some .stream | 3 => some .keep
  | _ => none

/-- Major opcode 0x01: ADD, SUB, AND, OR, XOR, SHL, SHR, SRA, MUL, MULH, MULHU, DIV, DIVU, REM, REMU, MIN, MAX, MINU, MAXU, CLZ, POPC, SEL, SEXT, ZEXT, CMP. -/
def decodeMajor01 (x : Insn) : Option Instr :=
  if fld x 0 7 = 0x0 then some (.add (bits x 20 6) (bits x 14 6) (bits x 8 6) (bit x 7)) else
  if fld x 0 7 = 0x1 then some (.sub (bits x 20 6) (bits x 14 6) (bits x 8 6) (bit x 7)) else
  if fld x 0 7 = 0x2 then some (.and_ (bits x 20 6) (bits x 14 6) (bits x 8 6) (bit x 7)) else
  if fld x 0 7 = 0x3 then some (.or_ (bits x 20 6) (bits x 14 6) (bits x 8 6) (bit x 7)) else
  if fld x 0 7 = 0x4 then some (.xor_ (bits x 20 6) (bits x 14 6) (bits x 8 6) (bit x 7)) else
  if fld x 0 7 = 0x5 then some (.shl (bits x 20 6) (bits x 14 6) (bits x 8 6) (bit x 7)) else
  if fld x 0 7 = 0x6 then some (.shr (bits x 20 6) (bits x 14 6) (bits x 8 6) (bit x 7)) else
  if fld x 0 7 = 0x7 then some (.sra (bits x 20 6) (bits x 14 6) (bits x 8 6) (bit x 7)) else
  if fld x 0 7 = 0x8 then some (.mul (bits x 20 6) (bits x 14 6) (bits x 8 6) (bit x 7)) else
  if fld x 0 7 = 0x9 then some (.mulh (bits x 20 6) (bits x 14 6) (bits x 8 6) (bit x 7)) else
  if fld x 0 7 = 0xA then some (.mulhu (bits x 20 6) (bits x 14 6) (bits x 8 6) (bit x 7)) else
  if fld x 0 7 = 0xB then some (.div (bits x 20 6) (bits x 14 6) (bits x 8 6) (bit x 7)) else
  if fld x 0 7 = 0xC then some (.divu (bits x 20 6) (bits x 14 6) (bits x 8 6) (bit x 7)) else
  if fld x 0 7 = 0xD then some (.rem (bits x 20 6) (bits x 14 6) (bits x 8 6) (bit x 7)) else
  if fld x 0 7 = 0xE then some (.remu (bits x 20 6) (bits x 14 6) (bits x 8 6) (bit x 7)) else
  if fld x 0 7 = 0xF then some (.min (bits x 20 6) (bits x 14 6) (bits x 8 6) (bit x 7)) else
  if fld x 0 7 = 0x10 then some (.max (bits x 20 6) (bits x 14 6) (bits x 8 6) (bit x 7)) else
  if fld x 0 7 = 0x11 then some (.minu (bits x 20 6) (bits x 14 6) (bits x 8 6) (bit x 7)) else
  if fld x 0 7 = 0x12 then some (.maxu (bits x 20 6) (bits x 14 6) (bits x 8 6) (bit x 7)) else
  if fld x 8 6 = 0x0 ∧ fld x 0 7 = 0x13 then some (.clz (bits x 20 6) (bits x 14 6) (bit x 7)) else
  if fld x 8 6 = 0x0 ∧ fld x 0 7 = 0x14 then some (.popc (bits x 20 6) (bits x 14 6) (bit x 7)) else
  if fld x 0 8 = 0x15 then some (.sel (bits x 20 6) (bits x 14 6) (bits x 8 6)) else
  if fld x 0 8 = 0x16 then ((ExtCode.ofCode (fld x 8 6)).map fun c => (.sext (bits x 20 6) (bits x 14 6) c)) else
  if fld x 0 8 = 0x17 then ((ExtCode.ofCode (fld x 8 6)).map fun c => (.zext (bits x 20 6) (bits x 14 6) c)) else
  if fld x 4 3 = 0x2 then ((Cond.ofCode (fld x 0 4)).map fun c => (.cmp (bits x 20 6) (bits x 14 6) (bits x 8 6) (bit x 7) c)) else
  none

/-- Major opcode 0x02: ADDI. -/
def decodeMajor02 (x : Insn) : Option Instr :=
  some (.addi (bits x 20 6) (bits x 14 6) (bits x 0 14))

/-- Major opcode 0x03: ANDI. -/
def decodeMajor03 (x : Insn) : Option Instr :=
  some (.andi (bits x 20 6) (bits x 14 6) (bits x 0 14))

/-- Major opcode 0x04: ORI. -/
def decodeMajor04 (x : Insn) : Option Instr :=
  some (.ori (bits x 20 6) (bits x 14 6) (bits x 0 14))

/-- Major opcode 0x05: XORI. -/
def decodeMajor05 (x : Insn) : Option Instr :=
  some (.xori (bits x 20 6) (bits x 14 6) (bits x 0 14))

/-- Major opcode 0x06: SHLI, SHRI, SRAI. -/
def decodeMajor06 (x : Insn) : Option Instr :=
  if fld x 6 8 = 0x0 then some (.shli (bits x 20 6) (bits x 14 6) (bits x 0 6)) else
  if fld x 6 8 = 0x40 then some (.shri (bits x 20 6) (bits x 14 6) (bits x 0 6)) else
  if fld x 6 8 = 0x80 then some (.srai (bits x 20 6) (bits x 14 6) (bits x 0 6)) else
  none

/-- Major opcode 0x07: CMPI. -/
def decodeMajor07 (x : Insn) : Option Instr :=
  ((Cond.ofCode (fld x 10 4)).map fun c => (.cmpi (bits x 20 6) (bits x 14 6) c (bits x 0 10)))

/-- Major opcode 0x08: MOVI. -/
def decodeMajor08 (x : Insn) : Option Instr :=
  some (.movi (bits x 20 6) (bits x 0 20))

/-- Major opcode 0x09: BFX_U, BFX_S, BFI. -/
def decodeMajor09 (x : Insn) : Option Instr :=
  if fld x 0 2 = 0x0 then some (.bfxU (bits x 20 6) (bits x 14 6) (bits x 8 6) (bits x 2 6)) else
  if fld x 0 2 = 0x1 then some (.bfxS (bits x 20 6) (bits x 14 6) (bits x 8 6) (bits x 2 6)) else
  if fld x 0 2 = 0x2 then some (.bfi (bits x 20 6) (bits x 14 6) (bits x 8 6) (bits x 2 6)) else
  none

/-- Major opcode 0x0A: CBND, CPERM, CINC, CGET, CTEST, CSETA. -/
def decodeMajor0A (x : Insn) : Option Instr :=
  if fld x 0 8 = 0x0 then some (.cbnd (bits x 20 6) (bits x 14 6) (bits x 8 6)) else
  if fld x 0 8 = 0x1 then some (.cperm (bits x 20 6) (bits x 14 6) (bits x 8 6)) else
  if fld x 0 8 = 0x2 then some (.cinc (bits x 20 6) (bits x 14 6) (bits x 8 6)) else
  if fld x 0 8 = 0x3 then ((CapField.ofCode (fld x 8 6)).map fun s => (.cget (bits x 20 6) (bits x 14 6) s)) else
  if fld x 0 8 = 0x4 then some (.ctest (bits x 20 6) (bits x 14 6) (bits x 8 6)) else
  if fld x 0 8 = 0x5 then some (.cseta (bits x 20 6) (bits x 14 6) (bits x 8 6)) else
  none

/-- Major opcode 0x0B: CINCI. -/
def decodeMajor0B (x : Insn) : Option Instr :=
  some (.cinci (bits x 20 6) (bits x 14 6) (bits x 0 14))

/-- Major opcode 0x0C: LD. -/
def decodeMajor0C (x : Insn) : Option Instr :=
  ((LdWidth.ofCode (fld x 11 3)).map fun w => (.ld (bits x 20 6) (bits x 14 6) w (bits x 0 11)))

/-- Major opcode 0x0D: ST. -/
def decodeMajor0D (x : Insn) : Option Instr :=
  ((StWidth.ofCode (fld x 11 3)).map fun w => (.st (bits x 20 6) (bits x 14 6) w (bits x 0 11)))

/-- Major opcode 0x0E: VLD. -/
def decodeMajor0E (x : Insn) : Option Instr :=
  some (.vld (bits x 21 5) (bits x 15 6) (bits x 12 3) (bits x 0 12))

/-- Major opcode 0x0F: VST. -/
def decodeMajor0F (x : Insn) : Option Instr :=
  some (.vst (bits x 21 5) (bits x 15 6) (bits x 12 3) (bits x 0 12))

/-- Major opcode 0x10: VLDS, VSTS. -/
def decodeMajor10 (x : Insn) : Option Instr :=
  if fld x 25 1 = 0x0 ∧ fld x 5 1 = 0x0 ∧ fld x 0 2 = 0x0 then ((ElemWidth.ofCode (fld x 6 2)).map fun w => (.vlds (bits x 20 5) (bits x 14 6) (bits x 8 6) w (bits x 2 3))) else
  if fld x 25 1 = 0x0 ∧ fld x 5 1 = 0x1 ∧ fld x 0 2 = 0x0 then ((ElemWidth.ofCode (fld x 6 2)).map fun w => (.vsts (bits x 20 5) (bits x 14 6) (bits x 8 6) w (bits x 2 3))) else
  none

/-- Major opcode 0x11: VGATH, VSCAT. -/
def decodeMajor11 (x : Insn) : Option Instr :=
  if fld x 25 1 = 0x0 ∧ fld x 13 1 = 0x0 ∧ fld x 5 1 = 0x0 ∧ fld x 0 2 = 0x0 then ((WideElem.ofCode (fld x 6 2)).map fun w => (.vgath (bits x 20 5) (bits x 14 6) (bits x 8 5) w (bits x 2 3))) else
  if fld x 25 1 = 0x0 ∧ fld x 13 1 = 0x0 ∧ fld x 5 1 = 0x1 ∧ fld x 0 2 = 0x0 then ((WideElem.ofCode (fld x 6 2)).map fun w => (.vscat (bits x 20 5) (bits x 14 6) (bits x 8 5) w (bits x 2 3))) else
  none

/-- Major opcode 0x12: AMO, AMO_NO_RETURN. -/
def decodeMajor12 (x : Insn) : Option Instr :=
  (Order.ofCode (fld x 5 3)).bind fun o => (AmoOp.ofCode (fld x 0 4)).map fun p => .amo (bits x 20 6) (bits x 14 6) (bits x 8 6) o (bit x 4) p

/-- Major opcode 0x13: CAS. -/
def decodeMajor13 (x : Insn) : Option Instr :=
  if fld x 0 4 = 0x0 then ((Order.ofCode (fld x 5 3)).map fun o => (.cas (bits x 20 6) (bits x 14 6) (bits x 8 6) o (bit x 4))) else
  none

/-- Major opcode 0x14: FENCE. -/
def decodeMajor14 (x : Insn) : Option Instr :=
  if fld x 13 13 = 0x0 ∧ fld x 4 4 = 0x0 then ((Order.ofCode (fld x 0 3)).map fun o => (.fence (bits x 8 5) (bit x 3) o)) else
  none

/-- Major opcode 0x15: PREF, WBR, INVR, WBRI. -/
def decodeMajor15 (x : Insn) : Option Instr :=
  if fld x 20 6 = 0x0 ∧ fld x 0 8 = 0x0 then some (.pref (bits x 14 6) (bits x 8 6)) else
  if fld x 20 6 = 0x0 ∧ fld x 0 8 = 0x1 then some (.wbr (bits x 14 6) (bits x 8 6)) else
  if fld x 20 6 = 0x0 ∧ fld x 0 8 = 0x2 then some (.invr (bits x 14 6) (bits x 8 6)) else
  if fld x 20 6 = 0x0 ∧ fld x 0 8 = 0x3 then some (.wbri (bits x 14 6) (bits x 8 6)) else
  none

/-- Major opcode 0x16: LJOIN, LWAIT. -/
def decodeMajor16 (x : Insn) : Option Instr :=
  if fld x 20 6 = 0x0 ∧ fld x 0 7 = 0x0 then some (.ljoin (bits x 14 6) (bits x 8 6) (bit x 7)) else
  if fld x 0 7 = 0x1 then some (.lwait (bits x 20 6) (bits x 14 6) (bits x 8 6) (bit x 7)) else
  none

/-- Major opcode 0x17: FADD, FSUB, FMUL, FDIV, FSQRT, FMIN, FMAX, FFMA, FCMP, FCVT. -/
def decodeMajor17 (x : Insn) : Option Instr :=
  if fld x 0 6 = 0x0 then ((FpFmt.ofCode (fld x 6 2)).map fun f => (.fadd (bits x 20 6) (bits x 14 6) (bits x 8 6) f)) else
  if fld x 0 6 = 0x1 then ((FpFmt.ofCode (fld x 6 2)).map fun f => (.fsub (bits x 20 6) (bits x 14 6) (bits x 8 6) f)) else
  if fld x 0 6 = 0x2 then ((FpFmt.ofCode (fld x 6 2)).map fun f => (.fmul (bits x 20 6) (bits x 14 6) (bits x 8 6) f)) else
  if fld x 0 6 = 0x3 then ((FpFmt.ofCode (fld x 6 2)).map fun f => (.fdiv (bits x 20 6) (bits x 14 6) (bits x 8 6) f)) else
  if fld x 8 6 = 0x0 ∧ fld x 0 6 = 0x4 then ((FpFmt.ofCode (fld x 6 2)).map fun f => (.fsqrt (bits x 20 6) (bits x 14 6) f)) else
  if fld x 0 6 = 0x5 then ((FpFmt.ofCode (fld x 6 2)).map fun f => (.fmin (bits x 20 6) (bits x 14 6) (bits x 8 6) f)) else
  if fld x 0 6 = 0x6 then ((FpFmt.ofCode (fld x 6 2)).map fun f => (.fmax (bits x 20 6) (bits x 14 6) (bits x 8 6) f)) else
  if fld x 0 6 = 0x7 then ((FpFmt.ofCode (fld x 6 2)).map fun f => (.ffma (bits x 20 6) (bits x 14 6) (bits x 8 6) f)) else
  if fld x 2 4 = 0x2 then (FpFmt.ofCode (fld x 6 2)).bind fun f => (FcmpOp.ofCode (fld x 0 2)).map fun c => .fcmp (bits x 20 6) (bits x 14 6) (bits x 8 6) f c else
  if fld x 0 6 = 0x10 then (FcvtCode.ofCode (fld x 8 6)).bind fun c => (FpFmt.ofCode (fld x 6 2)).map fun f => .fcvt (bits x 20 6) (bits x 14 6) c f else
  none

/-- Major opcode 0x18: VADD, VSUB, VMUL, VMIN, VMAX, VMINU, VMAXU, VAND, VOR, VXOR, VSHL, VSHR, VSRA, VCMP. -/
def decodeMajor18 (x : Insn) : Option Instr :=
  if fld x 0 6 = 0x0 then ((ElemWidth.ofCode (fld x 6 2)).map fun w => (.vadd (bits x 21 5) (bits x 16 5) (bits x 11 5) (bits x 8 3) w)) else
  if fld x 0 6 = 0x1 then ((ElemWidth.ofCode (fld x 6 2)).map fun w => (.vsub (bits x 21 5) (bits x 16 5) (bits x 11 5) (bits x 8 3) w)) else
  if fld x 0 6 = 0x2 then ((ElemWidth.ofCode (fld x 6 2)).map fun w => (.vmul (bits x 21 5) (bits x 16 5) (bits x 11 5) (bits x 8 3) w)) else
  if fld x 0 6 = 0x3 then ((ElemWidth.ofCode (fld x 6 2)).map fun w => (.vmin (bits x 21 5) (bits x 16 5) (bits x 11 5) (bits x 8 3) w)) else
  if fld x 0 6 = 0x4 then ((ElemWidth.ofCode (fld x 6 2)).map fun w => (.vmax (bits x 21 5) (bits x 16 5) (bits x 11 5) (bits x 8 3) w)) else
  if fld x 0 6 = 0x5 then ((ElemWidth.ofCode (fld x 6 2)).map fun w => (.vminu (bits x 21 5) (bits x 16 5) (bits x 11 5) (bits x 8 3) w)) else
  if fld x 0 6 = 0x6 then ((ElemWidth.ofCode (fld x 6 2)).map fun w => (.vmaxu (bits x 21 5) (bits x 16 5) (bits x 11 5) (bits x 8 3) w)) else
  if fld x 0 6 = 0x7 then ((ElemWidth.ofCode (fld x 6 2)).map fun w => (.vand (bits x 21 5) (bits x 16 5) (bits x 11 5) (bits x 8 3) w)) else
  if fld x 0 6 = 0x8 then ((ElemWidth.ofCode (fld x 6 2)).map fun w => (.vor (bits x 21 5) (bits x 16 5) (bits x 11 5) (bits x 8 3) w)) else
  if fld x 0 6 = 0x9 then ((ElemWidth.ofCode (fld x 6 2)).map fun w => (.vxor (bits x 21 5) (bits x 16 5) (bits x 11 5) (bits x 8 3) w)) else
  if fld x 0 6 = 0xA then ((ElemWidth.ofCode (fld x 6 2)).map fun w => (.vshl (bits x 21 5) (bits x 16 5) (bits x 11 5) (bits x 8 3) w)) else
  if fld x 0 6 = 0xB then ((ElemWidth.ofCode (fld x 6 2)).map fun w => (.vshr (bits x 21 5) (bits x 16 5) (bits x 11 5) (bits x 8 3) w)) else
  if fld x 0 6 = 0xC then ((ElemWidth.ofCode (fld x 6 2)).map fun w => (.vsra (bits x 21 5) (bits x 16 5) (bits x 11 5) (bits x 8 3) w)) else
  if fld x 24 2 = 0x0 ∧ fld x 4 2 = 0x1 then (ElemWidth.ofCode (fld x 6 2)).bind fun w => (Cond.ofCode (fld x 0 4)).map fun c => .vcmp (bits x 21 3) (bits x 16 5) (bits x 11 5) (bits x 8 3) w c else
  none

/-- Major opcode 0x19: VFADD, VFSUB, VFMUL, VFMA, VFMIN, VFMAX, VFDIV, VFSQRT, VFCMP. -/
def decodeMajor19 (x : Insn) : Option Instr :=
  if fld x 0 6 = 0x0 then ((VfFmt.ofCode (fld x 6 2)).map fun f => (.vfadd (bits x 21 5) (bits x 16 5) (bits x 11 5) (bits x 8 3) f)) else
  if fld x 0 6 = 0x1 then ((VfFmt.ofCode (fld x 6 2)).map fun f => (.vfsub (bits x 21 5) (bits x 16 5) (bits x 11 5) (bits x 8 3) f)) else
  if fld x 0 6 = 0x2 then ((VfFmt.ofCode (fld x 6 2)).map fun f => (.vfmul (bits x 21 5) (bits x 16 5) (bits x 11 5) (bits x 8 3) f)) else
  if fld x 0 6 = 0x3 then ((VfFmt.ofCode (fld x 6 2)).map fun f => (.vfma (bits x 21 5) (bits x 16 5) (bits x 11 5) (bits x 8 3) f)) else
  if fld x 0 6 = 0x4 then ((VfFmt.ofCode (fld x 6 2)).map fun f => (.vfmin (bits x 21 5) (bits x 16 5) (bits x 11 5) (bits x 8 3) f)) else
  if fld x 0 6 = 0x5 then ((VfFmt.ofCode (fld x 6 2)).map fun f => (.vfmax (bits x 21 5) (bits x 16 5) (bits x 11 5) (bits x 8 3) f)) else
  if fld x 0 6 = 0x6 then ((VfFmt.ofCode (fld x 6 2)).map fun f => (.vfdiv (bits x 21 5) (bits x 16 5) (bits x 11 5) (bits x 8 3) f)) else
  if fld x 11 5 = 0x0 ∧ fld x 0 6 = 0x7 then ((VfFmt.ofCode (fld x 6 2)).map fun f => (.vfsqrt (bits x 21 5) (bits x 16 5) (bits x 8 3) f)) else
  if fld x 24 2 = 0x0 ∧ fld x 2 4 = 0x2 then (VfFmt.ofCode (fld x 6 2)).bind fun f => (FcmpOp.ofCode (fld x 0 2)).map fun c => .vfcmp (bits x 21 3) (bits x 16 5) (bits x 11 5) (bits x 8 3) f c else
  none

/-- Major opcode 0x1A: VBCAST, VINS, VEXT, VRED, MTOC, CTOM, MCNT. -/
def decodeMajor1A (x : Insn) : Option Instr :=
  if fld x 25 1 = 0x0 ∧ fld x 8 6 = 0x0 ∧ fld x 0 6 = 0x0 then ((ElemWidth.ofCode (fld x 6 2)).map fun w => (.vbcast (bits x 20 5) (bits x 14 6) w)) else
  if fld x 25 1 = 0x0 ∧ fld x 0 6 = 0x1 then ((ElemWidth.ofCode (fld x 6 2)).map fun w => (.vins (bits x 20 5) (bits x 14 6) (bits x 8 6) w)) else
  if fld x 19 1 = 0x0 ∧ fld x 0 6 = 0x2 then ((ElemWidth.ofCode (fld x 6 2)).map fun w => (.vext (bits x 20 6) (bits x 14 5) (bits x 8 6) w)) else
  if fld x 19 1 = 0x0 ∧ fld x 11 3 = 0x0 ∧ fld x 0 6 = 0x3 then (RedOp.ofCode (fld x 8 3)).bind fun o => (ElemWidth.ofCode (fld x 6 2)).map fun w => .vred (bits x 20 6) (bits x 14 5) o w else
  if fld x 17 3 = 0x0 ∧ fld x 8 6 = 0x0 ∧ fld x 0 6 = 0x4 then ((ElemWidth.ofCode (fld x 6 2)).map fun w => (.mtoc (bits x 20 6) (bits x 14 3) w)) else
  if fld x 23 3 = 0x0 ∧ fld x 8 6 = 0x0 ∧ fld x 0 6 = 0x5 then ((ElemWidth.ofCode (fld x 6 2)).map fun w => (.ctom (bits x 20 3) (bits x 14 6) w)) else
  if fld x 17 3 = 0x0 ∧ fld x 8 6 = 0x0 ∧ fld x 0 6 = 0x6 then ((ElemWidth.ofCode (fld x 6 2)).map fun w => (.mcnt (bits x 20 6) (bits x 14 3) w)) else
  none

/-- Major opcode 0x1B: VSEL, VPERM, VIOTA, VCVT, VMOV, MOP. -/
def decodeMajor1B (x : Insn) : Option Instr :=
  if fld x 0 6 = 0x0 then ((ElemWidth.ofCode (fld x 6 2)).map fun w => (.vsel (bits x 21 5) (bits x 16 5) (bits x 11 5) (bits x 8 3) w)) else
  if fld x 0 6 = 0x1 then ((ElemWidth.ofCode (fld x 6 2)).map fun w => (.vperm (bits x 21 5) (bits x 16 5) (bits x 11 5) (bits x 8 3) w)) else
  if fld x 11 10 = 0x0 ∧ fld x 0 6 = 0x2 then ((ElemWidth.ofCode (fld x 6 2)).map fun w => (.viota (bits x 21 5) (bits x 8 3) w)) else
  if fld x 0 6 = 0x3 then ((VcvtCode.ofCode (fld x 11 5)).map fun c => (.vcvt (bits x 21 5) (bits x 16 5) c (bits x 8 3) (bits x 6 2))) else
  if fld x 11 5 = 0x0 ∧ fld x 0 6 = 0x4 then ((ElemWidth.ofCode (fld x 6 2)).map fun w => (.vmov (bits x 21 5) (bits x 16 5) (bits x 8 3) w)) else
  if fld x 24 2 = 0x0 ∧ fld x 19 2 = 0x0 ∧ fld x 14 2 = 0x0 ∧ fld x 8 3 = 0x0 ∧ fld x 0 6 = 0x5 then ((MaskOp.ofCode (fld x 6 2)).map fun o => (.mop (bits x 21 3) (bits x 16 3) (bits x 11 3) o)) else
  none

/-- Major opcode 0x1C: B. -/
def decodeMajor1C (x : Insn) : Option Instr :=
  some (.b (bits x 0 26))

/-- Major opcode 0x1D: BC. -/
def decodeMajor1D (x : Insn) : Option Instr :=
  ((Cond.ofCode (fld x 22 4)).map fun c => (.bc c (bits x 16 6) (bits x 10 6) (bits x 0 10)))

/-- Major opcode 0x1E: BM. -/
def decodeMajor1E (x : Insn) : Option Instr :=
  if fld x 19 3 = 0x0 ∧ fld x 13 3 = 0x0 then ((MaskCond.ofCode (fld x 22 4)).map fun c => (.bm c (bits x 16 3) (bits x 10 3) (bits x 0 10))) else
  none

/-- Major opcode 0x1F: CALL. -/
def decodeMajor1F (x : Insn) : Option Instr :=
  some (.call (bits x 0 26))

/-- Major opcode 0x20: JR, CALLR, RET. -/
def decodeMajor20 (x : Insn) : Option Instr :=
  if fld x 20 6 = 0x0 ∧ fld x 0 14 = 0x0 then some (.jr (bits x 14 6)) else
  if fld x 20 6 = 0x0 ∧ fld x 0 14 = 0x1 then some (.callr (bits x 14 6)) else
  if fld x 0 26 = 0x2 then some .ret else
  none

/-- Major opcode 0x21: END. -/
def decodeMajor21 (x : Insn) : Option Instr :=
  if fld x 0 26 = 0x0 then some .end_ else
  none

/-- Major opcode 0x22: SEND, RPUT, PCLR, TAGCTL_EN, TAGCTL_DIS, TAGCTL_PRIO, TAGCTL_ADDR, TAGCTL_MODE, TAGCTL_GATE, TAGCTL_CAP, TAGCTL_STAT. -/
def decodeMajor22 (x : Insn) : Option Instr :=
  if fld x 5 3 = 0x0 then some (.send (bits x 20 6) (bits x 14 6) (bits x 8 6) (bits x 0 5)) else
  if fld x 5 3 = 0x1 then some (.rput (bits x 20 6) (bits x 14 6) (bits x 8 6) (bits x 0 5)) else
  if fld x 5 21 = 0x2 then some (.pclr (bits x 0 5)) else
  if fld x 14 12 = 0x0 ∧ fld x 0 8 = 0x60 then some (.tagctlEn (bits x 8 6)) else
  if fld x 14 12 = 0x0 ∧ fld x 0 8 = 0x61 then some (.tagctlDis (bits x 8 6)) else
  if fld x 20 6 = 0x0 ∧ fld x 0 8 = 0x62 then some (.tagctlPrio (bits x 14 6) (bits x 8 6)) else
  if fld x 20 6 = 0x0 ∧ fld x 0 8 = 0x63 then some (.tagctlAddr (bits x 14 6) (bits x 8 6)) else
  if fld x 20 6 = 0x0 ∧ fld x 0 8 = 0x64 then some (.tagctlMode (bits x 14 6) (bits x 8 6)) else
  if fld x 22 4 = 0x0 ∧ fld x 0 8 = 0x65 then some (.tagctlGate (bits x 20 2) (bits x 14 6) (bits x 8 6)) else
  if fld x 22 4 = 0x0 ∧ fld x 0 8 = 0x66 then some (.tagctlCap (bits x 20 2) (bits x 14 6) (bits x 8 6)) else
  if fld x 14 6 = 0x0 ∧ fld x 0 8 = 0x67 then some (.tagctlStat (bits x 20 6) (bits x 8 6)) else
  none

/-- Major opcode 0x23: SBIND, SUNBIND, SSTAT. -/
def decodeMajor23 (x : Insn) : Option Instr :=
  if fld x 23 3 = 0x6 ∧ fld x 0 8 = 0x0 then some (.sbind (bits x 20 3) (bits x 14 6) (bits x 8 6)) else
  if fld x 23 3 = 0x6 ∧ fld x 0 20 = 0x1 then some (.sunbind (bits x 20 3)) else
  if fld x 17 3 = 0x6 ∧ fld x 0 14 = 0x2 then some (.sstat (bits x 20 6) (bits x 14 3)) else
  none

/-- Major opcode 0x24: SIPH, SGATH, SCFG, SWMR. -/
def decodeMajor24 (x : Insn) : Option Instr :=
  if fld x 6 2 = 0x0 then some (.siph (bits x 20 6) (bits x 14 6) (bits x 8 6) (bits x 0 6)) else
  if fld x 6 2 = 0x1 then some (.sgath (bits x 20 6) (bits x 14 6) (bits x 8 6) (bits x 0 6)) else
  if fld x 20 6 = 0x0 ∧ fld x 6 8 = 0x2 then some (.scfg (bits x 14 6) (bits x 0 6)) else
  if fld x 14 6 = 0x0 ∧ fld x 6 2 = 0x3 then ((SwmrSel.ofCode (fld x 8 6)).map fun s => (.swmr (bits x 20 6) s (bits x 0 6))) else
  none

/-- Major opcode 0x25: BARM, BARB, BARR, BWAIT. -/
def decodeMajor25 (x : Insn) : Option Instr :=
  if fld x 20 6 = 0x0 ∧ fld x 0 8 = 0x0 then some (.barm (bits x 14 6) (bits x 8 6)) else
  if fld x 20 6 = 0x0 ∧ fld x 0 8 = 0x1 then some (.barb (bits x 14 6) (bits x 8 6)) else
  if fld x 0 14 = 0x2 then some (.barr (bits x 20 6) (bits x 14 6)) else
  if fld x 0 8 = 0x3 then some (.bwait (bits x 20 6) (bits x 14 6) (bits x 8 6)) else
  none

/-- Major opcode 0x26: TDSET, TDGET, TDGET_ST, TDGET_ACC, MMA, MACZ, MACST. -/
def decodeMajor26 (x : Insn) : Option Instr :=
  if fld x 24 2 = 0x0 ∧ fld x 0 14 = 0x0 then some (.tdset (bits x 20 4) (bits x 14 6)) else
  if fld x 12 8 = 0x0 ∧ fld x 0 8 = 0x20 then some (.tdget (bits x 20 6) (bits x 8 4)) else
  if fld x 12 8 = 0x0 ∧ fld x 0 8 = 0x21 then some (.tdgetSt (bits x 20 6) (bits x 8 4)) else
  if fld x 11 9 = 0x0 ∧ fld x 0 8 = 0x22 then some (.tdgetAcc (bits x 20 6) (bits x 8 3)) else
  if fld x 23 3 = 0x0 ∧ fld x 18 2 = 0x0 ∧ fld x 12 2 = 0x0 ∧ fld x 5 3 = 0x2 ∧ fld x 0 4 = 0x0 then some (.mma (bits x 20 3) (bits x 14 4) (bits x 8 4) (bit x 4)) else
  if fld x 23 3 = 0x0 ∧ fld x 2 18 = 0x18 then ((AccKind.ofCode (fld x 0 2)).map fun k => (.macz (bits x 20 3) k)) else
  if fld x 23 3 = 0x0 ∧ fld x 2 6 = 0x20 then ((AccKind.ofCode (fld x 0 2)).map fun k => (.macst (bits x 20 3) (bits x 14 6) (bits x 8 6) k)) else
  none

/-- Major opcode 0x27: LOCQ_WHERE, LOCQ_EPOCH, LOCQ_HOPS. -/
def decodeMajor27 (x : Insn) : Option Instr :=
  if fld x 0 14 = 0x0 then some (.locqWhere (bits x 20 6) (bits x 14 6)) else
  if fld x 0 20 = 0x1 then some (.locqEpoch (bits x 20 6)) else
  if fld x 0 14 = 0x2 then some (.locqHops (bits x 20 6) (bits x 14 6)) else
  none

/-- Major opcode 0x28: SCPSET, SCPGET. -/
def decodeMajor28 (x : Insn) : Option Instr :=
  if fld x 20 6 = 0x0 ∧ fld x 0 8 = 0x0 then some (.scpset (bits x 14 6) (bits x 8 6)) else
  if fld x 14 6 = 0x0 ∧ fld x 0 8 = 0x1 then some (.scpget (bits x 20 6) (bits x 8 6)) else
  none

/-- Major opcode 0x29: SYSR, SYSW, SYSW_RTTW, SYSW_TWIN, SYSW_SCPBASE, TRAP, ERET, RTINV, IDLE, HALT. -/
def decodeMajor29 (x : Insn) : Option Instr :=
  if fld x 14 6 = 0x0 ∧ fld x 0 8 = 0x0 then ((SysReg.ofCode (fld x 8 6)).map fun n => (.sysr (bits x 20 6) n)) else
  if fld x 20 6 = 0x0 ∧ fld x 0 8 = 0x1 then ((SysReg.ofCode (fld x 8 6)).map fun n => (.sysw (bits x 14 6) n)) else
  if fld x 20 6 = 0x0 ∧ fld x 0 14 = 0x1101 then some (.syswRttw (bits x 14 6)) else
  if fld x 20 6 = 0x0 ∧ fld x 0 14 = 0xE01 then some (.syswTwin (bits x 14 6)) else
  if fld x 20 6 = 0x0 ∧ fld x 0 14 = 0xF01 then some (.syswScpbase (bits x 14 6)) else
  if fld x 20 6 = 0x0 ∧ fld x 0 8 = 0x2 then some (.trap (bits x 8 12)) else
  if fld x 0 26 = 0x3 then some .eret else
  if fld x 20 6 = 0x0 ∧ fld x 0 14 = 0x4 then some (.rtinv (bits x 14 6)) else
  if fld x 20 6 = 0x0 ∧ fld x 0 14 = 0x5 then some (.idle (bits x 14 6)) else
  if fld x 0 26 = 0x6 then some .halt else
  none

/-- Major opcode 0x3F: HINT_IMM, HINT_SCOPE, HINT_YIELD, HINT_CACHE, HINT_DISP, HINT_PRIO, HINT_NOP. -/
def decodeMajor3F (x : Insn) : Option Instr :=
  if fld x 22 4 = 0x0 then some (.hintImm (bits x 0 22)) else
  if fld x 5 21 = 0x20000 then some (.hintScope (bits x 0 5)) else
  if fld x 16 10 = 0x80 then some (.hintYield (bits x 0 16)) else
  if fld x 2 24 = 0x300000 then ((CachePol.ofCode (fld x 0 2)).map fun p => (.hintCache p)) else
  if fld x 22 4 = 0x4 then some (.hintDisp (bits x 0 22)) else
  if fld x 0 26 = 0x1400000 then some .hintPrio else
  if fld x 0 26 = 0x1800000 then some .hintNop else
  none

/-- The instruction of a word by its major opcode (R73), before the checks that bear on several fields. -/
def decodeFields (w : Insn) : Except DecodeError Instr :=
  let r (x : Option Instr) : Except DecodeError Instr :=
    match x with
    | some i => .ok i
    | none => .error .illegalField
  match fld w 26 6 with
  | 0x01 => r (decodeMajor01 w)
  | 0x02 => r (decodeMajor02 w)
  | 0x03 => r (decodeMajor03 w)
  | 0x04 => r (decodeMajor04 w)
  | 0x05 => r (decodeMajor05 w)
  | 0x06 => r (decodeMajor06 w)
  | 0x07 => r (decodeMajor07 w)
  | 0x08 => r (decodeMajor08 w)
  | 0x09 => r (decodeMajor09 w)
  | 0x0A => r (decodeMajor0A w)
  | 0x0B => r (decodeMajor0B w)
  | 0x0C => r (decodeMajor0C w)
  | 0x0D => r (decodeMajor0D w)
  | 0x0E => r (decodeMajor0E w)
  | 0x0F => r (decodeMajor0F w)
  | 0x10 => r (decodeMajor10 w)
  | 0x11 => r (decodeMajor11 w)
  | 0x12 => r (decodeMajor12 w)
  | 0x13 => r (decodeMajor13 w)
  | 0x14 => r (decodeMajor14 w)
  | 0x15 => r (decodeMajor15 w)
  | 0x16 => r (decodeMajor16 w)
  | 0x17 => r (decodeMajor17 w)
  | 0x18 => r (decodeMajor18 w)
  | 0x19 => r (decodeMajor19 w)
  | 0x1A => r (decodeMajor1A w)
  | 0x1B => r (decodeMajor1B w)
  | 0x1C => r (decodeMajor1C w)
  | 0x1D => r (decodeMajor1D w)
  | 0x1E => r (decodeMajor1E w)
  | 0x1F => r (decodeMajor1F w)
  | 0x20 => r (decodeMajor20 w)
  | 0x21 => r (decodeMajor21 w)
  | 0x22 => r (decodeMajor22 w)
  | 0x23 => r (decodeMajor23 w)
  | 0x24 => r (decodeMajor24 w)
  | 0x25 => r (decodeMajor25 w)
  | 0x26 => r (decodeMajor26 w)
  | 0x27 => r (decodeMajor27 w)
  | 0x28 => r (decodeMajor28 w)
  | 0x29 => r (decodeMajor29 w)
  | 0x3F => if fld w 22 4 ≥ 7 then .error .reservedHint else r (decodeMajor3F w)
  | _ => .error .reservedMajor

/-- The instruction of a word (R70 to R85). The most specific row of the table is the one read: an AMO whose d is c0 is
the no-return form, and SYSW to RTTW, TWIN and SCPBASE are rows of their own. -/
def decodeWord (w : Insn) : Except DecodeError Instr :=
  match decodeFields w with
  | .error e => .error e
  | .ok (.amo d a b o ww p) =>
    if d = 0 then .ok (.amoNoReturn a b o ww p) else .ok (.amo d a b o ww p)
  | .ok (.sysw a .rttw) => .ok (.syswRttw a)
  | .ok (.sysw a .twin) => .ok (.syswTwin a)
  | .ok (.sysw a .scpbase) => .ok (.syswScpbase a)
  | .ok i => if i.wellFormed then .ok i else .error .illegalOperands

/-- Decoding as the machine uses it: a word that is no instruction is the row ILLEGAL_INSTRUCTION (R85). -/
def decodeInsn (w : Insn) : Instr :=
  match decodeWord w with
  | .ok i => i
  | .error _ => .illegalInstruction w

/-- Little-endian bytes to an instruction word (R70). -/
def insnOfBytes (b0 b1 b2 b3 : Byte) : Insn :=
  BitVec.ofNat 32 (b0.toNat + 256 * b1.toNat + 65536 * b2.toNat + 16777216 * b3.toNat)

/-- Decoding from a list of bytes: the instruction and the bytes after it. -/
def decodeBytes : List Byte → Except DecodeError (Instr × List Byte)
  | b0 :: b1 :: b2 :: b3 :: rest =>
    match decodeWord (insnOfBytes b0 b1 b2 b3) with
    | .ok i => .ok (i, rest)
    | .error e => .error e
  | _ => .error .illegalField

/-- The decoder on a word given as the opcode table numbers its bits: every instruction is one 32-bit word whose bit 0
is the table's bit 0 (R70), laid out in memory in little-endian order. -/
def decodeTableWord (_nbits w : Nat) : Option Instr :=
  match decodeBytes [BitVec.ofNat 8 w, BitVec.ofNat 8 (w / 256), BitVec.ofNat 8 (w / 65536),
      BitVec.ofNat 8 (w / 16777216)] with
  | .ok (i, _) => some i
  | .error _ => none

/-- A Bool as a number. -/
def b2n (b : Bool) : Nat := if b then 1 else 0

/-- The word of an instruction as a number (R71 to R82); an event has none and gives 0. -/
def encodeNat : Instr → Nat
  | .add d a b w => 0x04000000 + d.toNat * 0x100000 + a.toNat * 0x4000 + b.toNat * 0x100 + b2n w * 0x80
  | .sub d a b w => 0x04000001 + d.toNat * 0x100000 + a.toNat * 0x4000 + b.toNat * 0x100 + b2n w * 0x80
  | .and_ d a b w => 0x04000002 + d.toNat * 0x100000 + a.toNat * 0x4000 + b.toNat * 0x100 + b2n w * 0x80
  | .or_ d a b w => 0x04000003 + d.toNat * 0x100000 + a.toNat * 0x4000 + b.toNat * 0x100 + b2n w * 0x80
  | .xor_ d a b w => 0x04000004 + d.toNat * 0x100000 + a.toNat * 0x4000 + b.toNat * 0x100 + b2n w * 0x80
  | .shl d a b w => 0x04000005 + d.toNat * 0x100000 + a.toNat * 0x4000 + b.toNat * 0x100 + b2n w * 0x80
  | .shr d a b w => 0x04000006 + d.toNat * 0x100000 + a.toNat * 0x4000 + b.toNat * 0x100 + b2n w * 0x80
  | .sra d a b w => 0x04000007 + d.toNat * 0x100000 + a.toNat * 0x4000 + b.toNat * 0x100 + b2n w * 0x80
  | .mul d a b w => 0x04000008 + d.toNat * 0x100000 + a.toNat * 0x4000 + b.toNat * 0x100 + b2n w * 0x80
  | .mulh d a b w => 0x04000009 + d.toNat * 0x100000 + a.toNat * 0x4000 + b.toNat * 0x100 + b2n w * 0x80
  | .mulhu d a b w => 0x0400000A + d.toNat * 0x100000 + a.toNat * 0x4000 + b.toNat * 0x100 + b2n w * 0x80
  | .div d a b w => 0x0400000B + d.toNat * 0x100000 + a.toNat * 0x4000 + b.toNat * 0x100 + b2n w * 0x80
  | .divu d a b w => 0x0400000C + d.toNat * 0x100000 + a.toNat * 0x4000 + b.toNat * 0x100 + b2n w * 0x80
  | .rem d a b w => 0x0400000D + d.toNat * 0x100000 + a.toNat * 0x4000 + b.toNat * 0x100 + b2n w * 0x80
  | .remu d a b w => 0x0400000E + d.toNat * 0x100000 + a.toNat * 0x4000 + b.toNat * 0x100 + b2n w * 0x80
  | .min d a b w => 0x0400000F + d.toNat * 0x100000 + a.toNat * 0x4000 + b.toNat * 0x100 + b2n w * 0x80
  | .max d a b w => 0x04000010 + d.toNat * 0x100000 + a.toNat * 0x4000 + b.toNat * 0x100 + b2n w * 0x80
  | .minu d a b w => 0x04000011 + d.toNat * 0x100000 + a.toNat * 0x4000 + b.toNat * 0x100 + b2n w * 0x80
  | .maxu d a b w => 0x04000012 + d.toNat * 0x100000 + a.toNat * 0x4000 + b.toNat * 0x100 + b2n w * 0x80
  | .clz d a w => 0x04000013 + d.toNat * 0x100000 + a.toNat * 0x4000 + b2n w * 0x80
  | .popc d a w => 0x04000014 + d.toNat * 0x100000 + a.toNat * 0x4000 + b2n w * 0x80
  | .sel d a b => 0x04000015 + d.toNat * 0x100000 + a.toNat * 0x4000 + b.toNat * 0x100
  | .sext d a c => 0x04000016 + d.toNat * 0x100000 + a.toNat * 0x4000 + c.code * 0x100
  | .zext d a c => 0x04000017 + d.toNat * 0x100000 + a.toNat * 0x4000 + c.code * 0x100
  | .cmp d a b w c => 0x04000020 + d.toNat * 0x100000 + a.toNat * 0x4000 + b.toNat * 0x100 + b2n w * 0x80 + c.code
  | .addi d a i => 0x08000000 + d.toNat * 0x100000 + a.toNat * 0x4000 + i.toNat
  | .andi d a i => 0x0C000000 + d.toNat * 0x100000 + a.toNat * 0x4000 + i.toNat
  | .ori d a i => 0x10000000 + d.toNat * 0x100000 + a.toNat * 0x4000 + i.toNat
  | .xori d a i => 0x14000000 + d.toNat * 0x100000 + a.toNat * 0x4000 + i.toNat
  | .shli d a k => 0x18000000 + d.toNat * 0x100000 + a.toNat * 0x4000 + k.toNat
  | .shri d a k => 0x18001000 + d.toNat * 0x100000 + a.toNat * 0x4000 + k.toNat
  | .srai d a k => 0x18002000 + d.toNat * 0x100000 + a.toNat * 0x4000 + k.toNat
  | .cmpi d a c i => 0x1C000000 + d.toNat * 0x100000 + a.toNat * 0x4000 + c.code * 0x400 + i.toNat
  | .movi d i => 0x20000000 + d.toNat * 0x100000 + i.toNat
  | .bfxU d a p l => 0x24000000 + d.toNat * 0x100000 + a.toNat * 0x4000 + p.toNat * 0x100 + l.toNat * 0x4
  | .bfxS d a p l => 0x24000001 + d.toNat * 0x100000 + a.toNat * 0x4000 + p.toNat * 0x100 + l.toNat * 0x4
  | .bfi d a p l => 0x24000002 + d.toNat * 0x100000 + a.toNat * 0x4000 + p.toNat * 0x100 + l.toNat * 0x4
  | .cbnd d a b => 0x28000000 + d.toNat * 0x100000 + a.toNat * 0x4000 + b.toNat * 0x100
  | .cperm d a b => 0x28000001 + d.toNat * 0x100000 + a.toNat * 0x4000 + b.toNat * 0x100
  | .cinc d a b => 0x28000002 + d.toNat * 0x100000 + a.toNat * 0x4000 + b.toNat * 0x100
  | .cget d a s => 0x28000003 + d.toNat * 0x100000 + a.toNat * 0x4000 + s.code * 0x100
  | .ctest d a b => 0x28000004 + d.toNat * 0x100000 + a.toNat * 0x4000 + b.toNat * 0x100
  | .cseta d a b => 0x28000005 + d.toNat * 0x100000 + a.toNat * 0x4000 + b.toNat * 0x100
  | .cinci d a i => 0x2C000000 + d.toNat * 0x100000 + a.toNat * 0x4000 + i.toNat
  | .ld d a w o => 0x30000000 + d.toNat * 0x100000 + a.toNat * 0x4000 + w.code * 0x800 + o.toNat
  | .st s a w o => 0x34000000 + s.toNat * 0x100000 + a.toNat * 0x4000 + w.code * 0x800 + o.toNat
  | .vld v a m o => 0x38000000 + v.toNat * 0x200000 + a.toNat * 0x8000 + m.toNat * 0x1000 + o.toNat
  | .vst v a m o => 0x3C000000 + v.toNat * 0x200000 + a.toNat * 0x8000 + m.toNat * 0x1000 + o.toNat
  | .vlds d a b w m => 0x40000000 + d.toNat * 0x100000 + a.toNat * 0x4000 + b.toNat * 0x100 + w.code * 0x40 + m.toNat * 0x4
  | .vsts d a b w m => 0x40000020 + d.toNat * 0x100000 + a.toNat * 0x4000 + b.toNat * 0x100 + w.code * 0x40 + m.toNat * 0x4
  | .vgath d a b w m => 0x44000000 + d.toNat * 0x100000 + a.toNat * 0x4000 + b.toNat * 0x100 + w.code * 0x40 + m.toNat * 0x4
  | .vscat d a b w m => 0x44000020 + d.toNat * 0x100000 + a.toNat * 0x4000 + b.toNat * 0x100 + w.code * 0x40 + m.toNat * 0x4
  | .amo d a b o w p => 0x48000000 + d.toNat * 0x100000 + a.toNat * 0x4000 + b.toNat * 0x100 + o.code * 0x20 + b2n w * 0x10 + p.code
  | .amoNoReturn a b o w p => 0x48000000 + a.toNat * 0x4000 + b.toNat * 0x100 + o.code * 0x20 + b2n w * 0x10 + p.code
  | .cas d a b o w => 0x4C000000 + d.toNat * 0x100000 + a.toNat * 0x4000 + b.toNat * 0x100 + o.code * 0x20 + b2n w * 0x10
  | .fence s c o => 0x50000000 + s.toNat * 0x100 + b2n c * 0x8 + o.code
  | .pref a b => 0x54000000 + a.toNat * 0x4000 + b.toNat * 0x100
  | .wbr a b => 0x54000001 + a.toNat * 0x4000 + b.toNat * 0x100
  | .invr a b => 0x54000002 + a.toNat * 0x4000 + b.toNat * 0x100
  | .wbri a b => 0x54000003 + a.toNat * 0x4000 + b.toNat * 0x100
  | .ljoin a b r => 0x58000000 + a.toNat * 0x4000 + b.toNat * 0x100 + b2n r * 0x80
  | .lwait d a b q => 0x58000001 + d.toNat * 0x100000 + a.toNat * 0x4000 + b.toNat * 0x100 + b2n q * 0x80
  | .fadd d a b f => 0x5C000000 + d.toNat * 0x100000 + a.toNat * 0x4000 + b.toNat * 0x100 + f.code * 0x40
  | .fsub d a b f => 0x5C000001 + d.toNat * 0x100000 + a.toNat * 0x4000 + b.toNat * 0x100 + f.code * 0x40
  | .fmul d a b f => 0x5C000002 + d.toNat * 0x100000 + a.toNat * 0x4000 + b.toNat * 0x100 + f.code * 0x40
  | .fdiv d a b f => 0x5C000003 + d.toNat * 0x100000 + a.toNat * 0x4000 + b.toNat * 0x100 + f.code * 0x40
  | .fsqrt d a f => 0x5C000004 + d.toNat * 0x100000 + a.toNat * 0x4000 + f.code * 0x40
  | .fmin d a b f => 0x5C000005 + d.toNat * 0x100000 + a.toNat * 0x4000 + b.toNat * 0x100 + f.code * 0x40
  | .fmax d a b f => 0x5C000006 + d.toNat * 0x100000 + a.toNat * 0x4000 + b.toNat * 0x100 + f.code * 0x40
  | .ffma d a b f => 0x5C000007 + d.toNat * 0x100000 + a.toNat * 0x4000 + b.toNat * 0x100 + f.code * 0x40
  | .fcmp d a b f c => 0x5C000008 + d.toNat * 0x100000 + a.toNat * 0x4000 + b.toNat * 0x100 + f.code * 0x40 + c.code
  | .fcvt d a c f => 0x5C000010 + d.toNat * 0x100000 + a.toNat * 0x4000 + c.code * 0x100 + f.code * 0x40
  | .vadd v a b m w => 0x60000000 + v.toNat * 0x200000 + a.toNat * 0x10000 + b.toNat * 0x800 + m.toNat * 0x100 + w.code * 0x40
  | .vsub v a b m w => 0x60000001 + v.toNat * 0x200000 + a.toNat * 0x10000 + b.toNat * 0x800 + m.toNat * 0x100 + w.code * 0x40
  | .vmul v a b m w => 0x60000002 + v.toNat * 0x200000 + a.toNat * 0x10000 + b.toNat * 0x800 + m.toNat * 0x100 + w.code * 0x40
  | .vmin v a b m w => 0x60000003 + v.toNat * 0x200000 + a.toNat * 0x10000 + b.toNat * 0x800 + m.toNat * 0x100 + w.code * 0x40
  | .vmax v a b m w => 0x60000004 + v.toNat * 0x200000 + a.toNat * 0x10000 + b.toNat * 0x800 + m.toNat * 0x100 + w.code * 0x40
  | .vminu v a b m w => 0x60000005 + v.toNat * 0x200000 + a.toNat * 0x10000 + b.toNat * 0x800 + m.toNat * 0x100 + w.code * 0x40
  | .vmaxu v a b m w => 0x60000006 + v.toNat * 0x200000 + a.toNat * 0x10000 + b.toNat * 0x800 + m.toNat * 0x100 + w.code * 0x40
  | .vand v a b m w => 0x60000007 + v.toNat * 0x200000 + a.toNat * 0x10000 + b.toNat * 0x800 + m.toNat * 0x100 + w.code * 0x40
  | .vor v a b m w => 0x60000008 + v.toNat * 0x200000 + a.toNat * 0x10000 + b.toNat * 0x800 + m.toNat * 0x100 + w.code * 0x40
  | .vxor v a b m w => 0x60000009 + v.toNat * 0x200000 + a.toNat * 0x10000 + b.toNat * 0x800 + m.toNat * 0x100 + w.code * 0x40
  | .vshl v a b m w => 0x6000000A + v.toNat * 0x200000 + a.toNat * 0x10000 + b.toNat * 0x800 + m.toNat * 0x100 + w.code * 0x40
  | .vshr v a b m w => 0x6000000B + v.toNat * 0x200000 + a.toNat * 0x10000 + b.toNat * 0x800 + m.toNat * 0x100 + w.code * 0x40
  | .vsra v a b m w => 0x6000000C + v.toNat * 0x200000 + a.toNat * 0x10000 + b.toNat * 0x800 + m.toNat * 0x100 + w.code * 0x40
  | .vcmp d a b m w c => 0x60000010 + d.toNat * 0x200000 + a.toNat * 0x10000 + b.toNat * 0x800 + m.toNat * 0x100 + w.code * 0x40 + c.code
  | .vfadd v a b m f => 0x64000000 + v.toNat * 0x200000 + a.toNat * 0x10000 + b.toNat * 0x800 + m.toNat * 0x100 + f.code * 0x40
  | .vfsub v a b m f => 0x64000001 + v.toNat * 0x200000 + a.toNat * 0x10000 + b.toNat * 0x800 + m.toNat * 0x100 + f.code * 0x40
  | .vfmul v a b m f => 0x64000002 + v.toNat * 0x200000 + a.toNat * 0x10000 + b.toNat * 0x800 + m.toNat * 0x100 + f.code * 0x40
  | .vfma v a b m f => 0x64000003 + v.toNat * 0x200000 + a.toNat * 0x10000 + b.toNat * 0x800 + m.toNat * 0x100 + f.code * 0x40
  | .vfmin v a b m f => 0x64000004 + v.toNat * 0x200000 + a.toNat * 0x10000 + b.toNat * 0x800 + m.toNat * 0x100 + f.code * 0x40
  | .vfmax v a b m f => 0x64000005 + v.toNat * 0x200000 + a.toNat * 0x10000 + b.toNat * 0x800 + m.toNat * 0x100 + f.code * 0x40
  | .vfdiv v a b m f => 0x64000006 + v.toNat * 0x200000 + a.toNat * 0x10000 + b.toNat * 0x800 + m.toNat * 0x100 + f.code * 0x40
  | .vfsqrt v a m f => 0x64000007 + v.toNat * 0x200000 + a.toNat * 0x10000 + m.toNat * 0x100 + f.code * 0x40
  | .vfcmp d a b m f c => 0x64000008 + d.toNat * 0x200000 + a.toNat * 0x10000 + b.toNat * 0x800 + m.toNat * 0x100 + f.code * 0x40 + c.code
  | .vbcast d a w => 0x68000000 + d.toNat * 0x100000 + a.toNat * 0x4000 + w.code * 0x40
  | .vins d a b w => 0x68000001 + d.toNat * 0x100000 + a.toNat * 0x4000 + b.toNat * 0x100 + w.code * 0x40
  | .vext d a b w => 0x68000002 + d.toNat * 0x100000 + a.toNat * 0x4000 + b.toNat * 0x100 + w.code * 0x40
  | .vred d a o w => 0x68000003 + d.toNat * 0x100000 + a.toNat * 0x4000 + o.code * 0x100 + w.code * 0x40
  | .mtoc d a w => 0x68000004 + d.toNat * 0x100000 + a.toNat * 0x4000 + w.code * 0x40
  | .ctom d a w => 0x68000005 + d.toNat * 0x100000 + a.toNat * 0x4000 + w.code * 0x40
  | .mcnt d a w => 0x68000006 + d.toNat * 0x100000 + a.toNat * 0x4000 + w.code * 0x40
  | .vsel v a b m w => 0x6C000000 + v.toNat * 0x200000 + a.toNat * 0x10000 + b.toNat * 0x800 + m.toNat * 0x100 + w.code * 0x40
  | .vperm v a b m w => 0x6C000001 + v.toNat * 0x200000 + a.toNat * 0x10000 + b.toNat * 0x800 + m.toNat * 0x100 + w.code * 0x40
  | .viota v m w => 0x6C000002 + v.toNat * 0x200000 + m.toNat * 0x100 + w.code * 0x40
  | .vcvt v a c m p => 0x6C000003 + v.toNat * 0x200000 + a.toNat * 0x10000 + c.code * 0x800 + m.toNat * 0x100 + p.toNat * 0x40
  | .vmov v a m w => 0x6C000004 + v.toNat * 0x200000 + a.toNat * 0x10000 + m.toNat * 0x100 + w.code * 0x40
  | .mop d a b o => 0x6C000005 + d.toNat * 0x200000 + a.toNat * 0x10000 + b.toNat * 0x800 + o.code * 0x40
  | .b d => 0x70000000 + d.toNat
  | .bc c a b d => 0x74000000 + c.code * 0x400000 + a.toNat * 0x10000 + b.toNat * 0x400 + d.toNat
  | .bm c a b d => 0x78000000 + c.code * 0x400000 + a.toNat * 0x10000 + b.toNat * 0x400 + d.toNat
  | .call d => 0x7C000000 + d.toNat
  | .jr a => 0x80000000 + a.toNat * 0x4000
  | .callr a => 0x80000001 + a.toNat * 0x4000
  | .ret => 0x80000002
  | .end_ => 0x84000000
  | .send d a t n => 0x88000000 + d.toNat * 0x100000 + a.toNat * 0x4000 + t.toNat * 0x100 + n.toNat
  | .rput d a t i => 0x88000020 + d.toNat * 0x100000 + a.toNat * 0x4000 + t.toNat * 0x100 + i.toNat
  | .pclr i => 0x88000040 + i.toNat
  | .tagctlEn k => 0x88000060 + k.toNat * 0x100
  | .tagctlDis k => 0x88000061 + k.toNat * 0x100
  | .tagctlPrio a k => 0x88000062 + a.toNat * 0x4000 + k.toNat * 0x100
  | .tagctlAddr a k => 0x88000063 + a.toNat * 0x4000 + k.toNat * 0x100
  | .tagctlMode a k => 0x88000064 + a.toNat * 0x4000 + k.toNat * 0x100
  | .tagctlGate g a k => 0x88000065 + g.toNat * 0x100000 + a.toNat * 0x4000 + k.toNat * 0x100
  | .tagctlCap g a k => 0x88000066 + g.toNat * 0x100000 + a.toNat * 0x4000 + k.toNat * 0x100
  | .tagctlStat d k => 0x88000067 + d.toNat * 0x100000 + k.toNat * 0x100
  | .sbind s a b => 0x8F000000 + s.toNat * 0x100000 + a.toNat * 0x4000 + b.toNat * 0x100
  | .sunbind s => 0x8F000001 + s.toNat * 0x100000
  | .sstat d s => 0x8C0C0002 + d.toNat * 0x100000 + s.toNat * 0x4000
  | .siph d a b h => 0x90000000 + d.toNat * 0x100000 + a.toNat * 0x4000 + b.toNat * 0x100 + h.toNat
  | .sgath d a b h => 0x90000040 + d.toNat * 0x100000 + a.toNat * 0x4000 + b.toNat * 0x100 + h.toNat
  | .scfg a h => 0x90000080 + a.toNat * 0x4000 + h.toNat
  | .swmr d s h => 0x900000C0 + d.toNat * 0x100000 + s.code * 0x100 + h.toNat
  | .barm a b => 0x94000000 + a.toNat * 0x4000 + b.toNat * 0x100
  | .barb a b => 0x94000001 + a.toNat * 0x4000 + b.toNat * 0x100
  | .barr d a => 0x94000002 + d.toNat * 0x100000 + a.toNat * 0x4000
  | .bwait d a b => 0x94000003 + d.toNat * 0x100000 + a.toNat * 0x4000 + b.toNat * 0x100
  | .tdset t a => 0x98000000 + t.toNat * 0x100000 + a.toNat * 0x4000
  | .tdget d t => 0x98000020 + d.toNat * 0x100000 + t.toNat * 0x100
  | .tdgetSt d t => 0x98000021 + d.toNat * 0x100000 + t.toNat * 0x100
  | .tdgetAcc d t => 0x98000022 + d.toNat * 0x100000 + t.toNat * 0x100
  | .mma c a b i => 0x98000040 + c.toNat * 0x100000 + a.toNat * 0x4000 + b.toNat * 0x100 + b2n i * 0x10
  | .macz c k => 0x98000060 + c.toNat * 0x100000 + k.code
  | .macst c a b k => 0x98000080 + c.toNat * 0x100000 + a.toNat * 0x4000 + b.toNat * 0x100 + k.code
  | .locqWhere d a => 0x9C000000 + d.toNat * 0x100000 + a.toNat * 0x4000
  | .locqEpoch d => 0x9C000001 + d.toNat * 0x100000
  | .locqHops d a => 0x9C000002 + d.toNat * 0x100000 + a.toNat * 0x4000
  | .scpset a i => 0xA0000000 + a.toNat * 0x4000 + i.toNat * 0x100
  | .scpget d i => 0xA0000001 + d.toNat * 0x100000 + i.toNat * 0x100
  | .sysr d n => 0xA4000000 + d.toNat * 0x100000 + n.code * 0x100
  | .sysw a n => 0xA4000001 + a.toNat * 0x4000 + n.code * 0x100
  | .syswRttw a => 0xA4001101 + a.toNat * 0x4000
  | .syswTwin a => 0xA4000E01 + a.toNat * 0x4000
  | .syswScpbase a => 0xA4000F01 + a.toNat * 0x4000
  | .trap c => 0xA4000002 + c.toNat * 0x100
  | .eret => 0xA4000003
  | .rtinv a => 0xA4000004 + a.toNat * 0x4000
  | .idle a => 0xA4000005 + a.toNat * 0x4000
  | .halt => 0xA4000006
  | .hintImm p => 0xFC000000 + p.toNat
  | .hintScope s => 0xFC400000 + s.toNat
  | .hintYield n => 0xFC800000 + n.toNat
  | .hintCache p => 0xFCC00000 + p.code
  | .hintDisp p => 0xFD000000 + p.toNat
  | .hintPrio => 0xFD400000
  | .hintNop => 0xFD800000
  | .illegalInstruction w => w.toNat
  | _ => 0

/-- The word of an instruction (R71 to R82). -/
def encode (i : Instr) : Insn := BitVec.ofNat 32 (encodeNat i)

/-- The four bytes of an instruction, lowest address first (R70). -/
def encodeBytes (i : Instr) : List Byte := natBytes 4 (encode i).toNat

end Sys2Proof
end

