-- ==== Sys2Proof/Machine/State.lean ====
section
/-! DEFINITION. The state of the whole module as plain data, the reasons a step can stop, and the state right after
module reset. A map from numbers is a list of pairs (`FMap`); an absent key reads as the default that the accessor in
Machine/Ops.lean names, so that the reset state lists nothing it does not have to. -/

namespace Sys2Proof.Machine

/-- A finite map from numbers: the first pair of a key is its value. -/
abbrev FMap (α : Type) := List (Nat × α)

/-- A byte of memory with its share of the tag: the tag bit of an aligned 16-byte unit (R105) is set when it is set at
each of the unit's bytes. -/
abbrev TByte := Byte × Bool

/-- A capability register value with its tag (R55, R103). -/
structure TCap where
  val : Cap := 0
  tag : Bool := false
  deriving DecidableEq, Repr

/-- Where a byte lives after translation (R100 to R102, R111): a physical address, an offset in a scratchpad region of a
core of this module, a global address of another module, or a host bus address. -/
inductive Loc where
  | mem (pa : Nat)
  | scr (core region off : Nat)
  | peer (ga : Nat)
  | host (ha : Nat)
  deriving DecidableEq, Repr

/-- The carrel states of R39. -/
inductive CState where
  | free | running | parked | runtime | ending | halted
  deriving DecidableEq, Repr

/-- A parked LWAIT (R210): its destination and effective address, the cell with its type and size, the threshold, and the
request that a peer holds for it (R220). -/
structure LWaitRec where
  d : Reg
  addr : Word
  pa : Nat
  typ : Nat
  size : Nat
  x : Word
  nal2 : Bool
  stream : Bool
  keep : Bool
  req : Option Nat
  deriving DecidableEq, Repr

/-- A parked BWAIT (R336): its destination, the object's address, the generation awaited, and what the first update that
ends the wait left: a generation, or none for a broken object. -/
structure BWaitRec where
  d : Reg
  addr : Word
  gen : Nat
  got : Option (Option Nat) := none
  deriving DecidableEq, Repr

/-- What a parked carrel waits for (R39): presence bits, a cistern threshold, a barrier generation, or IDLE. -/
inductive ParkWhy where
  /-- the registers whose presence bits are awaited (R43, R58) -/
  | presence (rs : List Reg)
  /-- LWAIT (R210) -/
  | lwait (w : LWaitRec)
  /-- BWAIT (R336) -/
  | bwait (w : BWaitRec)
  /-- IDLE, with its cycle count, 0 for none (R361) -/
  | idle (limit : Nat)
  /-- HALT of a control core (R361) -/
  | halt
  deriving DecidableEq, Repr

/-- A parked wait: its reason, the cycles parked, whether an event that ends it has occurred, and the source registers whose
stream elements its completion takes (R197). -/
structure Park where
  why : ParkWhy
  cycles : Nat := 0
  woken : Bool := false
  pops : List Reg := []
  deriving DecidableEq, Repr

/-- The mark of an erroneous register (R123): the access's address, and whether poisoned data was returned. -/
structure ErrMark where
  addr : Word
  poison : Bool
  deriving DecidableEq, Repr

/-- A register c0 to c63 (R55) with its presence bit (R58), death (R63), erroneous mark (R123) and a failing ECC check
(R278). -/
structure CReg where
  val : Cap := 0
  tag : Bool := false
  present : Bool := true
  dead : Bool := false
  err : Option ErrMark := none
  ecc : Bool := false
  deriving DecidableEq, Repr

/-- A vector register (R64, R123, R278). -/
structure VecReg where
  val : VWord := 0
  err : Option ErrMark := none
  ecc : Bool := false
  deriving DecidableEq, Repr

/-- A mask register (R64, R278). -/
structure MaskReg where
  val : Word := 0
  ecc : Bool := false
  deriving DecidableEq, Repr

/-- An element of a read stream that has been fetched (R197): its value, a load that is still outstanding, or the failure
that its use raises. -/
inductive StreamElem where
  | value (v : Word)
  | pending (id : Nat)
  | err (m : ErrMark)
  | fault (cause : Nat) (tval : Word)
  /-- its bytes are poisoned: the address (R278) -/
  | bad (addr : Word)
  deriving DecidableEq, Repr

/-- A bound stream register (R197): the base capability, the pattern record, the next element to fetch or to append, the
elements fetched and not yet consumed, and the appended elements not yet converted. -/
structure Stream where
  base : TCap
  extents : List Nat
  strides : List Int
  size : Nat
  write : Bool
  sign : Bool
  total : Nat
  next : Nat := 0
  used : Nat := 0
  ready : List StreamElem := []
  buffer : List (Nat × Word) := []
  deriving DecidableEq, Repr

/-- An activation's reading of a scope-table entry (R173): the smallest fixed scope that covers it, its cores, and whether
it was set. -/
structure ScopeRead where
  isSet : Bool
  cover : Nat
  cores : List Nat
  deriving DecidableEq, Repr

/-- The scope an operation acts at (R167, R171): the id and, for a programmable one, its COVER and cores. -/
structure ScopeRef where
  id : Nat
  cover : Nat
  cores : List Nat
  deriving DecidableEq, Repr

/-- The operations of TAGCTL on a handler-table entry (R381). -/
inductive TagOp where
  | en | dis
  | prio (v : Nat)
  | addr (v : Va)
  | mode (par : Bool) (pmax : Nat)
  | gate (g : Nat) (w : Word)
  | cap (g : Nat) (v : TCap)
  deriving DecidableEq, Repr

/-- A matrix command of MMA (R262): engine numbers, descriptor copies, MIG and the window numbers for notices. -/
structure MmaCmd where
  a : Nat
  b : Nat
  acc : Nat
  tda : Word
  tdb : Word
  mig : Bool
  na : Nat
  nb : Nat
  nacc : Nat
  follow : Bool
  deriving DecidableEq, Repr

/-- A MACST command (R265) with its progress: the next element in row order. -/
structure MacstCmd where
  acc : Nat
  nacc : Nat
  kind : AccKind
  dst : TCap
  ctl : Word
  next : Nat
  deriving DecidableEq, Repr

/-- An engine command (R270). -/
inductive EngOp where
  | mma (m : MmaCmd)
  | macz (acc : Nat) (kind : AccKind)
  | macst (m : MacstCmd)
  deriving DecidableEq, Repr

/-- An engine command with the core, context and word it comes from. -/
structure EngCmd where
  op : EngOp
  core : Nat
  ctx : Nat
  pc : Va
  deriving DecidableEq, Repr

/-- A follow-on MMA as it stood when its SIPH was issued (R273): the numbers, the window register and the descriptors. -/
structure Follow where
  fa : Nat
  fb : Nat
  facc : Nat
  mig : Bool
  twin : Word
  tda : Word
  tdb : Word
  deriving DecidableEq, Repr

/-- A siphon command (R183 to R186). `tile` is the engine tile of a DTILE command. `node` is the instance and node of a
SIPH node (R229). -/
structure SiphCmd where
  ext : List Nat
  start : List Int
  sstr : List Int
  dstr : List Int
  ctl : Word
  src : TCap
  dst : TCap
  desc : Word
  dlo : Int
  span : Nat
  tot : Nat
  tile : Option Nat
  follow : Option Follow
  node : Option (Nat × Nat)
  deriving DecidableEq, Repr

/-- A gather command (R195, R196), with the row pointers read at issue. -/
structure GathCmd where
  raw : List Byte
  rows : List Nat
  feat : TCap
  csr : TCap
  desc : Word
  ta : Nat
  tb : Nat
  tda : Word
  tdb : Word
  follow : Option Follow
  deriving DecidableEq, Repr

/-- The command a channel runs. -/
inductive ChanCmd where
  | siph (c : SiphCmd)
  | gath (c : GathCmd)
  deriving DecidableEq, Repr

/-- What an outbox or commit-queue entry does when it takes effect (R165). -/
inductive Effect where
  /-- a store of bytes; `tag` is the tag of an ST.Q -/
  | store (cells : List (Loc × Byte)) (tag : Bool)
  /-- a join into a cistern cell at a physical address, or a plain store acting as one (R210, R211) -/
  | join (pa typ size : Nat) (val : Word)
  /-- an access of another module that its hub carries out: a join, or a plain store that may reach a cistern (R220) -/
  | peer (ga : Word) (op : PeerOp)
  /-- a no-return AMO (R331) -/
  | amo (loc : Loc) (op : AmoOp) (size : Nat) (operand : Word)
  /-- the marker of a FENCE (R169) -/
  | marker
  | send (dest : Nat) (tag : Nat) (words : List PWord)
  | rput (dest : Nat) (tag index : Nat) (word : PWord)
  | tagctl (k : Nat) (op : TagOp)
  | siph (ch : Nat) (c : SiphCmd)
  | sgath (ch : Nat) (c : GathCmd)
  | scfg (ch : Nat) (w : Word)
  | engine (op : EngOp)
  | barm (addr : Word) (loc : Loc) (w : Word)
  | barb (addr : Word) (loc : Loc) (w : Word)
  deriving DecidableEq, Repr

/-- One outbox or commit-queue entry (R165, R166): its effect, the address it names, the scope it releases at (if it is a
release), the issuing word, the drain it belongs to, the physical granules that it reaches through a non-coherent window, and
whether it is written through there (R115, R167), the bytes of each of its elements where they are performed one by one (R412; 0: as
one access), and the request that carries it when it is in flight. -/
structure Entry where
  eff : Effect
  addr : Word := 0
  release : Option ScopeRef := none
  pc : Va := 0
  major : Nat := 0
  func : Nat := 0
  ctx : Nat := 0
  act : Nat := 0
  drain : Nat := 0
  id : Nat := 0
  through : Bool := false
  nal2 : Bool := false
  stream : Bool := false
  keep : Bool := false
  window : List Nat := []
  unit : Nat := 0
  sent : Option Nat := none
  ecc : Bool := false
  deriving DecidableEq, Repr

/-- Where the value of an outstanding access goes. -/
inductive Dest where
  /-- a register, with the width that says how it is extended (R72) -/
  | reg (r : Reg) (w : LdWidth) (tgl : Bool)
  /-- a register, zero-extended from `size` bytes (LWAIT, AMO, CAS: R210, R331) or sign-extended -/
  | ext (r : Reg) (size : Nat) (sign : Bool)
  /-- bytes of a vector register -/
  | vec (v : VReg)
  /-- an element of a stream (R197) -/
  | stream (r : Reg) (size : Nat) (sign : Bool)
  /-- the word that issued it reads the bytes when it issues again -/
  | buffer
  /-- prefetch: nothing is written -/
  | none
  deriving DecidableEq, Repr

/-- What an outstanding access does when it is performed. -/
inductive AccOp where
  | load
  | amo (op : AmoOp) (operand : Word)
  | cas (expected new : Word)
  /-- an LWAIT held by a peer's merge unit (R220) -/
  | lwait
  deriving DecidableEq, Repr

/-- How a load's element reads catalogued memory: through the caches; from home memory where the caches do not hold it (a window
byte that finds no way or is read under NAL2, R115, R147); or from home memory past the caches (R167). -/
inductive Reach where
  | caches | direct | bypass
  deriving DecidableEq, Repr

/-- One element of an outstanding access (R161): its address, the places of its bytes in the result, how it reaches memory and whether
through a window, whether it is too late for the fill under way (R141), the uncached read or the remote request that brings
it, and whether a write of its own cluster has overtaken that read (R147). -/
structure LElem where
  addr : Word
  want : List (Nat × Loc)
  reach : Reach := .caches
  window : Bool := false
  late : Bool := false
  uncr : Bool := false
  stale : Bool := false
  req : Option Nat := none
  deriving DecidableEq, Repr

/-- A byte of a load's result: its place, its address, its value and whether it is poisoned. -/
structure LByte where
  dst : Nat
  addr : Word
  byte : TByte
  poison : Bool
  deriving DecidableEq, Repr

/-- A carrel as it stood when a load issued: what a trap at that load leaves (R122), with the window registers that its own words had written
in the cycle (R60). -/
structure Snap where
  pc : Va
  hints : List Insn
  regs : FMap CReg
  vregs : FMap VecReg
  masks : FMap MaskReg
  fpc : BitVec 13
  streams : FMap Stream
  wrote : List Reg := []
  deriving DecidableEq, Repr

/-- An outstanding access of a carrel (R164, R248): the elements still to be read, all its bytes' places, the bytes read, the elements that failed
at the far end, the commit-queue entries that an atomic access waits for, its policy, and its granules (R248). `joint` marks a VLD, whose
elements make one request (R135). -/
structure Outst where
  id : Nat
  op : AccOp := .load
  dest : Dest
  addr : Word
  size : Nat
  elems : List LElem := []
  locs : List Loc := []
  got : List LByte := []
  errs : List (Nat × ErrMark) := []
  acquire : Bool := false
  entries : List Nat := []
  through : Bool := false
  nal1 : Bool := false
  nal2 : Bool := false
  stream : Bool := false
  keep : Bool := false
  joint : Bool := false
  started : Bool := false
  count : Nat := 0
  undo : Option Snap := none
  deriving DecidableEq, Repr

/-- A waiting BARR: the ids of the commit-queue entries it waits for, and the request of a non-local arrival (R336). -/
structure BarrWait where
  addr : Word
  d : Reg
  entries : List Nat
  req : Option Nat
  result : Option (Nat × Nat)
  deriving DecidableEq, Repr

/-- The bytes a word reads at issue as a load (R183, R197, R260), once they have arrived. -/
structure Buf where
  addr : Word
  data : List TByte
  err : Option ErrMark
  deriving DecidableEq, Repr

/-- What the primary's synchronised word did, for its twin (R284): its result, the access that still has to give it, its
trap, and the value it put into context state. -/
structure SyncRec where
  result : Option (Reg × TCap) := none
  err : Option (Reg × ErrMark) := none
  pending : Option Nat := none
  trap : Option (Nat × Word) := none
  arg : Word := 0
  deriving DecidableEq, Repr

/-- One carrel (R39, R40, R55 to R69, R117, R118). `wrote` lists the window registers that its own words have written in this cycle,
and `landed` those that remote writes have (R60, R380). `lat` counts the cycles until a result is available (R246), by register number, 64 and up for vectors, 96 and up for masks;
`gap` those until the next word may issue after a taken transfer (R247). `owes` marks a carrel that has still to consume the error of
an entry, once its earlier loads are over (R122, R278). -/
structure Carrel where
  st : CState := .free
  park : Option Park := none
  tag : Nat := 0
  aseq : Nat := 0
  entry : Nat := 0
  act : Nat := 0
  born : Nat := 0
  freedAt : Option Nat := none
  pc : Va := 0
  hints : List Insn := []
  regs : FMap CReg := []
  vregs : FMap VecReg := []
  masks : FMap MaskReg := []
  fpc : BitVec 13 := 0
  lv : BitVec 2 := 0
  plv : BitVec 2 := 0
  nr : Bool := false
  pair : Bool := false
  rply : Nat := 0
  cause : BitVec 12 := 0
  epc : Va := 0
  tval : Word := 0
  deferr : Word := 0
  streams : FMap Stream := []
  wrote : List Reg := []
  landed : List Reg := []
  lat : FMap Nat := []
  gap : Nat := 0
  outbox : List Entry := []
  scopes : FMap ScopeRead := []
  loads : List Outst := []
  fenceLoads : Bool := false
  scWait : List Nat := []
  barr : Option BarrWait := none
  bufs : List Buf := []
  rtinv : List (Nat × Nat) := []
  yield : Nat := 0
  prioTried : Bool := false
  moved : Bool := false
  sync : List SyncRec := []
  synced : Nat := 0
  mismatch : Bool := false
  pairOk : Bool := false
  cmpWait : Bool := false
  owes : Bool := false
  second : Option (Nat × Word × Va) := none
  deriving DecidableEq, Repr

/-- A handler-table entry (R23 to R26) with its wait counter (R37). -/
structure HTag where
  caps : FMap TCap := []
  en : Bool := false
  inst : Bool := false
  par : Bool := false
  pmax : Nat := 0
  prio : Nat := 0
  haddr : Va := 0
  pend : Nat := 0
  eprio : Nat := 0
  act : Nat := 0
  seq : Nat := 0
  gates : FMap Word := []
  wait : Nat := 0
  deriving DecidableEq, Repr

/-- An inbox entry (R29, R30, R59, R281): a message, or a remote register write held for the next activation. `cyc` is
the cycle of its acceptance; `fresh` marks one accepted in this cycle; `again` one whose activation reshelving aborted, so that its dispatch is a replay (R289);
`begun` keeps HADDR and the bundle as its activation was dispatched with them (R281). -/
structure InboxEnt where
  id : Nat
  tag : Nat
  seq : Nat := 0
  kind : Nat := 0
  sdev : Nat := 0
  score : Nat := 0
  words : List PWord := []
  held : Option (Nat × PWord) := none
  started : Bool := false
  rply : Nat := 0
  again : Bool := false
  cyc : Nat := 0
  rputs : FMap PWord := []
  fresh : Bool := false
  begun : Option (Va × FMap TCap) := none
  deriving DecidableEq, Repr

/-- What selection sees of a channel (R34, R242): whether it has accepted a command since the launch, whether its latest has ended
or faulted, and its watermark. -/
structure GateView where
  v : Bool
  ended : Bool
  wmk : Nat
  deriving DecidableEq, Repr

/-- A siphon channel (R181, R187 to R194). `hi` and `note` are the options that govern its command (R193); `next` is the next
unit to read, `reading` the request that brings it, `inflight` the units sent and not yet performed with their requests,
`failed` the address at which the command failed; `barOff` says that the barrier proved unusable. A gather keeps what it has
read: column indices, feature rows by index, and values. -/
structure Channel where
  cmd : Option ChanCmd := none
  last : Option ChanCmd := none
  v : Bool := false
  done : Bool := false
  flt : Bool := false
  wmk : Nat := 0
  faultAddr : Word := 0
  hipri : Bool := false
  cnote : Bool := false
  next : Nat := 0
  hi : Bool := false
  note : Bool := false
  reading : Option Nat := none
  inflight : List (Nat × Nat) := []
  failed : Option Word := none
  written : Bool := false
  barOff : Bool := false
  cols : List (Nat × Bool) := []
  feats : FMap (List (TByte × Bool)) := []
  vals : List (List (TByte × Bool)) := []
  ctx : Nat := 0
  pc : Va := 0
  deriving DecidableEq, Repr

/-- The folio states of R130, R131. -/
inductive FState where
  | clean | dirty | pinned | filling
  deriving DecidableEq, Repr

/-- A folio (R130 to R133): an Invalid way is no folio. `data` holds the bytes of [start, fin) (of a Filling folio, those
below `wmk` are present); `mask` is the L2F's core mask (R144); `drops` are extents invalidated while they fill (R141), and whether
the home is told that they leave (R366); `retry` marks a refetch of a poisoned folio (R145); `writers` are, by 32-byte word of the
granule, the launches that have written it since it was last clean (R287). `asker` is the core whose fill a Filling folio of an L2F is (R50). -/
structure Folio where
  st : FState
  scr : Bool
  keep : Bool := false
  wmk : Nat := 0
  start : Nat
  fin : Nat
  base : Nat
  key : Nat
  data : List TByte
  mask : List Nat := []
  drops : List (Nat × Nat × Bool) := []
  retry : Bool := false
  window : Bool := false
  writers : List (Nat × Nat) := []
  asker : Option Nat := none
  deriving DecidableEq, Repr

/-- A folio cache: its folios, most recently used first, and its poisoned sectors (R133). -/
structure Cache where
  folios : List Folio := []
  poison : List Nat := []
  deriving DecidableEq, Repr

/-- A range-table entry as the translation caches hold it (R109, R110). -/
structure RtEntry where
  vgran : Nat
  len : Nat
  pgran : Nat
  home : Nat
  typ : Nat
  kind : Nat
  x : Bool
  w : Bool
  rd : Bool
  v : Bool
  reserved : Bool
  deriving DecidableEq, Repr

/-- A cached entry with its context (R110). -/
structure TlbEnt where
  ctx : Nat
  ent : RtEntry
  deriving DecidableEq, Repr

/-- What a message in the network carries. -/
inductive MsgBody where
  | msg (words : List PWord) (kind : Nat)
  | rput (index : Nat) (word : PWord)
  deriving DecidableEq, Repr

/-- A drained SEND or RPUT, or a notice, that the core's network interface still holds (R29, R302): in flight until it is
acknowledged, refused when it has to be retried; `again` stays from the first refusal on, and a retry keeps its SEQ. -/
structure OutMsg where
  dest : Nat
  tag : Nat
  body : MsgBody
  drain : Nat := 0
  ctx : Nat := 0
  score : Nat := 0
  pc : Va := 0
  seq : Nat := 0
  inFlight : Bool := false
  refused : Bool := false
  again : Bool := false
  req : Option Nat := none
  deriving DecidableEq, Repr

/-- Where a core stands in its launch (R45, R46). -/
structure Bay where
  launch : Nat
  wing : Nat
  bay : Nat
  cib : Nat
  bayn : Nat
  nbay : Nat
  nwing : Nat
  stage : Nat
  isOpen : Bool
  deriving DecidableEq, Repr

/-- The context registers of R67 that a core holds for a context, and its tile descriptors (R62, R172, R202, R212, R256,
R257). -/
structure CtxRegs where
  deadmask : Word := 0
  ltmo : Word := 0
  btmo : Word := 0
  scpbase : Word := 0
  tbase : Nat := 0
  tcnt : Nat := 0
  abase : Nat := 0
  acnt : Nat := 0
  td : FMap Word := []
  deriving DecidableEq, Repr

/-- The catalogue's messages (R156). -/
inductive CatKind where
  | gets | geto | uncr | uncw | evn | eack | inv | iack | fetch | fack | disc | dack | data | grant
  deriving DecidableEq, Repr

/-- A catalogue message between a cluster and a home (R156): the extent [pa, pa + len), data with its poisoned ECC words,
the request it belongs to, and the fields of acknowledgements. `skip` are extents that a coherent write has overtaken on the way
(R160, R162); `last` marks the last piece of an answer, `colour` the partition that the request belongs to (R303). -/
structure CatMsg where
  kind : CatKind
  cluster : Nat
  die : Nat
  pa : Nat
  len : Nat
  data : List TByte := []
  poison : List Nat := []
  dirty : Bool := false
  wb : Bool := false
  atomic : Bool := false
  ovl : Bool := false
  hold : Bool := false
  lo : Nat := 0
  hi : Nat := 0
  evp : Bool := false
  req : Nat := 0
  last : Bool := true
  colour : Nat := 0
  skip : List (Nat × Nat) := []
  deriving DecidableEq, Repr

/-- The body of a torus flit (R300). -/
inductive FlitBody where
  /-- a message or remote register write, with its c9.SCORE (R41) -/
  | msg (b : MsgBody) (score : Nat)
  | space2 (op : PeerOp) (region off : Nat) (req : Nat)
  /-- an access toward a peer, at a global address -/
  | remote (addr : Word) (op : PeerOp) (req : Nat)
  | response (req : Nat) (resp : RemoteResp)
  | ack (core dest tag : Nat) (refused : Bool) (notice : Option Nat)
  | cat (m : CatMsg)
  deriving DecidableEq, Repr

/-- A torus flit (R300): its header fields, the router it stands at, whether it is under way, after its injection, and whether it has
moved in this cycle (R301). -/
structure Flit where
  age : Nat := 0
  colour : Nat := 0
  kind : Nat := 0
  peer : Bool := false
  dst : Nat
  dslot : Nat := 0
  src : Nat
  sslot : Nat := 0
  tag : Nat := 0
  seq : Nat := 0
  ctx : Nat := 0
  dev : Nat := 0xFFF
  at_ : Nat
  transit : Bool := false
  moved : Bool := false
  body : FlitBody
  deriving DecidableEq, Repr

/-- A logical core (R13, R23, R29, R44, R110, R148, R181), or a control core (number 4,096 and up, R9). `refused` holds the
space-2 accesses that the core has to send again (R290, R315); `stopped` marks a core of a partition that is being switched out
(R312), `frozen` one that is being copied (R289), `lost` one marked unbacked after a failure (R292). `sendSeq` and `seen` number the
core's streams: the next SEQ of those that it sends, the last of those that it receives (R302). `sysOld` keeps, for each shared
system register written in this cycle, the lowest carrel that wrote it and the value before (R68, R397). `slotted` says that the slots have chosen in
this cycle (R244), `divBusy` counts the cycles for which the divider is occupied (R247). `tagOld` and `chanOld` keep, of what has
changed in this cycle, what selection still sees (R27, R36, R242). -/
structure Core where
  ctx : Nat := 0
  bay : Option Bay := none
  twin : Option Nat := none
  twinOf : Option Nat := none
  tags : FMap HTag := []
  inbox : List InboxEnt := []
  nextId : Nat := 1
  queue : List Entry := []
  carrels : FMap Carrel := []
  chans : FMap Channel := []
  regions : FMap Nat := []
  l1 : Cache := {}
  tlb : List TlbEnt := []
  out : List OutMsg := []
  refused : List Flit := []
  sendSeq : FMap Nat := []
  seen : FMap Nat := []
  pol : Bool := false
  lastA : Nat := 7
  lastB : Nat := 7
  atA : Option Nat := none
  atB : Option Nat := none
  slotted : Bool := false
  divBusy : Nat := 0
  tagOld : FMap HTag := []
  chanOld : FMap GateView := []
  ctxRegs : FMap CtxRegs := []
  stopped : Bool := false
  frozen : Bool := false
  lost : Bool := false
  dispatched : Option Nat := none
  sysOld : FMap (Nat × Word) := []
  deriving DecidableEq, Repr

/-- An engine tile (R254). -/
structure Tile where
  bytes : FMap Byte := []
  swz : Nat := 0
  poison : Bool := false
  scales : FMap (BitVec 32) := []
  deriving DecidableEq, Repr

/-- An engine accumulator (R254, R261): element bit patterns by row-order index. -/
structure Acc where
  kind : AccKind := .f32
  elems : FMap Word := []
  aov : Bool := false
  aiv : Bool := false
  asat : Bool := false
  nsat : Bool := false
  poison : Bool := false
  deriving DecidableEq, Repr

/-- A migrated MMA in the migration buffers of the engine that runs it (R274). -/
structure Migrant where
  cmd : EngCmd
  home : Nat
  ta : Tile
  tb : Tile
  acc : Acc
  started : Bool
  deriving DecidableEq, Repr

/-- A context's allotment on an engine (R255). -/
structure Allot where
  tlb : Nat
  tln : Nat
  alb : Nat
  aln : Nat
  deriving DecidableEq, Repr

/-- A cluster's matrix engine (R254, R255, R270, R274). -/
structure Engine where
  tiles : FMap Tile := []
  accs : FMap Acc := []
  queue : List EngCmd := []
  running : Option EngCmd := none
  away : List EngCmd := []
  migrant : Option Migrant := none
  allots : FMap Allot := []
  deriving DecidableEq, Repr

/-- A write that waits for ownership, or an uncached access that waits for the home, on behalf of a commit-queue entry or
an outstanding access. -/
inductive CatUser where
  /-- an L1F and L2F fill -/
  | fill
  /-- a commit-queue entry of a core -/
  | entry (core id : Nat)
  /-- an outstanding access of a carrel -/
  | access (core carrel id : Nat)
  deriving DecidableEq, Repr

/-- A request that a cluster has sent to a home and that is not yet completed. -/
structure CatReq where
  id : Nat
  user : CatUser
  msg : CatMsg
  deriving DecidableEq, Repr

/-- The progress of reshelving in a cluster (R289): step 2, the end of step 3, and step 5 while held traffic is left. -/
inductive ReshelvePhase where
  | evacuate | copied | releasing
  deriving DecidableEq, Repr

/-- A reshelving in progress: the slot, the physical core left, the spare, the cycles since the freeze, and whether
EVAC_LIMIT has passed. -/
structure Reshelve where
  slot : Nat
  phys : Nat
  spare : Nat
  phase : ReshelvePhase
  cycles : Nat
  expired : Bool
  limit : Nat
  deriving DecidableEq, Repr

/-- A cluster (R10, R110, R254, R288, R289, R293, R302). `order` is the order table, by the number of the home that sends and, from
256 up, by that of the cluster; `routed` says that its router has assigned its ports in this cycle (R301). `leaks` gives, by physical core, TIME at its last leak; `waiting` lists
the physical cores whose triggers have to wait, and whether the core has failed (R292, R299); `errors`
counts the errors that the cluster itself has detected (R279). -/
structure Cluster where
  l2 : Cache := {}
  rtc : List TlbEnt := []
  shelf : Option Cap := none
  engine : Engine := {}
  order : FMap Nat := []
  sendSeq : FMap Nat := []
  reorder : List Flit := []
  arrived : List Flit := []
  routed : Bool := false
  held : List Flit := []
  reshelve : Option Reshelve := none
  waiting : List (Nat × Bool) := []
  errors : Nat := 0
  evn : List (Nat × Nat) := []
  reqs : List CatReq := []
  health : FMap Word := []
  leaks : FMap Nat := []
  deriving DecidableEq, Repr

/-- A catalogue entry (R154): its tract is [64 × tract, 64 × tract + 2^(size + 6)); `ptrs` are the pointers with their DM bits;
`quiet` is the cycle of the last request. While it is BUSY, `cur` is the request it serves, `wait` the clusters that still have
to answer, `acks` the answers, and `crossed` the clusters whose eviction notice for bytes of the request came in
meanwhile (R160). `disc` marks a discovery, `recalled` a recall (R159). -/
structure CatEntry where
  isShared : Bool := false
  coarse : Bool := false
  size : Nat
  tract : Nat
  ptrs : List (Nat × Bool) := []
  groups : List Nat := []
  anyDirty : Bool := false
  quiet : Nat := 0
  cur : Option CatMsg := none
  wait : List Nat := []
  acks : List CatMsg := []
  crossed : List Nat := []
  disc : Bool := false
  recalled : Bool := false
  deriving DecidableEq, Repr

/-- A die's catalogue and pump state (R153 to R160, R214). `filter` lists the 64 KiB tracts whose drop bit is set;
`masks` gives, for a 256-byte replica block, the clusters that hold it. -/
structure Die where
  entries : List CatEntry := []
  filter : List Nat := []
  inbox : List CatMsg := []
  sendSeq : FMap Nat := []
  masks : FMap (List Nat) := []
  deriving DecidableEq, Repr

/-- A context (R109, R115, R118, R171, R305, R311): `windows` holds words 0 and 1 of each non-coherent window register (R115). -/
structure Ctx where
  colour : Nat := 0
  tvec : Va := 0
  rtBase : Nat := 0
  rtCount : Nat := 0
  windows : List (Nat × Nat) := []
  scopeSet : List Nat := []
  deriving DecidableEq, Repr

/-- Where the answer to a peer's request goes (R307): the device and core that asked, the core or hub that answers, the tag and the
context. -/
structure Back where
  dev : Nat
  core : Nat := 0
  mine : Nat := 0
  tag : Nat := 0
  ctx : Nat := 0
  deriving DecidableEq, Repr

/-- A hold of a released block (R221): the block by its PA[37:0], its image just before the release, the values that must
reach the replicas named (PA[37:0], type, die, value), and for a release at scope 5 its number. -/
structure BlockHold where
  block : Nat
  image : List Byte
  needs : List (Nat × Nat × Nat × Nat)
  sys : Option Nat
  deriving DecidableEq, Repr

/-- A participant of a range's exchange (R216, R217): a die of this module, or the module layer's own end. `round` counts the
rounds begun, `ended` is TIME at the end of the last, `dirty` the blocks (by PA[37:0]) that are dirty toward a partner. -/
structure Part_ where
  round : Nat := 0
  active : Bool := false
  ended : Nat := 0
  dirty : List (Nat × Nat) := []
  holds : List BlockHold := []
  deriving DecidableEq, Repr

/-- A cistern range (R203, R216 to R219): `parts` are the four dies of the die layer (0 to 3) and this module's place in
the module layer (4). -/
structure Range where
  ctx : Nat
  vgran : Nat
  len : Nat
  pgran : Nat
  home : Nat
  typ : Nat
  sched : Nat
  interval : Nat
  peers : List Nat
  parts : FMap Part_ := []
  deriving DecidableEq, Repr

/-- A block that a pump has sent (R216): from participant to participant, toward or from a peer in the module layer;
`merged` once the receiver has merged it; `back` tells where a peer's block is acknowledged, `req` is the request that a block to
a peer makes. -/
structure PumpBlock where
  id : Nat
  range : Nat
  src : Nat
  dst : Nat
  peer : Option Nat
  block : Nat
  data : List Byte
  merged : Bool
  back : Option Back := none
  req : Option Nat := none
  deriving DecidableEq, Repr

/-- A value on its way to an L2F that holds the cell (R214), and the merge it belongs to. -/
structure Push where
  cluster : Nat
  pa : Nat
  size : Nat
  typ : Nat
  val : Word
  merge : Nat
  deriving DecidableEq, Repr

/-- Who made a merge into a die's replica, and is told when it is performed (R214). -/
inductive MergeUser where
  | entry (core id : Nat)
  | block (id : Nat)
  | peer (dest : Back)
  deriving DecidableEq, Repr

/-- An LWAIT of a peer that the merge unit of a HOME replica holds (R220). -/
structure PeerWait where
  dest : Back
  pa : Nat
  typ : Nat
  x : Nat
  deriving DecidableEq, Repr

/-- Who waits for a remote answer (R102, R191, R231). -/
inductive ReqUser where
  | access (core carrel id : Nat)
  | entry (core id : Nat)
  | message (core : Nat) (dest tag : Nat)
  | siphRead (core ch elem : Nat)
  | siphWrite (core ch elem : Nat)
  | siphBar (core ch : Nat)
  | barr (core carrel : Nat)
  | lwait (core carrel : Nat)
  /-- the read-back of a NOTIFY-HOST node -/
  | notify (inst node : Nat)
  /-- a block of a pump to a peer -/
  | block (id : Nat)
  deriving DecidableEq, Repr

/-- An outstanding request to another agent: who waits, its address, its start in TIME and the answer once it has come
(R102, R309); `sent` is the flit, for a retry; `held` says that the destination holds it, with which its stream is free for the next
(R302). -/
structure Req where
  id : Nat
  user : ReqUser
  addr : Word
  start : Nat
  resp : Option RemoteResp := none
  outside : Bool
  sent : Option Flit := none
  held : Bool := false
  deriving DecidableEq, Repr

/-- The state of a node of an instance (R236 to R240). -/
inductive NodeState where
  | waiting | ready | running | done
  deriving DecidableEq, Repr

/-- A node of an instance: its record's words after patching, the predecessors that it still waits for, its start in TIME once
it has started, its place in the order of readiness, whether it holds its successors (R240), and what the first update that ends a
BARRIER node's wait left: a generation that moved on, or a broken object (R230), and the die of its owning hub (R236). -/
structure Node where
  words : List Word
  st : NodeState := .waiting
  left : Nat := 0
  status : Nat := 0
  verdict : Nat := 0
  start : Option Nat := none
  readyAt : Nat := 0
  holding : Bool := false
  moved : Option Bool := none
  hub : Nat := 0
  deriving DecidableEq, Repr

/-- A loaded graph (R225, R232). -/
structure Graph where
  id : Nat
  ctx : Nat
  image : List Byte
  unloaded : Bool := false
  deriving DecidableEq, Repr

/-- A live instance (R234). -/
structure Inst where
  id : Nat
  graph : Nat
  queue : Nat
  irq : Bool
  nodes : List Node
  deriving DecidableEq, Repr

/-- An accepted trigger (R233, R235). -/
structure Trigger where
  id : Nat
  graph : Nat
  irq : Bool
  ser : Bool
  patches : List (Nat × Nat × Word)
  deriving DecidableEq, Repr

/-- A trigger queue (R233, R234). -/
structure TQueue where
  queue : List Trigger := []
  reason : Nat := 0
  rej : Nat := 0
  done : Nat := 0
  acc : Nat := 0
  deriving DecidableEq, Repr

/-- A launch (R45 to R50). -/
structure Launch where
  id : Nat
  inst : Nat
  node : Nat
  ctx : Nat
  cores : List Nat
  twins : List Nat
  acts : Nat := 0
  repl : Nat := 0
  corr : Nat := 0
  tainted : Bool := false
  deriving DecidableEq, Repr

/-- A partition's place (R311 to R315): out while `shadow` holds its cores and its engine allotments. -/
structure Partition where
  ctx : Nat
  stopping : Bool
  isOut : Bool
  shadow : List (Nat × Core)
  tiles : List (Nat × FMap Tile × FMap Acc)
  held : List Flit
  deriving DecidableEq, Repr

/-- An entry of EGLOG (R324) and the entry it lands in. -/
structure EgEntry where
  ctx : Nat
  srck : Nat
  typ : Bool
  req : Nat
  addr : Nat
  deriving DecidableEq, Repr

/-- What a message on a scale-up link carries. -/
inductive LinkBody where
  | op (op : PeerOp)
  | resp (r : RemoteResp)
  deriving DecidableEq, Repr

/-- A message on a scale-up link (R307): the fields of its header that are not this module's own, its lane (R308), the address and
body, and the request of this module that it makes. -/
structure LinkMsg where
  dev : Nat
  dcore : Nat
  score : Nat
  tag : Nat
  ctx : Nat
  lane : Nat
  addr : Word
  body : LinkBody
  req : Option Nat := none
  deriving DecidableEq, Repr

/-- A link flit that has been sent (R306): its LSEQ, its bytes and its messages. -/
structure LinkFlit where
  lseq : Nat
  bytes : List Byte
  msgs : List LinkMsg
  deriving DecidableEq, Repr

/-- A scale-up port (R306 to R309): the next LSEQ to send and to receive, the messages that wait for a lane, the flits not
acknowledged, the failed replays and whether it is down. Of the far end's slots `used` counts those that each lane has claimed,
and `freed` those of this end's that are to be returned (R308). -/
structure Port where
  lseq : Nat := 0
  expected : Nat := 0
  queue : List LinkMsg := []
  replay : List LinkFlit := []
  used : FMap Nat := []
  freed : FMap Nat := []
  fails : Nat := 0
  down : Bool := false
  deriving DecidableEq, Repr

/-- What the resident OS receives of a carrel that halted (R124): the pending trap's registers and the second cause with its word
address and value. -/
structure HaltReport where
  ctx : Nat
  core : Nat
  carrel : Nat
  epc : Va
  pending : BitVec 12
  ptval : Word
  cause : Nat
  tval : Word
  pc : Va
  deriving DecidableEq, Repr

/-- A write of HCMD that has reached the hub (R232): its word, whether the host wrote it, and the cycle. -/
structure HubCmd where
  word : Word
  host : Bool
  cyc : Nat
  deriving DecidableEq, Repr

/-- What the module does toward the outside: interrupts, writes and reads toward the host and peers, answers to peers, and
reports to the resident OS. -/
inductive Output where
  | msix (vector : Nat)
  | hostWrite (addr : Nat) (data : List Byte)
  | hostRead (addr count : Nat)
  | hostOp (addr : Nat) (op : PeerOp)
  | hostData (data : List Byte) (poison : Bool)
  | linkFlit (port : Nat) (flit : LinkFlit)
  | shelfIrq (core : Option Nat)
  | osReport (r : HaltReport)
  | osNotice (core : Nat) (cause : Nat) (c2 c3 : Word)
  | osRecord (inst node : Nat)
  | osBlock (pa : Nat)
  deriving DecidableEq, Repr

/-- The hub die's registers (R232, R309, R317 to R322). `boot` keeps what the ROM has still to load; `hcmds` are the commands of HCMD
that are not yet performed; `osIrq` lists the control cores, from 0, for which a hub interrupt is pending (R361); `sendSeq`
numbers the streams that the hub sends on the torus (R302). -/
structure Hub where
  time : Word := 0
  epoch : BitVec 32 := 0
  devid : Nat := 0
  bstat : Word := 0
  w2base : Word := 0
  fences : List (Word × Word) := []
  locked : Bool := false
  egcnt : BitVec 32 := 0
  eglog : FMap EgEntry := []
  harg : Word := 0
  hctx : Word := 0
  hstat : Word := 0
  hcmds : List HubCmd := []
  boot : Option BootInput := none
  osIrq : List Nat := []
  msix : FMap Word := []
  pending : Word := 0
  caplist : Word := 0
  fablim : Word := 100
  routes : FMap Nat := []
  ports : FMap Port := []
  sendSeq : FMap Nat := []
  features : List Nat := [1, 2, 3, 4, 5, 6]
  graphs : List Graph := []
  insts : List Inst := []
  queues : FMap TQueue := []
  nextInst : Nat := 0
  launches : List Launch := []
  nextLaunch : Nat := 0
  partitions : List Partition := []
  waits : List PeerWait := []
  deriving DecidableEq, Repr

/-- What the machine does next: the agenda is an input of the model that fixes the order of steps where the manual leaves
it open. -/
inductive Choice where
  /-- a core's slots choose by its policy and issue, once in a cycle (R243 to R245) -/
  | slots (core : Nat)
  /-- one cycle passes (R3) -/
  | tick
  /-- an event of the opcode table -/
  | event (i : Instr)
  deriving DecidableEq, Repr

/-- The state of the module. -/
structure State where
  agenda : List Choice := []
  cur : Nat × Nat := (0, 0)
  cycle : Nat := 0
  cores : FMap Core := []
  clusters : FMap Cluster := []
  dies : FMap Die := []
  ctxs : FMap Ctx := []
  mem : List Host.Cell := []
  memTags : List Nat := []
  memPoison : List Nat := []
  flits : List Flit := []
  reqs : List Req := []
  nextReq : Nat := 1
  ranges : List Range := []
  blocks : List PumpBlock := []
  pushes : List Push := []
  merges : FMap MergeUser := []
  hub : Hub := {}
  outs : List Output := []
  deriving DecidableEq, Repr

/-- Why a step of the machine stops. -/
inductive Fault where
  /-- Raised by an access to a physical address behind which the module has no DRAM (R15 gives each die 96 GiB; R109 lets a
  table entry name any of 2^40 bytes). The manual gives such an access no effect for a core. Safe: nothing is claimed of it. -/
  | noDram (pa : Nat)
  deriving DecidableEq, Repr

/-- Why an instruction has no next state. -/
inductive Refusal where
  /-- The instruction's meaning is not written. Safe. -/
  | notModelled (mnemonic : String)
  deriving DecidableEq, Repr

/-- The module right after reset (R4, R5, R320, and the Reset columns): no context, no open bay, no folio, no catalogue
entry, every register field at its stated reset value (R5), TIME and EPOCH zero, FABLIM 100, each slot's last issuer carrel 7
(R245), the shelf map binding slot s to physical core s (R293). -/
def State.reset : State := {}

end Sys2Proof.Machine
end

