-- ==== Sys2Proof/Machine/Ops.lean ====
section
/-! DEFINITION. The operations every meaning shares: finite maps, the parts of the state, reading and writing registers,
taking a trap and returning from one (R119, R120, R124), completing a word, and the drain of an outbox (R165, R170). -/

namespace Sys2Proof.Machine

/-! ### Finite maps -/

/-- The value of a key. -/
def fget {α : Type} : FMap α → Nat → Option α
  | [], _ => none
  | (j, v) :: m, k => if j = k then some v else fget m k

/-- The value of a key, or a default. -/
def fgetD {α : Type} (m : FMap α) (k : Nat) (d : α) : α := (fget m k).getD d

/-- The map with one key set: in place when the key is there, else at the end. -/
def fset {α : Type} : FMap α → Nat → α → FMap α
  | [], k, v => [(k, v)]
  | (j, w) :: m, k, v => if j = k then (k, v) :: m else (j, w) :: fset m k v

/-- The map without a key. -/
def fdel {α : Type} : FMap α → Nat → FMap α
  | [], _ => []
  | (j, w) :: m, k => if j = k then fdel m k else (j, w) :: fdel m k

/-! ### Bits and bytes -/

/-- The `n` bits of `w` from bit `lo` up (R7). -/
def bitsAt (w : Nat) (lo n : Nat) : Nat := w / 2 ^ lo % 2 ^ n

/-- Bit `i` of `w`. -/
def bitAt (w : Nat) (i : Nat) : Bool := bitsAt w i 1 == 1

/-- `w` with the `n` bits from `lo` up replaced by those of `v`. -/
def putBits (w : Nat) (lo n v : Nat) : Nat := w - bitsAt w lo n * 2 ^ lo + v % 2 ^ n * 2 ^ lo

/-- The signed value of the low `n` bits of `x` (Sext of R7). -/
def signedOf (n x : Nat) : Int :=
  if x % 2 ^ n < 2 ^ (n - 1) then (x % 2 ^ n : Nat) else (x % 2 ^ n : Nat) - (2 ^ n : Nat)

/-- Sext(x, n) as a 64-bit value. -/
def sext64 (n x : Nat) : Word := BitVec.ofInt 64 (signedOf n x)

/-- Zext(x, n) as a 64-bit value. -/
def zext64 (n x : Nat) : Word := BitVec.ofNat 64 (x % 2 ^ n)

/-- A byte list as a little-endian number, tags dropped. -/
def tbNat (bs : List TByte) : Nat := leNat (bs.map (·.1))

/-- The bytes of a number with one tag flag. -/
def tbytes (n x : Nat) (tag : Bool) : List TByte := (natBytes n x).map fun b => (b, tag)

/-- The list with element `i` replaced by `f` of it. -/
def modAt {α : Type} : List α → Nat → (α → α) → List α
  | [], _, _ => []
  | x :: xs, 0, f => f x :: xs
  | x :: xs, n + 1, f => x :: modAt xs n f

/-- The list without element `i`. -/
def dropAt {α : Type} : List α → Nat → List α
  | [], _ => []
  | _ :: xs, 0 => xs
  | x :: xs, n + 1 => x :: dropAt xs n

/-- The index of the first element that passes. -/
def findIdx {α : Type} (p : α → Bool) : List α → Option Nat
  | [] => none
  | x :: xs => if p x then some 0 else (findIdx p xs).map (· + 1)

/-! ### Places -/

/-- The place `j` bytes further on. -/
def Loc.shift : Loc → Nat → Loc
  | .mem pa, j => .mem (pa + j)
  | .scr c r o, j => .scr c r (o + j)
  | .peer ga, j => .peer (ga + j)
  | .host ha, j => .host (ha + j)

/-- The places a commit-queue entry writes, where they are known: a barrier object's are its 16 bytes (R198). -/
def effLocs : Effect → List Loc
  | .store cells _ => cells.map (·.1)
  | .amo l _ n _ => (List.range n).map l.shift
  | .join pa _ n _ => (List.range n).map fun j => .mem (pa + j)
  | .barm _ l _ | .barb _ l _ => (List.range 16).map l.shift
  | .peer ga (.cellStore d _) => (List.range d.length).map fun j => .peer (ga.toNat + j)
  | .peer ga _ => (List.range 8).map fun j => .peer (ga.toNat + j)
  | _ => []

/-! ### The parts of the state -/

/-- A logical core; one that nothing has touched is as reset leaves it. -/
def State.core (s : State) (c : Nat) : Core := fgetD s.cores c {}
def State.setCore (s : State) (c : Nat) (x : Core) : State := { s with cores := fset s.cores c x }
def State.modCore (s : State) (c : Nat) (f : Core → Core) : State := s.setCore c (f (s.core c))

def State.cluster (s : State) (k : Nat) : Cluster := fgetD s.clusters k {}
def State.setCluster (s : State) (k : Nat) (x : Cluster) : State := { s with clusters := fset s.clusters k x }
def State.modCluster (s : State) (k : Nat) (f : Cluster → Cluster) : State := s.setCluster k (f (s.cluster k))

def State.die (s : State) (d : Nat) : Die := fgetD s.dies d {}
def State.setDie (s : State) (d : Nat) (x : Die) : State := { s with dies := fset s.dies d x }
def State.modDie (s : State) (d : Nat) (f : Die → Die) : State := s.setDie d (f (s.die d))

def State.ctx (s : State) (c : Nat) : Ctx := fgetD s.ctxs c {}
def State.setCtx (s : State) (c : Nat) (x : Ctx) : State := { s with ctxs := fset s.ctxs c x }

def Core.carrel (k : Core) (i : Nat) : Carrel := fgetD k.carrels i {}
def Core.setCarrel (k : Core) (i : Nat) (x : Carrel) : Core := { k with carrels := fset k.carrels i x }

def State.carrel (s : State) (c i : Nat) : Carrel := (s.core c).carrel i
def State.setCarrel (s : State) (c i : Nat) (x : Carrel) : State := s.setCore c ((s.core c).setCarrel i x)
def State.modCarrel (s : State) (c i : Nat) (f : Carrel → Carrel) : State := s.setCarrel c i (f (s.carrel c i))

/-- The core and the carrel whose word is being executed. -/
def State.myCore (s : State) : Core := s.core s.cur.1
def State.me (s : State) : Carrel := s.carrel s.cur.1 s.cur.2
def State.setMe (s : State) (x : Carrel) : State := s.setCarrel s.cur.1 s.cur.2 x
def State.modMe (s : State) (f : Carrel → Carrel) : State := s.setMe (f s.me)
def State.modMyCore (s : State) (f : Core → Core) : State := s.modCore s.cur.1 f

/-- The context of the executing core, and its context registers there (R67). -/
def State.myCtx (s : State) : Ctx := s.ctx s.myCore.ctx
def Core.cregs (k : Core) : CtxRegs := fgetD k.ctxRegs k.ctx {}
def Core.setCregs (k : Core) (x : CtxRegs) : Core := { k with ctxRegs := fset k.ctxRegs k.ctx x }

def Core.tagOf (k : Core) (t : Nat) : HTag := fgetD k.tags t {}
def Core.setTag (k : Core) (t : Nat) (x : HTag) : Core := { k with tags := fset k.tags t x }
def Core.chan (k : Core) (h : Nat) : Channel := fgetD k.chans h {}

/-- What selection sees of a channel as it stands (R34). -/
def Channel.gateView (x : Channel) : GateView := ⟨x.v, x.done || x.flt, x.wmk⟩
/-- A channel changes: selection sees the change from the next cycle on (R242). -/
def Core.setChan (k : Core) (h : Nat) (x : Channel) : Core :=
  { k with chans := fset k.chans h x,
           chanOld := if (k.chan h).gateView = x.gateView || (fget k.chanOld h).isSome then k.chanOld
             else fset k.chanOld h (k.chan h).gateView }

/-- An entry of the handler table changes: selection sees the change from the next cycle on (R27, R36). -/
def Core.laterTag (k : Core) (t : Nat) (x : HTag) : Core :=
  { k.setTag t x with tagOld := if (fget k.tagOld t).isSome then k.tagOld else fset k.tagOld t (k.tagOf t) }
/-- The entry as selection sees it. -/
def Core.selTag (k : Core) (t : Nat) : HTag := fgetD k.tagOld t (k.tagOf t)

def State.modHub (s : State) (f : Hub → Hub) : State := { s with hub := f s.hub }
/-- The module does something the outside sees. -/
def State.emit (s : State) (o : Output) : State := { s with outs := s.outs ++ [o] }

/-- The resident OS is told (R124, R238, R288): a hub interrupt is pending for each of the 16 control cores. -/
def State.tellOs (s : State) (o : Output) : State := (s.emit o).modHub fun h => { h with osIrq := List.range 16 }

/-- The control core goes on from HALT with the pending interrupt. -/
def State.takeIrq (s : State) (core : Nat) : State := s.modHub fun h => { h with osIrq := h.osIrq.filter (· ≠ core - 4096) }

/-- The n-th word of a node's record, and its KIND (R226). -/
def Node.word (n : Node) (i : Nat) : Nat := (n.words.getD i 0).toNat
def Node.kind (n : Node) : Nat := bitsAt (n.word 0) 0 4

/-- A feature of the feature chain (R326). -/
def State.hasFeature (s : State) (id : Nat) : Bool := s.hub.features.contains id

/-- A fresh number for a core's entries, messages and accesses. -/
def Core.fresh (k : Core) : Nat × Core := (k.nextId, { k with nextId := k.nextId + 1 })

/-- The cluster id (die × 64 + k) and the slot of a logical core (R53, R154); a control core stands at the hub. -/
def clusterOf (core : Nat) : Nat := core / 16
def slotOf (core : Nat) : Nat := core % 16
def isControl (core : Nat) : Bool := 4096 ≤ core && core < 4112

/-! ### Registers -/

/-- A register that nothing has written since dispatch: untagged zero, absent for c32 to c59 (R40, R43). -/
def cregInit (r : Reg) : CReg := { present := !(32 ≤ r.toNat && r.toNat ≤ 59) }

/-- The record of a register. -/
def Carrel.creg (c : Carrel) (r : Reg) : CReg := fgetD c.regs r.toNat (cregInit r)

/-- A read of a register's value: c0 is untagged zero (R55), a dead register reads untagged zero (R63). -/
def Carrel.read (c : Carrel) (r : Reg) : TCap :=
  if r = 0 then {} else
  if (c.creg r).dead then {} else { val := (c.creg r).val, tag := (c.creg r).tag }

/-- A register of the remote write window (R59). -/
def inRputWindow (r : Reg) : Bool := 32 ≤ r.toNat

/-- A write of a register: to c0 nothing; else the value with its tag, present, alive and without a mark (R43, R55, R63,
R123). A result that was on its way there is not waited for any more (R246). The value stands in the register from the issue on, also
where R246 lets a reader have it later: PCLR and a remote write of the cycles between come after it (DESIGN CHOICE, log entry 99). -/
def Carrel.write (c : Carrel) (r : Reg) (v : TCap) : Carrel :=
  if r = 0 then c else
  { c with regs := fset c.regs r.toNat { val := v.val, tag := v.tag },
           wrote := if inRputWindow r then r :: c.wrote else c.wrote, lat := fdel c.lat r.toNat }

/-- A write of the register has landed in this cycle, by the carrel's own words or from another core (R380). -/
def Carrel.writtenNow (c : Carrel) (r : Reg) : Bool := c.wrote.contains r || c.landed.contains r

/-- Data as a register value: bits [127:64] zero, untagged (R55). -/
def dataCap (w : Word) : TCap := { val := w.setWidth 128 }

/-- The data half of a register value (R55). -/
def TCap.data (t : TCap) : Word := t.val.setWidth 64

/-- Whether a register is bound as a stream register, and its stream (R197). -/
def Carrel.stream (c : Carrel) (r : Reg) : Option Stream := fget c.streams r.toNat

def Carrel.vreg (c : Carrel) (v : VReg) : VecReg := fgetD c.vregs v.toNat {}
def Carrel.setV (c : Carrel) (v : VReg) (x : VWord) : Carrel :=
  { c with vregs := fset c.vregs v.toNat { val := x }, lat := fdel c.lat (64 + v.toNat) }

/-- A mask; m0 reads as all ones (R64). -/
def Carrel.mask (c : Carrel) (m : MReg) : Word :=
  if m = 0 then BitVec.allOnes 64 else (fgetD c.masks m.toNat {}).val
/-- A write of a mask; to m0 nothing (R64). -/
def Carrel.setM (c : Carrel) (m : MReg) (x : Word) : Carrel :=
  if m = 0 then c else { c with masks := fset c.masks m.toNat { val := x }, lat := fdel c.lat (96 + m.toNat) }

/-- The write of a data result as a word makes it: into a bound stream register it is the next element (R197), else the
register. -/
def Carrel.put (c : Carrel) (r : Reg) (v : TCap) : Carrel :=
  match c.stream r with
  | some st =>
    let st' : Stream := { st with buffer := st.buffer ++ [(st.next, v.data)], next := st.next + 1 }
    { c with streams := fset c.streams r.toNat st' }
  | none => c.write r v

def State.put (s : State) (r : Reg) (v : TCap) : State := s.modMe (·.put r v)
def State.putData (s : State) (r : Reg) (w : Word) : State := s.put r (dataCap w)

/-! ### Traps (R117 to R120, R124) -/

/-- The address of the first word of the group (R83): the executing word lies after its hints. -/
def Carrel.groupPc (c : Carrel) : Va := c.pc - BitVec.ofNat 48 (4 * c.hints.length)

/-- CAUSE as a trap writes it: the code, and in HN the hint words before the trapping word (R117). -/
def causeWord (code hn : Nat) : BitVec 12 := BitVec.ofNat 12 (code % 1024 + 1024 * (hn % 4))

/-- A trap at level 1 (R124): the carrel halts, keeps its pending trap registers and records the second cause, which the
resident OS receives. -/
def doubleTrap (s : State) (c i : Nat) (code : Nat) (tval : Word) : State :=
  let k := s.carrel c i
  (s.setCarrel c i { k with st := .halted, second := some (code, tval, k.pc) }).tellOs
    (.osReport { ctx := (s.core c).ctx, core := c, carrel := i, epc := k.epc, pending := k.cause, ptval := k.tval,
                 cause := code, tval := tval, pc := k.pc })

/-- Taking a trap with cause `code` and value `tval` at the word of carrel `i` of core `c` (R119). At level 2 the resident
OS is entered at its own TVEC and the level stays 2 (R124). -/
def takeTrap (s : State) (c i : Nat) (code : Nat) (tval : Word) : State :=
  let k := s.carrel c i
  if k.lv = 1 then doubleTrap s c i code tval else
  let k' := { k with
    epc := k.groupPc, cause := causeWord code k.hints.length, tval := tval,
    plv := k.lv, hints := [], park := none, prioTried := false, bufs := [], barr := none,
    loads := k.loads.filter fun l => l.dest != .buffer,
    pc := (s.ctx (s.core c).ctx).tvec }
  if k.lv = 2 then s.setCarrel c i k'
  else s.setCarrel c i { k' with lv := 1, st := .runtime }

/-- The causes that ERET does not return from (R126). -/
def causeIsAbortive (c : BitVec 12) : Bool :=
  let code := c.toNat % 1024
  code == 0x2C1 || code == 0x2C2 || code == 0x2C3

/-- A carrel as it is when it becomes Free in cycle `cyc`: nothing of the activation is left but the trap registers (R22,
R118). It can be dispatched into from the next cycle on (R36). -/
def Carrel.freed (c : Carrel) (cyc : Nat) : Carrel :=
  { st := .free, freedAt := some cyc, cause := c.cause, epc := c.epc, tval := c.tval, deferr := c.deferr }

/-- The launch a core belongs to, by its number. -/
def Core.launchId (k : Core) : Option Nat := k.bay.map (·.launch)

/-- A change to the record of a launch. -/
def State.modLaunch (s : State) (l : Option Nat) (f : Launch → Launch) : State :=
  match l with
  | none => s
  | some id => s.modHub fun h =>
      { h with launches := h.launches.map fun x => if x.id = id then f x else x }

/-- The launch's verdict becomes tainted (R287). -/
def State.taint (s : State) (c : Nat) : State :=
  s.modLaunch (s.core c).launchId fun l => { l with tainted := true }

/-- The inbox entry of an activation retires (R30). -/
def Core.retireEntry (k : Core) (id : Nat) : Core :=
  { k with inbox := k.inbox.filter fun e => e.id ≠ id }

/-- The carrel's activation is over: its inbox entry retires, ACT falls by one and the carrel is Free (R30, R44). -/
def Core.endActivation (k : Core) (i cyc : Nat) : Core :=
  let c := k.carrel i
  let t := k.tagOf c.tag
  ((k.laterTag c.tag { t with act := t.act - 1 }).retireEntry c.entry).setCarrel i (c.freed cyc)

/-- Abandoning an activation (R126): the undrained outbox is discarded, the message retires, the carrel is Free and the
verdict tainted. The twin of a paired activation is abandoned with it (R286). -/
def abandon (s : State) (c i : Nat) : State :=
  (s.taint c).modCore c (·.endActivation i s.cycle)

/-! ### Completing a word -/

/-- The cycles of a YIELD hint in a group (R362). -/
def yieldOf : List Insn → Option Nat
  | [] => none
  | w :: ws =>
    match decodeWord w with
    | .ok (.hintYield n) => some n.toNat
    | _ => yieldOf ws

/-- The fields of a completed word's carrel: no hints pending, a YIELD period begun if the group asked for one (R245, R363),
no result of a read at issue left. `yield` is the count of cycles left and 1 more, so that 1 stands for a period that has run
out and 0 for none; the rest of the completion's own cycle does not count. -/
def Carrel.completed (c : Carrel) : Carrel :=
  { c with hints := [], prioTried := false, bufs := [],
           yield := match yieldOf c.hints with
                    | some 0 => c.yield
                    | some n => n + 2
                    | none => c.yield }

/-- The word completes and the next word of memory follows (R70). -/
def State.retire (s : State) : State :=
  s.modMe fun c => { c.completed with pc := c.pc + 4 }

/-- The word completes and control goes to `pc`: a taken transfer, after which the carrel issues no earlier than two cycles later
(R247). -/
def State.retireTo (s : State) (pc : Va) : State :=
  s.modMe fun c => { c.completed with pc := pc, gap := 2 }

/-- The state in which a carrel that stops waiting goes on: Runtime at level 1, else Running (R39). -/
def Carrel.awake (c : Carrel) : Carrel :=
  { c with st := if c.lv = 1 then .runtime else .running, park := none }

/-! ### The outbox (R165, R166, R170) -/

/-- The capacities of R13 and R44. -/
def outboxMax : Nat := 64
def queueMax : Nat := 256

/-- The commit queue has room for the carrel's outbox, and every load that precedes an entry has completed (R44, R166). -/
def canDrain (s : State) (c i : Nat) : Bool :=
  (s.carrel c i).loads.all (fun l => l.dest == .none) &&
  (s.core c).queue.length + (s.carrel c i).outbox.length ≤ queueMax

/-- What a twin applies of an entry of a drain: what it writes to the twin's own scratchpad, and a TAGCTL (R286). -/
def twinPart (c : Nat) (e : Entry) : Option Entry :=
  match e.eff with
  | .store cells tag =>
    let own := cells.filter fun (l, _) => match l with | .scr k _ _ => k == c | _ => false
    if own.isEmpty then none else some { e with eff := .store own tag }
  | .amo (.scr k _ _) _ _ _ | .barm _ (.scr k _ _) _ | .barb _ (.scr k _ _) _ => if k = c then some e else none
  | .tagctl .. => some e
  | _ => none

/-- The outbox leaves, in program order, into the core's commit queue, as one drain (R166). -/
def drainOutbox (s : State) (c i : Nat) : State :=
  let k := s.core c
  let x := k.carrel i
  let d := k.nextId
  let out := if x.pair && k.twinOf.isSome then x.outbox.filterMap (twinPart c) else x.outbox
  let q := k.queue ++ out.map (fun e => { e with drain := d })
  let k' : Core := { k with queue := q, nextId := d + 1 }
  s.setCore c (k'.setCarrel i { x with outbox := [] })

/-- A commit point (R170): the outbox drains and the activation is no longer replayable (NR). -/
def commitPoint (s : State) (c i : Nat) : State :=
  (drainOutbox s c i).modCarrel c i fun x => { x with nr := true, pairOk := false, cmpWait := false }

/-- An Ending carrel whose write-stream elements are all in the outbox loses its bindings, and what they have prefetched (R353). -/
def Carrel.ended (c : Carrel) : Carrel :=
  if c.st == .ending && c.streams.all fun (_, st) => !st.write || st.buffer.isEmpty then
    { c with streams := [], loads := c.loads.filter fun l => match l.dest with | .stream .. => false | _ => true }
  else c

/-- The outbox with one more entry, numbered. -/
def putEntry (s : State) (c i : Nat) (e : Entry) : State :=
  let (id, k) := (s.core c).fresh
  let x := k.carrel i
  s.setCore c (k.setCarrel i { x with outbox := x.outbox ++ [{ e with id := id }] })

end Sys2Proof.Machine
end

