-- ==== Sys2Proof/Machine/BarObject.lean ====
section
/-! DEFINITION. The barrier object (R198) as a number of 128 bits, and what each update makes of it (R199, R200). -/

namespace Sys2Proof.Machine

/-- BROKEN and GEN. -/
def barBroken (w : Nat) : Bool := bitAt w 112
def barGen (w : Nat) : Nat := bitsAt w 0 4

def barExpected (w : Nat) : Nat := bitsAt w 4 14
def barPending (w : Nat) : Int := signedOf 14 (bitsAt w 18 14)
def barIn (w : Nat) : Nat := bitsAt w 32 40
def barOut (w : Nat) : Nat := bitsAt w 72 40
def barAuto (w : Nat) : Bool := bitAt w 115
def barNotify (w : Nat) : Bool := bitAt w 116
def barTag (w : Nat) : Nat := bitsAt w 117 6
def barScope (w : Nat) : Nat := bitsAt w 123 5

/-- PENDING as a signed number of 14 bits. -/
def putPending (w : Nat) (p : Int) : Nat := putBits w 18 14 (p % (2 ^ 14 : Nat)).toNat

/-- UNDERFLOW and BROKEN (R199). -/
def barBreak (w : Nat) : Nat := putBits w 112 2 3

/-- The phases that an update completes (R199): the object, and its image at each phase that sends notices. `p` is
PENDING. -/
def barPhases : Nat → Nat → Int → Nat × List Nat
  | 0, w, p => (putPending w p, [])
  | fuel + 1, w, p =>
    if 0 < p then (putPending w p, []) else
    let p' := p + barExpected w
    let w' := putBits w 0 4 (barGen w + 1)
    let (x, imgs) := if barExpected w = 0 then (putPending w' p', []) else barPhases fuel w' p'
    (x, if barNotify w then putPending w' p' :: imgs else imgs)

/-- The evaluation after a counting update (R199). -/
def barEval (w : Nat) : Nat × List Nat :=
  if barBroken w || barIn w ≠ 0 || barOut w ≠ 0 then (w, []) else barPhases 8194 w (barPending w)

/-- A count of bytes (R199, R200): no effect on a broken object; out of range it breaks the object. -/
def barCount (w : Nat) (out sub : Bool) (n : Nat) : Nat × List Nat :=
  if barBroken w then (w, []) else
  let old := if out then barOut w else barIn w
  if (if sub then old < n else 2 ^ 40 ≤ old + n) then (barBreak w, []) else
  barEval (putBits w (if out then 72 else 32) 40 (if sub then old - n else old + n))

/-- One arrival (R199, R336). -/
def barArrive (w : Nat) : Nat × List Nat :=
  let p := barPending w - 1
  if p < -8192 then (barBreak w, []) else
  barEval (putPending (if p < 0 then putBits w 114 1 1 else w) p)

/-- The initialisation of BARM (R200): GEN stays. -/
def barInit (w : Nat) (b : Word) : Nat :=
  let b := b.toNat
  barGen w + bitsAt b 0 14 * 2 ^ 4 + bitsAt b 0 14 * 2 ^ 18 + bitsAt b 15 1 * 2 ^ 115 + bitsAt b 14 1 * 2 ^ 116 +
    bitsAt b 16 6 * 2 ^ 117 + bitsAt b 22 5 * 2 ^ 123

end Sys2Proof.Machine
end

