-- ==== Sys2Proof/Machine/Activation.lean ====
section
/-! DEFINITION. Starting an activation in a carrel (R40 to R43), starting it again after an error (R280, R281), and the
partner of a paired activation (R283). -/

namespace Sys2Proof.Machine

/-- The register value of a payload word (R42). -/
def pwordCap : PWord → TCap
  | .data v => dataCap v
  | .cap v t => { val := v, tag := t }

/-- c9, the activation information (R41). -/
def activationInfo (kind sdev aseq score tag : Nat) : Word :=
  BitVec.ofNat 64 (kind % 16 * 2 ^ 60 + sdev % 4096 * 2 ^ 48 + aseq % 65536 * 2 ^ 32 + score % 4096 * 2 ^ 16 + tag % 64)

/-- The registers at dispatch: the payload from c1, c9, and the bundle in c60 to c63 (R40 to R43). -/
def dispatchRegs (h : HTag) (e : InboxEnt) : FMap CReg :=
  let pay := (e.words.take 8).zipIdx.map fun (w, n) =>
    (n + 1, ({ val := (pwordCap w).val, tag := (pwordCap w).tag } : CReg))
  let info := (9, ({ val := (activationInfo e.kind e.sdev e.seq e.score e.tag).setWidth 128 } : CReg))
  let bundle := (List.range 4).map fun g =>
    (60 + g, ({ val := (fgetD h.caps g {}).val, tag := (fgetD h.caps g {}).tag } : CReg))
  pay ++ info :: bundle

/-- A remote write of window index `i` (R43, R59). The carrel as an outstanding load would leave it holds the value too. Of a
remote write and a write of the carrel's own in one cycle, the own one remains (R60), in what a load would leave also. -/
def Carrel.rput (c : Carrel) (i : Nat) (w : PWord) : Carrel :=
  let v := pwordCap w
  let put := fun (m : FMap CReg) => fset m (32 + i) { val := v.val, tag := v.tag }
  let r : Reg := BitVec.ofNat 6 (32 + i)
  let land := fun (wrote : List Reg) (m : FMap CReg) => if wrote.contains r then m else put m
  { c with regs := land c.wrote c.regs, landed := r :: c.landed,
           loads := c.loads.map fun l => { l with undo := l.undo.map fun u => { u with regs := land u.wrote u.regs } } }

/-- An event that ends a parked IDLE has occurred (R361): an accepted message, a remote write of one of the carrel's registers, DONE or
FLT of a channel. -/
def Carrel.wakeIdle (c : Carrel) : Carrel :=
  match c.park with
  | some p => match p.why with
    | .idle _ => { c with park := some { p with woken := true } }
    | _ => c
  | none => c
def Core.wakeIdles (k : Core) : Core := { k with carrels := k.carrels.map fun (i, c) => (i, c.wakeIdle) }

/-- A carrel as dispatch sets it (R40): nothing of an earlier activation but the trap registers (R22, R118). -/
def carrelInit (old : Carrel) (h : HTag) (e : InboxEnt) (act born : Nat) (pair : Bool) : Carrel :=
  { st := .running, tag := e.tag, aseq := e.seq, entry := e.id, act := act, born := born,
    pc := h.haddr, regs := dispatchRegs h e, pair := pair, rply := e.rply,
    cause := old.cause, epc := old.epc, tval := old.tval, deferr := old.deferr }

/-- The carrel of core `p` that runs the activation of a tag and sequence number. -/
def findActivation (k : Core) (tag aseq : Nat) : Option Nat :=
  findIdx (fun i => let c := k.carrel i; c.st != .free && c.tag == tag && c.aseq == aseq) (List.range 8)

/-- The core paired with `c` and the carrel there that runs the other execution of the activation in carrel `i` (R283). -/
def partner (s : State) (c i : Nat) : Option (Nat × Nat) :=
  let k := s.core c
  let x := k.carrel i
  match k.twin, k.twinOf with
  | some p, _ => (findActivation (s.core p) x.tag x.aseq).map fun j => (p, j)
  | none, some p => (findActivation (s.core p) x.tag x.aseq).map fun j => (p, j)
  | none, none => none

/-- The table entry with HADDR and the bundle that an activation was dispatched with (R281). -/
def HTag.asBegun (h : HTag) (e : InboxEnt) : HTag :=
  match e.begun with
  | some (pc, caps) => { h with haddr := pc, caps := caps }
  | none => h

/-- The carrel set as at dispatch from the same inbox entry, with its recorded remote writes reapplied and RPLY `n`; its first
word issues in a later cycle (R280, R281). -/
def restart (s : State) (c i n : Nat) : State :=
  let k := s.core c
  let x := k.carrel i
  match k.inbox.find? fun e => e.id == x.entry with
  | none => s
  | some e =>
    let y := carrelInit x ((k.tagOf x.tag).asBegun e) { e with rply := n } x.act x.born x.pair
    let y := e.rputs.foldl (fun y (j, w) => y.rput j w) y
    let inbox := k.inbox.map fun e => if e.id = x.entry then { e with rply := n } else e
    s.setCore c (({ k with inbox := inbox } : Core).setCarrel i { y with mismatch := x.mismatch, gap := 1 })

/-- Counts one replay in the record of the core's node (R238, R280). -/
def State.countReplay (s : State) (c : Nat) : State :=
  s.modLaunch (s.core c).launchId fun l => { l with repl := l.repl + 1 }

/-- Consuming an uncorrectable error at address `x` (R278, R280). Both executions of a paired activation replay, by the
primary's NR and RPLY (R286). -/
def consumeError (s : State) (c i : Nat) (x : Word) : State :=
  let p := match (s.core c).twinOf, partner s c i with
    | some _, some q => s.carrel q.1 q.2
    | _, _ => s.carrel c i
  if p.nr then takeTrap s c i 0x2C1 x else
  if p.rply = 2 then takeTrap s c i 0x2C2 x else
  let s1 := restart s c i (p.rply + 1)
  let s2 := match partner s c i with
    | some (d, j) => restart s1 d j (p.rply + 1)
    | none => s1
  s2.countReplay c

end Sys2Proof.Machine
end

