-- ==== Sys2Proof/Machine/Memory.lean ====
section
/-! DEFINITION. Module memory (R15, R105): bytes in one canonical list, the tag flags, the poisoned 32-byte ECC words,
and the DRAM that exists. -/

namespace Sys2Proof.Machine

/-- The DRAM of a die: 96 GiB (R15). -/
def dramBytes : Nat := 0x1800000000

/-- A physical address behind which there is DRAM: PA[39:38] is the home die (R15). -/
def hasDram (pa : Nat) : Bool := pa < 2 ^ 40 && pa % 2 ^ 38 < dramBytes

/-- The home die of a physical address (R15). -/
def homeOf (pa : Nat) : Nat := pa / 2 ^ 38 % 4

/-- What a byte of memory that nothing has written reads as: zero (DESIGN CHOICE, log entry 2). -/
def emptyByte : Byte := 0

/-- The canonical form of memory: addresses strictly rising and no entry that reads as an unlisted byte does. -/
def memWf : List Host.Cell → Bool
  | [] => true
  | [(_, v)] => v != emptyByte
  | (a, v) :: (b, w) :: m => v != emptyByte && a < b && memWf ((b, w) :: m)

/-- The byte at an address. -/
def memGet : List Host.Cell → Nat → Byte
  | [], _ => emptyByte
  | (a, v) :: m, x => if a = x then v else memGet m x

/-- The memory with one byte set, in canonical form. -/
def memSet : List Host.Cell → Nat → Byte → List Host.Cell
  | [], x, v => if v = emptyByte then [] else [(x, v)]
  | (a, w) :: m, x, v =>
    if x < a then (if v = emptyByte then (a, w) :: m else (x, v) :: (a, w) :: m)
    else if x = a then (if v = emptyByte then m else (x, v) :: m)
    else (a, w) :: memSet m x v

/-- Sets of numbers as strictly rising lists. -/
def insertNat : List Nat → Nat → List Nat
  | [], x => [x]
  | a :: m, x => if x < a then x :: a :: m else if x = a then a :: m else a :: insertNat m x

def eraseNat : List Nat → Nat → List Nat
  | [], _ => []
  | a :: m, x => if x = a then m else a :: eraseNat m x

/-- A byte of DRAM with its tag flag. -/
def State.memByte (s : State) (pa : Nat) : TByte := (memGet s.mem pa, s.memTags.contains pa)

/-- A write of one byte of DRAM with its tag flag. -/
def State.setMemByte (s : State) (pa : Nat) (b : TByte) : State :=
  { s with
    mem := memSet s.mem pa b.1,
    memTags := if b.2 then insertNat s.memTags pa else eraseNat s.memTags pa }

/-- A write of bytes of DRAM from an address up. -/
def State.writeMem (s : State) (pa : Nat) : List TByte → State
  | [] => s
  | b :: bs => (s.setMemByte pa b).writeMem (pa + 1) bs

/-- Bytes of DRAM from an address up. -/
def State.readMem (s : State) (pa : Nat) : Nat → List TByte
  | 0 => []
  | n + 1 => s.memByte pa :: s.readMem (pa + 1) n

/-- The ECC words, by number, that [pa, pa + len) touches. -/
def eccWords (pa len : Nat) : List Nat :=
  if len = 0 then [] else (List.range ((pa + len - 1) / 32 - pa / 32 + 1)).map (pa / 32 + ·)

/-- Memory poison of ECC words (R145). -/
def State.poisonWords (s : State) (ws : List Nat) : State :=
  { s with memPoison := ws.foldl insertNat s.memPoison }

/-- A write that covers all of an ECC word leaves it without poison (R145). -/
def State.cleanWords (s : State) (pa len : Nat) : State :=
  { s with memPoison := s.memPoison.filter fun w => !(pa ≤ 32 * w && 32 * w + 32 ≤ pa + len) }

/-- The bytes as write-back or an uncached write leaves them in memory. -/
def State.storeMem (s : State) (pa : Nat) (bs : List TByte) : State :=
  (s.writeMem pa bs).cleanWords pa bs.length

end Sys2Proof.Machine
end

