-- ==== Sys2Proof/Machine/Cache.lean ====
section
/-! DEFINITION. One folio cache (R130 to R152): sets, lookup, gaps, sectors, and the pieces of a folio. Everything here is about one
cache by itself; Machine/Coherence.lean joins the caches of the module. -/

namespace Sys2Proof.Machine

/-- Which cache: its set hash and its sectors (R13, R134). -/
inductive Level where
  | l1 | l2
  deriving DecidableEq, Repr

/-- The set of a key (R134). -/
def setOf : Level → Nat → Nat
  | .l1, k => bitsAt k 0 7 ^^^ bitsAt k 7 7 ^^^ bitsAt k 14 7 ^^^ bitsAt k 21 7
  | .l2, k => bitsAt k 0 10 ^^^ bitsAt k 10 10 ^^^ bitsAt k 20 8

/-- The sectors of the data array (R10, R13): 128 KiB and 4 MiB of 32 bytes. -/
def sectorsOf : Level → Nat
  | .l1 => 4096
  | .l2 => 131072

/-- The sectors of an extent (R132). -/
def sectorCount (start fin : Nat) : Nat := (fin + 31) / 32 - start / 32

def Folio.count (f : Folio) : Nat := sectorCount f.start f.fin

/-- The sector that holds a granule offset of the folio (R132). -/
def Folio.sector (f : Folio) (off : Nat) : Nat := f.base + (off / 32 - f.start / 32)

/-- The folio owns the sector. -/
def Folio.ownsSector (f : Folio) (x : Nat) : Bool := f.base ≤ x && x < f.base + f.count

/-- The folio's extent holds the offset. -/
def Folio.covers (f : Folio) (off : Nat) : Bool := f.start ≤ off && off < f.fin

/-- The byte was invalidated while it was filling (R141). -/
def Folio.dropped (f : Folio) (off : Nat) : Bool := f.drops.any fun (a, b, _) => a ≤ off && off < b

/-- The offset can be read (R131): of a Filling folio what has arrived and has not been invalidated. -/
def Folio.readable (f : Folio) (off : Nat) : Bool :=
  f.covers off && (f.st != .filling || (off < f.wmk && !(f.dropped off)))

def Folio.isFor (f : Folio) (scr : Bool) (key : Nat) : Bool := f.scr == scr && f.key == key

/-- The same folio of a cache: its folios of one granule are disjoint (R132), so that where it starts tells it. -/
def Folio.same (f g : Folio) : Bool := f.scr == g.scr && f.key == g.key && f.start == g.start

/-- The folio's extent meets [lo, hi). -/
def Folio.meets (f : Folio) (lo hi : Nat) : Bool := f.start < hi && lo < f.fin

def Folio.byte (f : Folio) (off : Nat) : TByte := f.data.getD (off - f.start) (0, false)

/-- The folio that lets a byte be read (R134). -/
def Cache.find (c : Cache) (scr : Bool) (key off : Nat) : Option Folio :=
  c.folios.find? fun f => f.isFor scr key && f.readable off

/-- The extent of some folio holds the byte, filled or not. -/
def Cache.has (c : Cache) (scr : Bool) (key off : Nat) : Bool :=
  c.folios.any fun f => f.isFor scr key && f.covers off

/-- Some folio that is not filling holds the byte. -/
def Cache.holds (c : Cache) (key off : Nat) : Bool :=
  c.folios.any fun f => f.isFor false key && f.st != .filling && f.covers off

/-- The byte is held Dirty. -/
def Cache.isDirty (c : Cache) (key off : Nat) : Bool :=
  c.folios.any fun f => f.isFor false key && f.st == .dirty && f.covers off

/-- Some byte of [lo, hi) lies in a folio that is still filling. -/
def Cache.fills (c : Cache) (key lo hi : Nat) : Bool :=
  c.folios.any fun f => f.isFor false key && f.st == .filling && f.meets lo hi

/-- The byte as a lookup finds it, with the poison of its sector (R133, R145). -/
def Cache.get (c : Cache) (scr : Bool) (key off : Nat) : Option (TByte × Bool) :=
  (c.find scr key off).map fun f => (f.byte off, c.poison.contains (f.sector off))

/-- The folios that meet [lo, hi) of a granule become the most recently used. -/
def Cache.touch (c : Cache) (key lo hi : Nat) : Cache :=
  let hit := fun (f : Folio) => f.isFor false key && f.meets lo hi
  { c with folios := c.folios.filter hit ++ c.folios.filter fun f => !(hit f) }

/-- Maximal runs of offsets of [lo, lo + n) that pass a test, as extents. -/
def runsOf (p : Nat → Bool) : Nat → Nat → Option Nat → List (Nat × Nat)
  | lo, 0, some a => [(a, lo)]
  | _, 0, none => []
  | lo, n + 1, open_ =>
    if p lo then runsOf p (lo + 1) n (some (open_.getD lo))
    else match open_ with
      | some a => (a, lo) :: runsOf p (lo + 1) n none
      | none => runsOf p (lo + 1) n none

/-- A requested extent widened to 32-byte boundaries within the granule (R136). -/
def widened (lo hi : Nat) : Nat × Nat := (lo / 32 * 32, min 4096 ((hi + 31) / 32 * 32))

/-- The gaps that a load of granule offsets [lo, hi) leaves (R136): widened to 32 bytes, less every byte held. -/
def Cache.gaps (c : Cache) (key lo hi : Nat) : List (Nat × Nat) :=
  let (a, b) := widened lo hi
  runsOf (fun o => !(c.has false key o)) a (b - a) none

/-- The ways of a set in use (R138). -/
def Cache.waysUsed (c : Cache) (l : Level) (key : Nat) : Nat :=
  (c.folios.filter fun f => setOf l f.key == setOf l key).length

/-- The set has `n` ways besides those in use. -/
def Cache.hasWays (c : Cache) (l : Level) (key n : Nat) : Bool := c.waysUsed l key + n ≤ 8

/-- A folio without the bytes of [lo, hi): what is left of it keeps its sectors (R140, R141). -/
def Folio.cut (f : Folio) (lo hi : Nat) : List Folio :=
  (if f.start < lo then
    [{ f with fin := min f.fin lo, data := f.data.take (lo - f.start), wmk := min f.wmk lo }] else []) ++
  (if hi < f.fin then
    [{ f with start := max f.start hi, base := f.sector (max f.start hi), data := f.data.drop (hi - f.start),
              wmk := max f.wmk hi }] else [])

/-- The part [lo, hi) of a folio as a folio. -/
def Folio.part (f : Folio) (lo hi : Nat) : Folio :=
  { f with start := max f.start lo, fin := min f.fin hi, base := f.sector (max f.start lo),
           data := (f.data.drop (lo - f.start)).take (min f.fin hi - max f.start lo) }

/-- The sectors that no folio owns lose their poison. -/
def Cache.tidy (c : Cache) : Cache := { c with poison := c.poison.filter fun x => c.folios.any (·.ownsSector x) }

/-- The cache with a folio replaced, in its place of the recency order. -/
def Cache.replace (c : Cache) (f : Folio) (gs : List Folio) : Cache :=
  Cache.tidy { c with folios := c.folios.flatMap fun x => if x.same f then gs else [x] }

/-- The cache without a folio. -/
def Cache.drop (c : Cache) (f : Folio) : Cache := c.replace f []

/-- The lowest-numbered free run of `n` sectors (R140). -/
def Cache.freeRun (c : Cache) (l : Level) (n : Nat) : Option Nat :=
  let used := c.folios.map fun f => (f.base, f.base + f.count)
  let ok := fun p => p + n ≤ sectorsOf l && used.all fun (a, b) => p + n ≤ a || b ≤ p
  let cands := (0 :: used.map (·.2)).filter ok
  cands.foldl (fun m p => match m with | none => some p | some q => some (min p q)) none

/-- The pairs of folios of the set of `key` that share a granule, have one state and abut, in the order of their extents (R138,
step 2). -/
def Cache.abutting (c : Cache) (l : Level) (key : Nat) : List (Folio × Folio) :=
  c.folios.flatMap fun f =>
    if setOf l f.key == setOf l key && (f.st == .clean || f.st == .dirty) then
      (c.folios.filter fun g => g.isFor f.scr f.key && g.st == f.st && g.window == f.window && f.fin == g.start).map fun g => (f, g)
    else []

/-- Two abutting folios as one (R138, step 2), its sectors from `base` on. -/
def Folio.join (f g : Folio) (base : Nat) : Folio :=
  { f with fin := g.fin, base := base, data := f.data ++ g.data, keep := f.keep && g.keep, retry := f.retry || g.retry,
           mask := f.mask ++ g.mask.filter fun m => !(f.mask.contains m),
           writers := f.writers ++ g.writers.filter fun m => !(f.writers.contains m) }

/-- The cache with two abutting folios as one, the most recently used: in place, or copied to a new run with their poison (R138). -/
def Cache.coalesce (c : Cache) (f g : Folio) (base : Nat) : Cache :=
  let m := f.join g base
  let bad := fun (h : Folio) (o : Nat) => h.covers o && c.poison.contains (h.sector o)
  let moved := (List.range m.count).filter fun i =>
    (List.range 32).any fun j => bad f ((m.start / 32 + i) * 32 + j) || bad g ((m.start / 32 + i) * 32 + j)
  Cache.tidy { folios := m :: c.folios.filter fun x => !(x.same f) && !(x.same g), poison := c.poison ++ moved.map (base + ·) }

/-- The folios with a new one: most recently used, or next victim under STREAM (R146). -/
def Cache.add (c : Cache) (f : Folio) (lru : Bool) : Cache :=
  { c with folios := if lru then c.folios ++ [f] else f :: c.folios }

/-- What is filling of [lo, hi) of a granule is to be dropped as it arrives (R141); a window's only when `win` (R115). `tell` has the
home told of it (R366). -/
def Cache.dropLate (c : Cache) (key lo hi : Nat) (win tell : Bool) : Cache :=
  { c with folios := c.folios.map fun f =>
      if f.isFor false key && f.st == .filling && f.meets lo hi && (win || !f.window) then { f with drops := (lo, hi, tell) :: f.drops } else f }

/-- The 32-byte words of a granule that [lo, hi) touches. -/
def sectorsIn (lo hi : Nat) : List Nat := (List.range ((hi + 31) / 32 - lo / 32)).map (lo / 32 + ·)

/-- A launch has written bytes of [lo, hi) of the folio's granule (R287). -/
def Folio.writtenBy (f : Folio) (l : Option Nat) (lo hi : Nat) : Folio :=
  match l with
  | none => f
  | some l => { f with writers := f.writers ++ ((sectorsIn lo hi).map fun i => (i, l)).filter fun w => !(f.writers.contains w) }

/-- The data of a folio with a byte replaced. -/
def Folio.setByte (f : Folio) (off : Nat) (b : TByte) : Folio :=
  { f with data := modAt f.data (off - f.start) fun _ => b }

/-- The folio with the bytes that a write brings to it; `bytes` are granule offsets with their values. -/
def Folio.update (f : Folio) (bytes : List (Nat × TByte)) : Folio :=
  bytes.foldl (fun f (o, b) => if f.readable o then f.setByte o b else f) f

/-- A write that covers all 32 bytes of a sector clears its poison (R145). -/
def Cache.scrub (c : Cache) (scr : Bool) (key lo hi : Nat) : Cache :=
  let gone := c.folios.flatMap fun f =>
    if f.isFor scr key then
      ((List.range f.count).filter fun i =>
        lo ≤ (f.start / 32 + i) * 32 && (f.start / 32 + i) * 32 + 32 ≤ hi).map (f.base + ·)
    else []
  { c with poison := c.poison.filter fun x => !(gone.contains x) }

/-- The bytes updated in place in whatever folios hold them (R139), which their writer's launch has then written (R287). -/
def Cache.updateHeld (c : Cache) (scr : Bool) (key : Nat) (bytes : List (Nat × TByte)) : Cache :=
  { c with folios := c.folios.map fun f => if f.isFor scr key then f.update bytes else f }

/-- Sector `x` may become the folio's sector for 32-byte word `i` of its granule (R132, R133): it is the folio's own, or free, or a folio
of the granule that touches the word owns it for that word. -/
def Cache.shareable (c : Cache) (f : Folio) (x i : Nat) : Bool :=
  f.ownsSector x || c.folios.all fun g =>
    !(g.ownsSector x) || (g.isFor f.scr f.key && g.start / 32 ≤ i && g.base + (i - g.start / 32) == x)

/-- A Dirty folio that a new extent abuts and can extend with a contiguous sector run (R140): the folio before and after, the new
bytes `bs` included. -/
def Cache.extendable (c : Cache) (l : Level) (key lo hi : Nat) (bs : List TByte) (window : Bool) : Option (Folio × Folio) :=
  c.folios.findSome? fun f =>
    if f.isFor false key && f.st == .dirty && f.window == window && (f.fin == lo || hi == f.start) then
      let s := min f.start lo
      let e := max f.fin hi
      let b := f.base - (f.start / 32 - s / 32)
      if f.start / 32 - s / 32 ≤ f.base && b + sectorCount s e ≤ sectorsOf l &&
         (List.range (sectorCount s e)).all (fun i => c.shareable f (b + i) (s / 32 + i)) then
        some (f, { f with start := s, fin := e, base := b, wmk := s,
                          data := if f.fin == lo then f.data ++ bs else bs ++ f.data })
      else none
    else none

end Sys2Proof.Machine
end

