-- ==== Sys2Proof/Machine/Health.lean ====
section
/-! DEFINITION. The shelf map (R293) and health counts with their triggers (R279, R288, R299): the registers, the start of a
reshelving, and triggers that have to wait. -/

namespace Sys2Proof.Machine

/-- The slot of a logical core that no physical core backs (R292, R293): PHYS reads 0x1F. -/
def shelfOf (k : Cluster) : Nat :=
  (k.shelf.getD (BitVec.ofNat 128 (0x10 * 2 ^ 80 +
    (List.range 16).foldl (fun n i => n + i * 2 ^ (5 * i)) 0))).toNat

def physOf (s : State) (core : Nat) : Nat := bitsAt (shelfOf (s.cluster (clusterOf core))) (5 * slotOf core) 5
def spareOf (s : State) (k : Nat) : Nat := bitsAt (shelfOf (s.cluster k)) 80 5
def unavailable (s : State) (k : Nat) : Bool := bitAt (shelfOf (s.cluster k)) 103
/-- The slot is unbacked: by the map, or marked so until its launch finishes (R292, R293). -/
def unbacked (s : State) (core : Nat) : Bool := physOf s core == 0x1F || (s.core core).lost

/-- The health register of a physical core, and its fields (R288). -/
def State.health (s : State) (k p : Nat) : Nat := (fgetD (s.cluster k).health p 0).toNat
def ceb (w : Nat) : Nat := bitsAt w 56 8
def cet (w : Nat) : Nat := bitsAt w 48 8
def leakOf (w : Nat) : Nat := bitsAt w 32 16
def evacOf (w : Nat) : Nat := bitsAt w 8 24
def disOf (w : Nat) : Bool := bitAt w 0

def State.setHealth (s : State) (k p w : Nat) : State :=
  s.modCluster k fun c => { c with health := fset c.health p (BitVec.ofNat 64 w) }

/-- The slot that a physical core backs. -/
def slotBacked (s : State) (k p : Nat) : Option Nat := (List.range 16).find? fun i => physOf s (16 * k + i) = p

/-- The cores of a context's bays on the module: its partition (R311). -/
def partitionCores (s : State) (ctx : Nat) : List Nat :=
  (s.cores.filter fun (_, c) => c.ctx = ctx && c.bay.isSome).map (·.1)

/-- Those that a switch-out has stopped (R312). -/
def stoppedCores (s : State) (ctx : Nat) : List Nat := (partitionCores s ctx).filter fun c => (s.core c).stopped

/-- Cores of the cluster are being switched out, or are out (R299). -/
def clusterAway (s : State) (k : Nat) : Bool :=
  s.hub.partitions.any fun p => (p.isOut && p.shadow.any fun (c, _) => clusterOf c == k) ||
    (p.stopping && (stoppedCores s p.ctx).any fun c => clusterOf c == k)

/-- Reshelving starts with its freeze, or the resident OS gets the shelf interrupt (R288, R289). Reshelving is feature 5. -/
def honour (s : State) (k p : Nat) : State :=
  let w := s.health k p
  match slotBacked s k p with
  | none => s.tellOs (.shelfIrq none)
  | some i =>
    if disOf w || spareOf s k = 0x1F || !(s.hasFeature 5) then s.tellOs (.shelfIrq (some (16 * k + i)))
    else s.modCluster k fun c => { c with
      reshelve := some { slot := i, phys := p, spare := spareOf s k, phase := .evacuate, cycles := 0, expired := false,
                         limit := evacOf w } }

/-- A trigger: one that meets a reshelving or a partition switch in its cluster waits (R299). -/
def trigger (s : State) (k p : Nat) : State :=
  if (s.cluster k).reshelve.isSome || clusterAway s k then s.modCluster k fun c => { c with waiting := c.waiting ++ [(p, false)] }
  else honour s k p

/-- An error that a physical core detects, corrected or repaired: CEB, and the trigger when it reaches CET (R279, R288). -/
def countError (s : State) (k p : Nat) : State :=
  let w := s.health k p
  let t := s.setHealth k p (putBits w 56 8 (min 255 (ceb w + 1)))
  if ceb w < 255 && cet w ≠ 0 && ceb w + 1 = cet w then trigger t k p else t

/-- An error that the cluster detects, in its L2F or in memory (R279): no register shows the count. -/
def countCluster (s : State) (k : Nat) : State := s.modCluster k fun c => { c with errors := c.errors + 1 }

/-- An error that a logical core detects in its L1F or scratchpad. -/
def countAt (s : State) (core : Nat) : State := countError s (clusterOf core) (physOf s core)

end Sys2Proof.Machine
end

