-- ==== Sys2Proof/Machine/Coherence.lean ====
section
/-! DEFINITION. The caches of the module together (R138 to R152): the messages between an L2F and a home (R156), ways and runs, eviction,
removal of bytes, fills, the placement of writes, the catalogue's entries (R154), the coherent device-scope accesses that engines,
the siphon and the hub make in one step, and scratchpad regions with their twins (R148 to R150). -/

namespace Sys2Proof.Machine

/-! ### Messages (R156) -/

/-- The colour of a context's partition (R303). -/
def State.colourOf (s : State) (ctx : Nat) : Nat := (s.ctx ctx).colour

/-- The router of a die's home, one of the die's own (R156). -/
def homeAt (die : Nat) : Nat := die * 64 + Config.homeRouter die % 64

/-- A catalogue message goes from its cluster to its home as a flit of its stream (R156, R302). -/
def sendToHome (s : State) (m : CatMsg) : State :=
  let k := s.cluster m.cluster
  let q := fgetD k.sendSeq m.die 0
  let f : Flit := { colour := m.colour, kind := 5, dst := homeAt m.die, src := m.cluster, seq := q, at_ := m.cluster, body := .cat m }
  let s := s.setCluster m.cluster { k with sendSeq := fset k.sendSeq m.die ((q + 1) % 65536) }
  { s with flits := s.flits ++ [f] }

/-- A catalogue message goes from its home to its cluster (R156, R302). -/
def sendToCluster (s : State) (m : CatMsg) : State :=
  let d := s.die m.die
  let q := fgetD d.sendSeq m.cluster 0
  let f : Flit := { colour := m.colour, kind := 5, dst := m.cluster, src := homeAt m.die, seq := q, at_ := homeAt m.die, body := .cat m }
  let s := s.setDie m.die { d with sendSeq := fset d.sendSeq m.cluster ((q + 1) % 65536) }
  { s with flits := s.flits ++ [f] }

/-- An extent in pieces that one flit carries, of at most 64 bytes (R300): cut at the multiples of 64. -/
def pieces (pa len : Nat) : List (Nat × Nat) :=
  if len = 0 then [] else
  (List.range ((pa + len - 1) / 64 - pa / 64 + 1)).map fun i =>
    let a := max pa ((pa / 64 + i) * 64)
    (a, min (pa + len) ((pa / 64 + i + 1) * 64) - a)

/-- The part of a message's bytes and poisoned words that a piece of it carries. -/
def CatMsg.piece (m : CatMsg) (pa len : Nat) : CatMsg :=
  { m with pa := pa, len := len, data := (m.data.drop (pa - m.pa)).take len,
           poison := m.poison.filter fun w => w * 32 < pa + len && pa < w * 32 + 32, last := pa + len == m.pa + m.len }

/-- Every catalogue message that is on its way or waits to be taken. -/
def flying (s : State) : List CatMsg :=
  let cat := fun (f : Flit) => match f.body with
    | .cat m => some m
    | _ => none
  s.flits.filterMap cat ++ (s.clusters.flatMap fun (_, k) => (k.arrived ++ k.reorder).filterMap cat) ++ s.dies.flatMap fun (_, d) => d.inbox

/-- A change to every catalogue message that is on its way or waits to be taken. -/
def State.modFlying (s : State) (g : CatMsg → CatMsg) : State :=
  let cat := fun (f : Flit) => match f.body with
    | .cat m => { f with body := .cat (g m) }
    | _ => f
  { s with flits := s.flits.map cat,
           clusters := s.clusters.map fun (n, k) => (n, { k with arrived := k.arrived.map cat, reorder := k.reorder.map cat }),
           dies := s.dies.map fun (n, d) => (n, { d with inbox := d.inbox.map g }) }

/-- The message's extent meets [lo, hi). -/
def CatMsg.meets (m : CatMsg) (lo hi : Nat) : Bool := m.pa < hi && lo < m.pa + m.len

/-! ### Caches by name -/

/-- An L1F by its core, or an L2F by its cluster. -/
inductive CacheRef where
  | l1 (core : Nat)
  | l2 (cluster : Nat)
  deriving DecidableEq, Repr

def CacheRef.level : CacheRef → Level
  | .l1 _ => .l1
  | .l2 _ => .l2

/-- The cores of a cluster: 17 bits of R144 name the slots. -/
def coresOf (k : Nat) : List Nat := (List.range 16).map (k * 16 + ·)

/-- The cores whose accesses go through the cache. -/
def CacheRef.cores : CacheRef → List Nat
  | .l1 c => [c]
  | .l2 k => coresOf k

def State.cacheOf (s : State) : CacheRef → Cache
  | .l1 c => (s.core c).l1
  | .l2 k => (s.cluster k).l2

def State.modCache (s : State) (r : CacheRef) (f : Cache → Cache) : State :=
  match r with
  | .l1 c => s.modCore c fun k => { k with l1 := f k.l1 }
  | .l2 k => s.modCluster k fun c => { c with l2 := f c.l2 }

/-- The core mask of an L2F's folios of a granule names the L1Fs that hold some of their bytes (R144). -/
def refreshMask (s : State) (k key : Nat) : State :=
  let holds := fun (f : Folio) (c : Nat) => (s.core c).l1.folios.any fun g => g.isFor false key && g.meets f.start f.fin
  let set := fun (f : Folio) => if f.isFor false key then { f with mask := (coresOf k).filter (holds f) } else f
  s.modCache (.l2 k) fun c => { c with folios := c.folios.map set }

/-! ### Ways and runs (R138, R140) -/

/-- An access is in progress on bytes of the folio (R138, step 3): a load that waits, or a store that has asked for ownership. -/
def inUse (s : State) (r : CacheRef) (f : Folio) : Bool :=
  let hit := fun (l : Loc) => match l with
    | .mem pa => pa / 4096 == f.key && f.covers (pa % 4096)
    | _ => false
  !f.scr && r.cores.any fun c =>
    ((s.core c).carrels.any fun (_, x) => x.loads.any fun l => l.elems.any fun e => e.want.any fun (_, p) => hit p) ||
    (r.level == .l2 && (s.core c).queue.any fun e => e.sent.isSome && (effLocs e.eff).any hit)

/-- The least recently used folio that may be a victim, of a set or of the whole array, but none of `keep` (R138, step 3, R146). -/
def victim (s : State) (r : CacheRef) (key : Option Nat) (keep : List Folio) : Option Folio :=
  let cand := (s.cacheOf r).folios.filter fun f =>
    (match key with | some k => setOf r.level f.key == setOf r.level k | none => true) &&
    f.st != .pinned && f.st != .filling && !(keep.any f.same) && !(inUse s r f)
  match (cand.filter fun f => !f.keep).getLast? with
  | some f => some f
  | none => cand.getLast?

/-- A run of `n` free sectors, by eviction where none is free (R140). -/
def makeRun (ev : State → Folio → State) (r : CacheRef) (n : Nat) (keep : List Folio) : Nat → State → Option (State × Nat)
  | 0, s => ((s.cacheOf r).freeRun r.level n).map fun b => (s, b)
  | fuel + 1, s =>
    match (s.cacheOf r).freeRun r.level n with
    | some b => some (s, b)
    | none => match victim s r none keep with
      | some f => makeRun ev r n keep fuel (ev s f)
      | none => none

/-- Two folios of the set of `key` coalesce (R138, step 2): the first pair, in the recency order of the left folio, for which it
succeeds. -/
def mergeStep (ev : State → Folio → State) (s : State) (r : CacheRef) (key : Nat) : Option State :=
  ((s.cacheOf r).abutting r.level key).findSome? fun (f, g) =>
    (if f.sector g.start = g.base then some (s.modCache r (·.coalesce f g f.base))
     else (makeRun ev r (sectorCount f.start g.fin) [f, g] (s.cacheOf r).folios.length s).map fun (t, b) =>
       t.modCache r (·.coalesce f g b)).map fun t => match r with
    | .l2 k => refreshMask t k f.key
    | .l1 _ => t

/-- `n` ways of the set by R138, steps 1 and 2. -/
def freeWays (ev : State → Folio → State) (r : CacheRef) (key n : Nat) : Nat → State → Option State
  | 0, s => if (s.cacheOf r).hasWays r.level key n then some s else none
  | fuel + 1, s =>
    if (s.cacheOf r).hasWays r.level key n then some s else
    match mergeStep ev s r key with
    | some t => freeWays ev r key n fuel t
    | none => none

/-- A way of the set (R138). -/
def makeWay (ev : State → Folio → State) (s : State) (r : CacheRef) (key : Nat) : Option State :=
  match freeWays ev r key 1 8 s with
  | some t => some t
  | none => (victim s r (some key) []).map (ev s)

/-- A new folio, with a way and a run of its own; `none` when R138 yields no way. -/
def newFolio (ev : State → Folio → State) (s : State) (r : CacheRef) (f : Folio) (lru : Bool) : Option State :=
  match makeWay ev s r f.key with
  | none => none
  | some s => (makeRun ev r f.count [] (s.cacheOf r).folios.length s).map fun (s, b) => s.modCache r (·.add { f with base := b } lru)

/-- The bytes [lo, hi) of a granule leave the folios of a cache that do not fill (R141); `lost` removes a folio that can not split. -/
def cutFolios (ev : State → Folio → State) (lost : State → Folio → List Folio → State) (r : CacheRef) (key lo hi : Nat) (win : Bool) :
    Nat → State → State
  | 0, s => s
  | fuel + 1, s =>
    match (s.cacheOf r).folios.find? fun f => f.isFor false key && f.st != .filling && f.meets lo hi && (win || !f.window) with
    | none => s
    | some f =>
      let parts := f.cut lo hi
      if parts.length ≤ 1 || (s.cacheOf r).hasWays r.level key 1 then cutFolios ev lost r key lo hi win fuel (s.modCache r (·.replace f parts))
      else match mergeStep ev s r key with
        | some t => cutFolios ev lost r key lo hi win fuel t
        | none => cutFolios ev lost r key lo hi win fuel (lost s f parts)

/-! ### L1F -/

/-- An eviction from an L1F (R138, R144): the L2F clears the core's bit where none of its folios is left. -/
def evictL1 (s : State) (c : Nat) (f : Folio) : State := refreshMask (s.modCache (.l1 c) (·.drop f)) (clusterOf c) f.key

/-- The bytes leave an L1F (R141, R144). -/
def removeL1 (s : State) (c key lo hi : Nat) (win : Bool) : State :=
  if !((s.core c).l1.folios.any fun f => f.isFor false key && f.meets lo hi) then s else
  let t := cutFolios (evictL1 · c) (fun s f _ => evictL1 s c f) (.l1 c) key lo hi win 32 s
  refreshMask (t.modCache (.l1 c) (·.dropLate key lo hi win false)) (clusterOf c) key

/-- The bytes leave every L1F of the cluster (R144). -/
def removeFromL1s (s : State) (k key lo hi : Nat) (win : Bool) : State := (coresOf k).foldl (fun s c => removeL1 s c key lo hi win) s

/-! ### Eviction and removal in an L2F -/

/-- The poisoned ECC words of the part [lo, hi) of a folio, by number (R145). -/
def poisonedWords (c : Cache) (f : Folio) (lo hi : Nat) : List Nat :=
  ((List.range f.count).filter fun i =>
      c.poison.contains (f.base + i) && (f.start / 32 + i) * 32 < hi && lo < (f.start / 32 + i) * 32 + 32).map
    fun i => f.key * 128 + f.start / 32 + i

/-- Poisoned ECC words of a folio go home: the launches that have written bytes of them are tainted (R287). -/
def taintWriters (s : State) (f : Folio) (ws : List Nat) : State :=
  let guilty := fun (id : Nat) => f.writers.any fun (i, l) => l == id && ws.contains (f.key * 128 + i)
  if ws.isEmpty then s
  else s.modHub fun h => { h with launches := h.launches.map fun l => if guilty l.id then { l with tainted := true } else l }

/-- Bytes of a folio of an L2F go to home memory, with the poison of their sectors (R143, R145). -/
def writeBack (s : State) (k : Nat) (f : Folio) (lo hi : Nat) : State :=
  let p := f.part lo hi
  let ws := poisonedWords (s.cluster k).l2 f p.start p.fin
  ((taintWriters s f ws).storeMem (f.key * 4096 + p.start) p.data).poisonWords ws

/-- An eviction notice for a folio (R156, R157): with the bytes when it is Dirty, which then await their EACK, in pieces that a flit
carries (R300). A folio of a non-coherent window has no catalogue entry: its Dirty bytes go straight to memory (R115). The notice belongs
to no context, so its flits have colour 0, as its EACK and the recalls of a replaced entry have (DESIGN CHOICE, log entry 108). -/
def sendEvn (s : State) (k : Nat) (f : Folio) : State :=
  let pa := f.key * 4096 + f.start
  let m : CatMsg := { kind := .evn, cluster := k, die := homeOf pa, pa := pa, len := f.fin - f.start }
  if f.window then (if f.st == .dirty then writeBack s k f f.start f.fin else s)
  else if f.st != .dirty then sendToHome s m
  else
    let ws := poisonedWords (s.cluster k).l2 f f.start f.fin
    let m := { m with data := f.data, dirty := true, poison := ws }
    (pieces pa m.len).foldl (fun s (a, n) =>
      sendToHome (s.modCluster k fun c => { c with evn := c.evn ++ [(a, n)] }) (m.piece a n)) (taintWriters s f ws)

/-- A cluster leaves the mask of each replica block of a granule of which it holds no folio any more (R214). -/
def leaveMasks (s : State) (k key : Nat) : State :=
  let gone := ((List.range 16).map (key * 16 + ·)).filter fun b =>
    !((s.cluster k).l2.folios.any fun g => g.isFor false key && g.meets (b % 16 * 256) (b % 16 * 256 + 256))
  s.modDie (key / 2 ^ 26 % 4) fun d =>
    { d with masks := d.masks.map fun (b, ks) => if gone.contains b then (b, ks.filter (· ≠ k)) else (b, ks) }

/-- A folio leaves an L2F, and its bytes the L1Fs of the cluster (R144). -/
def dropL2 (s : State) (k : Nat) (f : Folio) : State :=
  leaveMasks (removeFromL1s (s.modCache (.l2 k) (·.drop f)) k f.key f.start f.fin true) k f.key

/-- An eviction from an L2F (R138, R143, R144): the notice goes home and the bytes leave the L1Fs. -/
def evictL2 (s : State) (k : Nat) (f : Folio) : State := dropL2 (sendEvn s k f) k f

/-- A folio that can not split leaves whole (R141): its bytes outside the extent go as by eviction, Dirty ones written back. -/
def loseL2 (s : State) (k : Nat) (f : Folio) (parts : List Folio) : State := dropL2 (parts.foldl (fun s p => sendEvn s k p) s) k f

/-- The bytes leave an L2F and the L1Fs of its cluster (R141, R142, R144), those of a window only when `win` (R115). Dirty bytes are lost
unless the caller has taken them; `tell` has the home told of those that are still filling (R366). The answer says whether bytes were
removed. -/
def removeL2 (s : State) (k key lo hi : Nat) (win tell : Bool) : State × Bool :=
  let hits := (s.cluster k).l2.folios.filter fun f => f.isFor false key && f.meets lo hi && (win || !f.window)
  if hits.isEmpty then (s, false) else
  let t := cutFolios (evictL2 · k) (fun s f ps => loseL2 s k f ps) (.l2 k) key lo hi win 32 s
  let t := t.modCache (.l2 k) (·.dropLate key lo hi win tell)
  (leaveMasks (removeFromL1s t k key lo hi win) k key, hits.any fun f => f.st != .filling)

/-- The first Dirty folio, by address, that holds bytes of [lo, hi) of a granule. -/
def dirtyAt (s : State) (k key lo hi : Nat) (win : Bool) : Option Folio :=
  ((s.cluster k).l2.folios.filter fun f => f.isFor false key && f.st == .dirty && f.meets lo hi && (win || !f.window)).foldl
    (fun o f => match o with
      | none => some f
      | some g => if f.start < g.start then some f else some g) none

/-- The Dirty bytes of [lo, hi) of a granule go to home memory, in whatever folios hold them (R143): what becomes of the folios is the
caller's. -/
def copyBack (s : State) (k key lo hi : Nat) (win : Bool) : State :=
  ((s.cluster k).l2.folios.filter fun f => f.isFor false key && f.st == .dirty && f.meets lo hi && (win || !f.window)).foldl
    (fun s f => writeBack s k f lo hi) s

/-- The Dirty bytes of [lo, hi) of a granule in an L2F go to home memory and stay held, Clean (R143): a folio that lies only partly in the
extent splits as R140 has it, with ways of R138, steps 1 and 2. Where those give none, the folio stays as it is under `stay` (a WBR); for a
read at the home its bytes of the extent leave, as by R141 (DESIGN CHOICE, log entry 90: R153 lets no other L2F hold a byte beside a Dirty
one). -/
def cleanDirty (k key : Nat) (win stay : Bool) (hi : Nat) : Nat → Nat → State → State
  | 0, _, s => s
  | fuel + 1, lo, s =>
    match dirtyAt s k key lo hi win with
    | none => s
    | some f =>
      let parts := f.cut lo hi
      let p : Folio := { f.part lo hi with st := .clean, writers := [] }
      let back := writeBack s k f lo hi
      if (s.cluster k).l2.hasWays .l2 key parts.length then
        cleanDirty k key win stay hi fuel f.fin (back.modCache (.l2 k) (·.replace f (p :: parts)))
      else match mergeStep (evictL2 · k) s (.l2 k) key with
        | some t => cleanDirty k key win stay hi fuel lo t
        | none =>
          if stay then cleanDirty k key win stay hi fuel f.fin back
          else if parts.length ≤ 1 then
            cleanDirty k key win stay hi fuel f.fin
              (removeFromL1s (back.modCache (.l2 k) (·.replace f parts)) k key p.start p.fin true)
          else cleanDirty k key win stay hi fuel f.fin (loseL2 back k f parts)

/-! ### Fills (R136) -/

/-- How an access allocates (R146), and for whom: the colour of its partition (R303), the launch that writes (R287), the core whose fill
it is (R50), and the offsets of the granule that its cluster owns, where a write's request has asked for them (R157). -/
structure Policy where
  stream : Bool := false
  keep : Bool := false
  window : Bool := false
  retry : Bool := false
  colour : Nat := 0
  launch : Option Nat := none
  asker : Option Nat := none
  own : Option (Nat × Nat) := none
  deriving DecidableEq, Repr

/-- A new folio in an L2F. -/
def newL2 (s : State) (k key lo hi : Nat) (st : FState) (data : List TByte) (p : Policy) : Option State :=
  let f : Folio := { st := st, scr := false, keep := p.keep, wmk := lo, start := lo, fin := hi, base := 0, key := key, data := data,
                     window := p.window, retry := p.retry, asker := if st == .filling then p.asker else none }
  let f := if st == .dirty then f.writtenBy p.launch lo hi else f
  (newFolio (evictL2 · k) s (.l2 k) f p.stream).map fun s => refreshMask s k key

/-- A new Filling folio in an L1F. -/
def newL1 (s : State) (c key lo hi : Nat) (p : Policy) : Option State :=
  let f : Folio := { st := .filling, scr := false, keep := p.keep, wmk := lo, start := lo, fin := hi, base := 0, key := key,
                     data := List.replicate (hi - lo) (0, false), window := p.window, retry := p.retry }
  newFolio (evictL1 · c) s (.l1 c) f p.stream

/-- The cluster enters the mask of each replica block (R214). -/
def joinMask (s : State) (die k pa len : Nat) : State :=
  s.modDie die fun d => { d with masks := ((List.range ((pa + len - 1) / 256 - pa / 256 + 1)).foldl (fun m i =>
    let b := pa / 256 + i
    let old := fgetD m b []
    fset m b (if old.contains k then old else old ++ [k])) d.masks) }

/-- The sectors of an L2F in which bytes of [lo, hi) of a granule lie become poisoned where their ECC words are (R145): those that receive
the bytes, and no other. -/
def stainWords (s : State) (k key lo hi : Nat) (ws : List Nat) : State :=
  let hit := fun (f : Folio) => if f.isFor false key then
      (ws.filter fun w => f.meets (max lo (w * 32 - key * 4096)) (min hi (w * 32 + 32 - key * 4096))).map
        fun w => f.sector (max f.start (w * 32 - key * 4096))
    else []
  if ws.isEmpty then s else
  s.modCache (.l2 k) fun c => { c with poison := c.poison ++ (c.folios.flatMap hit).filter fun x => !(c.poison.contains x) }

/-- Whether the cluster has asked for ownership of bytes of [lo, hi) of a granule, or for an update of them at the home, and has no answer
yet. Fills leave those bytes out until it has come (DESIGN CHOICE, log entry 90). -/
def asked (s : State) (k key lo hi : Nat) : Bool :=
  (s.cluster k).reqs.any fun q => (q.msg.kind == .geto || q.msg.kind == .uncw) &&
    key * 4096 + lo < q.msg.pa + q.msg.len && q.msg.pa < key * 4096 + hi

/-- The gaps of a load in an L2F (R136), but for bytes whose ownership is being asked for. -/
def gapsOf (s : State) (k key lo hi : Nat) : List (Nat × Nat) :=
  let gaps := (s.cluster k).l2.gaps key lo hi
  if asked s k key (lo / 32 * 32) ((hi + 31) / 32 * 32) then
    gaps.flatMap fun (a, b) => runsOf (fun o => !(asked s k key o (o + 1))) a (b - a) none
  else gaps

/-- A fill of a gap in an L2F (R136): the Filling folio and its GETS; inside a window, and for a replica of a cistern, the
memory of the die answers without the catalogue, and a refetch that brings clean data is over at once (R145). `false` when no way is
found. -/
def fillL2 (s : State) (k key lo hi : Nat) (p : Policy) (cistern : Bool) : State × Bool :=
  let pa := key * 4096 + lo
  if cistern || p.window then
    let ws := (eccWords pa (hi - lo)).filter s.memPoison.contains
    match newL2 s k key lo hi .clean (s.readMem pa (hi - lo)) { p with retry := p.retry && !ws.isEmpty } with
    | none => (s, false)
    | some s =>
      let s := stainWords s k key lo hi ws
      (if cistern then joinMask s (homeOf pa) k pa (hi - lo) else s, true)
  else
    match newL2 s k key lo hi .filling (List.replicate (hi - lo) (0, false)) p with
    | none => (s, false)
    | some s => (sendToHome s { kind := .gets, cluster := k, die := homeOf pa, pa := pa, len := hi - lo, colour := p.colour }, true)

/-- Each gap of an L2F fills; `false` when one found no way. -/
def fillGaps (s : State) (k key : Nat) (gaps : List (Nat × Nat)) (p : Policy) (cistern : Bool) : State × Bool :=
  gaps.foldl (fun (s, ok) (x, y) =>
    let (s, o) := fillL2 s k key x y p cistern
    (s, ok && o)) (s, true)

/-- Each gap of an L1F fills from the L2F behind it; `false` when one found no way. -/
def fillL1Gaps (s : State) (core key : Nat) (gaps : List (Nat × Nat)) (p : Policy) : State × Bool :=
  let (t, ok) := gaps.foldl (fun (s, ok) (x, y) =>
    match newL1 s core key x y p with
    | some s => (s, ok)
    | none => (s, false)) (s, true)
  (refreshMask t (clusterOf core) key, ok)

/-- The fills that a load of granule offsets [lo, hi) of a core starts (R136): L1F gaps, and L2F gaps behind them. `nal1`
keeps the L1F out (R146); a cistern's cells are never in it (R147). The L2F is looked up for what the L1F lacks. When a gap of either finds
no way nothing is allocated, and the answer is `false`: what is missing is served uncached (R147). -/
def startFill (s : State) (core key lo hi : Nat) (p : Policy) (nal1 cistern : Bool) : State × Bool :=
  let k := clusterOf core
  let p := { p with asker := some core }
  let s := if p.stream then s else s.modCache (.l2 k) (·.touch key lo hi)
  match fillGaps s k key (gapsOf s k key lo hi) p cistern with
  | (_, false) => (s, false)
  | (t, true) =>
    if nal1 || cistern then (t, true) else
    let (a, b) := widened lo hi
    let g1 := runsOf (fun o => !((t.core core).l1.has false key o) && (t.cluster k).l2.has false key o) a (b - a) none
    match fillL1Gaps t core key g1 p with
    | (_, false) => (s, false)
    | (u, true) => (u, true)

/-- A folio whose fill is over becomes Clean and loses what was invalidated meanwhile (R131, R141); a refetch that brought clean data
is over with it (R145). -/
def finishFill (s : State) (r : CacheRef) (f : Folio) (remove : State → Nat → Nat → Bool → State) : State :=
  let bad := (List.range f.count).any fun i => (s.cacheOf r).poison.contains (f.base + i)
  let g : Folio := { f with st := .clean, drops := [], wmk := f.fin, retry := f.retry && bad, asker := none }
  f.drops.foldl (fun s (a, b, tell) => remove s (max a f.start) (min b f.fin) tell) (s.modCache r (·.replace f [g]))

/-! ### Writes (R139, R140) -/

/-- Whether every byte of [lo, hi) of a granule is held Dirty in the cluster's L2F. -/
def allDirty (s : State) (k key lo hi : Nat) : Bool :=
  (List.range (hi - lo)).all fun i => (s.cluster k).l2.isDirty key (lo + i)

/-- The bytes of a write in the L1Fs of a cluster that hold them (R139). -/
def updateL1s (s : State) (k key : Nat) (bytes : List (Nat × TByte)) (lo hi : Nat) : State :=
  (coresOf k).foldl (fun s c =>
    if ((s.core c).l1.folios.any fun f => f.isFor false key && f.meets lo hi) = true then
      s.modCache (.l1 c) fun x => (x.updateHeld false key bytes).scrub false key lo hi
    else s) s

/-- The bytes as offsets of a granule. -/
def offsets (lo : Nat) (bs : List TByte) : List (Nat × TByte) := bs.zipIdx.map fun (b, i) => (lo + i, b)

/-- The Clean folios of an L2F that hold bytes of [lo, hi) of a granule. -/
def cleanAt (s : State) (k key lo hi : Nat) : List Folio :=
  (s.cluster k).l2.folios.filter fun f => f.isFor false key && f.st == .clean && f.meets lo hi

/-- The offsets that a write to [lo, hi) of a granule needs to own: its own, and, where the set has too few ways to split the Clean folios
that it meets, those of the folios, which become Dirty whole (R140). R139 and R157 have ownership of exactly the written bytes asked for,
and R153 lets no byte be held Dirty that another L2F holds: the request covers the folios too (DESIGN CHOICE, log entry 96). -/
def ownExtent (s : State) (k key lo hi : Nat) : Nat × Nat :=
  let fs := (cleanAt s k key lo hi).filter (!·.window)
  if (freeWays (evictL2 · k) (.l2 k) key (fs.map fun f => (f.cut lo hi).length).sum 8 s).isSome then (lo, hi)
  else fs.foldl (fun (a, b) f => (min a f.start, max b f.fin)) (lo, hi)

/-- The bytes of [lo, hi) of a granule become Dirty in the Clean folios that hold them (R140): a Clean folio splits into Clean left,
Dirty middle, Clean right; without ways for that by R138, steps 1 and 2, the whole folio becomes Dirty. Of a folio that is not owned whole,
since its set has filled up after the request, the Clean bytes that are not owned leave instead (DESIGN CHOICE, log entry 96). -/
def dirtyClean (k key lo hi : Nat) (own : Option (Nat × Nat)) : Nat → State → State
  | 0, s => s
  | fuel + 1, s =>
    match cleanAt s k key lo hi with
    | [] => s
    | f :: _ =>
      let parts := f.cut lo hi
      let mid : Folio := { f.part lo hi with st := .dirty }
      if (s.cluster k).l2.hasWays .l2 key parts.length then
        dirtyClean k key lo hi own fuel (s.modCache (.l2 k) (·.replace f (mid :: parts)))
      else match mergeStep (evictL2 · k) s (.l2 k) key with
        | some t => dirtyClean k key lo hi own fuel t
        | none =>
          let (a, b) := own.getD (0, 4096)
          let rest := if f.window then [] else f.cut a b
          let t := s.modCache (.l2 k) (·.replace f [{ f.part (if f.window then 0 else a) (if f.window then 4096 else b) with st := .dirty }])
          dirtyClean k key lo hi own fuel (rest.foldl (fun s p => removeFromL1s (sendEvn s k p) k key p.start p.fin false) t)

/-- The bytes of a write that an L2F holds, in place, with their copies in the L1Fs (R139). -/
def writeHeld (s : State) (k key lo : Nat) (bs : List TByte) (p : Policy) : State :=
  let hi := lo + bs.length
  let bytes := offsets lo bs
  let mine := fun (f : Folio) => if f.isFor false key && f.st == .dirty && f.meets lo hi then f.writtenBy p.launch (max f.start lo) (min f.fin hi) else f
  let t := (dirtyClean k key lo hi p.own 32 s).modCache (.l2 k) fun c =>
    let c := (c.updateHeld false key bytes).scrub false key lo hi
    let c := { c with folios := c.folios.map mine }
    if p.stream then c else c.touch key lo hi
  updateL1s (refreshMask t k key) k key bytes lo hi

/-- New Dirty bytes of a granule: they extend a Dirty folio that they abut, or take a new way (R140). -/
def addDirty (s : State) (k key lo : Nat) (bs : List TByte) (p : Policy) : Option State :=
  let hi := lo + bs.length
  match (s.cluster k).l2.extendable .l2 key lo hi bs p.window with
  | some (f, g) =>
    some (refreshMask (s.modCache (.l2 k) fun c =>
      let c := c.replace f [g.writtenBy p.launch lo hi]
      if p.stream then c else c.touch key lo hi) k key)
  | none => newL2 s k key lo hi .dirty bs p

/-- The uncached reads of a cluster's cores that are under way bring older bytes than a write that the cluster makes now: they are made
again (R147, R163). -/
def staleReads (s : State) (k pa len : Nat) : State :=
  let meets := fun (e : LElem) => e.want.any fun (_, p) => match p with
    | .mem a => pa ≤ a && a < pa + len
    | _ => false
  let mark := fun (l : Outst) => { l with elems := l.elems.map fun e => if e.uncr && meets e then { e with stale := true } else e }
  let cores := s.cores.map fun (n, x) =>
    if clusterOf n = k then (n, { x with carrels := x.carrels.map fun (i, y) => (i, { y with loads := y.loads.map mark }) }) else (n, x)
  { s with cores := cores }

/-- A write of one run of bytes within a granule into an L2F (R140), with its copies in the L1Fs (R139): in place where
bytes are held, else an abutting Dirty folio is extended or a new way is taken. `none` when no way is found. No byte of it is filling. -/
def placeWrite (s : State) (k key lo : Nat) (bs : List TByte) (p : Policy) : Option State :=
  let missing := runsOf (fun o => !((s.cluster k).l2.holds key o)) lo bs.length none
  missing.foldl (fun (o : Option State) (x, y) => o.bind fun s => addDirty s k key x ((bs.drop (x - lo)).take (y - x)) p)
    (some (staleReads (writeHeld s k key lo bs p) k (key * 4096 + lo) bs.length))

/-! ### Entries of the catalogue (R154) -/

/-- The tract of an entry. -/
def CatEntry.lo (e : CatEntry) : Nat := e.tract * 64
def CatEntry.hi (e : CatEntry) : Nat := e.tract * 64 + 2 ^ (e.size + 6)
def CatEntry.meets (e : CatEntry) (lo hi : Nat) : Bool := e.lo < hi && lo < e.hi

/-- The clusters that an entry names: in coarse form every cluster of every marked group. -/
def CatEntry.named (e : CatEntry) : List Nat :=
  if e.coarse then e.groups.flatMap fun g => (List.range 8).map (8 * g + ·) else e.ptrs.map (·.1)

/-- The named clusters that DM marks. -/
def CatEntry.marked (e : CatEntry) : List Nat :=
  if e.coarse then (if e.anyDirty then e.named else []) else (e.ptrs.filter (·.2)).map (·.1)

/-- An entry with exactly these holders (R154): up to four as pointers, more in coarse form; Shared from two on. -/
def CatEntry.withHolders (e : CatEntry) (hs : List (Nat × Bool)) : CatEntry :=
  if hs.length ≤ 4 then { e with coarse := false, ptrs := hs, groups := [], anyDirty := false, isShared := 2 ≤ hs.length }
  else { e with coarse := true, ptrs := [], groups := (hs.map (·.1 / 8)).eraseDups, anyDirty := hs.any (·.2), isShared := true }

/-- Every extent of a cluster's L2F in [lo, hi), as module addresses: what it holds of a tract (R156). A fill that is still to be served
holds nothing yet. -/
def holdings (s : State) (k lo hi : Nat) : List (Nat × Nat × Bool) :=
  (s.cluster k).l2.folios.filterMap fun f =>
    let a := f.key * 4096 + f.start
    let b := f.key * 4096 + f.fin
    if f.scr || f.window || f.st == .filling || hi ≤ a || b ≤ lo then none else some (max a lo, min b hi, f.st == .dirty)

/-- What is on its way to a cluster will make it hold bytes of [lo, hi). -/
def comingTo (s : State) (k lo hi : Nat) : Bool :=
  (flying s).any fun m => m.cluster == k && m.kind == .data && m.meets lo hi

/-- A Dirty notice of a cluster for bytes of [lo, hi) has not reached the home (R153, R160). -/
def noticeFrom (s : State) (k lo hi : Nat) : Bool :=
  (flying s).any fun m => m.cluster == k && m.kind == .evn && m.dirty && m.meets lo hi

/-- An entry goes on naming the cluster (R153). -/
def staysNamed (s : State) (k lo hi : Nat) : Bool :=
  !(holdings s k lo hi).isEmpty || comingTo s k lo hi || noticeFrom s k lo hi

/-! ### Coherent device-scope accesses in one step -/

/-- The clusters that hold any byte of an extent of a granule with the catalogue's knowledge. -/
def holders (s : State) (key lo hi : Nat) : List Nat :=
  (s.clusters.filter fun (_, c) => c.l2.folios.any fun f => f.isFor false key && !f.window && f.meets lo hi).map (·.1)

/-- The byte of a Dirty notice that has not reached memory yet (R143, R160). -/
def noticeByte (s : State) (pa : Nat) : Option (TByte × Bool) :=
  (flying s).findSome? fun m =>
    if m.kind == .evn && m.dirty && m.meets pa (pa + 1) && !(m.skip.any fun (a, b) => a ≤ pa && pa < b) then
      some (m.data.getD (pa - m.pa) (0, false), m.poison.contains (pa / 32)) else none

/-- The current value of a byte of catalogued memory (R153, R162): the Dirty copy if an L2F holds one, else that of a Dirty notice on its
way, else memory; with its poison. -/
def coherentByte (s : State) (pa : Nat) : TByte × Bool :=
  match s.clusters.findSome? fun (_, c) =>
      c.l2.folios.findSome? fun f =>
        if f.isFor false (pa / 4096) && f.st == .dirty && f.covers (pa % 4096) && !f.window then
          some (f.byte (pa % 4096), c.l2.poison.contains (f.sector (pa % 4096))) else none with
  | some r => r
  | none => (noticeByte s pa).getD (s.memByte pa, s.memPoison.contains (pa / 32))

/-- Coherent bytes from an address up. -/
def coherentRead (s : State) (pa : Nat) : Nat → List (TByte × Bool)
  | 0 => []
  | n + 1 => coherentByte s pa :: coherentRead s (pa + 1) n

/-- The extent split at granule boundaries: (granule, lo, hi). -/
def granules (pa len : Nat) : List (Nat × Nat × Nat) :=
  if len = 0 then [] else
  (List.range ((pa + len - 1) / 4096 - pa / 4096 + 1)).map fun i =>
    let g := pa / 4096 + i
    (g, (if i = 0 then pa % 4096 else 0), min 4096 (pa + len - g * 4096))

/-- The extent leaves every cache, its Dirty bytes lost: the write that does this supersedes them (R141, R142). -/
def purge (s : State) (pa len : Nat) : State :=
  (granules pa len).foldl (fun s (g, lo, hi) => (holders s g lo hi).foldl (fun s k => (removeL2 s k g lo hi false false).1) s) s

/-- A write at the home overtakes the Dirty notices that are on their way with older bytes (R160, R162). -/
def overtake (s : State) (pa len : Nat) : State :=
  if !((flying s).any fun m => m.meets pa (pa + len)) then s else
  s.modFlying fun m => if m.meets pa (pa + len) && m.kind == .evn && m.dirty then { m with skip := (pa, pa + len) :: m.skip } else m

/-! ### Blocks without an entry (R156, R159) -/

/-- The tract of a new entry, as SIZE: the largest aligned block of at most 64 KiB that holds the address and meets no entry. R156 serves a
block that has none at its "current tract size" and does not say which that is (DESIGN CHOICE, log entry 85). -/
def freeBlock (es : List CatEntry) (pa : Nat) : Nat :=
  (((List.range 11).reverse).find? fun s =>
    let lo := pa / 2 ^ (s + 6) * 2 ^ (s + 6)
    !(es.any fun e => e.meets lo (lo + 2 ^ (s + 6)))).getD 0

/-- The first address of an extent that no entry covers. -/
def firstBare (es : List CatEntry) (lo hi : Nat) : Option Nat :=
  ((List.range (hi - lo)).map (lo + ·)).find? fun a => !(es.any fun e => e.lo ≤ a && a < e.hi)

/-- The entries with new ones for what a request's extent lacks; under a set filter bit they begin with a discovery
(R156, R159). -/
def coverExtent (d : Die) (cyc lo hi : Nat) : Nat → List CatEntry → List CatEntry
  | 0, es => es
  | fuel + 1, es =>
    match firstBare es lo hi with
    | none => es
    | some a =>
      let s := freeBlock es a
      coverExtent d cyc lo hi fuel
        (es ++ [{ size := s, tract := a / 2 ^ (s + 6) * 2 ^ s, quiet := cyc, disc := d.filter.contains (a / 65536) }])

/-- The discoveries that an access at the home in one step makes (R159): the entries of blocks that have none under a set filter bit are
rebuilt from what the clusters hold, and the bit of a whole tract is cleared. -/
def discover (s : State) (pa len : Nat) : State :=
  let d := s.die (homeOf pa)
  if d.filter.isEmpty then s else
  let new := (coverExtent d s.cycle pa (pa + len) 64 d.entries).filter (·.disc)
  let holders := fun (e : CatEntry) => (s.clusters.map (·.1)).filterMap fun k =>
    if staysNamed s k e.lo e.hi then some (k, noticeFrom s k e.lo e.hi || (holdings s k e.lo e.hi).any (·.2.2)) else none
  let found := (new.filter fun e => !(d.entries.contains e)).filterMap fun e =>
    let hs := holders e
    if hs.isEmpty then none else some ({ e with disc := false }.withHolders hs)
  s.setDie (homeOf pa) { d with
    entries := d.entries ++ found
    filter := d.filter.filter fun t => !(new.any fun e => e.size == 10 && e.lo / 65536 == t) }

/-- The entries after an access at the home in one step (R157): the cycle of the request; after a write, exactly the clusters that
still hold bytes; after a read, DM as the fetches left it. -/
def noteAccess (s : State) (pa len : Nat) (own : Bool) : State :=
  let s := discover s pa len
  let after := fun (e : CatEntry) =>
    if !(e.meets pa (pa + len)) || e.cur.isSome then [e] else
    let dirty := fun (k : Nat) => (holdings s k e.lo e.hi).any (·.2.2)
    let e : CatEntry := { e with quiet := s.cycle }
    if own then
      let hs := (e.named.filter fun k => staysNamed s k e.lo e.hi).map fun k => (k, e.marked.contains k)
      if hs.isEmpty then [] else [e.withHolders hs]
    else if e.coarse then [{ e with anyDirty := e.anyDirty && e.named.any fun k => dirty k || noticeFrom s k e.lo e.hi || comingTo s k e.lo e.hi }]
    else [{ e with ptrs := e.ptrs.map fun (k, d) => (k, d && (dirty k || noticeFrom s k e.lo e.hi || comingTo s k e.lo e.hi)) }]
  s.modDie (homeOf pa) fun d => { d with entries := d.entries.flatMap after }

/-- The message is a request that a home serves. -/
def CatKind.asks : CatKind → Bool
  | .gets | .geto | .uncr | .uncw => true
  | _ => false

/-- A request is served at the home, or waits there, for bytes of the extent: an access that needs the home comes after it (R156). -/
def homeBusy (s : State) (pa len : Nat) : Bool :=
  let d := s.die (homeOf pa)
  (d.entries.any fun e => e.cur.isSome && e.meets pa (pa + len)) || d.inbox.any fun m => m.kind.asks && m.meets pa (pa + len)

/-- A coherent write at the home (as UNCW, R157): no cache keeps an older byte, and memory holds the new ones. -/
def coherentWrite (s : State) (pa : Nat) (bs : List TByte) : State :=
  noteAccess ((overtake (purge s pa bs.length) pa bs.length).storeMem pa bs) pa bs.length true

/-- A coherent read at the home (as UNCR, R157): Dirty bytes are fetched, and stay Clean. -/
def coherentFetch (s : State) (pa len : Nat) : State :=
  noteAccess ((granules pa len).foldl (fun s (g, lo, hi) =>
    (holders s g lo hi).foldl (fun s k => cleanDirty k g false false hi 32 lo s) s) s) pa len false

/-! ### Scratchpad (R148 to R150) -/

/-- The keys of a region's granule in the core's L1F and in the twin (R148). -/
def scrKey (region g : Nat) : Nat := region * 256 + g
def twinKey (slot region g : Nat) : Nat := slot * 4096 + region * 256 + g

/-- The bytes of a write to a core's own region: the L1F folio and the twin (R149). -/
def scrPut (s : State) (core region off : Nat) (bs : List TByte) : State :=
  (granules off bs.length).foldl (fun s (g, lo, hi) =>
    let part := (bs.drop (g * 4096 + lo - off)).take (hi - lo)
    let bytes := offsets lo part
    let key := scrKey region g
    let tkey := twinKey (slotOf core) region g
    let s := s.modCore core fun x => { x with l1 := (x.l1.updateHeld true key bytes).scrub true key lo hi }
    s.modCluster (clusterOf core) fun k => { k with l2 := (k.l2.updateHeld true tkey bytes).scrub true tkey lo hi })
    s

/-- A byte of a region as the L1F has it, with its poison. -/
def scrByte (s : State) (core region off : Nat) : TByte × Bool :=
  ((s.core core).l1.get true (scrKey region (off / 4096)) (off % 4096)).getD ((0, false), false)

/-- The twin's byte (R149). -/
def twinByte (s : State) (core region off : Nat) : TByte × Bool :=
  ((s.cluster (clusterOf core)).l2.get true (twinKey (slotOf core) region (off / 4096)) (off % 4096)).getD
    ((0, false), false)

/-- Bytes of a region from an offset up. -/
def scrRead (s : State) (core region off : Nat) : Nat → List (TByte × Bool)
  | 0 => []
  | n + 1 => scrByte s core region off :: scrRead s core region (off + 1) n

/-- The 16 bytes of a barrier object as a number. -/
def barObject (s : State) (core region off : Nat) : Nat := tbNat ((scrRead s core region off 16).map (·.1))

/-- A parked BWAIT sees an update of its object (R336): the first that breaks it or moves GEN on ends the wait. -/
def BWaitRec.see (w : BWaitRec) (obj : Nat) : BWaitRec :=
  if w.got.isSome then w
  else if barBroken obj then { w with got := some none }
  else if barGen obj ≠ w.gen then { w with got := some (some (barGen obj)) }
  else w

/-- The parked BWAITs of a core see the update of [off, off + len) of a region. -/
def wakeBwait (s : State) (core region off len : Nat) : State :=
  let see := fun (c : Carrel) =>
    match c.park with
    | some p => match p.why with
      | .bwait w =>
        let o := w.addr.toNat % 2 ^ 32
        if bitsAt w.addr.toNat 32 4 = region && off < o + 16 && o < off + len then
          { c with park := some { p with why := .bwait (w.see (barObject s core region o)) } }
        else c
      | _ => c
    | none => c
  s.modCore core fun k => { k with carrels := k.carrels.map fun (n, c) => (n, see c) }

/-- A waiting BARRIER node sees an update of its object (R230): the first that breaks it or moves GEN on from AGEN ends the wait. -/
def Node.see (n : Node) (obj : Nat) : Node :=
  if n.moved.isSome then n
  else if barBroken obj then { n with moved := some false }
  else if barGen obj ≠ bitsAt (n.word 4) 0 4 then { n with moved := some true }
  else n

/-- The waiting BARRIER nodes see the update of [off, off + len) of a region. -/
def wakeNodes (s : State) (core region off len : Nat) : State :=
  let see := fun (n : Node) =>
    let o := n.word 3 % 2 ^ 32
    if n.st == .running && n.kind == 2 && bitsAt (n.word 3) 36 12 == core && bitsAt (n.word 3) 32 4 == region && off < o + 16 &&
      o < off + len then n.see (barObject s core region o) else n
  s.modHub fun h => { h with insts := h.insts.map fun i => { i with nodes := i.nodes.map see } }

/-- A write to a core's own region (R149). -/
def scrWrite (s : State) (core region off : Nat) (bs : List TByte) : State :=
  wakeNodes (wakeBwait (scrPut s core region off bs) core region off bs.length) core region off bs.length

/-- The correction of a poisoned scratchpad sector from its clean twin (R149); it counts in the health of the core (R279). -/
def repairScr (s : State) (core region off : Nat) : State :=
  let g := off / 4096
  let base := off % 4096 / 32 * 32
  let l1 := (s.core core).l1
  match l1.find true (scrKey region g) (off % 4096) with
  | none => s
  | some f =>
    let bytes := (List.range 32).filterMap fun i =>
      if f.covers (base + i) then some (base + i, (twinByte s core region (g * 4096 + base + i)).1) else none
    let ps := l1.poison.filter (· ≠ f.sector (off % 4096))
    let fixed : Cache := { l1.updateHeld true (scrKey region g) bytes with poison := ps }
    countAt (s.modCore core fun x => { x with l1 := fixed }) core

/-- Bytes of a core's own region that are about to be read: the poisoned ones whose twin is clean are corrected from it (R149, R279). -/
def healRegion (s : State) (core region off n : Nat) : State :=
  (List.range n).foldl (fun s j =>
    if (scrByte s core region (off + j)).2 && !(twinByte s core region (off + j)).2 then repairScr s core region (off + j) else s) s

/-- The bytes among places that lie in the core's own regions, before they are read. -/
def healPlaces (s : State) (core : Nat) (ls : List Loc) : State :=
  ls.foldl (fun s l => match l with
    | .scr c r o => if c = core then healRegion s core r o 1 else s
    | _ => s) s

/-- The size of a region of a core; 0 when it is not allocated (R148). -/
def State.regionSize (s : State) (core region : Nat) : Nat := fgetD (s.core core).regions region 0

end Sys2Proof.Machine
end

