-- ==== Sys2Proof/Machine/Translate.lean ====
section
/-! DEFINITION. Capabilities (R103 to R108), range translation (R109 to R114), the egress fences (R322 to R324), and the
way from a global address to the places of its bytes (R100 to R102). -/

namespace Sys2Proof.Machine

/-! ### Capabilities -/

/-- Permission masks in CPERM order (R106). -/
def permR : Nat := 1
def permW : Nat := 2
def permX : Nat := 4
def permTGL : Nat := 8
def permTGS : Nat := 16
def permLAT : Nat := 32
def permENG : Nat := 64
def permREM : Nat := 128
def permHOST : Nat := 256
def permSYS : Nat := 512

/-- The fields of a capability (R103). -/
def capAddr (c : Cap) : Nat := bitsAt c.toNat 0 64
def capUp (c : Cap) : Nat := bitsAt c.toNat 64 24
def capDown (c : Cap) : Nat := bitsAt c.toNat 88 24
def capG (c : Cap) : Nat := bitsAt c.toNat 112 5
def capPerms (c : Cap) : Nat := bitsAt c.toNat 117 11

/-- A capability from its fields (R103). -/
def mkCap (perms g down up addr : Nat) : Cap :=
  BitVec.ofNat 128 (perms % 2 ^ 11 * 2 ^ 117 + g % 2 ^ 5 * 2 ^ 112 + down % 2 ^ 24 * 2 ^ 88 + up % 2 ^ 24 * 2 ^ 64 +
    addr % 2 ^ 64)

/-- Bounds(cap): base and top (R104). -/
def capBounds (c : Cap) : Int × Int :=
  let g := 2 ^ capG c
  let anchor : Int := (capAddr c - capAddr c % g : Nat)
  (anchor - (capDown c * g : Nat), anchor + (capUp c * g : Nat))

/-- Whether a permission set has every bit of a mask. -/
def hasPerms (perms need : Nat) : Bool := (perms &&& need) == need

/-- The space of a global address (R100). -/
def spaceOf (addr : Nat) : Nat := bitsAt addr 60 4

/-- The fields of a space-1 or space-2 address (R100). -/
def devOf (addr : Nat) : Nat := bitsAt addr 48 12
def scrCoreOf (addr : Nat) : Nat := bitsAt addr 36 12
def scrRegionOf (addr : Nat) : Nat := bitsAt addr 32 4
def scrOffOf (addr : Nat) : Nat := bitsAt addr 0 32

/-- A device id that names this module (R17, R101). -/
def State.isOwnDev (s : State) (dev : Nat) : Bool := dev == 0xFFF || dev == s.hub.devid

/-- The logical core that a core's program runs as: a twin runs as its primary (R283). -/
def State.runsAs (s : State) (core : Nat) : Nat := (s.core core).twinOf.getD core

/-- LocalScratch(addr): a scratchpad address of the issuing core (R101). -/
def localScratch (s : State) (core addr : Nat) : Bool :=
  spaceOf addr == 2 && s.isOwnDev (devOf addr) && scrCoreOf addr == s.runsAs core

/-- CapCheck (R107): the cause of the first check that fails. -/
def capCheck (s : State) (core : Nat) (c : TCap) (addr size perm : Nat) : Option Nat :=
  if !c.tag then some 0x081 else
  let sp := spaceOf addr
  let need := perm ||| (if sp = 1 || (sp = 2 && !(localScratch s core addr)) then permREM else 0)
    ||| (if sp = 3 then permHOST else 0)
  if !(hasPerms (capPerms c.val) need) then some 0x083 else
  let (base, top) := capBounds c.val
  if (addr : Int) < base || (addr + size : Nat) > top then some 0x082 else
  if sp ≥ 4 || (sp = 0 && devOf addr ≠ 0) then some 0x085 else none

/-! ### Egress fences -/

/-- A device id is allowed to leave (R323). -/
def devAllowed (s : State) (dev : Nat) : Bool :=
  s.isOwnDev dev || s.hub.fences.any fun (w0, w1) =>
    bitAt w0.toNat 63 && bitsAt w0.toNat 61 2 == 2 && bitsAt w0.toNat 0 12 ≤ dev && dev ≤ bitsAt w1.toNat 0 12

/-- A host access of [a, a + size) is allowed: one enabled host window contains all of it (R323). -/
def hostAllowed (s : State) (a size : Nat) : Bool :=
  s.hub.fences.any fun (w0, w1) =>
    bitAt w0.toNat 63 && bitsAt w0.toNat 61 2 == 1 && bitsAt w0.toNat 0 52 ≤ a / 4096 &&
      (a + size - 1) / 4096 ≤ bitsAt w1.toNat 0 52

/-- A violation is logged and counted (R324). -/
def egLog (s : State) (ctx srck : Nat) (typ : Bool) (req addr : Nat) : State :=
  s.modHub fun h => { h with
    eglog := fset h.eglog (h.egcnt.toNat % 64) { ctx := ctx, srck := srck, typ := typ, req := req, addr := addr % 2 ^ 48 },
    egcnt := h.egcnt + 1 }

/-- A violation of a core's own access; a control core has a source code of its own (R324). -/
def egCore (s : State) (ctx core : Nat) (typ : Bool) (addr : Nat) : State :=
  if isControl core then egLog s ctx 5 typ 0 addr else egLog s ctx 0 typ core addr

/-! ### Range translation -/

/-- The access kinds of R111. -/
inductive Acc_ where
  | read | write | rw | exec | joinR | joinW | vecR | vecW | siphR | siphW
  deriving DecidableEq, Repr

/-- An entry from its four words (R109). -/
def rtParse (w0 w1 w2 w3 : Nat) : RtEntry :=
  { vgran := bitsAt w0 0 36, len := bitsAt w1 0 37, pgran := bitsAt w2 0 28, home := bitsAt w3 12 2,
    typ := bitsAt w3 8 4, kind := bitsAt w3 4 2, x := bitAt w3 3, w := bitAt w3 2, rd := bitAt w3 1, v := bitAt w3 0,
    reserved := bitsAt w0 36 28 ≠ 0 || bitsAt w1 37 27 ≠ 0 || bitsAt w2 28 36 ≠ 0 || bitsAt w3 14 50 ≠ 0 ||
      bitsAt w3 6 2 ≠ 0 }

/-- The four words of 32 bytes as an entry. -/
def rtOfBytes (bs : List Byte) : RtEntry :=
  rtParse (leNat (bs.take 8)) (leNat ((bs.drop 8).take 8)) (leNat ((bs.drop 16).take 8)) (leNat ((bs.drop 24).take 8))

/-- Entry `i` of a context's table, read coherently (R109). -/
def rtEntry (s : State) (x : Ctx) (i : Nat) : RtEntry :=
  rtOfBytes ((coherentRead s (x.rtBase + 32 * i) 32).map (·.1.1))

/-- The binary search of R110, from `idx` over `n` entries. -/
def rtWalk (s : State) (x : Ctx) (g : Nat) : Nat → Nat → Nat → Nat
  | 0, idx, _ => idx
  | fuel + 1, idx, n =>
    if n ≤ 1 then idx else
    let half := n / 2
    let idx' := if (rtEntry s x (idx + half)).vgran ≤ g then idx + half else idx
    rtWalk s x g fuel idx' (n - half)

/-- The entry that the walk finds for a granule (R110). -/
def rtFind (s : State) (x : Ctx) (g : Nat) : Option RtEntry :=
  if x.rtCount = 0 then none else
  let e := rtEntry s x (rtWalk s x g 13 0 x.rtCount)
  if e.vgran > g then none else some e

/-- The cistern type codes that R204 defines, with their cell bytes; 0 for a reserved code. -/
def cellSize : Nat → Nat
  | 1 | 3 | 5 | 7 | 10 | 11 => 4
  | 2 | 4 | 6 | 8 | 9 => 8
  | _ => 0

/-- Valid(e) (R111). A cistern's HOME must equal PA[39:38] of its PGRAN (R203) but is not among the cases of R111: an entry with another
HOME is served like any cistern entry, by its PGRAN (DESIGN CHOICE, log entry 84). -/
def RtEntry.valid (e : RtEntry) : Bool :=
  !e.reserved && e.kind ≠ 3 && e.len ≠ 0 && e.pgran + e.len ≤ 2 ^ 28 &&
  (if e.kind = 1 then cellSize e.typ ≠ 0
   else e.typ == 0 && e.home == e.pgran / 2 ^ 26 && e.home == (e.pgran + e.len - 1) / 2 ^ 26)

/-- The entry's range holds the granule. -/
def RtEntry.holds (e : RtEntry) (g : Nat) : Bool := e.vgran ≤ g && g < e.vgran + e.len

/-- The checks of Translate on the entry found (R111). -/
def rtCheck (e : Option RtEntry) (g : Nat) (acc : Acc_) : Option Nat :=
  match e with
  | none => some 0x0C1
  | some e =>
    if !(e.holds g) then some 0x0C1 else
    if !e.valid then some 0x0C3 else
    if !e.v then (if e.kind = 2 then some 0x0C4 else some 0x0C1) else
    let lacks := match acc with
      | .read | .joinR | .vecR | .siphR => !e.rd
      | .write | .joinW | .vecW | .siphW => !e.w
      | .rw => !e.rd || !e.w
      | .exec => !e.x
    if lacks then some 0x0C2 else
    let isJoin := acc == .joinR || acc == .joinW
    let isVec := acc == .vecR || acc == .vecW || acc == .siphR || acc == .siphW || acc == .exec || acc == .rw
    if (isJoin && e.kind ≠ 1) || (e.kind = 1 && isVec) then some 0x0C3 else none

/-- A cached entry of the context whose range holds the granule, and the list with it first (R110). -/
def tlbHit (l : List TlbEnt) (ctx g : Nat) : Option (RtEntry × List TlbEnt) :=
  (l.find? fun t => t.ctx == ctx && t.ent.holds g).map fun t => (t.ent, t :: l.filter fun u => !(u == t))

/-- A cache of `n` entries with one more, the least recently used dropped (R110). -/
def tlbAdd (l : List TlbEnt) (n : Nat) (t : TlbEnt) : List TlbEnt := (t :: l.filter fun u => !(u == t)).take n

/-- The entry for a granule: the core's range TLB, the cluster range cache, then the walk (R110). Only entries with V = 1
are cached. -/
def rtLookup (s : State) (core ctx g : Nat) : State × Option RtEntry :=
  match tlbHit (s.core core).tlb ctx g with
  | some (e, l) => (s.modCore core fun k => { k with tlb := l }, some e)
  | none =>
    let cl := clusterOf core
    match tlbHit (s.cluster cl).rtc ctx g with
    | some (e, l) =>
      let s := s.modCluster cl fun k => { k with rtc := l }
      (s.modCore core fun k => { k with tlb := tlbAdd k.tlb 32 ⟨ctx, e⟩ }, some e)
    | none =>
      match rtFind s (s.ctx ctx) g with
      | none => (s, none)
      | some e =>
        if e.v then
          let s := s.modCluster cl fun k => { k with rtc := tlbAdd k.rtc 512 ⟨ctx, e⟩ }
          (s.modCore core fun k => { k with tlb := tlbAdd k.tlb 32 ⟨ctx, e⟩ }, some e)
        else (s, some e)

/-- The result of translating one granule: the physical address of the granule and the entry, or the cause (R111). -/
inductive TrRes where
  | ok (pgran : Nat) (e : RtEntry)
  | fail (cause : Nat)
  deriving DecidableEq, Repr

/-- Translate for the granule of a VA (R111). A cistern cell is that of the replica on `die` (R203). -/
def translate (s : State) (core ctx va : Nat) (acc : Acc_) (die : Nat) : State × TrRes :=
  let g := va % 2 ^ 48 / 4096
  let (s, e) := rtLookup s core ctx g
  match rtCheck e g acc, e with
  | some c, _ => (s, .fail c)
  | none, none => (s, .fail 0x0C1)
  | none, some e =>
    let p := e.pgran + g - e.vgran
    (s, .ok (if e.kind = 1 then p % 2 ^ 26 + die * 2 ^ 26 else p) e)

/-- A space-0 VA lies in an enabled non-coherent window of the context (R115): word 0 [35:0] is the first granule, word 1 [36:0]
the length in granules and [63] the enable. -/
def inWindow (x : Ctx) (va : Nat) : Bool :=
  let g := va % 2 ^ 48 / 4096
  x.windows.any fun (w0, w1) => bitAt w1 63 && bitsAt w0 0 36 ≤ g && g < bitsAt w0 0 36 + bitsAt w1 0 37

/-! ### From an address to places -/

/-- Where an access goes: the place of each byte, the entry when it reached one, and the physical granules that it reaches through a
non-coherent window (R115). -/
structure Places where
  locs : List Loc
  ent : Option RtEntry := none
  window : List Nat := []
  deriving DecidableEq, Repr

/-- A range of the module that a context maps at a VA, by its place in the list (R203). -/
def State.rangeAt (s : State) (ctx va : Nat) : Option Nat :=
  findIdx (fun r => r.ctx == ctx && r.vgran ≤ va % 2 ^ 48 / 4096 && va % 2 ^ 48 / 4096 < r.vgran + r.len) s.ranges

/-- A space-1 access is served here, as space 0 is: its device id names this module (R101), or the VA lies in a cistern
range of the context whose peer list holds the device id (R220). -/
def servedHere (s : State) (ctx addr : Nat) : Bool :=
  s.isOwnDev (devOf addr) ||
  match s.rangeAt ctx addr with
  | some i => ((s.ranges[i]?).map fun r => r.peers.contains (devOf addr)).getD false
  | none => false

/-- The places of a local virtual access, granule by granule in ascending order (R108, R111). The failure's second part is
the lowest address of the access within the failing granule. Bytes past VA 2^48 are those from 0 on: the granule and the TVAL wrap, which
the manual does not say (DESIGN CHOICE, log entry 83). -/
def placesVa (s : State) (core ctx addr : Nat) (acc : Acc_) : List (Nat × Nat × Nat) → State × Except (Nat × Nat) Places
  | [] => (s, .ok { locs := [] })
  | (g, lo, hi) :: rest =>
    match translate s core ctx (g * 4096 + lo) acc (core / 1024) with
    | (s, .fail c) => (s, .error (c, addr / 2 ^ 48 * 2 ^ 48 + (g * 4096 + lo) % 2 ^ 48))
    | (s, .ok p e) =>
      match placesVa s core ctx addr acc rest with
      | (s, .error r) => (s, .error r)
      | (s, .ok q) =>
        (s, .ok { locs := ((List.range (hi - lo)).map fun i => .mem (p * 4096 + lo + i)) ++ q.locs, ent := some e,
                  window := (if spaceOf addr = 0 && e.kind ≠ 1 && inWindow (s.ctx ctx) (g * 4096 + lo) then [p] else []) ++ q.window })

/-- A core lies in an open bay of a context (R54). A twin is no core of its own (R283). -/
def inOpenBay (s : State) (ctx core : Nat) : Bool :=
  (s.core core).ctx == ctx && (s.core core).twinOf.isNone && ((s.core core).bay.map (·.isOpen)).getD false

/-- The places of an access by a core (R100 to R102, R111, R292, R323): each byte's, or the cause with its TVAL. -/
def places (s : State) (core ctx addr size : Nat) (acc : Acc_) : State × Except (Nat × Nat) Places :=
  match spaceOf addr with
  | 0 => placesVa s core ctx addr acc (granules (addr % 2 ^ 48) size)
  | 1 =>
    if servedHere s ctx addr then placesVa s core ctx addr acc (granules (addr % 2 ^ 48) size)
    else if !(devAllowed s (devOf addr)) then
      (egCore s ctx core true (devOf addr * 2 ^ 16), .error (0x384, addr))
    else (s, .ok { locs := (List.range size).map fun i => .peer (addr + i) })
  | 2 =>
    if localScratch s core addr then
      let size' := s.regionSize core (scrRegionOf addr)
      let off := scrOffOf addr
      if off + size > size' then
        (s, .error (0x0C1, if size' ≤ off then addr else max addr (addr - off + size' / 4096 * 4096)))
      else (s, .ok { locs := (List.range size).map fun i => .scr core (scrRegionOf addr) (off + i) })
    else if s.isOwnDev (devOf addr) then
      if !(inOpenBay s ctx (scrCoreOf addr)) then (s, .error (0x242, devOf addr * 2 ^ 16 + scrCoreOf addr))
      else if unbacked s (scrCoreOf addr) then (s, .error (0x301, scrCoreOf addr))
      else (s, .ok { locs := (List.range size).map fun i => .scr (scrCoreOf addr) (scrRegionOf addr) (scrOffOf addr + i) })
    else if !(devAllowed s (devOf addr)) then
      (egCore s ctx core true (devOf addr * 2 ^ 16 + scrCoreOf addr), .error (0x384, addr))
    else (s, .ok { locs := (List.range size).map fun i => .peer (addr + i) })
  | 3 =>
    if !(hostAllowed s (addr % 2 ^ 60) size) then (egCore s ctx core false (addr % 2 ^ 60), .error (0x384, addr))
    else (s, .ok { locs := (List.range size).map fun i => .host (addr % 2 ^ 60 + i) })
  | _ => (s, .error (0x085, addr))

end Sys2Proof.Machine
end

