-- ==== Sys2Proof/Machine/Lattice.lean ====
section
/-! DEFINITION. The cistern lattices (R204, R205): order, join and bottom of each type code, on cell values. -/

namespace Sys2Proof.Machine

/-- The bits of a cell of a type. -/
def cellBits (typ : Nat) : Nat := 8 * cellSize typ

/-- IsNaN and Key of binary32 encodings (R205). -/
def isNan32 (x : Nat) : Bool := bitsAt x 23 8 == 0xFF && bitsAt x 0 23 != 0
def key32 (x : Nat) : Nat := if bitAt x 31 then 2 ^ 32 - 1 - x else x + 2 ^ 31

/-- Geq(type, x, y): x lies at or above y. -/
def geq (typ x y : Nat) : Bool :=
  match typ with
  | 1 | 2 => y ≤ x
  | 3 => signedOf 32 y ≤ signedOf 32 x
  | 4 => signedOf 64 y ≤ signedOf 64 x
  | 5 | 6 => x ≤ y
  | 7 | 8 => (x ||| y) == x
  | 9 => (x &&& y) == x
  | 10 => isNan32 x || (!(isNan32 y) && key32 y ≤ key32 x)
  | 11 => isNan32 x || (!(isNan32 y) && key32 x ≤ key32 y)
  | _ => false

/-- Join(x, y). -/
def joinOf (typ x y : Nat) : Nat :=
  match typ with
  | 7 | 8 => x ||| y
  | 9 => x &&& y
  | 10 | 11 => if isNan32 x || isNan32 y then 0x7FC00000 else if geq typ x y then x else y
  | _ => if geq typ x y then x else y

/-- The bottom of a type. -/
def bottomOf (typ : Nat) : Nat :=
  match typ with
  | 3 => 0x80000000
  | 4 => 0x8000000000000000
  | 5 => 0xFFFFFFFF
  | 6 | 9 => 0xFFFFFFFFFFFFFFFF
  | 10 => 0xFF800000
  | 11 => 0x7F800000
  | _ => 0

end Sys2Proof.Machine
end

