-- ==== Sys2Proof/Machine/View.lean ====
section
/-! DEFINITION. What holds an access back or decides it before it is made: the watermark stalls (R190) and the view of a
cistern cell (R208). -/

namespace Sys2Proof.Machine

/-- HINT.CACHE (R146). -/
structure CacheHint where
  nal1 : Bool := false
  nal2 : Bool := false
  stream : Bool := false
  keep : Bool := false
  deriving DecidableEq, Repr

/-! ### Watermark stalls (R190) -/

/-- One spelling for the addresses of one byte: space 1 naming this module as space 0, a scratchpad of this module with
device id 0xFFF (R101). -/
def canonAddr (s : State) (a : Nat) : Nat :=
  if spaceOf a = 1 && s.isOwnDev (devOf a) then a % 2 ^ 48
  else if spaceOf a = 2 && s.isOwnDev (devOf a) then putBits a 48 12 0xFFF
  else a

/-- [a, a + n) touches a byte at or above offset `wmk` of the command's destination range. -/
def touchesCmd (s : State) (c : SiphCmd) (wmk a n : Nat) : Bool :=
  let d := canonAddr s (c.dlo % (2 ^ 64 : Nat)).toNat
  let b := canonAddr s a
  c.tile.isNone && wmk < c.span && d + wmk < b + n && b < d + c.span

/-- What R190 makes of an access. -/
inductive StallRes where
  | go
  | stall
  | fault (addr : Word)
  deriving DecidableEq, Repr

/-- The watermark rule for [a, a + n) on a core: a faulted command traps the access, a queued or running one stalls it. -/
def siphStall (s : State) (core a n : Nat) : StallRes :=
  let k := s.core core
  let hits := fun (o : Option ChanCmd) (w : Nat) => match o with
    | some (.siph c) => touchesCmd s c w a n
    | _ => false
  match k.chans.find? fun (_, ch) => ch.flt && hits ch.last ch.wmk with
  | some (_, ch) => .fault ch.faultAddr
  | none =>
    if (k.chans.any fun (_, ch) => hits ch.cmd ch.wmk) || k.queue.any fun e => match e.eff with
        | .siph _ c => touchesCmd s c 0 a n
        | _ => false
    then .stall else .go

/-- The first of several accesses that does not go. -/
def siphStalls (s : State) (core : Nat) : List (Nat × Nat) → StallRes
  | [] => .go
  | (a, n) :: es =>
    match siphStall s core a n with
    | .fault x => .fault x
    | .stall => match siphStalls s core es with
      | .fault x => .fault x
      | _ => .stall
    | .go => siphStalls s core es

/-! ### The view of a cistern cell (R208) -/

/-- The joins pending for a cell. -/
def pendingJoins (s : State) (core carrel pa : Nat) : List Nat :=
  ((s.carrel core carrel).outbox ++ (s.core core).queue).filterMap fun e => match e.eff with
    | .join p _ _ v => if p = pa then some v.toNat else none
    | _ => none

/-- The replica's bytes as memory holds them. -/
def memCell (s : State) (pa size : Nat) : Nat := tbNat (s.readMem pa size)

/-- A poisoned Clean folio of an L2F that holds the cell is removed, so that it is fetched once more (R145). -/
def healCell (s : State) (k pa : Nat) : State :=
  match (s.cluster k).l2.find false (pa / 4096) (pa % 4096) with
  | some f => if (s.cluster k).l2.poison.contains (f.sector (pa % 4096)) && f.st == .clean then countCluster (evictL2 s k f) k else s
  | none => s

/-- The cell as the issuing cluster's L2F holds it, filled from the replica when absent; under NAL2, and when no way is found,
the replica itself (R147, R207). The flag is its poison (R224). -/
def cellBase (s : State) (core pa size : Nat) (h : CacheHint) : State × Nat × Bool :=
  let k := clusterOf core
  let held := fun (s : State) => (List.range size).map fun j => (s.cluster k).l2.get false ((pa + j) / 4096) ((pa + j) % 4096)
  let direct := (memCell s pa size, (eccWords pa size).any s.memPoison.contains)
  let of := fun (bs : List (Option (TByte × Bool))) =>
    (tbNat (bs.map fun o => (o.getD ((0, false), false)).1), bs.any fun o => (o.getD ((0, false), false)).2)
  if h.nal2 then (s, direct) else
  let s := healCell s k pa
  if ((held s).all (·.isSome)) = true then
    (if h.stream then s else s.modCache (.l2 k) (·.touch (pa / 4096) (pa % 4096) (pa % 4096 + size)), of (held s)) else
  let (t, ok) := startFill s core (pa / 4096) (pa % 4096) (pa % 4096 + size) { stream := h.stream, keep := h.keep } true true
  if ok && (held t).all (·.isSome) then (t, of (held t)) else (s, direct)

/-- View(addr) for a carrel (R208). -/
def viewCell (s : State) (core carrel pa typ size : Nat) (h : CacheHint) : State × Nat × Bool :=
  let (t, v, bad) := cellBase s core pa size h
  (t, (pendingJoins s core carrel pa).foldl (joinOf typ) v, bad)

end Sys2Proof.Machine
end

