-- ==== Sys2Proof/Machine/Operands.lean ====
section
/-! DEFINITION. Issuing one word: the class 1 causes of its group (R82, R83, R121, R363), its privilege (R67), the waits
of its source registers (R43, R58, R164, R197), erroneous and failing sources (R123, R278), then its own operation and
what it leaves: the next word, a trap, a stall, a parked carrel. -/

namespace Sys2Proof.Machine

/-! ### Hints -/

/-- The kind of a hint word and its payload (R80). -/
def hintKind (w : Insn) : Nat := fld w 22 4
def hintPayload (w : Insn) : Nat := fld w 0 22

/-- The payloads of the hints of a kind, in address order. -/
def hintsOf (k : Nat) (ws : List Insn) : List Nat := (ws.filter fun w => hintKind w == k).map hintPayload

/-- The instruction accepts a hint of the kind (R80). YIELD, PRIO and NOP go with every instruction. -/
def accepts (i : Instr) (k : Nat) : Bool :=
  match k with
  | 2 | 5 | 6 => true
  | 0 => match i with
    | .movi .. | .addi .. | .andi .. | .ori .. | .xori .. | .cinci .. => true
    | _ => false
  | 1 => match i with
    | .ld .. | .st .. | .vld .. | .vst .. | .vlds .. | .vsts .. | .vgath .. | .vscat .. | .amo .. | .amoNoReturn ..
    | .cas .. | .fence .. | .ljoin .. => true
    | _ => false
  | 3 => match i with
    | .ld .. | .st .. | .vld .. | .vst .. | .vlds .. | .vsts .. | .vgath .. | .vscat .. | .pref .. | .lwait .. => true
    | _ => false
  | 4 => match i with
    | .bc .. | .bm .. => true
    | _ => false
  | _ => false

/-- MOVI takes two IMM hints (R82). -/
def takesTwoImm : Instr → Bool
  | .movi .. => true
  | _ => false

/-- The first hint of the group that R82 rejects before the instruction. -/
def rejectedHint (i : Instr) : List Insn → Option Insn
  | [] => none
  | [h] => if accepts i (hintKind h) then none else some h
  | h :: g :: _ =>
    if !(accepts i (hintKind h)) then some h else
    if !(accepts i (hintKind g)) then some g else
    if hintKind h == hintKind g && !(hintKind h == 0 && takesTwoImm i) then some g else none

/-! ### Privilege (R67, R73) -/

/-- The least level that may read a system register. -/
def sysReadLevel : SysReg → Nat
  | .cause | .epc | .tval | .tvec => 1
  | _ => 0

/-- The least level that may write a system register. -/
def sysWriteLevel : SysReg → Nat
  | .deadmask | .fpc | .ltmo | .btmo => 0
  | .tvec | .ctxid => 2
  | _ => 1

/-- The least level at which an instruction may issue. -/
def levelOf : Instr → Nat
  | .sysr _ n => sysReadLevel n
  | .sysw _ n => sysWriteLevel n
  | .syswRttw _ | .syswTwin _ | .syswScpbase _ | .eret | .rtinv _ => 1
  | .halt => 2
  | _ => 0

/-- The word is not permitted at the carrel's level: ERET and RTINV are legal at level 1 only (R120, R383). -/
def levelBad (lv : Nat) : Instr → Bool
  | .eret | .rtinv _ => lv ≠ 1
  | i => lv < levelOf i

/-! ### Scopes (R171 to R173, R387) -/

/-- The cores in an open bay of a context on this module. A twin lies in none: it runs its primary's activations, and no bay list names
it (R45, R283). -/
def openCores (s : State) (ctx : Nat) : List Nat :=
  (s.cores.filter fun (_, k) => k.ctx == ctx && (k.bay.map (·.isOpen)).getD false && k.twinOf.isNone).map (·.1)

/-- The cores of a fixed scope's group for a core, on this module (R171). -/
def fixedScope (s : State) (core id : Nat) : List Nat :=
  let me := s.core core
  let same := fun (f : Bay → Bay → Bool) => (openCores s me.ctx).filter fun c =>
    match me.bay, (s.core c).bay with
    | some a, some b => f a b
    | _, _ => c == core
  match id with
  | 0 | 1 => [core]
  | 2 => same fun a b => a.launch == b.launch && a.wing == b.wing && a.bay == b.bay
  | 3 => same fun a b => a.launch == b.launch && a.wing == b.wing
  | _ => openCores s me.ctx

/-- The smallest fixed scope, 1 to 4, that holds the caller and the cores (R173). -/
def coverOf (s : State) (core : Nat) (cores : List Nat) : Nat :=
  let within := fun id => let f := core :: fixedScope s core id; cores.all f.contains
  if within 1 then 1 else if within 2 then 2 else if within 3 then 3 else 4

/-- The address of the bitmap slot of an id (R172). -/
def scopeSlot (base : Word) (id : Nat) : Nat := bitsAt base.toNat 14 34 * 16384 + 512 * id

/-- The cores a 512-byte bitmap names (R173). -/
def bitmapCores (bs : List Byte) : List Nat :=
  (bs.zipIdx.flatMap fun (b, i) => ((List.range 8).filter fun j => b.getLsbD j).map (8 * i + ·))

/-- The reading of entry `id` of 6 to 31 by the activation of a carrel: its own earlier one, of an unset entry too, else the slot's
bitmap, for an entry that is set (R173, R387). -/
def scopeReading (s : State) (c i id : Nat) : State × Except Nat ScopeRead :=
  let k := s.core c
  let x := k.carrel i
  match fget x.scopes id with
  | some r => (s, .ok r)
  | none =>
    let keep := fun (s : State) (r : ScopeRead) => (s.modCarrel c i fun x => { x with scopes := fset x.scopes id r }, Except.ok r)
    if !((s.ctx k.ctx).scopeSet.contains id) then keep s { isSet := false, cover := 1, cores := [] } else
    let va := scopeSlot k.cregs.scpbase id
    match translate s c k.ctx va .read (c / 1024) with
    | (s, .fail cause) => (s, .error cause)
    | (s, .ok p _) =>
      let cores := bitmapCores ((coherentRead s (p * 4096 + va % 4096) 512).map (·.1.1))
      keep s { isSet := true, cover := coverOf s c cores, cores := cores }

/-- ScopeOf(id) for a carrel: `none` when the id is of 6 to 31 and unset (R169, R171). -/
def scopeOf (s : State) (c i id : Nat) : State × Option ScopeRef :=
  if id < 6 then (s, some ⟨id, id, []⟩) else
  match scopeReading s c i id with
  | (s, .ok r) => (s, if r.isSet then some ⟨id, r.cover, r.cores⟩ else none)
  | (s, .error _) => (s, none)

/-- The scope id a group's instruction acts at: HINT.SCOPE, or the default (R80). -/
def scopeId (ws : List Insn) (default : Nat) : Nat :=
  match hintsOf 1 ws with
  | p :: _ => bitsAt p 0 5
  | [] => default

/-- The programmable scope of the executing word, unset: the word raises 0x041, and the word at fault is the hint or the
FENCE itself (R169, R363). -/
def scopeUnset (s : State) (i : Instr) : Option Word :=
  let c := s.me
  let bad := fun id => match scopeOf s s.cur.1 s.cur.2 id with
    | (_, none) => true
    | _ => false
  match c.hints.find? fun w => hintKind w == 1 with
  | some w => if accepts i 1 && bad (bitsAt (hintPayload w) 0 5) then some (w.setWidth 64) else none
  | none => match i with
    | .fence id _ _ => if bad id.toNat then some ((encode i).setWidth 64) else none
    | _ => none

/-- The illegal cases that depend on the state: END at level 1 (R85), SGATH without its feature (R326), SCPSET without
SCPBASE.EN (R173), an unset scope (R169, R363). -/
def illegalNow (s : State) (i : Instr) : Option Word :=
  let word : Word := (encode i).setWidth 64
  match i with
  | .end_ => if s.me.lv ≠ 0 then some word else none
  | .sgath .. => if s.hasFeature 4 then none else some word
  | .scpset .. => if s.myCore.cregs.scpbase.getLsbD 63 then none else some word
  | _ => scopeUnset s i

/-- The class 1 cause of an instruction word, in the order of R121: illegal, privileged, hint misuse. -/
def classOne (s : State) (i : Instr) : Option (Nat × Word) :=
  match illegalNow s i with
  | some w => some (0x041, w)
  | none =>
    if levelBad s.me.lv.toNat i then some (0x042, (encode i).setWidth 64) else
    match rejectedHint i s.me.hints with
    | some h => some (0x043, h.setWidth 64)
    | none => none

/-! ### Sources -/

/-- The registers and vectors a word reads, in operand order, and the ones it writes. `sends` marks a word whose sequence checks the
destination that the first source gives before it reads the others (R378). -/
structure OpSpec where
  cs : List Reg := []
  vs : List VReg := []
  ms : List MReg := []
  dc : Option Reg := none
  dv : Option VReg := none
  sends : Bool := false
  deriving DecidableEq, Repr

/-- An access of the carrel that will write the register is outstanding (R164). -/
def Carrel.pendingReg (c : Carrel) (r : Reg) : Bool :=
  r ≠ 0 && c.loads.any fun l => match l.dest with
    | .reg q _ _ => q == r
    | .ext q _ _ => q == r
    | _ => false

/-- An access of the carrel that will write the vector register is outstanding. -/
def Carrel.pendingVec (c : Carrel) (v : VReg) : Bool :=
  c.loads.any fun l => match l.dest with
    | .vec q => q == v
    | _ => false

/-- The result of a word of the carrel is still on its way to the register (R243, R246). -/
def Carrel.coming (c : Carrel) (r : Reg) : Bool := (c.stream r).isNone && (fget c.lat r.toNat).isSome
/-- A source of the word is not available yet (R243, R246): vectors count from 64 in the list, masks from 96. -/
def Carrel.late (c : Carrel) (o : OpSpec) : Bool :=
  o.cs.any c.coming || o.vs.any (fun v => (fget c.lat (64 + v.toNat)).isSome) || o.ms.any fun m => (fget c.lat (96 + m.toNat)).isSome

/-- The register's presence bit is clear and consulted: it is neither dead (R63) nor a bound stream register (R58). -/
def Carrel.absent (c : Carrel) (r : Reg) : Bool :=
  r ≠ 0 && (c.stream r).isNone && !(c.creg r).dead && !(c.creg r).present

/-- The mark a read of the register meets (R123). -/
def Carrel.marked (c : Carrel) (r : Reg) : Option ErrMark :=
  if r = 0 || (c.stream r).isSome || (c.creg r).dead then none else (c.creg r).err

/-- The next element of a bound stream register is taken (R197). -/
def Carrel.pop (c : Carrel) (r : Reg) : Carrel :=
  match c.stream r with
  | some st =>
    let st' : Stream := { st with ready := st.ready.drop 1, used := st.used + 1 }
    { c with streams := fset c.streams r.toNat st' }
  | none => c

/-- The value a source read gives (R55, R63, R197). -/
def Carrel.source (c : Carrel) (r : Reg) : TCap :=
  match c.stream r with
  | some st => match st.ready with
    | .value v :: _ => dataCap v
    | _ => {}
  | none => c.read r

/-- The values of sources in operand order; each read of a bound stream register takes the next element. -/
def readSources : Carrel → List Reg → List TCap
  | _, [] => []
  | c, r :: rs => c.source r :: readSources (c.pop r) rs

/-- What holds a word back or stops it before its operation. -/
inductive Gate where
  | go
  | stall
  | park (rs : List Reg)
  | trap (cause : Nat) (tval : Word)
  | marked (m : ErrMark)
  | consume (x : Word)
  deriving DecidableEq, Repr

/-- The stream reads of a word (R197): exhausted or wrong-way streams trap, a missing element stalls, a faulty one raises
its own cause. -/
def streamGate : Carrel → List Reg → Gate
  | _, [] => .go
  | c, r :: rs =>
    match c.stream r with
    | none => streamGate c rs
    | some st =>
      if st.write || st.total ≤ st.used then .trap 0x1C5 (BitVec.ofNat 64 r.toNat) else
      match st.ready with
      | [] => .stall
      | .pending _ :: _ => .stall
      | .fault c v :: _ => .trap c v
      | .err m :: _ => .marked m
      | .bad x :: _ => .consume x
      | .value _ :: _ => streamGate (c.pop r) rs

/-- The waits and marks of a word's sources: a result on its way (R246) and an outstanding access stall (R164), a clear presence bit parks (R43, R58),
an erroneous mark traps (R123), then the streams (R197). A destination that an outstanding access still has to write is
waited for. -/
def gate (c : Carrel) (o : OpSpec) : Gate :=
  if c.late o || o.cs.any c.pendingReg || o.vs.any c.pendingVec || (o.dc.map c.pendingReg).getD false ||
     (o.dv.map c.pendingVec).getD false then .stall else
  let away := o.cs.filter c.absent
  if away ≠ [] then .park away else
  match o.cs.findSome? c.marked with
  | some m => .marked m
  | none => match o.vs.findSome? fun v => (c.vreg v).err with
    | some m => .marked m
    | none => streamGate c o.cs

/-- A source fails its ECC check when it is read (R278). -/
def eccFails (c : Carrel) (o : OpSpec) : Bool :=
  o.cs.any (fun r => r ≠ 0 && !(c.creg r).dead && (c.creg r).ecc) || o.vs.any (fun v => (c.vreg v).ecc) ||
  o.ms.any (fun m => m ≠ 0 && (fgetD c.masks m.toNat {}).ecc)

/-- The address of an element of a stream's pattern (R197). -/
def streamAddr (st : Stream) (n : Nat) : Nat :=
  let e0 := st.extents.getD 0 1
  let e1 := st.extents.getD 1 1
  let i : List Nat := [n % e0, n / e0 % e1, n / e0 / e1]
  let d : Int := ((i.zip st.strides).map fun (a, b) => (a : Int) * b).sum
  (((capAddr st.base.val : Int) + d) % (2 ^ 64 : Nat)).toNat

/-- The places of `size` bytes in this module all have DRAM behind them. -/
def badLoc : List Loc → Option Nat
  | [] => none
  | .mem pa :: ls => if hasDram pa then badLoc ls else some pa
  | _ :: ls => badLoc ls

/-- The checks of an element that is written, at the write (R197): alignment, capability, translation, the watermark rule
(R190), and for a cistern cell those of a plain store (R211). -/
def elementGate (s : State) (st : Stream) (v : Option Word) : Gate :=
  let a := streamAddr st st.next
  let x : Word := BitVec.ofNat 64 a
  if a % st.size ≠ 0 then .trap 0x101 x else
  match capCheck s s.cur.1 st.base a st.size permW with
  | some c => .trap c x
  | none => match places s s.cur.1 s.myCore.ctx a st.size .write with
    | (_, .error (c, v)) => .trap c (BitVec.ofNat 64 v)
    | (_, .ok p) =>
      match siphStall s s.cur.1 a st.size with
      | .fault y => .trap 0x1C4 y
      | .stall => .stall
      | .go => match p.ent, p.locs with
        | some e, .mem pa :: _ =>
          if e.kind = 1 then
            if st.size ≠ cellSize e.typ then .trap 0x182 x else
            match viewCell s s.cur.1 s.cur.2 pa e.typ st.size {} with
            | (_, view, bad) =>
              match v with
              | none => .go
              | some v =>
                if bad then .consume x
                else if geq e.typ (v.toNat % 2 ^ (8 * st.size)) view then .go else .trap 0x181 x
          else .go
        | _, _ => .go

/-- A write of a bound stream register (R197): wrong-way or past the end traps, a full stream stalls, and the element is
checked at the write. `v` is its value, once it is known. -/
def destGate (s : State) (r : Reg) (v : Option Word) : Gate :=
  match s.me.stream r with
  | none => .go
  | some st =>
    if !st.write || st.total ≤ st.next then .trap 0x1C5 (BitVec.ofNat 64 r.toNat) else
    if 16 ≤ st.buffer.length then .stall else elementGate s st v

/-! ### The word's operation -/

/-- What a word's operation comes to. -/
inductive WordRes where
  /-- it completes, and the next word of memory follows -/
  | done (s : State)
  /-- it completes, and control goes to an address -/
  | jump (s : State) (pc : Va)
  /-- a precise trap: the word has changed nothing (R122) -/
  | trap (cause : Nat) (tval : Word)
  /-- a trap before which the state keeps a change: flags (R69) or a logged violation (R323) -/
  | trapWith (s : State) (cause : Nat) (tval : Word)
  /-- the word waits and has changed nothing -/
  | stall
  /-- the word waits; what it started goes on (a fill, an outstanding read) -/
  | hold (s : State)
  /-- the carrel parks (R39) -/
  | park (s : State) (why : ParkWhy)
  /-- the word consumes an uncorrectable error at an address (R278) -/
  | consume (x : Word)
  /-- the carrel has left its activation, or control was moved by the operation itself -/
  | exit (s : State)
  | fault (f : Fault)

/-- The carrel may issue: Running or Runtime (R243). -/
def Carrel.issues (c : Carrel) : Bool := c.st == .running || c.st == .runtime

/-- The carrel of the executing word parks (R39). -/
def parkMe (s : State) (why : ParkWhy) (pops : List Reg) : State :=
  s.modMe fun c => { c with st := .parked, park := some { why := why, pops := pops } }

/-- The stream elements that a completed word's sources took (R197). -/
def popAll (s : State) (rs : List Reg) : State :=
  if rs.any fun r => (s.me.stream r).isSome then s.modMe fun c => rs.foldl Carrel.pop c else s

/-- A trap at the executing word. -/
def trapMe (s : State) (cause : Nat) (tval : Word) : State := takeTrap s s.cur.1 s.cur.2 cause tval

/-- Every earlier load of the carrel has written its register or marked it (R122). -/
def Carrel.settled (c : Carrel) : Bool :=
  c.loads.all fun l => match l.dest with
    | .reg .. | .ext .. | .vec _ => false
    | _ => true

/-- A trap is taken once every earlier load has written its register (R122); until then the word waits. -/
def raise (s : State) (t : State) : Host.Outcome State Fault Refusal := .next (if s.me.settled then t else s)

/-- The synchronised words of paired dispatch (R284). -/
def isSync : Instr → Bool
  | .amo .. | .cas .. | .barr .. | .bwait .. | .swmr .. | .tdset .. | .tdget .. | .tdgetSt .. | .tdgetAcc ..
  | .scpset .. | .scpget .. | .sysw .. | .syswRttw _ | .syswTwin _ | .syswScpbase _ => true
  | _ => false

/-- The executing carrel runs a paired activation, on the primary core or on the twin (R282, R283). -/
def isPrimary (s : State) : Bool := s.me.pair && s.myCore.twin.isSome
def isTwin (s : State) : Bool := s.me.pair && s.myCore.twinOf.isSome

/-- The value that a completed word left for register `d` (a write-stream element where it is bound). -/
def Carrel.left (c : Carrel) (d : Reg) : TCap :=
  match c.stream d with
  | some st => dataCap ((st.buffer.getLast?.map (·.2)).getD 0)
  | none => c.read d

/-- The value a synchronised word puts into context state: a tile descriptor, or a system register's new value. -/
def syncArg (i : Instr) (o : OpSpec) (s t : State) : Word :=
  match i with
  | .tdset k _ => fgetD t.myCore.cregs.td k.toNat 0
  | _ => ((readSources s.me o.cs).getD 0 {}).data

/-- The primary records what a synchronised word did (R284). -/
def recordSync (i : Instr) (s t : State) (r : SyncRec) : State :=
  if isSync i && isPrimary s then t.modMe fun c => { c with sync := c.sync ++ [r] } else t

/-- The record of a completed synchronised word. -/
def doneRec (i : Instr) (o : OpSpec) (s t : State) : SyncRec :=
  { result := o.dc.map fun d => (d, t.me.left d),
    pending := if s.me.loads.length < t.me.loads.length then t.me.loads.getLast?.map (·.id) else none,
    arg := syncArg i o s t }

/-- The end of a word. -/
def complete (i : Instr) (o : OpSpec) (s : State) (r : WordRes) : Host.Outcome State Fault Refusal :=
  match r with
  | .done t => .next (recordSync i s (popAll t o.cs).retire (doneRec i o s t))
  | .jump t pc => .next ((popAll t o.cs).retireTo pc)
  | .trap c v => raise s (trapMe (recordSync i s s { trap := some (c, v) }) c v)
  | .trapWith t c v => raise s (trapMe (recordSync i s t { trap := some (c, v) }) c v)
  | .stall => .next s
  | .hold t => .next t
  | .park t why => .next (parkMe t why o.cs)
  | .consume x => raise s (consumeError s s.cur.1 s.cur.2 x)
  | .exit t => .next t
  | .fault f => .fault f

/-- The element that a completed word appended to the stream that register `d` is bound to. -/
def WordRes.element (r : WordRes) (s : State) (d : Reg) : Option Word :=
  let size := fun (c : Carrel) => ((c.stream d).map fun st => st.buffer.length).getD 0
  match r with
  | .done t | .jump t _ => if size s.me < size t.me then some (t.me.left d).data else none
  | _ => none

/-- A trap on an erroneous source (R123): DEFERR and TVAL hold the recorded address. -/
def markTrap (s : State) (m : ErrMark) : WordRes :=
  .trapWith (s.modMe fun c => { c with deferr := m.addr }) (if m.poison then 0x382 else 0x381) m.addr

/-- The place of a cause in the order of R121: alignment and size, capabilities, translation, the word's own subject, uncorrectable
errors, floating point. -/
def causeRank (code : Nat) : Nat :=
  match code / 64 with
  | 4 => 0
  | 2 => 1
  | 3 => 2
  | 11 => 4
  | 5 => 5
  | _ => 3

/-- The place of what a word comes to, if it is a cause. -/
def WordRes.rank : WordRes → Option Nat
  | .trap c _ | .trapWith _ c _ => some (causeRank c)
  | .consume _ => some 4
  | _ => none

/-- The cause that a gate raises. -/
def Gate.cause : Gate → Option WordRes
  | .trap c v => some (.trap c v)
  | .consume x => some (.consume x)
  | _ => none

/-- The cause that R121 takes among several: of one place the first in the list. -/
def firstCause : List WordRes → Option WordRes
  | [] => none
  | r :: rs =>
    match r.rank, firstCause rs with
    | none, x => x
    | some _, none => some r
    | some n, some x => if n ≤ (x.rank).getD n then some r else some x

/-- What a word comes to is a destination cause (R54). -/
def WordRes.turnsAway : WordRes → Bool
  | .trap c _ | .trapWith _ c _ => c == 0x242 || c == 0x301 || c == 0x384
  | _ => false

/-- The causes of a word's streams and operation, those that its sequence orders in its order (R121): a word that sends reads its destination,
checks it and reads the payload; the write of a result is the last step, after every check of the word's own. -/
def ownCauses (o : OpSpec) (s : State) (g : Gate) (r : WordRes) (d : Gate) : List (Option WordRes) :=
  let dest := if r.rank.any (· < 4) then none else d.cause
  if o.sends then
    if (streamGate s.me (o.cs.take 1)).cause.isNone && r.turnsAway then [some r] else if g.cause.isSome then [g.cause] else [some r, dest]
  else [g.cause, some r, dest]

/-- One word after its class 1 causes: the waits of its sources, then its operation on their values, the stream element it writes and the
ECC checks of its sources; of the causes that no sequence orders the first in the order of R121 is taken, stream reads before the
word's own. -/
def runOps (o : OpSpec) (s : State) (body : State → List TCap → WordRes) : WordRes :=
  match gate s.me o with
  | .stall => .stall
  | .park rs => .park s (.presence rs)
  | .marked m => markTrap s m
  | g =>
    let r := body s (readSources s.me o.cs)
    let d := (o.dc.map fun d => destGate s d (r.element s d)).getD .go
    let ecc := if eccFails s.me o then some (.consume 0) else none
    match firstCause ((ownCauses o s g r d ++ [ecc]).filterMap id) with
    | some x => x
    | none => if d = .stall then .stall else r

/-- What a word comes to: its class 1 cause, or its operation. -/
def wordRes (i : Instr) (o : OpSpec) (s : State) (body : State → List TCap → WordRes) : WordRes :=
  match classOne s i with
  | some (c, v) => .trap c v
  | none => runOps o s body

/-- The twin does not perform a synchronised word: it waits for the primary's (R284). A word of a commit point waits for
the comparison as well (R286). -/
def twinWait (i : Instr) (s : State) : State :=
  match i with
  | .amo .. | .cas .. | .barr .. => if s.me.pairOk then s else s.modMe fun c => { c with cmpWait := true }
  | _ => s

/-- One instruction word as a carrel issues it. A carrel that is neither Running nor Runtime issues nothing (R39). -/
def runWord (i : Instr) (o : OpSpec) (s : State) (body : State → List TCap → WordRes) :
    Host.Outcome State Fault Refusal :=
  if !s.me.issues then .next s else
  if isSync i && isTwin s then .next (twinWait i s) else
  complete i o s (wordRes i o s body)

/-- The n-th source value. -/
def src (vs : List TCap) (n : Nat) : TCap := vs.getD n {}

/-- A word that computes one data result from data sources. -/
def dataWord (i : Instr) (d : Reg) (cs : List Reg) (s : State) (f : List Word → Word) :
    Host.Outcome State Fault Refusal :=
  runWord i { cs := cs, dc := some d } s fun s vs => .done (s.putData d (f (vs.map TCap.data)))

end Sys2Proof.Machine
end

