-- ==== Sys2Proof/Machine/Alu.lean ====
section
/-! DEFINITION. Integer arithmetic and logic (R74, R328 to R330, R339, R349, R350, R352, R375, R376, R388 to R391): every
word here reads data halves, writes one untagged data half, sets no flag and raises no cause of its own. -/

namespace Sys2Proof.Machine

/-! ### Shared operations -/

/-- The width n of an operation: 32 under W, else 64 (R329). -/
def widthOf (w : Bool) : Nat := if w then 32 else 64

/-- The low n bits of the k-th source. -/
def lowOf (n : Nat) (v : List Word) (k : Nat) : Nat := (v.getD k 0).toNat % 2 ^ n

/-- An integer as an n-bit pattern. -/
def wrapInt (n : Nat) (z : Int) : Nat := (z % (2 ^ n : Nat)).toNat

/-- A word of major 0x01 with two sources: cD := Sext(r, n) for r of the low n bits (R329, R352, R376). -/
def aluWord (i : Instr) (d a b : Reg) (w : Bool) (s : State) (f : Nat → Nat → Nat → Nat) :
    Host.Outcome State Fault Refusal :=
  dataWord i d [a, b] s fun v => sext64 (widthOf w) (f (widthOf w) (lowOf (widthOf w) v 0) (lowOf (widthOf w) v 1))

/-- Signed and unsigned lesser and greater of n-bit values (R328). -/
def minSigned (n x y : Nat) : Nat := if signedOf n x ≤ signedOf n y then x else y
def maxSigned (n x y : Nat) : Nat := if signedOf n x ≤ signedOf n y then y else x

/-- Truncating division and remainder of R352. -/
def divSigned (n x y : Nat) : Nat :=
  if y = 0 then 2 ^ n - 1
  else if x = 2 ^ (n - 1) && y = 2 ^ n - 1 then x
  else wrapInt n (Int.tdiv (signedOf n x) (signedOf n y))
def remSigned (n x y : Nat) : Nat :=
  if y = 0 then x
  else if x = 2 ^ (n - 1) && y = 2 ^ n - 1 then 0
  else wrapInt n (signedOf n x - Int.tdiv (signedOf n x) (signedOf n y) * signedOf n y)
def divUnsigned (n x y : Nat) : Nat := if y = 0 then 2 ^ n - 1 else x / y
def remUnsigned (x y : Nat) : Nat := if y = 0 then x else x % y

/-- The shift amount: the low six bits of b, or five under W (R390). -/
def shiftBy (n y : Nat) : Nat := y % n

/-- The arithmetic shift of an n-bit value (R390). -/
def sraBits (n x k : Nat) : Nat := wrapInt n (signedOf n x / (2 ^ k : Nat))

/-- The number of bits of `x` up to its highest set bit. -/
def bitLength : Nat → Nat → Nat
  | 0, _ => 0
  | n + 1, x => if x / 2 ^ n % 2 = 1 then n + 1 else bitLength n x

/-- The number of set bits of the low n bits. -/
def popCount : Nat → Nat → Nat
  | 0, _ => 0
  | n + 1, x => x / 2 ^ n % 2 + popCount n x

/-- Cond of R74 on n-bit values. -/
def condHolds (c : Cond) (n x y : Nat) : Bool :=
  match c with
  | .eq => x == y
  | .ne => x != y
  | .lt => signedOf n x < signedOf n y
  | .ge => signedOf n y ≤ signedOf n x
  | .ltu => x < y
  | .geu => y ≤ x
  | .gt => signedOf n y < signedOf n x
  | .le => signedOf n x ≤ signedOf n y
  | .gtu => y < x
  | .leu => x ≤ y

/-- 1 or 0 as a data value. -/
def boolWord (b : Bool) : Word := if b then 1 else 0

/-- The immediate of ADDI, ANDI, ORI, XORI and CINCI: Sext(imm14, 14), or Sext(p:imm14, 36) with one IMM hint (R81). -/
def immOf (hs : List Insn) (imm : BitVec 14) : Word :=
  match hintsOf 0 hs with
  | p :: _ => sext64 36 (p * 2 ^ 14 + imm.toNat)
  | [] => sext64 14 imm.toNat

/-- The value of MOVI with no, one or two IMM hints (R81, R375). -/
def moviValue (hs : List Insn) (imm : BitVec 20) : Word :=
  match hintsOf 0 hs with
  | [] => sext64 20 imm.toNat
  | [p] => sext64 42 (p * 2 ^ 20 + imm.toNat)
  | p1 :: p2 :: _ => BitVec.ofNat 64 (p1 * 2 ^ 42 + p2 * 2 ^ 20 + imm.toNat)

/-- An immediate word (R330). -/
def immWord (i : Instr) (d a : Reg) (imm : BitVec 14) (s : State) (f : Word → Word → Word) :
    Host.Outcome State Fault Refusal :=
  dataWord i d [a] s fun v => f (v.getD 0 0) (immOf s.me.hints imm)

/-- The width of a SEXT or ZEXT code (R389). -/
def extBits : ExtCode → Nat
  | .b => 8
  | .h => 16
  | .w => 32

/-! ### ADD family (R328, R329) -/

def execAdd (d a b : Reg) (w : Bool) (s : State) : Host.Outcome State Fault Refusal :=
  aluWord (.add d a b w) d a b w s fun _ x y => x + y
def execSub (d a b : Reg) (w : Bool) (s : State) : Host.Outcome State Fault Refusal :=
  aluWord (.sub d a b w) d a b w s fun n x y => x + 2 ^ n - y
def execAnd (d a b : Reg) (w : Bool) (s : State) : Host.Outcome State Fault Refusal :=
  aluWord (.and_ d a b w) d a b w s fun _ x y => x &&& y
def execOr (d a b : Reg) (w : Bool) (s : State) : Host.Outcome State Fault Refusal :=
  aluWord (.or_ d a b w) d a b w s fun _ x y => x ||| y
def execXor (d a b : Reg) (w : Bool) (s : State) : Host.Outcome State Fault Refusal :=
  aluWord (.xor_ d a b w) d a b w s fun _ x y => x ^^^ y
def execMin (d a b : Reg) (w : Bool) (s : State) : Host.Outcome State Fault Refusal :=
  aluWord (.min d a b w) d a b w s minSigned
def execMax (d a b : Reg) (w : Bool) (s : State) : Host.Outcome State Fault Refusal :=
  aluWord (.max d a b w) d a b w s maxSigned
def execMinu (d a b : Reg) (w : Bool) (s : State) : Host.Outcome State Fault Refusal :=
  aluWord (.minu d a b w) d a b w s fun _ x y => if x ≤ y then x else y
def execMaxu (d a b : Reg) (w : Bool) (s : State) : Host.Outcome State Fault Refusal :=
  aluWord (.maxu d a b w) d a b w s fun _ x y => if x ≤ y then y else x

/-! ### Shifts (R390, R391) -/

def execShl (d a b : Reg) (w : Bool) (s : State) : Host.Outcome State Fault Refusal :=
  aluWord (.shl d a b w) d a b w s fun n x y => x * 2 ^ shiftBy n y
def execShr (d a b : Reg) (w : Bool) (s : State) : Host.Outcome State Fault Refusal :=
  aluWord (.shr d a b w) d a b w s fun n x y => x / 2 ^ shiftBy n y
def execSra (d a b : Reg) (w : Bool) (s : State) : Host.Outcome State Fault Refusal :=
  aluWord (.sra d a b w) d a b w s fun n x y => sraBits n x (shiftBy n y)
def execShli (d a : Reg) (k : BitVec 6) (s : State) : Host.Outcome State Fault Refusal :=
  dataWord (.shli d a k) d [a] s fun v => zext64 64 (lowOf 64 v 0 * 2 ^ k.toNat)
def execShri (d a : Reg) (k : BitVec 6) (s : State) : Host.Outcome State Fault Refusal :=
  dataWord (.shri d a k) d [a] s fun v => zext64 64 (lowOf 64 v 0 / 2 ^ k.toNat)
def execSrai (d a : Reg) (k : BitVec 6) (s : State) : Host.Outcome State Fault Refusal :=
  dataWord (.srai d a k) d [a] s fun v => zext64 64 (sraBits 64 (lowOf 64 v 0) k.toNat)

/-! ### Multiplication and division (R352, R376) -/

def execMul (d a b : Reg) (w : Bool) (s : State) : Host.Outcome State Fault Refusal :=
  aluWord (.mul d a b w) d a b w s fun _ x y => x * y
def execMulh (d a b : Reg) (w : Bool) (s : State) : Host.Outcome State Fault Refusal :=
  aluWord (.mulh d a b w) d a b w s fun n x y => wrapInt (2 * n) (signedOf n x * signedOf n y) / 2 ^ n
def execMulhu (d a b : Reg) (w : Bool) (s : State) : Host.Outcome State Fault Refusal :=
  aluWord (.mulhu d a b w) d a b w s fun n x y => x * y / 2 ^ n
def execDiv (d a b : Reg) (w : Bool) (s : State) : Host.Outcome State Fault Refusal :=
  aluWord (.div d a b w) d a b w s divSigned
def execDivu (d a b : Reg) (w : Bool) (s : State) : Host.Outcome State Fault Refusal :=
  aluWord (.divu d a b w) d a b w s divUnsigned
def execRem (d a b : Reg) (w : Bool) (s : State) : Host.Outcome State Fault Refusal :=
  aluWord (.rem d a b w) d a b w s remSigned
def execRemu (d a b : Reg) (w : Bool) (s : State) : Host.Outcome State Fault Refusal :=
  aluWord (.remu d a b w) d a b w s fun _ x y => remUnsigned x y

/-! ### Counts, selection, extension, comparison (R349, R350, R388, R389) -/

def execClz (d a : Reg) (w : Bool) (s : State) : Host.Outcome State Fault Refusal :=
  dataWord (.clz d a w) d [a] s fun v =>
    zext64 64 (widthOf w - bitLength (widthOf w) (lowOf (widthOf w) v 0))
def execPopc (d a : Reg) (w : Bool) (s : State) : Host.Outcome State Fault Refusal :=
  dataWord (.popc d a w) d [a] s fun v => zext64 64 (popCount (widthOf w) (lowOf (widthOf w) v 0))
def execSel (d a b : Reg) (s : State) : Host.Outcome State Fault Refusal :=
  dataWord (.sel d a b) d [a, b, d] s fun v => if v.getD 2 0 ≠ 0 then v.getD 0 0 else v.getD 1 0
def execSext (d a : Reg) (c : ExtCode) (s : State) : Host.Outcome State Fault Refusal :=
  dataWord (.sext d a c) d [a] s fun v => sext64 (extBits c) (lowOf 64 v 0)
def execZext (d a : Reg) (c : ExtCode) (s : State) : Host.Outcome State Fault Refusal :=
  dataWord (.zext d a c) d [a] s fun v => zext64 (extBits c) (lowOf 64 v 0)
def execCmp (d a b : Reg) (w : Bool) (c : Cond) (s : State) : Host.Outcome State Fault Refusal :=
  dataWord (.cmp d a b w c) d [a, b] s fun v =>
    boolWord (condHolds c (widthOf w) (lowOf (widthOf w) v 0) (lowOf (widthOf w) v 1))
def execCmpi (d a : Reg) (c : Cond) (i : BitVec 10) (s : State) : Host.Outcome State Fault Refusal :=
  dataWord (.cmpi d a c i) d [a] s fun v => boolWord (condHolds c 64 (lowOf 64 v 0) (sext64 10 i.toNat).toNat)

/-! ### Immediates (R330, R375) -/

def execAddi (d a : Reg) (i : BitVec 14) (s : State) : Host.Outcome State Fault Refusal :=
  immWord (.addi d a i) d a i s fun x y => x + y
def execAndi (d a : Reg) (i : BitVec 14) (s : State) : Host.Outcome State Fault Refusal :=
  immWord (.andi d a i) d a i s fun x y => x &&& y
def execOri (d a : Reg) (i : BitVec 14) (s : State) : Host.Outcome State Fault Refusal :=
  immWord (.ori d a i) d a i s fun x y => x ||| y
def execXori (d a : Reg) (i : BitVec 14) (s : State) : Host.Outcome State Fault Refusal :=
  immWord (.xori d a i) d a i s fun x y => x ^^^ y
def execMovi (d : Reg) (i : BitVec 20) (s : State) : Host.Outcome State Fault Refusal :=
  dataWord (.movi d i) d [] s fun _ => moviValue s.me.hints i

/-! ### Bit fields (R339) -/

def execBfxU (d a : Reg) (p l : BitVec 6) (s : State) : Host.Outcome State Fault Refusal :=
  dataWord (.bfxU d a p l) d [a] s fun v => zext64 64 (bitsAt (lowOf 64 v 0) p.toNat (l.toNat + 1))
def execBfxS (d a : Reg) (p l : BitVec 6) (s : State) : Host.Outcome State Fault Refusal :=
  dataWord (.bfxS d a p l) d [a] s fun v => sext64 (l.toNat + 1) (bitsAt (lowOf 64 v 0) p.toNat (l.toNat + 1))
def execBfi (d a : Reg) (p l : BitVec 6) (s : State) : Host.Outcome State Fault Refusal :=
  dataWord (.bfi d a p l) d [a, d] s fun v =>
    zext64 64 (putBits (lowOf 64 v 1) p.toNat (l.toNat + 1) (lowOf 64 v 0))

end Sys2Proof.Machine
end

