-- ==== Sys2Proof/Machine/Access.lean ====
section
/-! DEFINITION. What every memory word shares: its scope and allocation policy, outbox entries and commit points (R165,
R170), and the forwarding of pending entries to loads (R164). -/

namespace Sys2Proof.Machine

/-! ### Scope and policy of the executing word -/

/-- The scope of the executing word, read on its first use (R171, R173). -/
def opScope (s : State) (default : Nat) : State × ScopeRef :=
  let id := scopeId s.me.hints default
  match scopeOf s s.cur.1 s.cur.2 id with
  | (s, some r) => (s, r)
  | (s, none) => (s, ⟨id, 4, []⟩)

def cacheHint (ws : List Insn) : CacheHint :=
  match hintsOf 3 ws with
  | 0 :: _ => { nal1 := true }
  | 1 :: _ => { nal2 := true }
  | 2 :: _ => { stream := true }
  | 3 :: _ => { keep := true }
  | _ => {}

/-! ### Outbox entries and commit points -/

/-- An entry as the executing word makes it. -/
def mkEntry (s : State) (i : Instr) (eff : Effect) (addr : Word) : Entry :=
  let w := encode i
  let f := match i with
    | .st .. | .vst .. => 0
    | _ => fld w 0 8
  { eff := eff, addr := addr, pc := s.me.pc, major := fld w 26 6, func := f, ctx := s.myCore.ctx, act := s.me.act }

/-- A paired activation that has not been compared (R286). The handler of an abortive trap, with which the pair is abandoned,
compares nothing. -/
def comparing (c : Carrel) : Bool := c.pair && !c.pairOk && !(c.lv = 1 && causeIsAbortive c.cause)

/-- A commit point of the executing word (R170): it waits for earlier loads and for room in the commit queue (R166), an entry that fails
its ECC check is consumed (R278), and under paired dispatch the word waits for the comparison (R286). -/
def tryCommit (s : State) (k : State → WordRes) : WordRes :=
  if !(canDrain s s.cur.1 s.cur.2) then .stall else
  if s.me.outbox.any (·.ecc) then .consume 0 else
  if comparing s.me then .hold (s.modMe fun c => { c with cmpWait := true }) else
  k (commitPoint s s.cur.1 s.cur.2)

/-- The word places entries in the outbox; a 65th entry forces an overflow commit first (R165). -/
def putOut (s : State) (es : List Entry) : WordRes :=
  let put := fun t => es.foldl (fun t e => putEntry t s.cur.1 s.cur.2 e) t
  if s.me.outbox.length + es.length ≤ outboxMax then .done (put s)
  else tryCommit s fun t => .done (put t)

/-- The word places one entry in the outbox. After an overflow commit it waits again where the commit itself brought a reason to, such as a
siphon command (R165, R190). -/
def putOutWhen (s : State) (ok : State → Bool) (e : Entry) : WordRes :=
  if s.me.outbox.length + 1 ≤ outboxMax then .done (putEntry s s.cur.1 s.cur.2 e)
  else tryCommit s fun t => if ok t then .done (putEntry t s.cur.1 s.cur.2 e) else .hold t

/-! ### Forwarding (R164) -/

/-- The index of a place within the `n` bytes from another. -/
def Loc.within (base : Loc) (n : Nat) (l : Loc) : Option Nat :=
  (List.range n).find? fun j => base.shift j == l

/-- The byte that a store's cells give a place: the highest element wins (R412). -/
def cellGet (cells : List (Loc × Byte)) (l : Loc) : Option Byte :=
  (cells.reverse.find? fun (m, _) => m == l).map (·.2)

/-- The operation of an AMO on `size` bytes (R332). -/
def amoApply (op : AmoOp) (size old v : Nat) : Nat :=
  let n := 8 * size
  let v := v % 2 ^ n
  match op with
  | .add => (old + v) % 2 ^ n
  | .and => old &&& v
  | .or => old ||| v
  | .xor => old ^^^ v
  | .min => if signedOf n old ≤ signedOf n v then old else v
  | .max => if signedOf n old ≤ signedOf n v then v else old
  | .minu => if old ≤ v then old else v
  | .maxu => if old ≤ v then v else old
  | .swap => v

/-- A byte below the pending entries, with its poison. -/
abbrev BaseByte := Loc → Option (TByte × Bool)

/-- The `n` bytes from a place, as a number and whether one is poisoned; `none` when one cannot be read. -/
def baseNat (base : BaseByte) (a : Loc) (n : Nat) : Option (Nat × Bool) :=
  let olds := (List.range n).map fun m => base (a.shift m)
  if (olds.all (·.isSome)) = true then
    some (tbNat (olds.map fun o => (o.getD ((0, false), false)).1), olds.any fun o => (o.getD ((0, false), false)).2)
  else none

/-- The number that a pending update makes of the `n` bytes at its place: an AMO (R332), or an update of a barrier object
(R199, R200). -/
def effUpdate : Effect → Option (Loc × Nat × (Nat → Nat))
  | .amo a op size v => some (a, size, fun old => amoApply op size old v.toNat)
  | .barm _ a w => some (a, 16, fun old => barInit old w)
  | .barb _ a w => some (a, 16, fun old => (barCount old (w.getLsbD 63) (w.getLsbD 62) (bitsAt w.toNat 0 40)).1)
  | _ => none

/-- A byte as a load finds it: the latest pending entry that holds it, else what lies below (R164). A pending update is applied
to the bytes below it. -/
def fwdByte (base : BaseByte) : List Effect → Loc → Option (TByte × Bool)
  | [], l => base l
  | e :: es, l =>
    match e with
    | .store cells tag => match cellGet cells l with
      | some b => some ((b, tag), false)
      | none => fwdByte base es l
    | .peer ga (.cellStore data _) => match (Loc.peer ga.toNat).within data.length l with
      | some j => some ((data.getD j 0, false), false)
      | none => fwdByte base es l
    | e => match effUpdate e with
      | some (a, size, f) => match a.within size l with
        | none => fwdByte base es l
        | some j => (baseNat (fwdByte base es) a size).map fun (old, bad) => (((natBytes size (f old)).getD j 0, false), bad)
      | none => fwdByte base es l

/-- The places below the pending entries that a byte depends on. -/
def baseLocs : List Effect → Loc → List Loc
  | [], l => [l]
  | e :: es, l =>
    match e with
    | .store cells _ => if (cellGet cells l).isSome then [] else baseLocs es l
    | .peer ga (.cellStore data _) =>
      if ((Loc.peer ga.toNat).within data.length l).isSome then [] else baseLocs es l
    | e => match effUpdate e with
      | some (a, size, _) => match a.within size l with
        | none => baseLocs es l
        | some _ => (List.range size).flatMap fun m => baseLocs es (a.shift m)
      | none => baseLocs es l

/-- The pending entries that a load numbered `id` of a carrel sees, latest first: its own earlier outbox entries, then the
core's commit queue (R38, R164). -/
def pendingFor (s : State) (core carrel id : Nat) : List Effect :=
  ((((s.carrel core carrel).outbox.filter fun e => e.id < id).reverse ++ (s.core core).queue.reverse)).map (·.eff)

/-- A byte of catalogued memory as a core of the cluster finds it in its caches (R134, R135). -/
def cachedByte (s : State) (core pa : Nat) : Option (TByte × Bool) :=
  match (s.core core).l1.get false (pa / 4096) (pa % 4096) with
  | some b => some b
  | none => (s.cluster (clusterOf core)).l2.get false (pa / 4096) (pa % 4096)

/-- A byte of home memory with its poison. -/
def memNow (s : State) (pa : Nat) : TByte × Bool := (s.memByte pa, s.memPoison.contains (pa / 32))

/-- What a core can read now at a place, without asking anyone: its caches, its own scratchpad, or memory itself where the
access reaches past the caches (R115, R167). -/
def baseNow (s : State) (core : Nat) (reach : Reach) : BaseByte
  | .mem pa => match reach with
    | .bypass => some (memNow s pa)
    | .direct => some ((cachedByte s core pa).getD (memNow s pa))
    | .caches => cachedByte s core pa
  | .scr c r o => if c = core then
      let b := scrByte s c r o
      -- a poisoned byte is corrected from its clean twin without any report (R149); `healRegion` has done so, and counted it, before a read
      if b.2 then (if (twinByte s c r o).2 then some b else some (twinByte s c r o)) else some b
    else none
  | _ => none

end Sys2Proof.Machine
end

