-- ==== Sys2Proof/Machine/Loads.lean ====
section
/-! DEFINITION. Loads (R164, R167, R248, R368, R369): issue, the fills and requests they start, what they read when they
complete, and how the result reaches its destination. LOAD_COMPLETE (Machine/EvMemory.lean) uses the same operations. -/

namespace Sys2Proof.Machine

/-! ### Requests to other agents -/

/-- A new request of a core, numbered, with its start in TIME (R309). -/
def newReq (s : State) (user : ReqUser) (addr : Word) (outside : Bool) : State × Nat :=
  ({ s with reqs := s.reqs ++ [{ id := s.nextReq, user := user, addr := addr, start := s.hub.time.toNat,
                                 outside := outside }],
            nextReq := s.nextReq + 1 }, s.nextReq)

/-- The global address of a place that another agent serves. -/
def locAddr : Loc → Nat
  | .mem pa => pa
  | .scr c r o => 2 * 2 ^ 60 + 0xFFF * 2 ^ 48 + c * 2 ^ 36 + r * 2 ^ 32 + o
  | .peer ga => ga
  | .host ha => 3 * 2 ^ 60 + ha

/-- KIND of the flit of a request (R300). -/
def PeerOp.flitKind : PeerOp → Nat
  | .msg .. => 0
  | .rput .. => 1
  | .read _ | .vread _ => 2
  | .answer .. => 4
  | .pump _ => 7
  | _ => 3

/-- The operation belongs to a core stream (R302): a write or an atomic. -/
def PeerOp.streamed : PeerOp → Bool
  | .read _ | .vread _ | .lwait .. | .pump _ | .answer .. => false
  | _ => true

/-- A message or a remote register write, which belongs to a message stream (R302). -/
def PeerOp.isMessage : PeerOp → Bool
  | .msg .. | .rput .. => true
  | _ => false

/-- The streams of a core by number (R302), kept apart by context: messages and remote register writes by destination core and tag, the
writes to a core's scratchpad, and those toward a device. -/
def msgStream (ctx dest tag : Nat) : Nat := (ctx * 2 ^ 28 + dest % 2 ^ 28) * 256 + tag
def scrStream (ctx core : Nat) : Nat := (ctx * 2 ^ 28 + core) * 256 + 64
def peerStream (ctx dev : Nat) : Nat := (ctx * 2 ^ 28 + dev) * 256 + 65

/-- The next SEQ of a core's stream is taken (R302). -/
def takeSeq (s : State) (core stream : Nat) : State × Nat :=
  let q := fgetD (s.core core).sendSeq stream 0
  (s.modCore core fun k => { k with sendSeq := fset k.sendSeq stream ((q + 1) % 65536) }, q)

/-- The flit of a request toward another core's scratchpad (R150, R300). -/
def space2Flit (s : State) (core : Nat) (op : PeerOp) (addr req : Nat) : Flit :=
  let t := scrCoreOf addr
  { colour := s.colourOf (s.core core).ctx, kind := PeerOp.flitKind op,
    dst := clusterOf t, dslot := slotOf t, src := clusterOf core, sslot := slotOf core,
    ctx := (s.core core).ctx, at_ := clusterOf core,
    body := .space2 op (scrRegionOf addr) (scrOffOf addr) req }

/-- The flit of a request toward a peer, which the routers carry to the hub die (R300, R307). -/
def peerFlit (s : State) (core : Nat) (op : PeerOp) (addr req : Nat) : Flit :=
  let t := if spaceOf addr = 2 then scrCoreOf addr else 0
  { colour := s.colourOf (s.core core).ctx, kind := PeerOp.flitKind op, peer := true,
    dst := clusterOf t, dslot := slotOf t, src := clusterOf core, sslot := slotOf core,
    ctx := (s.core core).ctx, dev := devOf addr, at_ := clusterOf core,
    body := .remote (BitVec.ofNat 64 addr) op req }

/-- The flit of a request leaves, and the request keeps it. -/
def sendReq (s : State) (r : Nat) (f : Flit) : State :=
  { s with flits := s.flits ++ [f], reqs := s.reqs.map fun q => if q.id = r then { q with sent := some f } else q }

/-- A request leaves a core: to a scratchpad of this module, to a peer, or to the host (R102, R319). -/
def sendOp (s : State) (core : Nat) (user : ReqUser) (l : Loc) (op : PeerOp) : State × Nat :=
  let addr := locAddr l
  let ctx := (s.core core).ctx
  let number := fun (s : State) (stream : Nat) => if PeerOp.streamed op then takeSeq s core stream else (s, 0)
  match l with
  | .scr c .. =>
    let (s, r) := newReq s user (BitVec.ofNat 64 addr) false
    let (s, q) := number s (scrStream ctx c)
    (sendReq s r { space2Flit s core op addr r with seq := q }, r)
  | .host ha =>
    let (s, r) := newReq s user (BitVec.ofNat 64 addr) true
    (s.emit (.hostOp ha op), r)
  | _ =>
    let (s, r) := newReq s user (BitVec.ofNat 64 addr) true
    let (s, q) := number s (peerStream ctx (devOf addr))
    (sendReq s r { peerFlit s core op addr r with seq := q }, r)

/-! ### Reading what is there -/

/-- An element of which every byte can be read now. -/
def captureElem (base : BaseByte) (effs : List Effect) (e : LElem) : Option (List LByte) :=
  let bs := e.want.zipIdx.map fun ((d, l), n) => (fwdByte base effs l).map fun (b, bad) =>
    ({ dst := d, addr := e.addr + BitVec.ofNat 64 n, byte := b, poison := bad } : LByte)
  if (bs.all (·.isSome)) = true then some (bs.filterMap id) else none

/-- Two elements share a byte. -/
def LElem.overlaps (a b : LElem) : Bool := a.want.any fun (_, l) => b.want.any fun (_, m) => l == m

/-- The elements in order (R162): each is read now if it can be and no earlier one that still waits shares a byte with it. -/
def captureElems (base : LElem → BaseByte) (effs : List Effect) : List LElem → List LElem → List LByte × List LElem
  | _, [] => ([], [])
  | wait, e :: es =>
    match (if wait.any (·.overlaps e) then none else captureElem (base e) effs e) with
    | some bs =>
      let (got, rest) := captureElems base effs wait es
      (bs ++ got, rest)
    | none =>
      let (got, rest) := captureElems base effs (wait ++ [e]) es
      (got, e :: rest)

/-- The answer to an element's request, byte by byte. -/
def respBase (s : State) (e : LElem) : BaseByte := fun l =>
  match e.req with
  | none => none
  | some r => match s.reqs.find? fun q => q.id == r with
    | some q => match q.resp with
      | some (.ok data tag) =>
        if locAddr l < q.addr.toNat then none else ((data[locAddr l - q.addr.toNat]?).map fun b => ((b, tag), false))
      | _ => none
    | none => none

/-- The failure of an element at the far end (R123). -/
def respErr (s : State) (e : LElem) : Option ErrMark :=
  match e.req with
  | none => none
  | some r => match s.reqs.find? fun q => q.id == r with
    | some q => match q.resp with
      | some .error | some (.refused _) => some { addr := e.addr, poison := false }
      | some .poison => some { addr := e.addr, poison := true }
      | _ => none
    | none => none

/-- An access reads what it can now: each byte from the caches or the core's own scratchpad, else from the answer to its request, else,
in `extra`, from what has just arrived (R164). -/
def capture (s : State) (core carrel : Nat) (extra : LElem → BaseByte) (l : Outst) : Outst :=
  let failed := l.elems.filterMap fun e => (respErr s e).map fun m => ((e.want.head?.map (·.1)).getD 0, m)
  let alive := l.elems.filter fun e => (respErr s e).isNone
  let base := fun (e : LElem) => fun (p : Loc) =>
    match baseNow s core e.reach p with
    | some b => some b
    | none => match respBase s e p with
      | some b => some b
      | none => extra e p
  let (got, rest) := captureElems base (pendingFor s core carrel l.id) [] alive
  { l with got := l.got ++ got, elems := rest, errs := l.errs ++ failed }

/-- Nothing has just arrived. -/
def noExtra : LElem → BaseByte := fun _ _ => none

/-! ### Poisoned Clean folios (R145) -/

/-- A read of a poisoned byte of a Clean folio that has not been refetched yet (R145): the folio is removed and its extent fetched once
more, in the cache that holds the poison. The error counts in the health of what detected it (R279). -/
def healByte (s : State) (core pa : Nat) : State :=
  let key := pa / 4096
  let off := pa % 4096
  let k := clusterOf core
  let bad := fun (c : Cache) (f : Folio) => c.poison.contains (f.sector off) && f.st == .clean && !f.retry
  let again := ((s.core core).l1.find false key off).filter (bad (s.core core).l1)
  let s := match again with
    | some f => countAt (evictL1 s core f) core
    | none => s
  let policy := fun (f : Folio) => ({ keep := f.keep, window := f.window, retry := true, asker := some core,
                                      colour := s.colourOf (s.core core).ctx } : Policy)
  let s := if ((s.core core).l1.find false key off).isSome then s else
    match (s.cluster k).l2.find false key off with
    | some f => if bad (s.cluster k).l2 f then
        let gaps := runsOf (fun o => !(asked s k key o (o + 1))) f.start (f.fin - f.start) none
        (fillGaps (countCluster (evictL2 s k f) k) k key gaps (policy f) false).1 else s
    | none => s
  match again with
  | some f =>
    let gaps := runsOf (fun o => !((s.core core).l1.has false key o) && (s.cluster k).l2.has false key o) f.start (f.fin - f.start) none
    (fillL1Gaps s core key gaps (policy f)).1
  | none => s

/-- The bytes that an element reads from the caches. -/
def LElem.cached (e : LElem) : List Nat :=
  if e.reach = .bypass then [] else e.want.filterMap fun (_, p) => match p with
    | .mem pa => some pa
    | _ => none

/-- The poisoned bytes of the core's own regions that an access reads are corrected from their clean twins (R149). -/
def healScr (s : State) (core : Nat) (l : Outst) : State :=
  healPlaces s core (l.elems.flatMap fun e => e.want.map (·.2))

/-- What an access meets of poison in the caches before it reads: clean copies take its place. -/
def heal (s : State) (core : Nat) (l : Outst) : State :=
  (l.elems.flatMap LElem.cached).foldl (fun s pa => healByte s core pa) (healScr s core l)

/-! ### Starting fills and requests -/

/-- A missing byte lies in a fill that an invalidation has overtaken (R141): it comes too late for an access that begins
now. -/
def overtaken (s : State) (core pa : Nat) : Bool :=
  (s.cluster (clusterOf core)).l2.folios.any fun f => f.isFor false (pa / 4096) && f.st == .filling &&
    f.covers (pa % 4096) && f.dropped (pa % 4096)

/-- An uncached read at the home for an element (R147, R157). -/
def sendUncr (s : State) (core carrel id pa len : Nat) : State :=
  let k := clusterOf core
  let m : CatMsg := { kind := .uncr, cluster := k, die := homeOf pa, pa := pa, len := len, req := s.nextReq,
                      colour := s.colourOf (s.core core).ctx }
  let s := { s with nextReq := s.nextReq + 1 }
  let q : CatReq := { id := m.req, user := .access core carrel id, msg := m }
  sendToHome (s.modCluster k fun c => { c with reqs := c.reqs ++ [q] }) m

/-- Least and greatest of a list of numbers. -/
def minOf (xs : List Nat) : Nat := xs.foldl Nat.min (xs.headD 0)
def maxOf (xs : List Nat) : Nat := xs.foldl Nat.max 0

/-- An entry of the core's commit queue writes a byte of the element: it is not read elsewhere before that is done (R38, R162). -/
def queueMeets (k : Core) (e : LElem) : Bool := k.queue.any fun x => (effLocs x.eff).any fun l => e.want.any fun (_, m) => m == l

/-- The read of an element at another agent (R102): a cistern there serves no vector access and no descriptor (R207). -/
def Dest.readOp (d : Dest) (n : Nat) : PeerOp := match d with
  | .vec _ | .buffer => .vread n
  | _ => .read n

/-- An element is read elsewhere (R102): from its first to its last byte that is not here. -/
def askElem (s : State) (core carrel : Nat) (l : Outst) (e : LElem) (need : List Loc) : State × LElem :=
  match need with
  | [] => (s, e)
  | p :: _ =>
    let as_ := need.map locAddr
    let lo := minOf as_
    let from_ := (need.find? fun p => locAddr p == lo).getD p
    let (s, r) := sendOp s core (.access core carrel l.id) from_ (l.dest.readOp (maxOf as_ + 1 - lo))
    (s, { e with req := some r })

/-- The places below the core's pending entries that an element depends on. -/
def elemBase (s : State) (core carrel : Nat) (l : Outst) (e : LElem) : List Loc :=
  e.want.flatMap fun (_, p) => baseLocs (pendingFor s core carrel l.id) p

/-- The physical addresses among places. -/
def memPlaces (ls : List Loc) : List Nat := ls.filterMap fun p => match p with | .mem a => some a | _ => none

/-- The addresses of an access's request in an element's granule (R135, R136): the element's own, or those of all the elements of a VLD that
reach the granule as it does. -/
def requestOf (s : State) (core carrel : Nat) (l : Outst) (e : LElem) : List Nat :=
  let own := memPlaces (elemBase s core carrel l e)
  if !l.joint then own else
  (l.elems.filter fun x => x.window == e.window && x.reach == e.reach).flatMap fun x =>
    (memPlaces (elemBase s core carrel l x)).filter fun a => a / 4096 == own.headD 0 / 4096

/-- What an element asks for: an L1F and an L2F fill of its request's extent for what they lack (R136), and, while it waits for bytes, an
uncached read where R147 makes one, or a request to another agent (R102). `first` marks the element's issue. -/
def startElem (s : State) (core carrel : Nat) (l : Outst) (first waits : Bool) (e : LElem) : State × LElem :=
  if e.uncr || e.req.isSome || !(first || waits) then (s, e) else
  let base := elemBase s core carrel l e
  let pas := memPlaces base
  let away := base.filter fun p => match p with | .mem _ => false | p => (baseNow s core e.reach p).isNone
  if !away.isEmpty then (if waits && !(queueMeets (s.core core) e) then askElem s core carrel l e away else (s, e)) else
  if pas.isEmpty || e.reach = .bypass then (s, e) else
  let late := (first || e.late) && pas.any (overtaken s core)
  let lacks := pas.any fun a => (if l.nal1 then (s.cluster (clusterOf core)).l2.get false (a / 4096) (a % 4096)
    else (s.core core).l1.get false (a / 4096) (a % 4096)).isNone
  let ext := requestOf s core carrel l e
  let lo := minOf ext
  let policy : Policy := { stream := l.stream, keep := l.keep, window := e.window, colour := s.colourOf (s.core core).ctx }
  let (t, ok) := if lacks && !l.nal2 then startFill s core (lo / 4096) (lo % 4096) (lo % 4096 + (maxOf ext + 1 - lo)) policy l.nal1 false
    else (s, !l.nal2)
  let gone := pas.filter fun a => (cachedByte t core a).isNone
  if !waits || gone.isEmpty then (t, { e with late := late })
  else if ok || gone.all fun a => (t.cluster (clusterOf core)).l2.has false (a / 4096) (a % 4096) then (t, { e with late := late })
  else if e.window then (t, { e with reach := .direct })
  else if queueMeets (t.core core) e then (t, e)
  else (sendUncr t core carrel l.id (minOf gone) (maxOf gone + 1 - minOf gone), { e with uncr := true, stale := false, late := late })

/-- The folios from which elements have been read become the most recently used, but not under STREAM (R138, R146). -/
def touchRead (s : State) (core : Nat) (l : Outst) (read : List LElem) : State :=
  if l.stream then s else
  read.foldl (fun s e => match e.cached with
    | [] => s
    | a :: as_ =>
      let lo := minOf (a :: as_)
      let n := maxOf (a :: as_) + 1 - lo
      let r : CacheRef := if ((s.core core).l1.find false (a / 4096) (a % 4096)).isSome then .l1 core else .l2 (clusterOf core)
      s.modCache r (·.touch (lo / 4096) (lo % 4096) (lo % 4096 + n))) s

/-- A pair of elements of a VLD that were read as one (R161) and failed: the answer does not say which, so that each is asked for again by
itself, for the mark to name the lowest that fails (R416; DESIGN CHOICE, log entry 98). -/
def partPairs (s : State) (l : Outst) : Outst :=
  let failed := fun (e : LElem) => match e.req with
    | some r => s.reqs.any fun q => q.id == r && q.resp == some .error
    | none => false
  { l with elems := l.elems.flatMap fun e =>
      if l.joint && e.want.length == 8 && failed e then
        [{ e with want := e.want.take 4, req := none }, { e with addr := e.addr + 4, want := e.want.drop 4, req := none }]
      else [e] }

/-- An access reads what it can and asks for the rest (R164); an element asks for nothing while an earlier one that shares a byte with it
waits (R162, R412). -/
def pursue (s : State) (core carrel : Nat) (l : Outst) (first : Bool) : State × Outst :=
  let s := heal s core l
  let l := partPairs s l
  let m := capture s core carrel noExtra l
  let waits := fun (e : LElem) => m.elems.any fun x => x.want == e.want
  let (t, es) := l.elems.foldl (fun (s, es) e =>
    if es.any fun x => waits x && x.overlaps e then (s, es ++ [e]) else
    let (s, e) := startElem s core carrel l first (waits e) e
    (s, es ++ [e])) (touchRead s core l (l.elems.filter fun e => !(waits e)), [])
  (t, capture t core carrel noExtra { m with elems := es.filter waits })

/-! ### The result -/

/-- The number that bytes at their places make. -/
def lbNat (bs : List LByte) : Nat := (bs.map fun b => b.byte.1.toNat * 256 ^ b.dst).sum

def ldBytes : LdWidth → Nat
  | .b | .bu => 1
  | .h | .hu => 2
  | .w | .wu => 4
  | .d => 8
  | .q => 16

/-- The register value of an LD (R368, R106). -/
def ldValue (w : LdWidth) (tgl : Bool) (bs : List LByte) : TCap :=
  let x := lbNat bs
  match w with
  | .b | .h | .w => dataCap (sext64 (8 * ldBytes w) x)
  | .bu | .hu | .wu | .d => dataCap (zext64 (8 * ldBytes w) x)
  | .q => { val := BitVec.ofNat 128 x, tag := tgl && bs.all (·.byte.2) }

/-- A value of `size` bytes as a data value (R331, R343, R210, R197). -/
def extValue (size : Nat) (sign : Bool) (x : Nat) : TCap :=
  dataCap (if sign then sext64 (8 * size) x else zext64 (8 * size) x)

/-- A vector register with bytes replaced. -/
def vecBytes (v : VWord) (bs : List LByte) : VWord :=
  BitVec.ofNat 512 (bs.foldl (fun x b => putBits x (8 * b.dst) 8 b.byte.1.toNat) v.toNat)

/-- The mark of the lowest failing element (R123). -/
def lowestErr (errs : List (Nat × ErrMark)) : Option ErrMark :=
  (errs.foldl (fun (o : Option (Nat × ErrMark)) e =>
    match o with
    | none => some e
    | some x => if e.1 < x.1 then some e else some x) none).map (·.2)

/-- A register marked erroneous (R123): present, since the access is over. -/
def Carrel.markReg (c : Carrel) (r : Reg) (m : ErrMark) : Carrel :=
  if r = 0 then c
  else { c with regs := fset c.regs r.toNat { c.creg r with present := true, dead := false, err := some m } }

/-- The stream's waiting element `id` gets what came of it (R197). -/
def Carrel.fillStream (c : Carrel) (r : Reg) (id : Nat) (x : StreamElem) : Carrel :=
  match c.stream r with
  | none => c
  | some st =>
    let put := fun y => if y = .pending id then x else y
    { c with streams := fset c.streams r.toNat { st with ready := st.ready.map put } }

/-- The result of an access that has read all its bytes, or failed at the far end, in its destination. -/
def Carrel.land (c : Carrel) (l : Outst) : Carrel :=
  match l.dest, lowestErr l.errs with
  | .reg r w tgl, none => c.put r (ldValue w tgl l.got)
  | .ext r size sign, none => c.put r (extValue size sign (lbNat l.got))
  | .vec v, none =>
    let old := c.vreg v
    let x := vecBytes old.val l.got
    if l.got.length = 64 then c.setV v x else { c with vregs := fset c.vregs v.toNat { old with val := x } }
  | .stream r size sign, none => c.fillStream r l.id (.value (extValue size sign (lbNat l.got)).data)
  | .buffer, e => { c with bufs := c.bufs ++ [{ addr := l.addr, data := l.got.map (·.byte), err := e }] }
  | .reg r _ _, some m => c.markReg r m
  | .ext r _ _, some m => c.markReg r m
  | .vec v, some m => { c with vregs := fset c.vregs v.toNat { c.vreg v with err := some m } }
  | .stream r _ _, some m => c.fillStream r l.id (.err m)
  | .none, _ => c

/-- A synchronised word's pending result becomes known (R284): a value, or the mark of a failure at the far end (R123). -/
def Carrel.syncResult (c : Carrel) (l : Outst) : Carrel :=
  let give := fun (y : SyncRec) => match l.dest, lowestErr l.errs with
    | .ext d size sign, none => { y with pending := none, result := some (d, extValue size sign (lbNat l.got)) }
    | .ext d _ _, some m => { y with pending := none, err := some (d, m) }
    | _, _ => { y with pending := none }
  { c with sync := c.sync.map fun y => if y.pending = some l.id then give y else y }

/-- The carrel goes back to the word of an outstanding access: nothing later has happened (R122). -/
def rollback (s : State) (core carrel : Nat) (l : Outst) : State :=
  match l.undo with
  | none => s
  | some u =>
    let mine := fun (c : Carrel) (e : StreamElem) => match e with
      | .pending id => c.loads.any fun x => x.id == id && x.id < l.id
      | _ => true
    -- an element whose load is over is fetched again
    let cut := fun (c : Carrel) (st : Stream) =>
      let keep := st.ready.takeWhile (mine c)
      if st.write then st else { st with ready := keep, next := st.used + keep.length }
    let back := fun (c : Carrel) => { c.awake with
      pc := u.pc, hints := u.hints, regs := u.regs, vregs := u.vregs, masks := u.masks, fpc := u.fpc, wrote := u.wrote,
      streams := u.streams.map fun (n, st) => (n, cut c st), outbox := c.outbox.filter (fun e => e.id < l.id),
      loads := c.loads.filter (fun x => x.id < l.id), bufs := [], barr := none }
    s.modCarrel core carrel back

/-- The first poisoned byte of a result. -/
def firstPoison (l : Outst) : Option Word := (l.got.find? (·.poison)).map (·.addr)

/-- The result lands also in what a trap at a later load leaves (R122). -/
def Snap.land (u : Snap) (l : Outst) : Snap :=
  let c := ({ regs := u.regs, vregs := u.vregs, masks := u.masks, streams := u.streams, wrote := u.wrote } : Carrel).land l
  { u with regs := c.regs, vregs := c.vregs, masks := c.masks, streams := c.streams, wrote := c.wrote }

/-- The carrel with the result of an access, which every later load's snapshot then holds (R122). -/
def Carrel.landAll (c : Carrel) (l : Outst) : Carrel :=
  let c := c.land l
  { c with loads := c.loads.map fun x => if l.id < x.id then { x with undo := x.undo.map (·.land l) } else x }

/-- An access that is over: it consumes an uncorrectable error (R278), or its result lands. -/
def finishLoad (s : State) (core carrel : Nat) (l : Outst) : State :=
  let s := s.modCarrel core carrel fun c => { c with loads := c.loads.filter fun x => x.id ≠ l.id }
  let s := { s with reqs := s.reqs.filter fun q => q.user != .access core carrel l.id }
  match firstPoison l with
  | some x => match l.dest with
    | .none => s
    | .stream r _ _ => s.modCarrel core carrel fun c => c.fillStream r l.id (.bad x)
    | _ => consumeError (rollback s core carrel l) core carrel x
  | none => s.modCarrel core carrel fun c => (c.landAll l).syncResult l

/-! ### Issue -/

/-- What holds a load back (R164, R168, R169): an earlier acquire, a FENCE, an SC fence's entries, overlapping bytes. -/
def loadHeld (s : State) (locs : List Loc) : Bool :=
  let c := s.me
  (c.loads.any (·.acquire)) || (c.fenceLoads && c.loads.any fun l => l.dest != .none) ||
  (c.scWait.any fun id => s.myCore.queue.any fun e => e.id == id) ||
  c.loads.any fun l => l.dest != .none && l.locs.any locs.contains

/-- Outstanding requests of a core (R248). -/
def outstanding (k : Core) : Nat := (k.carrels.map fun (_, c) => (c.loads.map (·.count)).sum).sum

def requestMax : Nat := 256

/-- The granules that addresses touch. -/
def granuleCount (as_ : List Word) : Nat := ((as_.map fun a => a.toNat / 4096).eraseDups).length

/-- A snapshot of the carrel (R122). -/
def Carrel.snap (c : Carrel) : Snap :=
  { pc := c.pc, hints := c.hints, regs := c.regs, vregs := c.vregs, masks := c.masks, fpc := c.fpc, streams := c.streams,
    wrote := c.wrote }

/-- A load issues: it completes at once when every byte can be read, else it stays outstanding. A word's own read at issue takes
the counts that the word says (R248). -/
def issueLoad (s : State) (l : Outst) : WordRes :=
  let locs := l.elems.flatMap fun e => e.want.map (·.2)
  let n := if l.dest == .buffer then l.count else granuleCount (l.elems.map (·.addr))
  if loadHeld s locs then .stall else
  if outstanding s.myCore + n > requestMax then .stall else
  match badLoc locs with
  | some pa => .fault (.noDram pa)
  | none =>
    let (c, i) := s.cur
    let (id, k) := s.myCore.fresh
    let undo := s.me.snap
    let s := (s.setCore c k).modMe fun x => { x with fenceLoads := false, scWait := [] }
    let (t, l) := pursue s c i { l with id := id, locs := locs, count := n, undo := some undo } true
    if l.elems.isEmpty then
      match firstPoison l with
      | some x => .consume x
      | none => .done (t.modMe (·.land l))
    else .done (t.modMe fun x => { x with loads := x.loads ++ [l] })

end Sys2Proof.Machine
end

