-- ==== Sys2Proof/Machine/VecInt.lean ====
section
/-! DEFINITION. Vector integer words, transfers and masks (R64, R65, R76 to R78, R351, R374, R398 to R404, R413). A vector
is handled as the list of its elements, element 0 first. -/

namespace Sys2Proof.Machine

/-- The bits of an element (R65). -/
def ewBits : ElemWidth → Nat
  | .e8 => 8
  | .e16 => 16
  | .e32 => 32
  | .e64 => 64

/-- The elements of w bits of a vector (R398). -/
def elems (w : Nat) (v : VWord) : List Nat := (List.range (512 / w)).map fun i => bitsAt v.toNat (i * w) w

/-- The vector of elements of w bits. -/
def ofElems (w : Nat) : List Nat → Nat
  | [] => 0
  | e :: es => e % 2 ^ w + 2 ^ w * ofElems w es

/-- The elements with the governed ones replaced (R64, R398). -/
def governedBy (m : Word) (old new : List Nat) : List Nat :=
  ((old.zip new).zipIdx).map fun ((o, n), i) => if m.getLsbD i then n else o

/-- Bit i of the mask is set for every i below n. -/
def coversAll (m : Word) (n : Nat) : Bool := (List.range n).all m.getLsbD

/-- A write of the governed elements of a vector register. Its erroneous mark goes only when every element is written
(R398). -/
def Carrel.mergeV (c : Carrel) (v : VReg) (w : Nat) (m : Word) (new : List Nat) : Carrel :=
  let old := c.vreg v
  let x : VWord := BitVec.ofNat 512 (ofElems w (governedBy m (elems w old.val) new))
  if coversAll m (512 / w) then c.setV v x
  else { c with vregs := fset c.vregs v.toNat { old with val := x } }

/-- A vector word that writes the governed elements of v from its sources (R398, R401): all sources are read before. -/
def vecWord (i : Instr) (v : VReg) (vs : List VReg) (m : MReg) (w : Nat) (s : State) (f : List VWord → List Nat) :
    Host.Outcome State Fault Refusal :=
  runWord i { vs := vs, ms := [m], dv := some v } s fun s _ =>
    .done (s.modMe fun c => c.mergeV v w (c.mask m) (f (vs.map fun x => (c.vreg x).val)))

/-- A two-source element-wise word (R401). -/
def vec2 (i : Instr) (v a b : VReg) (m : MReg) (w : ElemWidth) (s : State) (f : Nat → Nat → Nat → Nat) :
    Host.Outcome State Fault Refusal :=
  vecWord i v [a, b] m (ewBits w) s fun x =>
    (((elems (ewBits w) (x.getD 0 0)).zip (elems (ewBits w) (x.getD 1 0))).map fun (p, q) => f (ewBits w) p q % 2 ^ (ewBits w))

def execVadd (v a b : VReg) (m : MReg) (w : ElemWidth) (s : State) : Host.Outcome State Fault Refusal :=
  vec2 (.vadd v a b m w) v a b m w s fun _ x y => x + y
def execVsub (v a b : VReg) (m : MReg) (w : ElemWidth) (s : State) : Host.Outcome State Fault Refusal :=
  vec2 (.vsub v a b m w) v a b m w s fun n x y => x + 2 ^ n - y
def execVmul (v a b : VReg) (m : MReg) (w : ElemWidth) (s : State) : Host.Outcome State Fault Refusal :=
  vec2 (.vmul v a b m w) v a b m w s fun _ x y => x * y
def execVmin (v a b : VReg) (m : MReg) (w : ElemWidth) (s : State) : Host.Outcome State Fault Refusal :=
  vec2 (.vmin v a b m w) v a b m w s minSigned
def execVmax (v a b : VReg) (m : MReg) (w : ElemWidth) (s : State) : Host.Outcome State Fault Refusal :=
  vec2 (.vmax v a b m w) v a b m w s maxSigned
def execVminu (v a b : VReg) (m : MReg) (w : ElemWidth) (s : State) : Host.Outcome State Fault Refusal :=
  vec2 (.vminu v a b m w) v a b m w s fun _ x y => if x ≤ y then x else y
def execVmaxu (v a b : VReg) (m : MReg) (w : ElemWidth) (s : State) : Host.Outcome State Fault Refusal :=
  vec2 (.vmaxu v a b m w) v a b m w s fun _ x y => if x ≤ y then y else x
def execVand (v a b : VReg) (m : MReg) (w : ElemWidth) (s : State) : Host.Outcome State Fault Refusal :=
  vec2 (.vand v a b m w) v a b m w s fun _ x y => x &&& y
def execVor (v a b : VReg) (m : MReg) (w : ElemWidth) (s : State) : Host.Outcome State Fault Refusal :=
  vec2 (.vor v a b m w) v a b m w s fun _ x y => x ||| y
def execVxor (v a b : VReg) (m : MReg) (w : ElemWidth) (s : State) : Host.Outcome State Fault Refusal :=
  vec2 (.vxor v a b m w) v a b m w s fun _ x y => x ^^^ y
def execVshl (v a b : VReg) (m : MReg) (w : ElemWidth) (s : State) : Host.Outcome State Fault Refusal :=
  vec2 (.vshl v a b m w) v a b m w s fun n x y => x * 2 ^ shiftBy n y
def execVshr (v a b : VReg) (m : MReg) (w : ElemWidth) (s : State) : Host.Outcome State Fault Refusal :=
  vec2 (.vshr v a b m w) v a b m w s fun n x y => x / 2 ^ shiftBy n y
def execVsra (v a b : VReg) (m : MReg) (w : ElemWidth) (s : State) : Host.Outcome State Fault Refusal :=
  vec2 (.vsra v a b m w) v a b m w s fun n x y => sraBits n x (shiftBy n y)

/-! ### Masks -/

/-- The mask a comparison writes (R404): governed bits the results, others below E as before, bits from E up zero. -/
def cmpMask (e : Nat) (old g : Word) (r : List Bool) : Word :=
  BitVec.ofNat 64 (ofElems 1 ((List.range e).map fun i =>
    if g.getLsbD i then (r.getD i false).toNat else (old.getLsbD i).toNat))

/-- VCMP (R404). -/
def execVcmp (d : MReg) (a b : VReg) (m : MReg) (w : ElemWidth) (c : Cond) (s : State) :
    Host.Outcome State Fault Refusal :=
  runWord (.vcmp d a b m w c) { vs := [a, b], ms := [m, d] } s fun s _ =>
    .done (s.modMe fun k =>
      let r := ((elems (ewBits w) (k.vreg a).val).zip (elems (ewBits w) (k.vreg b).val)).map
        fun (x, y) => condHolds c (ewBits w) x y
      k.setM d (cmpMask (512 / (ewBits w)) (k.mask d) (k.mask m) r))

/-- MTOC and MCNT read E bits of a mask, CTOM writes them (R351). -/
def execMtoc (d : Reg) (a : MReg) (w : ElemWidth) (s : State) : Host.Outcome State Fault Refusal :=
  runWord (.mtoc d a w) { ms := [a], dc := some d } s fun s _ =>
    .done (s.putData d (zext64 (512 / (ewBits w)) (s.me.mask a).toNat))
def execCtom (d : MReg) (a : Reg) (w : ElemWidth) (s : State) : Host.Outcome State Fault Refusal :=
  runWord (.ctom d a w) { cs := [a] } s fun s vs =>
    .done (s.modMe fun k => k.setM d (zext64 (512 / (ewBits w)) (src vs 0).data.toNat))
def execMcnt (d : Reg) (a : MReg) (w : ElemWidth) (s : State) : Host.Outcome State Fault Refusal :=
  runWord (.mcnt d a w) { ms := [a], dc := some d } s fun s _ =>
    .done (s.putData d (BitVec.ofNat 64 (popCount (512 / (ewBits w)) (s.me.mask a).toNat)))

/-- MOP (R374). -/
def execMop (d a b : MReg) (o : MaskOp) (s : State) : Host.Outcome State Fault Refusal :=
  runWord (.mop d a b o) { ms := [a, b] } s fun s _ =>
    .done (s.modMe fun k => k.setM d (match o with
      | .and => k.mask a &&& k.mask b
      | .or => k.mask a ||| k.mask b
      | .xor => k.mask a ^^^ k.mask b
      | .andn => k.mask a &&& ~~~(k.mask b)))

/-! ### Transfers (R402, R403) -/

/-- VBCAST writes every element. -/
def execVbcast (d : VReg) (a : Reg) (w : ElemWidth) (s : State) : Host.Outcome State Fault Refusal :=
  runWord (.vbcast d a w) { cs := [a], dv := some d } s fun s vs =>
    .done (s.modMe fun k => k.setV d
      (BitVec.ofNat 512 (ofElems (ewBits w) (List.replicate (512 / (ewBits w)) (src vs 0).data.toNat))))

/-- VINS writes one element; vd is also read. -/
def execVins (d : VReg) (a b : Reg) (w : ElemWidth) (s : State) : Host.Outcome State Fault Refusal :=
  runWord (.vins d a b w) { cs := [a, b], vs := [d], dv := some d } s fun s vs =>
    let k := (src vs 1).data.toNat
    if 512 / (ewBits w) ≤ k then .trap 0x102 (src vs 1).data
    else .done (s.modMe fun c => c.setV d (BitVec.ofNat 512 (ofElems (ewBits w)
      (modAt (elems (ewBits w) (c.vreg d).val) k fun _ => (src vs 0).data.toNat))))

/-- VEXT reads one element. -/
def execVext (d : Reg) (a : VReg) (b : Reg) (w : ElemWidth) (s : State) : Host.Outcome State Fault Refusal :=
  runWord (.vext d a b w) { cs := [b], vs := [a], dc := some d } s fun s vs =>
    let k := (src vs 0).data.toNat
    if 512 / (ewBits w) ≤ k then .trap 0x102 (src vs 0).data
    else .done (s.putData d (sext64 (ewBits w) ((elems (ewBits w) (s.me.vreg a).val).getD k 0)))

/-- The operation of a reduction on w-bit values (R403). -/
def redOp (o : RedOp) (w x y : Nat) : Nat :=
  match o with
  | .add => (x + y) % 2 ^ w
  | .min => minSigned w x y
  | .max => maxSigned w x y
  | .minu => if x ≤ y then x else y
  | .maxu => if x ≤ y then y else x
  | .and => x &&& y
  | .or => x ||| y
  | .xor => x ^^^ y

/-- VRED (R403). -/
def execVred (d : Reg) (a : VReg) (o : RedOp) (w : ElemWidth) (s : State) : Host.Outcome State Fault Refusal :=
  runWord (.vred d a o w) { vs := [a], dc := some d } s fun s _ =>
    .done (s.putData d (sext64 (ewBits w) (match elems (ewBits w) (s.me.vreg a).val with
      | [] => 0
      | e :: es => es.foldl (redOp o (ewBits w)) e)))

/-! ### VMISC (R413) -/

/-- VSEL writes every element: va where the mask is set, else vb. -/
def execVsel (v a b : VReg) (m : MReg) (w : ElemWidth) (s : State) : Host.Outcome State Fault Refusal :=
  runWord (.vsel v a b m w) { vs := [a, b], ms := [m], dv := some v } s fun s _ =>
    .done (s.modMe fun c => c.setV v (BitVec.ofNat 512 (ofElems (ewBits w)
      (governedBy (c.mask m) (elems (ewBits w) (c.vreg b).val) (elems (ewBits w) (c.vreg a).val)))))

/-- VPERM: an index at or above E gives 0. -/
def execVperm (v a b : VReg) (m : MReg) (w : ElemWidth) (s : State) : Host.Outcome State Fault Refusal :=
  vecWord (.vperm v a b m w) v [a, b] m (ewBits w) s fun x =>
    (elems (ewBits w) (x.getD 1 0)).map fun j => (elems (ewBits w) (x.getD 0 0)).getD j 0

/-- VIOTA: element i is i. -/
def execViota (v : VReg) (m : MReg) (w : ElemWidth) (s : State) : Host.Outcome State Fault Refusal :=
  vecWord (.viota v m w) v [] m (ewBits w) s fun _ => List.range (512 / (ewBits w))

def execVmov (v a : VReg) (m : MReg) (w : ElemWidth) (s : State) : Host.Outcome State Fault Refusal :=
  vecWord (.vmov v a m w) v [a] m (ewBits w) s fun x => elems (ewBits w) (x.getD 0 0)

end Sys2Proof.Machine
end

