-- ==== Sys2Proof/Machine/MemOps.lean ====
section
/-! DEFINITION. Loads and stores: LD (R367 to R369), ST (R392 to R394), VLD and VST (R414 to R416), VLDS and VSTS (R417,
R418), VGATH and VSCAT (R410 to R412). -/

namespace Sys2Proof.Machine

/-! ### Shared checks -/

/-- The effective address of an operand (R107). -/
def effAddr (cap : TCap) (off : Int) : Nat := (((capAddr cap.val : Int) + off) % (2 ^ 64 : Nat)).toNat

/-- The scope rule of a window access (R167): at scope 3 or above it goes past the folio caches. -/
def bypasses (sc : ScopeRef) : Bool := 3 ≤ sc.cover

/-- The watermark rule, then the access (R190, R191). -/
def afterStall (s : State) (touch : List (Nat × Nat)) (k : WordRes) : WordRes :=
  match siphStalls s s.cur.1 touch with
  | .fault x => .trap 0x1C4 x
  | .stall => .stall
  | .go => k

/-- A store's entry goes into the outbox, under the watermark rule (R165, R190). -/
def storeOut (s : State) (touch : List (Nat × Nat)) (e : Entry) : WordRes :=
  putOutWhen s (fun t => siphStalls t t.cur.1 touch = .go) e

/-- An access outstanding as the executing word's hints make it. -/
def plainAccess (s : State) (dest : Dest) (addr size : Nat) : Outst :=
  let h := cacheHint s.me.hints
  { id := 0, dest := dest, addr := BitVec.ofNat 64 addr, size := size, nal1 := h.nal1, nal2 := h.nal2, stream := h.stream, keep := h.keep }

/-- The place is reached through a window (R115): the physical granules that an access so reaches are `win`. -/
def inGrans (win : List Nat) : Loc → Bool
  | .mem pa => win.contains (pa / 4096)
  | _ => false

/-- The bytes of one element at their places in the result, read as the window and the scope say (R115, R167). -/
def elemOf (win : List Nat) (sc : ScopeRef) (dst addr : Nat) (locs : List Loc) : LElem :=
  let w := locs.any (inGrans win)
  { addr := BitVec.ofNat 64 addr, want := locs.zipIdx.map fun (l, n) => (dst + n, l), window := w,
    reach := if w && bypasses sc then .bypass else .caches }

/-- The places of an access together with its bytes. -/
def cellsOf (locs : List Loc) (bs : List Byte) : List (Loc × Byte) := locs.zip bs

/-- A store entry as the executing word's hints and scope make it. -/
def storeEntry (s : State) (i : Instr) (eff : Effect) (addr : Nat) (window : List Nat) (sc : ScopeRef) : Entry :=
  let h := cacheHint s.me.hints
  { mkEntry s i eff (BitVec.ofNat 64 addr) with
      window := window, through := bypasses sc, nal2 := h.nal2, stream := h.stream, keep := h.keep }

/-! ### LD and ST -/

def stBytes : StWidth → Nat
  | .b => 1
  | .h => 2
  | .w => 4
  | .d => 8
  | .q => 16

/-- A load of a cistern cell (R207): its width, the watermark rule, then the view (R208). -/
def loadCell (s : State) (d : Reg) (w : LdWidth) (addr pa typ : Nat) : WordRes :=
  let n := ldBytes w
  if n ≠ cellSize typ || w == .q then .trap 0x182 (BitVec.ofNat 64 addr) else
  afterStall s [(addr, n)] <|
  match badLoc [.mem pa] with
  | some x => .fault (.noDram x)
  | none =>
    if loadHeld s ((List.range n).map fun j => .mem (pa + j)) then .stall else
    let (t, v, bad) := viewCell s s.cur.1 s.cur.2 pa typ n (cacheHint s.me.hints)
    if bad then .consume (BitVec.ofNat 64 addr)
    else .done (t.put d (dataCap (match w with
      | .w => sext64 32 v
      | _ => zext64 (8 * n) v)))

def execLd (d a : Reg) (w : LdWidth) (o : BitVec 11) (s : State) : Host.Outcome State Fault Refusal :=
  runWord (.ld d a w o) { cs := [a], dc := some d } s fun s vs =>
    let n := ldBytes w
    let cap := src vs 0
    let addr := effAddr cap (signedOf 11 o.toNat * n)
    if addr % n ≠ 0 then .trap 0x101 (BitVec.ofNat 64 addr) else
    match capCheck s s.cur.1 cap addr n permR with
    | some c => .trap c (BitVec.ofNat 64 addr)
    | none =>
      match places s s.cur.1 s.myCore.ctx addr n .read with
      | (t, .error (c, v)) => .trapWith t c (BitVec.ofNat 64 v)
      | (t, .ok p) =>
        let (t, sc) := opScope t 4
        let plain := afterStall t [(addr, n)] <|
          issueLoad t { plainAccess t (.reg d w (hasPerms (capPerms cap.val) permTGL)) addr n with
            elems := [elemOf p.window sc 0 addr p.locs] }
        match p.ent, p.locs with
        | some e, .mem pa :: _ => if e.kind = 1 then loadCell t d w addr pa e.typ else plain
        | _, _ => plain

/-- A plain store to a cistern cell: the checks of R207 and R211, the watermark rule, then a join without REL. -/
def storeCell (s : State) (i : Instr) (n addr pa typ v : Nat) : WordRes :=
  let x : Word := BitVec.ofNat 64 addr
  if n ≠ cellSize typ then .trap 0x182 x else
  match badLoc [.mem pa] with
  | some y => .fault (.noDram y)
  | none =>
    let (t, view, bad) := viewCell s s.cur.1 s.cur.2 pa typ n (cacheHint s.me.hints)
    if bad then .consume x else
    if !(geq typ v view) then .trap 0x181 x else
    afterStall t [(addr, n)] <| storeOut t [(addr, n)] (mkEntry t i (.join pa typ n (BitVec.ofNat 64 v)) x)

def execSt (r a : Reg) (w : StWidth) (o : BitVec 11) (s : State) : Host.Outcome State Fault Refusal :=
  runWord (.st r a w o) { cs := [a, r] } s fun s vs =>
    let n := stBytes w
    let v := src vs 1
    let cap := src vs 0
    let addr := effAddr cap (signedOf 11 o.toNat * n)
    let x : Word := BitVec.ofNat 64 addr
    let vtag := w == .q && v.tag
    if addr % n ≠ 0 then .trap 0x101 x else
    match capCheck s s.cur.1 cap addr n (if vtag then permW ||| permTGS else permW) with
    | some c => .trap c x
    | none =>
      match places s s.cur.1 s.myCore.ctx addr n .write with
      | (t, .error (c, y)) => .trapWith t c (BitVec.ofNat 64 y)
      | (t, .ok p) =>
        let (t, sc) := opScope t 4
        let data := natBytes n v.val.toNat
        let put := fun (eff : Effect) => afterStall t [(addr, n)] <|
          match badLoc p.locs with
          | some y => .fault (.noDram y)
          | none => storeOut t [(addr, n)] (storeEntry t (.st r a w o) eff addr p.window sc)
        let plain := put (.store (cellsOf p.locs data) vtag)
        match p.ent, p.locs with
        | some e, .mem pa :: _ =>
          if e.kind = 1 then storeCell t (.st r a w o) n addr pa e.typ (v.val.toNat % 2 ^ (8 * n)) else plain
        | _, .peer _ :: _ =>
          let ok8 := addr % 8 == 0 && (capCheck t t.cur.1 cap addr 8 permW).isNone
          if spaceOf addr = 1 && w != .q then put (.peer x (.cellStore data ok8)) else plain
        | _, _ => plain

/-! ### Vector accesses -/

/-- One governed element of a vector access. -/
structure VElem where
  dst : Nat
  addr : Nat
  size : Nat
  deriving DecidableEq, Repr

/-- The first element that fails CapCheck, in element order (R108); a gather or scatter may not reach space 3 (R319). -/
def capAll (s : State) (cap : TCap) (perm : Nat) (noHost : Bool) : List VElem → Option (Nat × Nat)
  | [] => none
  | e :: es =>
    match capCheck s s.cur.1 cap e.addr e.size perm with
    | some c => some (c, e.addr)
    | none => if noHost && spaceOf e.addr = 3 then some (0x085, e.addr) else capAll s cap perm noHost es

/-- Elements by ascending address. -/
def insertElem (e : VElem) : List VElem → List VElem
  | [] => [e]
  | f :: fs => if e.addr < f.addr then e :: f :: fs else f :: insertElem e fs
def sortElems (es : List VElem) : List VElem := es.foldl (fun l e => insertElem e l) []

/-- The places of elements in ascending address order, up to the first that fails (R108, R111). -/
def placeEach (s : State) (acc : Acc_) : List VElem → State × List (VElem × Places) × Option (Nat × Nat)
  | [] => (s, [], none)
  | e :: es =>
    match places s s.cur.1 s.myCore.ctx e.addr e.size acc with
    | (t, .error x) => (t, [], some x)
    | (t, .ok p) =>
      let (t, ps, err) := placeEach t acc es
      (t, (e, p) :: ps, err)

/-- The lowest address of the access's elements in the granule of an address: TVAL of a failing granule (R111, R127). -/
def granuleLow (es : List VElem) (a : Nat) : Nat := minOf ((es.filter fun e => e.addr / 4096 == a / 4096).map (·.addr))

/-- The address is translated, or named in a region of the core itself: its failure is a translation cause (R101, R111). -/
def translatedHere (s : State) (addr : Nat) : Bool :=
  spaceOf addr == 0 || (spaceOf addr == 1 && servedHere s s.myCore.ctx addr) || localScratch s s.cur.1 addr

/-- The place of a destination or remote-core cause in the order of R54. -/
def remoteRank (code : Nat) : Nat := if code = 0x242 then 0 else if code = 0x301 then 1 else 2

/-- The cause that R121 takes among those of elements which other agents serve: in the order of R54, then by address. -/
def remoteFail (s : State) (acc : Acc_) (es : List VElem) : Option (State × Nat × Nat) :=
  (es.filterMap fun e => match places s s.cur.1 s.myCore.ctx e.addr e.size acc with
    | (t, .error (c, v)) => some (t, c, v)
    | _ => none).foldl (fun o x => match o with
      | none => some x
      | some y => if remoteRank x.2.1 < remoteRank y.2.1 then some x else some y) none

/-- The places of all elements (R108, R111, R121): the translation of every granule, in ascending address order, then the checks of elements
that other agents serve; with the places found before a failure. -/
def placeAll (s : State) (acc : Acc_) (es : List VElem) : State × List (VElem × Places) × Option (Nat × Nat) :=
  match placeEach s acc (es.filter fun e => translatedHere s e.addr) with
  | (t, ps, some (c, v)) => (t, ps, some (c, if c / 64 = 3 then granuleLow es v else v))
  | (t, ps, none) =>
    let far := es.filter fun e => !(translatedHere s e.addr)
    match remoteFail t acc far with
    | some (u, c, v) => (u, ps, some (c, v))
    | none =>
      let (u, qs, err) := placeEach t acc far
      (u, ps ++ qs, err)

/-- The places of an element. -/
def placesFor (ps : List (VElem × Places)) (e : VElem) : List Loc :=
  ((ps.find? fun (f, _) => f.dst == e.dst).map fun (_, p) => p.locs).getD []

/-- The physical granules that elements reach through a window. -/
def winOf (ps : List (VElem × Places)) : List Nat := (ps.flatMap fun (_, p) => p.window).eraseDups

/-- The fills of the granules that a faulting load had translated (R137); a window's bytes have one at scope 2 or below (R167). -/
def leftFills (s : State) (ps : List (VElem × Places)) : State :=
  let h := cacheHint s.me.hints
  if h.nal2 then s else
  let (s, sc) := if (winOf ps).isEmpty then (s, ⟨4, 4, []⟩) else opScope s 4
  ps.foldl (fun s (_, p) =>
    match p.locs with
    | .mem pa :: _ =>
      if hasDram pa && (p.window.isEmpty || !(bypasses sc)) then
        (startFill s s.cur.1 (pa / 4096) (pa % 4096) (pa % 4096 + p.locs.length)
          { stream := h.stream, keep := h.keep, window := !p.window.isEmpty, colour := s.colourOf s.myCore.ctx } h.nal1 false).1
      else s
    | _ => s) s

/-- A vector load of governed elements (R411, R415, R418), once they are aligned; `joint` marks the VLD. -/
def vecLoad (s : State) (v : VReg) (cap : TCap) (noHost joint : Bool) (checks elems_ : List VElem) : WordRes :=
  match capAll s cap permR noHost checks with
  | some (c, a) => .trap c (BitVec.ofNat 64 a)
  | none =>
    match placeAll s .vecR (sortElems elems_) with
    | (t, ps, some (c, a)) => .trapWith (leftFills t ps) c (BitVec.ofNat 64 a)
    | (t, ps, none) =>
      let (t, sc) := opScope t 4
      afterStall t (elems_.map fun e => (e.addr, e.size)) <|
        issueLoad t { plainAccess t (.vec v) ((elems_.head?.map (·.addr)).getD 0) 64 with
          joint := joint,
          elems := elems_.map fun e => elemOf (winOf ps) sc e.dst e.addr (placesFor ps e) }

/-- A vector store of governed elements: one entry, its cells in element order (R411, R415, R418); `unit` is the size of elements that
are performed one by one (R412). -/
def vecStore (s : State) (i : Instr) (cap : TCap) (noHost : Bool) (addr : Nat) (data : VWord) (unit : Nat) (es : List VElem) : WordRes :=
  match capAll s cap permW noHost es with
  | some (c, a) => .trap c (BitVec.ofNat 64 a)
  | none =>
    match placeAll s .vecW (sortElems es) with
    | (t, _, some (c, a)) => .trapWith t c (BitVec.ofNat 64 a)
    | (t, ps, none) =>
      let (t, sc) := opScope t 4
      let cells := es.flatMap fun e => cellsOf (placesFor ps e) (natBytes e.size (bitsAt data.toNat (8 * e.dst) (8 * e.size)))
      let touch := es.map fun e => (e.addr, e.size)
      afterStall t touch <|
        match badLoc (cells.map (·.1)) with
        | some y => .fault (.noDram y)
        | none => storeOut t touch { storeEntry t i (.store cells false) addr (winOf ps) sc with unit := unit }

/-- The first misaligned element (R108). -/
def misaligned (es : List VElem) : Option Nat := (es.find? fun e => e.addr % e.size ≠ 0).map (·.addr)

/-- The active 4-byte elements of VLD and VST (R415). -/
def wordElems (m : Word) (addr : Nat) : List VElem :=
  ((List.range 16).filter m.getLsbD).map fun k => ⟨4 * k, (addr + 4 * k) % 2 ^ 64, 4⟩

/-- Aligned pairs of active elements as single 8-byte elements (R161). -/
def pairElems : List VElem → List VElem
  | e :: f :: es =>
    if e.addr % 8 = 0 && f.dst = e.dst + 4 then ⟨e.dst, e.addr, 8⟩ :: pairElems es else e :: pairElems (f :: es)
  | es => es

def execVld (v : VReg) (a : Reg) (m : MReg) (o : BitVec 12) (s : State) : Host.Outcome State Fault Refusal :=
  runWord (.vld v a m o) { cs := [a], ms := [m], dv := some v } s fun s vs =>
    let addr := effAddr (src vs 0) (signedOf 12 o.toNat * 64)
    let es := wordElems (s.me.mask m) addr
    if addr % 4 ≠ 0 then .trap 0x101 (BitVec.ofNat 64 addr) else
    if es.isEmpty then .done s else vecLoad s v (src vs 0) false true es (pairElems es)

def execVst (v : VReg) (a : Reg) (m : MReg) (o : BitVec 12) (s : State) : Host.Outcome State Fault Refusal :=
  runWord (.vst v a m o) { cs := [a], vs := [v], ms := [m] } s fun s vs =>
    let addr := effAddr (src vs 0) (signedOf 12 o.toNat * 64)
    let es := wordElems (s.me.mask m) addr
    if addr % 4 ≠ 0 then .trap 0x101 (BitVec.ofNat 64 addr) else
    if es.isEmpty then .done s else vecStore s (.vst v a m o) (src vs 0) false addr (s.me.vreg v).val 0 es

/-- The governed elements of a strided access: cA.ADDR + i × stride (R418). -/
def strideElems (m : Word) (cap : TCap) (stride : Word) (z : Nat) : List VElem :=
  ((List.range (64 / z)).filter m.getLsbD).map fun (i : Nat) => ⟨z * i, effAddr cap ((i : Int) * stride.toInt), z⟩

/-- The governed elements of a gather or scatter: cA.ADDR + Sext(index) × z (R411). -/
def indexElems (m : Word) (cap : TCap) (idx : VWord) (z : Nat) : List VElem :=
  ((List.range (64 / z)).filter m.getLsbD).map fun i =>
    ⟨z * i, effAddr cap (signedOf (8 * z) (bitsAt idx.toNat (8 * z * i) (8 * z)) * z), z⟩

/-- A strided or gathered load. -/
def gatherLoad (s : State) (v : VReg) (cap : TCap) (noHost : Bool) (es : List VElem) : WordRes :=
  match misaligned es with
  | some a => .trap 0x101 (BitVec.ofNat 64 a)
  | none => if es.isEmpty then .done s else vecLoad s v cap noHost false es es

/-- A strided or scattered store of elements of `z` bytes. -/
def scatterStore (s : State) (i : Instr) (cap : TCap) (noHost : Bool) (data : VWord) (z : Nat) (es : List VElem) : WordRes :=
  match misaligned es with
  | some a => .trap 0x101 (BitVec.ofNat 64 a)
  | none => vecStore s i cap noHost (capAddr cap.val) data z es

def wideBytes : WideElem → Nat
  | .e32 => 4
  | .e64 => 8

def execVlds (d : VReg) (a b : Reg) (w : ElemWidth) (m : MReg) (s : State) : Host.Outcome State Fault Refusal :=
  runWord (.vlds d a b w m) { cs := [a, b], ms := [m], dv := some d } s fun s vs =>
    gatherLoad s d (src vs 0) false (strideElems (s.me.mask m) (src vs 0) (src vs 1).data (ewBits w / 8))

def execVsts (d : VReg) (a b : Reg) (w : ElemWidth) (m : MReg) (s : State) : Host.Outcome State Fault Refusal :=
  runWord (.vsts d a b w m) { cs := [a, b], vs := [d], ms := [m] } s fun s vs =>
    scatterStore s (.vsts d a b w m) (src vs 0) false (s.me.vreg d).val (ewBits w / 8)
      (strideElems (s.me.mask m) (src vs 0) (src vs 1).data (ewBits w / 8))

def execVgath (d : VReg) (a : Reg) (b : VReg) (w : WideElem) (m : MReg) (s : State) : Host.Outcome State Fault Refusal :=
  runWord (.vgath d a b w m) { cs := [a], vs := [b], ms := [m], dv := some d } s fun s vs =>
    gatherLoad s d (src vs 0) true (indexElems (s.me.mask m) (src vs 0) (s.me.vreg b).val (wideBytes w))

def execVscat (d : VReg) (a : Reg) (b : VReg) (w : WideElem) (m : MReg) (s : State) : Host.Outcome State Fault Refusal :=
  runWord (.vscat d a b w m) { cs := [a], vs := [d, b], ms := [m] } s fun s vs =>
    scatterStore s (.vscat d a b w m) (src vs 0) true (s.me.vreg d).val (wideBytes w)
      (indexElems (s.me.mask m) (src vs 0) (s.me.vreg b).val (wideBytes w))

end Sys2Proof.Machine
end

