-- ==== Sys2Proof/Machine/Atomic.lean ====
section
/-! DEFINITION. AMO and CAS (R331 to R333, R343, R344), FENCE (R169, R170, R360), and the performance of an atomic access
where R333 places it. -/

namespace Sys2Proof.Machine

/-! ### Performing an atomic access -/

/-- The number that an atomic access writes, if it writes (R332, R344). -/
def atomicNew (op : AccOp) (size old : Nat) : Option Nat :=
  match op with
  | .amo o v => some (amoApply o size old v.toNat)
  | .cas e v => if old = e.toNat % 2 ^ (8 * size) then some (v.toNat % 2 ^ (8 * size)) else none
  | _ => none

/-- An access with its bytes read. -/
def Outst.withOld (l : Outst) (bs : List (TByte × Bool)) : Outst :=
  let read := bs.zipIdx.map fun ((b, bad), n) =>
    ({ dst := n, addr := l.addr + BitVec.ofNat 64 n, byte := b, poison := bad } : LByte)
  { l with elems := [], got := read, started := false }

/-- The old bytes as a number. -/
def oldOf (bs : List (TByte × Bool)) : Nat := tbNat (bs.map (·.1))

/-- The bytes of a cluster's L2F in a granule. -/
def l2Bytes (s : State) (k pa size : Nat) : List (TByte × Bool) :=
  (List.range size).map fun j => ((s.cluster k).l2.get false ((pa + j) / 4096) ((pa + j) % 4096)).getD ((0, false), false)

/-- A FENCE marker. -/
def isMarker (e : Entry) : Bool := match e.eff with
  | .marker => true
  | _ => false

/-- How a core's writes allocate by default, and for which partition and launch. -/
def corePolicy (s : State) (core : Nat) : Policy :=
  { colour := s.colourOf (s.core core).ctx, launch := (s.core core).launchId }

/-- An atomic access in the L2F that owns its bytes (R333): `none` when no way is found for the write. A poisoned byte stops
it before it writes (R278). `own` are the offsets that its request has asked for. -/
def atomicL2 (s : State) (core pa : Nat) (bs : List (TByte × Bool)) (l : Outst) (own : Option (Nat × Nat)) : Option (State × Outst) :=
  if bs.any (·.2) then some (s, l.withOld bs) else
  match atomicNew l.op l.size (oldOf bs) with
  | none => some (s, l.withOld bs)
  | some v => (placeWrite s (clusterOf core) (pa / 4096) (pa % 4096) (tbytes l.size v false) { corePolicy s core with own := own }).map
      fun t => (t, l.withOld bs)

/-- An atomic access in home memory, with no cache in the way, on the bytes that it finds there (R333, window bytes; R157, uncached). -/
def atomicMem (s : State) (pa : Nat) (bs : List (TByte × Bool)) (l : Outst) : State × Outst :=
  if bs.any (·.2) then (s, l.withOld bs) else
  match atomicNew l.op l.size (oldOf bs) with
  | none => (s, l.withOld bs)
  | some v => (s.storeMem pa (tbytes l.size v false), l.withOld bs)

/-- An atomic access in a scratchpad region, in its core's drain order (R150, R333). -/
def atomicScr (s : State) (core region off : Nat) (l : Outst) : State × Outst :=
  let s := healRegion s core region off l.size
  let bs := (List.range l.size).map fun j =>
    ((baseNow s core .caches (.scr core region (off + j))).getD ((0, false), false))
  if bs.any (·.2) then (s, l.withOld bs) else
  match atomicNew l.op l.size (oldOf bs) with
  | none => (s, l.withOld bs)
  | some v => (scrWrite s core region off (tbytes l.size v false), l.withOld bs)

/-- The cluster's own copy of a range leaves its caches, its Dirty bytes written back (R143, R333). -/
def flushOwn (s : State) (k pa len : Nat) : State :=
  (granules pa len).foldl (fun s (g, lo, hi) => (removeL2 (copyBack s k g lo hi true) k g lo hi true true).1) s

/-- A write can be placed for bytes of a granule: they are held, or extend a folio, or a way can be made (R140, R147). -/
def canPlace (s : State) (k pa len : Nat) : Bool :=
  (placeWrite s k (pa / 4096) (pa % 4096) (List.replicate len (0, false)) {}).isSome

/-- A request of a cluster to a home, on behalf of a user (R156). -/
def sendCatReq (s : State) (k : Nat) (user : CatUser) (m : CatMsg) : State :=
  let m := { m with req := s.nextReq }
  let s := { s with nextReq := s.nextReq + 1 }
  sendToHome (s.modCluster k fun c => { c with reqs := c.reqs ++ [{ id := m.req, user := user, msg := m }] }) m

/-- The place of a space-1 or space-2 address that another agent, or the core's own scratchpad, serves. -/
def placeOf (s : State) (core addr : Nat) : Loc :=
  if spaceOf addr = 2 && s.isOwnDev (devOf addr) then
    .scr (if localScratch s core addr then core else scrCoreOf addr) (scrRegionOf addr) (scrOffOf addr)
  else .peer addr

/-- The stream of a core toward a scratchpad or a peer has a flit that is not acknowledged (R302): of an entry, an atomic access, a BARR or a
siphon channel of the core. -/
def streamBusy (s : State) (core : Nat) (l : Loc) : Bool :=
  s.reqs.any fun q => q.resp.isNone && !q.held && q.sent.any fun f => f.src * 16 + f.sslot == core && match l, f.body with
    | .scr c _ _, .space2 op _ _ _ => f.dst * 16 + f.dslot == c && PeerOp.streamed op
    | .peer a, .remote _ op _ => f.dev == devOf a && PeerOp.streamed op && !(PeerOp.isMessage op)
    | _, _ => false

/-- The remote form of an atomic access. -/
def remoteAtomic (l : Outst) : PeerOp :=
  match l.op with
  | .amo o v => .amo o l.size v true
  | .cas e v => .cas l.size e v
  | _ => .read l.size

/-- The request of a cluster for an update of catalogued bytes: their ownership (R157, R333), with that of what a write to them makes
Dirty beside them, or, without a way, the update at the home (R147). -/
def writeMsg (s : State) (core pa len : Nat) (place : Bool) : CatMsg :=
  let k := clusterOf core
  let (a, b) := ownExtent s k (pa / 4096) (pa % 4096) (pa % 4096 + len)
  { kind := if place then .geto else .uncw, cluster := k, die := homeOf pa, pa := pa / 4096 * 4096 + a, len := b - a,
    colour := s.colourOf (s.core core).ctx }

/-- The request for an atomic update: exactly its bytes (R333). -/
def atomicMsg (s : State) (core pa len : Nat) : CatMsg :=
  let place := canPlace s (clusterOf core) pa len
  if place then { writeMsg s core pa len true with atomic := true }
  else { writeMsg s core pa len false with pa := pa, len := len, atomic := true }

/-- An atomic access goes as far as it can: performed where its bytes are owned, else the request that performs it is sent
(R333), but not while bytes of it are filling. -/
def stepAtomic (s : State) (core carrel : Nat) (l : Outst) : State × Outst :=
  let k := clusterOf core
  if l.started || (l.entries.any fun id => (s.core core).queue.any fun e => e.id == id) then (s, l) else
  match l.locs with
  | .mem pa :: _ =>
    if l.through then
      let t := flushOwn s k pa l.size
      atomicMem t pa ((List.range l.size).map fun j => memNow t (pa + j)) l
    else
    if (s.cluster k).l2.fills (pa / 4096) (pa % 4096) (pa % 4096 + l.size) then (s, l) else
    if allDirty s k (pa / 4096) (pa % 4096) (pa % 4096 + l.size) then
      match atomicL2 s core pa (l2Bytes s k pa l.size) l none with
      | some r => r
      | none => (s, l)
    else (sendCatReq s k (.access core carrel l.id) (atomicMsg s core pa l.size), { l with started := true })
  | .scr c r o :: _ =>
    if c = core then atomicScr s core r o l else
    if streamBusy s core (.scr c r o) then (s, l) else
    let (s, q) := sendOp s core (.access core carrel l.id) (.scr c r o) (remoteAtomic l)
    (s, { l with started := true, elems := l.elems.map fun e => { e with req := some q } })
  | p :: _ =>
    if streamBusy s core p then (s, l) else
    let (s, q) := sendOp s core (.access core carrel l.id) p (remoteAtomic l)
    (s, { l with started := true, elems := l.elems.map fun e => { e with req := some q } })
  | [] => (s, l)

/-! ### The words -/

def ampBytes (w : Bool) : Nat := if w then 4 else 8

def ordAcq : Order → Bool
  | .acq | .ar | .sc => true
  | _ => false
def ordRel : Order → Bool
  | .rel | .ar | .sc => true
  | _ => false

/-- An entry writes a byte at one of the places. -/
def entryTouches (locs : List Loc) (e : Entry) : Bool := (effLocs e.eff).any locs.contains

/-- The checks of AMO and CAS up to the access (R332, R344): the places and the state with its translations. -/
def atomicChecks (s : State) (cap : TCap) (size : Nat) (hostOk : Bool) (k : State → Places → ScopeRef → WordRes) : WordRes :=
  let addr := capAddr cap.val
  let x : Word := BitVec.ofNat 64 addr
  if addr % size ≠ 0 then .trap 0x101 x else
  match capCheck s s.cur.1 cap addr size (permR ||| permW) with
  | some c => .trap c x
  | none =>
    if spaceOf addr = 3 && !hostOk then .trap 0x085 x else
    match places s s.cur.1 s.myCore.ctx addr size .rw with
    | (t, .error (c, v)) => .trapWith t c (BitVec.ofNat 64 v)
    | (t, .ok p) =>
      let (t, sc) := opScope t 4
      afterStall t [(addr, size)] <|
        match badLoc p.locs with
        | some y => .fault (.noDram y)
        | none => k t p sc

/-- The value-returning access after its commit (R332, R344): it waits for overlapping earlier entries, for a FENCE marker, which its
write follows (R175), and under a release order for every earlier entry. -/
def issueAtomic (s : State) (op : AccOp) (d : Reg) (addr size : Nat) (p : Places) (sc : ScopeRef) (o : Order) : WordRes :=
  if loadHeld s p.locs then .stall else
  if outstanding s.myCore + 1 > requestMax then .stall else
  tryCommit s fun s =>
    let (c, i) := s.cur
    let (id, k) := s.myCore.fresh
    let undo := s.me.snap
    let s := s.setCore c k
    let wait := (k.queue.filter fun e => ordRel o || isMarker e || entryTouches p.locs e).map (·.id)
    let l : Outst := { id := id, op := op, dest := .ext d size true, addr := BitVec.ofNat 64 addr, size := size,
                       elems := [elemOf p.window sc 0 addr p.locs], locs := p.locs, acquire := ordAcq o, entries := wait,
                       through := !p.window.isEmpty, count := 1, undo := some undo }
    -- a siphon command of its own commit holds it back like any other (R190)
    let (s, l) := if siphStall s c addr size = .go then stepAtomic s c i l else (s, l)
    let s := s.modMe fun x => { x with fenceLoads := false, scWait := [], loads := x.loads ++ [l] }
    if l.elems.isEmpty && (firstPoison l).isNone then .done (finishLoad s c i l) else .done s

/-- AMO and CAS of space 3 that the host serves (R319). -/
def hostAmo : AmoOp → Bool
  | .add | .swap => true
  | _ => false

def execAmo (d a b : Reg) (o : Order) (w : Bool) (p : AmoOp) (s : State) : Host.Outcome State Fault Refusal :=
  runWord (.amo d a b o w p) { cs := [a, b], dc := some d } s fun s vs =>
    let n := ampBytes w
    atomicChecks s (src vs 0) n (hostAmo p) fun t q sc =>
      issueAtomic t (.amo p (src vs 1).data) d (capAddr (src vs 0).val) n q sc o

/-- The no-return form: an entry, a release under REL, AR and SC (R166, R168). -/
def execAmoNoReturn (a b : Reg) (o : Order) (w : Bool) (p : AmoOp) (s : State) : Host.Outcome State Fault Refusal :=
  runWord (.amoNoReturn a b o w p) { cs := [a, b] } s fun s vs =>
    let n := ampBytes w
    let addr := capAddr (src vs 0).val
    atomicChecks s (src vs 0) n (hostAmo p) fun t q sc =>
      let eff : Effect := .amo ((q.locs.head?).getD (.mem 0)) p n (src vs 1).data
      let e := storeEntry t (.amoNoReturn a b o w p) eff addr q.window sc
      storeOut t [(addr, n)] { e with release := if ordRel o then some sc else none }

def execCas (d a b : Reg) (o : Order) (w : Bool) (s : State) : Host.Outcome State Fault Refusal :=
  runWord (.cas d a b o w) { cs := [a, b, d], dc := some d } s fun s vs =>
    let n := ampBytes w
    atomicChecks s (src vs 0) n true fun t q sc =>
      issueAtomic t (.cas (src vs 2).data (src vs 1).data) d (capAddr (src vs 0).val) n q sc o

/-- FENCE (R169, R360). Its marker is placed after the commit, if there is one. -/
def execFence (i : BitVec 5) (c : Bool) (o : Order) (s : State) : Host.Outcome State Fault Refusal :=
  runWord (.fence i c o) {} s fun s _ =>
    let (t, sc) := opScope s i.toNat
    let body := fun (t : State) =>
      let earlier := t.myCore.queue.map (·.id)
      let sets := fun (t : State) => t.modMe fun x => { x with
        fenceLoads := x.fenceLoads || (ordAcq o && x.loads.any fun l => l.dest != .none),
        scWait := if o == .sc && c then x.scWait ++ earlier else x.scWait }
      if ordRel o then
        match putOut t [{ mkEntry t (.fence i c o) .marker (BitVec.ofNat 64 sc.id) with release := some sc }] with
        | .done t => .done (sets t)
        | r => r
      else .done (sets t)
    if c then tryCommit t body else body t

end Sys2Proof.Machine
end

