-- ==== Sys2Proof/Machine/Msg.lean ====
section
/-! DEFINITION. The messaging words SEND, RPUT, PCLR and TAGCTL (R377 to R382) with the destination checks of R54. -/

namespace Sys2Proof.Machine

/-- The fields of a destination (R54). -/
def destDev (d : Nat) : Nat := bitsAt d 16 12
def destCore (d : Nat) : Nat := bitsAt d 0 12

/-- Effective priority (R37). -/
def eprioOf (prio w : Nat) : Nat := if w = 0 then prio else min 15 (prio + (w - 1) / 65536)

/-- A message that the network interface of a core is to send (R29, R302). -/
def postMsg (s : State) (core : Nat) (m : OutMsg) : State :=
  s.modCore core fun k => { k with out := k.out ++ [{ m with ctx := k.ctx }] }

/-- A notice (R125): a message of KIND 3 to tag 63 of a core, with the cause, the tag, channel or index concerned, the
address and the issuing word. -/
def postNotice (s : State) (core cause field : Nat) (c2 : Word) (pc : Va) : State :=
  postMsg s core
    { dest := 0xFFF * 2 ^ 16 + core, tag := 63, pc := pc, score := core,
      body := .msg [.data (BitVec.ofNat 64 (cause % 1024 + field % 64 * 2 ^ 16)), .data c2, .data (pc.setWidth 64)] 3 }

/-- The destination checks of SEND and RPUT in order (R28, R54, R378): the cause with its TVAL, and the state with a logged
violation. -/
def checkDest (s : State) (v : Word) (tag : Nat) : Except (State × Nat × Word) Unit :=
  let d := v.toNat
  if bitsAt d 32 32 ≠ 0 || bitsAt d 28 4 ≠ 0 || bitsAt d 12 4 ≠ 0 || tag = 63 then .error (s, 0x242, v) else
  if s.isOwnDev (destDev d) then
    if !(inOpenBay s s.myCore.ctx (destCore d)) then .error (s, 0x242, v) else
    if unbacked s (destCore d) then .error (s, 0x301, BitVec.ofNat 64 (destCore d)) else .ok ()
  else if !(devAllowed s (destDev d)) then .error (egCore s s.myCore.ctx s.cur.1 true d, 0x384, v)
  else .ok ()

/-- The scope at which a message releases: device, or system toward a peer (R166). -/
def msgScope (s : State) (d : Nat) : ScopeRef := if s.isOwnDev (destDev d) then ⟨4, 4, []⟩ else ⟨5, 5, []⟩

/-- One payload word as captured at issue (R42, R378), and the bytes it counts. -/
def payWord (x : TCap) : PWord :=
  if !x.tag then .data x.data
  else if hasPerms (capPerms x.val) permTGS then .cap x.val true
  else .cap (x.data.setWidth 128) false
def payBytes : PWord → Nat
  | .data _ => 8
  | .cap .. => 16

/-- The payload registers d to d + n − 1. -/
def payRegs (d : Reg) (n : Nat) : List Reg := (List.range n).map fun i => d + BitVec.ofNat 6 i

def execSend (d a : Reg) (t : BitVec 6) (n : BitVec 5) (s : State) : Host.Outcome State Fault Refusal :=
  runWord (.send d a t n) { cs := a :: payRegs d n.toNat, sends := true } s fun s vs =>
    let v := (src vs 0).data
    match checkDest s v t.toNat with
    | .error (u, c, x) => .trapWith u c x
    | .ok _ =>
      let ws := (vs.drop 1).map payWord
      let bytes := (ws.map payBytes).sum
      if bytes > 64 then .trap 0x102 (BitVec.ofNat 64 bytes) else
      putOut s [{ mkEntry s (.send d a t n) (.send v.toNat t.toNat ws) v with release := some (msgScope s v.toNat) }]

def execRput (d a : Reg) (t : BitVec 6) (i : BitVec 5) (s : State) : Host.Outcome State Fault Refusal :=
  runWord (.rput d a t i) { cs := [a, d], sends := true } s fun s vs =>
    let v := (src vs 0).data
    match checkDest s v t.toNat with
    | .error (u, c, x) => .trapWith u c x
    | .ok _ =>
      putOut s [{ mkEntry s (.rput d a t i) (.rput v.toNat t.toNat i.toNat (payWord (src vs 1))) v with
                  release := some (msgScope s v.toNat) }]

/-- PCLR (R380): a write that lands in the same cycle comes after the clear. -/
def execPclr (i : BitVec 5) (s : State) : Host.Outcome State Fault Refusal :=
  runWord (.pclr i) {} s fun s _ =>
    let r : Reg := BitVec.ofNat 6 (32 + i.toNat)
    if (s.me.stream r).isSome then .trap 0x1C5 (BitVec.ofNat 64 (32 + i.toNat))
    else if s.me.writtenNow r then .done s
    else .done (s.modMe fun c => { c with regs := fset c.regs r.toNat { c.creg r with present := false } })

/-- A TAGCTL entry of the executing word. -/
def tagctl (i : Instr) (k : BitVec 6) (op : TagOp) (s : State) : WordRes :=
  putOut s [mkEntry s i (.tagctl k.toNat op) (BitVec.ofNat 64 k.toNat)]

def execTagctlEn (k : BitVec 6) (s : State) : Host.Outcome State Fault Refusal :=
  runWord (.tagctlEn k) {} s fun s _ => tagctl (.tagctlEn k) k .en s

def execTagctlDis (k : BitVec 6) (s : State) : Host.Outcome State Fault Refusal :=
  runWord (.tagctlDis k) {} s fun s _ => tagctl (.tagctlDis k) k .dis s

def execTagctlPrio (a : Reg) (k : BitVec 6) (s : State) : Host.Outcome State Fault Refusal :=
  runWord (.tagctlPrio a k) { cs := [a] } s fun s vs =>
    let v := (src vs 0).data
    if bitsAt v.toNat 4 60 ≠ 0 then .trap 0x102 v else tagctl (.tagctlPrio a k) k (.prio v.toNat) s

def execTagctlAddr (a : Reg) (k : BitVec 6) (s : State) : Host.Outcome State Fault Refusal :=
  runWord (.tagctlAddr a k) { cs := [a] } s fun s vs =>
    let v := (src vs 0).data
    if bitsAt v.toNat 0 2 ≠ 0 then .trap 0x101 v else
    if bitsAt v.toNat 48 16 ≠ 0 then .trap 0x102 v else tagctl (.tagctlAddr a k) k (.addr (v.setWidth 48)) s

def execTagctlMode (a : Reg) (k : BitVec 6) (s : State) : Host.Outcome State Fault Refusal :=
  runWord (.tagctlMode a k) { cs := [a] } s fun s vs =>
    let v := (src vs 0).data
    if bitsAt v.toNat 4 60 ≠ 0 then .trap 0x102 v
    else tagctl (.tagctlMode a k) k (.mode (bitAt v.toNat 3) (bitsAt v.toNat 0 3)) s

def execTagctlGate (g : BitVec 2) (a : Reg) (k : BitVec 6) (s : State) : Host.Outcome State Fault Refusal :=
  runWord (.tagctlGate g a k) { cs := [a] } s fun s vs =>
    let v := (src vs 0).data
    if bitsAt v.toNat 56 7 ≠ 0 || bitsAt v.toNat 40 10 ≠ 0 then .trap 0x102 v
    else tagctl (.tagctlGate g a k) k (.gate g.toNat v) s

def execTagctlCap (g : BitVec 2) (a : Reg) (k : BitVec 6) (s : State) : Host.Outcome State Fault Refusal :=
  runWord (.tagctlCap g a k) { cs := [a] } s fun s vs => tagctl (.tagctlCap g a k) k (.cap g.toNat (src vs 0)) s

/-- Control word 1 (R25). -/
def controlWord1 (h : HTag) : Word :=
  BitVec.ofNat 64 (h.pend % 256 * 2 ^ 56 + h.eprio % 16 * 2 ^ 52 + h.act % 16 * 2 ^ 48 + h.seq % 65536 * 2 ^ 32)

def execTagctlStat (d : Reg) (k : BitVec 6) (s : State) : Host.Outcome State Fault Refusal :=
  runWord (.tagctlStat d k) { dc := some d } s fun s _ => .done (s.putData d (controlWord1 (s.myCore.tagOf k.toNat)))

/-- A TAGCTL takes effect on an installed entry (R382); selection sees it from the next cycle on (R27). -/
def applyTagctl (k : Core) (t : Nat) (op : TagOp) : Core :=
  let h := k.tagOf t
  if !h.inst then k else
  k.laterTag t (match op with
    | .en => { h with en := true }
    | .dis => { h with en := false }
    | .prio v => { h with prio := v % 16, eprio := eprioOf (v % 16) h.wait }
    | .addr v => { h with haddr := v }
    | .mode p m => { h with par := p, pmax := m }
    | .gate g w => { h with gates := fset h.gates g w }
    | .cap g v => { h with caps := fset h.caps g v })

end Sys2Proof.Machine
end

