-- ==== Sys2Proof/Machine/RangeOps.lean ====
section
/-! DEFINITION. The range operations PREF, WBR, INVR and WBRI (R152, R364 to R366). -/

namespace Sys2Proof.Machine

/-- One granule of an extent after translation: the physical place and its window. -/
structure GranPart where
  pa : Nat
  len : Nat
  window : Bool
  cistern : Bool
  deriving DecidableEq, Repr

/-- The granules of an extent that this module's table serves, translated in ascending order; with `stop` the list ends
silently at the first failure (R152, R365). -/
def granParts (s : State) (addr : Nat) (acc : Acc_) (stop : Bool) :
    List (Nat × Nat × Nat) → State × Except (Nat × Nat) (List GranPart)
  | [] => (s, .ok [])
  | (g, lo, hi) :: rest =>
    let va := g * 4096 + lo
    match translate s s.cur.1 s.myCore.ctx va acc (s.cur.1 / 1024) with
    | (t, .fail c) => if stop then (t, .ok []) else (t, .error (c, addr / 2 ^ 48 * 2 ^ 48 + va % 2 ^ 48))
    | (t, .ok p e) =>
      match granParts t addr acc stop rest with
      | (t, .error x) => (t, .error x)
      | (t, .ok ps) =>
        (t, .ok ({ pa := p * 4096 + lo, len := hi - lo,
                   window := spaceOf addr == 0 && inWindow (t.ctx t.myCore.ctx) va, cistern := e.kind == 1 } :: ps))

/-- The egress check of an extent outside this module (R323). -/
def egressOf (s : State) (addr len : Nat) : Option State :=
  let c := s.cur.1
  if spaceOf addr = 1 && !(servedHere s s.myCore.ctx addr) && !(devAllowed s (devOf addr)) then
    some (egCore s s.myCore.ctx c true (devOf addr * 2 ^ 16))
  else if spaceOf addr = 3 && !(hostAllowed s (addr % 2 ^ 60) len) then
    some (egCore s s.myCore.ctx c false (addr % 2 ^ 60))
  else none

/-- The granules of an extent, none of them in spaces that the words skip: a peer's is skipped also where a cistern range lists it
(R365). -/
def extentOf (s : State) (addr len : Nat) : List (Nat × Nat × Nat) :=
  if spaceOf addr = 0 || (spaceOf addr = 1 && s.isOwnDev (devOf addr)) then granules (addr % 2 ^ 48) len else []

/-- The checks of a range word, then its work on the extent's granules (R365). -/
def rangeWord (i : Instr) (a b : Reg) (pref : Bool) (perm : Nat) (acc : Acc_) (s : State)
    (work : State → Nat → Nat → List GranPart → WordRes) : Host.Outcome State Fault Refusal :=
  runWord i { cs := [a, b] } s fun s vs =>
    let cap := src vs 0
    let addr := capAddr cap.val
    let len := (src vs 1).data.toNat
    let x : Word := BitVec.ofNat 64 addr
    if len = 0 then .done s else
    match capCheck s s.cur.1 cap addr len perm with
    | some c => .trap c x
    | none =>
      if pref && (addr + len - 1) / 4096 - addr / 4096 + 1 > 256 then .trap 0x102 (src vs 1).data else
      match egressOf s addr len with
      | some t => .trapWith t 0x384 x
      | none =>
        match granParts s addr acc pref (extentOf s addr len) with
        | (t, .error (c, v)) => .trapWith t c (BitVec.ofNat 64 v)
        | (t, .ok ps) => work t addr len (ps.filter fun p => !p.cistern && hasDram p.pa)

/-- An earlier commit-queue entry writes a byte of the extent (R365): a store or an update at its places, a siphon command in its
destination's range (R185), a MACST in its destination capability's bounds. -/
def queueWrites (s : State) (addr len : Nat) (ps : List GranPart) : Bool :=
  let hit := fun (l : Loc) => match l with
    | .mem pa => ps.any fun p => p.pa ≤ pa && pa < p.pa + p.len
    | _ => false
  let a := canonAddr s addr
  s.myCore.queue.any fun e => match e.eff with
    | .siph _ c => touchesCmd s c 0 addr len
    | .engine (.macst m) =>
      let (base, top) := capBounds m.dst.val
      let b := canonAddr s (base % (2 ^ 64 : Nat)).toNat
      b < a + len && a < b + (top - base).toNat
    | x => (effLocs x).any hit

/-- The Dirty bytes of a granule part go to home memory and stay, Clean (R143). -/
def writeBackPart (s : State) (k : Nat) (p : GranPart) : State :=
  cleanDirty k (p.pa / 4096) true true (p.pa % 4096 + p.len) 32 (p.pa % 4096) s

/-- The Dirty bytes of a granule part go to home memory, before they are removed (R143). -/
def copyBackPart (s : State) (k : Nat) (p : GranPart) : State :=
  copyBack s k (p.pa / 4096) (p.pa % 4096) (p.pa % 4096 + p.len) true

/-- The bytes of a granule part leave the cluster's caches; outside a window each removal is reported to the home as a Clean
eviction notice, that of bytes which are filling when they have come (R366). -/
def removePart (s : State) (k : Nat) (p : GranPart) : State :=
  let key := p.pa / 4096
  let lo := p.pa % 4096
  let gone := (s.cluster k).l2.folios.filter fun f => f.isFor false key && f.st != .filling && !f.window && f.meets lo (lo + p.len)
  gone.foldl (fun t f =>
    let a := max f.start lo
    let b := min f.fin (lo + p.len)
    sendToHome t { kind := .evn, cluster := k, die := homeOf p.pa, pa := key * 4096 + a, len := b - a })
    (removeL2 s k key lo (lo + p.len) true true).1

/-- PREF of one granule part; the flag says that it started a fill, which it does not when no way is found. -/
def prefPart (s : State) (core : Nat) (h : CacheHint) (p : GranPart) : State × Bool :=
  let key := p.pa / 4096
  let lo := p.pa % 4096
  let held := (List.range p.len).all fun j =>
    (s.cluster (clusterOf core)).l2.has false key (lo + j) && (h.nal1 || (s.core core).l1.has false key (lo + j))
  if h.nal2 || held then (s, false)
  else startFill s core key lo (lo + p.len)
    { stream := h.stream, keep := h.keep, window := p.window, colour := s.colourOf (s.core core).ctx } h.nal1 false

/-- The fill of a granule that a PREF has started, as an access that writes nothing and holds one count until it is over (R248). -/
def watchFill (s : State) (nal1 : Bool) (p : GranPart) : State :=
  let (id, k) := s.myCore.fresh
  let l : Outst := { id := id, dest := .none, addr := 0, size := 0, count := 1, nal1 := nal1,
                     elems := [{ addr := BitVec.ofNat 64 p.pa, want := [(0, .mem p.pa), (1, .mem (p.pa + p.len - 1))] }] }
  (s.setCore s.cur.1 k).modMe fun x => { x with loads := x.loads ++ [l] }

def execPref (a b : Reg) (s : State) : Host.Outcome State Fault Refusal :=
  rangeWord (.pref a b) a b true permR .read s fun s _ _ ps =>
    let h := cacheHint s.me.hints
    let c := s.cur.1
    let need := ps.filter fun p => (prefPart s c h p).2
    if outstanding s.myCore + need.length > requestMax then .stall else
    .done (ps.foldl (fun t p =>
      let (u, b) := prefPart t c h p
      if b then watchFill u h.nal1 p else t) s)

def execWbr (a b : Reg) (s : State) : Host.Outcome State Fault Refusal :=
  rangeWord (.wbr a b) a b false permR .read s fun s addr len ps =>
    if !s.me.settled || queueWrites s addr len ps then .stall
    else .done (ps.foldl (fun t p => writeBackPart t (clusterOf t.cur.1) p) s)

def execInvr (a b : Reg) (s : State) : Host.Outcome State Fault Refusal :=
  rangeWord (.invr a b) a b false permW .write s fun s _ _ ps =>
    if !s.me.settled then .stall
    else .done (ps.foldl (fun t p => removePart t (clusterOf t.cur.1) p) s)

def execWbri (a b : Reg) (s : State) : Host.Outcome State Fault Refusal :=
  rangeWord (.wbri a b) a b false permW .write s fun s addr len ps =>
    if !s.me.settled || queueWrites s addr len ps then .stall
    else .done (ps.foldl (fun t p => removePart (copyBackPart t (clusterOf t.cur.1) p) (clusterOf t.cur.1) p) s)

end Sys2Proof.Machine
end

