-- ==== Sys2Proof/Machine/Cistern.lean ====
section
/-! DEFINITION. LJOIN and LWAIT (R209, R210, R220, R370) and the end of a parked LWAIT. -/

namespace Sys2Proof.Machine

/-- The cell that a join or a wait names, when this module serves it: the checks of R210 and R370 in order. A space-2 address
is no cistern (0x0C3), a space-3 address raises 0x085. -/
def cellChecks (s : State) (cap : TCap) (perm : Nat) (acc : Acc_) (here : State → Nat → Nat → WordRes)
    (there : State → Bool → WordRes) : WordRes :=
  let addr := capAddr cap.val
  let x : Word := BitVec.ofNat 64 addr
  if addr % 4 ≠ 0 then .trap 0x101 x else
  match capCheck s s.cur.1 cap addr 4 perm with
  | some c => .trap c x
  | none =>
    if spaceOf addr = 2 then .trap 0x0C3 x else
    if spaceOf addr = 3 then .trap 0x085 x else
    match places s s.cur.1 s.myCore.ctx addr 4 acc with
    | (t, .error (c, v)) => .trapWith t c (BitVec.ofNat 64 v)
    | (t, .ok p) =>
      match p.ent, p.locs with
      | some e, .mem pa :: _ =>
        let n := cellSize e.typ
        if addr % n ≠ 0 then .trap 0x182 x else
        match (if n = 8 then capCheck t t.cur.1 cap addr 8 perm else none) with
        | some c => .trap c x
        | none => match badLoc [.mem pa] with
          | some y => .fault (.noDram y)
          | none => here t pa e.typ
      | _, _ => there t (addr % 8 == 0 && (capCheck t t.cur.1 cap addr 8 perm).isNone)

def execLjoin (a b : Reg) (r : Bool) (s : State) : Host.Outcome State Fault Refusal :=
  runWord (.ljoin a b r) { cs := [a, b] } s fun s vs =>
    let x : Word := BitVec.ofNat 64 (capAddr (src vs 0).val)
    let v := (src vs 1).data
    -- a release carries its scope, to a peer the COVER (R221)
    let rel := fun (t : State) (eff : Option ScopeRef → Effect) =>
      let (t, sc) := opScope t 4
      let rs := if r then some sc else none
      putOut t [{ mkEntry t (.ljoin a b r) (eff rs) x with release := rs }]
    cellChecks s (src vs 0) permLAT .joinW
      (fun t pa typ => rel t fun _ => .join pa typ (cellSize typ) (BitVec.ofNat 64 (v.toNat % 2 ^ (cellBits typ))))
      (fun t ok8 => rel t fun rs => .peer x (.join v ok8 (rs.map (·.cover))))

/-- The value of a completed LWAIT: Zext(v, 64), with bit 127 set on a timeout (R210). -/
def lwaitValue (v : Nat) (late : Bool) : TCap :=
  { val := BitVec.ofNat 128 (v % 2 ^ 64 + if late then 2 ^ 127 else 0), tag := false }

def execLwait (d a b : Reg) (q : Bool) (s : State) : Host.Outcome State Fault Refusal :=
  runWord (.lwait d a b q) { cs := [a, b], dc := some d } s fun s vs =>
    let h := cacheHint s.me.hints
    let rec_ := fun (pa typ : Nat) (x : Word) (req : Option Nat) =>
      ({ d := d, addr := BitVec.ofNat 64 (capAddr (src vs 0).val), pa := pa, typ := typ, size := cellSize typ, x := x,
         nal2 := h.nal2, stream := h.stream, keep := h.keep, req := req } : LWaitRec)
    cellChecks s (src vs 0) permR .joinR
      (fun t pa typ =>
        if loadHeld t ((List.range (cellSize typ)).map fun j => .mem (pa + j)) then .stall else
        let x := (src vs 1).data.toNat % 2 ^ (cellBits typ)
        let (t, v, bad) := viewCell t t.cur.1 t.cur.2 pa typ (cellSize typ) h
        if bad then .consume (BitVec.ofNat 64 (capAddr (src vs 0).val)) else
        if geq typ v x then .done (t.put d (lwaitValue v false))
        else .park t (.lwait (rec_ pa typ (BitVec.ofNat 64 x) none)))
      (fun t ok8 =>
        if loadHeld t [] then .stall else
        let ga := capAddr (src vs 0).val
        let (t, r) := sendOp t t.cur.1 (.lwait t.cur.1 t.cur.2) (.peer ga) (.lwait (src vs 1).data ok8)
        .park t (.lwait (rec_ 0 0 (src vs 1).data (some r))))

end Sys2Proof.Machine
end

