-- ==== Sys2Proof/Machine/Descriptor.lean ====
section
/-! DEFINITION. The read of a descriptor, an image or a bitmap that a word makes at its issue as a load (R113, R173, R183,
R197, R260, R385): the word waits for the bytes and then checks them. -/

namespace Sys2Proof.Machine

/-- The aligned elements of a read of `size` bytes, of 8 bytes where the address allows it, in ascending address order (R161). -/
def bufElems (win : List Nat) (sc : ScopeRef) (addr : Nat) (locs : List Loc) : List LElem :=
  let z := if addr % 8 = 0 then 8 else 4
  (List.range ((locs.length + z - 1) / z)).map fun i => elemOf win sc (z * i) (addr + z * i) ((locs.drop (z * i)).take z)

/-- The bytes at `addr`, read as a load by the executing word, which takes `n` counts of outstanding requests (R248, R373, R385); `k` goes
on with them. The watermark rule holds for them
(R190), a cistern's bytes raise 0x0C3 (R111), and a failure at the far end traps at their use with the address of the read, which is one
load (R123, R385). -/
def readBuf (n : Nat) (s : State) (addr size : Nat) (k : State → List TByte → WordRes) : WordRes :=
  let x : Word := BitVec.ofNat 64 addr
  match places s s.cur.1 s.myCore.ctx addr size .vecR with
  | (t, .error (c, v)) => .trapWith t c (BitVec.ofNat 64 v)
  | (t, .ok p) =>
    let go := fun (t : State) (b : Buf) => match b.err with
      | some m => markTrap t { m with addr := x }
      | none => k t b.data
    match t.me.bufs.find? fun b => b.addr == x with
    | some b => go t b
    | none =>
      if t.me.loads.any fun l => l.dest == .buffer && l.addr == x then .hold t else
      afterStall t [(addr, size)] <|
        let (t, sc) := opScope t 4
        match issueLoad t { plainAccess t .buffer addr size with count := n, elems := bufElems p.window sc addr p.locs } with
        | .done u => match u.me.bufs.find? fun b => b.addr == x with
          | some b => go u b
          | none => .hold u
        | r => r

/-- The n-th little-endian number of `size` bytes in a list. -/
def fieldAt (bs : List TByte) (off size : Nat) : Nat := tbNat ((bs.drop off).take size)

end Sys2Proof.Machine
end

