-- ==== Sys2Proof/Machine/Sys.lean ====
section
/-! DEFINITION. The system registers (R62, R67 to R69, R395 to R397) with SYSR, SYSW and the rows of RTTW, TWIN and SCPBASE;
ERET (R120, R126, R354); RTINV (R114, R383); IDLE and HALT (R361). -/

namespace Sys2Proof.Machine

/-! ### Reading -/

/-- STATUS of a carrel (R68). -/
def statusWord (k : Core) (c : Carrel) (i : Nat) : Word :=
  BitVec.ofNat 64 (c.rply % 4 * 2 ^ 10 + c.pair.toNat * 2 ^ 9 + c.nr.toNat * 2 ^ 8 + i % 8 * 2 ^ 5 + k.pol.toNat * 2 ^ 4 +
    c.plv.toNat * 2 ^ 2 + c.lv.toNat)

/-- COORD of a core (R46); a core in no bay has none. -/
def coordWord (k : Core) : Word :=
  match k.bay with
  | none => 0
  | some b => BitVec.ofNat 64 ((b.nwing - 1) % 4 * 2 ^ 48 + (b.nbay - 1) % 64 * 2 ^ 40 + (b.bayn - 1) % 16 * 2 ^ 32 +
      b.stage % 16 * 2 ^ 20 + b.wing % 4 * 2 ^ 16 + b.bay % 64 * 2 ^ 8 + b.cib % 16)

/-- The allotment of a core's context on its cluster's engine (R255). -/
def allotOf (s : State) (c : Nat) : Allot :=
  fgetD (s.cluster (clusterOf c)).engine.allots (s.core c).ctx ⟨0, 0, 0, 0⟩

/-- TWIN (R256). -/
def twinWord (s : State) (c : Nat) : Word :=
  let a := allotOf s c
  let r := (s.core c).cregs
  BitVec.ofNat 64 (a.aln % 16 * 2 ^ 45 + a.alb % 8 * 2 ^ 42 + a.tln % 32 * 2 ^ 36 + a.tlb % 16 * 2 ^ 32 +
    r.acnt % 16 * 2 ^ 19 + r.abase % 8 * 2 ^ 16 + r.tcnt % 32 * 2 ^ 4 + r.tbase % 16)

/-- The value of a system register for carrel `i` of core `c` (R67, R396), all writes so far included. -/
def sysNow (s : State) (c i : Nat) (n : SysReg) : Word :=
  let k := s.core c
  let x := k.carrel i
  match n with
  | .status => statusWord k x i
  | .cause => x.cause.setWidth 64
  | .epc => x.epc.setWidth 64
  | .tval => x.tval
  | .tvec => (s.ctx k.ctx).tvec.setWidth 64
  | .deadmask => k.cregs.deadmask
  | .fpc => x.fpc.setWidth 64
  | .ltmo => k.cregs.ltmo
  | .btmo => k.cregs.btmo
  | .ctxid => BitVec.ofNat 64 ((s.ctx k.ctx).colour % 256 * 2 ^ 16 + k.ctx % 65536)
  | .coord => coordWord k
  | .epoch => s.hub.epoch.setWidth 64
  | .time => s.hub.time
  | .deferr => x.deferr
  | .twin => twinWord s c
  | .scpbase => k.cregs.scpbase
  | .caplist => s.hub.caplist
  | .rttw => 0

/-- The system registers that the carrels of a core share (R67): the context registers, and STATUS for POL. -/
def sysShared : SysReg → Bool
  | .status | .tvec | .deadmask | .ltmo | .btmo | .ctxid | .twin | .scpbase => true
  | .cause | .epc | .tval | .fpc | .coord | .epoch | .time | .deferr | .caplist | .rttw => false

/-- The value that a SYSR reads: the old one of a register that another carrel of the core has written in this cycle (R397). -/
def sysRead (s : State) (c i : Nat) (n : SysReg) : Word :=
  match fget (s.core c).sysOld n.code with
  | none => sysNow s c i n
  | some (j, old) =>
    if j = i then sysNow s c i n
    else if n = .status then statusWord { s.core c with pol := old.getLsbD 4 } ((s.core c).carrel i) i
    else old

def execSysr (d : Reg) (n : SysReg) (s : State) : Host.Outcome State Fault Refusal :=
  runWord (.sysr d n) { dc := some d } s fun s _ => .done (s.putData d (sysRead s s.cur.1 s.cur.2 n))

/-! ### Writing -/

/-- The DEADMASK bits that exist (R62). -/
def deadmaskBits : Word := 0x0FFFFFFF9FFFFC00
/-- The 40 bits of LTMO and BTMO (R202, R212), and those of SCPBASE (R172). -/
def limitBits : Word := 0x000000FFFFFFFFFF
def scpbaseBits : Word := 0x8000FFFFFFFFC000

/-- The state after carrel `i` of core `c` has written a register, `t` being the one in which the write is done: of the writes of
a shared register in one cycle, the lowest carrel's stands (R68, R397). -/
def sysNote (s : State) (c i : Nat) (n : SysReg) (t : State) : State :=
  if !(sysShared n) then t else
  let note := fun (w : Word) => t.modCore c fun k => { k with sysOld := fset k.sysOld n.code (i, w) }
  match fget (s.core c).sysOld n.code with
  | none => note (sysNow s c i n)
  | some (j, old) => if j < i then s else note old

/-- A register's writable fields take the matching bits (R396). -/
def sysPut (s : State) (c i : Nat) (n : SysReg) (w : Word) : State :=
  let cregs := fun (f : CtxRegs → CtxRegs) => s.modCore c fun k => k.setCregs (f k.cregs)
  let carrel := fun (f : Carrel → Carrel) => s.modCarrel c i f
  match n with
  | .status => s.modCore c fun k => { k with pol := w.getLsbD 4 }
  | .cause => carrel fun x => { x with cause := w.setWidth 12 }
  | .epc => carrel fun x => { x with epc := (w &&& 0x0000FFFFFFFFFFFC).setWidth 48 }
  | .tval => carrel fun x => { x with tval := w }
  | .tvec => s.setCtx (s.core c).ctx { s.ctx (s.core c).ctx with tvec := (w &&& 0x0000FFFFFFFFFFFC).setWidth 48 }
  | .deadmask => cregs fun r => { r with deadmask := w &&& deadmaskBits }
  | .fpc => carrel fun x => { x with fpc := w.setWidth 13 }
  | .ltmo => cregs fun r => { r with ltmo := w &&& limitBits }
  | .btmo => cregs fun r => { r with btmo := w &&& limitBits }
  | .ctxid =>
    let n := bitsAt w.toNat 0 16
    (s.setCtx n { s.ctx n with colour := bitsAt w.toNat 16 8 }).modCore c fun k => { k with ctx := n }
  | .deferr => carrel fun x => { x with deferr := w }
  | .twin => cregs fun r => { r with tbase := bitsAt w.toNat 0 4, tcnt := bitsAt w.toNat 4 5, abase := bitsAt w.toNat 16 3,
                                     acnt := bitsAt w.toNat 19 4 }
  | .scpbase =>
    let old := (s.core c).cregs.scpbase
    let new := w &&& scpbaseBits
    let t := cregs fun r => { r with scpbase := new }
    -- a change of BASE, or EN cleared, unsets entries 6 to 31 (R387)
    if bitsAt old.toNat 14 34 ≠ bitsAt new.toNat 14 34 || (old.getLsbD 63 && !(new.getLsbD 63)) then
      t.setCtx (t.core c).ctx { t.ctx (t.core c).ctx with scopeSet := [] }
    else t
  | .coord | .epoch | .time | .caplist | .rttw => s

/-- A write of a system register by carrel `i` of core `c`. -/
def sysWrite (s : State) (c i : Nat) (n : SysReg) (w : Word) : State := sysNote s c i n (sysPut s c i n w)

/-- A word whose effect replay does not undo (R281) waits until no earlier load can still stop the carrel before it
(R122). -/
def afterLoads (s : State) (k : WordRes) : WordRes := if s.me.settled then k else .stall

def execSysw (a : Reg) (n : SysReg) (s : State) : Host.Outcome State Fault Refusal :=
  runWord (.sysw a n) { cs := [a] } s fun s vs =>
    afterLoads s (.done (sysWrite s s.cur.1 s.cur.2 n (src vs 0).data))

def execSyswScpbase (a : Reg) (s : State) : Host.Outcome State Fault Refusal :=
  runWord (.syswScpbase a) { cs := [a] } s fun s vs =>
    afterLoads s (.done (sysWrite s s.cur.1 s.cur.2 .scpbase (src vs 0).data))

/-- The lowest tile or accumulator of a requested window that lies outside the allotment (R256). -/
def windowFault (a : Allot) (w : Nat) : Option Nat :=
  let out := fun (base n lo len : Nat) => ((List.range n).map (base + ·)).find? fun x => x < lo || lo + len ≤ x
  match out (bitsAt w 0 4) (bitsAt w 4 5) a.tlb a.tln with
  | some t => some t
  | none => out (bitsAt w 16 3) (bitsAt w 19 4) a.alb a.aln

def execSyswTwin (a : Reg) (s : State) : Host.Outcome State Fault Refusal :=
  runWord (.syswTwin a) { cs := [a] } s fun s vs =>
    let w := (src vs 0).data
    match windowFault (allotOf s s.cur.1) w.toNat with
    | some n => .trap 0x202 (BitVec.ofNat 64 n)
    | none => afterLoads s (.done (sysWrite s s.cur.1 s.cur.2 .twin w))

/-- SYSW RTTW (R113): the image is read as a load, and words 2 and 3 of the entry change in one write. -/
def execSyswRttw (a : Reg) (s : State) : Host.Outcome State Fault Refusal :=
  runWord (.syswRttw a) { cs := [a] } s fun s vs =>
    let cap := src vs 0
    let addr := capAddr cap.val
    let x : Word := BitVec.ofNat 64 addr
    match capCheck s s.cur.1 cap addr 32 (permR ||| permSYS) with
    | some c => .trap c x
    | none =>
      if !(spaceOf addr = 0 || (spaceOf addr = 1 && s.isOwnDev (devOf addr))) then .trap 0x085 x else
      readBuf 0 s addr 32 fun s bs =>
        let img := rtOfBytes (bs.map (·.1))
        let va : Word := BitVec.ofNat 64 (img.vgran * 4096)
        let k := s.myCtx
        match (List.range k.rtCount).find? fun j => (rtEntry s k j).vgran == img.vgran && (rtEntry s k j).len == img.len with
        | none => .trap 0x0C1 va
        | some j =>
          if (rtEntry s k j).kind ≠ 2 || img.kind ≠ 2 || !img.valid then .trap 0x0C3 va
          else if homeBusy s (k.rtBase + 32 * j + 16) 16 then .stall
          else afterLoads s (.done (coherentWrite s (k.rtBase + 32 * j + 16) ((bs.drop 16).map fun b => (b.1, false))))

/-! ### ERET -/

/-- ERET (R120, R126, R354). At an abortive cause it abandons the activation, and with it the other execution of a pair
(R286). -/
def execEret (s : State) : Host.Outcome State Fault Refusal :=
  runWord .eret {} s fun s _ =>
    let (c, i) := s.cur
    afterLoads s <|
      if causeIsAbortive s.me.cause then
        .exit (match (if s.me.pair then partner s c i else none) with
          | some (d, j) => abandon (abandon s c i) d j
          | none => abandon s c i)
      else
        .jump (s.modMe fun x => { x with lv := x.plv, st := if x.plv = 1 then .runtime else .running }) s.me.epc

/-! ### RTINV -/

/-- An entry of the context that RTINV names. -/
def rtinvHits (ctx va : Nat) (t : TlbEnt) : Bool := t.ctx == ctx && t.ent.holds (va % 2 ^ 48 / 4096)

/-- The cached entries that RTINV removes, from every core and cluster of the module (R114). -/
def rtinvEntries (s : State) (ctx va : Nat) : List RtEntry :=
  ((s.cores.flatMap fun (_, k) => k.tlb.filter (rtinvHits ctx va)) ++
   (s.clusters.flatMap fun (_, k) => k.rtc.filter (rtinvHits ctx va))).map (·.ent)

def rtinvRemove (s : State) (ctx va : Nat) : State :=
  { s with
    cores := s.cores.map fun (n, k) => (n, { k with tlb := k.tlb.filter fun t => !(rtinvHits ctx va t) }),
    clusters := s.clusters.map fun (n, k) => (n, { k with rtc := k.rtc.filter fun t => !(rtinvHits ctx va t) }) }

/-- A place lies in the physical range of one of the entries. -/
def inEntries (es : List RtEntry) (l : Loc) : Bool :=
  match l with
  | .mem pa => es.any fun e =>
      if e.kind = 1 then e.pgran % 2 ^ 26 ≤ pa % 2 ^ 38 / 4096 && pa % 2 ^ 38 / 4096 < e.pgran % 2 ^ 26 + e.len
      else e.pgran ≤ pa / 4096 && pa / 4096 < e.pgran + e.len
  | _ => false

/-- The accesses in flight on the module, as pairs of core and number: commit-queue entries and outstanding loads. -/
def inFlight (s : State) (ctx : Nat) (p : Loc → Bool) : List (Nat × Nat) :=
  s.cores.flatMap fun (n, k) =>
    if k.ctx ≠ ctx then [] else
    ((k.queue.filter fun e => (effLocs e.eff).any p).map fun e => (n, e.id)) ++
    (k.carrels.flatMap fun (_, c) => (c.loads.filter fun l => l.locs.any p).map fun l => (n, l.id))

/-- An access still in flight. -/
def stillOut (s : State) (x : Nat × Nat) : Bool :=
  let k := s.core x.1
  k.queue.any (·.id == x.2) || k.carrels.any fun (_, c) => c.loads.any (·.id == x.2)

/-- RTINV (R114, R383): the entries go at once; the carrel waits for the accesses made with them. -/
def execRtinv (a : Reg) (s : State) : Host.Outcome State Fault Refusal :=
  runWord (.rtinv a) { cs := [a] } s fun s vs =>
    let va := (src vs 0).data.toNat
    let ctx := s.myCore.ctx
    let end_ := fun (t : State) (ws : List (Nat × Nat)) =>
      let u := t.modMe fun c => { c with rtinv := ws }
      if ws.isEmpty then WordRes.done u else .hold u
    if !s.me.rtinv.isEmpty then end_ s (if s.me.rtinv.any (stillOut s) then s.me.rtinv else []) else
    afterLoads s <|
      let es := rtinvEntries s ctx va
      end_ (rtinvRemove s ctx va) (inFlight s ctx (inEntries es))

/-! ### IDLE and HALT -/

def execIdle (a : Reg) (s : State) : Host.Outcome State Fault Refusal :=
  runWord (.idle a) { cs := [a] } s fun s vs => .park s (.idle (bitsAt (src vs 0).data.toNat 0 40))

/-- HALT (R361): a hub interrupt that is pending for the control core is taken, else the carrel waits for one. -/
def execHalt (s : State) : Host.Outcome State Fault Refusal :=
  runWord .halt {} s fun s _ =>
    if s.hub.osIrq.contains (s.cur.1 - 4096) then .done (s.takeIrq s.cur.1) else .park s .halt

end Sys2Proof.Machine
end

