-- ==== Sys2Proof/Machine/Stream.lean ====
section
/-! DEFINITION. The stream words SBIND, SUNBIND and SSTAT (R197, R384). Fetching and conversion are events of their own
(Machine/EvStream.lean). -/

namespace Sys2Proof.Machine

/-- The register of a stream field (R197). -/
def streamReg (s : SReg) : Reg := BitVec.ofNat 6 (48 + s.toNat)

/-- The stream that a pattern record binds (R197). -/
def streamOf (base : TCap) (p : List TByte) : Stream :=
  let ext := [fieldAt p 0 4, fieldAt p 4 4, fieldAt p 8 4]
  let ctl := fieldAt p 12 4
  { base := base, extents := ext,
    strides := [signedOf 64 (fieldAt p 16 8), signedOf 64 (fieldAt p 24 8), signedOf 64 (fieldAt p 32 8)],
    size := 2 ^ bitsAt ctl 0 2, write := bitAt ctl 2, sign := bitAt ctl 3,
    total := ext.foldl (· * ·) 1 }

/-- The register is no stream any more: its prefetched elements and their loads are discarded. -/
def Carrel.unbind (c : Carrel) (r : Reg) : Carrel :=
  { c with streams := fdel c.streams r.toNat,
           loads := c.loads.filter fun l => match l.dest with
             | .stream q _ _ => q ≠ r
             | _ => true }

/-- SUNBIND waits until every appended element is in the outbox, and for a load that still has to write the register. -/
def unbindWaits (c : Carrel) (r : Reg) : Bool :=
  c.pendingReg r || ((c.stream r).map fun st => !st.buffer.isEmpty).getD false

def execSbind (q : SReg) (a b : Reg) (s : State) : Host.Outcome State Fault Refusal :=
  runWord (.sbind q a b) { cs := [a, b] } s fun s vs =>
    let r := streamReg q
    let cap := src vs 1
    let addr := capAddr cap.val
    if unbindWaits s.me r then .stall else
    if addr % 64 ≠ 0 then .trap 0x101 (BitVec.ofNat 64 addr) else
    match capCheck s s.cur.1 cap addr 64 permR with
    | some c => .trap c (BitVec.ofNat 64 addr)
    | none => readBuf 0 s addr 64 fun s p =>
      let st := streamOf (src vs 0) p
      if 2 ^ 32 ≤ st.total then .trap 0x102 (BitVec.ofNat 64 (st.total % 2 ^ 32)) else
      -- the elements that the word's own sources took are taken before the register is bound anew
      .exit ((popAll s [a, b]).modMe fun c =>
        { c.unbind r with streams := fset (c.unbind r).streams r.toNat st }).retire

def execSunbind (q : SReg) (s : State) : Host.Outcome State Fault Refusal :=
  runWord (.sunbind q) {} s fun s _ =>
    let r := streamReg q
    if unbindWaits s.me r then .stall else .done (s.modMe fun c => (c.unbind r).write r {})

/-- The status word of a stream (R197). -/
def streamStatus (st : Stream) : Word :=
  let used := if st.write then st.next else st.used
  let held := if st.write then st.buffer.length
    else (st.ready.filter fun e => match e with | .pending _ => false | _ => true).length
  BitVec.ofNat 64 (2 ^ 63 + st.write.toNat * 2 ^ 62 + (decide (st.total ≤ used)).toNat * 2 ^ 61 + held % 32 * 2 ^ 32 +
    (st.total - used) % 2 ^ 32)

def execSstat (d : Reg) (q : SReg) (s : State) : Host.Outcome State Fault Refusal :=
  runWord (.sstat d q) { dc := some d } s fun s _ =>
    .done (s.putData d (((s.me.stream (streamReg q)).map streamStatus).getD 0))

end Sys2Proof.Machine
end

