-- ==== Sys2Proof/Machine/Barrier.lean ====
section
/-! DEFINITION. Barrier objects (R198, R199) and the words BARM, BARB, BARR and BWAIT (R335 to R337). -/

namespace Sys2Proof.Machine

/-! ### The object at its core -/

/-- The cores of ScopeOf(id) relative to a core (R171, R199): a programmable scope's are those its slot names now; `none` for
an unset one. -/
def coreScope (s : State) (core id : Nat) : State × Option (List Nat) :=
  if id < 6 then (s, some (fixedScope s core id)) else
  let k := s.core core
  if !((s.ctx k.ctx).scopeSet.contains id) then (s, none) else
  let va := scopeSlot k.cregs.scpbase id
  match translate s core k.ctx va .read (core / 1024) with
  | (s, .fail _) => (s, none)
  | (s, .ok p _) => (s, some (bitmapCores ((coherentRead s (p * 4096 + va % 4096) 512).map (·.1.1))))

/-- The notices of one phase (R199): the object's image and its address, of KIND 2. `who` is the core whose arrival or count
completed the phase (R41). -/
def barNotices (s : State) (core region off who img : Nat) : State :=
  match coreScope s core (barScope img) with
  | (s, none) => s
  | (s, some cs) =>
    let words : List PWord := [.data (BitVec.ofNat 64 img), .data (BitVec.ofNat 64 (img / 2 ^ 64)),
      .data (BitVec.ofNat 64 (locAddr (.scr core region off)))]
    cs.foldl (fun s c => postMsg s core
      { dest := 0xFFF * 2 ^ 16 + c, tag := barTag img, score := who, body := .msg words 2 }) s

/-- A change of a region on the twin core of a pair, which follows the primary's (R283). -/
def onTwin (s : State) (core : Nat) (f : State → Nat → State) : State :=
  match (s.core core).twin with
  | some t => f s t
  | none => s

/-- An update of a barrier object at its core (R198, R337): the new value, then the notices of the phases it completed. `copy` makes the
update on the twin of a pair as well, on the twin's own object (R283); an update that the twin's own words make there is not copied, and
sends no notice, since the primary's does (R286). -/
def barUpdate (s : State) (core region off who : Nat) (copy : Bool) (f : Nat → Nat × List Nat) : State :=
  let put := fun (s : State) (c : Nat) => scrWrite s c region off (tbytes 16 (f (barObject s c region off)).1 false)
  let t := put s core
  let t := if copy then onTwin t core put else t
  if (s.core core).twinOf.isSome then t
  else (f (barObject s core region off)).2.foldl (fun s img => barNotices s core region off who img) t

/-- One arrival at an object that may be broken, which then stays as it is. -/
def barArriveAt (w : Nat) : Nat × List Nat := if barBroken w then (w, []) else barArrive w

/-- An arrival at the object (R336): the cause, 0 for none, and the generation. -/
def barArrival (s : State) (core region off who : Nat) (copy : Bool) : State × Nat × Nat :=
  let w := barObject s core region off
  if barBroken w then (s, 0x281, 0) else
  (barUpdate s core region off who copy barArriveAt, (if barBroken (barArrive w).1 then 0x282 else 0), barGen w)

/-- The object holds an uncorrectable error (R149, R278). -/
def barPoisoned (s : State) (core region off : Nat) : Bool :=
  (List.range 16).any fun j => ((baseNow s core .caches (.scr core region (off + j))).map (·.2)).getD false

/-! ### The words -/

/-- The checks of the barrier words in the order of R336, and where the object is: `bad` is the cause that the word's operand raises, after
the bounds of a local region and before the causes of another core's (R121). -/
def barChecks (s : State) (cap : TCap) (perm : Nat) (own : Bool) (bad : Option Nat) (k : State → Loc → Word → WordRes) : WordRes :=
  let addr := capAddr cap.val
  let x : Word := BitVec.ofNat 64 addr
  if addr % 16 ≠ 0 then .trap 0x101 x else
  match capCheck s s.cur.1 cap addr 16 perm with
  | some c => .trap c x
  | none =>
    if spaceOf addr ≠ 2 then .trap 0x0C3 x else
    if own && !(localScratch s s.cur.1 addr) then .trap 0x0C3 x else
    match places s s.cur.1 s.myCore.ctx addr 16 .rw, bad with
    | (t, .error (c, v)), none => .trapWith t c (BitVec.ofNat 64 v)
    | (t, .error (c, v)), some b => if localScratch s s.cur.1 addr then .trapWith t c (BitVec.ofNat 64 v) else .trap 0x102 (BitVec.ofNat 64 b)
    | (_, .ok _), some b => .trap 0x102 (BitVec.ofNat 64 b)
    | (t, .ok p), none => k t ((p.locs.head?).getD (.mem 0)) x

def permBar : Nat := permR ||| permW ||| permENG

def execBarm (a b : Reg) (s : State) : Host.Outcome State Fault Refusal :=
  runWord (.barm a b) { cs := [a, b] } s fun s vs =>
    let w := (src vs 1).data
    let bad := if bitsAt w.toNat 0 14 > 8191 then some (bitsAt w.toNat 0 14)
      else if bitsAt w.toNat 22 5 = 5 || bitsAt w.toNat 16 6 = 63 then some (bitsAt w.toNat 16 11) else none
    barChecks s (src vs 0) permBar false bad fun s l x =>
      putOut s [{ mkEntry s (.barm a b) (.barm x l w) x with release := some ⟨4, 4, []⟩ }]

def execBarb (a b : Reg) (s : State) : Host.Outcome State Fault Refusal :=
  runWord (.barb a b) { cs := [a, b] } s fun s vs =>
    barChecks s (src vs 0) permBar false none fun s l x =>
      putOut s [{ mkEntry s (.barb a b) (.barb x l (src vs 1).data) x with release := some ⟨4, 4, []⟩ }]

/-- The generation as a register value. -/
def genCap (g : Nat) : TCap := dataCap (BitVec.ofNat 64 (g % 16))

/-- BARR (R336). Its commit happens once; the carrel is then held until BARR_UPDATE has made the arrival, unless the object is
here and nothing precedes it. -/
def execBarr (d a : Reg) (s : State) : Host.Outcome State Fault Refusal :=
  runWord (.barr d a) { cs := [a], dc := some d } s fun s vs =>
    -- the address is the one of the issue: a later write of cA does not move it
    let x : Word := (s.me.barr.map (·.addr)).getD (BitVec.ofNat 64 (capAddr (src vs 0).val))
    let end_ := fun (t : State) (code g : Nat) =>
      let t := t.modMe fun c => { c with barr := none }
      if code = 0 then WordRes.done (t.put d (genCap g)) else .trapWith t code x
    match s.me.barr with
    | some b => match b.result with
      | some (0x381, _) => .done (s.modMe fun c => { c.markReg d ⟨x, false⟩ with barr := none })
      | some (0x382, _) => .done (s.modMe fun c => { c.markReg d ⟨x, true⟩ with barr := none })
      | some (code, g) => end_ s code g
      | none => .stall
    | none =>
      barChecks s (src vs 0) permBar false none fun s l x =>
        tryCommit s fun t =>
          let wait := t.myCore.queue.map (·.id)
          match l with
          | .scr c r o =>
            if c = t.cur.1 && wait.isEmpty then
              let t := healRegion t c r o 16
              if barPoisoned t c r o then .hold (consumeError t t.cur.1 t.cur.2 x)
              else
                let (u, code, g) := barArrival t c r o t.cur.1 false
                end_ u code g
            else .hold (t.modMe fun y => { y with barr := some ⟨x, d, wait, none, none⟩ })
          | _ => .hold (t.modMe fun y => { y with barr := some ⟨x, d, wait, none, none⟩ })

def execBwait (d a b : Reg) (s : State) : Host.Outcome State Fault Refusal :=
  runWord (.bwait d a b) { cs := [a, b], dc := some d } s fun s vs =>
    barChecks s (src vs 0) (permR ||| permENG) true none fun s l x =>
      match l with
      | .scr c r o =>
        let s := healRegion s c r o 16
        let w := barObject s c r o
        let g := bitsAt (src vs 1).data.toNat 0 4
        if barPoisoned s c r o then .consume x else
        if barBroken w then .trapWith s 0x281 x else
        if barGen w ≠ g then .done (s.put d (genCap (barGen w)))
        else .park s (.bwait { d := d, addr := x, gen := g })
      | _ => .trap 0x0C3 x

end Sys2Proof.Machine
end

