-- ==== Sys2Proof/Machine/CapOps.lean ====
section
/-! DEFINITION. The capability words CBND, CPERM, CINC, CGET, CTEST, CSETA and CINCI (R345 to R348). -/

namespace Sys2Proof.Machine

/-- The least granule exponent that encodes [b, t) exactly, of 0 to 24 (R346). -/
def granFor (b t : Nat) : Option Nat :=
  (List.range 25).find? fun g => 1 ≤ t - b && t - b ≤ (2 ^ 24 - 1) * 2 ^ g && b % 2 ^ g == 0 && t % 2 ^ g == 0

/-- CBND's result or its cause with TVAL (R346). -/
def cbnd (a : TCap) (len : Nat) : Except (Nat × Word) TCap :=
  let b := capAddr a.val
  let t := b + len
  let w : Word := BitVec.ofNat 64 b
  if !a.tag then .error (0x081, w) else
  if (b : Int) < (capBounds a.val).1 || ((t : Nat) : Int) > (capBounds a.val).2 then .error (0x082, w) else
  match granFor b t with
  | none => .error (0x084, w)
  | some g =>
    if t > 2 ^ 64 then .error (0x084, w)
    else .ok { val := mkCap (capPerms a.val) g 0 (len / 2 ^ g) b, tag := true }

/-- CPERM (R347): the mask on bits [127:117], every other bit and the tag as they are. -/
def cperm (a : TCap) (mask : Nat) : TCap :=
  { a with val := BitVec.ofNat 128 (putBits a.val.toNat 117 11 (capPerms a.val &&& mask % 2 ^ 11)) }

/-- The capability with a new address (R347, R105): re-encoded where it stays representable, else untagged with bits
[127:64] copied. -/
def cmove (a : TCap) (na : Word) : TCap :=
  let g := 2 ^ capG a.val
  let (base, top) := capBounds a.val
  let anchor : Int := (na.toNat - na.toNat % g : Nat)
  let moved := putBits a.val.toNat 0 64 na.toNat
  if a.tag && base ≤ anchor && anchor ≤ top then
    { val := BitVec.ofNat 128 (putBits (putBits moved 88 24 ((anchor - base) / g).toNat) 64 24 ((top - anchor) / g).toNat),
      tag := true }
  else { val := BitVec.ofNat 128 moved, tag := false }

/-- CGET (R348). -/
def cgetField (a : TCap) (f : CapField) : Word :=
  match f with
  | .addr => a.data
  | .base => BitVec.ofInt 64 (capBounds a.val).1
  | .top => BitVec.ofInt 64 (capBounds a.val).2
  | .perms => BitVec.ofNat 64 (capPerms a.val)
  | .tag => boolWord a.tag
  | .gran => BitVec.ofNat 64 (capG a.val)

/-- CTEST (R348). -/
def capWithin (a b : TCap) : Bool :=
  a.tag && b.tag && (capBounds a.val).1 ≤ (capBounds b.val).1 && (capBounds b.val).2 ≤ (capBounds a.val).2 &&
    hasPerms (capPerms a.val) (capPerms b.val)

/-- A word whose result is a register value from 128-bit sources. -/
def capWord (i : Instr) (d : Reg) (cs : List Reg) (s : State) (f : List TCap → TCap) : Host.Outcome State Fault Refusal :=
  runWord i { cs := cs, dc := some d } s fun s vs => .done (s.put d (f vs))

def execCbnd (d a b : Reg) (s : State) : Host.Outcome State Fault Refusal :=
  runWord (.cbnd d a b) { cs := [a, b], dc := some d } s fun s vs =>
    match cbnd (src vs 0) (src vs 1).data.toNat with
    | .error (c, v) => .trap c v
    | .ok r => .done (s.put d r)

def execCperm (d a b : Reg) (s : State) : Host.Outcome State Fault Refusal :=
  capWord (.cperm d a b) d [a, b] s fun vs => cperm (src vs 0) (src vs 1).data.toNat

def execCinc (d a b : Reg) (s : State) : Host.Outcome State Fault Refusal :=
  capWord (.cinc d a b) d [a, b] s fun vs => cmove (src vs 0) ((src vs 0).data + (src vs 1).data)

def execCseta (d a b : Reg) (s : State) : Host.Outcome State Fault Refusal :=
  capWord (.cseta d a b) d [a, b] s fun vs => cmove (src vs 0) (src vs 1).data

def execCinci (d a : Reg) (imm : BitVec 14) (s : State) : Host.Outcome State Fault Refusal :=
  capWord (.cinci d a imm) d [a] s fun vs => cmove (src vs 0) ((src vs 0).data + immOf s.me.hints imm)

def execCget (d a : Reg) (f : CapField) (s : State) : Host.Outcome State Fault Refusal :=
  capWord (.cget d a f) d [a] s fun vs => dataCap (cgetField (src vs 0) f)

def execCtest (d a b : Reg) (s : State) : Host.Outcome State Fault Refusal :=
  capWord (.ctest d a b) d [a, b] s fun vs => dataCap (boolWord (capWithin (src vs 0) (src vs 1)))

end Sys2Proof.Machine
end

