-- ==== Sys2Proof/Machine/Control.lean ====
section
/-! DEFINITION. Control flow (R84, R334, R338, R340 to R342), the end of an activation (R353), TRAP (R399), hint words
(R80 to R83, R362, R363) and words that are no instruction (R85). -/

namespace Sys2Proof.Machine

/-- The address `words` words from `pc`, in the 48-bit local address space (R334). -/
def branchTo (pc : Va) (words : Int) : Va := BitVec.ofInt 48 (pc.toNat + 4 * words)

/-- The displacement of BC and BM: Sext(disp10, 10), or Sext(p:disp10, 32) with a DISP hint (R80, R338). -/
def dispOf (hs : List Insn) (d : BitVec 10) : Int :=
  match hintsOf 4 hs with
  | p :: _ => signedOf 32 (p * 2 ^ 10 + d.toNat)
  | [] => signedOf 10 d.toNat

/-- The link: Zext(own address + 4, 64), of the unbounded sum (R7, R341). -/
def linkOf (pc : Va) : TCap := dataCap (BitVec.ofNat 64 (pc.toNat + 4))

/-- The registers that DEADMASK names (R62). -/
def deadRegs (mask : Word) : List Reg := ((List.range 64).filter mask.getLsbD).map (BitVec.ofNat 6 ·)

/-- Death of one register (R63, R123). A bound stream register is governed by the stream rules alone (R197). -/
def Carrel.kill (c : Carrel) (r : Reg) : Carrel :=
  if (c.stream r).isSome then c
  else { c with regs := fset c.regs r.toNat { c.creg r with dead := true, err := none } }

/-- The dead marking of CALL, CALLR and RET (R63). -/
def Carrel.killAll (c : Carrel) (rs : List Reg) : Carrel := rs.foldl Carrel.kill c

/-- A load that is still to write a register which the word kills is waited for. -/
def killWaits (s : State) : Bool := (deadRegs s.myCore.cregs.deadmask).any s.me.pendingReg

/-- The dead marking as the executing word makes it. -/
def killMe (s : State) : State := s.modMe fun c => c.killAll (deadRegs s.myCore.cregs.deadmask)

/-- A jump to a register's target (R342): the link, if any, before the dead marking, if any. -/
def jumpTo (s : State) (t : Word) (link dead : Bool) : WordRes :=
  if t.toNat % 4 ≠ 0 then .trap 0x101 t else
  if t.toNat / 2 ^ 48 ≠ 0 then .trap 0x0C1 t else
  if dead && killWaits s then .stall else
  let s1 := if link then s.put 30 (linkOf s.me.pc) else s
  let s2 := if dead then killMe s1 else s1
  .jump s2 (t.setWidth 48)

/-- The mask conditions on x = mA AND mB (R78). -/
def maskCond (c : MaskCond) (x b : Word) : Bool :=
  match c with
  | .none => x == 0
  | .any => x != 0
  | .all => x == b
  | .nall => x != b

def execB (d : BitVec 26) (s : State) : Host.Outcome State Fault Refusal :=
  runWord (.b d) {} s fun s _ => .jump s (branchTo s.me.pc (signedOf 26 d.toNat))

def execBc (c : Cond) (a b : Reg) (d : BitVec 10) (s : State) : Host.Outcome State Fault Refusal :=
  runWord (.bc c a b d) { cs := [a, b] } s fun s vs =>
    if condHolds c 64 (src vs 0).data.toNat (src vs 1).data.toNat then .jump s (branchTo s.me.pc (dispOf s.me.hints d))
    else .done s

def execBm (c : MaskCond) (a b : MReg) (d : BitVec 10) (s : State) : Host.Outcome State Fault Refusal :=
  runWord (.bm c a b d) { ms := [a, b] } s fun s _ =>
    if maskCond c (s.me.mask a &&& s.me.mask b) (s.me.mask b) then .jump s (branchTo s.me.pc (dispOf s.me.hints d)) else .done s

def execCall (d : BitVec 26) (s : State) : Host.Outcome State Fault Refusal :=
  runWord (.call d) { dc := some 30 } s fun s _ =>
    if killWaits s then .stall
    else .jump (killMe (s.put 30 (linkOf s.me.pc))) (branchTo s.me.pc (signedOf 26 d.toNat))

def execJr (a : Reg) (s : State) : Host.Outcome State Fault Refusal :=
  runWord (.jr a) { cs := [a] } s fun s vs => jumpTo s (src vs 0).data false false

def execCallr (a : Reg) (s : State) : Host.Outcome State Fault Refusal :=
  runWord (.callr a) { cs := [a], dc := some 30 } s fun s vs => jumpTo s (src vs 0).data true true

def execRet (s : State) : Host.Outcome State Fault Refusal :=
  runWord .ret { cs := [30] } s fun s vs => jumpTo s (src vs 0).data false true

/-- END (R353): the carrel is Ending and issues no more; its bindings go once nothing waits in them; the hand-off is OUTBOX_HANDOFF. It stays at the END, which is the
word of a pair mismatch (R286). At level 1 the word is illegal (R85). -/
def execEnd (s : State) : Host.Outcome State Fault Refusal :=
  runWord .end_ {} s fun s _ => .exit (s.modMe fun c => ({ c with st := .ending, yield := c.completed.yield } : Carrel).ended)

/-- TRAP (R129, R399). -/
def execTrap (c : BitVec 12) (s : State) : Host.Outcome State Fault Refusal :=
  runWord (.trap c) {} s fun _ _ => .trap (0x340 + c.toNat % 64) (c.setWidth 64)

/-! ### Hint words (R82, R83, R362, R363) -/

/-- A hint word: the third of a group traps, else it joins the group. -/
def hintWord (i : Instr) (s : State) : Host.Outcome State Fault Refusal :=
  if !s.me.issues then .next s else
  if s.me.hints.length = 2 then raise s (trapMe s 0x044 ((encode i).setWidth 64)) else
  .next (s.modMe fun c => { c with hints := c.hints ++ [encode i], pc := c.pc + 4 })

def execHintImm (p : BitVec 22) (s : State) : Host.Outcome State Fault Refusal := hintWord (.hintImm p) s
def execHintScope (i : BitVec 5) (s : State) : Host.Outcome State Fault Refusal := hintWord (.hintScope i) s
def execHintYield (n : BitVec 16) (s : State) : Host.Outcome State Fault Refusal := hintWord (.hintYield n) s
def execHintCache (p : CachePol) (s : State) : Host.Outcome State Fault Refusal := hintWord (.hintCache p) s
def execHintDisp (p : BitVec 22) (s : State) : Host.Outcome State Fault Refusal := hintWord (.hintDisp p) s
def execHintPrio (s : State) : Host.Outcome State Fault Refusal := hintWord .hintPrio s
def execHintNop (s : State) : Host.Outcome State Fault Refusal := hintWord .hintNop s

/-- A word that is neither an instruction nor a hint raises 0x041 with the word itself as TVAL (R85). -/
def execIllegalInstruction (w : Insn) (s : State) : Host.Outcome State Fault Refusal :=
  if !s.me.issues then .next s else raise s (trapMe s 0x041 (w.setWidth 64))

end Sys2Proof.Machine
end

