-- ==== Sys2Proof/Machine/Crc.lean ====
section
/-! DEFINITION. CRC-64 as ECMA-182 defines it (R285): polynomial 0x42F0E1EBA9EA3693, initial value 0, no reflection, no final
inversion. It guards link flits (R306) and is the outbox hash of paired dispatch. -/

namespace Sys2Proof.Machine

/-- One bit of the register shifts out at the top. -/
def crcBit (c : Nat) : Nat :=
  if 2 ^ 63 ≤ c then (c * 2 % 2 ^ 64) ^^^ 0x42F0E1EBA9EA3693 else c * 2

/-- One byte enters at the top. -/
def crcByte (c : Nat) (b : Byte) : Nat := crcBit (crcBit (crcBit (crcBit (crcBit (crcBit (crcBit (crcBit (c ^^^ (b.toNat * 2 ^ 56)))))))))

/-- The CRC of bytes in ascending order. -/
def crc64 (bs : List Byte) : Nat := bs.foldl crcByte 0

end Sys2Proof.Machine
end

