-- ==== Sys2Proof/Machine/Matrix.lean ====
section
/-! DEFINITION. The words of the matrix group (R259 to R265, R372, R373): TDSET, TDGET, MMA, MACZ and MACST, with tile
descriptors (R257, R258) and status words (R261). The engine itself is in Machine/EvEngine.lean. -/

namespace Sys2Proof.Machine

/-! ### Windows (R66, R256) -/

/-- The engine tile of a tile number, if the window holds it. -/
def winTile (r : CtxRegs) (n : Nat) : Option Nat := if n < r.tcnt then some (r.tbase + n) else none
/-- The engine accumulator of an accumulator number. -/
def winAcc (r : CtxRegs) (n : Nat) : Option Nat := if n < r.acnt then some (r.abase + n) else none

/-! ### Descriptors (R257, R258) -/

def tdFmt (w : Nat) : Nat := bitsAt w 0 4
def tdRows (w : Nat) : Nat := bitsAt w 8 7 + 1
def tdCols (w : Nat) : Nat := bitsAt w 16 7 + 1
def tdSwz (w : Nat) : Nat := bitsAt w 24 4
def tdScale (w : Nat) : Nat := bitsAt w 28 2

/-- The element bytes of a format code. -/
def tdBytes (fmt : Nat) : Nat :=
  match fmt with
  | 1 | 2 => 1
  | 3 => 2
  | 4 => 4
  | _ => 8

/-- A legal descriptor (R258); its reserved bits are checked too (R6). -/
def tdLegal (fp64 : Bool) (w : Nat) : Bool :=
  w == 0 ||
  (bitsAt w 4 4 == 0 && bitsAt w 15 1 == 0 && bitsAt w 23 1 == 0 && bitsAt w 30 34 == 0 &&
   match tdFmt w, tdRows w, tdCols w, tdScale w with
   | 1, 128, 128, s => s < 3
   | 2, 128, 128, 0 => true
   | 3, 128, 64, 0 | 3, 64, 128, 0 => true
   | 4, 64, 64, 0 => true
   | 5, 32, 64, 0 | 5, 64, 32, 0 => fp64
   | _, _, _, _ => false)

/-- The pairing of an MMA (R262 check 2, R266). -/
def tdPair (fp64 : Bool) (a b : Nat) : Bool :=
  tdFmt a == tdFmt b &&
  match tdFmt a, tdRows a, tdCols a, tdRows b, tdCols b with
  | 1, 128, 128, 128, 128 => tdScale a ≤ 1 && (tdScale b == 0 || tdScale b == 2)
  | 2, 128, 128, 128, 128 => true
  | 3, 128, 64, 64, 128 => true
  | 4, 64, 64, 64, 64 => true
  | 5, 32, 64, 64, 32 => fp64
  | _, _, _, _, _ => false

/-! ### The engine as a word sees it -/

def State.engine (s : State) (k : Nat) : Engine := (s.cluster k).engine
def State.modEngine (s : State) (k : Nat) (f : Engine → Engine) : State :=
  s.modCluster k fun c => { c with engine := f c.engine }
def Engine.tile (e : Engine) (t : Nat) : Tile := fgetD e.tiles t {}
def Engine.acc (e : Engine) (a : Nat) : Acc := fgetD e.accs a {}

def accCode : AccKind → Nat
  | .f32 => 0
  | .i32 => 1
  | .f32s => 2
  | .f64 => 3

/-- The accumulator of a command, and the tiles it names as operands. -/
def EngOp.accOf : EngOp → Nat
  | .mma m => m.acc
  | .macz a _ => a
  | .macst m => m.acc
def EngOp.tiles : EngOp → List Nat
  | .mma m => [m.a, m.b]
  | _ => []

/-- The commands queued, running and away (R261). -/
def Engine.present (e : Engine) : List EngCmd := e.queue ++ e.running.toList
def Engine.useTile (e : Engine) (t : Nat) : Nat := (e.present.filter fun c => c.op.tiles.contains t).length
def Engine.useAcc (e : Engine) (a : Nat) : Nat := ((e.present ++ e.away).filter fun c => c.op.accOf == a).length

/-- The engine tiles that a siphon command writes. -/
def ChanCmd.tiles : ChanCmd → List Nat
  | .siph c => c.tile.toList
  | .gath c => [c.ta, c.tb]

/-- An accepted siphon command of the cluster writes the tile and has neither performed all its writes nor faulted (R261,
R271). -/
def tileFilling (s : State) (k t : Nat) : Bool :=
  (coresOf k).any fun c => (s.core c).chans.any fun (_, ch) =>
    !ch.written && !ch.flt && ((ch.cmd.map ChanCmd.tiles).getD []).contains t

/-- The tile status word (R261). -/
def tileStatus (s : State) (k t : Nat) : Word :=
  let e := s.engine k
  let x := e.tile t
  BitVec.ofNat 64 (e.useTile t % 128 * 2 ^ 16 + (tileFilling s k t).toNat * 2 ^ 5 + x.poison.toNat * 2 ^ 4 + x.swz % 16)

/-- The accumulator status word (R261). -/
def accStatus (s : State) (k a : Nat) : Word :=
  let e := s.engine k
  let x := e.acc a
  BitVec.ofNat 64 (e.useAcc a % 128 * 2 ^ 16 + (e.away.any fun c => c.op.accOf == a).toNat * 2 ^ 7 + x.poison.toNat * 2 ^ 6 +
    x.nsat.toNat * 2 ^ 5 + x.asat.toNat * 2 ^ 4 + x.aiv.toNat * 2 ^ 3 + x.aov.toNat * 2 ^ 2 + accCode x.kind)

/-! ### TDSET and TDGET (R260) -/

/-- The cluster of the executing core. -/
def myCluster (s : State) : Nat := clusterOf s.cur.1

def execTdset (t : BitVec 4) (a : Reg) (s : State) : Host.Outcome State Fault Refusal :=
  runWord (.tdset t a) { cs := [a] } s fun s vs =>
    let n := t.toNat
    let cap := src vs 0
    let addr := capAddr cap.val
    let x : Word := BitVec.ofNat 64 addr
    match winTile s.myCore.cregs n with
    | none => .trap 0x202 (BitVec.ofNat 64 n)
    | some _ =>
      if addr % 16 ≠ 0 then .trap 0x101 x else
      match capCheck s s.cur.1 cap addr 16 permR with
      | some c => .trap c x
      | none =>
        if spaceOf addr = 3 then .trap 0x085 x else
        readBuf 1 s addr 16 fun s bs =>
          if fieldAt bs 8 8 ≠ 0 || !(tdLegal (s.hasFeature 1) (fieldAt bs 0 8)) then .trap 0x203 (BitVec.ofNat 64 n)
          else afterLoads s (.done (s.modMyCore fun k =>
            k.setCregs { k.cregs with td := fset k.cregs.td n (BitVec.ofNat 64 (fieldAt bs 0 8)) }))

def execTdget (d : Reg) (t : BitVec 4) (s : State) : Host.Outcome State Fault Refusal :=
  runWord (.tdget d t) { dc := some d } s fun s _ =>
    match winTile s.myCore.cregs t.toNat with
    | none => .trap 0x202 (BitVec.ofNat 64 t.toNat)
    | some _ => .done (s.putData d (fgetD s.myCore.cregs.td t.toNat 0))

def execTdgetSt (d : Reg) (t : BitVec 4) (s : State) : Host.Outcome State Fault Refusal :=
  runWord (.tdgetSt d t) { dc := some d } s fun s _ =>
    match winTile s.myCore.cregs t.toNat with
    | none => .trap 0x202 (BitVec.ofNat 64 t.toNat)
    | some e => .done (s.putData d (tileStatus s (myCluster s) e))

def execTdgetAcc (d : Reg) (t : BitVec 3) (s : State) : Host.Outcome State Fault Refusal :=
  runWord (.tdgetAcc d t) { dc := some d } s fun s _ =>
    match winAcc s.myCore.cregs t.toNat with
    | none => .trap 0x202 (BitVec.ofNat 64 t.toNat)
    | some e => .done (s.putData d (accStatus s (myCluster s) e))

/-! ### MMA, MACZ and MACST -/

/-- The stall of an MMA on fills of its tiles by the issuing core (R190, R191, R259). -/
def tileStall (s : State) (core : Nat) (ts : List Nat) : StallRes :=
  let k := s.core core
  let names := fun (o : Option ChanCmd) => match o with
    | some c => c.tiles.any ts.contains
    | none => false
  match k.chans.find? fun (_, ch) => ch.flt && names ch.last with
  | some (_, ch) => .fault ch.faultAddr
  | none =>
    if (k.chans.any fun (_, ch) => !ch.written && names ch.cmd) || k.queue.any fun e => match e.eff with
        | .siph _ c => names (some (.siph c))
        | .sgath _ c => names (some (.gath c))
        | _ => false
    then .stall else .go

/-- The checks of R262 in order, on a window and descriptors: the command, or the cause with the number at fault. -/
def mmaChecks (s : State) (k : Nat) (r : CtxRegs) (tda tdb : Word) (a b acc : Nat) (mig follow : Bool) :
    Except (Nat × Nat) MmaCmd :=
  match winTile r a, winTile r b, winAcc r acc with
  | none, _, _ => .error (0x202, a)
  | _, none, _ => .error (0x202, b)
  | _, _, none => .error (0x202, acc)
  | some ea, some eb, some ec =>
    if !(tdPair (s.hasFeature 1) tda.toNat tdb.toNat) then .error (0x203, a) else
    if ((s.engine k).tile ea).swz ≠ tdSwz tda.toNat then .error (0x201, a) else
    if ((s.engine k).tile eb).swz ≠ tdSwz tdb.toNat then .error (0x201, b) else
    .ok { a := ea, b := eb, acc := ec, tda := tda, tdb := tdb, mig := mig, na := a, nb := b, nacc := acc, follow := follow }

/-- An engine command as an outbox entry: a release at device scope (R166). -/
def engineEntry (s : State) (i : Instr) (op : EngOp) (addr : Word) : WordRes :=
  putOut s [{ mkEntry s i (.engine op) addr with release := some ⟨4, 4, []⟩ }]

def execMma (c : BitVec 3) (a b : BitVec 4) (i : Bool) (s : State) : Host.Outcome State Fault Refusal :=
  runWord (.mma c a b i) {} s fun s _ =>
    let r := s.myCore.cregs
    let tiles := (winTile r a.toNat).toList ++ (winTile r b.toNat).toList
    match tileStall s s.cur.1 tiles with
    | .fault x => .trap 0x1C4 x
    | .stall => .stall
    | .go =>
      match mmaChecks s (myCluster s) r (fgetD r.td a.toNat 0) (fgetD r.td b.toNat 0) a.toNat b.toNat c.toNat i false with
      | .error (cause, n) => .trap cause (BitVec.ofNat 64 n)
      | .ok m =>
        putOutWhen s (fun t => tileStall t t.cur.1 tiles = .go)
          { mkEntry s (.mma c a b i) (.engine (.mma m)) 0 with release := some ⟨4, 4, []⟩ }

def execMacz (c : BitVec 3) (k : AccKind) (s : State) : Host.Outcome State Fault Refusal :=
  runWord (.macz c k) {} s fun s _ =>
    match winAcc s.myCore.cregs c.toNat with
    | none => .trap 0x202 (BitVec.ofNat 64 c.toNat)
    | some e =>
      if k == .f64 && !(s.hasFeature 1) then .trap 0x203 (BitVec.ofNat 64 c.toNat)
      else engineEntry s (.macz c k) (.macz e k) 0

/-- The shape of an accumulator kind: rows and columns, which are equal (R254). -/
def accSide : AccKind → Nat
  | .f32 | .i32 => 128
  | .f32s => 64
  | .f64 => 32

/-- The bytes of one element as MACST writes it (R265). -/
def macstBytes (k : AccKind) (fmto : Nat) : Nat :=
  match fmto with
  | 1 => 2
  | 2 => 1
  | _ => if k == .f64 then 8 else 4

/-- CapCheck without its bounds: tag, permission, space (R186, R265). -/
def capNoBounds (s : State) (core : Nat) (c : TCap) (addr perm : Nat) : Option Nat :=
  if !c.tag then some 0x081 else
  let sp := spaceOf addr
  let need := perm ||| (if sp = 1 || (sp = 2 && !(localScratch s core addr)) then permREM else 0)
    ||| (if sp = 3 then permHOST else 0)
  if !(hasPerms (capPerms c.val) need) then some 0x083 else
  if sp ≥ 4 || (sp = 0 && devOf addr ≠ 0) then some 0x085 else none

/-- A corner of a 72-bit extent lies in the address space and in the bounds of the capability. -/
def cornerOk (c : Cap) (x : Int) : Bool :=
  0 ≤ x && x < (2 ^ 64 : Nat) && (capBounds c).1 ≤ x && x < (capBounds c).2

/-- The checks of MACST in order (R265, R373): the cause with its TVAL. -/
def macstFault (s : State) (acc : Nat) (kind : AccKind) (cap : TCap) (ctl : Nat) : Option (Nat × Word) :=
  let fmto := bitsAt ctl 32 2
  let n := BitVec.ofNat 64 acc
  let addr := capAddr cap.val
  let x : Word := BitVec.ofNat 64 addr
  let stride := signedOf 32 ctl
  let z := macstBytes kind fmto
  let r : Int := accSide kind
  if bitsAt ctl 53 11 ≠ 0 || fmto = 3 || (fmto ≠ 0 && (kind == .i32 || kind == .f64)) then some (0x203, n) else
  if addr % z ≠ 0 || stride % (z : Int) ≠ 0 then some (0x101, x) else
  match capNoBounds s s.cur.1 cap addr permW with
  | some c => some (c, x)
  | none =>
    if !(spaceOf addr = 0 || (spaceOf addr = 1 && s.isOwnDev (devOf addr))) then some (0x085, x) else
    let lo : Int := addr + min 0 ((r - 1) * stride)
    let hi : Int := addr + max 0 ((r - 1) * stride) + r * z - 1
    if !(cornerOk cap.val lo) then some (0x082, BitVec.ofInt 64 lo) else
    if !(cornerOk cap.val hi) then some (0x082, BitVec.ofInt 64 hi) else
    if bitAt ctl 35 && 16 * bitsAt ctl 40 12 + 16 > s.regionSize s.cur.1 (bitsAt ctl 36 4) then
      some (0x102, BitVec.ofNat 64 (bitsAt ctl 40 12))
    else none

def execMacst (c : BitVec 3) (a b : Reg) (k : AccKind) (s : State) : Host.Outcome State Fault Refusal :=
  runWord (.macst c a b k) { cs := [a, b] } s fun s vs =>
    let ctl := (src vs 1).data
    match winAcc s.myCore.cregs c.toNat with
    | none => .trap 0x202 (BitVec.ofNat 64 c.toNat)
    | some e =>
      match macstFault s c.toNat k (src vs 0) ctl.toNat with
      | some (cause, v) => .trap cause v
      | none => engineEntry s (.macst c a b k)
          (.macst { acc := e, nacc := c.toNat, kind := k, dst := src vs 0, ctl := ctl, next := 0 }) (src vs 0).data

end Sys2Proof.Machine
end

