-- ==== Sys2Proof/Machine/Siphon.lean ====
section
/-! DEFINITION. The siphon words SIPH, SGATH, SCFG and SWMR (R181 to R186, R192 to R196, R385, R386) with the geometry of a
command. Acceptance, the walk and faults are in Machine/EvSiphon.lean. -/

namespace Sys2Proof.Machine

/-! ### The control word (R183) -/

def ctlEsz (w : Nat) : Nat := bitsAt w 0 3
def ctlSize (w : Nat) : Nat := 2 ^ ctlEsz w
def ctlAlias (w : Nat) : Bool := bitAt w 3
def ctlDtile (w : Nat) : Bool := bitAt w 4
def ctlZ8s (w : Nat) : Nat := bitsAt w 5 2
def ctlPerm (w : Nat) : Nat := bitsAt w 7 7
def ctlPad (w : Nat) : Byte := BitVec.ofNat 8 (bitsAt w 14 8)
def ctlBarv (w : Nat) : Bool := bitAt w 22
def ctlBarreg (w : Nat) : Nat := bitsAt w 23 4
def ctlBaroff (w : Nat) : Nat := bitsAt w 27 12 * 16
def ctlSwz (w : Nat) : Nat := bitsAt w 39 4
def ctlDtn (w : Nat) : Nat := bitsAt w 43 4
def ctlFv (w : Nat) : Bool := bitAt w 47
def ctlBardir (w : Nat) : Bool := bitAt w 60

/-- The permutation of an index (R184). -/
def permOf : Nat → List Nat → Nat → List Nat
  | 0, _, _ => []
  | n + 1, rest, q =>
    let f := Nat.factorial n
    rest.getD (q / f) 0 :: permOf n (rest.eraseIdx (q / f)) (q % f)

/-- perm[0..4]. -/
def ctlPerms (w : Nat) : List Nat := permOf 5 [0, 1, 2, 3, 4] (ctlPerm w)

/-! ### Geometry (R185) -/

/-- The five values of a width in a descriptor. -/
def descNats (d : List TByte) (off : Nat) : List Nat := (List.range 5).map fun j => fieldAt d (off + 4 * j) 4
def descInts (d : List TByte) (off bytes : Nat) : List Int :=
  (List.range 5).map fun j => signedOf (8 * bytes) (fieldAt d (off + bytes * j) bytes)

/-- The index vector of element `n` in walk order, dimension 0 fastest. -/
def indexOf : Nat → List Nat → List Nat
  | _, [] => []
  | n, e :: es => n % e :: indexOf (n / e) es

/-- The sum of products. -/
def dot (xs ys : List Int) : Int := ((xs.zip ys).map fun (a, b) => a * b).sum

/-- The count of elements. -/
def SiphCmd.count (c : SiphCmd) : Nat := c.ext.foldl (· * ·) 1

/-- The source coordinates of an index vector by source dimension, with the extent that bounds each (R185). -/
def srcCoords (ext : List Nat) (start : List Int) (perm : List Nat) (ix : List Nat) : List (Int × Nat) :=
  (List.range 5).map fun k =>
    let j := (perm.findIdx? (· == k)).getD 0
    (start.getD k 0 + ((ix.getD j 0 : Nat) : Int), ext.getD j 0)

/-- The source address of element `n`, none for a padded one. -/
def SiphCmd.srcOf (c : SiphCmd) (n : Nat) : Option Int :=
  let xs := srcCoords c.ext c.start (ctlPerms c.ctl.toNat) (indexOf n c.ext)
  if xs.all fun (x, e) => 0 ≤ x && x < e then some ((capAddr c.src.val : Int) + dot (xs.map (·.1)) c.sstr) else none

/-- The destination of element `n`: an address, or a byte offset of the tile. -/
def SiphCmd.dstOf (c : SiphCmd) (n : Nat) : Int :=
  (if c.tile.isSome then 0 else (capAddr c.dst.val : Int)) + dot ((indexOf n c.ext).map fun (i : Nat) => (i : Int)) c.dstr

/-- The least and greatest sum over a box of coordinates. -/
def boxMin (b : List (Int × Int × Int)) : Int := (b.map fun (lo, hi, s) => min (lo * s) (hi * s)).sum
def boxMax (b : List (Int × Int × Int)) : Int := (b.map fun (lo, hi, s) => max (lo * s) (hi * s)).sum

/-- The corners of the destination side, first and last byte (R186 step 4); none for an empty command. -/
def SiphCmd.dstCorners (c : SiphCmd) : Option (Int × Int) :=
  if c.count = 0 then none else
  let b := (c.ext.zip c.dstr).map fun (e, s) => ((0 : Int), (e : Int) - 1, s)
  let base : Int := if c.tile.isSome then 0 else capAddr c.dst.val
  some (base + boxMin b, base + boxMax b + ctlSize c.ctl.toNat - 1)

/-- The corners of the source side (R186 step 4), the scale bytes of R192 included; none where no element is unpadded. -/
def SiphCmd.srcCorners (c : SiphCmd) : Option (Int × Int) :=
  let perm := ctlPerms c.ctl.toNat
  let b := (List.range 5).map fun k =>
    let e : Int := (c.ext.getD ((perm.findIdx? (· == k)).getD 0) 0 : Nat)
    let st := c.start.getD k 0
    (max 0 st, min e (st + e) - 1, c.sstr.getD k 0)
  if c.count = 0 || b.any fun (lo, hi, _) => hi < lo then none else
  let base : Int := capAddr c.src.val
  let lo := base + boxMin b
  let hi := base + boxMax b + ctlSize c.ctl.toNat - 1
  let rows : Int := (((c.ext.getD 1 0 : Nat) : Int) - 1) * c.sstr.getD 1 0
  match ctlZ8s c.ctl.toNat with
  | 1 => some (min lo (base + min 0 rows + 128), max hi (base + max 0 rows + 131))
  | 2 => some (lo, max hi (base + 16387))
  | _ => some (lo, hi)

/-- The Z8S shape rule (R192). -/
def z8Legal (c : SiphCmd) : Bool :=
  let w := c.ctl.toNat
  ctlZ8s w == 0 ||
  (ctlEsz w == 0 && c.ext.getD 0 0 == 128 && 1 ≤ c.ext.getD 1 0 && c.ext.getD 1 0 ≤ 128 && c.ext.drop 2 == [1, 1, 1] &&
   ctlPerm w == 0 && c.sstr.getD 0 0 == 1 && c.dstr.getD 0 0 == 1 && c.dstr.getD 1 0 == 128 && c.start.all (· == 0) &&
   (ctlZ8s w == 1 || (c.ext.getD 1 0 == 128 && c.sstr.getD 1 0 == 128)))

/-- The core whose scratchpad holds the counted barrier, as a space-2 address of its region 0 base (R201): the destination's
where BARDIR = 0 and the destination is a space-2 address, else the issuing core's; `none` for the latter. -/
def SiphCmd.barHome (c : SiphCmd) : Option Nat :=
  if ctlBardir c.ctl.toNat || c.tile.isSome || spaceOf (capAddr c.dst.val) ≠ 2 then none
  else some (capAddr c.dst.val)

/-- The counted barrier lies on the issuing core. -/
def barIsLocal (s : State) (core : Nat) (c : SiphCmd) : Bool :=
  match c.barHome with
  | none => true
  | some a => localScratch s core a

/-- Walk order is ascending in address (R188). -/
def SiphCmd.ascending (c : SiphCmd) : Bool :=
  (ctlSize c.ctl.toNat : Int) ≤ c.dstr.getD 0 0 &&
  ((List.range 4).all fun j =>
    c.ext.getD (j + 1) 0 ≤ 1 || c.dstr.getD j 0 * ((c.ext.getD j 0 : Nat) : Int) ≤ c.dstr.getD (j + 1) 0)

/-! ### SIPH (R186) -/

/-- A command from its descriptor, before its checks. -/
def siphOfDesc (d : List TByte) (src dst : TCap) (desc : Word) : SiphCmd :=
  let ctl := fieldAt d 0x78 8
  let ext := descNats d 0
  { ext := ext, start := descInts d 0x14 4, sstr := descInts d 0x28 8, dstr := descInts d 0x50 8,
    ctl := BitVec.ofNat 64 ctl, src := src, dst := dst, desc := desc, dlo := 0, span := 0,
    tot := ctlSize ctl * ext.foldl (· * ·) 1, tile := none, follow := none, node := none }

/-- The follow-on MMA of a command, with the copies it takes at issue (R273). -/
def followOf (s : State) (core fa fb facc : Nat) (mig : Bool) : Follow :=
  let r := (s.core core).cregs
  { fa := fa, fb := fb, facc := facc, mig := mig, twin := twinWord s core, tda := fgetD r.td fa 0, tdb := fgetD r.td fb 0 }

/-- The checks of one side (R186 step 5): tag, permission, corners against the bounds, space. -/
def sideFault (s : State) (core : Nat) (c : TCap) (perm : Nat) (corners : Option (Int × Int)) (desc : Word) :
    Option (Nat × Word) :=
  let addr := capAddr c.val
  let x : Word := BitVec.ofNat 64 addr
  match capNoBounds s core c addr perm with
  | some 0x085 => match corners with
    | some (lo, hi) => if (cornerOk c.val lo) && (cornerOk c.val hi) then some (0x085, x) else some (0x1C3, desc)
    | none => some (0x085, x)
  | some cause => some (cause, x)
  | none => match corners with
    | some (lo, hi) => if (cornerOk c.val lo) && (cornerOk c.val hi) then none else some (0x1C3, desc)
    | none => none

/-- The sums leave [0, 2^64) (R186 step 4). -/
def cornersOverflow (o : Option (Int × Int)) : Bool :=
  match o with
  | none => false
  | some (lo, hi) => lo < 0 || ((2 ^ 64 : Nat) : Int) ≤ hi

/-- The checks of R186 steps 2 to 5 for core `core`: the complete command, or the cause with its TVAL. `b0` says that the
destination register field is zero. -/
def siphBuild (s : State) (core : Nat) (c : SiphCmd) (b0 : Bool) : Except (Nat × Word) SiphCmd :=
  let w := c.ctl.toNat
  let r := (s.core core).cregs
  -- the sums of the destination side are those of a memory or of a tile destination
  let c := if ctlDtile w then { c with tile := some 0 } else c
  let span : Int := match c.dstCorners with
    | some (lo, hi) => hi + 1 - lo
    | none => 0
  if 5 ≤ ctlEsz w || 120 ≤ ctlPerm w || ctlZ8s w = 3 then .error (0x1C1, c.desc) else
  if !(ctlAlias w) && (c.ext.zip c.dstr).any (fun (e, d) => 1 < e && d = 0) then .error (0x1C1, c.desc) else
  if 2 ^ 40 ≤ c.tot || ((2 ^ 40 : Nat) : Int) ≤ span then .error (0x1C1, c.desc) else
  if (ctlDtile w && !b0) || (ctlZ8s w ≠ 0 && !(ctlDtile w)) || !(z8Legal c) then .error (0x1C1, c.desc) else
  if ctlBarv w && barIsLocal s core c && ctlBaroff w + 16 > s.regionSize core (ctlBarreg w) then .error (0x1C1, c.desc) else
  match (if ctlDtile w then winTile r (ctlDtn w) else some 0) with
  | none => .error (0x202, BitVec.ofNat 64 (ctlDtn w))
  | some t =>
    if cornersOverflow c.srcCorners || cornersOverflow c.dstCorners then .error (0x1C2, c.desc) else
    match sideFault s core c.src permR c.srcCorners c.desc with
    | some e => .error e
    | none =>
      match (if ctlDtile w then
          (match c.dstCorners with
           | some (lo, hi) => if 0 ≤ lo && hi < 16384 then none else some (0x1C3, c.desc)
           | none => none)
        else sideFault s core c.dst permW c.dstCorners c.desc) with
      | some e => .error e
      | none =>
        .ok { c with
          tile := if ctlDtile w then some t else none,
          dlo := (match c.dstCorners with | some (lo, _) => lo | none => if ctlDtile w then 0 else (capAddr c.dst.val : Int)),
          span := span.toNat,
          follow := if ctlFv w then some (followOf s core (bitsAt w 48 4) (bitsAt w 52 4) (bitsAt w 56 3) (bitAt w 59)) else none }

/-- The check of the descriptor capability and its alignment (R186 step 1), then its bytes. -/
def readDesc (s : State) (cap : TCap) (k : State → List TByte → WordRes) : WordRes :=
  let addr := capAddr cap.val
  let x : Word := BitVec.ofNat 64 addr
  match capCheck s s.cur.1 cap addr 128 (permR ||| permENG) with
  | some c => .trap c x
  | none =>
    if hasPerms (capPerms cap.val) permX || addr % 128 ≠ 0 then .trap 0x1C1 x else readBuf 1 s addr 128 k

def execSiph (d a b : Reg) (h : BitVec 6) (s : State) : Host.Outcome State Fault Refusal :=
  runWord (.siph d a b h) { cs := [a, b, d] } s fun s vs =>
    let x := (src vs 2).data
    readDesc s (src vs 2) fun s bs =>
      match siphBuild s s.cur.1 (siphOfDesc bs (src vs 0) (src vs 1) x) (b == 0) with
      | .error (c, v) => .trap c v
      | .ok c => putOut s [{ mkEntry s (.siph d a b h) (.siph h.toNat c) x with release := some ⟨4, 4, []⟩ }]

/-! ### SGATH (R195, R196) -/

/-- The fields of the gather descriptor. -/
def gRlo (d : List TByte) : Nat := fieldAt d 0x00 4
def gRhi (d : List TByte) : Nat := fieldAt d 0x04 4
def gRoff (d : List TByte) : Nat := fieldAt d 0x08 8
def gCidx (d : List TByte) : Nat := fieldAt d 0x10 8
def gVoff (d : List TByte) : Nat := fieldAt d 0x18 8
def gHstr (d : List TByte) : Nat := fieldAt d 0x20 8
def gHbnd (d : List TByte) : Nat := fieldAt d 0x28 4
def gFlen (d : List TByte) : Nat := fieldAt d 0x2C 4
def gCtl (d : List TByte) : Nat := fieldAt d 0x30 8

/-- The corners of a slice of `n` elements of `z` bytes from element `e0`, none when it is empty. -/
def sliceCorners (base off e0 n z : Nat) : Option (Int × Int) :=
  if n = 0 then none else some ((base + off + e0 * z : Nat), ((base + off + (e0 + n) * z : Nat) : Int) - 1)

/-- The checks of SGATH after its row pointers are read (R196). -/
def gathBuild (s : State) (d : List TByte) (feat csr : TCap) (desc : Word) (rows : List Nat) (ea eb : Nat) :
    Except (Nat × Word) GathCmd :=
  let core := s.cur.1
  let g := gCtl d
  let ta := bitsAt g 0 4
  let tb := bitsAt g 4 4
  let r := s.myCore.cregs
  let tda := fgetD r.td ta 0
  let tdb := fgetD r.td tb 0
  let p0 := rows.headD 0
  let p1 := (rows.getLast?).getD 0
  let z := tdBytes (tdFmt tda.toNat)
  if p1 < p0 then .error (0x1C1, desc) else
  if p1 - p0 > tdCols tda.toNat || p1 - p0 > tdRows tdb.toNat then .error (0x1C1, desc) else
  if gFlen d = 0 || gFlen d > tdCols tdb.toNat * tdBytes (tdFmt tdb.toNat) then .error (0x1C1, desc) else
  if !(tdPair (s.hasFeature 1) tda.toNat tdb.toNat) then .error (0x203, BitVec.ofNat 64 ta) else
  let fa := capAddr feat.val
  let cb := capAddr csr.val
  let cf := if gHbnd d = 0 then none else some ((fa : Int), ((fa + (gHbnd d - 1) * gHstr d + gFlen d : Nat) : Int) - 1)
  let cr := sliceCorners cb (gRoff d) (gRlo d) rows.length 4
  let cc := sliceCorners cb (gCidx d) p0 (p1 - p0) 4
  let cv := sliceCorners cb (gVoff d) p0 (p1 - p0) z
  if cornersOverflow cf || cornersOverflow cr || cornersOverflow cc || cornersOverflow cv then .error (0x1C2, desc) else
  let chk := fun (c : TCap) (o : Option (Int × Int)) (k : Except (Nat × Word) GathCmd) =>
    match sideFault s core c permR o desc with
    | some e => .error e
    | none => k
  chk feat cf <| chk csr cr <| chk csr cc <| chk csr cv <|
    .ok { raw := d.map (·.1), rows := rows, feat := feat, csr := csr, desc := desc, ta := ea, tb := eb, tda := tda, tdb := tdb,
          follow := if bitAt g 42 then some (followOf s core ta tb (bitsAt g 43 3) (bitAt g 46)) else none }

def execSgath (d a b : Reg) (h : BitVec 6) (s : State) : Host.Outcome State Fault Refusal :=
  runWord (.sgath d a b h) { cs := [a, b, d] } s fun s vs =>
    let x := (src vs 2).data
    readDesc s (src vs 2) fun s bs =>
      let g := gCtl bs
      let r := s.myCore.cregs
      match winTile r (bitsAt g 0 4), winTile r (bitsAt g 4 4) with
      | none, _ => .trap 0x202 (BitVec.ofNat 64 (bitsAt g 0 4))
      | _, none => .trap 0x202 (BitVec.ofNat 64 (bitsAt g 4 4))
      | some ea, some eb =>
        let n := gRhi bs - gRlo bs
        if gRhi bs < gRlo bs || n > tdRows (fgetD r.td (bitsAt g 0 4) 0).toNat then .trap 0x1C1 x else
        let addr := (capAddr (src vs 1).val + gRoff bs + 4 * gRlo bs) % 2 ^ 64
        match capCheck s s.cur.1 (src vs 1) addr (4 * (n + 1)) permR with
        | some c => .trap c (BitVec.ofNat 64 addr)
        | none => readBuf 0 s addr (4 * (n + 1)) fun s ps =>
          match gathBuild s bs (src vs 0) (src vs 1) x ((List.range (n + 1)).map fun i => fieldAt ps (4 * i) 4) ea eb with
          | .error (c, v) => .trap c v
          | .ok c => putOut s [{ mkEntry s (.sgath d a b h) (.sgath h.toNat c) x with release := some ⟨4, 4, []⟩ }]

/-! ### SCFG and SWMR (R193, R194) -/

def execScfg (a : Reg) (h : BitVec 6) (s : State) : Host.Outcome State Fault Refusal :=
  runWord (.scfg a h) { cs := [a] } s fun s vs =>
    putOut s [{ mkEntry s (.scfg a h) (.scfg h.toNat (src vs 0).data) (BitVec.ofNat 64 h.toNat) with
                release := some ⟨4, 4, []⟩ }]

/-- A commit-queue entry names the channel. -/
def namesChan (h : Nat) (e : Entry) : Bool :=
  match e.eff with
  | .siph c _ | .sgath c _ => c == h
  | _ => false

/-- SWMR's result (R194). -/
def chanWord (k : Core) (h : Nat) (sel : SwmrSel) : Word :=
  let ch := k.chan h
  match sel with
  | .status => BitVec.ofNat 64 (ch.v.toNat * 2 ^ 63 + ch.done.toNat * 2 ^ 62 + ch.flt.toNat * 2 ^ 61 +
      (k.queue.any (namesChan h)).toNat * 2 ^ 60 + ch.wmk % 2 ^ 40)
  | .dlo => match ch.last with
    | some (.siph c) => BitVec.ofInt 64 c.dlo
    | _ => 0
  | .fault => if ch.flt then ch.faultAddr else 0

def execSwmr (d : Reg) (sel : SwmrSel) (h : BitVec 6) (s : State) : Host.Outcome State Fault Refusal :=
  runWord (.swmr d sel h) { dc := some d } s fun s _ => .done (s.putData d (chanWord s.myCore h.toNat sel))

end Sys2Proof.Machine
end

