-- ==== Sys2Proof/Machine/Scope.lean ====
section
/-! DEFINITION. SCPSET and SCPGET (R171 to R173, R387). -/

namespace Sys2Proof.Machine

/-- A bitmap without the bits of cores that are in no open bay of the context (R173). -/
def clearClosed (s : State) (ctx : Nat) (bs : List TByte) : List TByte :=
  bs.zipIdx.map fun ((b, _), i) =>
    (BitVec.ofNat 8 ((List.range 8).foldl (fun n j =>
      if b.getLsbD j && inOpenBay s ctx (8 * i + j) then n + 2 ^ j else n) 0), false)

def execScpset (a : Reg) (i : BitVec 6) (s : State) : Host.Outcome State Fault Refusal :=
  runWord (.scpset a i) { cs := [a] } s fun s vs =>
    let cap := src vs 0
    let addr := capAddr cap.val
    let x : Word := BitVec.ofNat 64 addr
    if addr % 64 ≠ 0 then .trap 0x101 x else
    match capCheck s s.cur.1 cap addr 512 permR with
    | some c => .trap c x
    | none => readBuf 0 s addr 512 fun s bs =>
      let ctx := s.myCore.ctx
      let va := scopeSlot s.myCore.cregs.scpbase i.toNat
      match translate s s.cur.1 ctx va .vecW (s.cur.1 / 1024) with
      | (t, .fail c) => .trapWith t c (BitVec.ofNat 64 va)
      | (t, .ok p _) =>
        let pa := p * 4096 + va % 4096
        if !(hasDram pa) then .fault (.noDram pa) else
        if homeBusy t pa 512 then .stall else
        afterLoads t <|
          let u := coherentWrite t pa (clearClosed t ctx bs)
          .done (u.setCtx ctx { u.ctx ctx with scopeSet := insertNat (u.ctx ctx).scopeSet i.toNat })

/-- The word of SCPGET (R173); zero for an entry that is not set. -/
def scpWord (cover count : Nat) : Word := BitVec.ofNat 64 (2 ^ 63 + cover % 8 * 2 ^ 16 + count % 8192)

def execScpget (d : Reg) (i : BitVec 6) (s : State) : Host.Outcome State Fault Refusal :=
  runWord (.scpget d i) { dc := some d } s fun s _ =>
    if i.toNat < 6 then .done (s.putData d (scpWord i.toNat (fixedScope s s.cur.1 i.toNat).length)) else
    match scopeReading s s.cur.1 s.cur.2 i.toNat with
    | (t, .error _) => .done (t.putData d 0)
    | (t, .ok r) => .done (t.putData d (if r.isSet then scpWord r.cover r.cores.length else 0))

end Sys2Proof.Machine
end

