-- ==== Sys2Proof/Machine/Locq.lean ====
section
/-! DEFINITION. The LOCQ words (R295 to R298, R371) and torus coordinates (R12). -/

namespace Sys2Proof.Machine

/-- Torus coordinates of a cluster id, die × 64 + k (R12). -/
def torusX (k : Nat) : Nat := 8 * (k / 64 % 2) + k % 8
def torusY (k : Nat) : Nat := 8 * (k / 64 / 2) + k % 64 / 8

/-- The distance along one side of the torus (R298). -/
def ringDist (a b : Nat) : Nat := min (max a b - min a b) (16 - (max a b - min a b))

/-- The destination that a LOCQ names: the issuing core, or a checked register (R295). -/
def locqTarget (s : State) (a : Reg) (v : Word) : Option Nat :=
  if a = 0 then some s.cur.1 else
  let d := v.toNat
  if bitsAt d 28 36 ≠ 0 || bitsAt d 12 4 ≠ 0 || !(s.isOwnDev (destDev d)) || !(inOpenBay s s.myCore.ctx (destCore d)) then none
  else some (destCore d)

/-- LOCQ.WHERE of a core (R296). -/
def whereWord (s : State) (c : Nat) : Word :=
  let k := clusterOf c
  BitVec.ofNat 64 (s.hub.epoch.toNat * 2 ^ 32 + (unbacked s c).toNat * 2 ^ 31 + torusY k % 16 * 2 ^ 20 + torusX k % 16 * 2 ^ 16 +
    k / 64 % 4 * 2 ^ 14 + k % 64 / 8 * 2 ^ 11 + k % 8 * 2 ^ 8 +
    (if unbacked s c then 0x1F else physOf s c % 32))

/-- LOCQ.HOPS between two clusters (R298). -/
def hopsWord (k j : Nat) : Word :=
  let hx := ringDist (torusX k) (torusX j)
  let hy := ringDist (torusY k) (torusY j)
  BitVec.ofNat 64 ((hx + hy) * 2 ^ 8 + hy * 2 ^ 4 + hx)

def execLocqWhere (d a : Reg) (s : State) : Host.Outcome State Fault Refusal :=
  runWord (.locqWhere d a) { cs := [a], dc := some d } s fun s vs =>
    match locqTarget s a (src vs 0).data with
    | none => .trap 0x242 (src vs 0).data
    | some c => .done (s.putData d (whereWord s c))

def execLocqEpoch (d : Reg) (s : State) : Host.Outcome State Fault Refusal :=
  runWord (.locqEpoch d) { dc := some d } s fun s _ =>
    .done (s.putData d (BitVec.ofNat 64 (s.me.moved.toNat * 2 ^ 32 + s.hub.epoch.toNat)))

def execLocqHops (d a : Reg) (s : State) : Host.Outcome State Fault Refusal :=
  runWord (.locqHops d a) { cs := [a], dc := some d } s fun s vs =>
    match locqTarget s a (src vs 0).data with
    | none => .trap 0x242 (src vs 0).data
    | some c => .done (s.putData d (hopsWord (clusterOf s.cur.1) (clusterOf c)))

end Sys2Proof.Machine
end

