-- ==== Sys2Proof/Machine/Fetch.lean ====
section
/-! DEFINITION. Fetching the next word of a carrel (R70, R83, R111). -/

namespace Sys2Proof.Machine

/-- What a fetch comes to. -/
inductive FetchRes where
  | word (i : Instr) (s : State)
  | trap (cause : Nat) (tval : Word) (s : State)
  | fault (f : Fault)

/-- The word at a physical address, little-endian (R70). -/
def wordAt (s : State) (pa : Nat) : Insn := BitVec.ofNat 32 (leNat ((coherentRead s pa 4).map (·.1.1)))

/-- The next word of the executing carrel: translated for execution in the core's context (R111), read coherently. -/
def fetch (s : State) : FetchRes :=
  let pc := s.me.pc
  match translate s s.cur.1 s.myCore.ctx pc.toNat .exec (s.cur.1 / 1024) with
  | (t, .fail c) => .trap c (pc.setWidth 64) t
  | (t, .ok p _) =>
    let pa := p * 4096 + pc.toNat % 4096
    if hasDram pa then .word (decodeInsn (wordAt t pa)) t else .fault (.noDram pa)

/-- The core takes part in issue: it is not stopped by a partition switch (R312), frozen by reshelving (R289), or without a
physical core (R292). -/
def Core.live (k : Core) : Bool := !k.stopped && !k.frozen

end Sys2Proof.Machine
end

