-- ==== Sys2Proof/Machine/Select.lean ====
section
/-! DEFINITION. Which tag a core may dispatch (R33 to R37), and the passing of a cycle (R3). -/

namespace Sys2Proof.Machine

/-- A channel as selection sees it: without the changes of this cycle (R242). -/
def Core.selChan (k : Core) (h : Nat) : GateView := fgetD k.chanOld h (k.chan h).gateView

/-- One gate pair is satisfied (R34). -/
def gatePair (k : Core) (w : Word) : Bool :=
  let ch := k.selChan (bitsAt w.toNat 50 6)
  !(w.getLsbD 63) || (ch.v && (ch.ended || bitsAt w.toNat 0 40 ≤ ch.wmk))

def gateOk (k : Core) (h : HTag) : Bool := (List.range 4).all fun g => gatePair k (fgetD h.gates g 0)

/-- A message that waits for its dispatch (R29): accepted before this cycle, and not a held remote write. -/
def InboxEnt.pending (e : InboxEnt) : Bool := e.held.isNone && !e.started && !e.fresh

/-- The place in the inbox, which is in order of acceptance, of a tag's oldest pending message. -/
def oldest (k : Core) (t : Nat) : Option Nat := findIdx (fun e => e.tag == t && e.pending) k.inbox

/-- Tag `t` is runnable (R33), by its entry without the changes of this cycle (R27, R36). -/
def runnable (k : Core) (t : Nat) : Bool :=
  let h := k.selTag t
  h.en && h.inst && 0 < h.pend && (oldest k t).isSome && ((k.bay.map (·.isOpen)).getD false) &&
  (if h.par then h.act ≤ h.pmax else h.act == 0) && gateOk k h

def runnableTags (k : Core) : List Nat := (List.range 64).filter (runnable k)

/-- Tag `t` goes before `u` (R36). -/
def before (k : Core) (t u : Nat) : Bool :=
  let a := (k.selTag t).eprio
  let b := (k.selTag u).eprio
  let at_ := fun t => (((oldest k t).bind fun n => k.inbox[n]?).map (·.cyc)).getD 0
  let i := at_ t
  let j := at_ u
  b < a || (a == b && (i < j || (i == j && t < u)))

/-- The tag that R36 chooses. -/
def chooseTag (k : Core) : Option Nat :=
  (runnableTags k).foldl (fun o t => match o with
    | none => some t
    | some u => if before k t u then some t else some u) none

/-- The lowest-numbered free carrel of a cycle (R36). -/
def freeCarrel (k : Core) (cyc : Nat) : Option Nat :=
  (List.range 8).find? fun i => (k.carrel i).st == .free && (k.carrel i).freedAt != some cyc

/-- The tag's effective priority is behind its wait counter (R37). -/
def agingDue (k : Core) (t : Nat) : Bool :=
  let h := k.tagOf t
  h.eprio < eprioOf h.prio h.wait

/-- A tag's effective priority rises, as selection sees it too (R37). -/
def Core.age (k : Core) (t : Nat) : Core :=
  let up := fun (h : HTag) => { h with eprio := h.eprio + 1 }
  { k.setTag t (up (k.tagOf t)) with tagOld := k.tagOld.map fun (j, h) => (j, if j = t then up h else h) }

/-- Each runnable tag that was not dispatched in the cycle waits one more (R37). A dispatched tag's counter stays zero
in the cycle of its dispatch. -/
def ageTags (k : Core) : Core :=
  ((runnableTags k).filter fun t => k.dispatched != some t).foldl (fun k' t =>
    let h := k'.tagOf t
    k'.setTag t { h with wait := h.wait + 1 }) k

/-- The effective priorities that go with the wait counters (R37): an aging that the agenda does not name is made with its cycle. -/
def ageAll (k : Core) : Core :=
  { k with tags := k.tags.map fun (t, h) => (t, { h with eprio := max h.eprio (eprioOf h.prio h.wait) }) }

/-- The counts of cycles left, one less each; a count that has run out is no longer listed. -/
def countDown (m : FMap Nat) : FMap Nat := (m.filter fun (_, n) => 1 < n).map fun (r, n) => (r, n - 1)

/-- A cycle passes for a carrel: a parked wait counts it (R200, R210, R361), a YIELD period while the carrel is Running
or Runtime (R363), and the results under way and the gap after a transfer (R246, R247). -/
def Carrel.cycle (c : Carrel) : Carrel :=
  { c with park := c.park.map fun p => { p with cycles := p.cycles + 1 },
           yield := if c.issues && 1 < c.yield then c.yield - 1 else c.yield,
           loads := c.loads.map fun l => { l with undo := l.undo.map fun u => { u with wrote := [] } },
           wrote := [], landed := [], lat := countDown c.lat, gap := c.gap - 1 }

/-- A cycle passes for a core. -/
def Core.cycle (k : Core) : Core :=
  let k := if k.live then ageAll (ageTags k) else k
  { k with
    carrels := k.carrels.map fun (i, c) => (i, c.cycle),
    inbox := k.inbox.map fun e => { e with fresh := false },
    slotted := false, divBusy := k.divBusy - 1, tagOld := [], chanOld := [], dispatched := none, sysOld := [] }

/-- One cycle passes (R3). -/
def tick (s : State) : State :=
  { s with
    cycle := s.cycle + 1,
    cores := s.cores.map fun (n, k) => (n, k.cycle),
    clusters := s.clusters.map fun (n, k) =>
      (n, { k with reshelve := k.reshelve.map fun r => { r with cycles := r.cycles + 1 } }) }

end Sys2Proof.Machine
end

