-- ==== Sys2Proof/Machine/EvDispatch.lean ====
section
/-! DEFINITION. The life of an activation: DISPATCH (R36 to R43), the aging of priorities (R37), the end of a YIELD period
(R363), the hand-over at END (R44) and what the resident OS removes (R43, R124). -/

namespace Sys2Proof.Machine

/-- The remote writes that the inbox holds for a tag, in order of acceptance (R59). -/
def heldRputs (k : Core) (t : Nat) : List (Nat × PWord) :=
  (k.inbox.filter fun e => e.tag == t).filterMap (·.held)

/-- The activation starts (R36, R40 to R43): the message `e` goes to carrel `i`, held remote writes are applied in order of
arrival and recorded with the message (R281). HADDR and the bundle are those of the entry that selection sees (R27). An
activation that reshelving aborted is dispatched afresh (R289), so it too gets the entry's present ones, and not those of its first
dispatch as a replay on the core does (R281; DESIGN CHOICE, log entry 106). -/
def startActivation (k : Core) (cyc t i : Nat) (e : InboxEnt) : Core :=
  let sel := k.selTag t
  let h := k.tagOf t
  let (act, k) := k.fresh
  let held := heldRputs k t
  let e := if e.again then { e with rply := min 2 (e.rply + 1) } else e
  let c := carrelInit (k.carrel i) sel e act cyc (k.twin.isSome || k.twinOf.isSome)
  let c := (e.rputs ++ held).foldl (fun c (j, w) => c.rput j w) c
  let rputs := held.foldl (fun m (j, w) => fset m j w) e.rputs
  let inbox := (k.inbox.filter fun x => !(x.tag == t && x.held.isSome)).map fun x =>
    if x.id = e.id then { x with started := true, rputs := rputs, rply := e.rply, again := false, begun := some (sel.haddr, sel.caps) } else x
  let k := k.setTag t { h with pend := h.pend - 1, act := h.act + 1, wait := 0, eprio := h.prio }
  ({ k with inbox := inbox, dispatched := some t } : Core).setCarrel i c

/-- The reshelving of a core's slot, until dispatch resumes (R289). -/
def reshelving (s : State) (core : Nat) : Option Reshelve :=
  (s.cluster (clusterOf core)).reshelve.filter fun r => r.slot == slotOf core && r.phase != .releasing

/-- The activation that a dispatch starts. That of an entry whose activation was aborted is a replay: it counts, and at RPLY 2 it
traps (R289, R280). -/
def dispatchTo (s : State) (core t i : Nat) (e : InboxEnt) : State :=
  let u := s.setCore core (startActivation (s.core core) s.cycle t i e)
  if !e.again then u
  else if e.rply = 2 then takeTrap u core i 0x2C2 0
  else if (s.core core).twinOf.isSome then u else u.countReplay core

def execDispatch (core : Nat) (s : State) : Host.Outcome State Fault Refusal :=
  let k := s.core core
  if !k.live || (reshelving s core).isSome || k.dispatched.isSome || (List.range 64).any (agingDue k) then .next s else
  match chooseTag k, freeCarrel k s.cycle with
  | some t, some i =>
    match (oldest k t).bind fun n => k.inbox[n]? with
    | some e => .next (dispatchTo s core t i e)
    | none => .next s
  | _, _ => .next s

def execEprioAging (core tag : Nat) (s : State) : Host.Outcome State Fault Refusal :=
  let k := s.core core
  if agingDue k tag then
    .next (s.setCore core (k.age tag))
  else .next s

/-- The period has run out by cycle count (R363); the carrel is in its normal tier as soon as it has. -/
def execYieldPeriodExpiry (core carrel : Nat) (s : State) : Host.Outcome State Fault Refusal :=
  let c := s.carrel core carrel
  if c.issues && c.yield = 1 then .next (s.setCarrel core carrel { c with yield := 0 }) else .next s

/-- An Ending carrel hands its outbox over (R44): its write-stream elements are in the outbox and its bindings gone (R353), its loads are
complete (R166), no entry fails its ECC check (R278), a pair has been compared (R286), and the commit queue has room. -/
def execOutboxHandoff (core carrel : Nat) (s : State) : Host.Outcome State Fault Refusal :=
  let k := s.core core
  let c := k.carrel carrel
  if c.st != .ending || k.frozen || !c.streams.isEmpty || !(canDrain s core carrel) then .next s
  else if c.owes || c.outbox.any (·.ecc) then .next (consumeError (s.setCarrel core carrel { c with owes := false }) core carrel 0)
  else if comparing c then .next s
  else
    let t := (drainOutbox s core carrel).modCore core (·.endActivation carrel s.cycle)
    -- the record counts the activations committed, a pair once (R238)
    .next (if k.twinOf.isSome then t else t.modLaunch k.launchId fun l => { l with acts := l.acts + 1 })

/-- The resident OS releases a halted carrel (R124), and with it the other execution of a pair (R286). -/
def execHaltedCarrelRelease (core carrel : Nat) (s : State) : Host.Outcome State Fault Refusal :=
  if (s.carrel core carrel).st == .halted then
    .next (match (if (s.carrel core carrel).pair then partner s core carrel else none) with
      | some (d, j) => abandon (abandon s core carrel) d j
      | none => abandon s core carrel)
  else .next s

/-- The carrel is Parked on presence bits. -/
def onPresence (c : Carrel) : Bool :=
  c.st == .parked && match c.park with
    | some p => match p.why with
      | .presence _ => true
      | _ => false
    | none => false

/-- The resident OS removes an activation that is Parked on a presence wait (R43), and with it the other execution of a
pair. -/
def execActivationRemoval (core carrel : Nat) (s : State) : Host.Outcome State Fault Refusal :=
  if onPresence (s.carrel core carrel) then
    let t := s.modCore core (·.endActivation carrel s.cycle)
    .next (match (if (s.carrel core carrel).pair then partner s core carrel else none) with
      | some (d, j) => t.modCore d (·.endActivation j s.cycle)
      | none => t)
  else .next s

end Sys2Proof.Machine
end

