-- ==== Sys2Proof/Machine/Commit.lean ====
section
/-! DEFINITION. How a commit-queue entry takes effect (R139, R140, R147, R150, R166, R167, R394): which entries may, the runs
of bytes of a store, and the performance of one run or of an AMO without return. The events are in Machine/EvCommit.lean. -/

namespace Sys2Proof.Machine

/-! ### Order (R162, R166, R169) -/

/-- Two entries of one queue that must keep their order: they write a byte in common, or one field of a handler-table entry
(R166, R382). -/
def entriesOrdered (a b : Entry) : Bool :=
  match a.eff, b.eff with
  | .tagctl j _, .tagctl k _ => j == k
  | x, y => (effLocs x).any (effLocs y).contains

/-- The release waits for earlier entries: at scope 0 and 1 they are performed in the queue (R167). -/
def releaseWaits (e : Entry) : Bool := match e.release with
  | some r => 2 ≤ r.cover
  | none => false

/-- The entry at a place of the queue may take effect (R29, R166, R169). -/
def eligible (s : State) (core idx : Nat) (e : Entry) : Bool :=
  let k := s.core core
  let earlier := k.queue.take idx
  !k.frozen && !(earlier.any isMarker) && !(earlier.any (entriesOrdered · e)) &&
  (!(releaseWaits e) || earlier.isEmpty) && !(k.out.any fun m => m.again && m.drain == e.drain)

/-- An entry leaves the commit queue. -/
def dropEntry (s : State) (core id : Nat) : State :=
  s.modCore core fun k => { k with queue := k.queue.filter fun e => e.id ≠ id }

/-- A change to an entry of the commit queue. -/
def modEntry (s : State) (core id : Nat) (f : Entry → Entry) : State :=
  s.modCore core fun k => { k with queue := k.queue.map fun e => if e.id = id then f e else e }

/-! ### The runs of a store -/

/-- The next place continues a run: it follows, and memory runs end with their granule. -/
def continues (a b : Loc) : Bool :=
  b == a.shift 1 && match b with
    | .mem pa => pa % 4096 ≠ 0
    | _ => true

/-- The first run of a store's cells: its first place, the last value each place gets, and the cells left. -/
def firstRun : List (Loc × Byte) → List (Loc × Byte)
  | [] => []
  | [c] => [c]
  | (l, b) :: (m, v) :: cs => if continues l m then (l, b) :: firstRun ((m, v) :: cs) else [(l, b)]

/-- The bytes that a store leaves at the places of its first run: of cells that overlap, the last wins (R412). -/
def runBytes (cells run : List (Loc × Byte)) : List Byte := run.map fun (l, b) => (cellGet cells l).getD b

/-- The cells that are left once the places of a run are done. -/
def withoutRun (cells run : List (Loc × Byte)) : List (Loc × Byte) :=
  cells.filter fun (l, _) => !(run.any fun (m, _) => m == l)

/-- What an entry performs at once: its first run, or its first element where each is a write of its own (R412). -/
def entryRun (e : Entry) (cells : List (Loc × Byte)) : List (Loc × Byte) := if e.unit = 0 then firstRun cells else cells.take e.unit

/-- The bytes that it writes: an element's own, which a later one may overwrite (R412). -/
def runValues (e : Entry) (cells run : List (Loc × Byte)) : List Byte := if e.unit = 0 then runBytes cells run else run.map (·.2)

/-- The cells that are left after it. -/
def entryRest (e : Entry) (cells run : List (Loc × Byte)) : List (Loc × Byte) :=
  if e.unit = 0 then withoutRun cells run else cells.drop run.length

/-- The first run of an entry is done: the entry ends with its last run. -/
def runDone (s : State) (core id : Nat) : State :=
  match (s.core core).queue.find? fun e => e.id == id with
  | some e => match e.eff with
    | .store cells tag =>
      let rest := entryRest e cells (entryRun e cells)
      if rest.isEmpty then dropEntry s core id
      else modEntry s core id fun e => { e with eff := .store rest tag, sent := none }
    | _ => dropEntry s core id
  | none => s

/-! ### Performing bytes in this module -/

/-- How an entry's bytes allocate (R146), and for which partition and launch. -/
def entryPolicy (s : State) (core : Nat) (e : Entry) (window : Bool) : Policy :=
  { corePolicy s core with stream := e.stream, keep := e.keep, window := window }

/-- A write that goes past the catalogue (R115, R167): to home memory, and to the cluster's own copies. -/
def writeThrough (s : State) (k pa : Nat) (bs : List TByte) : State :=
  let key := pa / 4096
  let lo := pa % 4096
  let hi := lo + bs.length
  let t := s.modCluster k fun c => { c with l2 := (c.l2.updateHeld false key (offsets lo bs)).scrub false key lo hi }
  (updateL1s t k key (offsets lo bs) lo hi).storeMem pa bs

/-- A write whose bytes the L2F partly holds is divided (R147): in place where it holds them, the others in home memory, in one step
(R161). -/
def writeDivided (s : State) (k pa : Nat) (bs : List TByte) (p : Policy) : State :=
  let missing := runsOf (fun a => !((s.cluster k).l2.holds (pa / 4096) (a % 4096))) pa bs.length none
  missing.foldl (fun s (a, b) => s.storeMem a ((bs.drop (a - pa)).take (b - a)))
    (staleReads (writeHeld s k (pa / 4096) (pa % 4096) bs p) k pa bs.length)

/-- A write of a window at scope 2 or below stays in the L2F (R167); under NAL2, and where no way is found, what the L2F does not hold
goes to the home (R147). -/
def writeWindow (s : State) (core pa : Nat) (bs : List TByte) (e : Entry) : State :=
  let p := entryPolicy s core e true
  match (if e.nal2 then none else placeWrite s (clusterOf core) (pa / 4096) (pa % 4096) bs p) with
  | some t => t
  | none => writeDivided s (clusterOf core) pa bs p

/-- A request to the home on behalf of an entry. -/
def sendFor (s : State) (core : Nat) (e : Entry) (m : CatMsg) : State :=
  modEntry (sendCatReq s (clusterOf core) (.entry core e.id) m) core e.id fun x => { x with sent := some s.nextReq }

/-- A byte of a run [pa, pa + n) whose write needs a request: not all of the bytes of the run in its aligned 16-byte unit are held Dirty. A
single-copy atomic write (R161) lies in one such unit and is asked for as a whole, since it is made with one GRANT. -/
def lacksOwner (s : State) (k pa n a : Nat) : Bool :=
  (List.range 16).any fun j =>
    let b := a / 16 * 16 + j
    pa ≤ b && b < pa + n && !((s.cluster k).l2.isDirty (b / 4096) (b % 4096))

/-- A run of bytes of catalogued memory (R139, R140, R147): in place when the L2F holds all Dirty; else ownership is asked for, one
part that lacks it after the other, whose GRANT makes its write (R157), or, under NAL2 and where no way is found, the home divides the
write. A write over bytes that are still filling waits for them. -/
def writeRun (s : State) (core pa : Nat) (bs : List TByte) (e : Entry) : State :=
  let k := clusterOf core
  let key := pa / 4096
  let n := bs.length
  if (s.cluster k).l2.fills key (pa % 4096) (pa % 4096 + n) then s else
  let held := (List.range n).all fun j => (s.cluster k).l2.holds key (pa % 4096 + j)
  let lack := runsOf (lacksOwner s k pa n) pa n none
  match lack.head?, lack.getLast? with
  | some (a, b), some (_, z) =>
    if held || (!e.nal2 && canPlace s k pa n) then sendFor s core e (writeMsg s core a (b - a) true)
    else sendFor s core e { writeMsg s core a (z - a) false with data := (bs.drop (a - pa)).take (z - a) }
  | _, _ =>
    match placeWrite s k key (pa % 4096) bs (entryPolicy s core e false) with
    | some t => runDone t core e.id
    | none => s

/-- The number that an AMO without return writes (R332). -/
def amoValue (old : List (TByte × Bool)) (op : AmoOp) (size : Nat) (v : Word) : List TByte :=
  tbytes size (amoApply op size (oldOf old) v.toNat) false

/-- An AMO without return on memory of this module (R333): through a window at the home, else where its bytes are owned. -/
def amoRun (s : State) (core pa : Nat) (op : AmoOp) (size : Nat) (v : Word) (e : Entry) : State :=
  let k := clusterOf core
  if e.window.contains (pa / 4096) then
    let t := flushOwn s k pa size
    runDone (t.storeMem pa (amoValue ((List.range size).map fun j => memNow t (pa + j)) op size v)) core e.id
  else if (s.cluster k).l2.fills (pa / 4096) (pa % 4096) (pa % 4096 + size) then s
  else if allDirty s k (pa / 4096) (pa % 4096) (pa % 4096 + size) then
    match placeWrite s k (pa / 4096) (pa % 4096) (amoValue (l2Bytes s k pa size) op size v) (corePolicy s core) with
    | some t => runDone t core e.id
    | none => s
  else sendFor s core e (atomicMsg s core pa size)

/-- An AMO without return on a region of the core itself. -/
def amoScr (s : State) (core region off : Nat) (op : AmoOp) (size : Nat) (v : Word) : State :=
  let s := healRegion s core region off size
  let old := (List.range size).map fun j => (baseNow s core .caches (.scr core region (off + j))).getD ((0, false), false)
  scrWrite s core region off (amoValue old op size v)

/-- A drained access goes to another agent, once its stream is free (R302). -/
def sendEntry (s : State) (core : Nat) (e : Entry) (l : Loc) (op : PeerOp) : State :=
  if streamBusy s core l then s else
  let (t, r) := sendOp s core (.entry core e.id) l op
  modEntry t core e.id fun x => { x with sent := some r }

/-- The first run of a store takes effect, or asks for what it needs. -/
def performRun (s : State) (core : Nat) (e : Entry) (cells : List (Loc × Byte)) (tag : Bool) : State :=
  let run := entryRun e cells
  let bytes := runValues e cells run
  let bs := bytes.map fun b => (b, tag)
  match run with
  | [] => dropEntry s core e.id
  | (.mem pa, _) :: _ =>
    if !(e.window.contains (pa / 4096)) then writeRun s core pa bs e
    else if (s.cluster (clusterOf core)).l2.fills (pa / 4096) (pa % 4096) (pa % 4096 + bs.length) then s
    else if e.through then runDone (writeThrough s (clusterOf core) pa bs) core e.id
    else runDone (writeWindow s core pa bs e) core e.id
  | (.scr c r o, _) :: _ =>
    if c = core then runDone (scrWrite s core r o bs) core e.id else sendEntry s core e (.scr c r o) (.write bytes tag)
  | (l, _) :: _ => sendEntry s core e l (.write bytes tag)

end Sys2Proof.Machine
end

