-- ==== Sys2Proof/Machine/EvWait.lean ====
section
/-! DEFINITION. The ends of parked waits: WAIT_RESUME (R39, R43, R210, R336, R361) and the time limits of BWAIT, LWAIT and
IDLE (R202, R212, R361). -/

namespace Sys2Proof.Machine

/-- A parked word completes: its sources' stream elements are taken, its result is written, and the next word follows. -/
def completeParked (s : State) (core carrel : Nat) (f : Carrel → Carrel) : State :=
  s.modCarrel core carrel fun c =>
    let pops := (c.park.map (·.pops)).getD []
    let d := f (pops.foldl Carrel.pop c.awake)
    { d.completed with pc := d.pc + 4 }

/-- A trap of a parked word, once every earlier load is over (R122). -/
def trapParked (s : State) (core carrel cause : Nat) (tval : Word) : State :=
  if (s.carrel core carrel).settled then takeTrap (s.modCarrel core carrel Carrel.awake) core carrel cause tval else s

/-- A parked word consumes an error (R278), once every earlier load is over (R122). -/
def consumeParked (s : State) (core carrel : Nat) (x : Word) : State :=
  if (s.carrel core carrel).settled then consumeError (s.modCarrel core carrel Carrel.awake) core carrel x else s

/-- A synchronised word that was parked is over (R284). -/
def recordParked (s : State) (core carrel : Nat) (r : SyncRec) : State :=
  if (s.carrel core carrel).pair && (s.core core).twin.isSome then
    s.modCarrel core carrel fun c => { c with sync := c.sync ++ [r] }
  else s

/-- The view of a parked LWAIT's cell now (R208). -/
def lwaitView (s : State) (core carrel : Nat) (w : LWaitRec) : State × Nat × Bool :=
  viewCell s core carrel w.pa w.typ w.size { nal2 := w.nal2, stream := w.stream, keep := w.keep }

/-- The answer to a request, once it has come. -/
def respOf (s : State) (r : Nat) : Option RemoteResp := (s.reqs.find? fun q => q.id == r).bind (·.resp)

/-- A request is no longer waited for. -/
def dropReq (s : State) (r : Nat) : State := { s with reqs := s.reqs.filter fun q => q.id ≠ r }

/-- A parked LWAIT looks at its cell again (R210), or at the peer's answer (R220). -/
def resumeLwait (s : State) (core carrel : Nat) (w : LWaitRec) : State :=
  match w.req with
  | none =>
    let (t, v, bad) := lwaitView s core carrel w
    if bad then consumeParked t core carrel w.addr
    else if geq w.typ v w.x.toNat then completeParked t core carrel fun c => c.put w.d (lwaitValue v false)
    else s
  | some r =>
    match respOf s r with
    | none | some .retry => s
    | some (.ok data _) => completeParked (dropReq s r) core carrel fun c => c.put w.d (lwaitValue (leNat data) false)
    | some .error | some (.refused _) => completeParked (dropReq s r) core carrel fun c => c.markReg w.d ⟨w.addr, false⟩
    | some .poison => completeParked (dropReq s r) core carrel fun c => c.markReg w.d ⟨w.addr, true⟩

/-- A parked BWAIT whose object has moved on (R336). -/
def resumeBwait (s : State) (core carrel : Nat) (w : BWaitRec) : State :=
  match w.got with
  | none => s
  | some (some g) =>
    recordParked (completeParked s core carrel fun c => c.put w.d (dataCap (BitVec.ofNat 64 g))) core carrel
      { result := some (w.d, dataCap (BitVec.ofNat 64 g)) }
  | some none =>
    if (s.carrel core carrel).settled then
      trapParked (recordParked s core carrel { trap := some (0x281, w.addr) }) core carrel 0x281 w.addr
    else s

/-- What WAIT_RESUME makes of a parked carrel. -/
def resume (s : State) (core carrel : Nat) (p : Park) : State :=
  match p.why with
  | .presence rs =>
    if rs.any (s.carrel core carrel).absent then s else s.modCarrel core carrel Carrel.awake
  | .lwait w => resumeLwait s core carrel w
  | .bwait w => resumeBwait s core carrel w
  | .idle _ => if p.woken then completeParked s core carrel id else s
  | .halt => if s.hub.osIrq.contains (core - 4096) then completeParked (s.takeIrq core) core carrel id else s

/-- A wait may end: the carrel is Parked and its core runs. -/
def parkedAt (s : State) (core carrel : Nat) : Option Park :=
  let c := s.carrel core carrel
  if c.st == .parked && (s.core core).live then c.park else none

def execWaitResume (core carrel : Nat) (s : State) : Host.Outcome State Fault Refusal :=
  match parkedAt s core carrel with
  | some p => .next (resume s core carrel p)
  | none => .next s

/-- A limit has been reached: one of zero is none (R202, R212). -/
def limitHit (limit : Word) (cycles : Nat) : Bool := limit ≠ 0 && limit.toNat ≤ cycles

def execBwaitTimeout (core carrel : Nat) (s : State) : Host.Outcome State Fault Refusal :=
  match parkedAt s core carrel with
  | some p => match p.why with
    | .bwait w =>
      if w.got.isNone && limitHit (s.core core).cregs.btmo p.cycles && (s.carrel core carrel).settled then
        .next (trapParked (recordParked s core carrel { trap := some (0x283, w.addr) }) core carrel 0x283 w.addr)
      else .next s
    | _ => .next s
  | none => .next s

/-- An LWAIT at its limit (R210): the view with bit 127, or 0x183 for d = c0. -/
def lateLwait (s : State) (core carrel : Nat) (w : LWaitRec) : State :=
  match w.req with
  | none =>
    let (t, v, bad) := lwaitView s core carrel w
    if bad then consumeParked t core carrel w.addr
    else if geq w.typ v w.x.toNat then completeParked t core carrel fun c => c.put w.d (lwaitValue v false)
    else if w.d = 0 then trapParked t core carrel 0x183 w.addr
    else completeParked t core carrel fun c => c.put w.d (lwaitValue v true)
  | some r =>
    if (respOf s r).isSome then resumeLwait s core carrel w
    else if w.d = 0 then trapParked s core carrel 0x183 w.addr
    else completeParked (dropReq s r) core carrel fun c => c.put w.d (lwaitValue (Config.peerView r).toNat true)

def execLwaitTimeout (core carrel : Nat) (s : State) : Host.Outcome State Fault Refusal :=
  match parkedAt s core carrel with
  | some p => match p.why with
    | .lwait w => .next (if limitHit (s.core core).cregs.ltmo p.cycles then lateLwait s core carrel w else s)
    | _ => .next s
  | none => .next s

def execIdleTimeout (core carrel : Nat) (s : State) : Host.Outcome State Fault Refusal :=
  match parkedAt s core carrel with
  | some p => match p.why with
    | .idle n => .next (if 0 < n && n ≤ p.cycles then completeParked s core carrel id else s)
    | _ => .next s
  | none => .next s

end Sys2Proof.Machine
end

