-- ==== Sys2Proof/Machine/Link.lean ====
section
/-! DEFINITION. The scale-up links (R306 to R309): the header and the bytes of a message, link flits, the lanes with their credits, the
replay buffer, and the port that a stream uses. -/

namespace Sys2Proof.Machine

def State.port (s : State) (p : Nat) : Port := fgetD s.hub.ports p {}
def State.setPort (s : State) (p : Nat) (x : Port) : State := s.modHub fun h => { h with ports := fset h.ports p x }

/-! ### Messages (R307) -/

/-- KIND of a message (R300). -/
def LinkBody.kind : LinkBody → Nat
  | .op x => PeerOp.flitKind x
  | .resp _ => 4

/-- TAG as a flit or a link message of an operation carries it (R300, R307): for an RPUT the window index. -/
def PeerOp.tagField (op : PeerOp) (tag : Nat) : Nat := match op with
  | .rput i _ => i
  | _ => tag
def LinkBody.tagField (b : LinkBody) (tag : Nat) : Nat := match b with
  | .op x => PeerOp.tagField x tag
  | .resp _ => tag

/-- The bytes of a payload word (R42). -/
def pwordData : PWord → List Byte
  | .data w => natBytes 8 w.toNat
  | .cap v _ => natBytes 16 v.toNat

/-- The data bytes of an answer. -/
def respBytes : RemoteResp → List Byte
  | .ok d _ => d
  | _ => []

/-- The data bytes of a request: what it writes or compares. -/
def opPayload : PeerOp → List Byte
  | .msg ws _ => ws.flatMap pwordData
  | .rput _ w => pwordData w
  | .write d _ | .cellStore d _ | .spoiled d _ | .pump d => d
  | .amo _ n v _ => natBytes n v.toNat
  | .cas n e v => natBytes n e.toNat ++ natBytes n v.toNat
  | .join w _ _ | .lwait w _ | .barm w | .barb w | .barAuto w => natBytes 8 w.toNat
  | .answer _ r => respBytes r
  | .read _ | .vread _ | .barr => []

def LinkBody.bytes : LinkBody → List Byte
  | .op x => opPayload x
  | .resp r => respBytes r

/-- The link header above OPND (R307), in units of 2^44. -/
def linkFields (ddev kind dcore score tag sdev ctx : Nat) : Nat :=
  ctx % 2 ^ 16 + sdev % 2 ^ 12 * 2 ^ 20 + tag % 2 ^ 6 * 2 ^ 32 + score % 2 ^ 12 * 2 ^ 38 + dcore % 2 ^ 12 * 2 ^ 50 +
    (kind % 8 + 8) * 2 ^ 62 + ddev % 2 ^ 12 * 2 ^ 72

/-- A payload rounded up to 16 bytes (R306). -/
def padded (bs : List Byte) : List Byte := bs ++ List.replicate ((16 - bs.length % 16) % 16) 0

/-- The address that OPND is made of: for an RPUT its handler tag, for which TAG has no room. -/
def LinkMsg.operand (m : LinkMsg) : Nat := match m.body with
  | .op (.rput ..) => m.tag
  | _ => m.addr.toNat

/-- A message as a link carries it: its header, then its payload. -/
def LinkMsg.bytes (devid : Nat) (m : LinkMsg) : List Byte :=
  natBytes 16 (linkFields m.dev m.body.kind m.dcore m.score (m.body.tagField m.tag) devid m.ctx * 2 ^ 44 +
    Config.opnd m.body.kind m.operand m.body.bytes.length % 2 ^ 44) ++ padded m.body.bytes

/-! ### Lanes (R308) -/

/-- The request lane of a stream, and the lane of its answers. -/
def requestLane (core tag : Nat) : Nat := (core ^^^ tag) % 32
def answerLane (core tag : Nat) : Nat := requestLane core tag + 32

/-- The flit slots of a port's far end, and its lanes, each of which has a slot of its own. -/
def portSlots : Nat := 16384
def portLanes : Nat := 64

/-- The lane may claim one more slot: its own, or one of those that no lane has reserved. -/
def Port.canClaim (p : Port) (lane : Nat) : Bool :=
  fgetD p.used lane 0 = 0 || (p.used.map fun (_, n) => n - 1).sum < portSlots - portLanes

def Port.claim (p : Port) (lane : Nat) : Port := { p with used := fset p.used lane (fgetD p.used lane 0 + 1) }

/-- The far end returns slots of a lane. -/
def Port.credit (p : Port) (lane n : Nat) : Port := { p with used := fset p.used lane (fgetD p.used lane 0 - n) }

/-- A message of a lane has been taken here: its slot is to be returned. -/
def Port.free (p : Port) (lane : Nat) : Port := { p with freed := fset p.freed lane (fgetD p.freed lane 0 + 1) }

/-! ### Link flits (R306) -/

/-- The messages of a queue that go into a flit, at most `n` in `room` bytes, in the order of each lane; then those that stay. -/
def chooseMsgs (devid : Nat) : Nat → Nat → List Nat → Port → List LinkMsg → List LinkMsg × List LinkMsg × Port
  | _, _, _, p, [] => ([], [], p)
  | room, n, blocked, p, m :: ms =>
    let size := (m.bytes devid).length
    if 0 < n && size ≤ room && !(blocked.contains m.lane) && p.canClaim m.lane then
      let (out, left, p) := chooseMsgs devid (room - size) (n - 1) blocked (p.claim m.lane) ms
      (m :: out, left, p)
    else
      let (out, left, p) := chooseMsgs devid room n (m.lane :: blocked) p ms
      (out, m :: left, p)

/-- The bytes of a link flit: LSEQ, LACK, NMSG, CRED (a lane and its count of slots), the messages, and the CRC. -/
def linkBytes (lseq lack n lane slots : Nat) (msgs : List Byte) : List Byte :=
  let body := natBytes 2 lseq ++ natBytes 2 lack ++ natBytes 1 n ++ natBytes 1 lane ++ natBytes 2 slots ++ msgs ++
    List.replicate (240 - msgs.length) 0
  body ++ natBytes 8 (crc64 body)

/-- A port sends a flit, if it has something to send or `force` asks for an acknowledgement, and room in its replay buffer of 64. Before
it has received a flit its LACK is that of the number before the first, 0xFFFF (DESIGN CHOICE, log entry 109). -/
def sendFlit (s : State) (port : Nat) (force : Bool) : Option State :=
  let p := s.port port
  if p.down || 64 ≤ p.replay.length then none else
  let (out, left, p) := chooseMsgs s.hub.devid 240 4 [] p p.queue
  if out.isEmpty && !force then none else
  let (lane, n) := (p.freed.find? fun (_, n) => n ≠ 0).getD (0, 0)
  let n := min n 65535
  let flit : LinkFlit :=
    { lseq := p.lseq, msgs := out,
      bytes := linkBytes p.lseq ((p.expected + 65535) % 65536) out.length lane n (out.flatMap (·.bytes s.hub.devid)) }
  let p : Port := { p with lseq := (p.lseq + 1) % 65536, queue := left, replay := p.replay ++ [flit],
                           freed := if n = 0 then p.freed else fset p.freed lane (fgetD p.freed lane 0 - n) }
  some ((s.setPort port p).emit (.linkFlit port flit))

/-- A port sends what it can. -/
def drainPort (port : Nat) : Nat → State → State
  | 0, s => s
  | fuel + 1, s => match sendFlit s port false with
    | some t => drainPort port fuel t
    | none => s

/-! ### Ports (R309) -/

/-- The usable ports of a device's route mask. -/
def usablePorts (s : State) (dev : Nat) : List Nat :=
  (List.range 18).filter fun p => bitAt (fgetD s.hub.routes dev 0) p && !((s.port p).down)

/-- The core that names a message's stream: the one that made the request. -/
def LinkMsg.asker (m : LinkMsg) : Nat := if m.lane < 32 then m.score else m.dcore

/-- The port on which earlier messages of the stream are not yet acknowledged. -/
def boundPort (s : State) (m : LinkMsg) : Option Nat :=
  let same := fun (x : LinkMsg) => x.dev == m.dev && x.asker == m.asker && x.tag == m.tag && x.lane == m.lane
  (List.range 18).find? fun n =>
    let p := s.port n
    !p.down && (p.queue ++ p.replay.flatMap (·.msgs)).any same

/-- The port of a stream: the hash chooses among the usable ones, but a stream moves only once what it has sent is acknowledged. -/
def portOf (s : State) (m : LinkMsg) : Option Nat :=
  match boundPort s m with
  | some p => some p
  | none =>
    let ps := usablePorts s m.dev
    ps[Config.portHash m.dev m.asker m.tag % ps.length]?

/-- A message goes out by its stream's port; `none` without a usable one. -/
def sendLink (s : State) (m : LinkMsg) : Option State :=
  (portOf s m).map fun p => drainPort p 4 (s.setPort p { s.port p with queue := (s.port p).queue ++ [m] })

/-- An answer to a peer's request goes back on its lane of answers; without a usable port it is lost, and the peer's own limit ends the
request (R309). -/
def replyPeer (s : State) (b : Back) (r : RemoteResp) : State :=
  (sendLink s { dev := b.dev, dcore := b.core, score := b.mine, tag := b.tag, ctx := b.ctx, lane := answerLane b.core b.tag, addr := 0,
                body := .resp r }).getD s

end Sys2Proof.Machine
end

