-- ==== Sys2Proof/Machine/Network.lean ====
section
/-! DEFINITION. The torus (R300 to R305): flits and their streams, acknowledgements, what a request's answer brings about
(R102, R309), and the routing of one router (R301). -/

namespace Sys2Proof.Machine

/-! ### Flits -/

/-- The logical cores at the two ends of a flit (R300). -/
def Flit.dstCore (f : Flit) : Nat := f.dst * 16 + f.dslot
def Flit.srcCore (f : Flit) : Nat := f.src * 16 + f.sslot

/-- The flit goes toward a peer: it leaves at the hub (R300, R307). -/
def Flit.outward (f : Flit) : Bool := match f.body with
  | .remote .. => true
  | _ => false

/-- The address that a flit's body names, and its data bytes. -/
def FlitBody.operand : FlitBody → Nat × Nat
  | .space2 op _ off _ => (off, (opPayload op).length)
  | .remote a op _ => (a.toNat, (opPayload op).length)
  | .response _ r => (0, (respBytes r).length)
  | .cat m => (m.pa, m.data.length)
  | .msg .. | .ack .. => (0, 0)

/-- What OPND of a flit is made of: for an RPUT its handler tag, for which TAG has no room. -/
def Flit.operand (f : Flit) : Nat × Nat := match f.body with
  | .msg (.rput ..) _ | .remote _ (.rput ..) _ => (f.tag, f.body.operand.2)
  | b => b.operand

/-- TAG of a flit (R300): for an RPUT the window index. -/
def Flit.tagField (f : Flit) : Nat := match f.body with
  | .msg (.rput i _) _ => i
  | .remote _ op _ => PeerOp.tagField op f.tag
  | _ => f.tag

/-- The header of a flit (R300); OPND, where an RPUT's handler tag has its place too (log entry 110), is the implementation's. Within the module the engines and the pumps send no
flits (DESIGN CHOICE, log entry 95). -/
def Flit.header (f : Flit) : Nat :=
  let ctx := if f.peer then f.dev % 2 ^ 12 else f.ctx % 2 ^ 16
  f.age % 2 ^ 10 * 2 ^ 118 + f.colour % 2 ^ 8 * 2 ^ 110 + f.peer.toNat * 2 ^ 109 + f.kind % 8 * 2 ^ 106 + f.dst % 2 ^ 8 * 2 ^ 98 +
    f.dslot % 2 ^ 4 * 2 ^ 94 + f.src % 2 ^ 8 * 2 ^ 86 + f.sslot % 2 ^ 4 * 2 ^ 82 + f.tagField % 2 ^ 6 * 2 ^ 76 + f.seq % 2 ^ 16 * 2 ^ 60 +
    ctx * 2 ^ 44 + Config.opnd f.kind f.operand.1 f.operand.2 % 2 ^ 44

/-- The hub injected the flit on behalf of a peer (R300, R307). -/
def Flit.fromPeer (f : Flit) : Bool := f.peer && !f.outward

/-- The router of a cluster: the control cores stand at the hub, whose router theirs is (R9, R300; DESIGN CHOICE, log entry 13). -/
def routerOf (cluster : Nat) : Nat := if cluster < 256 then cluster else Config.hubRouter % 256

/-- The router where the flit leaves the torus. -/
def Flit.target (f : Flit) : Nat := if f.outward then Config.hubRouter % 256 else routerOf f.dst

/-- A flit enters the torus at its own router. -/
def inject (s : State) (f : Flit) : State := { s with flits := s.flits ++ [f] }

/-- Two flits belong to one core stream that the hub sends for a peer (R302). -/
def Flit.sameStream (f g : Flit) : Bool :=
  g.fromPeer && f.dev == g.dev && f.srcCore == g.srcCore && f.dstCore == g.dstCore &&
  match f.body, g.body with
  | .msg .., .msg .. => f.tag == g.tag
  | .space2 .., .space2 .. => f.kind == g.kind
  | _, _ => false

/-- The partition of a core that is switched out, or back with traffic still held (R311, R314, R315). -/
def partitionOut (s : State) (ctx core : Nat) : Option Partition :=
  s.hub.partitions.find? fun p => p.ctx == ctx && (if p.isOut then p.shadow.any (·.1 == core) else !p.held.isEmpty)

/-- An RPUT or a space-2 access is acknowledged once it is held, a message only when it is accepted (R302). -/
def ackedWhenHeld (f : Flit) : Bool := match f.body with
  | .msg (.msg ..) _ => false
  | _ => true

/-- The destination's number for the stream of a flit that it receives (R302); `none` for a flit of no core stream. -/
def Flit.stream (f : Flit) : Option Nat :=
  let base := (f.ctx * 4096 + f.dev) * 4096 + f.srcCore
  match f.body with
  | .msg .. => some (base * 128 + f.tag)
  | .space2 op .. => if PeerOp.streamed op then some (base * 128 + 64) else none
  | _ => none

/-- Flit `g` carries to the hub what became of a flit of the stream of `f`: it names the stream by its number and 1. -/
def answersStream (f g : Flit) : Bool := match g.body with
  | .remote _ (.answer ..) n => f.stream.map (· + 1) == some n && g.srcCore == f.dstCore
  | _ => false

/-- A flit of a peer waits at the hub until the earlier flits of its stream have been taken (R302); the hub numbers the flits
of each stream that it sends for peers in the order of their arrival. -/
def hubHolds (s : State) (f : Flit) : Bool :=
  let first := fun (g : Flit) => f.sameStream g && 1 ≤ (f.seq + 65536 - g.seq) % 65536 && (f.seq + 65536 - g.seq) % 65536 < 32768
  let unacked := fun (g : Flit) => first g && !(ackedWhenHeld g)
  f.fromPeer && !f.transit &&
  ((s.flits.any fun g => first g || answersStream f g) || (s.clusters.any fun (_, k) => k.arrived.any first || k.held.any unacked) ||
   s.hub.partitions.any fun p => p.held.any unacked)
/-- The flit is a duplicate of the last that the destination took from its stream (R302). -/
def duplicate (s : State) (f : Flit) : Bool := match f.stream with
  | some n => fget (s.core f.dstCore).seen n == some f.seq
  | none => false

/-- The destination has taken the flit from its stream for good. -/
def markSeen (s : State) (f : Flit) : State := match f.stream with
  | some n => s.modCore f.dstCore fun k => { k with seen := fset k.seen n f.seq }
  | none => s

/-! ### Acknowledgements and answers -/

/-- The acknowledgement or refusal of a message flit (R302). -/
def ackFlit (f : Flit) (refused : Bool) (notice : Option Nat) : Flit :=
  { colour := f.colour, kind := 4, dst := f.src, dslot := f.sslot, src := f.dst, sslot := f.dslot, tag := f.tag, ctx := f.ctx,
    at_ := f.dst, body := .ack f.srcCore f.dstCore f.tag refused notice }

/-- The mark, in the place of a tag, of an acknowledgement that is about a held space-2 access. -/
def heldMark : Nat := 64

/-- The acknowledgement of a space-2 access that is held (R302): its stream goes on, its answer comes once it is performed. -/
def heldAck (f : Flit) : Flit := { ackFlit f false none with seq := f.seq, body := .ack f.srcCore f.dstCore heldMark false none }

/-- The answer to a flit of a peer goes over the torus to the hub (R300, R307), which is its sender and forwards it. -/
def peerAnswer (f : Flit) (r : RemoteResp) : Flit :=
  { colour := f.colour, kind := 4, peer := true, dst := f.src, dslot := f.sslot, src := f.dst, sslot := f.dslot, tag := f.tag, ctx := f.ctx,
    dev := f.dev, at_ := f.dst, body := .remote 0 (.answer 0 r) ((f.stream.map (· + 1)).getD 0) }

/-- The destination tells the sender what became of a message: its network interface, or the peer whose hub sent it. -/
def tellSender (s : State) (f : Flit) (refused : Bool) (notice : Option Nat) : State :=
  let s := if refused then s else markSeen s f
  if f.fromPeer then inject s (peerAnswer f (match notice with | some c => .refused c | none => if refused then .retry else .ok [] false))
  else inject s (ackFlit f refused notice)

/-- The answer to a space-2 request goes back (R150). -/
def reply (s : State) (f : Flit) (req : Nat) (r : RemoteResp) : State :=
  let s := markSeen s f
  if f.fromPeer then inject s (peerAnswer f r)
  else inject s { colour := f.colour, kind := 4, dst := f.src, dslot := f.sslot, src := f.dst, sslot := f.dslot, ctx := f.ctx,
                  at_ := f.dst, body := .response req r }

/-- The cause by which a failed drained access is reported on tag 63 (R102, R127); none for success. -/
def failCause : RemoteResp → Option Nat
  | .ok .. | .retry => none
  | .error => some 0x381
  | .poison => some 0x382
  | .refused c => some c

/-- A drained access that another agent carried out is over (R102, R336): a failure is a notice; a count that broke its
barrier object is 0x282. -/
def entryAnswer (s : State) (core id : Nat) (addr : Word) (r : RemoteResp) : State :=
  match (s.core core).queue.find? fun e => e.id == id with
  | none => s
  | some e =>
    let t := runDone s core id
    match failCause r, r, e.eff with
    | some c, _, _ => postNotice t core c 0 addr e.pc
    | none, .ok (b :: _) _, .barb .. => if b ≠ 0 then postNotice t core 0x282 0 addr e.pc else t
    | none, _, _ => t

/-- The tag or index that a notice about a message names (R127). -/
def OutMsg.field (m : OutMsg) (cause : Nat) : Nat :=
  match cause, m.body with
  | 0x243, .rput i _ => i
  | 0x241, _ => m.tag
  | _, _ => 0

/-- A message is over, or has to be sent again (R29, R302): `p` picks it among those in flight. -/
def messageOver (s : State) (core : Nat) (p : OutMsg → Bool) (refused : Bool) (notice : Option Nat) : State :=
  match findIdx (fun m => m.inFlight && p m) (s.core core).out with
  | none => s
  | some n =>
    if refused then
      s.modCore core fun k => { k with out := modAt k.out n fun m => { m with inFlight := false, refused := true, again := true, req := none } }
    else
      let t := s.modCore core fun k => { k with out := dropAt k.out n }
      match notice, (s.core core).out[n]? with
      | some c, some m => postNotice t core c (m.field c) (BitVec.ofNat 64 m.dest) m.pc
      | _, _ => t

/-- The command that a channel accepted last was placed by a SIPH node, which sends no notice (R229), and its descriptor's
address. -/
def Channel.quiet (ch : Channel) : Bool := match ch.last with
  | some (.siph c) => c.node.isSome
  | _ => false
def Channel.desc (ch : Channel) : Word := match ch.last with
  | some (.siph c) => c.desc
  | some (.gath c) => c.desc
  | none => 0

/-- A notice of a channel's command, under its channel number (R125, R229). -/
def siphNotice (s : State) (core ch cause : Nat) (c2 : Word) : State :=
  let x := (s.core core).chan ch
  if x.quiet then s else postNotice s core cause ch c2 x.pc

/-- A channel's barrier is unusable (R200): the notice, and no further count. -/
def barUnusable (s : State) (core ch : Nat) : State :=
  let x := (s.core core).chan ch
  (siphNotice s core ch 0x1C1 x.desc).modCore core fun k => k.setChan ch { k.chan ch with barOff := true }

/-- A siphon count broke its object (R200). -/
def siphBroke (s : State) (core ch : Nat) (addr : Word) : State :=
  let x := (s.core core).chan ch
  if x.quiet then s else postNotice s core 0x282 0 addr x.pc

/-- The answer to a siphon's count on another core (R200). -/
def siphBarAnswer (s : State) (core ch : Nat) (addr : Word) (r : RemoteResp) : State :=
  match r with
  | .ok (b :: _) _ => if b ≠ 0 then siphBroke s core ch addr else s
  | .ok [] _ | .retry => s
  | .error | .poison | .refused _ => barUnusable s core ch

/-- A request is answered (R102): a drained access or a message is over; any other user finds the answer when it looks. -/
def answer (s : State) (id : Nat) (r : RemoteResp) : State :=
  match s.reqs.find? fun q => q.id == id with
  | none => s
  | some q =>
    if q.resp.isSome then s else
    match q.user, r with
    | .message core _ _, _ => messageOver (dropReq s id) core (fun m => m.req == some id) (r == .retry) (failCause r)
    | .entry core _, .retry | .access core _ _, .retry | .siphRead core _ _, .retry | .siphWrite core _ _, .retry
    | .siphBar core _, .retry
    | .barr core _, .retry | .lwait core _, .retry =>
      s.modCore core fun k => { k with refused := k.refused ++ q.sent.toList }
    | .access core carrel l, _ =>
      -- an access that has been given up takes no answer
      if ((s.carrel core carrel).loads.any fun x => x.id == l) then
        { s with reqs := s.reqs.map fun x => if x.id = id then { x with resp := some r } else x }
      else dropReq s id
    | .siphBar core ch, _ => siphBarAnswer (dropReq s id) core ch q.addr r
    | .entry core e, _ => entryAnswer (dropReq s id) core e q.addr r
    | _, _ => { s with reqs := s.reqs.map fun x => if x.id = id then { x with resp := some r } else x }

/-- A request fails without an answer (R309): loads meet the mark of 0x381, drained accesses and messages the notice 0x383. -/
def unreachable (s : State) (id : Nat) : State :=
  match s.reqs.find? fun q => q.id == id with
  | some q => match q.user with
    | .message .. | .entry .. => answer s id (.refused 0x383)
    | _ => answer s id .error
  | none => s

/-! ### The way to a peer (R307, R309) -/

/-- A message goes out, or, without a usable port, its request fails; the answer to a peer's request is lost, and the peer's own limit
ends that request (R309). -/
def linkOut (s : State) (m : LinkMsg) : State :=
  (sendLink s m).getD (match m.req with
    | some r => unreachable s r
    | none => s)

/-- A flit toward a peer leaves the module with the link header that the hub forms from it (R307), an answer on its lane of answers. -/
def leave (s : State) (f : Flit) (addr : Word) (op : PeerOp) (req : Nat) : State :=
  match op with
  | .answer _ r => replyPeer s { dev := f.dev, core := f.dstCore, mine := f.srcCore, tag := f.tag, ctx := f.ctx } r
  | op => linkOut s { dev := f.dev, dcore := f.dstCore, score := f.srcCore, tag := f.tag, ctx := f.ctx,
                      lane := requestLane f.srcCore f.tag, addr := addr, body := .op op, req := some req }

/-! ### Leaving the torus -/

/-- The end at which a catalogue message is received is a home (R156). -/
def CatKind.toHome : CatKind → Bool
  | .gets | .geto | .uncr | .uncw | .evn | .iack | .fack | .dack => true
  | _ => false

/-- The catalogue flits that leave a reorder buffer in order of SEQ (R302), with the next SEQ expected. -/
def inOrder (same : Flit → Bool) : Nat → Nat → List Flit → List Flit × Nat × List Flit
  | 0, next, buf => ([], next, buf)
  | fuel + 1, next, buf =>
    match buf.find? fun f => same f && f.seq == next with
    | none => ([], next, buf)
    | some f =>
      let (out, n, rest) := inOrder same fuel ((next + 1) % 65536) (buf.filter fun g => !(g == f))
      (f :: out, n, rest)

/-- The place of a catalogue stream in the order table of the cluster where it ends (R302): the homes, then the clusters. -/
def CatMsg.orderKey (m : CatMsg) : Nat := if m.kind.toHome then 256 + m.cluster else m.die
def Flit.orderKey (f : Flit) : Option Nat := match f.body with
  | .cat m => some m.orderKey
  | _ => none

/-- A catalogue flit reaches the cluster of its home, or its own (R302): in order it is taken, early it waits in the reorder buffer of
64; `none` when the buffer is full. -/
def takeCat (s : State) (f : Flit) (m : CatMsg) : Option State :=
  let at_ := if m.kind.toHome then homeAt m.die else m.cluster
  let k := s.cluster at_
  let next := fgetD k.order m.orderKey 0
  if f.seq = next then
    let (out, n, rest) := inOrder (fun g => g.orderKey == some m.orderKey) 64 ((next + 1) % 65536) k.reorder
    let out := f :: out
    let k := { k with order := fset k.order m.orderKey n, reorder := rest }
    some (if m.kind.toHome then
        (s.setCluster at_ k).modDie m.die fun d => { d with inbox := d.inbox ++ out.filterMap fun g => match g.body with
          | .cat x => some x
          | _ => none }
      else s.setCluster at_ { k with arrived := k.arrived ++ out })
  else if k.reorder.length < 64 then some (s.setCluster at_ { k with reorder := k.reorder ++ [f] })
  else none

/-- A flit leaves the torus at its target; `none` when it has to go on (R302). -/
def eject (s : State) (f : Flit) : Option State :=
  match f.body with
  | .cat m => takeCat s f m
  | .response r x => some (answer s r x)
  | .remote a op r => some (leave s f a op r)
  | _ => some (s.modCluster f.dst fun k => { k with arrived := k.arrived ++ [f] })

/-! ### Routing (R301) -/

/-- The neighbour behind port 0 to 3 of a router, and its distance to a target. -/
def neighbour (k p : Nat) : Nat :=
  let x := torusX k
  let y := torusY k
  let (x, y) := match p with
    | 0 => ((x + 1) % 16, y)
    | 1 => ((x + 15) % 16, y)
    | 2 => (x, (y + 1) % 16)
    | _ => (x, (y + 15) % 16)
  (x / 8 + 2 * (y / 8)) * 64 + y % 8 * 8 + x % 8
def distance (a b : Nat) : Nat := ringDist (torusX a) (torusX b) + ringDist (torusY a) (torusY b)

/-- Oldest first (R301). -/
def older (f g : Flit) : Bool :=
  g.age < f.age || (f.age == g.age && (f.src < g.src || (f.src == g.src && f.sslot < g.sslot)))
def insertFlit (f : Flit) : List Flit → List Flit
  | [] => [f]
  | g :: gs => if older f g then f :: g :: gs else g :: insertFlit f gs

/-- The port that a flit gets of those that are free: one that shortens its way if there is one, else any other. Which of several it is,
the manual leaves open. -/
def choosePort (k key : Nat) (free : List Nat) (f : Flit) : Option Nat :=
  let near := free.filter fun p => distance (neighbour k p) f.target < distance k f.target
  let cands := if near.isEmpty then free else near
  cands[Config.portChoice key f.target % cands.length]?

/-- The flit as it stands at the neighbour behind a port. -/
def Flit.hop (f : Flit) (k p : Nat) : Flit := { f with at_ := neighbour k p, transit := true, moved := true }

/-- Each flit under way gets a port in the order of R301; the ports that stay free. A router has as many inputs as outputs, so every one
gets a port. -/
def assign (k key : Nat) : List Nat → List Flit → List Flit × List Nat
  | free, [] => ([], free)
  | free, f :: fs =>
    match choosePort k key free f with
    | none => let (out, free) := assign k key free fs; (f :: out, free)
    | some p => let (out, left) := assign k key (free.filter (· ≠ p)) fs; (f.hop k p :: out, left)

/-- The flits of a router that leave the torus there, in their order; the others go on. -/
def ejectAll (s : State) : List Flit → State × List Flit
  | [] => (s, [])
  | f :: fs =>
    match (if f.target = f.at_ then eject s f else none) with
    | some t => ejectAll t fs
    | none =>
      let (t, rest) := ejectAll s fs
      (t, f :: rest)

/-- The one flit that a router injects in a cycle: the first that waits there. One for the router's own cluster needs no port; another
needs one that is free (R301). -/
def injectOne (s : State) (k : Nat) (free : List Nat) : State :=
  let fits := fun (f : Flit) => routerOf f.at_ == k && !f.transit && !f.moved && !(hubHolds s f) && (f.target == k || !free.isEmpty)
  match s.flits.find? fits with
  | none => s
  | some f =>
    let t := { s with flits := s.flits.erase f }
    match (if f.target = k then eject t f else none), choosePort k s.cycle free f with
    | some u, _ => u
    | none, some p => { t with flits := t.flits ++ [f.hop k p] }
    | none, none => s

/-- One cycle of a router (R301): the flits under way leave or go on, oldest first; then one may be injected. -/
def routeStep (s : State) (k : Nat) : State :=
  if (s.cluster k).routed then s else
  let here := fun (f : Flit) => f.at_ == k && f.transit && !f.moved
  let old := (s.flits.filter here).foldl (fun l f => insertFlit f l) []
  let (t, rest) := ejectAll { s with flits := s.flits.filter fun f => !(here f) } old
  let (out, free) := assign k s.cycle [0, 1, 2, 3] rest
  injectOne ({ t with flits := t.flits ++ out }.modCluster k fun c => { c with routed := true }) k free

/-- A cycle does not end before every router has sent out what is under way there. -/
def routeAll (s : State) : State :=
  (((s.flits.filter fun f => f.transit && !f.moved).map (·.at_)).eraseDups).foldl routeStep s

/-- The next cycle begins for the torus. -/
def routersFree (s : State) : State :=
  { s with flits := s.flits.map fun f => { f with moved := false },
           clusters := s.clusters.map fun (n, k) => (n, { k with routed := false }) }

end Sys2Proof.Machine
end

