-- ==== Sys2Proof/Machine/EvMsg.lean ====
section
/-! DEFINITION. Messages and remote register writes on their way (R28 to R31, R59, R302): injection, arrival, acknowledgement
and retry. -/

namespace Sys2Proof.Machine

/-- One spelling of a destination: device id 0xFFF for this module (R54). -/
def canonDest (s : State) (dest : Nat) : Nat := if s.isOwnDev (destDev dest) then 0xFFF * 2 ^ 16 + destCore dest else dest

/-- The stream of a message: destination core and tag (R31, R302). -/
def OutMsg.stream (s : State) (m : OutMsg) : Nat := msgStream m.ctx (canonDest s m.dest) m.tag

/-- No earlier message of its stream waits in the network interface. -/
def firstOfStream (s : State) (out : List OutMsg) (idx : Nat) (m : OutMsg) : Bool :=
  !((out.take idx).any fun x => x.stream s == m.stream s)

/-- A message of a core enters the torus: toward a core of this module, or as a request toward a peer (R300). One that is sent again keeps
its SEQ (R302). -/
def sendMsg (s : State) (core idx : Nat) (m : OutMsg) : State :=
  let dst := destCore m.dest
  let (s, q) := if m.again then (s, m.seq) else takeSeq s core (m.stream s)
  let own := s.isOwnDev (destDev m.dest)
  let (t, r) := if own then (s, none) else
    let (t, r) := newReq s (.message core m.dest m.tag) (BitVec.ofNat 64 m.dest) true
    (t, some r)
  let body : FlitBody := match r, m.body with
    | none, b => .msg b m.score
    | some r, .msg ws kind => .remote (BitVec.ofNat 64 m.dest) (.msg ws kind) r
    | some r, .rput i w => .remote (BitVec.ofNat 64 m.dest) (.rput i w) r
  let f : Flit := { colour := s.colourOf m.ctx, kind := match m.body with | .msg .. => 0 | .rput .. => 1, peer := !own,
                    dst := clusterOf dst, dslot := slotOf dst, src := clusterOf core, sslot := slotOf core, tag := m.tag,
                    seq := q, ctx := m.ctx, dev := if own then 0xFFF else destDev m.dest, at_ := clusterOf core, body := body }
  let mark := fun (m : OutMsg) => { m with inFlight := true, refused := false, req := r, seq := q }
  let u := t.modCore core fun k => { k with out := modAt k.out idx mark }
  match r with
  | none => inject u f
  | some r => sendReq u r f

def execMessageInject (core idx : Nat) (s : State) : Host.Outcome State Fault Refusal :=
  let k := s.core core
  match k.out[idx]? with
  | some m => .next (if !m.inFlight && !m.refused && firstOfStream s k.out idx m then sendMsg s core idx m else s)
  | none => .next s

/-- The sender sends again what was refused (R29): a message or remote register write of its network interface, or, past
those, a space-2 access. -/
def execMessageRetry (core idx : Nat) (s : State) : Host.Outcome State Fault Refusal :=
  let k := s.core core
  match k.out[idx]? with
  | some m => .next (if m.refused && firstOfStream s k.out idx m then sendMsg s core idx m else s)
  | none => match k.refused[idx - k.out.length]? with
    | some f => .next (inject (s.setCore core { k with refused := dropAt k.refused (idx - k.out.length) }) { f with age := 0, transit := false, moved := false, at_ := f.src })
    | none => .next s

/-! ### Arrival -/

/-- What becomes of an arriving message. -/
inductive Arrival where
  | taken (s : State)
  /-- held by the router or the hub, and taken later -/
  | held (s : State)
  /-- refused for now: it is sent again -/
  | refused
  /-- discarded, with a notice to the sender -/
  | notice (cause : Nat)
  /-- a notice that nobody takes: discarded without another notice -/
  | dropped (s : State)

/-- The cluster that holds what is addressed to a core: its own, or that of its twin, which takes a copy, while the slot there is being
reshelved (R289, R290). -/
def heldAt (s : State) (core : Nat) : Option Nat :=
  ((core :: (s.core core).twin.toList).find? fun c => (s.cluster (clusterOf c)).reshelve.any fun r => r.slot == slotOf c).map clusterOf

/-- The holding areas of a slot that is being reshelved (R290, 256) and of a partition that is out (R315, 1,024). -/
def holdFlit (s : State) (f : Flit) : Option Arrival :=
  match partitionOut s f.ctx f.dstCore with
  | some p =>
    some (if 1024 ≤ p.held.length then .refused
    else .held (s.modHub fun h => { h with partitions := h.partitions.map fun q =>
      if q.ctx = f.ctx then { q with held := q.held ++ [f] } else q }))
  | none =>
    match heldAt s f.dstCore with
    | some c =>
      if 256 ≤ (s.cluster c).held.length then some .refused
      else some (.held (s.modCluster c fun k => { k with held := k.held ++ [f] }))
    | none => none

/-- The core is one of a launch of the context (R49, R50). -/
def inBayOf (s : State) (ctx core : Nat) : Bool := (s.core core).ctx == ctx && (s.core core).twinOf.isNone && (s.core core).bay.isSome

/-- A notice that tag 63 does not take: an error notice is reported to the resident OS and taints the verdict (R28). -/
def lostNotice (s : State) (core : Nat) (ws : List PWord) : State :=
  let w := fun n => (pwordCap (ws.getD n (.data 0))).data
  let cause := bitsAt (w 0).toNat 0 10
  if cause = 0 then s else (s.taint core).tellOs (.osNotice core cause (w 1) (w 2))

/-- Acceptance (R29): the message enters the inbox, stamped with SEQ, and counts in PEND. -/
def takeMessage (k : Core) (cyc : Nat) (f : Flit) (score : Nat) (ws : List PWord) (kind : Nat) : Core :=
  let (id, k) := k.wakeIdles.fresh
  let h := k.tagOf f.tag
  let e : InboxEnt := { id := id, tag := f.tag, seq := h.seq, kind := kind, sdev := f.dev, score := score, words := ws,
                        cyc := cyc, fresh := true }
  ({ k with inbox := k.inbox ++ [e] } : Core).setTag f.tag { h with seq := (h.seq + 1) % 65536, pend := h.pend + 1 }

/-- The core and, under paired dispatch, its twin, which takes a copy (R283). -/
def withTwin (s : State) (core : Nat) : List Nat := core :: (s.core core).twin.toList

/-- The offer of a message to its core (R28, R29, R49, R50). -/
def offerMsg (s : State) (f : Flit) (score : Nat) (ws : List PWord) (kind : Nat) : Arrival :=
  let c := f.dstCore
  let k := s.core c
  let h := k.tagOf f.tag
  if !(inBayOf s f.ctx c) then (if f.tag = 63 then .dropped (lostNotice s c ws) else .notice 0x242) else
  if unbacked s c then .notice 0x301 else
  if !h.inst then (if f.tag = 63 then .dropped (lostNotice s c ws) else .notice 0x241) else
  let full := fun c => 255 ≤ ((s.core c).tagOf f.tag).pend || 512 ≤ (s.core c).inbox.length
  if (withTwin s c).any full then .refused
  else .taken ((withTwin s c).foldl (fun s c => s.modCore c fun k => takeMessage k s.cycle f score ws kind) s)

/-- The carrel that an RPUT writes (R43, R59): of the activations of the tag that are Running, Parked or Runtime, the earliest
in SEQ order (R32). -/
def rputCarrel (k : Core) (tag : Nat) : Option Nat :=
  let live := (List.range 8).filter fun i => let c := k.carrel i
    c.tag == tag && (c.st == .running || c.st == .parked || c.st == .runtime)
  live.foldl (fun o i => match o with
    | none => some i
    | some j =>
      let d := ((k.carrel j).aseq + 65536 - (k.carrel i).aseq) % 65536
      if 1 ≤ d && d ≤ 32767 then some i else some j) none

/-- An RPUT takes effect on a core (R59, R281): in the register, recorded for a replay while the activation is replayable, or
held in an inbox entry. -/
def takeRput (k : Core) (tag index : Nat) (w : PWord) : Core :=
  match rputCarrel k tag with
  | some i =>
    let c := k.carrel i
    let rec_ := fun (e : InboxEnt) => if e.id = c.entry && !c.nr then { e with rputs := fset e.rputs index w } else e
    ({ k with inbox := k.inbox.map rec_ } : Core).setCarrel i (c.rput index w).wakeIdle
  | none =>
    let (id, k) := k.fresh
    { k with inbox := k.inbox ++ [{ id := id, tag := tag, held := some (index, w) }] }

/-- The register that an RPUT would write is a bound stream register. -/
def rputBound (k : Core) (tag index : Nat) : Bool :=
  match rputCarrel k tag with
  | some i => ((k.carrel i).stream (BitVec.ofNat 6 (32 + index))).isSome
  | none => false

/-- The offer of an RPUT to its core (R50, R59). -/
def offerRput (s : State) (f : Flit) (index : Nat) (w : PWord) : Arrival :=
  let c := f.dstCore
  let k := s.core c
  if !(inBayOf s f.ctx c) then .notice 0x242 else
  if unbacked s c then .notice 0x301 else
  if !(k.tagOf f.tag).inst then .notice 0x241 else
  if rputBound k f.tag index then .notice 0x243 else
  let full := fun c => (rputCarrel (s.core c) f.tag).isNone && 512 ≤ (s.core c).inbox.length
  if (withTwin s c).any full then .refused
  else .taken ((withTwin s c).foldl (fun s c => s.modCore c fun k => takeRput k f.tag index w) s)

/-- The flit `idx` that has arrived at a cluster is dealt with. A refused one from a peer stays with the hub, which is its
sender on the torus. -/
def settle (s : State) (cluster idx : Nat) (f : Flit) (a : Arrival) : State :=
  let gone := fun (t : State) => t.modCluster cluster fun k => { k with arrived := dropAt k.arrived idx }
  match a with
  | .taken t | .dropped t => tellSender (gone t) f false none
  | .held t => if ackedWhenHeld f then tellSender (gone t) f false none else gone t
  | .notice c => tellSender (gone s) f false (some c)
  | .refused => if f.fromPeer then s else tellSender (gone s) f true none

/-- The offer of a message flit to its core. -/
def offer (s : State) (f : Flit) : Arrival :=
  match f.body with
  | .msg (.msg ws kind) score => offerMsg s f score ws kind
  | .msg (.rput i w) _ => offerRput s f i w
  | _ => .refused

/-- An arriving message flit: held where its slot or partition is away, else offered. A duplicate is acknowledged and has no effect
(R302). -/
def arrive (s : State) (cluster idx : Nat) (f : Flit) : State :=
  settle s cluster idx f (if duplicate s f then .taken s else (holdFlit s f).getD (offer s f))

/-- A held message flit is offered again when its slot or partition is back (R289, R314): the state, or none while it still
has to be held. -/
def release (s : State) (f : Flit) : Option State :=
  match (holdFlit s f).getD (offer s f) with
  | .taken t | .dropped t => some (if ackedWhenHeld f then t else tellSender t f false none)
  | .notice c =>
    some (if ackedWhenHeld f && !f.fromPeer then
        postNotice s f.srcCore c (match f.body with | .msg (.rput i _) _ => if c = 0x243 then i else if c = 0x241 then f.tag else 0 | _ => 0)
          (BitVec.ofNat 64 (0xFFF * 2 ^ 16 + f.dstCore)) 0
      else tellSender s f false (some c))
  | .held t => some t
  | .refused => if ackedWhenHeld f || f.fromPeer then none else some (tellSender s f true none)

def execMessageArrival (cluster idx : Nat) (s : State) : Host.Outcome State Fault Refusal :=
  match (s.cluster cluster).arrived[idx]? with
  | some f => match f.body with
    | .msg (.msg ..) _ => .next (arrive s cluster idx f)
    | _ => .next s
  | none => .next s

def execRputArrival (cluster idx : Nat) (s : State) : Host.Outcome State Fault Refusal :=
  match (s.cluster cluster).arrived[idx]? with
  | some f => match f.body with
    | .msg (.rput ..) _ => .next (arrive s cluster idx f)
    | _ => .next s
  | none => .next s

/-- The destination holds a space-2 access of a core (R302): the core's stream there is free for the next. -/
def markHeld (s : State) (core dest seq : Nat) : State :=
  let mine := fun (f : Flit) => f.srcCore == core && f.dstCore == dest && f.seq == seq && match f.body with
    | .space2 op .. => PeerOp.streamed op
    | _ => false
  { s with reqs := s.reqs.map fun q => if q.sent.any mine then { q with held := true } else q }

/-- An acknowledgement or a refusal reaches the sender (R302). -/
def execStreamAck (cluster idx : Nat) (s : State) : Host.Outcome State Fault Refusal :=
  match (s.cluster cluster).arrived[idx]? with
  | some f => match f.body with
    | .ack core dest tag refused notice =>
      let t := s.modCluster cluster fun k => { k with arrived := dropAt k.arrived idx }
      .next (if tag = heldMark then markHeld t core dest f.seq else messageOver t core (fun m => m.tag == tag && destCore m.dest == dest && s.isOwnDev (destDev m.dest)) refused notice)
    | _ => .next s
  | none => .next s

end Sys2Proof.Machine
end

