-- ==== Sys2Proof/Machine/EvCommit.lean ====
section
/-! DEFINITION. COMMIT_ENTRY_PERFORM (R166, R394): a commit-queue entry takes effect. Entries of the siphon, the engine, the
barriers and the cisterns have events of their own. -/

namespace Sys2Proof.Machine

/-- A drained message stands in the core's network interface (R29, R302). -/
def postEntry (s : State) (core : Nat) (e : Entry) (dest tag : Nat) (b : MsgBody) : State :=
  let m : OutMsg := { dest := dest, tag := tag, body := b, drain := e.drain, ctx := e.ctx, score := core, pc := e.pc }
  (dropEntry s core e.id).modCore core fun k => { k with out := k.out ++ [m] }

/-- The carrel that still runs the activation of an entry. -/
def entryCarrel (k : Core) (e : Entry) : Option Nat :=
  (List.range 8).find? fun i => (k.carrel i).st != .free && (k.carrel i).act == e.act

/-- An entry that fails its ECC check at its drain (R278): it has no effect; its activation consumes the error before its next word, at
once where every earlier load is over (R122), or, when it has ended or halted, the launch's verdict is tainted. -/
def entryEcc (s : State) (core : Nat) (e : Entry) : State :=
  let t := dropEntry s core e.id
  match entryCarrel (s.core core) e with
  | none => t.taint core
  | some i =>
    let c := s.carrel core i
    if c.st == .halted then t.taint core else
    let u := t.setCarrel core i (if c.st == .parked then c.awake else c)
    if c.settled then consumeError u core i 0 else u.modCarrel core i fun c => { c with owes := true }

/-- An entry takes effect, or asks for what it needs. -/
def performEntry (s : State) (core : Nat) (e : Entry) : State :=
  match e.eff with
  | .store cells tag => performRun s core e cells tag
  | .amo l op size v => match l with
    | .mem pa => amoRun s core pa op size v e
    | .scr c r o =>
      if c = core then runDone (amoScr s core r o op size v) core e.id else sendEntry s core e l (.amo op size v false)
    | _ => sendEntry s core e l (.amo op size v false)
  | .marker => dropEntry s core e.id
  | .send dest tag ws => postEntry s core e dest tag (.msg ws 0)
  | .rput dest tag i w => postEntry s core e dest tag (.rput i w)
  | .tagctl k op => (dropEntry s core e.id).modCore core fun x => applyTagctl x k op
  | .peer ga op => sendEntry s core e (.peer ga.toNat) op
  | _ => s

def execCommitEntryPerform (core idx : Nat) (s : State) : Host.Outcome State Fault Refusal :=
  match (s.core core).queue[idx]? with
  | some e =>
    if e.sent.isSome || !(eligible s core idx e) then .next s
    else if e.ecc then .next (entryEcc s core e)
    else .next (performEntry s core e)
  | none => .next s

end Sys2Proof.Machine
end

