-- ==== Sys2Proof/Machine/EvMemory.lean ====
section
/-! DEFINITION. Loads that return (R164), fills of an L1F (R136), soft errors (R145, R278), accesses of other cores and
modules to a scratchpad (R150), and the answers to this module's own requests (R102, R309). -/

namespace Sys2Proof.Machine

/-! ### LOAD_COMPLETE -/

/-- Some folio that is still filling meets the extent of a prefetch. -/
def stillFilling (s : State) (core : Nat) (e : LElem) : Bool :=
  let ends := e.want.filterMap fun (_, p) => match p with | .mem pa => some pa | _ => none
  let lo := minOf ends
  let hi := maxOf ends + 1
  let hit := fun (c : Cache) => c.folios.any fun f =>
    f.isFor false (lo / 4096) && f.st == .filling && f.meets (lo % 4096) (lo % 4096 + (hi - lo))
  hit (s.core core).l1 || hit (s.cluster (clusterOf core)).l2

/-- An access that has read everything may end: one that consumes an error waits for the loads before it (R122). -/
def mayFinish (c : Carrel) (l : Outst) : Bool :=
  match firstPoison l with
  | none => true
  | some _ => match l.dest with
    | .stream .. => true
    | _ => c.loads.all fun x => l.id ≤ x.id || match x.dest with
      | .reg .. | .ext .. | .vec _ => false
      | _ => true

/-- The access as it stands in its carrel's list. -/
def putLoad (s : State) (core carrel : Nat) (l : Outst) : State :=
  s.modCarrel core carrel fun c => { c with loads := c.loads.map fun x => if x.id = l.id then l else x }

/-- An access ends, or waits with what it has. -/
def endLoad (s : State) (core carrel : Nat) (l : Outst) : State :=
  if l.elems.isEmpty && mayFinish (s.carrel core carrel) l then finishLoad s core carrel l else putLoad s core carrel l

/-- An atomic access that meets a faulted siphon command of its own commit traps at its word (R190), once the loads before it are over. -/
def trapAtomic (s : State) (core carrel : Nat) (l : Outst) (x : Word) : State :=
  let settled := (s.carrel core carrel).loads.all fun y => l.id ≤ y.id || y.dest == .none
  let rec_ := fun (y : SyncRec) => if y.pending = some l.id then { y with pending := none, trap := some (0x1C4, x) } else y
  if settled then
    takeTrap ((rollback s core carrel l).modCarrel core carrel fun c => { c with sync := c.sync.map rec_ }) core carrel 0x1C4 x
  else s

/-- An outstanding access goes on. -/
def advanceLoad (s : State) (core carrel : Nat) (l : Outst) : State :=
  match l.dest with
  | .none => if l.elems.any (stillFilling s core) then s
    else s.modCarrel core carrel fun c => { c with loads := c.loads.filter fun x => x.id ≠ l.id }
  | _ =>
    match l.op with
    | .load =>
      let (t, l) := pursue s core carrel l false
      endLoad t core carrel l
    | _ =>
      -- performed with its GRANT, whose message is still on its way (R157)
      if l.elems.isEmpty then (if l.started then s else endLoad s core carrel l)
      else if l.elems.any fun e => e.req.isSome then
        -- the answer of the core or module that performs it
        match l.elems.filterMap (respErr s) with
        | m :: _ => endLoad s core carrel { l with elems := [], errs := [(0, m)], got := [] }
        | [] =>
          let r : Option RemoteResp := l.elems.findSome? fun e => e.req.bind (respOf s)
          match r with
          | some (.ok data _) => endLoad s core carrel (l.withOld (data.map fun b => ((b, false), false)))
          | _ => s
      else if l.started then s
      else match siphStall s core l.addr.toNat l.size with
        | .stall => s
        | .fault x => trapAtomic s core carrel l x
        | .go =>
          let (t, l) := stepAtomic s core carrel l
          endLoad t core carrel l

def execLoadComplete (core carrel idx : Nat) (s : State) : Host.Outcome State Fault Refusal :=
  match (s.carrel core carrel).loads[idx]? with
  | some l => .next (advanceLoad s core carrel l)
  | none => .next s

/-! ### FILL_DATA_RETURN -/

/-- One byte reaches a Filling L1F folio from the L2F; a byte that has been invalidated counts as arrived (R141). -/
def fillByte (l2 : Cache) (f : Folio) : Option (Folio × Bool) :=
  if f.fin ≤ f.wmk then none else
  match l2.get false f.key f.wmk with
  | some (b, bad) => some ({ f with data := modAt f.data (f.wmk - f.start) fun _ => b, wmk := f.wmk + 1 }, bad)
  | none => if f.dropped f.wmk then some ({ f with wmk := f.wmk + 1 }, false) else none

/-- At most `n` bytes reach the folio, with the sectors that got poisoned data. -/
def fillBytes (l2 : Cache) : Nat → Folio → List Nat → Folio × List Nat
  | 0, f, ps => (f, ps)
  | n + 1, f, ps =>
    match fillByte l2 f with
    | none => (f, ps)
    | some (g, bad) => fillBytes l2 n g (if bad then ps ++ [f.sector f.wmk] else ps)

/-- The L2F lost bytes that a Filling L1F folio still needs: it fills them again. -/
def refillL2 (s : State) (core : Nat) (f : Folio) : State :=
  (fillGaps s (clusterOf core) f.key (gapsOf s (clusterOf core) f.key f.wmk f.fin)
    { window := f.window, asker := some core, colour := s.colourOf (s.core core).ctx } false).1

def execFillDataReturn (core idx count : Nat) (s : State) : Host.Outcome State Fault Refusal :=
  match ((s.core core).l1.folios.filter fun f => f.st == .filling)[idx]? with
  | none => .next s
  | some f =>
    let (g, ps) := fillBytes (s.cluster (clusterOf core)).l2 count f []
    if g.wmk = f.wmk then .next (refillL2 s core f)
    else
      let t := s.modCache (.l1 core) fun c => { folios := c.folios.map fun x => if x == f then g else x, poison := c.poison ++ ps }
      .next (if g.wmk = g.fin then finishFill t (.l1 core) g fun t a b _ => removeL1 t core g.key a b true else t)

/-! ### SOFT_ERROR_DETECTED -/

/-- A sector that a folio owns is poisoned (R133, R145). -/
def Cache.stain (c : Cache) (x : Nat) : Cache :=
  if c.folios.any (·.ownsSector x) && !(c.poison.contains x) then
    { c with poison := c.poison ++ [x] } else c

def execSoftErrorDetected (target : SoftTarget) (s : State) : Host.Outcome State Fault Refusal :=
  .next (match target with
    | .l1f c x => s.modCore c fun k => { k with l1 := k.l1.stain x }
    | .l2f k x => s.modCluster k fun c => { c with l2 := c.l2.stain x }
    | .memory w => s.poisonWords [w]
    | .reg c i r => if r = 0 then s else
        s.modCarrel c i fun x => { x with regs := fset x.regs r.toNat { x.creg r with ecc := true } }
    | .vreg c i v => s.modCarrel c i fun x => { x with vregs := fset x.vregs v.toNat { x.vreg v with ecc := true } }
    | .mask c i m => if m = 0 then s else
        s.modCarrel c i fun x => { x with masks := fset x.masks m.toNat { fgetD x.masks m.toNat {} with ecc := true } }
    | .outbox c i n => s.modCarrel c i fun x => { x with outbox := modAt x.outbox n fun e => { e with ecc := true } }
    | .commit c n => s.modCore c fun k => { k with queue := modAt k.queue n fun e => { e with ecc := true } })

/-! ### SPACE2_ACCESS_ARRIVAL -/

/-- The bytes of a region that an access names. -/
def opBytes : PeerOp → Nat
  | .read n | .vread n => n
  | .write d _ | .cellStore d _ => d.length
  | .amo _ n _ _ | .cas n _ _ => n
  | .spoiled d _ => d.length
  | .barm _ | .barb _ | .barAuto _ | .barr => 16
  | _ => 1

/-- Bytes of a core's own region become poisoned, in its L1F and in the twin (R149, R189). -/
def scrSpoil (s : State) (core region off : Nat) (bad : List Nat) : State :=
  bad.foldl (fun s i =>
    let o := off + i
    let spot := fun (c : Cache) (key : Nat) => match c.find true key (o % 4096) with
      | some f => c.stain (f.sector (o % 4096))
      | none => c
    (s.modCore core fun k => { k with l1 := spot k.l1 (scrKey region (o / 4096)) }).modCluster (clusterOf core) fun k =>
      { k with l2 := spot k.l2 (twinKey (slotOf core) region (o / 4096)) }) s

/-- A scratchpad access of another agent at its core's L1F (R150, R333, R336): the state and the answer. `who` is the core that
asks. -/
def serveScr (s : State) (c region off who : Nat) (op : PeerOp) : State × RemoteResp :=
  let s := match op with
    | .read _ | .vread _ => healRegion s c region off (opBytes op)
    | .amo .. | .cas .. | .barm _ | .barb _ | .barAuto _ | .barr =>
      let heal := fun (s : State) (c : Nat) => healRegion s c region off (opBytes op)
      onTwin (heal s c) c heal
    | _ => s
  let now := fun (s : State) (c n : Nat) => (List.range n).map fun j =>
    (baseNow s c .caches (.scr c region (off + j))).getD ((0, false), false)
  let rmw := fun (a : AccOp) (n : Nat) (give : Bool) =>
    let old := now s c n
    if old.any (·.2) then (s, RemoteResp.poison) else
    let put := fun (s : State) (c : Nat) => match atomicNew a n (oldOf (now s c n)) with
      | some v => scrWrite s c region off (tbytes n v false)
      | none => s
    (onTwin (put s c) c put, .ok (if give then old.map (·.1.1) else []) false)
  match op with
  | .read n | .vread n =>
    let bs := now s c n
    if bs.any (·.2) then (s, .poison) else (s, .ok (bs.map (·.1.1)) (bs.all (·.1.2)))
  | .write d tag =>
    let put := fun (s : State) (c : Nat) => scrWrite s c region off (d.map fun b => (b, tag))
    (onTwin (put s c) c put, .ok [] false)
  | .amo a n v give => rmw (.amo a v) n give
  | .cas n e v => rmw (.cas e v) n true
  | .spoiled d bad =>
    let put := fun (s : State) (c : Nat) => scrSpoil (scrWrite s c region off (d.map fun b => (b, false))) c region off bad
    (onTwin (put s c) c put, .ok [] false)
  | .barm w => (barUpdate s c region off who true fun obj => (barInit obj w, []), .ok [] false)
  | .barb w | .barAuto w =>
    let always := match op with
      | .barAuto _ => false
      | _ => true
    if barPoisoned s c region off then (s, .poison) else
    let obj := barObject s c region off
    if !(always || barAuto obj) then (s, .ok [0] false) else
    let f := fun obj => barCount obj (w.getLsbD 63) (w.getLsbD 62) (bitsAt w.toNat 0 40)
    let broke := !(barBroken obj) && barBroken (f obj).1
    (barUpdate s c region off who true f, .ok [if broke then 1 else 0] false)
  | .barr =>
    if barPoisoned s c region off then (s, .poison) else
    let (t, code, g) := barArrival s c region off who true
    (t, .ok (BitVec.ofNat 8 g :: natBytes 2 code) false)
  | _ => (s, .error)

/-- What a core answers to a scratchpad access on behalf of a context (R50, R292). -/
def answerScr (s : State) (ctx c region off who : Nat) (op : PeerOp) : State × RemoteResp :=
  if !(inBayOf s ctx c) then (s, .error) else
  if unbacked s c then (s, .refused 0x301) else
  if off + opBytes op > s.regionSize c region then (s, .error) else
  serveScr s c region off who op

/-- The access is held or refused while the core's partition is out or its slot is being copied (R289, R290, R315). -/
def holdSpace2 (s : State) (f : Flit) : Option Arrival :=
  if (partitionOut s f.ctx f.dstCore).isSome || (f.dstCore :: (s.core f.dstCore).twin.toList).any fun c => (s.core c).frozen then
    holdFlit s f else none

/-- An access is held (R302): that of a core stream is acknowledged, and every access is answered once it is performed, which is when a
write counts as performed too (R167, R419). The hub is the sender of a peer's, and sees it held. -/
def ackHeld (s : State) (f : Flit) (op : PeerOp) : State :=
  let s := markSeen s f
  if f.fromPeer || !(PeerOp.streamed op) then s else inject s (heldAck f)

/-- A held scratchpad access is performed when its core is back (R289, R314), or is held elsewhere; none while it can be neither. -/
def releaseSpace2 (s : State) (f : Flit) (op : PeerOp) (region off req : Nat) : Option State :=
  match holdSpace2 s f with
  | some (.held t) => some t
  | some _ => none
  | none =>
    let (t, r) := answerScr s f.ctx f.dstCore region off f.srcCore op
    some (reply t f req r)

def execSpace2AccessArrival (cluster idx : Nat) (s : State) : Host.Outcome State Fault Refusal :=
  match (s.cluster cluster).arrived[idx]? with
  | some f => match f.body with
    | .space2 op region off req =>
      let gone := fun (t : State) => t.modCluster cluster fun k => { k with arrived := dropAt k.arrived idx }
      .next (if duplicate s f then reply (gone s) f req (.ok [] false) else match holdSpace2 s f with
        | some (.held t) => ackHeld (gone t) f op
        | some _ => if f.fromPeer then s else (gone s).modCore f.srcCore fun k => { k with refused := k.refused ++ [f] }
        | none =>
          let (t, r) := answerScr (gone s) f.ctx f.dstCore region off f.srcCore op
          reply t f req r)
    | _ => .next s
  | none => .next s

/-! ### Answers -/

/-- An answer from a peer or the host reaches the one who asked (R102, R319). One that comes on a link enters the module by LINK_FLIT_RECEIVE
or PEER_REQUEST_ARRIVAL, and the torus brings it (R307, R310). -/
def execRemoteResponse (id : Nat) (resp : RemoteResp) (s : State) : Host.Outcome State Fault Refusal :=
  match s.reqs.find? fun q => q.id == id with
  | some q => .next (if q.outside then answer s id resp else s)
  | none => .next s

/-- A parked LWAIT that a peer holds is bounded by LTMO and not by FABLIM (R220), but for the drain of a switch-out (R312). -/
def fabBound (s : State) (q : Req) : Bool := match q.user with
  | .lwait core _ => (s.core core).stopped
  | _ => true

def execFablimTimeout (id : Nat) (s : State) : Host.Outcome State Fault Refusal :=
  match s.reqs.find? fun q => q.id == id with
  | some q => .next (if q.outside && q.resp.isNone && fabBound s q && q.start + s.hub.fablim.toNat * 1000 ≤ s.hub.time.toNat
      then unreachable s id else s)
  | none => .next s

end Sys2Proof.Machine
end

