-- ==== Sys2Proof/Machine/Catalogue.lean ====
section
/-! DEFINITION. The home of a die as a server of its catalogue entries (R153 to R160): tracts, holders, the rounds that a
request needs, and its completion. The events are in Machine/EvCatalogue.lean. -/

namespace Sys2Proof.Machine

/-! ### Entries (R154) -/

/-- The entry with one more holder (R154, R157). -/
def CatEntry.add (e : CatEntry) (k : Nat) (dirty : Bool) : CatEntry :=
  if e.coarse then
    { e with groups := if e.groups.contains (k / 8) then e.groups else e.groups ++ [k / 8], anyDirty := e.anyDirty || dirty }
  else if e.ptrs.any (·.1 == k) then e.withHolders (e.ptrs.map fun (j, d) => (j, d || (dirty && j == k)))
  else e.withHolders (e.ptrs ++ [(k, dirty)])

/-! ### The entries of a die -/

/-- A change to the entry of a tract. -/
def Die.modEntry (d : Die) (tract : Nat) (f : CatEntry → CatEntry) : Die :=
  { d with entries := d.entries.map fun e => if e.tract = tract then f e else e }

/-- A request takes ownership: its round invalidates (R157). -/
def CatKind.owns : CatKind → Bool
  | .geto | .uncw => true
  | _ => false

/-- The part of a request that lies in an entry's tract. -/
def partOf (e : CatEntry) (m : CatMsg) : Nat × Nat := (max e.lo m.pa, min e.hi (m.pa + m.len))

/-- A message of an entry's home to a cluster: the extent, and the tract in LO and HI. -/
def toHolder (e : CatEntry) (die k : Nat) (kind : CatKind) (lo hi : Nat) (wb : Bool) (colour : Nat) : CatMsg :=
  { kind := kind, cluster := k, die := die, pa := lo, len := hi - lo, wb := wb, lo := e.lo, hi := e.hi, colour := colour }

/-- The same message to several clusters. -/
def sendAll (s : State) (ks : List Nat) (f : Nat → CatMsg) : State := ks.foldl (fun s k => sendToCluster s (f k)) s

/-- The round of a request at one entry (R157): FETCH to the holders that DM marks, or INV to every holder. The write of an atomic access does
not supersede the bytes that it invalidates, since it reads them (R142, R333): its INV writes back, and a notice that has crossed it
is written (DEDUCED, log entry 97). -/
def startRound (s : State) (die : Nat) (e : CatEntry) (m : CatMsg) : State :=
  let (lo, hi) := partOf e m
  let ks := (if m.kind.owns then e.named else e.marked).filter (· ≠ m.cluster)
  let t := sendAll s ks fun k => toHolder e die k (if m.kind.owns then .inv else .fetch) lo hi m.atomic m.colour
  t.modDie die fun d => d.modEntry e.tract fun e =>
    { e with cur := some m, wait := ks, acks := [], crossed := [], disc := false, quiet := s.cycle }

/-- The discovery of an entry's block (R159): every cluster of the module is asked. -/
def startDisc (s : State) (die : Nat) (e : CatEntry) (m : CatMsg) : State :=
  let ks := List.range 256
  let t := sendAll s ks fun k => toHolder e die k .disc e.lo e.hi false m.colour
  t.modDie die fun d => d.modEntry e.tract fun e => { e with cur := some m, wait := ks, acks := [], crossed := [] }

/-! ### Completion (R157, R158) -/

/-- The holders after an ownership round (R157): those that still hold bytes, with the DM bits they had. -/
def keptHolders (e : CatEntry) : List (Nat × Bool) :=
  (e.acks.filter (·.hold)).map fun a => (a.cluster, e.marked.contains a.cluster)

/-- What the requester itself holds of a tract, or is about to: it was not asked (R153, R157). -/
def ownHolding (s : State) (k lo hi : Nat) : Option (Nat × Bool) :=
  if staysNamed s k lo hi then some (k, comingTo s k lo hi || noticeFrom s k lo hi || (holdings s k lo hi).any (·.2.2)) else none

/-- The block of a split (R158), as SIZE and base. -/
def splitBlock (e : CatEntry) (lo hi : Nat) (apart : List CatMsg) : Nat × Nat :=
  let clear := fun (a b : Nat) => apart.all fun m => e.lo + m.hi < a || b ≤ e.lo + m.lo
  match ((List.range (e.size + 1)).reverse).find? fun s =>
      let a := lo / 2 ^ (s + 6) * 2 ^ (s + 6)
      hi ≤ a + 2 ^ (s + 6) && clear a (a + 2 ^ (s + 6)) with
  | some s => (s, lo / 2 ^ (s + 6) * 2 ^ (s + 6))
  | none => (0, lo / 64 * 64)

/-- The tracts that halving down to a block leaves (R158): the siblings and the block, as base and SIZE. -/
def halves (base size block k : Nat) : List (Nat × Nat) :=
  match size with
  | 0 => [(base, 0)]
  | s + 1 =>
    if s + 1 ≤ k then [(base, s + 1)] else
    let mid := base + 2 ^ (s + 6)
    if block < mid then halves base s block k ++ [(mid, s)] else (base, s) :: halves mid s block k

/-- The entries that follow an ownership round on one entry (R157, R158). An IACK that crossed a notice for bytes of the request causes no
split (R160). -/
def afterOwn (s : State) (e : CatEntry) (m : CatMsg) : List CatEntry :=
  let (lo, hi) := partOf e m
  let idle : CatEntry := { e with cur := none, wait := [], acks := [], crossed := [] }
  let apart := e.acks.filter fun a => !a.ovl && a.hold && !(e.crossed.contains a.cluster)
  let others := keptHolders e
  let me := fun (a b : Nat) => (if m.kind = .geto && lo < b && a < hi then [(m.cluster, true)]
    else (ownHolding s m.cluster a b).toList)
  if m.kind = .geto && !apart.isEmpty then
    let (k, base) := splitBlock e lo hi apart
    (halves e.lo e.size base k).filterMap fun (a, sz) =>
      let b := a + 2 ^ (sz + 6)
      let hs := (others.filter fun (c, _) => e.acks.any fun x => x.cluster == c && e.lo + x.lo < b && a ≤ e.lo + x.hi) ++ me a b
      if hs.isEmpty then none else some ({ idle with tract := a / 64, size := sz }.withHolders hs)
  else
    let hs := others ++ me e.lo e.hi
    if hs.isEmpty then [] else [idle.withHolders hs]

/-- The entries that follow a read on one entry (R157). -/
def afterRead (e : CatEntry) (m : CatMsg) : List CatEntry :=
  let idle : CatEntry := { e with cur := none, wait := [], acks := [], crossed := [] }
  let r := if m.kind = .gets then idle.add m.cluster false else idle
  if r.named.isEmpty then [] else [r]

/-- A busy entry has all its answers. -/
def CatEntry.ready (e : CatEntry) : Bool := e.wait.isEmpty && !e.disc

/-- The entries that serve a request. -/
def serving (d : Die) (m : CatMsg) : List CatEntry := d.entries.filter fun e => e.cur == some m

/-- The bytes of home memory that a request reads or an atomic one finds. -/
def homeData (s : State) (m : CatMsg) : List TByte × List Nat :=
  (s.readMem m.pa m.len, (eccWords m.pa m.len).filter s.memPoison.contains)

/-- The offsets of its granule that a request owns once it is granted. -/
def CatMsg.owned (m : CatMsg) : Option (Nat × Nat) := some (m.pa % 4096, m.pa % 4096 + m.len)

/-- A write that is granted is placed in the L2F of its cluster (R139, R140); uncached, and where no way is left for it, it is divided
between what the L2F holds and the home (R147). -/
def placeGranted (s : State) (m : CatMsg) (pa : Nat) (bs : List TByte) (p : Policy) : State :=
  let p := { p with own := m.owned }
  match (if m.kind = .geto then placeWrite s m.cluster (pa / 4096) (pa % 4096) bs p else none) with
  | some t => t
  | none => writeDivided (overtake s pa bs.length) m.cluster pa bs p

/-- The write of a store for which ownership is granted (R157): the bytes of its first run that the request covers. What is left of the
store, if anything, goes on when the GRANT has come. -/
def storeGranted (s : State) (m : CatMsg) (core : Nat) (e : Entry) (cells : List (Loc × Byte)) (tag : Bool) : State :=
  let run := (entryRun e cells).filter fun (l, _) => match l with
    | .mem pa => m.pa ≤ pa && pa < m.pa + m.len
    | _ => false
  match run with
  | (.mem pa, _) :: _ =>
    let t := placeGranted s m pa ((runValues e cells run).map fun b => (b, tag)) (entryPolicy s core e false)
    modEntry t core e.id fun x => { x with eff := .store (entryRest e cells run) tag }
  | _ => s

/-- The bytes that an update at [pa, pa + n) finds, when its request is granted: the coherent ones, with their poison (R333). -/
def foundBytes (s : State) (pa n : Nat) : List (TByte × Bool) := coherentRead s pa n

/-- An AMO without return for which ownership is granted (R333): its write, with the poison of the ECC words that it updates in part
(log entry 63). Uncached it is performed at the home, where its cluster's own copy goes first. -/
def amoGranted (s : State) (m : CatMsg) (core : Nat) (e : Entry) (pa : Nat) (op : AmoOp) (size : Nat) (v : Word) : State :=
  let done := fun (t : State) => modEntry t core e.id fun x => { x with eff := .store [] false }
  let new := amoValue (foundBytes s pa size) op size v
  let ws := ((foundBytes s pa size).zipIdx.filter fun (b, _) => b.2).map fun (_, j) => (pa + j) / 32
  match (if m.kind = .geto then
      placeWrite s m.cluster (pa / 4096) (pa % 4096) new { corePolicy s core with own := m.owned } else none) with
  | some t => done (stainWords t m.cluster (pa / 4096) (pa % 4096) (pa % 4096 + size) ws)
  | none => done ((overtake (flushOwn s m.cluster pa size) pa size).storeMem pa new)

/-- A value-returning atomic access for which ownership is granted (R333): the update, and the bytes found, which the GRANT brings. -/
def atomicGranted (s : State) (m : CatMsg) (core carrel : Nat) (l : Outst) : State :=
  let put := fun ((t, l) : State × Outst) => putLoad t core carrel { l with started := true }
  match l.locs with
  | .mem pa :: _ =>
    let bs := foundBytes s pa l.size
    match (if m.kind = .geto then atomicL2 s core pa bs l m.owned else none) with
    | some r => put r
    | none => put (atomicMem (overtake (flushOwn s m.cluster pa l.size) pa l.size) pa bs l)
  | _ => s

/-- The write for which a request has asked is made with its GRANT, or with the write at the home (R157: it is performed then): the order of
the grants is the coherence order. -/
def makeWrite (s : State) (m : CatMsg) : State :=
  match (s.cluster m.cluster).reqs.find? fun q => q.id == m.req with
  | none => s
  | some q => match q.user with
    | .access c i id => match (s.carrel c i).loads.find? fun l => l.id == id with
      | some l => atomicGranted s m c i l
      | none => s
    | .entry c id => match (s.core c).queue.find? fun e => e.id == id with
      | some e => match e.eff with
        | .amo (.mem pa) op size v => amoGranted s m c e pa op size v
        | .store cells tag => storeGranted s m c e cells tag
        | _ => s
      | none => s
    | .fill => s

/-- The answer to a request whose rounds are over: DATA in the pieces that flits carry, or GRANT, and its entries free again (R156, R157).
The write of the requester is made first. -/
def finishRequest (s : State) (die : Nat) (m : CatMsg) : State :=
  let (data, ws) := homeData s m
  let s := if m.kind.owns then makeWrite s m else s
  let d := s.die die
  let es := d.entries.flatMap fun e =>
    if e.cur == some m then (if m.kind.owns then afterOwn s e m else afterRead e m) else [e]
  let t := s.setDie die { d with entries := es }
  let back : CatMsg := { kind := if m.kind.owns then .grant else .data, cluster := m.cluster, die := die, pa := m.pa, len := m.len,
                         req := m.req, atomic := m.atomic, colour := m.colour }
  if m.kind.owns then sendToCluster t { back with data := if m.atomic then data else [], poison := if m.atomic then ws else [] }
  else
    let whole := { back with data := data, poison := ws }
    (pieces m.pa m.len).foldl (fun t (a, n) => sendToCluster t (whole.piece a n)) t

/-- The request is answered once each of its entries is ready. -/
def tryFinish (s : State) (die : Nat) (m : CatMsg) : State :=
  if (serving (s.die die) m).all CatEntry.ready then finishRequest s die m else s

/-- A request is taken: entries for its whole extent, each with its discovery or its round (R156, R157, R159). -/
def serveRequest (s : State) (die : Nat) (m : CatMsg) : State :=
  let d := s.die die
  let es := coverExtent d s.cycle m.pa (m.pa + m.len) 64 d.entries
  let s := s.setDie die { d with entries := es }
  let t := (es.filter fun e => e.meets m.pa (m.pa + m.len)).foldl (fun s e =>
    if e.disc then startDisc s die e m else startRound s die e m) s
  tryFinish t die m

/-! ### Which message a home may take -/

/-- Two requests need one entry, or both need new ones. -/
def sameEntry (d : Die) (a b : CatMsg) : Bool :=
  (d.entries.any fun e => e.meets a.pa (a.pa + a.len) && e.meets b.pa (b.pa + b.len)) ||
  (a.pa / 65536 == b.pa / 65536 && (firstBare d.entries a.pa (a.pa + a.len)).isSome &&
    (firstBare d.entries b.pa (b.pa + b.len)).isSome)

/-- The idx-th message at a home, when its turn has come: after the eviction notices of its cluster, and, for a request, after
earlier requests to its entries and once none of them is BUSY (R156). -/
def homeTake (s : State) (die idx : Nat) (kind : CatKind) : Option CatMsg :=
  let d := s.die die
  match d.inbox[idx]? with
  | none => none
  | some m =>
    let before := d.inbox.take idx
    if m.kind ≠ kind || (before.any fun x => x.kind == .evn && x.cluster == m.cluster) then none
    else if m.kind.asks && ((before.any fun x => x.kind.asks && sameEntry d x m) ||
        d.entries.any fun e => e.cur.isSome && e.meets m.pa (m.pa + m.len)) then none
    else some m

/-- The message is no longer in the home's inbox. -/
def homeDrop (s : State) (die idx : Nat) : State := s.modDie die fun d => { d with inbox := dropAt d.inbox idx }

/-- The idx-th flit that has arrived at a cluster as a catalogue message, in the order of its stream (R302). -/
def clusterTake (s : State) (k idx : Nat) (kind : CatKind) : Option CatMsg :=
  let arrived := (s.cluster k).arrived
  match arrived[idx]? with
  | some f => match f.body with
    | .cat m =>
      let earlier := (arrived.take idx).any fun g => match g.body with
        | .cat x => x.die == m.die
        | _ => false
      if m.kind = kind && !earlier then some m else none
    | _ => none
  | none => none

def clusterDrop (s : State) (k idx : Nat) : State := s.modCluster k fun c => { c with arrived := dropAt c.arrived idx }

end Sys2Proof.Machine
end

