-- ==== Sys2Proof/Machine/EvCatalogue.lean ====
section
/-! DEFINITION. The catalogue's messages at the homes and at the L2Fs (R141 to R143, R153 to R160). -/

namespace Sys2Proof.Machine

/-! ### At the home -/

/-- A request at the head of its queue is served (R156). -/
def takeRequest (s : State) (die idx : Nat) (kind : CatKind) : Host.Outcome State Fault Refusal :=
  match homeTake s die idx kind with
  | some m => .next (serveRequest (homeDrop s die idx) die m)
  | none => .next s

def execCatalogueGets (die idx : Nat) (s : State) : Host.Outcome State Fault Refusal := takeRequest s die idx .gets
def execCatalogueGeto (die idx : Nat) (s : State) : Host.Outcome State Fault Refusal := takeRequest s die idx .geto
def execCatalogueUncr (die idx : Nat) (s : State) : Host.Outcome State Fault Refusal := takeRequest s die idx .uncr
def execCatalogueUncw (die idx : Nat) (s : State) : Host.Outcome State Fault Refusal := takeRequest s die idx .uncw

/-- The bytes of a Dirty notice that a round in progress (R160), or a write that has overtaken it (R162), supersedes. A discovery has
invalidated nothing yet; the requester's own notice has met no invalidation, and an atomic access supersedes nothing (log entry 97). -/
def superseded (d : Die) (m : CatMsg) (pa : Nat) : Bool :=
  (m.skip.any fun (a, b) => a ≤ pa && pa < b) ||
  d.entries.any fun e => match e.cur with
    | some r => r.kind.owns && !r.atomic && r.cluster ≠ m.cluster && !e.disc && e.lo ≤ pa && pa < e.hi && r.pa ≤ pa && pa < r.pa + r.len
    | none => false

/-- The bytes of a Dirty notice go to memory, with the poison of their sectors (R143, R145). -/
def writeNotice (s : State) (die : Nat) (m : CatMsg) : State :=
  let d := s.die die
  let parts := runsOf (fun a => !(superseded d m a)) m.pa m.len none
  let t := parts.foldl (fun s (a, b) => s.storeMem a ((m.data.drop (a - m.pa)).take (b - a))) s
  t.poisonWords (m.poison.filter fun w => parts.any fun (a, b) => a < 32 * w + 32 && 32 * w < b)

/-- The pointers after an eviction notice (R157): the cluster's goes unless it still holds bytes of the tract, or data, ownership or another
Dirty notice of it is on the way (R153). -/
def noteEvict (s : State) (m : CatMsg) (e : CatEntry) : List CatEntry :=
  if !(e.meets m.pa (m.pa + m.len)) then [e] else
  let e := match e.cur with
    | some r =>
      if r.kind.owns && m.pa < r.pa + r.len && r.pa < m.pa + m.len then ({ e with crossed := e.crossed ++ [m.cluster] } : CatEntry) else e
    | none => e
  if e.coarse || staysNamed s m.cluster e.lo e.hi then [e] else
  let ps := e.ptrs.filter fun (k, _) => k ≠ m.cluster
  if ps.isEmpty && e.cur.isNone then [] else [e.withHolders ps]

def execCatalogueEvn (die idx : Nat) (s : State) : Host.Outcome State Fault Refusal :=
  match homeTake s die idx .evn with
  | none => .next s
  | some m =>
    let s := homeDrop s die idx
    let t := if m.dirty then
        sendToCluster (writeNotice s die m) { kind := .eack, cluster := m.cluster, die := die, pa := m.pa, len := m.len, colour := m.colour }
      else s
    .next (t.modDie die fun d => { d with entries := d.entries.flatMap (noteEvict t m) })

/-- An answer of a cluster is counted at its entry. -/
def countAnswer (s : State) (die : Nat) (m : CatMsg) (f : CatEntry → CatEntry) : State :=
  let count := fun (e : CatEntry) =>
    if e.lo ≤ m.pa && m.pa < e.hi && e.wait.contains m.cluster then
      f { e with wait := e.wait.filter (· ≠ m.cluster), acks := e.acks ++ [m] }
    else e
  s.modDie die fun d => { d with entries := d.entries.map count }

/-- The entry that an answer belongs to. -/
def entryOf (s : State) (die pa : Nat) : Option CatEntry := (s.die die).entries.find? fun e => e.lo ≤ pa && pa < e.hi

/-- A recall whose answers are all in drops its entry (R159). -/
def dropRecalled (s : State) (die tract : Nat) : State :=
  s.modDie die fun d => { d with entries := d.entries.filter fun e => !(e.tract == tract && e.recalled && e.wait.isEmpty) }

/-- The answer may have been the last. -/
def afterAnswer (s : State) (die pa : Nat) : State :=
  match entryOf s die pa with
  | none => s
  | some e =>
    if e.recalled then dropRecalled s die e.tract
    else match e.cur with
      | some m => tryFinish s die m
      | none => s

def execCatalogueIack (die idx : Nat) (s : State) : Host.Outcome State Fault Refusal :=
  match homeTake s die idx .iack with
  | some m => .next (afterAnswer (countAnswer (homeDrop s die idx) die m id) die m.pa)
  | none => .next s

/-- DM after a FETCH (R157): in coarse form every possible holder has answered but the requester, which may hold Dirty bytes itself. -/
def noteDleft (e : CatEntry) : CatEntry :=
  let mine := (e.cur.map fun m => e.named.contains m.cluster).getD false
  if e.coarse then (if e.wait.isEmpty then { e with anyDirty := mine || e.acks.any (·.dirty) } else e)
  else { e with ptrs := e.ptrs.map fun (k, d) => match e.acks.find? fun a => a.cluster == k with
    | some a => (k, a.dirty)
    | none => (k, d) }

def execCatalogueFack (die idx : Nat) (s : State) : Host.Outcome State Fault Refusal :=
  match homeTake s die idx .fack with
  | some m => .next (afterAnswer (countAnswer (homeDrop s die idx) die m noteDleft) die m.pa)
  | none => .next s

/-- A discovery is over (R159): the entry is rebuilt, the filter bit of a whole tract cleared, and the request served. -/
def rebuild (s : State) (die : Nat) (e : CatEntry) : State :=
  let hs := (e.acks.filter (·.hold)).map fun a => (a.cluster, a.dirty)
  let e' : CatEntry := { e.withHolders hs with disc := false, acks := [] }
  let t := s.modDie die fun d =>
    let d := d.modEntry e.tract fun _ => e'
    { d with filter := if e.size = 10 then eraseNat d.filter (e.lo / 65536) else d.filter }
  match e.cur with
  | some m => tryFinish (startRound t die e' m) die m
  | none => t

def execCatalogueDack (die idx : Nat) (s : State) : Host.Outcome State Fault Refusal :=
  match homeTake s die idx .dack with
  | some m =>
    let t := countAnswer (homeDrop s die idx) die m id
    .next (match entryOf t die m.pa with
      | some e => if e.disc && e.wait.isEmpty then rebuild t die e else t
      | none => t)
  | none => .next s

/-- The least recently requested of some entries. -/
def leastRecent (es : List CatEntry) : Option CatEntry :=
  es.foldl (fun o e => match o with
    | none => some e
    | some x => if e.quiet < x.quiet then some e else some x) none

/-- Replacement under pressure (R159): a Private entry is dropped silently; a Shared one is recalled first. A Shared one is taken only when no
Private entry is idle, and of a kind the least recently requested: R159 does not say which is replaced (DESIGN CHOICE, log entry 85). -/
def execCatalogueReplacement (die : Nat) (s : State) : Host.Outcome State Fault Refusal :=
  let d := s.die die
  let idle := d.entries.filter fun e => e.cur.isNone
  match leastRecent (idle.filter fun e => !e.isShared) with
  | some e =>
    .next (s.setDie die { d with entries := d.entries.filter fun x => x.tract ≠ e.tract, filter := insertNat d.filter (e.lo / 65536) })
  | none => match leastRecent idle with
    | none => .next s
    | some e =>
      let m : CatMsg := { kind := .inv, cluster := 0, die := die, pa := e.lo, len := e.hi - e.lo, wb := true }
      let t := sendAll s e.named fun k => toHolder e die k .inv e.lo e.hi true 0
      .next (t.modDie die fun d => d.modEntry e.tract fun e =>
        { e with cur := some m, wait := e.named, acks := [], crossed := [], recalled := true })

/-- QUIET of an entry in a cycle (R154). -/
def CatEntry.quietFor (e : CatEntry) (cyc : Nat) : Nat := min (cyc - e.quiet) (2 ^ 20)

/-- Two entries name the same clusters in the same form (R158). -/
def sameHolders (a b : CatEntry) : Bool :=
  a.isShared == b.isShared && a.coarse == b.coarse && a.named.all b.named.contains && b.named.all a.named.contains

def execTractMerge (die base : Nat) (s : State) : Host.Outcome State Fault Refusal :=
  let d := s.die die
  match d.entries.find? fun e => e.lo == base with
  | none => .next s
  | some a =>
    let size := 2 ^ (a.size + 6)
    match d.entries.find? fun e => e.lo == base + size && e.size == a.size with
    | none => .next s
    | some b =>
      let quiet := fun (e : CatEntry) => e.cur.isNone && e.quietFor s.cycle == 2 ^ 20
      if a.size < 10 && base % (2 * size) = 0 && quiet a && quiet b && sameHolders a b then
        let m : CatEntry := { a with
          size := a.size + 1, quiet := max a.quiet b.quiet, anyDirty := a.anyDirty || b.anyDirty,
          ptrs := a.ptrs.map fun (k, x) => (k, x || b.ptrs.any fun (j, y) => j == k && y) }
        .next (s.setDie die { d with entries := (d.entries.filter fun e => !(e == b)).map fun e => if e == a then m else e })
      else .next s

/-! ### At the L2F -/

/-- What an L2F reports of a tract (R156): whether it holds bytes, the offsets of the lowest and highest, whether Dirty ones
are left, and a Dirty notice that is not confirmed yet. -/
def reportOn (s : State) (k : Nat) (m : CatMsg) (kind : CatKind) (ovl : Bool) : CatMsg :=
  let hs := holdings s k m.lo m.hi
  { kind := kind, cluster := k, die := m.die, pa := m.pa, len := m.len, ovl := ovl, hold := !hs.isEmpty,
    colour := m.colour, lo := minOf (hs.map fun (a, _, _) => a) - m.lo, hi := maxOf (hs.map fun (_, b, _) => b) - 1 - m.lo,
    dirty := hs.any (·.2.2), evp := (s.cluster k).evn.any fun (a, n) => a < m.hi && m.lo < a + n }

def execCatalogueEack (cluster idx : Nat) (s : State) : Host.Outcome State Fault Refusal :=
  match clusterTake s cluster idx .eack with
  | some m => .next ((clusterDrop s cluster idx).modCluster cluster fun c => { c with evn := c.evn.erase (m.pa, m.len) })
  | none => .next s

/-- The Dirty bytes of an extent go to home memory and stay, Clean (R143), but for those of a window (R115). -/
def writeBackExtent (s : State) (k pa len : Nat) : State :=
  (granules pa len).foldl (fun s (g, lo, hi) => cleanDirty k g false false hi 32 lo s) s

/-- The Dirty bytes of an extent go to home memory, before they are removed (R143). -/
def copyBackExtent (s : State) (k pa len : Nat) : State :=
  (granules pa len).foldl (fun s (g, lo, hi) => copyBack s k g lo hi false) s

/-- The bytes of an extent leave an L2F and the L1Fs of its cluster, but for those of a window (R115); the flag says that some did. -/
def removeExtent (s : State) (k pa len : Nat) : State × Bool :=
  (granules pa len).foldl (fun (s, b) (g, lo, hi) =>
    let (t, hit) := removeL2 s k g lo hi false false
    (t, b || hit)) (s, false)

def execCatalogueInv (cluster idx : Nat) (s : State) : Host.Outcome State Fault Refusal :=
  match clusterTake s cluster idx .inv with
  | some m =>
    let s := clusterDrop s cluster idx
    let s := if m.wb then copyBackExtent s cluster m.pa m.len else s
    let (t, ovl) := removeExtent s cluster m.pa m.len
    .next (sendToHome t (reportOn t cluster m .iack ovl))
  | none => .next s

def execCatalogueFetch (cluster idx : Nat) (s : State) : Host.Outcome State Fault Refusal :=
  match clusterTake s cluster idx .fetch with
  | some m =>
    let t := writeBackExtent (clusterDrop s cluster idx) cluster m.pa m.len
    .next (sendToHome t (reportOn t cluster m .fack false))
  | none => .next s

def execCatalogueDisc (cluster idx : Nat) (s : State) : Host.Outcome State Fault Refusal :=
  match clusterTake s cluster idx .disc with
  | some m =>
    let t := clusterDrop s cluster idx
    .next (sendToHome t (reportOn t cluster m .dack false))
  | none => .next s

/-- The bytes of a message as a load below the caches finds them: those of elements that came too late excepted (R141). -/
def arriving (m : CatMsg) (e : LElem) : BaseByte
  | .mem pa => if e.late || !(m.pa ≤ pa && pa < m.pa + m.len) then none
    else some (m.data.getD (pa - m.pa) (0, false), m.poison.contains (pa / 32))
  | _ => none

/-- The loads of a cluster's cores that wait for bytes of a fill read them (R136, R141). -/
def feedLoads (s : State) (k : Nat) (m : CatMsg) : State :=
  (coresOf k).foldl (fun s c =>
    ((s.core c).carrels.map (·.1)).foldl (fun s i =>
      (s.carrel c i).loads.foldl (fun s l =>
        match l.op with
        | .load => if l.elems.isEmpty || l.through then s else putLoad s c i (capture s c i (arriving m) l)
        | _ => s) s) s) s

/-- Bytes that were removed while they filled leave (R141); the home is told of them where the removal is to be reported (R366). -/
def dropFilled (k key : Nat) (s : State) (a b : Nat) (tell : Bool) : State :=
  let held := (List.range (b - a)).any fun i => (s.cluster k).l2.has false key (a + i)
  let t := (removeL2 s k key a b true false).1
  if tell && held then sendToHome t { kind := .evn, cluster := k, die := homeOf (key * 4096 + a), pa := key * 4096 + a, len := b - a } else t

/-- A piece of a fill's data reaches the Filling folio that awaits it (R136, R145); with the last the fill is over. -/
def fillFolio (s : State) (k : Nat) (m : CatMsg) : State :=
  let key := m.pa / 4096
  match (s.cluster k).l2.folios.find? fun f => f.isFor false key && f.st == .filling && key * 4096 + f.wmk == m.pa &&
      m.pa + m.len ≤ key * 4096 + f.fin with
  | none => s
  | some f =>
    let at_ := f.wmk - f.start
    let g : Folio := { f with data := f.data.take at_ ++ m.data ++ f.data.drop (at_ + m.len), wmk := f.wmk + m.len }
    let t := stainWords (s.modCache (.l2 k) (·.replace f [g])) k key (m.pa % 4096) (m.pa % 4096 + m.len) m.poison
    if g.wmk = g.fin then finishFill t (.l2 k) g (dropFilled k key) else t

/-- An uncached read returns (R147): the elements that asked for it read what has come, unless a write of their own cluster has overtaken it
(R163). -/
def feedUncached (s : State) (m : CatMsg) (c i id : Nat) : State :=
  match (s.carrel c i).loads.find? fun l => l.id == id with
  | none => s
  | some l =>
    let covers := fun (e : LElem) => e.want.any fun (_, p) => match p with
      | .mem pa => m.pa ≤ pa && pa < m.pa + m.len
      | _ => false
    let fresh := fun (e : LElem) => if e.uncr && covers e then { e with late := e.stale } else e
    let l := capture s c i (arriving m) { l with elems := l.elems.map fresh }
    putLoad s c i { l with elems := l.elems.map fun e => if covers e then { e with uncr := false, stale := false, late := false } else e }

def execCatalogueData (cluster idx : Nat) (s : State) : Host.Outcome State Fault Refusal :=
  match clusterTake s cluster idx .data with
  | none => .next s
  | some m =>
    let s := clusterDrop s cluster idx
    match (s.cluster cluster).reqs.find? fun q => q.id == m.req with
    | some q =>
      let s := if m.last then s.modCluster cluster fun c => { c with reqs := c.reqs.filter fun q => q.id ≠ m.req } else s
      match q.user with
      | .access c i id => .next (feedUncached s m c i id)
      | _ => .next s
    | none =>
      .next (feedLoads (fillFolio s cluster m) cluster m)

/-- A GRANT ends its request at the entry or access that made it, whose write has been made (R157): an atomic access has its bytes, an entry
of which nothing is left leaves the commit queue, and another goes on. -/
def useGrant (s : State) (q : CatReq) : State :=
  match q.user with
  | .access c i id => match (s.carrel c i).loads.find? fun l => l.id == id with
    | some l => if l.elems.isEmpty then endLoad s c i { l with started := false } else putLoad s c i { l with started := false }
    | none => s
  | .entry c id => match (s.core c).queue.find? fun e => e.id == id with
    | some e => match e.eff with
      | .store [] _ => dropEntry s c id
      | _ => modEntry s c id fun x => { x with sent := none }
    | none => s
  | .fill => s

def execCatalogueGrant (cluster idx : Nat) (s : State) : Host.Outcome State Fault Refusal :=
  match clusterTake s cluster idx .grant with
  | none => .next s
  | some m =>
    let s := clusterDrop s cluster idx
    match (s.cluster cluster).reqs.find? fun q => q.id == m.req with
    | none => .next s
    | some q =>
      .next (useGrant (s.modCluster cluster fun c => { c with reqs := c.reqs.filter fun x => x.id ≠ q.id }) q)

end Sys2Proof.Machine
end

