-- ==== Sys2Proof/Machine/Pump.lean ====
section
/-! DEFINITION. Replicas of cistern ranges: merging with its pushes (R214), and the exchange (R216 to R221, R224). Events are in
Machine/EvCistern.lean. -/

namespace Sys2Proof.Machine

/-! ### Ranges -/

/-- The range, by its place, one of whose replicas holds a physical address (R203). -/
def State.rangeOfPa (s : State) (pa : Nat) : Option Nat :=
  findIdx (fun r => r.pgran * 4096 % 2 ^ 38 ≤ pa % 2 ^ 38 && pa % 2 ^ 38 < r.pgran * 4096 % 2 ^ 38 + r.len * 4096) s.ranges

/-- The address on a die of a PA[37:0] (R203). -/
def onDie (die pa : Nat) : Nat := die * 2 ^ 38 + pa % 2 ^ 38

def Range.part (r : Range) (i : Nat) : Part_ := fgetD r.parts i {}
def Range.setPart (r : Range) (i : Nat) (p : Part_) : Range := { r with parts := fset r.parts i p }

def State.modRange (s : State) (i : Nat) (f : Range → Range) : State := { s with ranges := modAt s.ranges i f }

/-- The value of a replica cell is poisoned (R224). -/
def cellPoisoned (s : State) (pa size : Nat) : Bool := (eccWords pa size).any s.memPoison.contains

/-! ### Participants and schedules (R217, R219) -/

/-- The module layer of a range as participant 4; the dies are 0 to 3. -/
def modulePart : Nat := 4

/-- The device ids of a range's module layer in ascending order. -/
def moduleIds (s : State) (r : Range) : List Nat := (s.hub.devid :: r.peers).foldl insertNat []

/-- The count of participants of a layer and the number of one of them. -/
def layerOf (s : State) (r : Range) (part : Nat) : Nat × Nat :=
  if part = modulePart then
    let ids := moduleIds s r
    (ids.length, (ids.findIdx? (· == s.hub.devid)).getD 0)
  else (4, part)

/-- The participants that number `i` of `n` sends to in round `k`. -/
def sendsTo (sched n i k : Nat) : List Nat :=
  if n ≤ 1 then [] else
  match sched with
  | 0 => [(i + 1) % n]
  | 1 =>
    let j := i ^^^ 2 ^ (k % Nat.clog 2 n)
    if j < n then [j] else []
  | _ => if i = 0 then (List.range n).filter (· ≠ 0) else [0]

/-- The partners that the schedule names for round `k`. -/
def partners (sched n i k : Nat) : List Nat :=
  (List.range n).filter fun j => j ≠ i && ((sendsTo sched n i k).contains j || (sendsTo sched n j k).contains i)

/-! ### Merging (R214) -/

/-- A cell that rose marks its block dirty toward every partner (R216, R219). -/
def markDirty (s : State) (ri die pa : Nat) : State :=
  let b := pa % 2 ^ 38 / 256 * 256
  let add := fun (l : List (Nat × Nat)) (x : Nat × Nat) => if l.contains x then l else l ++ [x]
  s.modRange ri fun r =>
    let p := r.part die
    let r := r.setPart die { p with dirty := (((List.range 4).filter (· ≠ die)).map fun j => (b, j)).foldl add p.dirty }
    if die = r.home then
      let m := r.part modulePart
      r.setPart modulePart { m with dirty := (r.peers.map fun j => (b, j)).foldl add m.dirty }
    else r

/-- The peers' waits that a cell's value now meets are answered (R220). -/
def answerWaits (s : State) (pa size : Nat) : State :=
  let met := fun (w : PeerWait) => w.pa == pa && geq w.typ (memCell s pa size) w.x
  let t := s.modHub fun h => { h with waits := h.waits.filter fun w => !(met w) }
  (s.hub.waits.filter met).foldl (fun t w => replyPeer t w.dest (.ok (natBytes 8 (memCell s pa size)) false)) t

/-- A merge is performed: the replica and every L2F of the mask hold it (R214). -/
def mergeDone (s : State) (u : MergeUser) : State :=
  match u with
  | .entry core id => dropEntry s core id
  | .block id => { s with blocks := s.blocks.map fun b => if b.id = id then { b with merged := true } else b }
  | .peer dest => replyPeer s dest (.ok [] false)

/-- The L2Fs that a value is pushed to: those of the die's mask that hold the cell, but not the issuing one. -/
def pushTargets (s : State) (pa : Nat) (skip : Option Nat) : List Nat :=
  (fgetD (s.die (homeOf pa)).masks (pa / 256) []).filter fun k =>
    some k ≠ skip && (s.cluster k).l2.holds (pa / 4096) (pa % 4096)

/-- No merge of a user is under way any more. -/
def endMerge (s : State) (m : Nat) : State :=
  if s.pushes.any fun p => p.merge == m then s else
  match fget s.merges m with
  | none => s
  | some u =>
    let t := { s with merges := fdel s.merges m }
    -- a block is merged once all its cells are (R216)
    if t.merges.any fun (_, v) => v == u then t else mergeDone t u

/-- A value is merged into the replica cell at a physical address (R214): into memory, and toward the L2Fs of the die. A
poisoned cell takes nothing and its block is reported (R224). -/
def mergeCell (s : State) (pa typ size v : Nat) (skip : Option Nat) (u : MergeUser) : State :=
  let m := s.nextReq
  let s := { s with nextReq := m + 1, merges := fset s.merges m u }
  if cellPoisoned s pa size then endMerge (s.tellOs (.osBlock (pa / 256 * 256))) m else
  let old := memCell s pa size
  let new := joinOf typ old v
  let waiting := (s.pushes.filter fun p => p.pa == pa).map (·.cluster)
  let dests := if new = old then waiting.eraseDups else pushTargets s pa skip
  let push := fun (k : Nat) => ({ cluster := k, pa := pa, size := size, typ := typ, val := BitVec.ofNat 64 new, merge := m } : Push)
  let s := { s with pushes := s.pushes ++ dests.map push }
  if new = old then endMerge s m else
  let s := s.writeMem pa (tbytes size new false)
  let s := match s.rangeOfPa pa with
    | some ri => markDirty s ri (homeOf pa) pa
    | none => s
  endMerge (answerWaits s pa size) m

/-- A value is joined into the cells that an L2F holds (R214). -/
def joinL2 (s : State) (k pa typ size v : Nat) : State :=
  if !((s.cluster k).l2.holds (pa / 4096) (pa % 4096)) then s else
  let old := oldOf (l2Bytes s k pa size)
  let bytes := offsets (pa % 4096) (tbytes size (joinOf typ old v) false)
  s.modCluster k fun c => { c with l2 := c.l2.updateHeld false (pa / 4096) bytes }

/-! ### Release holds (R221) -/

/-- A value is merged into the replica of a die (R214): the replica, and every L2F of the die that holds the cell, is at or above it. A
poisoned cell takes part in no exchange (R224). -/
def mergedOn (s : State) (die a typ v : Nat) : Bool :=
  let pa := onDie die a
  let size := cellSize typ
  cellPoisoned s pa size || (geq typ (memCell s pa size) v && (pushTargets s pa none).all fun k => geq typ (oldOf (l2Bytes s k pa size)) v)

/-- The values of a context's ranges on a die that are not yet merged into another die's replica, poisoned cells left out (R221, R224). -/
def missingJoins (s : State) (ctx die : Nat) : List (Nat × Nat × Nat × Nat) :=
  (s.ranges.filter fun r => r.ctx == ctx).flatMap fun r =>
    let size := cellSize r.typ
    (List.range (r.len * 4096 / size)).flatMap fun i =>
      let a := (r.pgran * 4096 + size * i) % 2 ^ 38
      let v := memCell s (onDie die a) size
      ((List.range 4).filter fun d => d ≠ die && !(cellPoisoned s (onDie die a) size) && !(mergedOn s d a r.typ v)).map
        fun d => (a, r.typ, d, v)

/-- What a hold waits for has happened (R221). -/
def holdLifted (s : State) (h : BlockHold) : Bool :=
  (h.needs.all fun (a, typ, d, v) => mergedOn s d a typ v) &&
  match h.sys with
  | some n => Config.peersHold n s.hub.time.toNat
  | none => true

/-- Holds that are over are lifted (R221). -/
def liftHolds (s : State) : State :=
  { s with ranges := s.ranges.map fun r =>
    { r with parts := r.parts.map fun (i, p) => (i, { p with holds := p.holds.filter fun h => !(holdLifted s h) }) } }

/-- The block of a replica as a pump may send it: a poisoned cell is sent as the bottom (R224). -/
def cleanBlock (s : State) (r : Range) (die a : Nat) (bytes : List Byte) : List Byte :=
  let size := cellSize r.typ
  (List.range (256 / size)).flatMap fun i =>
    if cellPoisoned s (onDie die (a + size * i)) size then natBytes size (bottomOf r.typ) else (bytes.drop (size * i)).take size
def blockNow (s : State) (r : Range) (die a : Nat) : List Byte := cleanBlock s r die a ((s.readMem (onDie die a) 256).map (·.1))

/-- A release at scope 4 or 5 is about to merge into a block: the block is held with its image of now (R221). -/
def holdBlock (s : State) (ri die pa cover : Nat) : State :=
  match s.ranges[ri]? with
  | none => s
  | some r =>
    let a := pa % 2 ^ 38 / 256 * 256
    let peers := s.ranges.any fun x => x.ctx == r.ctx && !x.peers.isEmpty
    let h : BlockHold := { block := a, image := blockNow s r die a, needs := missingJoins s r.ctx die,
                           sys := if 5 ≤ cover && peers then some s.nextReq else none }
    if h.needs.isEmpty && h.sys.isNone then s
    else { s with nextReq := s.nextReq + 1 }.modRange ri fun r =>
      let p := r.part die
      r.setPart die { p with holds := p.holds ++ [h] }

/-! ### The exchange (R216, R217) -/

/-- The image of a block that a pump sends: as it stood before the earliest release that still holds it, else as it is
(R221). The flag says that it is held. -/
def blockImage (s : State) (r : Range) (die a : Nat) : List Byte × Bool :=
  match (r.part die).holds.find? fun h => h.block == a with
  | some h => (cleanBlock s r die a h.image, true)
  | none => (blockNow s r die a, false)

/-- The die whose replica a participant exchanges. -/
def dieOfPart (r : Range) (part : Nat) : Nat := if part = modulePart then r.home else part

/-- The partner that a number of a layer names: a die, or a device id. -/
def partnerId (s : State) (r : Range) (part j : Nat) : Nat := if part = modulePart then (moduleIds s r).getD j 0 else j

/-- A block goes to a peer in four messages of 64 bytes, the last of which makes the request that its acknowledgement answers (R216,
R300, R307, R309). -/
def blockMsgs (r : Range) (b : PumpBlock) (dev req : Nat) : List LinkMsg :=
  let va := r.vgran * 4096 + (b.block + 2 ^ 38 - r.pgran * 4096 % 2 ^ 38) % 2 ^ 38
  (List.range 4).map fun i =>
    { dev := dev, dcore := 0, score := 0, tag := 0, ctx := r.ctx, lane := requestLane 0 0,
      addr := BitVec.ofNat 64 (2 ^ 60 + dev * 2 ^ 48 + (va + 64 * i) % 2 ^ 48), body := .op (.pump ((b.data.drop (64 * i)).take 64)),
      req := if i = 3 then some req else none }

/-- One dirty block leaves toward a partner; toward a peer outside the fences it is logged and dropped (R219). The mark stays until the
partner has acknowledged the block (R216). -/
def sendBlock (s : State) (ri part : Nat) (b : Nat × Nat) : State :=
  match s.ranges[ri]? with
  | none => s
  | some r =>
    let die := dieOfPart r part
    let image := (blockImage s r die b.1).1
    if part = modulePart && !(devAllowed s b.2) then egLog s r.ctx 4 true 0 (b.2 * 2 ^ 16) else
    let blk : PumpBlock := { id := s.nextReq, range := ri, src := part, dst := if part = modulePart then modulePart else b.2,
                             peer := if part = modulePart then some b.2 else none, block := b.1, data := image, merged := false }
    let t : State := { s with nextReq := s.nextReq + 1 }
    if part ≠ modulePart then { t with blocks := t.blocks ++ [blk] }
    else
      let (t, q) := newReq t (.block blk.id) 0 true
      (blockMsgs r blk b.2 q).foldl linkOut { t with blocks := t.blocks ++ [{ blk with req := some q }] }

/-- The partner has acknowledged a block (R216): its mark goes, unless the block has risen since, or only an older image was sent. -/
def clearMark (s : State) (b : PumpBlock) : State :=
  let dest := b.peer.getD b.dst
  if 4 < b.src then s else
  s.modRange b.range fun r =>
    let p := r.part b.src
    if blockImage s r (dieOfPart r b.src) b.block == (b.data, false) then
      r.setPart b.src { p with dirty := p.dirty.filter (· ≠ (b.block, dest)) }
    else r

/-- A participant begins its round: each block that is dirty toward a partner is sent (R216). -/
def beginRound (s : State) (ri part : Nat) : State :=
  match s.ranges[ri]? with
  | none => s
  | some r =>
    let (n, i) := layerOf s r part
    let p := r.part part
    let dests := (sendsTo r.sched n i p.round).map (partnerId s r part)
    let t := s.modRange ri fun r => r.setPart part { p with round := p.round + 1, active := true }
    (p.dirty.filter fun (_, j) => dests.contains j).foldl (fun t b => sendBlock t ri part b) t

/-- A round ends once every block sent is acknowledged and every block received is merged (R217). -/
def tryEnd (s : State) (ri part : Nat) : State :=
  match s.ranges[ri]? with
  | none => s
  | some r =>
    let p := r.part part
    let mine := fun (b : PumpBlock) => b.range == ri && (b.src == part || (b.dst == part && !b.merged))
    if p.active && !(s.blocks.any mine) then s.modRange ri fun r => r.setPart part { p with active := false, ended := s.hub.time.toNat }
    else s

/-- Every participant of a range whose round is over ends it. -/
def endRounds (s : State) (ri : Nat) : State := (List.range 5).foldl (fun s p => tryEnd s ri p) s

/-- The participant is ready to begin its next round: its interval has passed since the end of the last (R217). -/
def partReady (s : State) (r : Range) (part : Nat) : Bool :=
  let p := r.part part
  !p.active && p.ended + r.interval ≤ s.hub.time.toNat

/-- A partner does not stop a participant's round `k`: it has begun its own, or begins it in the same step. A peer begins on
its own, which this module does not see. -/
def partnerOk (s : State) (r : Range) (with_ : List Nat) (k part j : Nat) : Bool :=
  part == modulePart || k < (r.part j).round || (with_.contains j && (r.part j).round == k && partReady s r j)

/-- The participants that begin a round together with one: those that its partners need, and theirs. -/
def roundSet (s : State) (r : Range) : Nat → List Nat → List Nat
  | 0, ps => ps
  | fuel + 1, ps =>
    let more := ps.flatMap fun p =>
      if p = modulePart then [] else
      let k := (r.part p).round
      (partners r.sched 4 p k).filter fun j => !(k < (r.part j).round) && !(ps.contains j)
    if more.isEmpty then ps else roundSet s r fuel (ps ++ more.eraseDups)

end Sys2Proof.Machine
end

