-- ==== Sys2Proof/Machine/EvCistern.lean ====
section
/-! DEFINITION. Drained joins (R211, R214, R221), pushes (R214), the rounds of the pumps (R216, R217) and the creation of a
range (R206). -/

namespace Sys2Proof.Machine

/-- A drained join, or a store acting as one, is applied (R214): in the issuing L2F and in the die's replica; a release holds
its block first (R221). -/
def mergeEntry (s : State) (core : Nat) (e : Entry) (pa typ size : Nat) (v : Word) : State :=
  let k := clusterOf core
  let s := match e.release with
    | some r => if 4 ≤ r.cover then
        match s.rangeOfPa pa with
        | some ri => holdBlock s ri (homeOf pa) pa r.cover
        | none => s
      else s
    | none => s
  let s := if cellPoisoned s pa size then s else joinL2 s k pa typ size v.toNat
  mergeCell (modEntry s core e.id fun x => { x with sent := some s.nextReq }) pa typ size v.toNat (some k) (.entry core e.id)

def execCisternMerge (core idx : Nat) (s : State) : Host.Outcome State Fault Refusal :=
  match (s.core core).queue[idx]? with
  | some e => match e.eff with
    | .join pa typ size v =>
      if e.sent.isSome || !(eligible s core idx e) then .next s
      else if e.ecc then .next (entryEcc s core e)
      else .next (mergeEntry s core e pa typ size v)
    | _ => .next s
  | none => .next s

/-- The idx-th value pushed to a cluster. -/
def pushAt (s : State) (cluster idx : Nat) : Option Push := (s.pushes.filter fun p => p.cluster == cluster)[idx]?

def execReplicaPush (cluster idx : Nat) (s : State) : Host.Outcome State Fault Refusal :=
  match pushAt s cluster idx with
  | none => .next s
  | some p =>
    let t := joinL2 { s with pushes := s.pushes.erase p } cluster p.pa p.typ p.size p.val.toNat
    let u := endMerge t p.merge
    .next ((List.range u.ranges.length).foldl endRounds u)

def execPumpRoundStart (part range : Nat) (s : State) : Host.Outcome State Fault Refusal :=
  let s := liftHolds s
  match s.ranges[range]? with
  | none => .next s
  | some r =>
    let (n, i) := layerOf s r part
    if n ≤ 1 || 4 < part then .next s else
    let set := roundSet s r 4 [part]
    let ok := set.all fun p => partReady s r p &&
      (partners r.sched n (if p = modulePart then i else p) (r.part p).round).all fun j => partnerOk s r set (r.part p).round p j
    .next (if ok then endRounds (set.foldl (fun s p => beginRound s range p) s) range else s)

/-- A block reaches its receiver, which joins each of its cells (R216); one toward a peer is merged there. -/
def receiveBlock (s : State) (b : PumpBlock) : State :=
  match s.ranges[b.range]? with
  | none => s
  | some r =>
    let die := dieOfPart r b.dst
    let size := cellSize r.typ
    -- the block is one more merge of its own until the last of its cells has been taken
    let m := s.nextReq
    let t := (List.range (256 / size)).foldl (fun s i =>
      mergeCell s (onDie die (b.block + size * i)) r.typ size (leNat ((b.data.drop (size * i)).take size)) none (.block b.id))
      { s with nextReq := m + 1, merges := fset s.merges m (.block b.id) }
    endRounds (endMerge t m) b.range

/-- The block comes in from outside, whole, or goes between dies: this module receives it. -/
def comesIn (b : PumpBlock) : Bool := (b.peer.isNone || b.src ≠ modulePart) && b.data.length == 256

/-- A merge of the block is under way. -/
def blockBusy (s : State) (b : PumpBlock) : Bool := s.merges.any fun (_, u) => u == .block b.id

def execPumpBlockReceive (idx : Nat) (s : State) : Host.Outcome State Fault Refusal :=
  match s.blocks[idx]? with
  | some b => .next (if comesIn b && !b.merged && !(blockBusy s b) then receiveBlock s b else s)
  | none => .next s

/-- What the acknowledgement of a block brings about: `none` while it is still to come. A block that a peer did not take stays dirty
toward it (R216, R309). -/
def acknowledged (s : State) (b : PumpBlock) : Option State :=
  match b.req, b.back with
  | some q, _ => (respOf s q).map fun r => match r with
    | .ok .. => clearMark (dropReq s q) b
    | _ => dropReq s q
  | none, some d => if b.merged then some (replyPeer s d (.ok [] false)) else none
  | none, none => if b.merged then some (clearMark s b) else none

/-- A block is acknowledged (R216): this may end rounds and lift holds. -/
def execPumpBlockAck (idx : Nat) (s : State) : Host.Outcome State Fault Refusal :=
  match s.blocks[idx]? with
  | some b => .next (match acknowledged s b with
    | some t => endRounds (liftHolds { t with blocks := dropAt t.blocks idx }) b.range
    | none => s)
  | none => .next s

/-- The words of a range's table entry (R109, R203). -/
def rangeWords (i : RangeInit) : List Byte :=
  natBytes 8 (i.vgran % 2 ^ 36) ++ natBytes 8 (i.len % 2 ^ 37) ++ natBytes 8 (i.pgran % 2 ^ 28) ++
  natBytes 8 (i.pgran / 2 ^ 26 % 4 * 2 ^ 12 + i.typ % 16 * 2 ^ 8 + 2 ^ 4 + i.wr.toNat * 4 + i.rd.toNat * 2 + 1)

/-- The bytes of `n` cells at the bottom of a type. -/
def bottoms (typ n : Nat) : List TByte := (List.replicate n (tbytes (cellSize typ) (bottomOf typ) false)).flatten

/-- The resident OS creates a range (R206, R219): every cell of every replica at the bottom, then the table entry. A peer list
needs feature 0x0003 and allowed peers (R219, R326); the entry is one of the table's, whose count stays (R109). -/
def execCisternRangeCreation (init : RangeInit) (s : State) : Host.Outcome State Fault Refusal :=
  let n := cellSize init.typ
  let fits := n ≠ 0 && init.len ≠ 0 && init.pgran % 2 ^ 26 + init.len ≤ dramBytes / 4096 && init.sched ≤ 2 && init.pgran < 2 ^ 28
  let peersOk := init.peers.isEmpty || (s.hasFeature 3 && init.peers.length ≤ 16 && init.peers.all (devAllowed s))
  if !fits || !peersOk || !((fget s.ctxs init.ctx).isSome) || (s.ctx init.ctx).rtCount ≤ init.entry then .next s else
  let t := (List.range 4).foldl (fun s d =>
    let pa := onDie d (init.pgran * 4096)
    (purge s pa (init.len * 4096)).storeMem pa (bottoms init.typ (init.len * 4096 / n))) s
  let r : Range := { ctx := init.ctx, vgran := init.vgran, len := init.len, pgran := init.pgran, home := init.pgran / 2 ^ 26 % 4,
                     typ := init.typ, sched := init.sched, interval := init.interval, peers := init.peers,
                     parts := (List.range 5).map fun i => (i, { ended := s.hub.time.toNat }) }
  let x := t.ctx init.ctx
  let u := coherentWrite t (x.rtBase + 32 * init.entry) ((rangeWords init).map fun b => (b, false))
  .next { u with ranges := u.ranges ++ [r] }

end Sys2Proof.Machine
end

