-- ==== Sys2Proof/Machine/EvNetwork.lean ====
section
/-! DEFINITION. The routers (R301), the scale-up links (R306 to R309), TIME (R304), and the service of a peer's requests
(R220, R307, R310). -/

namespace Sys2Proof.Machine

def execFlitRoute (cluster : Nat) (s : State) : Host.Outcome State Fault Refusal := .next (routeStep s cluster)

/-- TIME advances, and the age of every flit since its injection (R300, R304). -/
def execTimeTick (s : State) : Host.Outcome State Fault Refusal :=
  .next { s.modHub fun h => { h with time := h.time + 1 } with
    flits := s.flits.map fun f => if f.transit then { f with age := min 1023 (f.age + 1) } else f }

/-! ### A peer's accesses to memory (R220, R310) -/

/-- The table entry for a granule of a peer's access, and its physical granule: for a cistern that of the HOME replica. -/
def peerGran (s : State) (x : Ctx) (g : Nat) (acc : Acc_) : Option (Nat × RtEntry) :=
  let e := rtFind s x g
  match rtCheck e g acc, e with
  | none, some e => if hasDram ((e.pgran + g - e.vgran) * 4096) then some (e.pgran + g - e.vgran, e) else none
  | _, _ => none

/-- The pieces of a peer's access: physical address, length and kind of each granule. -/
def peerPieces (s : State) (x : Ctx) (acc : Acc_) : List (Nat × Nat × Nat) → Option (List (Nat × Nat × RtEntry))
  | [] => some []
  | (g, lo, hi) :: rest =>
    match peerGran s x g acc, peerPieces s x acc rest with
    | some (p, e), some ps => some ((p * 4096 + lo, hi - lo, e) :: ps)
    | _, _ => none

/-- The bytes of pieces, read coherently. -/
def readPieces (s : State) (ps : List (Nat × Nat × RtEntry)) : List (TByte × Bool) := ps.flatMap fun (pa, n, _) => coherentRead s pa n

/-- The bytes of pieces at the home as an uncached read finds them (R157), with what it fetches. -/
def fetchPieces (s : State) (ps : List (Nat × Nat × RtEntry)) : State :=
  ps.foldl (fun s (pa, n, e) => if e.kind = 1 then s else coherentFetch s pa n) s

/-- Bytes written to pieces, coherently. -/
def writePieces (s : State) : List (Nat × Nat × RtEntry) → List TByte → State
  | [], _ => s
  | (pa, n, _) :: ps, bs => writePieces (coherentWrite s pa (bs.take n)) ps (bs.drop n)

/-- Answers of read bytes: poison travels as poison (R123). -/
def bytesAnswer (bs : List (TByte × Bool)) : RemoteResp :=
  if bs.any (·.2) then .poison else .ok (bs.map (·.1.1)) (bs.all (·.1.2))

/-- The cell of a cistern at a peer's address, with the checks that the peer makes (R220): its place and type. -/
def peerCell (s : State) (x : Ctx) (addr : Nat) (acc : Acc_) (ok8 : Bool) : Option (Nat × Nat) :=
  match peerGran s x (addr % 2 ^ 48 / 4096) acc with
  | some (p, e) =>
    let n := cellSize e.typ
    if e.kind = 1 && addr % n = 0 && (n = 4 || ok8) then some (p * 4096 + addr % 4096, e.typ) else none
  | none => none

/-- A read-modify-write of a peer. -/
def peerAtomic (s : State) (x : Ctx) (addr size : Nat) (a : AccOp) (give : Bool) : State × RemoteResp :=
  match peerPieces s x .rw (granules (addr % 2 ^ 48) size) with
  | none => (s, .error)
  | some ps =>
    let old := readPieces s ps
    if old.any (·.2) then (fetchPieces s ps, .poison) else
    let t := match atomicNew a size (oldOf old) with
      | some v => writePieces s ps (tbytes size v false)
      | none => s
    (t, .ok (if give then old.map (·.1.1) else []) false)

/-- A release of a peer at scope 4 or 5 is about to merge at HOME (R220, R221). -/
def holdFor (s : State) (pa : Nat) (rel : Option Nat) : State :=
  match rel, s.rangeOfPa pa with
  | some cover, some ri => if 4 ≤ cover then holdBlock s ri (homeOf pa) pa cover else s
  | _, _ => s

/-- One of the four parts of a block that a peer's pump sends (R216): the first begins the block, the last brings its request. -/
def takePart (s : State) (back : Back) (addr : Nat) (d : List Byte) : State × Option RemoteResp :=
  match s.rangeAt back.ctx addr with
  | none => (s, some .error)
  | some ri => match s.ranges[ri]? with
    | none => (s, some .error)
    | some r =>
      if !(r.peers.contains back.dev) then (s, some .error) else
      let at_ := (r.pgran * 4096 + (addr % 2 ^ 48 - r.vgran * 4096)) % 2 ^ 38
      let begun := fun (b : PumpBlock) => b.range == ri && b.src == 5 && b.peer == some back.dev && b.block == at_ / 256 * 256 &&
        b.data.length == at_ % 256
      let add := fun (b : PumpBlock) => if begun b then { b with data := b.data ++ d, back := some back } else b
      if at_ % 256 ≠ 0 then ({ s with blocks := s.blocks.map add }, none) else
      let b : PumpBlock := { id := s.nextReq, range := ri, src := 5, dst := modulePart, peer := some back.dev, block := at_, data := d,
                             merged := false, back := some back }
      ({ s with nextReq := s.nextReq + 1, blocks := s.blocks ++ [b] }, none)

/-- A space-1 request of a peer at this module's memory or HOME replicas: the state, and the answer unless it comes later. -/
def servePeer (s : State) (back : Back) (x : Ctx) (addr : Nat) (op : PeerOp) : State × Option RemoteResp :=
  let plain := fun (data : List TByte) (ps : List (Nat × Nat × RtEntry)) =>
    if ps.any fun (_, _, e) => e.kind == 1 then (s, some RemoteResp.error) else (writePieces s ps data, some (.ok [] false))
  let merge := fun (s : State) (pa typ v : Nat) =>
    (mergeCell s pa typ (cellSize typ) (v % 2 ^ cellBits typ) none (.peer back), (none : Option RemoteResp))
  let read := fun (n : Nat) (cell : Bool) => match peerPieces s x .read (granules (addr % 2 ^ 48) n) with
    | none => (s, some .error)
    | some ps =>
      if ps.any fun (_, _, e) => e.kind == 1 && (!cell || n ≠ cellSize e.typ || addr % n ≠ 0) then (s, some .error)
      else (fetchPieces s ps, some (bytesAnswer (readPieces s ps)))
  match op with
  | .read n => read n true
  | .vread n => read n false
  | .write d tag => match peerPieces s x .write (granules (addr % 2 ^ 48) d.length) with
    | none => (s, some .error)
    | some ps => plain (d.map fun b => (b, tag)) ps
  | .spoiled d bad => match peerPieces s x .write (granules (addr % 2 ^ 48) d.length) with
    | none => (s, some .error)
    | some ps =>
      let at_ := ps.flatMap fun (pa, n, _) => (List.range n).map (pa + ·)
      let (t, r) := plain (d.map fun b => (b, false)) ps
      (if r = some (.ok [] false) then t.poisonWords (bad.filterMap fun i => (at_[i]?).map (· / 32)) else t, r)
  | .amo a n v give => let (t, r) := peerAtomic s x addr n (.amo a v) give; (t, some r)
  | .cas n e v => let (t, r) := peerAtomic s x addr n (.cas e v) true; (t, some r)
  | .join raw ok8 rel => match peerCell s x addr .joinW ok8 with
    | some (pa, typ) => merge (holdFor s pa rel) pa typ raw.toNat
    | none => (s, some .error)
  | .cellStore d ok8 => match peerPieces s x .write (granules (addr % 2 ^ 48) d.length) with
    | none => (s, some .error)
    | some ps =>
      if ps.any fun (_, _, e) => e.kind == 1 then
        match peerCell s x addr .write ok8 with
        | some (pa, typ) =>
          if cellPoisoned s pa (cellSize typ) then (s, some .poison)
          else if d.length ≠ cellSize typ || !(geq typ (leNat d) (memCell s pa (cellSize typ))) then (s, some .error)
          else merge s pa typ (leNat d)
        | none => (s, some .error)
      else plain (d.map fun b => (b, false)) ps
  | .lwait raw ok8 => match peerCell s x addr .joinR ok8 with
    | none => (s, some .error)
    | some (pa, typ) =>
      let n := cellSize typ
      let v := raw.toNat % 2 ^ cellBits typ
      if cellPoisoned s pa n then (s, some .poison) else
      if geq typ (memCell s pa n) v then (s, some (.ok (natBytes 8 (memCell s pa n)) false))
      else (s.modHub fun h => { h with waits := h.waits ++ [{ dest := back, pa := pa, typ := typ, x := v }] }, none)
  | .pump d => takePart s back addr d
  | _ => (s, some .error)

/-- A request that goes on over the torus to a core: the hub numbers its stream, of which it is the sender (R302, R307). -/
def hubInject (s : State) (r : PeerReq) (body : FlitBody) (kind : Nat) : State :=
  let f : Flit := { colour := s.colourOf r.ctx, kind := kind, peer := true, dst := clusterOf r.dcore, dslot := slotOf r.dcore,
                    src := clusterOf r.score, sslot := slotOf r.score, tag := r.tag, ctx := r.ctx, dev := r.sdev,
                    at_ := Config.hubRouter % 256, body := body }
  match f.stream with
  | none => inject s f
  | some n =>
    let key := n * 4096 + r.dcore
    let q := fgetD s.hub.sendSeq key 0
    inject (s.modHub fun h => { h with sendSeq := fset h.sendSeq key ((q + 1) % 65536) }) { f with seq := q }

/-- Where the answer to a peer's request goes. -/
def PeerReq.back (r : PeerReq) : Back := { dev := r.sdev, core := r.score, mine := r.dcore, tag := r.tag, ctx := r.ctx }

/-- A peer's request waits while a request for its bytes is served at the home (R156). -/
def peerBusy (s : State) (r : PeerReq) : Bool :=
  match fget s.ctxs r.ctx, r.op with
  | none, _ | _, .msg .. | _, .rput .. | _, .answer .. => false
  | some x, op =>
    spaceOf r.addr.toNat ≠ 2 && (granules (r.addr.toNat % 2 ^ 48) (opBytes op)).any fun (g, lo, hi) => match rtFind s x g with
      | some e => e.kind ≠ 1 && homeBusy s ((e.pgran + g - e.vgran) * 4096 + lo) (hi - lo)
      | none => false

/-- An answer at the hub to a request of this module (R307): one to a request of a core goes on as a response flit with the colour of its
context's partition; what the hub itself has asked for ends here. -/
def takeAnswer (s : State) (r : PeerReq) (id : Nat) (resp : RemoteResp) : State :=
  match s.reqs.find? fun q => q.id == id && q.outside with
  | none => s
  | some q => if q.sent.isSome then hubInject s r (.response id resp) 4 else answer s id resp

/-- A peer's request at the hub (R310): an unknown context is an error. To an answer with an unknown context nothing is answered, and it ends
nothing. -/
def peerRequest (s : State) (r : PeerReq) : State :=
  let a := r.addr.toNat
  match fget s.ctxs r.ctx, r.op with
  | none, .answer .. => s
  | some _, .answer id resp => takeAnswer s r id resp
  | none, _ => replyPeer s (PeerReq.back r) .error
  | some _, .msg ws kind => hubInject s r (.msg (.msg ws kind) r.score) 0
  | some _, .rput i w => hubInject s r (.msg (.rput i w) r.score) 1
  | some x, op =>
    if spaceOf a = 2 then hubInject s { r with dcore := scrCoreOf a } (.space2 op (scrRegionOf a) (scrOffOf a) 0) (PeerOp.flitKind op)
    else match servePeer s (PeerReq.back r) x a op with
      | (t, some resp) => replyPeer t (PeerReq.back r) resp
      | (t, none) => t

def execPeerRequestArrival (req : PeerReq) (s : State) : Host.Outcome State Fault Refusal :=
  .next (if peerBusy s req then s else peerRequest s req)

/-! ### Links (R306, R309) -/

/-- A link flit is sound: 256 bytes, its CRC right, and as many messages as NMSG says, at most four (R306). -/
def linkSound (flit : List Byte) (n : Nat) : Bool :=
  flit.length == 256 && leNat (flit.drop 248) == crc64 (flit.take 248) && (flit.getD 4 0).toNat == n && n ≤ 4

/-- The bytes carry a message: its header, but for OPND, and its payload (R306, R307). -/
def carries (devid : Nat) (bs : List Byte) (m : PeerReq) : Bool :=
  leNat (bs.take 16) / 2 ^ 44 == linkFields devid (PeerOp.flitKind m.op) m.dcore m.score (PeerOp.tagField m.op m.tag) m.sdev m.ctx &&
  (bs.drop 16).take (padded (opPayload m.op)).length == padded (opPayload m.op)
def carriesAll (devid : Nat) : List Byte → List PeerReq → Bool
  | _, [] => true
  | bs, m :: ms => carries devid bs m && carriesAll devid (bs.drop (16 + (padded (opPayload m.op)).length)) ms

/-- The lane on which a message came (R308): an answer on that of its request's answers. -/
def laneOf (m : PeerReq) : Nat := match m.op with
  | .answer .. => answerLane m.dcore m.tag
  | _ => requestLane m.score m.tag

/-- LACK acknowledges every flit up to it (R306). -/
def acknowledge (p : Port) (lack : Nat) : Port :=
  let left := p.replay.filter fun f => (lack + 65536 - f.lseq) % 65536 ≥ 32768
  { p with replay := left, fails := if left.length < p.replay.length then 0 else p.fails }

/-- A port sends what waits; a flit that carried messages is acknowledged at the latest by an empty one (R306). -/
def sendAfter (s : State) (port : Nat) (ack : Bool) : State :=
  let t := drainPort port 4 s
  if ack && (t.port port).lseq = (s.port port).lseq then (sendFlit t port true).getD t else t

/-- A flit in its turn is taken: the slots that CRED returns, and each of its messages, whose slots are free again (R306, R308). -/
def takeFlit (s : State) (port : Nat) (p : Port) (flit : List Byte) (msgs : List PeerReq) : State :=
  let p := p.credit (flit.getD 5 0).toNat (leNat ((flit.drop 6).take 2))
  let p := msgs.foldl (fun p m => p.free (laneOf m)) { p with expected := (p.expected + 1) % 65536 }
  sendAfter (msgs.foldl peerRequest (s.setPort port p)) port !msgs.isEmpty

/-- A flit whose CRC fails, or out of order, is discarded: the sender replays (R306). One with a request that has to wait is not taken
yet. -/
def execLinkFlitReceive (port : Nat) (flit : List Byte) (msgs : List PeerReq) (s : State) : Host.Outcome State Fault Refusal :=
  let p := s.port port
  if p.down || !(linkSound flit msgs.length) || !(carriesAll s.hub.devid ((flit.drop 8).take 240) msgs) || msgs.any (peerBusy s) then .next s
  else
    let p := acknowledge p (leNat ((flit.drop 2).take 2))
    .next (if leNat (flit.take 2) ≠ p.expected then sendAfter (s.setPort port p) port false else takeFlit s port p flit msgs)

/-- The sender replays from the first flit that is not acknowledged (R306). -/
def execLinkReplay (port : Nat) (s : State) : Host.Outcome State Fault Refusal :=
  let p := s.port port
  if p.down || p.replay.isEmpty then .next s
  else .next (p.replay.foldl (fun s f => s.emit (.linkFlit port f)) (s.setPort port { p with fails := p.fails + 1 }))

/-- After 16 failed replays a port is down; what it had not got acknowledged moves to another (R309). -/
def execPortDown (port : Nat) (s : State) : Host.Outcome State Fault Refusal :=
  let p := s.port port
  if p.fails < 16 || p.down then .next s
  else .next ((p.replay.flatMap (·.msgs) ++ p.queue).foldl linkOut (s.setPort port { p with down := true, replay := [], queue := [] }))

end Sys2Proof.Machine
end

