-- ==== Sys2Proof/Machine/EvBarrier.lean ====
section
/-! DEFINITION. Drained barrier entries and the arrival of a BARR that had to wait (R199, R200, R336, R337). -/

namespace Sys2Proof.Machine

/-- A drained barrier entry is performed at the object's core: here by `here`, elsewhere as a request (R336). -/
def barEntry (s : State) (core : Nat) (e : Entry) (l : Loc) (op : PeerOp) (here : Nat → Nat → State) : State :=
  match l with
  | .scr c r o => if c = core then here r o else sendEntry s core e (.scr c r o) op
  | l => sendEntry s core e l op

/-- What a BARB word makes of an object (R200). -/
def barbOf (w : Word) (obj : Nat) : Nat × List Nat := barCount obj (w.getLsbD 63) (w.getLsbD 62) (bitsAt w.toNat 0 40)

/-- A count that a core's drained entry or command made: an object that it broke is reported to the core (R200), once for a pair (R286). -/
def countHere (s : State) (core region off : Nat) (addr : Word) (pc : Va) (w : Word) (copy : Bool) : State :=
  let obj := barObject s core region off
  let broke := !(barBroken obj) && barBroken (barbOf w obj).1
  let t := barUpdate s core region off core copy (barbOf w)
  if broke && (s.core core).twinOf.isNone then postNotice t core 0x282 0 addr pc else t

/-- The entry at a place of the queue, if it may take effect and has not been sent. -/
def readyEntry (s : State) (core idx : Nat) : Option Entry :=
  match (s.core core).queue[idx]? with
  | some e => if e.sent.isSome || !(eligible s core idx e) then none else some e
  | none => none

def execBarmApply (core idx : Nat) (s : State) : Host.Outcome State Fault Refusal :=
  match readyEntry s core idx with
  | none => .next s
  | some e => match e.eff with
    | .barm _ l w =>
      if e.ecc then .next (entryEcc s core e) else
      .next (barEntry s core e l (.barm w) fun r o =>
        dropEntry (barUpdate (healRegion s core r o 16) core r o core false fun obj => (barInit obj w, [])) core e.id)
    | _ => .next s

def execBarbApply (core idx : Nat) (s : State) : Host.Outcome State Fault Refusal :=
  match readyEntry s core idx with
  | none => .next s
  | some e => match e.eff with
    | .barb a l w =>
      if e.ecc then .next (entryEcc s core e) else
      .next (barEntry s core e l (.barb w) fun r o =>
        let s := healRegion s core r o 16
        if barPoisoned s core r o then entryEcc s core e
        else countHere (dropEntry s core e.id) core r o a e.pc w false)
    | _ => .next s

/-- What came of an arrival elsewhere (R336): the cause, 0 for none, and the generation. -/
def arrivalResult : RemoteResp → Option (Nat × Nat)
  | .ok (g :: rest) _ => some (leNat rest, g.toNat)
  | .ok [] _ | .error | .refused _ => some (0x381, 0)
  | .poison => some (0x382, 0)
  | .retry => none

/-- The arrival of a waiting BARR, once every earlier entry is performed (R336). -/
def arriveBarr (s : State) (core carrel : Nat) (b : BarrWait) : State :=
  let set := fun (t : State) (f : BarrWait → BarrWait) => t.modCarrel core carrel fun c => { c with barr := c.barr.map f }
  if b.result.isSome || (b.entries.any fun id => (s.core core).queue.any fun e => e.id == id) then s else
  match b.req with
  | some r =>
    match (respOf s r).bind arrivalResult with
    | some x => set (dropReq s r) fun b => { b with result := some x }
    | none => s
  | none =>
    let ask := fun (l : Loc) =>
      if streamBusy s core l then s else
      let (t, r) := sendOp s core (.barr core carrel) l .barr
      set t fun b => { b with req := some r }
    match placeOf s core b.addr.toNat with
    | .scr c r o =>
      if c ≠ core then ask (.scr c r o)
      else
      let s := healRegion s core r o 16
      if barPoisoned s core r o then consumeError (s.modCarrel core carrel fun c => { c with barr := none }) core carrel b.addr
      else
        let (t, code, g) := barArrival s core r o core false
        set t fun b => { b with result := some (code, g) }
    | l => ask l

def execBarrUpdate (core carrel : Nat) (s : State) : Host.Outcome State Fault Refusal :=
  match (s.carrel core carrel).barr with
  | some b => .next (arriveBarr s core carrel b)
  | none => .next s

end Sys2Proof.Machine
end

