-- ==== Sys2Proof/Machine/Graph.lean ====
section
/-! DEFINITION. Task graphs in the dispatch hub (R225 to R240): records and their fields, MSI-X interrupts, and the completion of
a node with its record, its successors and its instance. -/

namespace Sys2Proof.Machine

/-! ### Records (R226 to R231) -/

def Node.paired (n : Node) : Bool := bitAt (n.word 0) 5
def Node.npred (n : Node) : Nat := bitsAt (n.word 0) 16 12
def Node.nsucc (n : Node) : Nat := bitsAt (n.word 0) 32 12
def Node.succOff (n : Node) : Nat := bitsAt (n.word 1) 0 32
def Node.crAddr (n : Node) : Nat := n.word 2

/-- A little-endian field of an image. -/
def imageField (img : List Byte) (off size : Nat) : Nat := leNat ((img.drop off).take size)

/-- The number of nodes, and the record of a node as the image has it. -/
def imageNodes (img : List Byte) : Nat := imageField img 4 2
def imageNode (img : List Byte) (i : Nat) : Node :=
  { words := (List.range 16).map fun j => BitVec.ofNat 64 (imageField img (64 + 128 * i + 8 * j) 8) }

/-- The successors of a node, each once. -/
def succsOf (img : List Byte) (n : Node) : List Nat :=
  ((List.range n.nsucc).map fun j => imageField img (n.succOff + 2 * j) 2).eraseDups

/-! ### The hub's tables -/

def Hub.graph (h : Hub) (id : Nat) : Option Graph := h.graphs.find? fun g => g.id == id
def Hub.inst (h : Hub) (id : Nat) : Option Inst := h.insts.find? fun i => i.id == id
def Hub.tqueue (h : Hub) (q : Nat) : TQueue := fgetD h.queues q {}

/-- A node of a live instance, with its graph. -/
def nodeAt (s : State) (inst node : Nat) : Option (Inst × Graph × Node) :=
  match s.hub.inst inst with
  | none => none
  | some i => match s.hub.graph i.graph, i.nodes[node]? with
    | some g, some n => some (i, g, n)
    | _, _ => none

/-- A change to a node. -/
def State.modNode (s : State) (inst node : Nat) (f : Node → Node) : State :=
  s.modHub fun h => { h with insts := h.insts.map fun i => if i.id = inst then { i with nodes := modAt i.nodes node f } else i }

/-! ### MSI-X (R317, R319) -/

/-- A word of the MSI-X table, laid out as PCI Express lays it out (PRESUMED, log entry 41): address, then data and vector control, whose
mask bit is set at reset. -/
def msixWord (h : Hub) (i : Nat) : Word := fgetD h.msix i (if i % 2 = 1 then BitVec.ofNat 64 (2 ^ 32) else 0)

/-- The vector-control word of a table entry has its mask bit set. -/
def msixMasked (h : Hub) (v : Nat) : Bool := bitAt (msixWord h (2 * v + 1)).toNat 32

/-- An interrupt of a vector: sent, or pending while it is masked. -/
def sendMsix (s : State) (v : Nat) : State :=
  if msixMasked s.hub v then s.modHub fun h => { h with pending := h.pending ||| BitVec.ofNat 64 (2 ^ v) }
  else s.emit (.msix v)

/-! ### The hub's accesses to a context's memory -/

/-- The places of bytes of a context's local memory, by the hub's own walk of its table; none where one of them fails. -/
def hubPieces (s : State) (ctx va size : Nat) (acc : Acc_) : Option (List (Nat × Nat × RtEntry)) :=
  if 2 ^ 48 < va + size then none else peerPieces s (s.ctx ctx) acc (granules va size)

/-- Bytes of a context's memory; none where the translation fails or a byte is poisoned. -/
def hubRead (s : State) (ctx va size : Nat) : Option (List TByte) :=
  match hubPieces s ctx va size .vecR with
  | none => none
  | some ps =>
    let bs := readPieces s ps
    if bs.any (·.2) then none else some (bs.map (·.1))

/-- Bytes written to a context's memory. -/
def hubWrite (s : State) (ctx va : Nat) (bs : List Byte) : Option State :=
  (hubPieces s ctx va bs.length .vecW).map fun ps => writePieces s ps (bs.map fun b => (b, false))

/-! ### Completion (R238 to R240) -/

/-- The completion record (R238): bytes 0 to 31. -/
def recordBytes (inst node status verdict tstart tend acts repl corr : Nat) : List Byte :=
  natBytes 8 (2 ^ 63 + inst % 2 ^ 16 * 2 ^ 32 + node % 2 ^ 12 * 2 ^ 16 + status % 2 ^ 8 * 2 ^ 8 + verdict % 4) ++
  natBytes 8 (acts % 2 ^ 32 * 2 ^ 32 + min repl 65535 * 2 ^ 16 + min corr 65535) ++ natBytes 8 tstart ++ natBytes 8 tend

/-- A predecessor counts as completed: a successor whose last it was becomes ready (R236, R240). -/
def freeSucc (s : State) (inst node : Nat) : State :=
  let place := s.nextReq
  let s := { s with nextReq := s.nextReq + 1 }
  s.modNode inst node fun n =>
    if n.st = .waiting then
      { n with left := n.left - 1, st := if n.left ≤ 1 then .ready else .waiting, readyAt := place }
    else n

def freeSuccs (s : State) (inst : Nat) (g : Graph) (n : Node) : State := (succsOf g.image n).foldl (fun s m => freeSucc s inst m) s

/-- Nobody needs an unloaded graph any more: no live instance and no accepted trigger (R232). -/
def dropGraphs (h : Hub) : Hub :=
  let used := fun (g : Graph) => (h.insts.any fun i => i.graph == g.id) || h.queues.any fun (_, q) => q.queue.any fun t => t.graph == g.id
  { h with graphs := h.graphs.filter fun g => !g.unloaded || used g }

/-- An instance all of whose nodes have completed is over (R239): TSTAT.DONE, then its interrupt. -/
def endInst (s : State) (inst : Nat) : State :=
  match s.hub.inst inst with
  | none => s
  | some i =>
    if !(i.nodes.all fun n => n.st == .done) then s else
    let t := s.modHub fun h =>
      let q := h.tqueue i.queue
      dropGraphs { h with insts := h.insts.filter fun x => x.id ≠ inst,
                          queues := fset h.queues i.queue { q with done := (q.done + 1) % 65536 } }
    if i.irq then sendMsix t i.queue else t

/-- The record of a completing node is written at its CRADDR (R238): bytes 8 to 31 first. When that fails the resident OS is
told, and the verdict is tainted. The verdict is returned. -/
def writeRecord (s : State) (i : Inst) (g : Graph) (node : Nat) (n : Node) (status verdict acts repl corr tend : Nat) : State × Nat :=
  if n.crAddr = 0 then (s, verdict) else
  let rec_ := recordBytes i.id node status verdict (n.start.getD (Config.noStart i.id node)) tend acts repl corr
  match (hubWrite s g.ctx (n.crAddr + 8) (rec_.drop 8)).bind fun t => hubWrite t g.ctx n.crAddr (rec_.take 8) with
  | some t => (t, verdict)
  | none => (s.tellOs (.osRecord i.id node), 2)

/-- A node completes at a TIME: its record, then its successors, which a tainted node holds, then perhaps its instance. A
cancelled node holds nothing: CANCEL has reached its successors. -/
def completeAt (s : State) (inst node status verdict acts repl corr tend : Nat) : State :=
  match nodeAt s inst node with
  | none => s
  | some (i, g, n) =>
    let (t, v) := writeRecord s i g node n status verdict acts repl corr tend
    let holds := v = 2 && status ≠ 3
    let t := t.modNode inst node fun n => { n with st := .done, status := status, verdict := v, holding := holds }
    endInst (if status = 3 || v = 2 then t else freeSuccs t inst g n) inst

/-- A node completes now. -/
def completeNode (s : State) (inst node status verdict acts repl corr : Nat) : State :=
  completeAt s inst node status verdict acts repl corr s.hub.time.toNat

end Sys2Proof.Machine
end

