-- ==== Sys2Proof/Machine/EvSiphon.lean ====
section
/-! DEFINITION. The siphon at work (R181, R187 to R193, R196, R201, R271, R275, R419): acceptance, the walk, completion and
faults of a channel's command, and the options of SCFG. -/

namespace Sys2Proof.Machine

def State.chan (s : State) (core ch : Nat) : Channel := (s.core core).chan ch
def State.setChan (s : State) (core ch : Nat) (x : Channel) : State := s.modCore core fun k => k.setChan ch x
def State.modChan (s : State) (core ch : Nat) (f : Channel → Channel) : State := s.setChan core ch (f (s.chan core ch))

/-! ### The barrier that a command counts at (R187, R201) -/

/-- A count as a BARB word (R200). -/
def countWord (out sub : Bool) (n : Nat) : Word := BitVec.ofNat 64 (out.toNat * 2 ^ 63 + sub.toNat * 2 ^ 62 + n % 2 ^ 40)

/-- A count at an object of the issuing core itself. `auto` counts only where AUTO is set. -/
def countOwn (s : State) (core ch region off : Nat) (w : Word) (auto : Bool) : State :=
  let s := healRegion s core region off 16
  if off + 16 > s.regionSize core region || barPoisoned s core region off then barUnusable s core ch else
  let obj := barObject s core region off
  if auto && !(barAuto obj) then s else
  let broke := !(barBroken obj) && barBroken (barbOf w obj).1
  let t := barUpdate s core region off core true (barbOf w)
  if broke then siphBroke t core ch (BitVec.ofNat 64 (locAddr (.scr core region off))) else t

/-- A count at the object that a command names: here, or as a request to the core that holds it. -/
def countChan (s : State) (core ch : Nat) (home : Option Nat) (region off : Nat) (w : Word) (auto : Bool) : State :=
  if (s.chan core ch).barOff then s else
  match home with
  | none => countOwn s core ch region off w auto
  | some a =>
    if localScratch s core a then countOwn s core ch region off w auto else
    let addr := putBits (putBits a 32 4 region) 0 32 off
    match places s core (s.chan core ch).ctx addr 16 .rw with
    | (t, .error _) => barUnusable t core ch
    | (t, .ok p) =>
      let l := (p.locs.head?).getD (.peer addr)
      (sendOp t core (.siphBar core ch) l (if auto then .barAuto w else .barb w)).1

/-- The count of a SIPH or SGATH command, if it has one. -/
def countCmd (s : State) (core ch : Nat) (c : ChanCmd) (sub auto : Bool) (n : Nat) : State :=
  match c with
  | .siph c =>
    let w := c.ctl.toNat
    if ctlBarv w then countChan s core ch c.barHome (ctlBarreg w) (ctlBaroff w) (countWord (ctlBardir w) sub n) auto else s
  | .gath c =>
    let g := leNat ((c.raw.drop 0x30).take 8)
    if bitAt g 8 then countChan s core ch none (bitsAt g 10 4) (16 * bitsAt g 14 12) (countWord (bitAt g 9) sub n) auto else s

/-- A request of the channel for which `p` holds is not answered yet. -/
def chanWaits (s : State) (p : ReqUser → Bool) : Bool := s.reqs.any fun q => q.resp.isNone && p q.user

/-- A count of the channel on another core is not answered yet. -/
def barWaits (s : State) (core ch : Nat) : Bool := chanWaits s fun u => u == .siphBar core ch

/-- The requests of a channel's elements. -/
def ofChan (core ch : Nat) : ReqUser → Bool
  | .siphRead c h _ | .siphWrite c h _ => c == core && h == ch
  | _ => false

/-! ### Completion (R188, R192, R196, R273, R275) -/

/-- The follow-on MMA and the bytes of the command's range. -/
def ChanCmd.follow : ChanCmd → Option Follow
  | .siph c => c.follow
  | .gath c => c.follow
def ChanCmd.span : ChanCmd → Nat
  | .siph c => c.span
  | .gath _ => 32768
def ChanCmd.bytes : ChanCmd → Nat
  | .siph c => c.tot
  | .gath _ => 32768

/-- The window register's copy as windows (R256, R273). -/
def windowOf (w : Word) : CtxRegs :=
  let n := w.toNat
  { tbase := bitsAt n 0 4, tcnt := bitsAt n 4 5, abase := bitsAt n 16 3, acnt := bitsAt n 19 4 }

/-- An engine queue has 64 entries (R270). -/
def engineMax : Nat := 64

/-- The node that placed the command of a channel completes with it (R229). -/
def nodeOf (c : ChanCmd) : Option (Nat × Nat) := match c with
  | .siph d => d.node
  | .gath _ => none
def endNode (s : State) (c : ChanCmd) (status verdict : Nat) : State :=
  match nodeOf c with
  | some (i, n) => completeNode s i n status verdict 0 0 0
  | none => s

/-- A channel's command is over: parked IDLEs of the core end (R361). -/
def State.endChan (s : State) (core ch : Nat) (x : Channel) : State := s.modCore core fun k => (k.setChan ch x).wakeIdles

/-- The command completes: WMK, DONE, the completion notice of CNOTE, and its node. -/
def doneChan (s : State) (core ch : Nat) (c : ChanCmd) : State :=
  let x := s.chan core ch
  let t := s.endChan core ch { x with cmd := none, wmk := c.span, done := true }
  endNode (if x.note then siphNotice t core ch 0 x.desc else t) c 0 0

/-- A command that has performed all its writes completes as soon as its follow-on, if any, is queued or refused. -/
def tryDone (s : State) (core ch : Nat) (c : ChanCmd) : State :=
  let x := s.chan core ch
  let k := clusterOf core
  match c.follow with
  | none => doneChan s core ch c
  | some f =>
    match mmaChecks s k (windowOf f.twin) f.tda f.tdb f.fa f.fb f.facc f.mig true with
    | .error (cause, n) =>
      let t := if x.quiet then s else postNotice s core cause 0 (BitVec.ofNat 64 n) 0
      doneChan t core ch c
    | .ok m =>
      if engineMax ≤ (s.engine k).queue.length then s.setChan core ch { x with wmk := c.span }
      else doneChan (s.modEngine k fun e => { e with queue := e.queue ++ [{ op := .mma m, core := core, ctx := x.ctx, pc := 0 }] })
        core ch c

/-! ### Acceptance (R181, R187, R192, R196, R271) -/

/-- The engine tiles that a command's follow-on names as operands. -/
def followTiles (f : Follow) : List Nat :=
  (winTile (windowOf f.twin) f.fa).toList ++ (winTile (windowOf f.twin) f.fb).toList

/-- A command names the tile as an operand, or a follow-on that waits for queue room does (R271). -/
def tileNamed (s : State) (k t : Nat) : Bool :=
  (s.engine k).useTile t ≠ 0 ||
  (coresOf k).any fun c => (s.core c).chans.any fun (_, x) =>
    x.written && ((x.cmd.bind ChanCmd.follow).map fun f => (followTiles f).contains t).getD false

/-- A count of the command can be made now: at an object of another core or a peer it takes its turn in the core's stream there (R302). -/
def countFree (s : State) (core : Nat) (c : ChanCmd) : Bool :=
  match c with
  | .siph d => match (if ctlBarv d.ctl.toNat then d.barHome else none) with
    | some a => localScratch s core a || !(streamBusy s core (placeOf s core a))
    | none => true
  | .gath _ => true

/-- The channel is free and no engine command holds back the tiles that the command writes. -/
def mayAccept (s : State) (core ch : Nat) (c : ChanCmd) : Bool :=
  ((s.core core).chan ch).cmd.isNone && !(c.tiles.any (tileNamed s (clusterOf core))) && countFree s core c

/-- A change to an engine tile. -/
def State.modTile (s : State) (k t : Nat) (f : Tile → Tile) : State :=
  s.modEngine k fun e => { e with tiles := fset e.tiles t (f (e.tile t)) }

/-- The tags and poison flags of the tiles that an accepted command writes (R192, R196, R269). -/
def acceptTiles (s : State) (core : Nat) (c : ChanCmd) : State :=
  let k := clusterOf core
  match c with
  | .siph c => match c.tile with
    | none => s
    | some t =>
      let all := c.dlo = 0 && c.span = 16384
      s.modTile k t fun x => { x with swz := ctlSwz c.ctl.toNat, poison := x.poison && !all }
  | .gath c => [c.ta, c.tb].foldl (fun s t => s.modTile k t fun x => { x with swz := 0, poison := false }) s

/-- The command of an entry is accepted. The options of another context's SCFG do not govern it (R22, R193, R229). -/
def acceptCmd (s : State) (core ch : Nat) (e : Entry) (c : ChanCmd) : State :=
  let old := (s.core core).chan ch
  let mine := e.ctx == (s.core core).ctx
  let fresh : Channel :=
    { cmd := some c, last := some c, v := true, hipri := old.hipri, cnote := old.cnote, hi := old.hipri && mine, note := old.cnote && mine,
      ctx := e.ctx, pc := e.pc }
  let s := { dropEntry s core e.id with reqs := s.reqs.filter fun q => !(ofChan core ch q.user) }
  let s := acceptTiles (s.setChan core ch fresh) core c
  let s := countCmd s core ch c false true c.bytes
  match c with
  | .siph d => if d.count = 0 then tryDone (s.modChan core ch fun x => { x with written := true }) core ch c else s
  | .gath _ => s

/-- A command whose entry fails its ECC check at its drain (R278). A SIPH node's belongs to no activation: its node completes with FAULT
(DESIGN CHOICE, log entry 101). -/
def eccCommand (s : State) (core : Nat) (e : Entry) (c : ChanCmd) : State :=
  if (nodeOf c).isSome then endNode (dropEntry s core e.id) c 2 2 else entryEcc s core e

/-- The entry at a place of the queue becomes a command, if it may. -/
def acceptAt (s : State) (core idx : Nat) (pick : Effect → Option (Nat × ChanCmd)) : State :=
  match readyEntry s core idx with
  | none => s
  | some e => match pick e.eff with
    | none => s
    | some (ch, c) =>
      if !(mayAccept s core ch c) then s
      else if e.ecc then eccCommand s core e c
      else acceptCmd s core ch e c

def execSiphAccept (core idx : Nat) (s : State) : Host.Outcome State Fault Refusal :=
  .next (acceptAt s core idx fun x => match x with
    | .siph ch c => some (ch, .siph c)
    | _ => none)

def execSgathAccept (core idx : Nat) (s : State) : Host.Outcome State Fault Refusal :=
  .next (acceptAt s core idx fun x => match x with
    | .sgath ch c => some (ch, .gath c)
    | _ => none)

/-- An entry is about the channel: a command or its options. -/
def aboutChan (ch : Nat) (e : Entry) : Bool :=
  namesChan ch e || match e.eff with
    | .scfg c _ => c == ch
    | _ => false

/-- SCFG sets the options of its channel once every earlier entry that names it is gone (R193, R386). -/
def execScfgApply (core idx : Nat) (s : State) : Host.Outcome State Fault Refusal :=
  match readyEntry s core idx with
  | none => .next s
  | some e => match e.eff with
    | .scfg ch w =>
      if ((s.core core).queue.take idx).any (aboutChan ch) then .next s
      else if e.ecc then .next (entryEcc s core e)
      else .next ((dropEntry s core e.id).modChan core ch fun x => { x with cnote := w.getLsbD 0, hipri := w.getLsbD 1 })
    | _ => .next s

/-! ### Generated accesses (R187, R191) -/

/-- The places of a generated access; a violation is logged as the siphon's (R324). -/
def siphPlaces (s : State) (core ctx addr size : Nat) (acc : Acc_) : State × Option Places :=
  let away := (spaceOf addr = 1 && !(servedHere s ctx addr)) || (spaceOf addr = 2 && !(s.isOwnDev (devOf addr)))
  if away && !(devAllowed s (devOf addr)) then
    (egLog s ctx 1 true core (devOf addr * 2 ^ 16 + (if spaceOf addr = 2 then scrCoreOf addr else 0)), none)
  else if spaceOf addr = 3 && !(hostAllowed s (addr % 2 ^ 60) size) then (egLog s ctx 1 false core (addr % 2 ^ 60), none)
  else match places s core ctx addr size acc with
    | (t, .error _) => (t, none)
    | (t, .ok p) => (t, if (badLoc p.locs).isSome then none else some p)

/-- An access at the home waits while a request for its bytes is served there (R156). -/
def homeHolds (s : State) (p : Places) : Bool := p.locs.any fun l => match l with
  | .mem pa => !(p.window.contains (pa / 4096)) && homeBusy s pa 1
  | _ => false

/-- The bytes at places of this module that the siphon reads at once: memory, as a coherent device-scope read, and the issuing
core's own regions. -/
def readHere (s : State) (core : Nat) (locs : List Loc) : Option (List (TByte × Bool)) :=
  let bs := locs.map fun l => match l with
    | .mem pa => some (coherentByte s pa)
    | .scr .. => baseNow s core .caches l
    | _ => none
  if (bs.all (·.isSome)) = true then some (bs.filterMap id) else none

/-- What a generated read comes to. -/
inductive SiphRead where
  | bytes (s : State) (bs : List (TByte × Bool))
  | wait (s : State)
  | fail (s : State)

/-- The bytes of an answer; those of a poisoned one are poison. -/
def answerBytes (req size : Nat) : RemoteResp → Option (List (TByte × Bool))
  | .ok data tag => some (data.map fun b => ((b, tag), false))
  | .poison => some ((List.range size).map fun i => ((Config.poisonByte req i, false), true))
  | _ => none

/-- A generated read for unit `n`: it is answered now, or its request goes out and the answer is looked for. -/
def siphRead (s : State) (core ch n addr size : Nat) : SiphRead :=
  let x := s.chan core ch
  match x.reading with
  | some r => match respOf s r with
    | none | some .retry => .wait s
    | some a =>
      let t := (dropReq s r).setChan core ch { x with reading := none }
      match answerBytes r size a with
      | some bs => .bytes t bs
      | none => .fail t
  | none =>
    match siphPlaces s core x.ctx addr size .siphR with
    | (t, none) => .fail t
    | (t, some p) =>
      if homeHolds t p then .wait s else
      let t := healPlaces t core p.locs
      match readHere t core p.locs, p.locs with
      | some bs, _ => .bytes t bs
      | none, [] => .bytes t []
      | none, l :: _ =>
        let (t, r) := sendOp t core (.siphRead core ch n) l (.vread size)
        .wait (t.setChan core ch { x with reading := some r })

/-- Poisoned bytes are stored as poison, which taints the verdict (R189, R287). -/
def spoilMem (s : State) (core : Nat) (pas : List Nat) : State :=
  if pas.isEmpty then s else (s.poisonWords (pas.map (· / 32))).taint core

/-- The copies of poisoned bytes of a window, which stay in the caches of the cluster that writes them, are poisoned too (R115, R189). -/
def spoilCopies (s : State) (k : Nat) (pas : List Nat) : State :=
  let spot := fun (c : Cache) (pa : Nat) => match c.find false (pa / 4096) (pa % 4096) with
    | some f => c.stain (f.sector (pa % 4096))
    | none => c
  pas.foldl (fun s pa => (coresOf k).foldl (fun s c => s.modCache (.l1 c) (spot · pa)) (s.modCache (.l2 k) (spot · pa))) s

/-- The places of poisoned bytes in a list. -/
def badPlaces (bs : List (TByte × Bool)) : List Nat := (List.range bs.length).filter fun i => ((bs[i]?).map (·.2)).getD false

/-- What a generated write comes to: performed, sent, or failed. -/
inductive SiphWrite where
  | performed (s : State)
  | sent (s : State)
  | fail (s : State)

/-- A generated write of unit `n` (R187, R419). -/
def siphWrite (s : State) (core ch n addr : Nat) (bs : List (TByte × Bool)) : SiphWrite :=
  let x := s.chan core ch
  let bad := badPlaces bs
  match siphPlaces s core x.ctx addr bs.length .siphW with
  | (t, none) => .fail t
  | (t, some p) =>
    match p.locs with
    | [] => .performed t
    | .mem _ :: _ =>
      let pas := p.locs.filterMap fun l => match l with | .mem pa => some pa | _ => none
      -- granule by granule: the places of one are consecutive
      let put := fun (t : State) (pa : Nat) (d : List TByte) =>
        if p.window.contains (pa / 4096) then writeThrough t (clusterOf core) pa d else coherentWrite t pa d
      let cut := 4096 - pas.headD 0 % 4096
      let t := put t (pas.headD 0) ((bs.map (·.1)).take cut)
      let t := if cut < bs.length then put t (pas.getD cut 0) ((bs.map (·.1)).drop cut) else t
      let spoiled := bad.map fun i => pas.getD i 0
      .performed (spoilMem (spoilCopies t (clusterOf core) (spoiled.filter fun pa => p.window.contains (pa / 4096))) core spoiled)
    | l :: _ =>
      match (match l with | .scr c r o => if c = core then some (r, o) else none | _ => none) with
      | some (r, o) =>
        let put := fun (s : State) (c : Nat) => scrSpoil (scrWrite s c r o (bs.map (·.1))) c r o bad
        .performed (onTwin (put t core) core put)
      | none =>
        let op : PeerOp := if bad.isEmpty then .write (bs.map (·.1.1)) (bs.all (·.1.2)) else .spoiled (bs.map (·.1.1)) bad
        let t := if bad.isEmpty then t else t.taint core
        match l with
        -- a posted write is performed when it is sent
        | .host ha => .performed (t.emit (.hostOp ha op))
        | l =>
        let (t, q) := sendOp t core (.siphWrite core ch n) l op
        .sent (t.setChan core ch { t.chan core ch with inflight := x.inflight ++ [(n, q)] })

/-! ### The walk of a SIPH command (R187, R188, R189, R192) -/

/-- The scale words that a command writes into the side band come before its elements. -/
def SiphCmd.scales (c : SiphCmd) : Nat :=
  match ctlZ8s c.ctl.toNat with
  | 1 => c.ext.getD 1 0
  | 2 => 1
  | _ => 0
def SiphCmd.units (c : SiphCmd) : Nat := c.scales + c.count

/-- The source address of a unit, none for a padded element. -/
def SiphCmd.unitSrc (c : SiphCmd) (n : Nat) : Option Nat :=
  let a : Option Int :=
    if n < c.scales then
      (if ctlZ8s c.ctl.toNat = 1 then (c.srcOf (n * c.ext.getD 0 0)).map (· + 128) else some (capAddr c.src.val + 16384 : Nat))
    else c.srcOf (n - c.scales)
  a.map fun (z : Int) => (z % ((2 ^ 64 : Nat) : Int)).toNat

def SiphCmd.unitSize (c : SiphCmd) (n : Nat) : Nat := if n < c.scales then 4 else ctlSize c.ctl.toNat

/-- The destination of an element: an address, or the byte offset of a tile. -/
def SiphCmd.unitDst (c : SiphCmd) (n : Nat) : Nat := (c.dstOf (n - c.scales) % (2 ^ 64 : Nat)).toNat

/-- A copied element keeps its tag (R189). -/
def SiphCmd.keepsTag (c : SiphCmd) (src dst : Nat) : Bool :=
  ctlSize c.ctl.toNat = 16 && src % 16 = 0 && dst % 16 = 0 && hasPerms (capPerms c.src.val) permTGL &&
  hasPerms (capPerms c.dst.val) permTGS

/-- The watermark (R188): the offset of the lowest element not performed, where walk order ascends. -/
def watermark (c : SiphCmd) (x : Channel) : Nat :=
  let open_ := x.inflight.map (·.1) ++ (if x.next < c.units then [x.next] else [])
  if open_.isEmpty then c.span
  else if !c.ascending then 0
  else minOf (open_.map fun n => (c.dstOf (n - c.scales) - c.dlo).toNat)

/-- A unit's write is performed: WMK advances and its bytes count at the barrier (R188, R201). -/
def unitPerformed (s : State) (core ch : Nat) (c : SiphCmd) (n : Nat) : State :=
  let t := s.modChan core ch fun x =>
    { x with wmk := watermark c x, written := c.units ≤ x.next && x.inflight.isEmpty }
  if n < c.scales then t else countCmd t core ch (.siph c) true false (c.unitSize n)

/-- Bytes of a tile change; poison enters its flag (R189, R269). -/
def tileWrite (t : Tile) (off : Nat) (bs : List (TByte × Bool)) : Tile :=
  { t with bytes := bs.zipIdx.foldl (fun m (b, i) => fset m (off + i) b.1.1) t.bytes, poison := t.poison || bs.any (·.2) }

/-- A scale word of a tile's side band changes. -/
def scaleWrite (t : Tile) (i : Nat) (bs : List (TByte × Bool)) : Tile :=
  { t with scales := fset t.scales i (BitVec.ofNat 32 (tbNat (bs.map (·.1)))), poison := t.poison || bs.any (·.2) }

/-- The bytes of a unit as they are written: a padded element is PAD, a copied one keeps its tag or loses it. -/
def unitBytes (c : SiphCmd) (n : Nat) (bs : List (TByte × Bool)) : List (TByte × Bool) :=
  match c.unitSrc n with
  | none => List.replicate (c.unitSize n) ((ctlPad c.ctl.toNat, false), false)
  | some a =>
    let keep := c.tile.isNone && c.keepsTag a (c.unitDst n) && bs.all (·.1.2)
    bs.map fun b => ((b.1.1, keep), b.2)

/-- The command fails at an address: nothing more is read, written or counted, and the first such address stays (R191). -/
def failChan (s : State) (core ch addr : Nat) : State :=
  s.modChan core ch fun x => { x with failed := some (x.failed.getD (BitVec.ofNat 64 addr)) }

/-- A unit is written. -/
def writeUnit (s : State) (core ch : Nat) (c : SiphCmd) (n : Nat) (bs : List (TByte × Bool)) : State :=
  let s := s.modChan core ch fun x => { x with next := n + 1 }
  let d := unitBytes c n bs
  match c.tile with
  | some t =>
    let f := fun (x : Tile) => if n < c.scales then scaleWrite x n d else tileWrite x (c.unitDst n) d
    unitPerformed (s.modTile (clusterOf core) t f) core ch c n
  | none =>
    match siphWrite s core ch n (c.unitDst n) d with
    | .performed t => unitPerformed t core ch c n
    | .sent t => t
    | .fail t => failChan (t.modChan core ch fun x => { x with next := n }) core ch (c.unitDst n)

/-- Writes under way to another agent are few, and with ALIAS = 1 one at a time, so that collisions end in walk order (R189). -/
def SiphCmd.inflightMax (c : SiphCmd) : Nat := if ctlAlias c.ctl.toNat then 1 else 16

/-- A unit's write has to wait: the home of its destination serves another request for its bytes (R156), the core's stream to the other core
or the peer is not free (R302), or a count is not (R302). -/
def dstHeld (s : State) (core ch : Nat) (c : SiphCmd) (n : Nat) : Bool :=
  !(countFree s core (.siph c)) ||
  c.tile.isNone && match siphPlaces s core (s.chan core ch).ctx (c.unitDst n) (c.unitSize n) .siphW with
    | (_, some p) => homeHolds s p || match p.locs with
      | .scr k r o :: _ => k ≠ core && streamBusy s core (.scr k r o)
      | .peer a :: _ => streamBusy s core (.peer a)
      | _ => false
    | _ => false

/-- The next unit of the walk. -/
def nextUnit (s : State) (core ch : Nat) (c : SiphCmd) : State :=
  let x := s.chan core ch
  let n := x.next
  if c.units ≤ n || barWaits s core ch || c.inflightMax ≤ x.inflight.length || dstHeld s core ch c n then s else
  match c.unitSrc n with
  | none => writeUnit s core ch c n []
  | some a => match siphRead s core ch n a (c.unitSize n) with
    | .wait t => t
    | .fail t => failChan t core ch a
    | .bytes t bs => writeUnit t core ch c n bs

/-- The answers to writes under way: each performed one counts, up to one that failed and fails the command. -/
def collectWrites (s : State) (core ch : Nat) (c : SiphCmd) : State :=
  (s.chan core ch).inflight.foldl (fun s (n, r) =>
    if (s.chan core ch).failed.isSome || !(countFree s core (.siph c)) then s else
    match respOf s r with
    | none | some .retry => s
    | some a =>
      let t := (dropReq s r).modChan core ch fun x => { x with inflight := x.inflight.filter fun y => y.2 ≠ r }
      match a with
      | .ok .. => unitPerformed t core ch c n
      | _ => failChan t core ch (c.unitDst n)) s

/-! ### The gather (R196) -/

/-- The fields of a gather command's descriptor. -/
def GathCmd.field (c : GathCmd) (off size : Nat) : Nat := leNat ((c.raw.drop off).take size)
def GathCmd.edges (c : GathCmd) : Nat := c.rows.getLast?.getD 0 - c.rows.headD 0

/-- What the gather reads next. -/
inductive GathNeed where
  | col (addr : Nat)
  | feat (x addr size : Nat)
  | val (addr size : Nat)
  deriving DecidableEq, Repr

/-- The next read: a feature row comes in pieces that one response flit carries (R300). -/
def gathNeed (c : GathCmd) (x : Channel) : Option GathNeed :=
  let j := x.vals.length
  let e := c.rows.headD 0 + j
  if c.edges ≤ j then none else
  match x.cols[j]? with
  | none => some (.col ((capAddr c.csr.val + c.field 0x10 8 + 4 * e) % 2 ^ 64))
  | some (i, _) =>
    let have_ := ((fget x.feats i).getD []).length
    if i < c.field 0x28 4 && have_ < c.field 0x2C 4 then
      some (.feat i ((capAddr c.feat.val + i * c.field 0x20 8 + have_) % 2 ^ 64) (min 64 (c.field 0x2C 4 - have_)))
    else
      let z := tdBytes (tdFmt c.tda.toNat)
      some (.val ((capAddr c.csr.val + c.field 0x18 8 + z * e) % 2 ^ 64) z)

def GathNeed.addr : GathNeed → Nat
  | .col a | .feat _ a _ | .val a _ => a
def GathNeed.size : GathNeed → Nat
  | .col _ => 4
  | .feat _ _ n | .val _ n => n

/-- What has been read takes its place in the channel. -/
def gathTake (x : Channel) (need : GathNeed) (bs : List (TByte × Bool)) : Channel :=
  match need with
  | .col _ => { x with cols := x.cols ++ [(tbNat (bs.map (·.1)), bs.any (·.2))] }
  | .feat i _ _ => { x with feats := fset x.feats i ((fget x.feats i).getD [] ++ bs) }
  | .val .. => { x with vals := x.vals ++ [bs] }

/-- Tile B: row j is the feature row of edge j, or zero (R196). -/
def gathB (c : GathCmd) (x : Channel) (t : Tile) : Tile :=
  let row := tdCols c.tdb.toNat * tdBytes (tdFmt c.tdb.toNat)
  let rows := x.cols.zipIdx.foldl (fun (u : Tile) ((i, bad), j) =>
    match fget x.feats i with
    | some bs => { tileWrite u (j * row) bs with poison := u.poison || bad || bs.any (·.2) }
    | none => { u with poison := u.poison || bad }) { t with bytes := [] }
  rows

/-- Tile A: A[i][j] is the value of edge e = p[RLO] + j where p[RLO + i] ≤ e < p[RLO + i + 1] (R196). -/
def gathA (c : GathCmd) (x : Channel) (t : Tile) : Tile :=
  let z := tdBytes (tdFmt c.tda.toNat)
  let cols := tdCols c.tda.toNat
  x.vals.zipIdx.foldl (fun (u : Tile) (bs, j) =>
    let e := c.rows.headD 0 + j
    (List.range (c.rows.length - 1)).foldl (fun u i =>
      if c.rows.getD i 0 ≤ e && e < c.rows.getD (i + 1) 0 then tileWrite u ((i * cols + j) * z) bs else u) u) { t with bytes := [] }

/-- The fault bits of the completion record (R196). -/
def gathFaults (c : GathCmd) (x : Channel) : Nat :=
  (x.cols.zipIdx.map fun ((i, _), j) => if i < c.field 0x28 4 then 0 else 2 ^ j).sum

/-- Everything has been read: both tiles, the completion record and the count. -/
def gathFinish (s : State) (core ch : Nat) (c : GathCmd) : State :=
  let x := s.chan core ch
  let g := c.field 0x30 8
  let region := bitsAt g 26 4
  let off := 16 * bitsAt g 30 12
  if off + 16 > s.regionSize core region then failChan s core ch (locAddr (.scr core region off)) else
  let k := clusterOf core
  let s := (s.modTile k c.ta (gathA c x)).modTile k c.tb (gathB c x)
  let put := fun (s : State) (core : Nat) => scrWrite s core region off (tbytes 16 (gathFaults c x) false)
  let s := onTwin (put s core) core put
  countCmd (s.modChan core ch fun x => { x with written := true }) core ch (.gath c) true false 32768

/-- The next read of a gather, or its end. -/
def nextGath (s : State) (core ch : Nat) (c : GathCmd) : State :=
  if barWaits s core ch then s else
  match gathNeed c (s.chan core ch) with
  | none => gathFinish s core ch c
  | some need => match siphRead s core ch 0 need.addr need.size with
    | .wait t => t
    | .fail t => failChan t core ch need.addr
    | .bytes t bs => t.modChan core ch fun x => gathTake x need bs

/-! ### The events -/

/-- A channel whose command can go on now. -/
def walks (x : Channel) : Bool := x.cmd.isSome && x.failed.isNone && !x.written

/-- The core, or the twin that follows it, is being copied: its channels wait (R289, R290). -/
def chanFrozen (s : State) (core : Nat) : Bool := (core :: (s.core core).twin.toList).any fun c => (s.core c).frozen

/-- The next element of a channel can be served now. -/
def elementReady (s : State) (core ch : Nat) (x : Channel) : Bool :=
  walks x && !(chanFrozen s core) && !(barWaits s core ch) &&
  (match x.reading with
   | none => true
   | some r => (respOf s r).any (· != .retry)) &&
  match x.cmd with
  | some (.siph c) => x.next < c.units && x.inflight.length < c.inflightMax && !(dstHeld s core ch c x.next)
  | _ => true

/-- A channel of the cluster under HIPRI has an element to serve (R193). -/
def hipriFirst (s : State) (core ch : Nat) : Bool :=
  (coresOf (clusterOf core)).any fun c => (s.core c).chans.any fun (h, x) => !(c = core && h = ch) && x.hi && elementReady s c h x

def execSiphElementWrite (core ch : Nat) (s : State) : Host.Outcome State Fault Refusal :=
  let x := s.chan core ch
  if !(walks x) || chanFrozen s core then .next s else
  match x.cmd with
  | none => .next s
  | some c =>
    let t := match c with
      | .siph d => collectWrites s core ch d
      | .gath _ => s
    let y := t.chan core ch
    if !(walks y) || (!y.hi && hipriFirst t core ch) then .next t else
    match c with
    | .siph d => .next (nextUnit t core ch d)
    | .gath g => .next (nextGath t core ch g)

/-- DONE, once all writes are performed and counted. -/
def execSiphDone (core ch : Nat) (s : State) : Host.Outcome State Fault Refusal :=
  let x := s.chan core ch
  match x.cmd with
  | some c => .next (if x.written && x.failed.isNone && !(barWaits s core ch) then tryDone s core ch c else s)
  | none => .next s

/-- A failed command ends in FLT with its notice; what waits for it traps (R190, R191). -/
def execSiphFault (core ch : Nat) (s : State) : Host.Outcome State Fault Refusal :=
  let x := s.chan core ch
  match x.cmd, x.failed with
  | some c, some a =>
    let t : State := { s with reqs := s.reqs.filter fun q => !(ofChan core ch q.user) }
    let y : Channel := { x with cmd := none, flt := true, faultAddr := a, failed := none, reading := none, inflight := [] }
    .next (endNode (siphNotice (t.endChan core ch y) core ch 0x1C4 a) c 2 2)
  | _, _ => .next s

end Sys2Proof.Machine
end

