-- ==== Sys2Proof/Machine/Float.lean ====
section
/-! DEFINITION. Number formats and their arithmetic (R251 to R253, R355 to R359): values are exact integers scaled by a
power of two, and each operation rounds once. The flags an operation raises are a record of their own. -/

namespace Sys2Proof.Machine

/-- The rounding modes of FPC.RM (R69). -/
inductive Rm where
  | rne | rtz | rdn | rup
  deriving DecidableEq, Repr

/-- The flags of R69 that an operation raises. -/
structure FFlags where
  iv : Bool := false
  dz : Bool := false
  ovf : Bool := false
  udf : Bool := false
  nx : Bool := false
  nsat : Bool := false
  deriving DecidableEq, Repr

def FFlags.or (f g : FFlags) : FFlags :=
  { iv := f.iv || g.iv, dz := f.dz || g.dz, ovf := f.ovf || g.ovf, udf := f.udf || g.udf, nx := f.nx || g.nx,
    nsat := f.nsat || g.nsat }

/-- A binary format: exponent and mantissa widths (R251). -/
structure Fmt where
  eb : Nat
  mb : Nat
  deriving DecidableEq, Repr

def fmt64 : Fmt := ⟨11, 52⟩
def fmt32 : Fmt := ⟨8, 23⟩
def fmtBf : Fmt := ⟨8, 7⟩
def fmt43 : Fmt := ⟨4, 3⟩

def Fmt.bits (f : Fmt) : Nat := 1 + f.eb + f.mb
def Fmt.bias (f : Fmt) : Nat := 2 ^ (f.eb - 1) - 1

/-- A value: NaN (signalling or not), infinity, or (−1)^neg × m × 2^e. -/
inductive FNum where
  | nan (signalling : Bool)
  | inf (neg : Bool)
  | num (neg : Bool) (m : Nat) (e : Int)
  deriving DecidableEq, Repr

/-- The value of an IEEE encoding (R251). -/
def Fmt.decode (f : Fmt) (x : Nat) : FNum :=
  let neg := bitAt x (f.eb + f.mb)
  let e := bitsAt x f.mb f.eb
  let m := bitsAt x 0 f.mb
  if e = 2 ^ f.eb - 1 then (if m = 0 then .inf neg else .nan (!(bitAt m (f.mb - 1))))
  else if e = 0 then .num neg m (1 - (f.bias : Int) - f.mb)
  else .num neg (2 ^ f.mb + m) ((e : Int) - f.bias - f.mb)

/-- The value of an E4M3 byte (R252). It has no infinity and no signalling NaN. -/
def decode43 (x : Nat) : FNum :=
  let neg := bitAt x 7
  let e := bitsAt x 3 4
  let m := bitsAt x 0 3
  if e = 15 && m = 7 then .nan false
  else if e = 0 then .num neg m (-9)
  else .num neg (8 + m) ((e : Int) - 10)

/-- The canonical NaN (R251), an infinity and the largest finite value. -/
def Fmt.nanBits (f : Fmt) : Nat := (2 ^ f.eb - 1) * 2 ^ f.mb + 2 ^ (f.mb - 1)
def Fmt.infBits (f : Fmt) (neg : Bool) : Nat := neg.toNat * 2 ^ (f.eb + f.mb) + (2 ^ f.eb - 1) * 2 ^ f.mb
def Fmt.maxBits (f : Fmt) (neg : Bool) : Nat := f.infBits neg - 1

/-- Rounding of (m + δ) / 2^k to an integer, δ in (0, 1) when `sticky`: the result and whether it is inexact. -/
def roundShift (rm : Rm) (neg : Bool) (m k : Nat) (sticky : Bool) : Nat × Bool :=
  let q := m / 2 ^ k
  let r := m % 2 ^ k
  let inexact := r ≠ 0 || sticky
  let up := match rm with
    | .rtz => false
    | .rdn => neg && inexact
    | .rup => !neg && inexact
    | .rne =>
      if 2 * r > 2 ^ k || (2 * r = 2 ^ k && sticky) then true
      else 2 * r = 2 ^ k && q % 2 = 1 && k ≠ 0
  (if up then q + 1 else q, inexact)

/-- (m + δ) × 2^e at the quantum 2^q: the mantissa in units of 2^q, and whether it is inexact. -/
def roundAt (rm : Rm) (neg : Bool) (m : Nat) (e : Int) (sticky : Bool) (q : Int) : Nat × Bool :=
  if q ≤ e then (m * 2 ^ (e - q).toNat, sticky) else roundShift rm neg m (q - e).toNat sticky

/-- A mantissa of at most p + 1 bits renormalised to p bits with its quantum. -/
def normMant (p : Nat) (m : Nat) (q : Int) : Nat × Int := if 2 ^ p ≤ m then (m / 2, q + 1) else (m, q)

/-- Rounding of a non-zero (m + δ) × 2^e into a format (R356): the bits and the flags. `m` has more bits than the
mantissa when `sticky`. -/
def Fmt.round (f : Fmt) (rm : Rm) (neg : Bool) (m : Nat) (e : Int) (sticky : Bool) : Nat × FFlags :=
  let p := f.mb + 1
  let emin : Int := 1 - (f.bias : Int)
  let top : Int := e + m.log2
  let qfree : Int := top - f.mb
  let qmin : Int := emin - f.mb
  let (mr, ix) := roundAt rm neg m e sticky (max qfree qmin)
  let (mn, qn) := normMant p mr (max qfree qmin)
  let (fm, _) := roundAt rm neg m e sticky qfree
  let (fm, fq) := normMant p fm qfree
  let tiny := fq + f.mb < emin || fm = 0
  if (f.bias : Int) < qn + f.mb then
    let away := match rm with
      | .rne => true
      | .rtz => false
      | .rdn => neg
      | .rup => !neg
    (if away then f.infBits neg else f.maxBits neg, { ovf := true, nx := true })
  else
    let ef := if mn < 2 ^ f.mb then 0 else (qn + f.mb + f.bias).toNat
    (neg.toNat * 2 ^ (f.eb + f.mb) + ef * 2 ^ f.mb + mn % 2 ^ f.mb, { nx := ix, udf := tiny && ix })

/-- A value into a format: exact zero keeps its sign, a NaN becomes canonical (R356), signalling sets IV. -/
def Fmt.encode (f : Fmt) (rm : Rm) : FNum → Nat × FFlags
  | .nan sg => (f.nanBits, { iv := sg })
  | .inf neg => (f.infBits neg, {})
  | .num neg m e => if m = 0 then (neg.toNat * 2 ^ (f.eb + f.mb), {}) else f.round rm neg m e false

/-- A value into E4M3: nearest even, saturating at ±448 with NSAT and NX; a NaN gives 0x7F and no flag (R253, R359). -/
def encode43 : FNum → Nat × FFlags
  | .nan _ => (0x7F, {})
  | .inf neg => (neg.toNat * 128 + 0x7E, { nsat := true, nx := true })
  | .num neg m e =>
    if m = 0 then (neg.toNat * 128, {}) else
    let q := max (e + m.log2 - 3) (-9)
    let (mr, ix) := roundAt .rne neg m e false q
    let (mn, qn) := normMant 4 mr q
    if 5 < qn || (qn = 5 && 14 < mn) then (neg.toNat * 128 + 0x7E, { nsat := true, nx := true })
    else
      let ef := if mn < 8 then 0 else (qn + 10).toNat
      (neg.toNat * 128 + ef * 8 + mn % 8, { nx := ix })

/-! ### Exact sums and products -/

/-- A signed mantissa. -/
def signedMant (neg : Bool) (m : Nat) : Int := if neg then -(m : Int) else m

/-- The exact sum of two finite values; an exact zero of opposite signs takes `zneg` (R356). -/
def addNum (zneg : Bool) (n1 : Bool) (m1 : Nat) (e1 : Int) (n2 : Bool) (m2 : Nat) (e2 : Int) : FNum :=
  let e := min e1 e2
  let z := signedMant n1 m1 * 2 ^ (e1 - e).toNat + signedMant n2 m2 * 2 ^ (e2 - e).toNat
  if z = 0 then .num (if n1 == n2 then n1 else zneg) 0 0 else .num (z < 0) z.natAbs e

/-- Whether a value is NaN, and whether it signals. -/
def FNum.isNan : FNum → Bool
  | .nan _ => true
  | _ => false
def FNum.isSig : FNum → Bool
  | .nan sg => sg
  | _ => false
def FNum.neg : FNum → FNum
  | .nan sg => .nan sg
  | .inf n => .inf (!n)
  | .num n m e => .num (!n) m e

/-- The result of an exact operation before rounding: a value, or a NaN that the operation makes (`invalid`). -/
structure Exact where
  val : FNum
  fl : FFlags := {}
  deriving DecidableEq, Repr

def badOp : Exact := { val := .nan false, fl := { iv := true } }
def nanOp (sg : Bool) : Exact := { val := .nan false, fl := { iv := sg } }

/-- x + y (R356). -/
def addX (rm : Rm) (x y : FNum) : Exact :=
  match x, y with
  | .num n1 m1 e1, .num n2 m2 e2 => { val := addNum (rm == .rdn) n1 m1 e1 n2 m2 e2 }
  | .inf a, .inf b => if a == b then { val := .inf a } else badOp
  | .inf a, .num .. => { val := .inf a }
  | .num .., .inf b => { val := .inf b }
  | .nan a, y => nanOp (a || y.isSig)
  | x, .nan b => nanOp (b || x.isSig)

/-- x × y (R356). -/
def mulX (x y : FNum) : Exact :=
  match x, y with
  | .num n1 m1 e1, .num n2 m2 e2 => { val := .num (n1 != n2) (m1 * m2) (e1 + e2) }
  | .inf a, .inf b => { val := .inf (a != b) }
  | .inf a, .num b m _ => if m = 0 then badOp else { val := .inf (a != b) }
  | .num a m _, .inf b => if m = 0 then badOp else { val := .inf (a != b) }
  | .nan a, y => nanOp (a || y.isSig)
  | x, .nan b => nanOp (b || x.isSig)

/-- x × y + z, rounded once (R355); 0 × ∞ is invalid even when z is a quiet NaN (R356). -/
def fmaX (rm : Rm) (x y z : FNum) : Exact :=
  let p := mulX x y
  if p.val.isNan then { val := .nan false, fl := { iv := p.fl.iv || z.isSig } } else addX rm p.val z

/-- A rounded result with the flags of its operation. -/
def Fmt.finish (f : Fmt) (rm : Rm) (x : Exact) : Nat × FFlags :=
  let (b, fl) := f.encode rm x.val
  (b, fl.or x.fl)

/-- x ÷ y (R356). -/
def Fmt.divide (f : Fmt) (rm : Rm) (x y : FNum) : Nat × FFlags :=
  match x, y with
  | .num n1 m1 e1, .num n2 m2 e2 =>
    let neg := n1 != n2
    if m2 = 0 then
      if m1 = 0 then f.finish rm badOp else (f.infBits neg, { dz := true })
    else if m1 = 0 then (neg.toNat * 2 ^ (f.eb + f.mb), {})
    else
      let k := f.mb + 3 + m2.log2
      f.round rm neg (m1 * 2 ^ k / m2) (e1 - e2 - k) (m1 * 2 ^ k % m2 ≠ 0)
  | .inf a, .num b _ _ => (f.infBits (a != b), {})
  | .num a _ _, .inf b => ((a != b).toNat * 2 ^ (f.eb + f.mb), {})
  | .inf _, .inf _ => f.finish rm badOp
  | .nan a, y => f.finish rm (nanOp (a || y.isSig))
  | x, .nan b => f.finish rm (nanOp (b || x.isSig))

/-- The integer square root by bits: the largest r with r² ≤ n, for r below 2^k. -/
def isqrt (n : Nat) : Nat → Nat → Nat
  | 0, r => r
  | k + 1, r => if (r + 2 ^ k) * (r + 2 ^ k) ≤ n then isqrt n k (r + 2 ^ k) else isqrt n k r

/-- √x (R356): √(−0) is −0, a value below −0 is invalid. -/
def Fmt.squareRoot (f : Fmt) (rm : Rm) (x : FNum) : Nat × FFlags :=
  match x with
  | .nan sg => f.finish rm (nanOp sg)
  | .inf neg => if neg then f.finish rm badOp else (f.infBits false, {})
  | .num neg m e =>
    if m = 0 then (neg.toNat * 2 ^ (f.eb + f.mb), {})
    else if neg then f.finish rm badOp
    else
      let k := 2 * (f.mb + 3) + (e % 2).toNat
      let n := m * 2 ^ k
      let r := isqrt n (n.log2 / 2 + 1) 0
      f.round rm false r ((e - k) / 2) (r * r ≠ n)

/-! ### Comparison -/

/-- x < y and x = y of two values that are not NaN; −0 equals +0. -/
def FNum.cmp (x y : FNum) : Ordering :=
  match x, y with
  | .num n1 m1 e1, .num n2 m2 e2 =>
    let e := min e1 e2
    compare (signedMant n1 m1 * 2 ^ (e1 - e).toNat) (signedMant n2 m2 * 2 ^ (e2 - e).toNat)
  | .inf a, .inf b => compare (if a then 0 else 1) (if b then 0 else (1 : Nat))
  | .inf a, _ => if a then .lt else .gt
  | _, .inf b => if b then .gt else .lt
  | _, _ => .eq

/-- The sign of a value. -/
def FNum.sign : FNum → Bool
  | .inf n => n
  | .num n _ _ => n
  | .nan _ => false

/-- FCMP (R357): the relation and IV. -/
def fcmpX (c : FcmpOp) (x y : FNum) : Bool × FFlags :=
  let un := x.isNan || y.isNan
  let sg := x.isSig || y.isSig
  match c with
  | .eq => (!un && x.cmp y == .eq, { iv := sg })
  | .lt => (!un && x.cmp y == .lt, { iv := un })
  | .le => (!un && x.cmp y != .gt, { iv := un })
  | .un => (un, { iv := sg })

/-- FMIN and FMAX on encodings (R356): the number of two when one is NaN; −0 lies below +0. -/
def Fmt.minmax (f : Fmt) (isMax : Bool) (a b : Nat) : Nat × FFlags :=
  let x := f.decode a
  let y := f.decode b
  let fl : FFlags := { iv := x.isSig || y.isSig }
  if x.isNan && y.isNan then (f.nanBits, fl)
  else if x.isNan then (b, fl)
  else if y.isNan then (a, fl)
  else
    let less := x.cmp y == .lt || (x.cmp y == .eq && x.sign)
    (if less != isMax then a else b, fl)

/-! ### Integers -/

/-- A value to an integer of `n` bits, signed or not, under a rounding mode (R359): the pattern and the flags. -/
def toInteger (rm : Rm) (n : Nat) (isSigned : Bool) (x : FNum) : Nat × FFlags :=
  let lo : Int := if isSigned then -(2 ^ (n - 1) : Nat) else 0
  let hi : Int := if isSigned then (2 ^ (n - 1) : Nat) - 1 else (2 ^ n : Nat) - 1
  let pat := fun (z : Int) => (z % (2 ^ n : Nat)).toNat
  match x with
  | .nan _ => (0, { iv := true })
  | .inf neg => (pat (if neg then lo else hi), { iv := true })
  | .num neg m e =>
    let (r, ix) := roundAt rm neg m e false 0
    let z := signedMant neg r
    if z < lo then (pat lo, { iv := true })
    else if hi < z then (pat hi, { iv := true })
    else (pat z, { nx := ix })

/-- An integer as a value; zero is +0. -/
def ofInteger (z : Int) : FNum := .num (z < 0) z.natAbs 0

/-! ### Instruction formats -/

def fpFmtOf : FpFmt → Fmt
  | .fp32 => fmt32
  | .fp64 => fmt64

def vfFmtOf : VfFmt → Fmt
  | .bf16 => fmtBf
  | .fp32 => fmt32
  | .fp64 => fmt64

/-- Negation of an encoding. -/
def Fmt.flip (f : Fmt) (x : Nat) : Nat := if bitAt x (f.eb + f.mb) then x - 2 ^ (f.eb + f.mb) else x + 2 ^ (f.eb + f.mb)

/-- The arithmetic members of R355 and R407 on encodings. -/
inductive FpOp where
  | add | sub | mul | fma | min | max | div | sqrt
  deriving DecidableEq, Repr

/-- One operation of R355 rounded by `rm` (R356). -/
def Fmt.apply (f : Fmt) (rm : Rm) (o : FpOp) (x y z : Nat) : Nat × FFlags :=
  match o with
  | .add => f.finish rm (addX rm (f.decode x) (f.decode y))
  | .sub => f.finish rm (addX rm (f.decode x) (f.decode y).neg)
  | .mul => f.finish rm (mulX (f.decode x) (f.decode y))
  | .fma => f.finish rm (fmaX rm (f.decode x) (f.decode y) (f.decode z))
  | .min => f.minmax false x y
  | .max => f.minmax true x y
  | .div => f.divide rm (f.decode x) (f.decode y)
  | .sqrt => f.squareRoot rm (f.decode x)

end Sys2Proof.Machine
end

