-- ==== Sys2Proof/Machine/EvEngine.lean ====
section
/-! DEFINITION. The matrix engine (R254, R263 to R274): the command queue, the start checks, the arithmetic of MMA, the writes
of MACST, and migration. -/

namespace Sys2Proof.Machine

/-! ### Arithmetic (R267, R268) -/

/-- The value of one step with the flags it sets. -/
structure EngVal where
  bits : Nat
  aov : Bool := false
  aiv : Bool := false
  deriving DecidableEq, Repr

/-- The rounding of a step (R268): an exact zero is +0, a NaN canonical; AIV when no input was a NaN. -/
def engRound (f : Fmt) (nanIn : Bool) (x : FNum) : EngVal :=
  match x with
  | .nan _ => { bits := f.nanBits, aiv := !nanIn }
  | .inf neg => { bits := f.infBits neg }
  | .num neg m e =>
    if m = 0 then { bits := 0 } else
    let (b, fl) := f.round .rne neg m e false
    { bits := b, aov := fl.ovf }

/-- The exact sum of products, and whether an input is a NaN. -/
def exactSum (ps : List (FNum × FNum)) : FNum × Bool :=
  (ps.foldl (fun z (x, y) => (addX .rne z (mulX x y).val).val) (.num false 0 0), ps.any fun (x, y) => x.isNan || y.isNan)

/-- An accumulator element with the sticky flags so far. -/
structure AccVal where
  bits : Nat
  aov : Bool := false
  aiv : Bool := false
  asat : Bool := false
  deriving DecidableEq, Repr

def AccVal.step (a : AccVal) (v : EngVal) : AccVal := { a with bits := v.bits, aov := a.aov || v.aov, aiv := a.aiv || v.aiv }
def AccVal.note (a : AccVal) (v : EngVal) : AccVal := { a with aov := a.aov || v.aov, aiv := a.aiv || v.aiv }

/-- x × y + z as one step. -/
def fmaStep (f : Fmt) (x y z : FNum) : EngVal := engRound f (x.isNan || y.isNan || z.isNan) (fmaX .rne x y z).val

/-- E4M3 (R267): the slab, the scale product, and one rounding into the accumulator. -/
def accE4m3 (ps : List (FNum × FNum)) (sa sb : Nat) (old : Nat) : AccVal :=
  let (s, bad) := exactSum ps
  let slab := engRound fmt32 bad s
  let x := fmt32.decode sa
  let y := fmt32.decode sb
  let g := engRound fmt32 (x.isNan || y.isNan) (mulX x y).val
  let r := fmaStep fmt32 (fmt32.decode slab.bits) (fmt32.decode g.bits) (fmt32.decode old)
  (((({ bits := old } : AccVal).note slab).note g).step r)

/-- BF16 (R267): four groups of 16, each rounded and added. -/
def accBf16 : Nat → List (FNum × FNum) → AccVal → AccVal
  | 0, _, a => a
  | n + 1, ps, a =>
    let (s, bad) := exactSum (ps.take 16)
    let p := engRound fmt32 bad s
    let x := fmt32.decode a.bits
    let y := fmt32.decode p.bits
    accBf16 n (ps.drop 16) ((a.note p).step (engRound fmt32 (x.isNan || y.isNan) (addX .rne x y).val))

/-- FP32 and FP64 (R267): a chain of fused steps. -/
def accFma (f : Fmt) (ps : List (FNum × FNum)) (old : Nat) : AccVal :=
  ps.foldl (fun a (x, y) => a.step (fmaStep f x y (f.decode a.bits))) { bits := old }

/-- INT8 (R267): exact, then clamped. -/
def accInt8 (ps : List (Int × Int)) (old : Nat) : AccVal :=
  let t : Int := signedOf 32 old + (ps.map fun (x, y) => x * y).sum
  let c : Int := min (2 ^ 31 - 1) (max (-(2 ^ 31)) t)
  { bits := (c % (2 ^ 32 : Nat)).toNat, asat := c ≠ t }

/-! ### MMA (R266, R267, R269) -/

/-- Element (r, c) of a tile (R254). -/
def Tile.elem (t : Tile) (cols z r c : Nat) : Nat :=
  leNat ((List.range z).map fun i => fgetD t.bytes ((r * cols + c) * z + i) 0)

/-- A word of a tile's side band; it reads 1.0 where nothing has written it (R255). -/
def Tile.scale (t : Tile) (i : Nat) : Nat := (fgetD t.scales i 0x3F800000).toNat

/-- The accumulator kind of a format (R266). -/
def kindOfFmt : Nat → AccKind
  | 2 => .i32
  | 4 => .f32s
  | 5 => .f64
  | _ => .f32

/-- The value of a tile element of a format. -/
def fmtValue (fmt x : Nat) : FNum :=
  match fmt with
  | 1 => decode43 x
  | 3 => fmtBf.decode x
  | 5 => fmt64.decode x
  | _ => fmt32.decode x

/-- Element (i, j) of the accumulator after an MMA. -/
def mmaElem (m : MmaCmd) (ta tb : Tile) (old i j : Nat) : AccVal :=
  let a := m.tda.toNat
  let b := m.tdb.toNat
  let fmt := tdFmt a
  let z := tdBytes fmt
  let ps := (List.range (tdCols a)).map fun k => (ta.elem (tdCols a) z i k, tb.elem (tdCols b) z k j)
  let vs := ps.map fun (x, y) => (fmtValue fmt x, fmtValue fmt y)
  match fmt with
  | 1 => accE4m3 vs (if tdScale a = 1 then ta.scale i else 0x3F800000) (if tdScale b = 2 then tb.scale 0 else 0x3F800000) old
  | 2 => accInt8 (ps.map fun (x, y) => (signedOf 8 x, signedOf 8 y)) old
  | 3 => accBf16 4 vs { bits := old }
  | 5 => accFma fmt64 vs old
  | _ => accFma fmt32 vs old

/-- The accumulator after an MMA (R267); a poisoned tile poisons it (R269). -/
def mmaResult (m : MmaCmd) (ta tb : Tile) (acc : Acc) : Acc :=
  let n := accSide acc.kind
  let vs := (List.range (n * n)).map fun e => mmaElem m ta tb (fgetD acc.elems e 0).toNat (e / n) (e % n)
  { acc with
    elems := vs.zipIdx.map fun (v, e) => (e, BitVec.ofNat 64 v.bits),
    aov := acc.aov || vs.any (·.aov), aiv := acc.aiv || vs.any (·.aiv), asat := acc.asat || vs.any (·.asat),
    poison := acc.poison || ta.poison || tb.poison }

/-! ### The queue (R270) -/

def execEngineQueueEntry (core idx : Nat) (s : State) : Host.Outcome State Fault Refusal :=
  match readyEntry s core idx with
  | none => .next s
  | some e => match e.eff with
    | .engine op =>
      let k := clusterOf core
      if engineMax ≤ (s.engine k).queue.length then .next s
      else if e.ecc then .next (entryEcc s core e)
      else
        let c : EngCmd := { op := op, core := core, ctx := e.ctx, pc := e.pc }
        .next ((dropEntry s core e.id).modEngine k fun x => { x with queue := x.queue ++ [c] })
    | _ => .next s

/-! ### Starting (R271) -/

/-- The checks of an MMA at its start, on the tiles and the accumulator it will use: the cause and the number. -/
def mmaStart (m : MmaCmd) (ta tb : Tile) (acc : Acc) : Option (Nat × Nat) :=
  if acc.kind ≠ kindOfFmt (tdFmt m.tda.toNat) then some (0x203, m.nacc)
  else if ta.swz ≠ tdSwz m.tda.toNat then some (0x201, m.na)
  else if tb.swz ≠ tdSwz m.tdb.toNat then some (0x201, m.nb)
  else none

/-- The check of a command at its start. -/
def startCheck (e : Engine) (c : EngCmd) : Option (Nat × Nat) :=
  match c.op with
  | .mma m => mmaStart m (e.tile m.a) (e.tile m.b) (e.acc m.acc)
  | .macz .. => none
  | .macst m => if (e.acc m.acc).kind ≠ m.kind then some (0x203, m.nacc) else none

/-- The notice of a failing command: it ends without changing anything. -/
def engineNotice (s : State) (c : EngCmd) (cause n : Nat) : State := postNotice s c.core cause 0 (BitVec.ofNat 64 n) c.pc

/-- The barrier of a MACST, on the issuing core (R264): its region and offset. -/
def macstBar (m : MacstCmd) : Option (Nat × Nat) :=
  let w := m.ctl.toNat
  if bitAt w 35 then some (bitsAt w 36 4, 16 * bitsAt w 40 12) else none

/-- A MACST counts bytes at its barrier (R265, R201); `auto` counts only where AUTO is set. -/
def macstCount (s : State) (c : EngCmd) (m : MacstCmd) (sub auto : Bool) (n : Nat) : State :=
  match macstBar m with
  | none => s
  | some (r, o) =>
    let s := healRegion s c.core r o 16
    if barPoisoned s c.core r o || (auto && !(barAuto (barObject s c.core r o))) then s else
    countHere s c.core r o (BitVec.ofNat 64 (locAddr (.scr c.core r o))) c.pc (countWord (bitAt m.ctl.toNat 52) sub n) true

/-- The number of elements of a MACST and the bytes of one. -/
def macstElems (m : MacstCmd) : Nat := accSide m.kind * accSide m.kind
def macstSize (m : MacstCmd) : Nat := macstBytes m.kind (bitsAt m.ctl.toNat 32 2)

/-- The head command may start (R271). -/
def headReady (s : State) (k : Nat) (c : EngCmd) : Bool :=
  !((s.engine k).away.any fun x => x.op.accOf == c.op.accOf) && !(c.op.tiles.any (tileFilling s k))

def execEngineCommandStart (cluster : Nat) (s : State) : Host.Outcome State Fault Refusal :=
  let e := s.engine cluster
  match e.queue with
  | [] => .next s
  | c :: rest =>
    if e.running.isSome || e.migrant.isSome || !(headReady s cluster c) then .next s else
    match startCheck e c with
    | some (cause, n) => .next (engineNotice (s.modEngine cluster fun e => { e with queue := rest }) c cause n)
    | none =>
      let t := s.modEngine cluster fun e => { e with queue := rest, running := some c }
      .next (match c.op with
        | .macst m => macstCount t c m false true (macstElems m * macstSize m)
        | _ => t)

/-! ### Finishing -/

/-- A change to an engine accumulator. -/
def State.setAcc (s : State) (k a : Nat) (x : Acc) : State := s.modEngine k fun e => { e with accs := fset e.accs a x }

/-- The running command is over. -/
def idleEngine (s : State) (k : Nat) : State := s.modEngine k fun e => { e with running := none }

/-- The running command takes effect: MMA and MACZ at their end, MACST once it has written everything (R263, R265, R267). -/
def finishCmd (s : State) (k : Nat) (c : EngCmd) : State :=
  let e := s.engine k
  match c.op with
  | .mma m => (idleEngine s k).setAcc k m.acc (mmaResult m (e.tile m.a) (e.tile m.b) (e.acc m.acc))
  | .macz a kind => (idleEngine s k).setAcc k a { kind := kind }
  | .macst m =>
    if m.next < macstElems m then s else
    let t := idleEngine s k
    if bitAt m.ctl.toNat 34 then postNotice t c.core 0 0 (BitVec.ofNat 64 (capAddr m.dst.val)) c.pc else t

def execEngineCommandComplete (cluster : Nat) (s : State) : Host.Outcome State Fault Refusal :=
  match (s.engine cluster).running with
  | some c => .next (finishCmd s cluster c)
  | none => .next s

/-! ### MACST (R253, R264, R265, R269) -/

/-- Convert of R265: the bits, and whether the result saturated. -/
def macstConvert (k : AccKind) (fmto : Nat) (x : Nat) : Nat × Bool :=
  match fmto with
  | 1 => ((fmtBf.encode .rne (fmt32.decode x)).1, false)
  | 2 => let r := encode43 (fmt32.decode x); (r.1, r.2.nsat)
  | _ => (x % 2 ^ (8 * macstBytes k 0), false)

/-- The address of element `n` in row order. -/
def macstAddr (m : MacstCmd) (n : Nat) : Nat :=
  let side := accSide m.kind
  (((capAddr m.dst.val : Int) + ((n / side : Nat) : Int) * signedOf 32 m.ctl.toNat + ((n % side * macstSize m : Nat) : Int)) %
    ((2 ^ 64 : Nat) : Int)).toNat

/-- The bytes of an element reach memory (R265); from a poisoned accumulator every ECC word they touch becomes poisoned, and
the verdict tainted (R269). -/
def macstPut (s : State) (c : EngCmd) (pa : Nat) (bs : List TByte) (window bad : Bool) : State :=
  let t := if window then writeThrough s (clusterOf c.core) pa bs else coherentWrite s pa bs
  if bad then (t.poisonWords (eccWords pa bs.length)).taint c.core else t

/-- The place of a generated address. One that strays to a device that the fences close is a violation of the matrix engine's (R323, R324). -/
def macstPlaces (s : State) (c : EngCmd) (a z : Nat) : State × Except (Nat × Nat) Places :=
  if spaceOf a = 1 && !(servedHere s c.ctx a) && !(devAllowed s (devOf a)) then
    (egLog s c.ctx 2 true c.core (devOf a * 2 ^ 16), .error (0x384, a))
  else places s c.core c.ctx a z .siphW

/-- The next element of the running MACST is converted, which may set NSAT, and written. One that strays to a peer's memory, which R373 does
not allow, ends the command as a fault with 0x085 (DESIGN CHOICE, log entry 111). -/
def macstStep (s : State) (k : Nat) (c : EngCmd) (m : MacstCmd) : State :=
  let acc := (s.engine k).acc m.acc
  let z := macstSize m
  let a := macstAddr m m.next
  let (v, sat) := macstConvert m.kind (bitsAt m.ctl.toNat 32 2) (fgetD acc.elems m.next 0).toNat
  let back := s
  let s := if sat then s.setAcc k m.acc { acc with nsat := true } else s
  match macstPlaces s c a z with
  | (t, .error (cause, _)) => postNotice (idleEngine t k) c.core cause 0 (BitVec.ofNat 64 a) c.pc
  | (t, .ok p) =>
    match p.locs with
    | .mem pa :: _ =>
      if (badLoc p.locs).isSome then postNotice (idleEngine t k) c.core 0x0C1 0 (BitVec.ofNat 64 a) c.pc else
      if homeHolds t p then back else
      let u := macstPut t c pa (tbytes z v false) (p.window.contains (pa / 4096)) acc.poison
      let u := u.modEngine k fun e => { e with running := some { c with op := .macst { m with next := m.next + 1 } } }
      macstCount u c m true false z
    | _ => postNotice (idleEngine t k) c.core 0x085 0 (BitVec.ofNat 64 a) c.pc

def execMacstWrite (cluster : Nat) (s : State) : Host.Outcome State Fault Refusal :=
  match (s.engine cluster).running with
  | some c => match c.op with
    | .macst m => .next (if m.next < macstElems m then macstStep s cluster c m else s)
    | _ => .next s
  | none => .next s

/-! ### Migration (R274) -/

/-- The engine of the next cluster column in the same row of the same die. -/
def neighbourEngine (k : Nat) : Nat := k / 8 * 8 + (k % 8 + 1) % 8

/-- The conditions of R274 for the command at a place of the queue; a command away on the same accumulator holds it back as
well (R272). -/
def mayMigrate (s : State) (k idx : Nat) (m : MmaCmd) : Bool :=
  let e := s.engine k
  let ahead := e.running.toList ++ e.queue.take idx
  let n := s.engine (neighbourEngine k)
  m.mig && 16 < ahead.length && !((ahead ++ e.away).any fun x => x.op.accOf == m.acc) &&
  !([m.a, m.b].any (tileFilling s k)) && n.queue.isEmpty && n.running.isNone && n.migrant.isNone

def execMigration (cluster idx : Nat) (s : State) : Host.Outcome State Fault Refusal :=
  let e := s.engine cluster
  match e.queue[idx]? with
  | some c => match c.op with
    | .mma m =>
      if !(mayMigrate s cluster idx m) then .next s else
      let g : Migrant := { cmd := c, home := cluster, ta := e.tile m.a, tb := e.tile m.b, acc := e.acc m.acc, started := false }
      let t := s.modEngine cluster fun e => { e with queue := dropAt e.queue idx, away := e.away ++ [c] }
      .next (t.modEngine (neighbourEngine cluster) fun n => { n with migrant := some g })
    | _ => .next s
  | none => .next s

/-- The migrant leaves, and AWAY is cleared at home. -/
def migrantLeaves (s : State) (k : Nat) (g : Migrant) : State :=
  (s.modEngine k fun e => { e with migrant := none }).modEngine g.home fun e => { e with away := e.away.erase g.cmd }

def execMigratedMmaStart (cluster : Nat) (s : State) : Host.Outcome State Fault Refusal :=
  match (s.engine cluster).migrant with
  | some g => match g.cmd.op with
    | .mma m =>
      if g.started then .next s else
      match mmaStart m g.ta g.tb g.acc with
      | some (cause, n) => .next (engineNotice (migrantLeaves s cluster g) g.cmd cause n)
      | none => .next (s.modEngine cluster fun e => { e with migrant := some { g with started := true } })
    | _ => .next s
  | none => .next s

/-- The neighbour has run the migrant: the accumulator goes home. -/
def execMigrationReturn (cluster : Nat) (s : State) : Host.Outcome State Fault Refusal :=
  match (s.engine cluster).migrant with
  | some g => match g.cmd.op with
    | .mma m =>
      if !g.started then .next s
      else .next ((migrantLeaves s cluster g).setAcc g.home m.acc (mmaResult m g.ta g.tb g.acc))
    | _ => .next s
  | none => .next s

end Sys2Proof.Machine
end

