-- ==== Sys2Proof/Machine/EvStream.lean ====
section
/-! DEFINITION. The two halves of a bound stream (R197): STREAM_FETCH, the load of the next element of a read stream, and
STREAM_CONVERT, the store of the first element that waits in a write stream. -/

namespace Sys2Proof.Machine

/-- The next element of a read stream takes its place. -/
def pushElem (s : State) (core carrel : Nat) (r : Reg) (x : StreamElem) : State :=
  s.modCarrel core carrel fun c => match c.stream r with
    | some st =>
      let st' : Stream := { st with ready := st.ready ++ [x], next := st.next + 1 }
      { c with streams := fset c.streams r.toNat st' }
    | none => c

/-- The load of an element (R197): an ordinary load of its size under default policy. -/
def elementLoad (s : State) (core carrel : Nat) (r : Reg) (st : Stream) (a : Nat) (p : Places) :
    Host.Outcome State Fault Refusal :=
  let l : Outst := { id := 0, dest := .stream r st.size st.sign, addr := BitVec.ofNat 64 a, size := st.size,
                     elems := [elemOf p.window ⟨4, 4, []⟩ 0 a p.locs] }
  match issueLoad (pushElem s core carrel r (.pending (s.core core).nextId)) l with
  | .done t => .next t
  | .consume x => .next (pushElem s core carrel r (.bad x))
  | .fault f => .fault f
  | _ => .next s

/-- The view of a cistern cell as an element (R207, R208). -/
def elementCell (s : State) (core carrel : Nat) (r : Reg) (st : Stream) (a pa typ : Nat) : Host.Outcome State Fault Refusal :=
  let x : Word := BitVec.ofNat 64 a
  if st.size ≠ cellSize typ then .next (pushElem s core carrel r (.fault 0x182 x)) else
  if loadHeld s ((List.range st.size).map fun j => .mem (pa + j)) then .next s else
  match badLoc [.mem pa] with
  | some y => .fault (.noDram y)
  | none =>
    let (t, v, bad) := viewCell s core carrel pa typ st.size {}
    .next (pushElem t core carrel r (if bad then .bad x else .value (extValue st.size st.sign v).data))

/-- The fetch of the next element: a failing check makes it a faulty one (R197). -/
def fetchElement (s : State) (core carrel : Nat) (r : Reg) (st : Stream) : Host.Outcome State Fault Refusal :=
  let a := streamAddr st st.next
  let x : Word := BitVec.ofNat 64 a
  if a % st.size ≠ 0 then .next (pushElem s core carrel r (.fault 0x101 x)) else
  match capCheck s core st.base a st.size permR with
  | some c => .next (pushElem s core carrel r (.fault c x))
  | none =>
    match places s core (s.core core).ctx a st.size .read with
    | (t, .error (c, v)) => .next (pushElem t core carrel r (.fault c (BitVec.ofNat 64 v)))
    | (t, .ok p) =>
      match siphStall t core a st.size with
      | .fault y => .next (pushElem t core carrel r (.fault 0x1C4 y))
      | .stall => .next s
      | .go => match p.ent, p.locs with
        | some e, .mem pa :: _ =>
          if e.kind = 1 then elementCell t core carrel r st a pa e.typ else elementLoad t core carrel r st a p
        | _, _ => elementLoad t core carrel r st a p

/-- A stream of a carrel that runs an activation. In a core that stops, only an Ending one goes on (R312). -/
def streamAt (s : State) (core carrel reg : Nat) : Option Stream :=
  let c := s.carrel core carrel
  if c.st == .free || c.st == .halted || (s.core core).frozen || ((s.core core).stopped && c.st != .ending) then none else c.stream (BitVec.ofNat 6 reg)

def execStreamFetch (core carrel reg : Nat) (s : State) : Host.Outcome State Fault Refusal :=
  match streamAt s core carrel reg with
  | some st =>
    if st.write || st.total ≤ st.next || 16 ≤ st.ready.length then .next s
    else fetchElement { s with cur := (core, carrel) } core carrel (BitVec.ofNat 6 reg) st
  | none => .next s

/-- An element becomes an outbox entry as an ST of its size makes it (R197, R211, R392). -/
def convertElement (s : State) (core carrel : Nat) (st : Stream) (n : Nat) (v : Word) : Option State :=
  let a := streamAddr st n
  let data := natBytes st.size v.toNat
  let w : StWidth := match st.size with | 1 => .b | 2 => .h | 4 => .w | _ => .d
  let base : Entry := mkEntry s (.st 0 0 w 0) .marker (BitVec.ofNat 64 a)
  match places s core (s.core core).ctx a st.size .write with
  | (_, .error _) => none
  | (t, .ok p) =>
    if (badLoc p.locs).isSome then none else
    let eff : Effect := match p.ent, p.locs with
      | some e, .mem pa :: _ =>
        if e.kind = 1 then .join pa e.typ st.size (BitVec.ofNat 64 (v.toNat % 2 ^ (8 * st.size))) else .store (cellsOf p.locs data) false
      | _, .peer _ :: _ =>
        if spaceOf a = 1 then .peer (BitVec.ofNat 64 a) (.cellStore data (a % 8 == 0 && (capCheck t core st.base a 8 permW).isNone))
        else .store (cellsOf p.locs data) false
      | _, _ => .store (cellsOf p.locs data) false
    some (putEntry t core carrel { base with eff := eff, window := p.window, through := true })

/-- A 65th entry forces an overflow commit first (R165); a pair is compared before it (R286). -/
def convertCommit (s : State) (core carrel : Nat) : Option State :=
  let c := s.carrel core carrel
  if c.outbox.length < outboxMax then some s else
  if !(canDrain s core carrel) then none else
  if comparing c then some (s.setCarrel core carrel { c with cmpWait := true }) else some (commitPoint s core carrel)

def execStreamConvert (core carrel reg : Nat) (s : State) : Host.Outcome State Fault Refusal :=
  match streamAt s core carrel reg with
  | some st =>
    match st.buffer with
    | [] => .next s
    | (n, v) :: rest =>
      let c := s.carrel core carrel
      -- the commit meets an entry that fails its ECC check (R278)
      if outboxMax ≤ c.outbox.length && canDrain s core carrel && c.outbox.any (·.ecc) then
        .next (consumeError (s.setCarrel core carrel (if c.st == .parked then c.awake else c)) core carrel 0) else
      match convertCommit { s with cur := (core, carrel) } core carrel with
      | none => .next s
      | some t =>
        if outboxMax ≤ (t.carrel core carrel).outbox.length then .next t else
        .next (match convertElement t core carrel st n v with
          | none => s
          | some u => u.modCarrel core carrel fun c =>
            ({ c with streams := fset c.streams (BitVec.ofNat 6 reg).toNat { st with buffer := rest } } : Carrel).ended)
  | none => .next s

end Sys2Proof.Machine
end

