-- ==== Sys2Proof/Machine/Launch.lean ====
section
/-! DEFINITION. Opening and closing a launch (R27, R45 to R50, R148, R149, R237, R283): bay lists, handler tables, scratchpad
regions with their twins, and the release of everything at the end. -/

namespace Sys2Proof.Machine

/-! ### Bay lists (R228) -/

/-- An entry of a bay list. -/
structure BayEnt where
  first : Nat
  ncore : Nat
  stage : Nat
  wing : Nat
  bayno : Nat
  reserved : Bool
  deriving DecidableEq, Repr

def bayEnt (w : Nat) : BayEnt :=
  { first := bitsAt w 0 12, ncore := bitsAt w 16 4 + 1, stage := bitsAt w 20 4, wing := bitsAt w 24 2, bayno := bitsAt w 26 6,
    reserved := bitsAt w 12 4 ≠ 0 || bitsAt w 32 32 ≠ 0 }

/-- The fields of a KERNEL record (R228). -/
def Node.htva (n : Node) : Nat := n.word 3
def Node.bayOff (n : Node) : Nat := bitsAt (n.word 4) 0 32
def Node.nbays (n : Node) : Nat := bitsAt (n.word 4) 32 16
def Node.ltag (n : Node) : Nat := bitsAt (n.word 4) 48 8
def Node.nparam (n : Node) : Nat := bitsAt (n.word 4) 56 8
def Node.regOff (n : Node) : Nat := bitsAt (n.word 5) 0 32

/-- The bay list of a KERNEL node, if it lies in the image. -/
def bayList (img : List Byte) (n : Node) : Option (List BayEnt) :=
  if n.nbays = 0 || 256 < n.nbays || img.length < n.bayOff + 8 * n.nbays then none
  else some ((List.range n.nbays).map fun j => bayEnt (imageField img (n.bayOff + 8 * j) 8))

def BayEnt.die (b : BayEnt) : Nat := b.first / 1024

/-- The wings that a list names, in the order in which they first appear. -/
def wingsOf (bs : List BayEnt) : List Nat := (bs.map (·.wing)).eraseDups

/-- The rules of R228 on a bay list: each bay in one cluster, each wing on a die of its own, numbers from zero up, in that order in the
list (DESIGN CHOICE, log entry 103: the manual does not say whether another order is allowed). -/
def bayListOk (bs : List BayEnt) : Bool :=
  let ws := wingsOf bs
  bs.all (fun b => !b.reserved && b.first % 16 + b.ncore ≤ 16) &&
  ws == List.range ws.length &&
  ws.all (fun w =>
    let mine := bs.filter fun b => b.wing == w
    mine.map (·.bayno) == List.range mine.length && mine.all fun b => b.die == (mine.headD b).die) &&
  (ws.map fun w => ((bs.find? fun b => b.wing == w).map BayEnt.die).getD 0).eraseDups.length == ws.length

/-- The cores of a bay, and of a list. -/
def BayEnt.cores (b : BayEnt) : List Nat := (List.range b.ncore).map (b.first + ·)
def coresOfBays (bs : List BayEnt) : List Nat := bs.flatMap BayEnt.cores

/-- The twin of a core (R283): the same slot two cluster columns on. -/
def twinCore (c : Nat) : Nat :=
  let k := clusterOf c
  (k / 8 * 8 + (k % 8 + 2) % 8) * 16 + slotOf c

/-- A core's place in its launch (R46). -/
def bayOf (launch : Nat) (bs : List BayEnt) (b : BayEnt) (cib : Nat) : Bay :=
  { launch := launch, wing := b.wing, bay := b.bayno, cib := cib, bayn := b.ncore,
    nbay := (bs.filter fun x => x.wing == b.wing).length, nwing := (wingsOf bs).length, stage := b.stage, isOpen := true }

/-! ### Handler tables (R23 to R27, R102) -/

/-- A bundle capability as it is installed: one over scratchpad names the core's own number (R102). -/
def bundleCap (core : Nat) (bs : List TByte) : TCap :=
  let v := tbNat bs
  let tag := bs.all (·.2)
  let own := tag && spaceOf (bitsAt v 0 64) = 2 && devOf (bitsAt v 0 64) = 0xFFF
  { val := BitVec.ofNat 128 (if own then putBits v 36 12 core else v), tag := tag }

/-- An entry of the image for a core; one with INST = 0 is all zero. -/
def tableEntry (core : Nat) (e : List TByte) : HTag :=
  let w := fieldAt e 64 8
  if !(bitAt w 62) then {} else
  { caps := (List.range 4).map fun g => (g, bundleCap core ((e.drop (16 * g)).take 16)),
    en := bitAt w 63, inst := true, par := bitAt w 61, pmax := bitsAt w 58 3, prio := bitsAt w 54 4, eprio := bitsAt w 54 4,
    haddr := BitVec.ofNat 48 (bitsAt w 0 48),
    gates := (List.range 4).map fun g => (g, BitVec.ofNat 64 (fieldAt e (80 + 8 * g) 8)) }

def tableSlot (table : List TByte) (t : Nat) : List TByte := (table.drop (128 * t)).take 128

def tableFor (core : Nat) (table : List TByte) : FMap HTag := (List.range 64).map fun t => (t, tableEntry core (tableSlot table t))

/-- An installed entry whose HADDR is misaligned fails the launch (R27). -/
def tableBad (table : List TByte) : Bool :=
  (List.range 64).any fun t => let w := fieldAt (tableSlot table t) 64 8; bitAt w 62 && bitsAt w 0 2 ≠ 0

/-! ### Regions (R148, R149) -/

/-- The granules of a core's regions: region, granule and length. -/
def regionGranules (sizes : List Nat) : List (Nat × Nat × Nat) :=
  sizes.zipIdx.flatMap fun (z, r) => (List.range ((z + 4095) / 4096)).map fun g => (r, g, min 4096 (z - 4096 * g))

/-- The highest run of `n` sectors that no pinned folio owns. -/
def Cache.topRun (c : Cache) (l : Level) (n : Nat) : Option Nat :=
  let used := (c.folios.filter fun f => f.st == .pinned).map fun f => (f.base, f.base + f.count)
  let ok := fun b => used.all fun (x, y) => b + n ≤ x || y ≤ b
  let cands := ((sectorsOf l :: used.map (·.1)).filter fun t => n ≤ t && ok (t - n)).map (· - n)
  if cands.isEmpty then none else some (maxOf cands)

/-- A folio owns a sector of [b, b + n). -/
def Folio.owns (f : Folio) (b n : Nat) : Bool := f.base < b + n && b < f.base + f.count

/-- A pinned-scratch folio. -/
def scrFolio (key len base : Nat) : Folio :=
  { st := .pinned, scr := true, wmk := len, start := 0, fin := len, base := base, key := key,
    data := List.replicate len (0, false) }

/-- One granule of a region in the core's L1F: what stands in its way is evicted. -/
def pinL1 (s : State) (c key len : Nat) : Option State :=
  match (s.core c).l1.topRun .l1 (sectorCount 0 len) with
  | none => none
  | some b =>
    let s := ((s.core c).l1.folios.filter fun f => f.st != .pinned && f.owns b (sectorCount 0 len)).foldl (fun s f => evictL1 s c f) s
    let t := if (s.core c).l1.waysUsed .l1 key < 8 then some s else
      (victim s (.l1 c) (some key) []).map (evictL1 s c)
    t.map fun s => s.modCore c fun k => { k with l1 := { k.l1 with folios := k.l1.folios ++ [scrFolio key len b] } }

/-- The twin of a granule in the cluster's L2F. -/
def pinL2 (s : State) (k key len : Nat) : Option State :=
  match (s.cluster k).l2.topRun .l2 (sectorCount 0 len) with
  | none => none
  | some b =>
    let s := ((s.cluster k).l2.folios.filter fun f => f.st != .pinned && f.owns b (sectorCount 0 len)).foldl (fun s f => evictL2 s k f) s
    let t := if (s.cluster k).l2.waysUsed .l2 key < 8 then some s else
      (victim s (.l2 k) (some key) []).map (evictL2 s k)
    t.map fun s => s.modCluster k fun x => { x with l2 := { x.l2 with folios := x.l2.folios ++ [scrFolio key len b] } }

/-- Every set of a cache has at most 6 pinned-scratch ways (R149). -/
def pinsOk (c : Cache) (l : Level) : Bool :=
  let ks := (c.folios.filter fun f => f.st == .pinned).map fun f => setOf l f.key
  ks.all fun k => ks.count k ≤ 6

/-- A core's regions are allocated, zero-filled, with their twins; none where the allocation fails. -/
def pinRegions (s : State) (c : Nat) (sizes : List Nat) : Option State :=
  let gs := regionGranules sizes
  if 3072 < (gs.map fun (_, _, n) => sectorCount 0 n).sum || gs.any (fun (_, g, _) => 256 ≤ g) then none else
  let t := gs.foldl (fun (o : Option State) (r, g, n) =>
    (o.bind fun s => pinL1 s c (scrKey r g) n).bind fun s => pinL2 s (clusterOf c) (twinKey (slotOf c) r g) n) (some s)
  t.bind fun s =>
    if pinsOk (s.core c).l1 .l1 && pinsOk (s.cluster (clusterOf c)).l2 .l2 then
      some (s.modCore c fun k => { k with regions := sizes.zipIdx.map fun (z, r) => (r, z) })
    else none

/-- A core's regions are released (R50, R149). -/
def unpinRegions (s : State) (c : Nat) : State :=
  let s := s.modCore c fun k => { k with regions := [], l1 := Cache.tidy { k.l1 with folios := k.l1.folios.filter fun f => f.st != .pinned } }
  s.modCluster (clusterOf c) fun k => { k with l2 := Cache.tidy { k.l2 with
    folios := k.l2.folios.filter fun f => !(f.st == .pinned && f.key / 4096 == slotOf c) } }

/-! ### Opening -/

/-- A channel when a bay of its core opens (R194): V is clear, and of a command that is over nothing is left but the channel's options,
which stay with the context that set them (R22). -/
def Channel.launched (x : Channel) (same : Bool) : Channel :=
  let y : Channel := if x.cmd.isSome then { x with v := false } else { hipri := x.hipri, cnote := x.cnote }
  { y with hipri := y.hipri && same, cnote := y.cnote && same }

/-- A core of a launch as it is when its bay opens (R27, R48, R194, R256): the context, the place, the handler table, the
window equal to the allotment, nothing pending. `as_` is the core that it runs as. -/
def openCore (s : State) (c as_ ctx : Nat) (bay : Bay) (table : List TByte) : State :=
  let a := fgetD (s.cluster (clusterOf c)).engine.allots ctx ⟨0, 0, 0, 0⟩
  s.modCore c fun k =>
    let k : Core := { k with ctx := ctx, bay := some bay, tags := tableFor as_ table, inbox := [],
                             chans := k.chans.map fun (n, x) => (n, x.launched (k.ctx == ctx)), tagOld := [], chanOld := [] }
    k.setCregs { k.cregs with tbase := a.tlb, tcnt := a.tln, abase := a.alb, acnt := a.aln }

/-- The launch message (R237): the parameters, of KIND 1, on the launch tag. -/
def launchMessage (s : State) (c ctx ltag : Nat) (ps : List Word) : State :=
  let f : Flit := { dst := clusterOf c, dslot := slotOf c, src := 0, tag := ltag, ctx := ctx, at_ := 0, body := .msg (.msg [] 1) 0 }
  s.modCore c fun k => takeMessage k s.cycle f 0 (ps.map .data) 1

/-- The parts of a launch: each core with the core it runs as, its bay and its place in it. -/
def launchCores (bs : List BayEnt) (paired : Bool) : List (Nat × Nat × BayEnt × Nat) :=
  bs.flatMap fun b => b.cores.zipIdx.flatMap fun (c, i) =>
    (c, c, b, i) :: (if paired then [(twinCore c, c, b, i)] else [])

/-- A launch opens in one step (R48), or nothing of it happens. -/
def openLaunch (s : State) (inst node ctx : Nat) (n : Node) (bs : List BayEnt) (sizes : List Nat) (table : List TByte) :
    Option State :=
  let cs := launchCores bs n.paired
  let id := s.hub.nextLaunch
  let pinned := cs.foldl (fun (o : Option State) (c, _) => o.bind fun s => pinRegions s c sizes) (some s)
  pinned.map fun s =>
    let s := cs.foldl (fun s (c, p, b, i) => openCore s c p ctx (bayOf id bs b i) table) s
    let s := if n.paired then (coresOfBays bs).foldl (fun s c =>
        (s.modCore c fun k => { k with twin := some (twinCore c) }).modCore (twinCore c) fun k => { k with twinOf := some c }) s
      else s
    let l : Launch := { id := id, inst := inst, node := node, ctx := ctx, cores := coresOfBays bs,
                        twins := if n.paired then (coresOfBays bs).map twinCore else [] }
    let s := s.modHub fun h => { h with launches := h.launches ++ [l], nextLaunch := id + 1 }
    let ps := (List.range n.nparam).map fun j => n.words.getD (8 + j) 0
    cs.foldl (fun s (c, _) => launchMessage s c ctx n.ltag ps) s

/-! ### Closing (R50) -/

/-- The number under which the hub's and the pumps' own requests count: no core has it. -/
def hubNumber : Nat := 65536

/-- The core on whose behalf a request was made. -/
def ReqUser.core : ReqUser → Nat
  | .access c _ _ | .entry c _ | .message c _ _ | .siphRead c _ _ | .siphWrite c _ _ | .siphBar c _ | .barr c _ | .lwait c _ => c
  | .notify .. | .block _ => hubNumber

/-- The commands of an engine, with a migrant that is away from it. -/
def engineCmds (s : State) (k : Nat) : List EngCmd := let e := s.engine k; e.present ++ e.away

/-- A fill or a request to a home that a core has made still awaits its answer (R50). -/
def CatUser.core : CatUser → Option Nat
  | .fill => none
  | .entry c _ | .access c _ _ => some c
def asksHome (s : State) (c : Nat) : Bool :=
  let k := s.cluster (clusterOf c)
  (s.core c).l1.folios.any (·.st == .filling) || k.l2.folios.any (fun f => f.st == .filling && f.asker == some c) ||
  k.reqs.any fun q => CatUser.core q.user == some c

/-- A core of a launch has nothing left to do (R50). The command of a SIPH node is the graph's own (R229). -/
def coreIdle (s : State) (c : Nat) : Bool :=
  let k := s.core c
  k.carrels.all (fun (_, x) => x.st == .free) && k.tags.all (fun (_, t) => t.pend == 0) && k.queue.isEmpty && k.out.isEmpty &&
  k.refused.isEmpty && !(s.reqs.any fun q => q.user.core == c) && !(asksHome s c) &&
  k.chans.all (fun (_, x) => match x.cmd with
    | some (.siph d) => d.node.isSome
    | some (.gath _) => false
    | none => true) &&
  !((engineCmds s (clusterOf c)).any fun e => e.core == c)

/-- A core leaves its launch. -/
def closeCore (s : State) (c : Nat) : State :=
  (unpinRegions s c).modCore c fun k => { k with bay := none, twin := none, twinOf := none, tags := [], inbox := [], lost := false }

/-- The verdict of a launch that finished (R287). -/
def verdictOf (l : Launch) : Nat := if l.tainted then 2 else if 0 < l.repl || 0 < l.corr then 1 else 0

end Sys2Proof.Machine
end

