-- ==== Sys2Proof/Machine/EvGraph.lean ====
section
/-! DEFINITION. The dispatch hub at work (R225 to R241, R50): commands, triggers, instances, and the start and end of each kind
of node. -/

namespace Sys2Proof.Machine

/-! ### Images (R225 to R232) -/

def imageMax : Nat := 8 * 2 ^ 20

/-- The words of a kind area that a record names, as masks of its words 3 to 7. -/
def kindMasks (kind : Nat) : List Nat :=
  let all := 2 ^ 64 - 1
  match kind with
  | 0 => [all, all, 2 ^ 32 - 1, 0, 0]
  | 1 => [all, all, all, all, 2 ^ 18 - 1]
  | 2 => [all, 15, 0, 0, 0]
  | _ => [65535, all, 0, 0, 0]

/-- A reserved bit or byte of a record is non-zero (R226 to R231). -/
def recordReserved (n : Node) : Bool :=
  let w := n.word 0
  bitsAt w 44 20 ≠ 0 || bitsAt w 28 4 ≠ 0 || bitsAt w 6 10 ≠ 0 || bitsAt w 4 1 ≠ 0 || bitsAt (n.word 1) 32 32 ≠ 0 ||
  (List.range 5).any fun j => n.word (3 + j) ≠ n.word (3 + j) &&& (kindMasks n.kind).getD j 0

/-- A CRADDR is 0 or a multiple of 32 (R226). -/
def crOk (n : Node) : Bool := n.crAddr % 32 = 0

/-- The KERNEL fields of a record are in range, and its bay list keeps R228. -/
def kernelOk (img : List Byte) (n : Node) : Bool :=
  n.ltag ≤ 62 && n.nparam ≤ 8 && (n.regOff = 0 || n.regOff + 64 ≤ img.length) &&
  match bayList img n with
  | none => false
  | some bs => bayListOk bs

/-- The nodes that list a node as a successor. -/
def predsOf (img : List Byte) (i : Nat) : List Nat :=
  (List.range (imageNodes img)).filter fun j => (succsOf img (imageNode img j)).contains i

/-- Node after node is taken away whose predecessors are gone; nodes that stay make a cycle. -/
def peel (img : List Byte) : Nat → List Nat → List Nat
  | 0, left => left
  | fuel + 1, left =>
    match left.find? fun i => !((predsOf img i).any left.contains) with
    | none => left
    | some i => peel img fuel (left.filter (· ≠ i))

/-- A record of an image is valid. -/
def recordOk (img : List Byte) (i : Nat) : Bool :=
  let n := imageNode img i
  n.kind ≤ 3 && !(recordReserved n) && crOk n && (n.nsucc = 0 || n.succOff + 2 * n.nsucc ≤ img.length) &&
  (succsOf img n).all (· < imageNodes img) && n.npred = (predsOf img i).length && (n.kind ≠ 0 || kernelOk img n)

/-- The header of an image is valid (R225). -/
def headerOk (img : List Byte) (bytes : Nat) : Bool :=
  imageField img 0 4 = 0x5A470001 && 1 ≤ imageNodes img && imageNodes img ≤ 4096 && imageField img 6 2 = 0 && bytes ≤ imageMax &&
  64 + 128 * imageNodes img ≤ bytes && imageField img 12 52 = 0

def imageOk (img : List Byte) : Bool :=
  (List.range (imageNodes img)).all (recordOk img) && (peel img (imageNodes img) (List.range (imageNodes img))).isEmpty

/-- Bytes at a physical address, if there is DRAM behind all of them. -/
def physRead (s : State) (pa n : Nat) : Option (List Byte) :=
  if n = 0 || (hasDram pa && hasDram (pa + n - 1) && homeOf pa = homeOf (pa + n - 1)) then
    some ((coherentRead s pa n).map (·.1.1)) else none

/-! ### HCMD (R232, R240) -/

def hcmdOp (w : Word) : Nat := bitsAt w.toNat 0 4
def hcmdGraph (w : Word) : Nat := bitsAt w.toNat 12 12
def hcmdNode (w : Word) : Nat := bitsAt w.toNat 24 12
def hcmdInst (w : Word) : Nat := bitsAt w.toNat 48 16

/-- The command is the one that the hub performs next. A control core's waits until its own cycle is over, since a host write of that cycle
goes before it (R232). -/
def isHead (s : State) (w : Word) (host : Bool) : Bool :=
  s.hub.hcmds.head?.any fun c => c.word == w && c.host == host && (c.host || c.cyc < s.cycle)

/-- A command is performed: its result in HSTAT. -/
def setHstat (s : State) (r : Nat) : State := s.modHub fun h => { h with hstat := BitVec.ofNat 64 r, hcmds := h.hcmds.tail }

/-- LOAD: the checks in order, then the graph is known. Paired dispatch is feature 2 (R326). -/
def loadGraph (s : State) (id : Nat) : State :=
  if (s.hub.graph id).isSome then setHstat s 2 else
  let pa := s.hub.harg.toNat
  match physRead s pa 64 with
  | none => setHstat s 4
  | some hd =>
    let bytes := imageField hd 8 4
    if !(headerOk hd bytes) then setHstat s 4 else
    match physRead s pa bytes with
    | none => setHstat s 4
    | some img =>
      if !(imageOk img) || (!(s.hasFeature 2) && (List.range (imageNodes img)).any fun i => (imageNode img i).paired) then setHstat s 4
      else if imageMax < (s.hub.graphs.map fun g => g.image.length).sum + bytes then setHstat s 5
      else setHstat (s.modHub fun h => { h with graphs := h.graphs ++ [{ id := id, ctx := bitsAt h.hctx.toNat 0 16, image := img }] }) 0

def execGraphLoad (w : Word) (host : Bool) (s : State) : Host.Outcome State Fault Refusal :=
  .next (if isHead s w host && hcmdOp w == 1 && !host then loadGraph s (hcmdGraph w) else s)

/-- UNLOAD: the id is unknown to new triggers at once. -/
def unloadGraph (s : State) (id : Nat) : State :=
  match s.hub.graph id with
  | none => setHstat s 2
  | some g =>
    if g.unloaded then setHstat s 2 else
    let gone := fun (x : Graph) => if x.id = g.id then { x with unloaded := true } else x
    setHstat (s.modHub fun h => dropGraphs { h with graphs := h.graphs.map gone }) 0

def execGraphUnload (w : Word) (host : Bool) (s : State) : Host.Outcome State Fault Refusal :=
  .next (if isHead s w host && hcmdOp w == 2 && !host then unloadGraph s (hcmdGraph w) else s)

/-- A node that RELEASE or CANCEL may name: completed tainted and holding (R240). -/
def heldNode (s : State) (w : Word) : Option (Inst × Graph × Node) :=
  match nodeAt s (hcmdInst w) (hcmdNode w) with
  | some (i, g, n) => if i.graph = hcmdGraph w && n.st == .done && n.holding then some (i, g, n) else none
  | none => none

/-- The nodes of a set of successors and all of theirs. -/
def allSuccs (img : List Byte) : Nat → List Nat → List Nat
  | 0, seen => seen
  | fuel + 1, seen =>
    let more := (seen.flatMap fun i => succsOf img (imageNode img i)).filter fun i => !(seen.contains i)
    if more.isEmpty then seen else allSuccs img fuel (seen ++ more.eraseDups)

/-- RELEASE: the successors count the node as completed. -/
def releaseNode (s : State) (w : Word) : State :=
  if (s.hub.graph (hcmdGraph w)).isNone then setHstat s 2 else
  match heldNode s w with
  | none => setHstat s 3
  | some (i, g, n) => setHstat (freeSuccs (s.modNode i.id (hcmdNode w) fun n => { n with holding := false }) i.id g n) 0

def execNodeRelease (w : Word) (host : Bool) (s : State) : Host.Outcome State Fault Refusal :=
  .next (if isHead s w host && hcmdOp w == 3 then releaseNode s w else s)

/-- CANCEL: every transitive successor that has not started completes with status CANCELLED. -/
def cancelFrom (s : State) (i : Inst) (g : Graph) (n : Node) : State :=
  (allSuccs g.image (imageNodes g.image) (succsOf g.image n)).foldl (fun s m =>
    match nodeAt s i.id m with
    | some (_, _, x) => if x.st == .waiting || x.st == .ready then completeNode s i.id m 3 2 0 0 0 else s
    | none => s) s

/-- CANCEL of a node. -/
def cancelNode (s : State) (w : Word) : State :=
  if (s.hub.graph (hcmdGraph w)).isNone then setHstat s 2 else
  match heldNode s w with
  | none => setHstat s 3
  | some (i, g, n) => setHstat (cancelFrom (s.modNode i.id (hcmdNode w) fun n => { n with holding := false }) i g n) 0

def execNodeCancel (w : Word) (host : Bool) (s : State) : Host.Outcome State Fault Refusal :=
  .next (if isHead s w host && hcmdOp w == 4 then cancelNode s w else s)

/-- An operation that HCMD does not know, or does not permit to its writer. -/
def execHcmdInvalid (w : Word) (host : Bool) (s : State) : Host.Outcome State Fault Refusal :=
  .next (if isHead s w host && (hcmdOp w == 0 || 4 < hcmdOp w || (host && hcmdOp w ≤ 2)) then setHstat s 1 else s)

/-- A 4-byte write to HCMD is discarded (R232, R317). -/
def execHcmdPartialWrite (_off : Nat) (_w : BitVec 32) (s : State) : Host.Outcome State Fault Refusal := .next s

/-! ### Triggers (R233 to R235) -/

/-- A record with one word patched. -/
def patchNode (n : Node) (off : Nat) (v : Word) : Node := { n with words := modAt n.words (off / 8) fun _ => v }

/-- The records of a graph with patches applied in list order. -/
def patched (img : List Byte) (ps : List (Nat × Nat × Word)) : List Node :=
  ps.foldl (fun ns (i, off, v) => modAt ns i fun n => patchNode n off v) ((List.range (imageNodes img)).map (imageNode img))

/-- The patch list at a physical address; none where it is bad (R235). -/
def patchList (s : State) (img : List Byte) (pa : Nat) : Option (List (Nat × Nat × Word)) :=
  match physRead s pa 16 with
  | none => none
  | some hd =>
    let n := imageField hd 0 4
    if 4096 < n || imageField hd 4 12 ≠ 0 then none else
    match physRead s (pa + 16) (16 * n) with
    | none => none
    | some bs =>
      let f := fun i off size => imageField bs (16 * i + off) size
      let ps : List (Nat × Nat × Word) := (List.range n).map fun i => (f i 0 2, f i 2 2, BitVec.ofNat 64 (f i 8 8))
      let ok := (List.range n).all fun i =>
        f i 0 2 < imageNodes img && f i 2 2 % 8 = 0 && 0x10 ≤ f i 2 2 && f i 2 2 ≤ 0x78 && f i 4 4 = 0
      if ok && (patched img ps).all (fun x => !(recordReserved x) && crOk x) then some ps else none

/-- The fields of TRIG (R233). -/
def trigGraph (w : Nat) : Nat := bitsAt w 0 12
def trigPlist (w : Nat) : Nat := bitsAt w 12 40

/-- The test of a TRIG write (R234): the reason of a rejection, or the trigger's patches. -/
def testTrigger (s : State) (q size w : Nat) : Except Nat (List (Nat × Nat × Word)) :=
  if size ≠ 8 || bitsAt w 55 9 ≠ 0 || (!(bitAt w 52) && trigPlist w ≠ 0) then .error 2 else
  match s.hub.graph (trigGraph w) with
  | none => .error 1
  | some g =>
    if g.unloaded then .error 1 else
    if 32 ≤ (s.hub.tqueue q).queue.length then .error 4 else
    if !(bitAt w 52) then .ok [] else
    if bitsAt w 12 4 ≠ 0 then .error 3 else
    match patchList s g.image (trigPlist w) with
    | some ps => .ok ps
    | none => .error 3

def execTriggerWrite (q size : Nat) (w : Word) (s : State) : Host.Outcome State Fault Refusal :=
  if 16 ≤ q || !(size = 4 || size = 8) then .next s else
  .next (match testTrigger s q size w.toNat with
    | .error r => s.modHub fun h =>
      let t := h.tqueue q
      { h with queues := fset h.queues q { t with reason := r, rej := (t.rej + 1) % 65536 } }
    | .ok ps => s.modHub fun h =>
      let t := h.tqueue q
      let x : Trigger := { id := h.nextInst, graph := trigGraph w.toNat, irq := w.getLsbD 54, ser := w.getLsbD 53, patches := ps }
      { h with queues := fset h.queues q { t with queue := t.queue ++ [x], acc := (t.acc + 1) % 65536 },
               nextInst := (h.nextInst + 1) % 65536 })

/-- The die of a node's owning hub (R236). The hubs of a module share all of their state here, so it says no more than which of them runs
the node. -/
def hubOf (img : List Byte) (n : Node) : Nat :=
  match n.kind with
  | 0 => ((((bayList img n).getD []).find? fun b => b.wing == 0).map BayEnt.die).getD 0
  | 1 => bitsAt (n.word 7) 0 12 / 1024
  | _ => 0

/-- The nodes without predecessors become ready, in order (R236). -/
def readyFirst (s : State) (inst : Nat) (n : Nat) : State :=
  (List.range n).foldl (fun s i =>
    let place := s.nextReq
    ({ s with nextReq := s.nextReq + 1 } : State).modNode inst i fun x =>
      if x.npred = 0 then { x with st := .ready, readyAt := place } else x) s

def execInstanceStart (q : Nat) (s : State) : Host.Outcome State Fault Refusal :=
  let t := s.hub.tqueue q
  match t.queue with
  | [] => .next s
  | x :: rest =>
    let held := x.ser && s.hub.insts.any fun i => i.queue == q && i.graph == x.graph
    if 64 ≤ s.hub.insts.length || held then .next s else
    match s.hub.graph x.graph with
    | none => .next s
    | some g =>
      let ns := (patched g.image x.patches).map fun n => { n with left := n.npred, hub := hubOf g.image n }
      let i : Inst := { id := x.id, graph := x.graph, queue := q, irq := x.irq, nodes := ns }
      let u := s.modHub fun h => { h with insts := h.insts ++ [i], queues := fset h.queues q { t with queue := rest } }
      .next (readyFirst u x.id ns.length)

/-! ### Nodes -/

/-- A node that is ready, of a kind. -/
def readyNode (s : State) (inst node kind : Nat) : Option (Inst × Graph × Node) :=
  match nodeAt s inst node with
  | some (i, g, n) => if n.st == .ready && n.kind = kind then some (i, g, n) else none
  | none => none

/-- A node starts. -/
def startNode (s : State) (inst node : Nat) : State :=
  s.modNode inst node fun n => { n with st := .running, start := some s.hub.time.toNat }

/-- All cores that a KERNEL node needs: those of its bay list and their twins. -/
def kernelCores (bs : List BayEnt) (n : Node) : List Nat :=
  coresOfBays bs ++ (if n.paired then (coresOfBays bs).map twinCore else [])

/-- A core that no launch can have (R237): its cluster is unavailable or its slot unbacked. -/
def shelfBad (s : State) (cs : List Nat) : Bool := cs.any fun c => unavailable s (clusterOf c) || physOf s c == 0x1F

/-- The cores are free, and nothing is being filled where their regions go. -/
def coresFree (s : State) (cs : List Nat) : Bool :=
  cs.all fun c => (s.core c).bay.isNone &&
    !((s.core c).l1.folios.any fun f => f.st == .filling) && !((s.cluster (clusterOf c)).l2.folios.any fun f => f.st == .filling)

/-- A KERNEL node that became ready earlier still waits: it is served first (R237). -/
def earlierKernel (s : State) (n : Node) : Bool :=
  s.hub.insts.any fun i => i.nodes.any fun m => m.st == .ready && m.kind = 0 && m.readyAt < n.readyAt

/-- The sizes of the regions (R228). -/
def regionSizes (img : List Byte) (n : Node) : List Nat :=
  if n.regOff = 0 then [] else (List.range 16).map fun j => imageField img (n.regOff + 4 * j) 4

/-- The reservation and the opening of a KERNEL node's launch, or the status with which it fails (R237). -/
def reserveKernel (s : State) (inst node : Nat) (g : Graph) (n : Node) (bs : List BayEnt) : State :=
  let s := startNode s inst node
  match hubRead s g.ctx n.htva 8192 with
  | none => completeNode s inst node 4 2 0 0 0
  | some table =>
    let cs := kernelCores bs n
    let ok := cs.eraseDups.length == cs.length && !(tableBad table) && bitAt (fieldAt (tableSlot table n.ltag) 64 8) 62
    match (if ok then openLaunch s inst node g.ctx n bs (regionSizes g.image n) table else none) with
    | some t => t
    | none => completeNode s inst node 1 2 0 0 0

def execKernelReserve (inst node : Nat) (s : State) : Host.Outcome State Fault Refusal :=
  match readyNode s inst node 0 with
  | none => .next s
  | some (_, g, n) =>
    match bayList g.image n with
    | none => .next (completeNode (startNode s inst node) inst node 4 2 0 0 0)
    | some bs =>
      if !(bayListOk bs) || 62 < n.ltag || 8 < n.nparam || (n.regOff ≠ 0 && g.image.length < n.regOff + 64) then
        .next (completeNode (startNode s inst node) inst node 4 2 0 0 0)
      else if shelfBad s (kernelCores bs n) then .next (completeNode (startNode s inst node) inst node 1 2 0 0 0)
      else if !(coresFree s (kernelCores bs n)) || earlierKernel s n then .next s
      else .next (reserveKernel s inst node g n bs)

/-! ### Barrier nodes (R230) -/

/-- What a BARRIER node's object says: invalid at the start, open, broken, or a generation other than the one awaited. -/
inductive BarLook where
  | invalid | wait | broken | moved
  deriving DecidableEq, Repr

/-- A poisoned object is read as its bytes stand: the manual gives the node no status for it (DESIGN CHOICE, log entry 100). -/
def barLook (s : State) (ctx : Nat) (n : Node) : BarLook :=
  let a := n.word 3
  let c := scrCoreOf a
  let r := scrRegionOf a
  if spaceOf a ≠ 2 || !(s.isOwnDev (devOf a)) || a % 16 ≠ 0 || !(inOpenBay s ctx c) || s.regionSize c r < scrOffOf a + 16 then .invalid
  else
    let w := barObject s c r (scrOffOf a)
    if barBroken w then .broken else if barGen w ≠ bitsAt (n.word 4) 0 4 then .moved else .wait

/-- The core is in the shadow storage with its partition (R313): its regions are saved, and not released. -/
def coreAway (s : State) (core : Nat) : Bool := s.hub.partitions.any fun p => p.isOut && p.shadow.any fun (c, _) => c == core

/-- A BARRIER node starts, or looks at its object again. -/
def barrierNode (s : State) (inst node : Nat) (g : Graph) (n : Node) (first : Bool) : State :=
  if n.word 3 = 0 then completeNode s inst node 0 0 0 0 0 else
  -- a sector that its twin can correct is corrected before it is read (R149)
  let a := n.word 3
  let s := if barLook s g.ctx n = .invalid then s else healRegion s (scrCoreOf a) (scrRegionOf a) (scrOffOf a) 16
  match barLook s g.ctx n with
  | .invalid => if first then completeNode s inst node 4 2 0 0 0 else completeNode s inst node 2 2 0 0 0
  | .broken => completeNode s inst node 2 2 0 0 0
  | .moved => completeNode s inst node 0 0 0 0 0
  | .wait => s

/-- A waiting BARRIER node ends (R230): with what ended its wait, or with what its object says now. One whose object is saved with its
partition waits until that is back. -/
def barrierEnd (s : State) (inst node : Nat) (g : Graph) (n : Node) : State :=
  match n.moved with
  | some true => completeNode s inst node 0 0 0 0 0
  | some false => completeNode s inst node 2 2 0 0 0
  | none => if coreAway s (scrCoreOf (n.word 3)) then s else barrierNode s inst node g n false

def execBarrierNodeStart (inst node : Nat) (s : State) : Host.Outcome State Fault Refusal :=
  match nodeAt s inst node with
  | some (_, g, n) =>
    if n.kind ≠ 2 then .next s
    else if n.st == .ready then .next (barrierNode (startNode s inst node) inst node g n true)
    else if n.st == .running then .next (barrierEnd s inst node g n)
    else .next s
  | none => .next s

/-- The BARRIER nodes that wait for an object on a core whose regions are released end in FAULT, unless the generation had moved on
before (R230). -/
def failBarriers (s : State) (core : Nat) : State :=
  (s.hub.insts.flatMap fun i => (List.range i.nodes.length).map fun j => (i.id, j)).foldl (fun s (i, j) =>
    match nodeAt s i j with
    | some (_, _, n) =>
      if n.kind = 2 && n.st == .running && scrCoreOf (n.word 3) = core then
        (if n.moved = some true then completeNode s i j 0 0 0 0 0 else completeNode s i j 2 2 0 0 0)
      else s
    | none => s) s

/-! ### The end of a launch (R50) -/

/-- A launch has nothing left to do. -/
def launchIdle (s : State) (l : Launch) : Bool := (l.cores ++ l.twins).all (coreIdle s)

/-- Cores of the launch are in the shadow storage (R312): the launch finishes once they are back. -/
def launchAway (s : State) (l : Launch) : Bool := s.hub.partitions.any fun p => p.ctx == l.ctx && p.isOut && p.shadow.any fun (c, _) => l.cores.contains c

/-- The launch finishes: its cores and regions are released, and its node completes. -/
def finishLaunch (s : State) (l : Launch) : State :=
  let t := (l.cores ++ l.twins).foldl closeCore (l.cores.foldl failBarriers s)
  let t := t.modHub fun h => { h with launches := h.launches.filter fun x => x.id ≠ l.id }
  completeNode t l.inst l.node 0 (verdictOf l) l.acts l.repl l.corr

def execLaunchFinish (idx : Nat) (s : State) : Host.Outcome State Fault Refusal :=
  match s.hub.launches[idx]? with
  | some l => .next (if launchIdle s l && !(launchAway s l) then finishLaunch s l else s)
  | none => .next s

/-! ### SIPH nodes (R229) -/

/-- A capability that the hub builds: over [va, va + len) with permissions, its bounds exact. -/
def hubCap (va len perms : Nat) : Option TCap :=
  if 2 ^ 48 < va + len then none else
  (granFor va (va + len)).map fun g => { val := mkCap perms g 0 (len / 2 ^ g) va, tag := true }

/-- The command of a SIPH node, after the checks of R186 for the named core in the graph's context. -/
def siphNodeCmd (s : State) (inst node ctx core : Nat) (n : Node) : Option SiphCmd :=
  let dva := n.word 3
  let lens := n.word 6
  match hubCap dva 128 (permR ||| permENG), hubCap (n.word 4) (bitsAt lens 0 32) permR with
  | some _, some a =>
    if dva % 128 ≠ 0 then none else
    match hubRead s ctx dva 128 with
    | none => none
    | some d =>
      let c := siphOfDesc d a {} (BitVec.ofNat 64 dva)
      let dtile := ctlDtile c.ctl.toNat
      let dst : Option TCap :=
        if dtile then (if n.word 5 = 0 && bitsAt lens 32 32 = 0 then some {} else none) else hubCap (n.word 5) (bitsAt lens 32 32) permW
      match dst with
      | none => none
      | some b =>
        let t := s.modCore core fun k => { k with ctx := ctx }
        match siphBuild t core { c with dst := b } dtile with
        | .error _ => none
        | .ok c => some { c with node := some (inst, node) }
  | _, _ => none

/-- The command takes its place in the core's commit queue, as if drained; a node does not wait for room in it (R236). -/
def queueSiph (s : State) (core ch ctx : Nat) (c : SiphCmd) : State :=
  s.modCore core fun k =>
    let (id, k) := k.fresh
    let e : Entry := { eff := .siph ch c, addr := c.desc, release := some ⟨4, 4, []⟩, major := 0x24, ctx := ctx, drain := id, id := id }
    { k with queue := k.queue ++ [e] }

def execSiphNodeStart (inst node : Nat) (s : State) : Host.Outcome State Fault Refusal :=
  match readyNode s inst node 1 with
  | none => .next s
  | some (_, g, n) =>
    let core := bitsAt (n.word 7) 0 12
    let ch := bitsAt (n.word 7) 12 6
    let t := startNode s inst node
    .next (match siphNodeCmd t inst node g.ctx core n with
      | none => completeNode t inst node 4 2 0 0 0
      | some c => queueSiph t core ch g.ctx c)

/-! ### NOTIFY-HOST nodes (R231) -/

/-- A NOTIFY-HOST node ends: its record as composed at the start with the status it now holds, then the interrupt. Where it is the last
node of its instance, the instance's own interrupt (R239) goes first (DESIGN CHOICE, log entry 104). -/
def endNotify (s : State) (inst node : Nat) (n : Node) (ok : Bool) : State :=
  let t := completeAt s inst node (if ok then 0 else 2) (if ok then 0 else 2) 0 0 0 (n.start.getD 0)
  if ok then sendMsix t (bitsAt (n.word 3) 0 16) else t

def execNotifyHostNodeStart (inst node : Nat) (s : State) : Host.Outcome State Fault Refusal :=
  match readyNode s inst node 3 with
  | none => .next s
  | some (_, g, _) =>
    let t := startNode s inst node
    match nodeAt t inst node with
    | none => .next s
    | some (_, _, n) =>
      let v := bitsAt (n.word 3) 0 16
      let a := n.word 4
      let now := n.start.getD 0
      .next (
        if v < 16 || 62 < v then endNotify t inst node n false
        else if a = 0 then endNotify t inst node n true
        else if !(hostAllowed t a 32) then endNotify (egLog t g.ctx 3 false 0 a) inst node n false
        else (((newReq t (.notify inst node) (BitVec.ofNat 64 a) true).1.emit
          (.hostWrite a (recordBytes inst node 0 0 now now 0 0 0))).emit (.hostRead a 32)))

/-- The request of a NOTIFY-HOST node's read-back. -/
def notifyReq (s : State) (inst node : Nat) : Option Req := s.reqs.find? fun q => q.user == .notify inst node

/-- The read-back completes, or fails: FABLIM may have ended it before (R231, R309). -/
def execNotifyHostReadback (inst node : Nat) (ok : Bool) (s : State) : Host.Outcome State Fault Refusal :=
  match nodeAt s inst node, notifyReq s inst node with
  | some (_, _, n), some q =>
    .next (if n.kind = 3 && n.st == .running then
      endNotify (dropReq s q.id) inst node n (ok && q.resp.isNone && s.hub.time.toNat < q.start + s.hub.fablim.toNat * 1000) else s)
  | _, _ => .next s

end Sys2Proof.Machine
end

