-- ==== Sys2Proof/Machine/EvReliability.lean ====
section
/-! DEFINITION. Health counts and reshelving (R279, R288 to R294, R299): the triggers, the evacuation of a core, its copy to the
spare, the new map and the release of what was held meanwhile. -/

namespace Sys2Proof.Machine

/-! ### Health events (R279, R288) -/

def execCorrectedError (cluster phys : Nat) (user : Option Nat) (s : State) : Host.Outcome State Fault Refusal :=
  let t := match user with
    | some c => s.modLaunch (s.core c).launchId fun l => { l with corr := l.corr + 1 }
    | none => s
  .next (if phys ≤ 16 then countError t cluster phys else countCluster t cluster)

/-- A LEAK interval in microseconds of TIME has passed since the last. -/
def execHealthLeak (cluster phys : Nat) (s : State) : Host.Outcome State Fault Refusal :=
  let w := s.health cluster phys
  let last := fgetD (s.cluster cluster).leaks phys 0
  if leakOf w = 0 || s.hub.time.toNat < last + 1000 * leakOf w then .next s else
  .next ((s.setHealth cluster phys (putBits w 56 8 (ceb w - 1))).modCluster cluster fun c =>
    { c with leaks := fset c.leaks phys (last + 1000 * leakOf w) })

def execHealthRqWrite (cluster phys : Nat) (s : State) : Host.Outcome State Fault Refusal := .next (trigger s cluster phys)

/-- A write of a health register (R288): its RW fields; a LEAK interval begins with the write, and RQ triggers. -/
def writeHealth (s : State) (k p : Nat) (w : Word) : State :=
  let x := w.toNat
  let old := s.health k p
  let new := putBits (putBits (putBits old 48 8 (cet x)) 8 40 (bitsAt x 8 40)) 0 1 (bitsAt x 0 1)
  let t := (s.setHealth k p new).modCluster k fun c => { c with leaks := fset c.leaks p s.hub.time.toNat }
  if bitAt x 1 then trigger t k p else t

/-! ### Step 2: evacuation (R289, R292) -/

/-- The activation is aborted: its outbox is discarded, and its inbox entry stays, to be dispatched afresh as a replay. -/
def abortCarrel (s : State) (c i : Nat) : State :=
  s.modCore c fun k =>
    let x := k.carrel i
    let h := k.tagOf x.tag
    let k := k.setTag x.tag { h with act := h.act - 1, pend := h.pend + 1 }
    let again := fun (e : InboxEnt) => if e.id = x.entry then { e with started := false, again := true } else e
    ({ k with inbox := k.inbox.map again } : Core).setCarrel i (x.freed s.cycle)

/-- Both executions of a pair go together (R283). -/
def withPartner (f : State → Nat → Nat → State) (s : State) (c i : Nat) : State :=
  match (if (s.carrel c i).pair then partner s c i else none) with
  | some (d, j) => f (f s c i) d j
  | none => f s c i

/-- The NR that governs an activation: the primary's (R286). -/
def governedNr (s : State) (c i : Nat) : Bool :=
  match (s.core c).twinOf, partner s c i with
  | some _, some q => (s.carrel q.1 q.2).nr
  | _, _ => (s.carrel c i).nr

/-- Replayable activations in the states named are aborted. -/
def abortAll (s : State) (c : Nat) (p : Carrel → Bool) : State :=
  (List.range 8).foldl (fun s i =>
    if p (s.carrel c i) && !(governedNr s c i) then withPartner abortCarrel s c i else s) s

/-- The core that a reshelving leaves. -/
def Reshelve.core (r : Reshelve) (k : Nat) : Nat := 16 * k + r.slot

def execEvacLimitExpiry (cluster : Nat) (s : State) : Host.Outcome State Fault Refusal :=
  match (s.cluster cluster).reshelve with
  | some r =>
    if r.phase != .evacuate || r.expired || r.cycles < r.limit then .next s else
    let t := s.modCluster cluster fun c => { c with reshelve := some { r with expired := true } }
    .next (abortAll t (r.core cluster) fun x => x.st == .running || x.st == .runtime || x.st == .ending)
  | none => .next s

/-- Every activation of the core that is left is abandoned (R292). -/
def abandonAll (s : State) (c : Nat) : State :=
  (List.range 8).foldl (fun s i => if (s.carrel c i).st == .free then s else withPartner abandon s c i) s

/-- The inbox of a core is discarded. -/
def Core.discardInbox (k : Core) : Core :=
  { k with inbox := [], tags := k.tags.map fun (t, h) => (t, { h with pend := 0 }) }

/-- The other core of a pair. -/
def otherCore (k : Core) : List Nat := k.twin.toList ++ k.twinOf.toList

/-- A 128-bit shelf-map entry written to a cluster: EPOCH counts it (R293, R294). -/
def setShelf (s : State) (k w : Nat) : State :=
  (s.modCluster k fun c => { c with shelf := some (BitVec.ofNat 128 w) }).modHub fun h => { h with epoch := h.epoch + 1 }

/-- Slot `i` is marked unbacked (R292): no spare can take what the failed core ran. -/
def loseSlot (s : State) (k i p : Nat) : State :=
  let c := 16 * k + i
  let m := shelfOf (s.cluster k)
  let t := setShelf s k (putBits (putBits m (5 * i) 5 0x1F) (86 + p) 1 1)
  let t := (abandonAll t c).taint c
  (c :: otherCore (t.core c)).foldl (fun s d => s.modCore d fun x => { x.discardInbox with lost := x.lost || d = c }) t

/-- What ran on a core that cannot be read (R292): replayable activations are aborted, the others abandoned. -/
def flushCore (s : State) (c : Nat) : State := abandonAll (abortAll s c fun x => x.st != .free && x.st != .halted) c

/-- The reshelving of a slot is at a step. -/
def reshelvingAt (s : State) (k i : Nat) (f : ReshelvePhase) : Bool := (s.cluster k).reshelve.any fun r => r.slot == i && r.phase == f

/-- The slot of a failed core is evacuated, or lost where no spare is free (R292). -/
def failSlot (s : State) (k i p : Nat) : State :=
  let t := if (s.cluster k).reshelve.isSome then s else honour s k p
  if reshelvingAt t k i .evacuate then flushCore t (16 * k + i) else loseSlot t k i p

/-- The triggers that waited are served in order, until one starts a reshelving (R299). A core that failed meanwhile is dealt with in
its turn. -/
def serveList (s : State) (k : Nat) : List (Nat × Bool) → State
  | [] => s
  | (p, failed) :: rest =>
    if (s.cluster k).reshelve.isSome || clusterAway s k then s.modCluster k fun c => { c with waiting := (p, failed) :: rest }
    else serveList (match failed, slotBacked s k p with
      | true, some i => failSlot s k i p
      | true, none => s
      | false, _ => honour s k p) k rest

def serveWaiting (s : State) (k : Nat) : State :=
  serveList (s.modCluster k fun c => { c with waiting := [] }) k (s.cluster k).waiting

/-- A physical core cannot be read any more (R292): its slot is evacuated at once, or lost. After step 3 it holds nothing. While the
cluster's cores are being switched out, or are out, the failure waits (R299). -/
def execCoreFailure (cluster phys : Nat) (s : State) : Host.Outcome State Fault Refusal :=
  match slotBacked s cluster phys with
  | none => .next s
  | some i =>
    .next (if reshelvingAt s cluster i .copied then s
      else if clusterAway s cluster then s.modCluster cluster fun c => { c with waiting := c.waiting ++ [(phys, true)] }
      else failSlot s cluster i phys)

/-! ### Step 3: the copy (R289, R291) -/

/-- The sectors of a folio get the poison of those of another with the same extent. -/
def Cache.likePoison (c : Cache) (f : Folio) (src : Cache) (g : Folio) : Cache :=
  let bad := ((List.range f.count).filter fun i => src.poison.contains (g.base + i)).map (f.base + ·)
  { c with poison := (c.poison.filter fun x => !(f.base ≤ x && x < f.base + f.count)) ++ bad }

/-- The pinned-scratch folio of a key takes the bytes of one of another cache, with their poison. -/
def Cache.pour (c : Cache) (key : Nat) (src : Cache) (g : Folio) : Cache :=
  match c.folios.find? fun f => f.st == .pinned && f.key == key with
  | none => c
  | some f => ({ c with folios := c.folios.map fun x => if x == f then { f with data := g.data } else x } : Cache).likePoison f src g

/-- The scratchpad folios of a core take the bytes of their twins. -/
def fromTwins (l1 l2 : Cache) (slot : Nat) : Cache :=
  (l2.folios.filter fun g => g.st == .pinned && g.key / 4096 == slot).foldl (fun c g => c.pour (g.key % 4096) l2 g) l1

/-- The word of a wait that starts again (R213, R200, R361): it issues afresh from the start of its group. -/
def Carrel.again (c : Carrel) : Carrel := { c.awake with pc := c.groupPc, hints := [], prioTried := false, bufs := [] }

/-- Prefetched elements of read streams are fetched again (R197). -/
def refetch (st : Stream) : Stream := if st.write then st else { st with ready := [], next := st.used }
def Carrel.refetched (c : Carrel) : Carrel := { c with streams := c.streams.map fun (n, st) => (n, refetch st) }

/-- A parked carrel after the move: LWAIT, BWAIT and IDLE start again, other waits go on as they stood (R291, R314, R361). -/
def Carrel.restored (c : Carrel) : Carrel :=
  match c.park with
  | some p => match p.why with
    | .lwait _ | .bwait _ | .idle _ => c.refetched.again
    | .presence _ | .halt => c.refetched
  | none => c.refetched

/-- Requests that peers hold for parked LWAITs of a core are given up (R213). -/
def dropLwaits (s : State) (core : Nat) : State :=
  { s with reqs := s.reqs.filter fun q => match q.user with
    | .lwait c _ => c ≠ core
    | _ => true }

/-- Nothing runs on the core any more (R289, step 2), and no fill or element load is under way. -/
def evacuated (s : State) (c : Nat) : Bool :=
  let k := s.core c
  k.carrels.all (fun (_, x) => (x.st == .free || x.st == .parked) && x.loads.all fun l => match l.dest with
    | .stream .. | .none => false
    | _ => true) &&
  k.queue.isEmpty && !(k.l1.folios.any fun f => f.st == .filling)

/-- The core's state on the spare: only what R289 copies, and an empty L1F beside its scratchpad. -/
def copied (k : Core) (l2 : Cache) (slot : Nat) : Core :=
  let pinned : Cache := Cache.tidy { k.l1 with folios := k.l1.folios.filter fun f => f.st == .pinned }
  let move := fun (c : Carrel) => if c.st == .free then c else { c.restored with moved := true }
  { k with l1 := fromTwins pinned l2 slot, tlb := [], frozen := true, carrels := k.carrels.map fun (i, c) => (i, move c) }

def execReshelveCopy (cluster : Nat) (s : State) : Host.Outcome State Fault Refusal :=
  match (s.cluster cluster).reshelve with
  | some r =>
    let c := r.core cluster
    if r.phase != .evacuate || !(evacuated s c) then .next s else
    let t := (dropLwaits s c).modCore c fun k => copied k (s.cluster cluster).l2 r.slot
    .next (t.modCluster cluster fun x => { x with
      reshelve := some { r with phase := .copied },
      l2 := { x.l2 with folios := x.l2.folios.map fun f => { f with mask := f.mask.filter (· ≠ c) } } })
  | none => .next s

/-! ### Steps 4 and 5 (R289) -/

/-- The map after step 4: slot s on the spare, the core left marked, no spare. -/
def mapAfter (m slot phys spare : Nat) : Nat := putBits (putBits (putBits m (5 * slot) 5 spare) (86 + phys) 1 1) 80 5 0x1F

/-- A held flit is done with, or stays. -/
def releaseFlit (s : State) (f : Flit) : Option State :=
  match f.body with
  | .space2 op r o q => releaseSpace2 s f op r o q
  | _ => release s f

/-- Held traffic is taken in order, up to the first that cannot be: the state and what is left. -/
def releaseAll (s : State) : List Flit → State × List Flit
  | [] => (s, [])
  | f :: fs => match releaseFlit s f with
    | some t => releaseAll t fs
    | none => (s, f :: fs)

/-- The order of step 5: what held accesses write, atomics and barrier updates among it, in order of arrival, then held reads, then
messages. -/
def heldOrder (fs : List Flit) : List Flit :=
  let rank := fun (f : Flit) => match f.body with
    | .space2 (.read _) _ _ _ | .space2 (.vread _) _ _ _ => 1
    | .space2 .. => 0
    | _ => 2
  fs.filter (rank · = 0) ++ fs.filter (rank · = 1) ++ fs.filter (rank · = 2)

/-- Held traffic of a slot is released; with the last of it the reshelving is over, and triggers that waited are served. -/
def releaseSlot (s : State) (k : Nat) (r : Reshelve) : State :=
  let t := s.modCluster k fun x => { x with held := [], reshelve := none }
  let (t, rest) := releaseAll t (heldOrder (s.cluster k).held)
  if rest.isEmpty then serveWaiting t k
  else t.modCluster k fun x => { x with held := rest, reshelve := some { r with phase := .releasing } }

def execReshelveMapRelease (cluster : Nat) (s : State) : Host.Outcome State Fault Refusal :=
  match (s.cluster cluster).reshelve with
  | some r => .next (match r.phase with
    | .evacuate => s
    | .copied =>
      let t := setShelf s cluster (mapAfter (shelfOf (s.cluster cluster)) r.slot r.phys r.spare)
      releaseSlot (t.modCore (r.core cluster) fun k => { k with frozen := false }) cluster r
    | .releasing => releaseSlot s cluster r)
  | none => .next s

/-- The resident OS writes a shelf-map entry: its RW fields (R293, R294). -/
def execShelfMapWrite (cluster : Nat) (w : Cap) (s : State) : Host.Outcome State Fault Refusal :=
  .next (setShelf s cluster (putBits (putBits w.toNat 104 24 0) 85 1 0))

end Sys2Proof.Machine
end

