-- ==== Sys2Proof/Machine/EvPartition.lean ====
section
/-! DEFINITION. Partitions (R303, R311 to R315): the stop and the drain of a switch-out, the state saved, and the switch-in. -/

namespace Sys2Proof.Machine

/-! ### Out -/

/-- A change to a context's partition record. -/
def State.modPartition (s : State) (ctx : Nat) (f : Partition → Partition) : State :=
  s.modHub fun h => { h with partitions := h.partitions.map fun p => if p.ctx = ctx then f p else p }

/-- A carrel as a switch-out halts it (R312): at a word boundary, and not inside a hint group, whose words issue again later. -/
def Carrel.stopped (c : Carrel) : Carrel := if c.issues then { c with pc := c.groupPc, hints := [], prioTried := false } else c

/-- Steps 1 and 2 (R312): dispatch and issue stop; a cluster that reshelves comes first (R299). -/
def execPartitionSwitchOut (ctx : Nat) (s : State) : Host.Outcome State Fault Refusal :=
  let cs := partitionCores s ctx
  if (s.hub.partitions.any fun p => p.ctx == ctx) || cs.isEmpty || (cs.any fun c => (s.cluster (clusterOf c)).reshelve.isSome) then .next s
  else
    let p : Partition := { ctx := ctx, stopping := true, isOut := false, shadow := [], tiles := [], held := [] }
    .next (cs.foldl (fun s c => s.modCore c fun k =>
        { k with stopped := true, carrels := k.carrels.map fun (i, x) => (i, x.stopped) })
      (s.modHub fun h => { h with partitions := h.partitions ++ [p] }))

/-- The requests of a cluster and a colour that await a response (R303): those of its cores to other agents, and those to the homes. -/
def awaited (s : State) (k colour : Nat) : Nat :=
  let cat := fun (m : CatMsg) => m.kind.asks && m.cluster == k && m.colour == colour
  (s.reqs.filter fun q => clusterOf q.user.core == k && s.colourOf (s.core q.user.core).ctx == colour && q.resp.isNone).length +
  ((s.cluster k).reqs.filter fun q => cat q.msg).length +
  (s.dies.map fun (_, d) => (d.inbox.filter cat).length + (d.entries.filter fun e => e.cur.any cat).length).sum

/-- The in-flight counter of a router for a colour (R303): the flits of its cluster that are not ejected, or are ejected and not yet
taken; requests; siphon commands; engine commands. -/
def routerCount (s : State) (k colour : Nat) : Nat :=
  let mine := fun (f : Flit) => f.src == k && f.colour == colour
  let channels := fun (c : Nat) => ((s.core c).chans.filter fun (_, x) => x.cmd.isSome && s.colourOf x.ctx == colour).length
  (s.flits.filter mine).length + (s.clusters.map fun (_, x) => ((x.arrived ++ x.reorder).filter mine).length).sum +
  awaited s k colour + ((coresOf k).map channels).sum + ((engineCmds s k).filter fun e => s.colourOf e.ctx == colour).length

/-- A core has drained (R312, step 3): queue, requests, loads, messages under way, siphons, and what an Ending carrel hands over.
One that waits for the other execution of a pair stays Ending. -/
def coreDrained (s : State) (c : Nat) : Bool :=
  let k := s.core c
  k.queue.isEmpty && k.out.all (fun m => !m.inFlight) &&
  k.carrels.all (fun (_, x) => (x.st != .ending || comparing x) && x.loads.all fun l => l.dest == .none) &&
  !(s.reqs.any fun q => q.user.core == c && q.resp.isNone) &&
  k.chans.all (fun (_, x) => x.cmd.isNone)

/-- The counters of every router for the partition's colour read zero (R303, R312). -/
def partitionDrained (s : State) (ctx : Nat) : Bool :=
  (stoppedCores s ctx).all (coreDrained s) && (List.range 256).all fun k => routerCount s k (s.colourOf ctx) == 0

/-- What is saved of a core (R313). -/
def savedCore (s : State) (c : Nat) : Core :=
  let k := s.core c
  let gone := fun (x : Carrel) => { x with loads := [] }
  { k with tlb := [], stopped := false,
           carrels := k.carrels.map fun (i, x) => (i, gone x) }

/-- The core as it is left behind: free, with what belongs to no partition. -/
def leftCore (k : Core) : Core :=
  { l1 := k.l1, tlb := k.tlb, nextId := k.nextId, sendSeq := k.sendSeq, seen := k.seen, ctxRegs := k.ctxRegs, lost := k.lost,
    lastA := k.lastA, lastB := k.lastB, atA := k.atA, atB := k.atB, chans := [], ctx := 0 }

/-- The tiles and accumulators of a context's allotment on a cluster's engine (R255, R313). -/
def savedTiles (s : State) (k ctx : Nat) : Nat × FMap Tile × FMap Acc :=
  let e := (s.cluster k).engine
  let a := fgetD e.allots ctx ⟨0, 0, 0, 0⟩
  (k, e.tiles.filter (fun (n, _) => a.tlb ≤ n && n < a.tlb + a.tln), e.accs.filter (fun (n, _) => a.alb ≤ n && n < a.alb + a.aln))

/-- The context's entries leave the translation caches (R110). -/
def dropTranslations (s : State) (ctx : Nat) : State :=
  let keep := fun (es : List TlbEnt) => es.filter fun e => e.ctx ≠ ctx
  { s with cores := s.cores.map fun (c, k) => (c, { k with tlb := keep k.tlb }),
           clusters := s.clusters.map fun (n, k) => (n, { k with rtc := keep k.rtc }) }

/-- The regions of a core before they are saved: every poisoned sector whose twin is clean is corrected from it (R149, R279). -/
def healRegions (s : State) (c : Nat) : State :=
  if (s.core c).l1.poison.isEmpty then s else (s.core c).regions.foldl (fun s (r, n) => healRegion s c r 0 n) s

/-- Steps 3 and 4 (R312, R313): the drain is over, and the partition is saved. -/
def execPartitionDrainDone (ctx : Nat) (s : State) : Host.Outcome State Fault Refusal :=
  if !(s.hub.partitions.any fun p => p.ctx == ctx && p.stopping) || !(partitionDrained s ctx) then .next s else
  let cs := stoppedCores s ctx
  let s := cs.foldl healRegions s
  let shadow := cs.map fun c => (c, savedCore s c)
  let tiles := ((cs.map clusterOf).eraseDups).map fun k => savedTiles s k ctx
  let t := s.modPartition ctx fun p => { p with stopping := false, isOut := true, shadow := shadow, tiles := tiles }
  .next (dropTranslations (cs.foldl (fun s c => (unpinRegions (dropLwaits s c) c).modCore c leftCore) t) ctx)

/-! ### In (R314) -/

/-- A carrel of a partition that comes back: halted words issue again from the start of their group. -/
def Carrel.back (c : Carrel) : Carrel :=
  if c.issues then { c.refetched with pc := c.groupPc, hints := [], prioTried := false, bufs := [] } else c.restored

/-- The saved scratchpad bytes of a core go into its L1F and into the twins. -/
def pourScratch (s : State) (c : Nat) (saved : Cache) : State :=
  (saved.folios.filter fun g => g.st == .pinned).foldl (fun s g =>
    (s.modCore c fun k => { k with l1 := k.l1.pour g.key saved g }).modCluster (clusterOf c) fun k =>
      { k with l2 := k.l2.pour (slotOf c * 4096 + g.key) saved g }) s

/-- A channel of a core that comes back: with the command that a SIPH node gave it meanwhile (R229), and the options saved with the core. -/
def Channel.regained (x : Channel) (old : Option Channel) : Channel :=
  { x with hipri := (old.getD {}).hipri, cnote := (old.getD {}).cnote }

/-- A core of the partition is restored on its logical core. The commands that SIPH nodes placed there meanwhile stay. -/
def restoreCore (s : State) (ctx c : Nat) (old : Core) : Option State :=
  let sizes := (List.range 16).map fun r => fgetD old.regions r 0
  (pinRegions s c sizes).map fun s =>
    let k := s.core c
    let new : Core := { old with
      l1 := k.l1, tlb := k.tlb, nextId := max k.nextId old.nextId, sendSeq := k.sendSeq, seen := k.seen, lost := k.lost,
      queue := old.queue ++ k.queue, chans := k.chans.foldl (fun m (n, x) => fset m n (x.regained (fget old.chans n))) old.chans,
      ctxRegs := fset k.ctxRegs ctx old.cregs, regions := old.regions,
      carrels := old.carrels.map fun (i, x) => (i, x.back) }
    pourScratch (s.setCore c new) c old.l1

/-- The saved tiles and accumulators go back to their numbers. -/
def restoreTiles (s : State) (x : Nat × FMap Tile × FMap Acc) : State :=
  s.modCluster x.1 fun c => { c with engine := { c.engine with
    tiles := x.2.1.foldl (fun m (n, t) => fset m n t) c.engine.tiles,
    accs := x.2.2.foldl (fun m (n, a) => fset m n a) c.engine.accs } }

/-- Traffic that the hub held is delivered in order of arrival; the record goes with the last of it (R315). -/
def deliverHeld (s : State) (ctx : Nat) : State :=
  match s.hub.partitions.find? fun p => p.ctx == ctx with
  | none => s
  | some p =>
    let t := s.modHub fun h => { h with partitions := h.partitions.filter fun q => q.ctx ≠ ctx }
    let (t, rest) := releaseAll t p.held
    if rest.isEmpty then t else t.modHub fun h => { h with partitions := h.partitions ++ [{ p with isOut := false, shadow := [], tiles := [], held := rest }] }

/-- No other partition that is in has the colour (R303). -/
def colourFree (s : State) (ctx colour : Nat) : Bool :=
  1 ≤ colour && colour ≤ 255 &&
  s.ctxs.all fun (n, x) => n = ctx || x.colour ≠ colour || s.hub.partitions.any fun p => p.ctx == n && p.isOut

/-- A partition is restored with a new colour; then triggers that waited are served (R299). -/
def execPartitionSwitchIn (ctx colour : Nat) (s : State) : Host.Outcome State Fault Refusal :=
  match s.hub.partitions.find? fun p => p.ctx == ctx with
  | none => .next s
  | some p =>
    if p.stopping then .next s
    else if !p.isOut then .next (deliverHeld s ctx)
    else if !(coresFree s (p.shadow.map (·.1))) || p.shadow.any (fun (c, _) => (reshelving s c).isSome) || !(colourFree s ctx colour) then .next s
    else
      let t := p.shadow.foldl (fun (o : Option State) (c, k) => o.bind fun s => restoreCore s ctx c k) (some s)
      match t with
      | none => .next s
      | some t =>
        let t := p.tiles.foldl restoreTiles (t.setCtx ctx { t.ctx ctx with colour := colour })
        let t := t.modPartition ctx fun q => { q with isOut := false }
        let t := deliverHeld t ctx
        .next ((p.shadow.map fun (c, _) => clusterOf c).eraseDups.foldl (fun s k => serveWaiting s k) t)

end Sys2Proof.Machine
end

