-- ==== Sys2Proof/Machine/EvHost.lean ====
section
/-! DEFINITION. The world outside and the resident OS (R4, R171, R255, R309, R317 to R322): reset and boot, BAR0 and BAR2, hub
registers, and what a new context and a new allotment start with. -/

namespace Sys2Proof.Machine

/-! ### Reset and boot (R320, R321) -/

/-- BSTAT (R321). -/
def bstatWord (stage slot err : Nat) : Word := BitVec.ofNat 64 (stage * 2 ^ 60 + slot * 2 ^ 16 + err)
def stageOf (w : Word) : Nat := bitsAt w.toNat 60 4
def bootErr (w : Word) : Nat := bitsAt w.toNat 0 16

/-- The hub as the ROM leaves it after the firmware's verification (R320 step 1): halted, with no firmware that would publish a
feature chain (R1), or running the firmware of the first slot that verifies. -/
def bootHub (b : BootInput) : Hub :=
  if !b.slot0 && !b.slot1 then { bstat := bstatWord 0 0 1, features := [] }
  else { bstat := bstatWord 1 (if b.slot0 then 0 else 1) 0, boot := some b, features := b.features }

/-- The reserved bits of a fence are no part of it (R322). -/
def fenceOf (f : Word × Word) : Word × Word :=
  (BitVec.ofNat 64 (bitsAt f.1.toNat 61 3 * 2 ^ 61 + bitsAt f.1.toNat 0 52), BitVec.ofNat 64 (bitsAt f.2.toNat 0 52))

/-- The egress policy is loaded and locked; one that fails leaves every fence disabled (R320 step 2). -/
def loadPolicy (h : Hub) (b : BootInput) : Hub :=
  let h := { h with locked := true, boot := none, bstat := BitVec.ofNat 64 (putBits h.bstat.toNat 60 4 2) }
  if b.policy then { h with devid := b.devid % 4096, fences := (b.fences.take 16).map fenceOf }
  else { h with bstat := BitVec.ofNat 64 (putBits h.bstat.toNat 0 16 2) }

/-- The resident OS starts on the 16 control cores at level 2 (R9, R116, R320 step 3), in a context of its own, context 0. The reserved bits of TVEC and
of the pc, which a trap saves in EPC, are zero (R6, R118). That the carrel starts with PLV 2 and NR 1 is a DESIGN CHOICE (log entry 102). -/
def startResident (s : State) : State :=
  (List.range 16).foldl (fun s i => s.setCarrel (4096 + i) 0
    { st := .running, lv := 2, plv := 2, nr := true, pc := Config.bootPc i &&& ~~~3 })
    (s.setCtx 0 { tvec := Config.bootTvec &&& ~~~3, rtBase := Config.bootTable, rtCount := Config.bootEntries })

/-- Module reset: the state right after it, then the ROM. What is still on the agenda is the model's input and stays, as does what
the outside has seen. -/
def execModuleReset (boot : BootInput) (s : State) : Host.Outcome State Fault Refusal :=
  .next { State.reset with agenda := s.agenda, outs := s.outs, hub := bootHub boot }

/-- The next step of the boot (R320, R321): the ROM loads the policy and the firmware starts the resident OS, which then completes
its steps. -/
def execBootStageAdvance (s : State) : Host.Outcome State Fault Refusal :=
  let n := stageOf s.hub.bstat
  .next (match s.hub.boot with
    | some b => startResident (s.modHub (loadPolicy · b))
    | none =>
      if n < 2 || 5 < n then s
      else s.modHub fun h => { h with bstat := BitVec.ofNat 64 (putBits h.bstat.toNat 60 4 (n + 1)) })

/-- The training of the DRAM or of a port has failed (R320, R321): ERR says so while the step is under way. -/
def bootError (s : State) (w : Word) : State :=
  if (w = 3 && stageOf s.hub.bstat = 2) || (w = 4 && stageOf s.hub.bstat = 4) then
    s.modHub fun h => { h with bstat := BitVec.ofNat 64 (putBits h.bstat.toNat 0 16 w.toNat) }
  else s

/-! ### BAR2 (R318) -/

/-- BAR2 is there (feature 6, R326), and the request lies in it. -/
def bar2Ok (s : State) (off n : Nat) : Bool := s.hasFeature 6 && 0 < n && off + n ≤ 2 ^ 36

/-- The physical address of a host offset. -/
def bar2Pa (s : State) (off : Nat) : Nat := bitsAt s.hub.w2base.toNat 0 4 * 2 ^ 36 + off

/-- A byte of home memory as the host sees it. -/
def bar2Byte (s : State) (pa : Nat) : Byte := if hasDram pa then (s.memByte pa).1 else 0xFF

def execBar2Read (off count : Nat) (s : State) : Host.Outcome State Fault Refusal :=
  if !(bar2Ok s off count) then .next s else
  let pa := bar2Pa s off
  .next (s.emit (.hostData ((List.range count).map fun i => bar2Byte s (pa + i))
    ((eccWords pa count).any fun w => hasDram (32 * w) && s.memPoison.contains w)))

/-- Host bytes reach home memory: not where there is no DRAM, and not in a cistern (R207). -/
def bar2Put (s : State) (pa : Nat) (bs : List Byte) : State :=
  (granules pa bs.length).foldl (fun s (g, lo, hi) =>
    let a := 4096 * g + lo
    if !(hasDram a) || (s.rangeOfPa a).isSome then s
    else s.storeMem a (((bs.drop (a - pa)).take (hi - lo)).map fun b => (b, false))) s

def execBar2Write (off : Nat) (data : List Byte) (s : State) : Host.Outcome State Fault Refusal :=
  .next (if bar2Ok s off data.length then bar2Put s (bar2Pa s off) data else s)

def execW2baseWrite (w : Word) (s : State) : Host.Outcome State Fault Refusal :=
  .next (s.modHub fun h => { h with w2base := BitVec.ofNat 64 (bitsAt w.toNat 0 4) })

/-! ### BAR0 (R317) -/

/-- BAR0 takes aligned 4-byte and 8-byte accesses. -/
def bar0Accepts (off size : Nat) : Bool := (size = 4 || size = 8) && off % size = 0 && off + size ≤ 65536

/-- TSTAT (R234). -/
def tstatWord (q : TQueue) : Nat :=
  q.queue.length % 2 ^ 8 * 2 ^ 56 + q.reason % 2 ^ 8 * 2 ^ 48 + q.rej % 2 ^ 16 * 2 ^ 32 + q.done % 2 ^ 16 * 2 ^ 16 + q.acc % 2 ^ 16

/-- An entry of EGLOG (R324). -/
def egWord (e : EgEntry) : Nat :=
  e.ctx % 2 ^ 16 * 2 ^ 64 + e.srck % 8 * 2 ^ 61 + e.typ.toNat * 2 ^ 60 + e.req % 2 ^ 12 * 2 ^ 48 + e.addr % 2 ^ 48

/-- HSTAT as it reads (R232): BUSY while a command is still to be performed. -/
def hstatWord (h : Hub) : Word := h.hstat ||| (if h.hcmds.isEmpty then 0 else BitVec.ofNat 64 (2 ^ 63))

/-- What an 8-byte read of BAR0 returns. -/
def bar0Word (s : State) (off : Nat) : Word :=
  let h := s.hub
  if off < 0x400 then (if off % 64 = 8 then BitVec.ofNat 64 (tstatWord (h.tqueue (off / 64))) else 0)
  else if off = 0x408 then hstatWord h
  else if off = 0x410 then h.harg
  else if off = 0x418 then h.hctx
  else if off = 0x800 then h.w2base
  else if off = 0x1000 then h.bstat
  else if off = 0x1008 then BitVec.ofNat 64 h.devid
  else if off = 0x1010 then h.egcnt.setWidth 64
  else if 0x1100 ≤ off && off < 0x1200 then
    let f := h.fences.getD ((off - 0x1100) / 16) (0, 0)
    if off % 16 = 0 then f.1 else f.2
  else if 0x2000 ≤ off && off < 0x2400 then
    let w := ((fget h.eglog ((off - 0x2000) / 16)).map egWord).getD 0
    BitVec.ofNat 64 (if off % 16 = 0 then w else w / 2 ^ 64)
  else if 0x8000 ≤ off && off < 0x8400 then msixWord h ((off - 0x8000) / 8)
  else if off = 0x9000 then h.pending
  else 0

/-- The bytes of an accepted read. -/
def bar0Bytes (s : State) (off size : Nat) : List Byte :=
  ((natBytes 8 (bar0Word s (off / 8 * 8)).toNat).drop (off % 8)).take size

/-- An access of BAR0 by the host: one that BAR0 does not accept is discarded and a read of it returns all ones; an accepted read returns
the register's bytes. A write that is accepted is REGISTER_WRITE's. -/
def execBar0InvalidAccess (off size : Nat) (write : Bool) (s : State) : Host.Outcome State Fault Refusal :=
  .next (if write then s else
    s.emit (.hostData (if bar0Accepts off size then bar0Bytes s off size else List.replicate size 0xFF) false))

/-- An unmasked vector that is pending is sent. -/
def sendPending (s : State) (v : Nat) : State :=
  if s.hub.pending.getLsbD v && !(msixMasked s.hub v) then
    (s.modHub fun h => { h with pending := h.pending &&& ~~~(BitVec.ofNat 64 (2 ^ v)) }).emit (.msix v)
  else s

/-- A word of the MSI-X table; of vector control only the mask bit is held. -/
def writeMsix (s : State) (i : Nat) (w : Word) : State :=
  let x := if i % 2 = 1 then w.toNat % 2 ^ 33 else w.toNat
  sendPending (s.modHub fun h => { h with msix := fset h.msix i (BitVec.ofNat 64 x) }) (i / 2)

/-- A write of HCMD reaches the hub: commands are performed in the order of their writes, and of the writes of one cycle the host's
comes first (R232). -/
def pushHcmd (s : State) (host : Bool) (w : Word) : State :=
  let c : HubCmd := { word := w, host := host, cyc := s.cycle }
  s.modHub fun h =>
    let later := fun (x : HubCmd) => host && !x.host && x.cyc == s.cycle
    { h with hcmds := h.hcmds.filter (fun x => !(later x)) ++ c :: h.hcmds.filter later }

/-- An 8-byte write of BAR0: registers that only hold their fields, and HCMD. One of a read-only register, or of no register, is
ignored; TRIGGER_WRITE is the write of TRIG. -/
def writeBar0 (s : State) (off : Nat) (w : Word) : State :=
  if off = 0x400 then pushHcmd s true w
  else if off = 0x410 then s.modHub fun h => { h with harg := w }
  else if off = 0x418 then s.modHub fun h => { h with hctx := w }
  else if off = 0x800 then s.modHub fun h => { h with w2base := BitVec.ofNat 64 (bitsAt w.toNat 0 4) }
  else if 0x8000 ≤ off && off < 0x8400 && off % 8 = 0 then writeMsix s ((off - 0x8000) / 8) w
  else s

/-- A write that BAR0 accepts: one of 4 bytes leaves the other half of its register, and HCMD takes none (R232, R317). -/
def writeBar0Part (s : State) (off size : Nat) (w : Word) : State :=
  if !(bar0Accepts off size) then s
  else if size = 8 then writeBar0 s off w
  else if off / 8 * 8 = 0x400 then s
  else writeBar0 s (off / 8 * 8) (BitVec.ofNat 64 (putBits (bar0Word s (off / 8 * 8)).toNat (8 * (off % 8)) 32 w.toNat))

def execRegisterWrite (r : HubReg) (w : Word) (s : State) : Host.Outcome State Fault Refusal :=
  .next (match r with
    | .health k p => if p ≤ 16 then writeHealth s k p w else s
    | .route dev => if dev < 4096 then s.modHub fun h => { h with routes := fset h.routes dev (bitsAt w.toNat 0 18) } else s
    | .fablim => s.modHub fun h => { h with fablim := w }
    | .bar0 off size => writeBar0Part s off size w
    | .hcmd => pushHcmd s false w
    | .osEvent => sendMsix s 63
    | .bootErr => bootError s w)

/-! ### New contexts and allotments -/

/-- The resident OS creates a context (R109, R115, R171, R257): scope entries unset, tile descriptors and context registers at their
reset values. -/
def execContextCreation (init : CtxInit) (s : State) : Host.Outcome State Fault Refusal :=
  let ok := init.ctx < 65536 && (fget s.ctxs init.ctx).isNone && 1 ≤ init.rtCount && init.rtCount ≤ 4096 && init.windows.length ≤ 16
  if !ok then .next s else
  let x : Ctx := { colour := init.colour, tvec := init.tvec >>> 2 <<< 2, rtBase := init.rtBase, rtCount := init.rtCount,
                   windows := init.windows, scopeSet := [] }
  let t := (s.setCtx init.ctx x).modHub fun h => { h with caplist := init.caplist.setWidth 64 }
  .next { t with cores := t.cores.map fun (c, k) => (c, { k with ctxRegs := fdel k.ctxRegs init.ctx }) }

/-- [a, a + n) and [b, b + m) have nothing in common. -/
def apart (a n b m : Nat) : Bool := n = 0 || m = 0 || a + n ≤ b || b + m ≤ a

/-- The resident OS allots tiles and accumulators (R255): disjoint from other contexts', and in their first state. -/
def execEngineAllotment (cluster ctx tlb tln alb aln : Nat) (s : State) : Host.Outcome State Fault Refusal :=
  let e := s.engine cluster
  let ok := tlb + tln ≤ 16 && alb + aln ≤ 8 &&
    e.allots.all fun (c, a) => c = ctx || (apart tlb tln a.tlb a.tln && apart alb aln a.alb a.aln)
  if !ok then .next s else
  let e' : Engine := { e with
    allots := fset e.allots ctx ⟨tlb, tln, alb, aln⟩,
    tiles := (List.range tln).foldl (fun m i => fset m (tlb + i) {}) e.tiles,
    accs := (List.range aln).foldl (fun m i => fset m (alb + i) {}) e.accs }
  .next (s.modCluster cluster fun k => { k with engine := e' })

end Sys2Proof.Machine
end

