-- ==== Sys2Proof/Machine/EvPair.lean ====
section
/-! DEFINITION. Paired dispatch at work (R283 to R286): the hash of an outbox, its comparison at END and at commit points, and
the words that the twin takes from its primary. -/

namespace Sys2Proof.Machine

/-! ### The outbox hash (R285) -/

/-- The bytes of a tagged word: its tag follows the first eight (DEDUCED from "a ninth byte of its 16", log entry 86). -/
def withTag (bs : List Byte) (tag : Bool) : List Byte := if tag then bs.take 8 ++ [1] ++ bs.drop 8 else bs

/-- The bytes of a payload word. -/
def pwordBytes : PWord → List Byte
  | .data v => natBytes 8 v.toNat
  | .cap v t => withTag (natBytes 16 v.toNat) t

/-- A capability register value as bytes, with its tag. -/
def capBytes (c : TCap) : List Byte := pwordBytes (.cap c.val c.tag)

/-- A signed number as 8 bytes. -/
def intBytes (z : Int) : List Byte := natBytes 8 (z % ((2 ^ 64 : Nat) : Int)).toNat

/-- The data of an access toward a peer. -/
def opData : PeerOp → List Byte
  | .msg ws _ => ws.flatMap pwordBytes
  | .rput i w => natBytes 8 i ++ pwordBytes w
  | .read n | .vread n => natBytes 8 n
  | .write d t => withTag d t
  | .amo _ n v _ => natBytes n v.toNat
  | .cas n e v => natBytes n e.toNat ++ natBytes n v.toNat
  | .join v _ _ | .lwait v _ => natBytes 8 v.toNat
  | .cellStore d _ | .pump d | .spoiled d _ => d
  | .barm w | .barb w | .barAuto w => natBytes 8 w.toNat
  | .answer .. | .barr => []

/-- The data of a TAGCTL. -/
def tagData : TagOp → List Byte
  | .en => [1]
  | .dis => [0]
  | .prio v => natBytes 8 v
  | .addr v => natBytes 8 v.toNat
  | .mode p m => natBytes 8 (8 * p.toNat + m)
  | .gate g w => natBytes 8 g ++ natBytes 8 w.toNat
  | .cap g v => natBytes 8 g ++ capBytes v

/-- The data of an engine command. -/
def engineData : EngOp → List Byte
  | .mma m => natBytes 8 m.a ++ natBytes 8 m.b ++ natBytes 8 m.acc ++ natBytes 8 m.tda.toNat ++ natBytes 8 m.tdb.toNat ++ [BitVec.ofNat 8 m.mig.toNat]
  | .macz a k => natBytes 8 a ++ natBytes 8 (accCode k)
  | .macst m => natBytes 8 m.acc ++ natBytes 8 (accCode m.kind) ++ capBytes m.dst ++ natBytes 8 m.ctl.toNat

/-- The data bytes of an entry. -/
def effData : Effect → List Byte
  | .store cells t => withTag (cells.map (·.2)) t
  | .join _ _ n v => natBytes n v.toNat
  | .peer _ op => opData op
  | .amo _ _ n v => natBytes n v.toNat
  | .marker => []
  | .send _ t ws => natBytes 8 t ++ ws.flatMap pwordBytes
  | .rput _ t i w => natBytes 8 t ++ natBytes 8 i ++ pwordBytes w
  | .tagctl _ op => tagData op
  | .siph _ c => c.ext.flatMap (natBytes 4) ++ c.start.flatMap intBytes ++ c.sstr.flatMap intBytes ++ c.dstr.flatMap intBytes ++
      natBytes 8 c.ctl.toNat ++ capBytes c.src ++ capBytes c.dst
  | .sgath _ c => c.raw ++ capBytes c.feat ++ capBytes c.csr
  | .scfg _ w => natBytes 8 w.toNat
  | .engine op => engineData op
  | .barm _ _ w | .barb _ _ w => natBytes 8 w.toNat

/-- Zero padding to a multiple of 8 bytes. -/
def pad8 (bs : List Byte) : List Byte := bs ++ List.replicate ((8 - bs.length % 8) % 8) 0

/-- One entry as it is serialised. -/
def entryBytes (e : Entry) : List Byte :=
  let d := effData e.eff
  natBytes 8 (e.major % 64 + e.func % 256 * 256) ++ natBytes 8 e.addr.toNat ++ natBytes 8 d.length ++ pad8 d

def outboxHash (es : List Entry) : Nat := crc64 (es.flatMap entryBytes)

/-! ### PAIR_COMPARE (R286) -/

/-- Where a carrel of a pair stands to be compared: at a commit point, or at its END, its bindings gone and its loads complete (R353). The
elements of an Ending carrel's write streams can force an overflow commit before that (R165, R197). -/
inductive AtCompare where
  | commit | ended
  deriving DecidableEq, Repr

def atCompare (c : Carrel) : Option AtCompare :=
  if !c.pair || c.pairOk then none
  else if c.st == .ending && c.streams.isEmpty then (if c.loads.all fun l => l.dest == .none then some .ended else none)
  else if c.cmpWait then some .commit else none

/-- The executions differ: both replay once, or the primary traps and the twin is abandoned (R286). The replay of the two counts once in REPL
(DESIGN CHOICE, log entry 107). -/
def pairDiffers (s : State) (core carrel d j : Nat) : State :=
  let p := s.carrel core carrel
  if !p.nr && p.rply < 2 && !p.mismatch then
    let mark := fun (c : Carrel) => { c with mismatch := true }
    let t := (s.modCarrel core carrel mark).modCarrel d j mark
    (restart (restart t core carrel (p.rply + 1)) d j (p.rply + 1)).countReplay core
  else takeTrap (abandon s d j) core carrel 0x2C3 0

/-- The comparison of a primary's carrel with its twin's. -/
def comparePair (s : State) (core carrel d j : Nat) : State :=
  let p := s.carrel core carrel
  let q := s.carrel d j
  match atCompare p, atCompare q with
  | some a, some b =>
    if a = b && outboxHash p.outbox = outboxHash q.outbox then
      let ok := fun (c : Carrel) => { c with pairOk := true, cmpWait := false }
      (s.modCarrel core carrel ok).modCarrel d j ok
    else pairDiffers s core carrel d j
  | _, _ => s

def execPairCompare (core carrel : Nat) (s : State) : Host.Outcome State Fault Refusal :=
  match (if (s.core core).twin.isSome then partner s core carrel else none) with
  | some (d, j) => .next (comparePair s core carrel d j)
  | none => .next s

/-! ### TWIN_SYNC_WORD (R284) -/

/-- The registers that a synchronised word reads, in operand order. -/
def syncSources : Instr → List Reg
  | .amo _ a b _ _ _ => [a, b]
  | .cas d a b _ _ => [a, b, d]
  | .barr _ a => [a]
  | .bwait _ a b => [a, b]
  | .tdset _ a => [a]
  | .scpset a _ => [a]
  | .sysw a _ | .syswRttw a | .syswTwin a | .syswScpbase a => [a]
  | _ => []

/-- A synchronised word that is a commit point (R170). -/
def syncCommits : Instr → Bool
  | .amo .. | .cas .. | .barr .. => true
  | _ => false

/-- What the twin's copy of its scratchpad takes of an AMO or CAS there (R283). -/
def twinAtomic (s : State) (core carrel : Nat) (i : Instr) (r : SyncRec) : State :=
  let vs := readSources (s.carrel core carrel) (syncSources i)
  let addr := capAddr (src vs 0).val
  let put := fun (op : AccOp) (n : Nat) =>
    if localScratch s core addr then
      match atomicNew op n (((r.result.map fun (x : Reg × TCap) => x.2.data).getD 0).toNat % 2 ^ (8 * n)) with
      | some v => scrWrite s core (scrRegionOf addr) (scrOffOf addr) (tbytes n v false)
      | none => s
    else s
  match i with
  | .amo _ _ _ _ w p => put (.amo p (src vs 1).data) (ampBytes w)
  | .cas _ _ _ _ w => put (.cas (src vs 2).data (src vs 1).data) (ampBytes w)
  | _ => s

/-- The effect of a synchronised word on the twin's copies of context state. What the primary did to state that both share is
done. -/
def twinEffect (s : State) (core carrel : Nat) (i : Instr) (r : SyncRec) : State :=
  match i with
  | .tdset t _ => s.modCore core fun k => k.setCregs { k.cregs with td := fset k.cregs.td t.toNat r.arg }
  | .syswScpbase _ => sysNote s core carrel .scpbase
      (s.modCore core fun k => k.setCregs { k.cregs with scpbase := r.arg &&& scpbaseBits })
  | .sysw _ n => sysWrite s core carrel n r.arg
  | .syswTwin _ => sysWrite s core carrel .twin r.arg
  | .amo .. | .cas .. => twinAtomic s core carrel i r
  | .barr .. =>
    -- the primary's arrival at an object of its own, on the twin's copy
    let addr := capAddr (src (readSources (s.carrel core carrel) (syncSources i)) 0).val
    if localScratch s core addr then
      barUpdate (healRegion s core (scrRegionOf addr) (scrOffOf addr) 16) core (scrRegionOf addr) (scrOffOf addr) core false barArriveAt
    else s
  | _ => s

/-- The primary's word trapped after its commit: a BARR at a broken object, or one that broke it (R336). -/
def trapsCommitted (i : Instr) (r : SyncRec) : Bool := match i, r.trap with
  | .barr .., some (c, _) => c = 0x281 || c = 0x282
  | _, _ => false

/-- The twin takes the word from its primary's record: the same trap, the same mark of a failure at the far end (R123), or the same result. -/
def takeSync (s : State) (core carrel : Nat) (i : Instr) (r : SyncRec) : State :=
  let c := s.carrel core carrel
  let s := s.setCarrel core carrel { c with synced := c.synced + 1, cmpWait := false }
  match r.trap with
  | some (cause, v) =>
    if trapsCommitted i r then takeTrap (twinEffect (commitPoint s core carrel) core carrel i r) core carrel cause v
    else takeTrap s core carrel cause v
  | none =>
    if syncCommits i && c.outbox.any (·.ecc) then consumeError s core carrel 0 else
    let s := if syncCommits i then commitPoint s core carrel else s
    let s := twinEffect s core carrel i r
    let s := popAll { s with cur := (core, carrel) } (syncSources i)
    (match r.err, r.result with
     | some (d, m), _ => s.modMe fun c => c.markReg d m
     | none, some (d, v) => s.put d v
     | none, none => s).retire

/-- The twin's next word is a synchronised one and may be taken: its commit has been compared, and no access is outstanding
that it would overtake. -/
def twinReady (s : State) (core carrel : Nat) (i : Instr) (r : SyncRec) : Bool :=
  let c := s.carrel core carrel
  c.settled && (!(syncCommits i) || (r.trap.isSome && !(trapsCommitted i r)) || (!(comparing c) && canDrain s core carrel && (s.core core).queue.isEmpty))

/-- The word of a twin at its synchronised word. -/
def twinSync (s : State) (core carrel p j : Nat) (i : Instr) : State :=
  let c := s.carrel core carrel
  let prim := s.carrel p j
  match prim.sync[c.synced]? with
  | some r => if r.pending.isNone && twinReady s core carrel i r then takeSync s core carrel i r else s
  | none => if prim.st == .ending then pairDiffers s p j core carrel else s

def execTwinSyncWord (core carrel : Nat) (s : State) : Host.Outcome State Fault Refusal :=
  let c := s.carrel core carrel
  if !c.issues || c.owes || !(s.core core).live || !c.pair || (s.core core).twinOf.isNone then .next s else
  match partner s core carrel, fetch { s with cur := (core, carrel) } with
  | some (p, j), .word i t => .next (if isSync i then twinSync t core carrel p j i else s)
  | _, _ => .next s

end Sys2Proof.Machine
end

