-- ==== Sys2Proof/Machine/Flags.lean ====
section
/-! DEFINITION. The flag computations: the sticky flags, rounding mode and trap enables of FPC (R69), and the trap that
raised flags cause (R128). Integer words set no flag (R329). -/

namespace Sys2Proof.Machine

/-- FPC.RM (R69). -/
def fpcRm (fpc : BitVec 13) : Rm :=
  match bitsAt fpc.toNat 0 2 with
  | 0 => .rne
  | 1 => .rtz
  | 2 => .rdn
  | _ => .rup

/-- The raised flags at their places in FPC (R69): IV to NX in bits 2 to 6, NSAT in bit 12. -/
def FFlags.mask (f : FFlags) : BitVec 13 :=
  BitVec.ofNat 13 (4 * f.iv.toNat + 8 * f.dz.toNat + 16 * f.ovf.toNat + 32 * f.udf.toNat + 64 * f.nx.toNat +
    4096 * f.nsat.toNat)

/-- FPC with the raised flags set (R69): sticky, even when the word traps. -/
def fpcRaise (fpc : BitVec 13) (f : FFlags) : BitVec 13 := fpc ||| f.mask

/-- The flag of a class 5 detail: 1 IV, 2 DZ, 3 OF, 4 UF, 5 NX (R127). -/
def FFlags.detail (f : FFlags) : Nat → Bool
  | 1 => f.iv
  | 2 => f.dz
  | 3 => f.ovf
  | 4 => f.udf
  | 5 => f.nx
  | _ => false

/-- The lowest-numbered detail that is raised and enabled (R128). -/
def fpTrap (fpc : BitVec 13) (f : FFlags) : Option Nat :=
  [1, 2, 3, 4, 5].find? fun k => f.detail k && fpc.getLsbD (6 + k)

/-- The lowest element, of those listed with the flags each raised, that raised a detail (R128). -/
def firstRaiser (k : Nat) (fs : List (Nat × FFlags)) : Nat :=
  ((fs.find? fun (_, f) => f.detail k).map (·.1)).getD 0

end Sys2Proof.Machine
end

