-- ==== Sys2Proof/Machine/FpOps.lean ====
section
/-! DEFINITION. Scalar floating point (R75, R355 to R359): FADD and its family, FCMP and FCVT. -/

namespace Sys2Proof.Machine

/-- A scalar floating-point word: the flags are set in FPC, an enabled one traps before the destination is written, else
the result is written (R355). -/
def fpWord (i : Instr) (d : Reg) (cs : List Reg) (s : State) (f : Rm → List Word → Word × FFlags) :
    Host.Outcome State Fault Refusal :=
  runWord i { cs := cs, dc := some d } s fun s vs =>
    let (r, fl) := f (fpcRm s.me.fpc) (vs.map TCap.data)
    let t := s.modMe fun c => { c with fpc := fpcRaise c.fpc fl }
    match fpTrap s.me.fpc fl with
    | some k => .trapWith t (0x140 + k) 0
    | none => .done (t.putData d r)

/-- The n low bits of the k-th source, n the width of the format; the result is zero-extended (R75). -/
def fpArith (i : Instr) (d : Reg) (cs : List Reg) (f : FpFmt) (o : FpOp) (s : State) :
    Host.Outcome State Fault Refusal :=
  fpWord i d cs s fun rm v =>
    let n := (fpFmtOf f).bits
    let x := fun k => (v.getD k 0).toNat % 2 ^ n
    let (r, fl) := (fpFmtOf f).apply rm o (x 0) (x 1) (x 2)
    (zext64 n r, fl)

/-- An integer source as a value (R358). -/
def intSource (n : Nat) (isSigned : Bool) (x : Nat) : FNum :=
  ofInteger (if isSigned then signedOf n x else (x % 2 ^ n : Nat))

/-- The other floating-point format (R358). -/
def otherFmt : FpFmt → FpFmt
  | .fp32 => .fp64
  | .fp64 => .fp32

/-- FCVT (R358, R359): code, format F and source to the 64-bit result and the flags. -/
def fcvt (rm : Rm) (c : FcvtCode) (f : FpFmt) (x : Nat) : Word × FFlags :=
  let F := (fpFmtOf f)
  let v := F.decode (x % 2 ^ F.bits)
  let fp := fun (n : Nat) (r : Nat × FFlags) => (zext64 n r.1, r.2)
  match c with
  | .fOfOther => fp F.bits (F.encode rm ((fpFmtOf (otherFmt f)).decode (x % 2 ^ (fpFmtOf (otherFmt f)).bits)))
  | .fOfI64 => fp F.bits (F.encode rm (intSource 64 true x))
  | .fOfN64 => fp F.bits (F.encode rm (intSource 64 false x))
  | .fOfI32 => fp F.bits (F.encode rm (intSource 32 true x))
  | .fOfN32 => fp F.bits (F.encode rm (intSource 32 false x))
  | .i64OfF => fp 64 (toInteger rm 64 true v)
  | .n64OfF => fp 64 (toInteger rm 64 false v)
  | .i32OfF => let r := toInteger rm 32 true v; (sext64 32 r.1, r.2)
  | .n32OfF => fp 32 (toInteger rm 32 false v)
  | .i64tOfF => fp 64 (toInteger .rtz 64 true v)
  | .i32tOfF => let r := toInteger .rtz 32 true v; (sext64 32 r.1, r.2)
  | .bf16OfF => fp 16 (fmtBf.encode rm v)
  | .fOfBf16 => fp F.bits (F.encode rm (fmtBf.decode (x % 2 ^ 16)))
  | .e4m3OfF => fp 8 (encode43 v)
  | .fOfE4m3 => fp F.bits (F.encode rm (decode43 (x % 2 ^ 8)))

def execFadd (d a b : Reg) (f : FpFmt) (s : State) : Host.Outcome State Fault Refusal :=
  fpArith (.fadd d a b f) d [a, b] f .add s
def execFsub (d a b : Reg) (f : FpFmt) (s : State) : Host.Outcome State Fault Refusal :=
  fpArith (.fsub d a b f) d [a, b] f .sub s
def execFmul (d a b : Reg) (f : FpFmt) (s : State) : Host.Outcome State Fault Refusal :=
  fpArith (.fmul d a b f) d [a, b] f .mul s
def execFdiv (d a b : Reg) (f : FpFmt) (s : State) : Host.Outcome State Fault Refusal :=
  fpArith (.fdiv d a b f) d [a, b] f .div s
def execFsqrt (d a : Reg) (f : FpFmt) (s : State) : Host.Outcome State Fault Refusal :=
  fpArith (.fsqrt d a f) d [a] f .sqrt s
def execFmin (d a b : Reg) (f : FpFmt) (s : State) : Host.Outcome State Fault Refusal :=
  fpArith (.fmin d a b f) d [a, b] f .min s
def execFmax (d a b : Reg) (f : FpFmt) (s : State) : Host.Outcome State Fault Refusal :=
  fpArith (.fmax d a b f) d [a, b] f .max s
def execFfma (d a b : Reg) (f : FpFmt) (s : State) : Host.Outcome State Fault Refusal :=
  fpArith (.ffma d a b f) d [a, b, d] f .fma s

/-- FCMP (R357). -/
def execFcmp (d a b : Reg) (f : FpFmt) (c : FcmpOp) (s : State) : Host.Outcome State Fault Refusal :=
  fpWord (.fcmp d a b f c) d [a, b] s fun _ v =>
    let x := fun k => (fpFmtOf f).decode ((v.getD k 0).toNat % 2 ^ (fpFmtOf f).bits)
    let (r, fl) := fcmpX c (x 0) (x 1)
    (if r then 1 else 0, fl)

/-- FCVT (R358). -/
def execFcvt (d a : Reg) (c : FcvtCode) (f : FpFmt) (s : State) : Host.Outcome State Fault Refusal :=
  fpWord (.fcvt d a c f) d [a] s fun rm v => fcvt rm c f (v.getD 0 0).toNat

end Sys2Proof.Machine
end

