-- ==== Sys2Proof/Machine/VecFp.lean ====
section
/-! DEFINITION. Vector floating point and conversion (R405 to R409): every governed element is computed, the flags are
joined, and an enabled one traps with the lowest element that raised it, before anything is written. -/

namespace Sys2Proof.Machine

/-- The end of a vector floating-point word: FPC, the trap of R128, or `next`. -/
def fpFinish (s : State) (fs : List (Nat × FFlags)) (next : State → State) : WordRes :=
  let fl := fs.foldl (fun f (_, g) => f.or g) ({} : FFlags)
  let t := s.modMe fun c => { c with fpc := fpcRaise c.fpc fl }
  match fpTrap s.me.fpc fl with
  | some k => .trapWith t (0x140 + k) (BitVec.ofNat 64 (firstRaiser k fs))
  | none => .done (next t)

/-- The governed results of an element-wise word with their element numbers. -/
def governedFlags (m : Word) (rs : List (Nat × FFlags)) : List (Nat × FFlags) :=
  (rs.zipIdx.filter fun (_, i) => m.getLsbD i).map fun ((_, f), i) => (i, f)

/-- An element-wise floating-point word (R407). -/
def vecFp (i : Instr) (v : VReg) (vs : List VReg) (m : MReg) (f : VfFmt) (o : FpOp) (s : State) :
    Host.Outcome State Fault Refusal :=
  runWord i { vs := vs, ms := [m], dv := some v } s fun s _ =>
    let n := (vfFmtOf f).bits
    let el := fun k => elems n (s.me.vreg (vs.getD k 0)).val
    let rm := fpcRm s.me.fpc
    let rs := (List.range (512 / n)).map fun j =>
      (vfFmtOf f).apply rm o ((el 0).getD j 0) ((el 1).getD j 0) ((el 2).getD j 0)
    fpFinish s (governedFlags (s.me.mask m) rs) fun t =>
      t.modMe fun c => c.mergeV v n (c.mask m) (rs.map (·.1))

def execVfadd (v a b : VReg) (m : MReg) (f : VfFmt) (s : State) : Host.Outcome State Fault Refusal :=
  vecFp (.vfadd v a b m f) v [a, b] m f .add s
def execVfsub (v a b : VReg) (m : MReg) (f : VfFmt) (s : State) : Host.Outcome State Fault Refusal :=
  vecFp (.vfsub v a b m f) v [a, b] m f .sub s
def execVfmul (v a b : VReg) (m : MReg) (f : VfFmt) (s : State) : Host.Outcome State Fault Refusal :=
  vecFp (.vfmul v a b m f) v [a, b] m f .mul s
/-- VFMA reads vd as the addend (R407). -/
def execVfma (v a b : VReg) (m : MReg) (f : VfFmt) (s : State) : Host.Outcome State Fault Refusal :=
  vecFp (.vfma v a b m f) v [a, b, v] m f .fma s
def execVfmin (v a b : VReg) (m : MReg) (f : VfFmt) (s : State) : Host.Outcome State Fault Refusal :=
  vecFp (.vfmin v a b m f) v [a, b] m f .min s
def execVfmax (v a b : VReg) (m : MReg) (f : VfFmt) (s : State) : Host.Outcome State Fault Refusal :=
  vecFp (.vfmax v a b m f) v [a, b] m f .max s
def execVfdiv (v a b : VReg) (m : MReg) (f : VfFmt) (s : State) : Host.Outcome State Fault Refusal :=
  vecFp (.vfdiv v a b m f) v [a, b] m f .div s
def execVfsqrt (v a : VReg) (m : MReg) (f : VfFmt) (s : State) : Host.Outcome State Fault Refusal :=
  vecFp (.vfsqrt v a m f) v [a] m f .sqrt s

/-- VFCMP (R409). -/
def execVfcmp (d : MReg) (a b : VReg) (m : MReg) (f : VfFmt) (c : FcmpOp) (s : State) :
    Host.Outcome State Fault Refusal :=
  runWord (.vfcmp d a b m f c) { vs := [a, b], ms := [m, d] } s fun s _ =>
    let n := (vfFmtOf f).bits
    let rs := ((elems n (s.me.vreg a).val).zip (elems n (s.me.vreg b).val)).map
      fun (x, y) => fcmpX c ((vfFmtOf f).decode x) ((vfFmtOf f).decode y)
    fpFinish s (governedFlags (s.me.mask m) (rs.map fun (r, fl) => (r.toNat, fl))) fun t =>
      t.modMe fun k => k.setM d (cmpMask (512 / n) (k.mask d) (k.mask m) (rs.map (·.1)))

/-! ### VCVT (R405, R406) -/

/-- The source and destination widths of a conversion (R405). -/
def vcvtWidths : VcvtCode → Nat × Nat
  | .f32OfBf16 => (16, 32)
  | .bf16OfF32 => (32, 16)
  | .f64OfF32 => (32, 64)
  | .f32OfF64 => (64, 32)
  | .e4m3OfF32 => (32, 8)
  | .f32OfE4m3 => (8, 32)
  | .e4m3OfBf16 => (16, 8)
  | .bf16OfE4m3 => (8, 16)
  | .f32OfI32 | .f32OfN32 | .i32OfF32 | .n32OfF32 | .i32tOfF32 => (32, 32)
  | .f64OfI64 | .i64OfF64 | .i64tOfF64 => (64, 64)
  | .i32OfI8 => (8, 32)
  | .i32OfI16 => (16, 32)
  | .i8OfI32 => (32, 8)
  | .i16OfI32 => (32, 16)

/-- A signed value saturated to n bits (R405). -/
def saturate (n : Nat) (z : Int) : Nat :=
  wrapInt n (max (-(2 ^ (n - 1) : Nat)) (min ((2 ^ (n - 1) : Nat) - 1) z))

/-- The conversion of one element (R405, R359, R253). -/
def vcvtElem (rm : Rm) (c : VcvtCode) (x : Nat) : Nat × FFlags :=
  match c with
  | .f32OfBf16 => fmt32.encode rm (fmtBf.decode x)
  | .bf16OfF32 => fmtBf.encode rm (fmt32.decode x)
  | .f64OfF32 => fmt64.encode rm (fmt32.decode x)
  | .f32OfF64 => fmt32.encode rm (fmt64.decode x)
  | .e4m3OfF32 => encode43 (fmt32.decode x)
  | .f32OfE4m3 => fmt32.encode rm (decode43 x)
  | .e4m3OfBf16 => encode43 (fmtBf.decode x)
  | .bf16OfE4m3 => fmtBf.encode rm (decode43 x)
  | .f32OfI32 => fmt32.encode rm (intSource 32 true x)
  | .f32OfN32 => fmt32.encode rm (intSource 32 false x)
  | .i32OfF32 => toInteger rm 32 true (fmt32.decode x)
  | .n32OfF32 => toInteger rm 32 false (fmt32.decode x)
  | .i32tOfF32 => toInteger .rtz 32 true (fmt32.decode x)
  | .f64OfI64 => fmt64.encode rm (intSource 64 true x)
  | .i64OfF64 => toInteger rm 64 true (fmt64.decode x)
  | .i64tOfF64 => toInteger .rtz 64 true (fmt64.decode x)
  | .i32OfI8 => (wrapInt 32 (signedOf 8 x), {})
  | .i32OfI16 => (wrapInt 32 (signedOf 16 x), {})
  | .i8OfI32 => (saturate 8 (signedOf 32 x), {})
  | .i16OfI32 => (saturate 16 (signedOf 32 x), {})

/-- The element numbers (source, destination) of a slice (R406). -/
def vcvtPairs (c : VcvtCode) (p : Nat) : List (Nat × Nat) :=
  let (ws, wd) := vcvtWidths c
  let n := 512 / max ws wd
  (List.range n).map fun i => if wd ≤ ws then (i, p * n + i) else (p * n + i, i)

/-- VCVT (R406). The mask governs destination elements; the others keep their values. -/
def execVcvt (v a : VReg) (c : VcvtCode) (m : MReg) (p : BitVec 2) (s : State) : Host.Outcome State Fault Refusal :=
  runWord (.vcvt v a c m p) { vs := [a], ms := [m], dv := some v } s fun s _ =>
    let (ws, wd) := vcvtWidths c
    let g := s.me.mask m
    let rs := ((vcvtPairs c p.toNat).filter fun (_, j) => g.getLsbD j).map fun (k, j) =>
      (j, vcvtElem (fpcRm s.me.fpc) c ((elems ws (s.me.vreg a).val).getD k 0))
    let written : Word := BitVec.ofNat 64 (rs.foldl (fun n (j, _) => n + 2 ^ j) 0)
    fpFinish s (rs.map fun (j, _, f) => (j, f)) fun t =>
      t.modMe fun k => k.mergeV v wd written
        (rs.foldl (fun l (j, r, _) => modAt l j fun _ => r) (elems wd (k.vreg v).val))

end Sys2Proof.Machine
end

