-- ==== Sys2Proof/Machine/Dispatch.lean ====
section
/-! DEFINITION. The one match over the instructions: one arm per constructor, each a direct call of its meaning. -/

namespace Sys2Proof.Machine

/-- What an instruction does in a state. -/
def exec (i : Instr) (s : State) : Host.Outcome State Fault Refusal :=
  match i with
  | .add d a b w => Sys2Proof.Machine.execAdd d a b w s
  | .sub d a b w => Sys2Proof.Machine.execSub d a b w s
  | .and_ d a b w => Sys2Proof.Machine.execAnd d a b w s
  | .or_ d a b w => Sys2Proof.Machine.execOr d a b w s
  | .xor_ d a b w => Sys2Proof.Machine.execXor d a b w s
  | .shl d a b w => Sys2Proof.Machine.execShl d a b w s
  | .shr d a b w => Sys2Proof.Machine.execShr d a b w s
  | .sra d a b w => Sys2Proof.Machine.execSra d a b w s
  | .mul d a b w => Sys2Proof.Machine.execMul d a b w s
  | .mulh d a b w => Sys2Proof.Machine.execMulh d a b w s
  | .mulhu d a b w => Sys2Proof.Machine.execMulhu d a b w s
  | .div d a b w => Sys2Proof.Machine.execDiv d a b w s
  | .divu d a b w => Sys2Proof.Machine.execDivu d a b w s
  | .rem d a b w => Sys2Proof.Machine.execRem d a b w s
  | .remu d a b w => Sys2Proof.Machine.execRemu d a b w s
  | .min d a b w => Sys2Proof.Machine.execMin d a b w s
  | .max d a b w => Sys2Proof.Machine.execMax d a b w s
  | .minu d a b w => Sys2Proof.Machine.execMinu d a b w s
  | .maxu d a b w => Sys2Proof.Machine.execMaxu d a b w s
  | .clz d a w => Sys2Proof.Machine.execClz d a w s
  | .popc d a w => Sys2Proof.Machine.execPopc d a w s
  | .sel d a b => Sys2Proof.Machine.execSel d a b s
  | .sext d a c => Sys2Proof.Machine.execSext d a c s
  | .zext d a c => Sys2Proof.Machine.execZext d a c s
  | .cmp d a b w c => Sys2Proof.Machine.execCmp d a b w c s
  | .addi d a i_ => Sys2Proof.Machine.execAddi d a i_ s
  | .andi d a i_ => Sys2Proof.Machine.execAndi d a i_ s
  | .ori d a i_ => Sys2Proof.Machine.execOri d a i_ s
  | .xori d a i_ => Sys2Proof.Machine.execXori d a i_ s
  | .shli d a k => Sys2Proof.Machine.execShli d a k s
  | .shri d a k => Sys2Proof.Machine.execShri d a k s
  | .srai d a k => Sys2Proof.Machine.execSrai d a k s
  | .cmpi d a c i_ => Sys2Proof.Machine.execCmpi d a c i_ s
  | .movi d i_ => Sys2Proof.Machine.execMovi d i_ s
  | .bfxU d a p l => Sys2Proof.Machine.execBfxU d a p l s
  | .bfxS d a p l => Sys2Proof.Machine.execBfxS d a p l s
  | .bfi d a p l => Sys2Proof.Machine.execBfi d a p l s
  | .cbnd d a b => Sys2Proof.Machine.execCbnd d a b s
  | .cperm d a b => Sys2Proof.Machine.execCperm d a b s
  | .cinc d a b => Sys2Proof.Machine.execCinc d a b s
  | .cget d a s_ => Sys2Proof.Machine.execCget d a s_ s
  | .ctest d a b => Sys2Proof.Machine.execCtest d a b s
  | .cseta d a b => Sys2Proof.Machine.execCseta d a b s
  | .cinci d a i_ => Sys2Proof.Machine.execCinci d a i_ s
  | .ld d a w o => Sys2Proof.Machine.execLd d a w o s
  | .st s_ a w o => Sys2Proof.Machine.execSt s_ a w o s
  | .vld v a m o => Sys2Proof.Machine.execVld v a m o s
  | .vst v a m o => Sys2Proof.Machine.execVst v a m o s
  | .vlds d a b w m => Sys2Proof.Machine.execVlds d a b w m s
  | .vsts d a b w m => Sys2Proof.Machine.execVsts d a b w m s
  | .vgath d a b w m => Sys2Proof.Machine.execVgath d a b w m s
  | .vscat d a b w m => Sys2Proof.Machine.execVscat d a b w m s
  | .amo d a b o w p => Sys2Proof.Machine.execAmo d a b o w p s
  | .amoNoReturn a b o w p => Sys2Proof.Machine.execAmoNoReturn a b o w p s
  | .cas d a b o w => Sys2Proof.Machine.execCas d a b o w s
  | .fence s_ c o => Sys2Proof.Machine.execFence s_ c o s
  | .pref a b => Sys2Proof.Machine.execPref a b s
  | .wbr a b => Sys2Proof.Machine.execWbr a b s
  | .invr a b => Sys2Proof.Machine.execInvr a b s
  | .wbri a b => Sys2Proof.Machine.execWbri a b s
  | .ljoin a b r => Sys2Proof.Machine.execLjoin a b r s
  | .lwait d a b q => Sys2Proof.Machine.execLwait d a b q s
  | .fadd d a b f => Sys2Proof.Machine.execFadd d a b f s
  | .fsub d a b f => Sys2Proof.Machine.execFsub d a b f s
  | .fmul d a b f => Sys2Proof.Machine.execFmul d a b f s
  | .fdiv d a b f => Sys2Proof.Machine.execFdiv d a b f s
  | .fsqrt d a f => Sys2Proof.Machine.execFsqrt d a f s
  | .fmin d a b f => Sys2Proof.Machine.execFmin d a b f s
  | .fmax d a b f => Sys2Proof.Machine.execFmax d a b f s
  | .ffma d a b f => Sys2Proof.Machine.execFfma d a b f s
  | .fcmp d a b f c => Sys2Proof.Machine.execFcmp d a b f c s
  | .fcvt d a c f => Sys2Proof.Machine.execFcvt d a c f s
  | .vadd v a b m w => Sys2Proof.Machine.execVadd v a b m w s
  | .vsub v a b m w => Sys2Proof.Machine.execVsub v a b m w s
  | .vmul v a b m w => Sys2Proof.Machine.execVmul v a b m w s
  | .vmin v a b m w => Sys2Proof.Machine.execVmin v a b m w s
  | .vmax v a b m w => Sys2Proof.Machine.execVmax v a b m w s
  | .vminu v a b m w => Sys2Proof.Machine.execVminu v a b m w s
  | .vmaxu v a b m w => Sys2Proof.Machine.execVmaxu v a b m w s
  | .vand v a b m w => Sys2Proof.Machine.execVand v a b m w s
  | .vor v a b m w => Sys2Proof.Machine.execVor v a b m w s
  | .vxor v a b m w => Sys2Proof.Machine.execVxor v a b m w s
  | .vshl v a b m w => Sys2Proof.Machine.execVshl v a b m w s
  | .vshr v a b m w => Sys2Proof.Machine.execVshr v a b m w s
  | .vsra v a b m w => Sys2Proof.Machine.execVsra v a b m w s
  | .vcmp d a b m w c => Sys2Proof.Machine.execVcmp d a b m w c s
  | .vfadd v a b m f => Sys2Proof.Machine.execVfadd v a b m f s
  | .vfsub v a b m f => Sys2Proof.Machine.execVfsub v a b m f s
  | .vfmul v a b m f => Sys2Proof.Machine.execVfmul v a b m f s
  | .vfma v a b m f => Sys2Proof.Machine.execVfma v a b m f s
  | .vfmin v a b m f => Sys2Proof.Machine.execVfmin v a b m f s
  | .vfmax v a b m f => Sys2Proof.Machine.execVfmax v a b m f s
  | .vfdiv v a b m f => Sys2Proof.Machine.execVfdiv v a b m f s
  | .vfsqrt v a m f => Sys2Proof.Machine.execVfsqrt v a m f s
  | .vfcmp d a b m f c => Sys2Proof.Machine.execVfcmp d a b m f c s
  | .vbcast d a w => Sys2Proof.Machine.execVbcast d a w s
  | .vins d a b w => Sys2Proof.Machine.execVins d a b w s
  | .vext d a b w => Sys2Proof.Machine.execVext d a b w s
  | .vred d a o w => Sys2Proof.Machine.execVred d a o w s
  | .mtoc d a w => Sys2Proof.Machine.execMtoc d a w s
  | .ctom d a w => Sys2Proof.Machine.execCtom d a w s
  | .mcnt d a w => Sys2Proof.Machine.execMcnt d a w s
  | .vsel v a b m w => Sys2Proof.Machine.execVsel v a b m w s
  | .vperm v a b m w => Sys2Proof.Machine.execVperm v a b m w s
  | .viota v m w => Sys2Proof.Machine.execViota v m w s
  | .vcvt v a c m p => Sys2Proof.Machine.execVcvt v a c m p s
  | .vmov v a m w => Sys2Proof.Machine.execVmov v a m w s
  | .mop d a b o => Sys2Proof.Machine.execMop d a b o s
  | .b d => Sys2Proof.Machine.execB d s
  | .bc c a b d => Sys2Proof.Machine.execBc c a b d s
  | .bm c a b d => Sys2Proof.Machine.execBm c a b d s
  | .call d => Sys2Proof.Machine.execCall d s
  | .jr a => Sys2Proof.Machine.execJr a s
  | .callr a => Sys2Proof.Machine.execCallr a s
  | .ret => Sys2Proof.Machine.execRet s
  | .end_ => Sys2Proof.Machine.execEnd s
  | .send d a t n => Sys2Proof.Machine.execSend d a t n s
  | .rput d a t i_ => Sys2Proof.Machine.execRput d a t i_ s
  | .pclr i_ => Sys2Proof.Machine.execPclr i_ s
  | .tagctlEn k => Sys2Proof.Machine.execTagctlEn k s
  | .tagctlDis k => Sys2Proof.Machine.execTagctlDis k s
  | .tagctlPrio a k => Sys2Proof.Machine.execTagctlPrio a k s
  | .tagctlAddr a k => Sys2Proof.Machine.execTagctlAddr a k s
  | .tagctlMode a k => Sys2Proof.Machine.execTagctlMode a k s
  | .tagctlGate g a k => Sys2Proof.Machine.execTagctlGate g a k s
  | .tagctlCap g a k => Sys2Proof.Machine.execTagctlCap g a k s
  | .tagctlStat d k => Sys2Proof.Machine.execTagctlStat d k s
  | .sbind s_ a b => Sys2Proof.Machine.execSbind s_ a b s
  | .sunbind s_ => Sys2Proof.Machine.execSunbind s_ s
  | .sstat d s_ => Sys2Proof.Machine.execSstat d s_ s
  | .siph d a b h => Sys2Proof.Machine.execSiph d a b h s
  | .sgath d a b h => Sys2Proof.Machine.execSgath d a b h s
  | .scfg a h => Sys2Proof.Machine.execScfg a h s
  | .swmr d s_ h => Sys2Proof.Machine.execSwmr d s_ h s
  | .barm a b => Sys2Proof.Machine.execBarm a b s
  | .barb a b => Sys2Proof.Machine.execBarb a b s
  | .barr d a => Sys2Proof.Machine.execBarr d a s
  | .bwait d a b => Sys2Proof.Machine.execBwait d a b s
  | .tdset t a => Sys2Proof.Machine.execTdset t a s
  | .tdget d t => Sys2Proof.Machine.execTdget d t s
  | .tdgetSt d t => Sys2Proof.Machine.execTdgetSt d t s
  | .tdgetAcc d t => Sys2Proof.Machine.execTdgetAcc d t s
  | .mma c a b i_ => Sys2Proof.Machine.execMma c a b i_ s
  | .macz c k => Sys2Proof.Machine.execMacz c k s
  | .macst c a b k => Sys2Proof.Machine.execMacst c a b k s
  | .locqWhere d a => Sys2Proof.Machine.execLocqWhere d a s
  | .locqEpoch d => Sys2Proof.Machine.execLocqEpoch d s
  | .locqHops d a => Sys2Proof.Machine.execLocqHops d a s
  | .scpset a i_ => Sys2Proof.Machine.execScpset a i_ s
  | .scpget d i_ => Sys2Proof.Machine.execScpget d i_ s
  | .sysr d n => Sys2Proof.Machine.execSysr d n s
  | .sysw a n => Sys2Proof.Machine.execSysw a n s
  | .syswRttw a => Sys2Proof.Machine.execSyswRttw a s
  | .syswTwin a => Sys2Proof.Machine.execSyswTwin a s
  | .syswScpbase a => Sys2Proof.Machine.execSyswScpbase a s
  | .trap c => Sys2Proof.Machine.execTrap c s
  | .eret => Sys2Proof.Machine.execEret s
  | .rtinv a => Sys2Proof.Machine.execRtinv a s
  | .idle a => Sys2Proof.Machine.execIdle a s
  | .halt => Sys2Proof.Machine.execHalt s
  | .hintImm p => Sys2Proof.Machine.execHintImm p s
  | .hintScope s_ => Sys2Proof.Machine.execHintScope s_ s
  | .hintYield n => Sys2Proof.Machine.execHintYield n s
  | .hintCache p => Sys2Proof.Machine.execHintCache p s
  | .hintDisp p => Sys2Proof.Machine.execHintDisp p s
  | .hintPrio => Sys2Proof.Machine.execHintPrio s
  | .hintNop => Sys2Proof.Machine.execHintNop s
  | .illegalInstruction w => Sys2Proof.Machine.execIllegalInstruction w s
  | .haltedCarrelRelease core carrel => Sys2Proof.Machine.execHaltedCarrelRelease core carrel s
  | .messageArrival cluster idx => Sys2Proof.Machine.execMessageArrival cluster idx s
  | .rputArrival cluster idx => Sys2Proof.Machine.execRputArrival cluster idx s
  | .dispatch core => Sys2Proof.Machine.execDispatch core s
  | .eprioAging core tag => Sys2Proof.Machine.execEprioAging core tag s
  | .yieldPeriodExpiry core carrel => Sys2Proof.Machine.execYieldPeriodExpiry core carrel s
  | .outboxHandoff core carrel => Sys2Proof.Machine.execOutboxHandoff core carrel s
  | .commitEntryPerform core idx => Sys2Proof.Machine.execCommitEntryPerform core idx s
  | .messageInject core idx => Sys2Proof.Machine.execMessageInject core idx s
  | .streamAck cluster idx => Sys2Proof.Machine.execStreamAck cluster idx s
  | .loadComplete core carrel idx => Sys2Proof.Machine.execLoadComplete core carrel idx s
  | .waitResume core carrel => Sys2Proof.Machine.execWaitResume core carrel s
  | .fillDataReturn core idx count => Sys2Proof.Machine.execFillDataReturn core idx count s
  | .softErrorDetected target => Sys2Proof.Machine.execSoftErrorDetected target s
  | .correctedError cluster phys user => Sys2Proof.Machine.execCorrectedError cluster phys user s
  | .healthLeak cluster phys => Sys2Proof.Machine.execHealthLeak cluster phys s
  | .healthRqWrite cluster phys => Sys2Proof.Machine.execHealthRqWrite cluster phys s
  | .evacLimitExpiry cluster => Sys2Proof.Machine.execEvacLimitExpiry cluster s
  | .reshelveCopy cluster => Sys2Proof.Machine.execReshelveCopy cluster s
  | .reshelveMapRelease cluster => Sys2Proof.Machine.execReshelveMapRelease cluster s
  | .coreFailure cluster phys => Sys2Proof.Machine.execCoreFailure cluster phys s
  | .catalogueGets die idx => Sys2Proof.Machine.execCatalogueGets die idx s
  | .catalogueGeto die idx => Sys2Proof.Machine.execCatalogueGeto die idx s
  | .catalogueUncr die idx => Sys2Proof.Machine.execCatalogueUncr die idx s
  | .catalogueUncw die idx => Sys2Proof.Machine.execCatalogueUncw die idx s
  | .catalogueEvn die idx => Sys2Proof.Machine.execCatalogueEvn die idx s
  | .catalogueEack cluster idx => Sys2Proof.Machine.execCatalogueEack cluster idx s
  | .catalogueInv cluster idx => Sys2Proof.Machine.execCatalogueInv cluster idx s
  | .catalogueIack die idx => Sys2Proof.Machine.execCatalogueIack die idx s
  | .catalogueFetch cluster idx => Sys2Proof.Machine.execCatalogueFetch cluster idx s
  | .catalogueFack die idx => Sys2Proof.Machine.execCatalogueFack die idx s
  | .catalogueDisc cluster idx => Sys2Proof.Machine.execCatalogueDisc cluster idx s
  | .catalogueDack die idx => Sys2Proof.Machine.execCatalogueDack die idx s
  | .catalogueData cluster idx => Sys2Proof.Machine.execCatalogueData cluster idx s
  | .catalogueGrant cluster idx => Sys2Proof.Machine.execCatalogueGrant cluster idx s
  | .catalogueReplacement die => Sys2Proof.Machine.execCatalogueReplacement die s
  | .tractMerge die base => Sys2Proof.Machine.execTractMerge die base s
  | .space2AccessArrival cluster idx => Sys2Proof.Machine.execSpace2AccessArrival cluster idx s
  | .peerRequestArrival req => Sys2Proof.Machine.execPeerRequestArrival req s
  | .remoteResponse id resp => Sys2Proof.Machine.execRemoteResponse id resp s
  | .fablimTimeout id => Sys2Proof.Machine.execFablimTimeout id s
  | .flitRoute cluster => Sys2Proof.Machine.execFlitRoute cluster s
  | .linkFlitReceive port flit msgs => Sys2Proof.Machine.execLinkFlitReceive port flit msgs s
  | .linkReplay port => Sys2Proof.Machine.execLinkReplay port s
  | .portDown port => Sys2Proof.Machine.execPortDown port s
  | .siphAccept core idx => Sys2Proof.Machine.execSiphAccept core idx s
  | .siphElementWrite core ch => Sys2Proof.Machine.execSiphElementWrite core ch s
  | .siphDone core ch => Sys2Proof.Machine.execSiphDone core ch s
  | .siphFault core ch => Sys2Proof.Machine.execSiphFault core ch s
  | .sgathAccept core idx => Sys2Proof.Machine.execSgathAccept core idx s
  | .scfgApply core idx => Sys2Proof.Machine.execScfgApply core idx s
  | .streamFetch core carrel reg => Sys2Proof.Machine.execStreamFetch core carrel reg s
  | .streamConvert core carrel reg => Sys2Proof.Machine.execStreamConvert core carrel reg s
  | .barmApply core idx => Sys2Proof.Machine.execBarmApply core idx s
  | .barbApply core idx => Sys2Proof.Machine.execBarbApply core idx s
  | .barrUpdate core carrel => Sys2Proof.Machine.execBarrUpdate core carrel s
  | .bwaitTimeout core carrel => Sys2Proof.Machine.execBwaitTimeout core carrel s
  | .lwaitTimeout core carrel => Sys2Proof.Machine.execLwaitTimeout core carrel s
  | .idleTimeout core carrel => Sys2Proof.Machine.execIdleTimeout core carrel s
  | .cisternMerge core idx => Sys2Proof.Machine.execCisternMerge core idx s
  | .replicaPush cluster idx => Sys2Proof.Machine.execReplicaPush cluster idx s
  | .pumpRoundStart part range => Sys2Proof.Machine.execPumpRoundStart part range s
  | .pumpBlockReceive idx => Sys2Proof.Machine.execPumpBlockReceive idx s
  | .pumpBlockAck idx => Sys2Proof.Machine.execPumpBlockAck idx s
  | .engineQueueEntry core idx => Sys2Proof.Machine.execEngineQueueEntry core idx s
  | .engineCommandStart cluster => Sys2Proof.Machine.execEngineCommandStart cluster s
  | .engineCommandComplete cluster => Sys2Proof.Machine.execEngineCommandComplete cluster s
  | .macstWrite cluster => Sys2Proof.Machine.execMacstWrite cluster s
  | .migration cluster idx => Sys2Proof.Machine.execMigration cluster idx s
  | .migratedMmaStart cluster => Sys2Proof.Machine.execMigratedMmaStart cluster s
  | .migrationReturn cluster => Sys2Proof.Machine.execMigrationReturn cluster s
  | .pairCompare core carrel => Sys2Proof.Machine.execPairCompare core carrel s
  | .twinSyncWord core carrel => Sys2Proof.Machine.execTwinSyncWord core carrel s
  | .graphLoad w host => Sys2Proof.Machine.execGraphLoad w host s
  | .graphUnload w host => Sys2Proof.Machine.execGraphUnload w host s
  | .nodeRelease w host => Sys2Proof.Machine.execNodeRelease w host s
  | .nodeCancel w host => Sys2Proof.Machine.execNodeCancel w host s
  | .hcmdInvalid w host => Sys2Proof.Machine.execHcmdInvalid w host s
  | .hcmdPartialWrite off w => Sys2Proof.Machine.execHcmdPartialWrite off w s
  | .triggerWrite q size w => Sys2Proof.Machine.execTriggerWrite q size w s
  | .instanceStart q => Sys2Proof.Machine.execInstanceStart q s
  | .kernelReserve inst node => Sys2Proof.Machine.execKernelReserve inst node s
  | .launchFinish idx => Sys2Proof.Machine.execLaunchFinish idx s
  | .siphNodeStart inst node => Sys2Proof.Machine.execSiphNodeStart inst node s
  | .barrierNodeStart inst node => Sys2Proof.Machine.execBarrierNodeStart inst node s
  | .notifyHostNodeStart inst node => Sys2Proof.Machine.execNotifyHostNodeStart inst node s
  | .notifyHostReadback inst node ok => Sys2Proof.Machine.execNotifyHostReadback inst node ok s
  | .partitionSwitchOut ctx => Sys2Proof.Machine.execPartitionSwitchOut ctx s
  | .partitionDrainDone ctx => Sys2Proof.Machine.execPartitionDrainDone ctx s
  | .partitionSwitchIn ctx colour => Sys2Proof.Machine.execPartitionSwitchIn ctx colour s
  | .moduleReset boot => Sys2Proof.Machine.execModuleReset boot s
  | .bootStageAdvance => Sys2Proof.Machine.execBootStageAdvance s
  | .bar2Read off count => Sys2Proof.Machine.execBar2Read off count s
  | .bar2Write off data => Sys2Proof.Machine.execBar2Write off data s
  | .w2baseWrite w => Sys2Proof.Machine.execW2baseWrite w s
  | .bar0InvalidAccess off size write => Sys2Proof.Machine.execBar0InvalidAccess off size write s
  | .registerWrite r w => Sys2Proof.Machine.execRegisterWrite r w s
  | .timeTick => Sys2Proof.Machine.execTimeTick s
  | .messageRetry core idx => Sys2Proof.Machine.execMessageRetry core idx s
  | .shelfMapWrite cluster w => Sys2Proof.Machine.execShelfMapWrite cluster w s
  | .contextCreation init => Sys2Proof.Machine.execContextCreation init s
  | .cisternRangeCreation init => Sys2Proof.Machine.execCisternRangeCreation init s
  | .engineAllotment cluster ctx tlb tln alb aln => Sys2Proof.Machine.execEngineAllotment cluster ctx tlb tln alb aln s
  | .activationRemoval core carrel => Sys2Proof.Machine.execActivationRemoval core carrel s

end Sys2Proof.Machine
end

