-- ==== Sys2Proof/Machine/Slots.lean ====
section
/-! DEFINITION. One word of one carrel from its fetch to its effect, and the choice that an issue slot makes (R243 to
R245). -/

namespace Sys2Proof.Machine

/-- The words of the divider (R247). -/
def Instr.divides : Instr → Bool
  | .div .. | .divu .. | .rem .. | .remu .. | .fdiv .. | .fsqrt .. | .vfdiv .. | .vfsqrt .. => true
  | _ => false

/-- The executing carrel consumes the error of one of its entries (R278), once every earlier load is over (R122). -/
def payMe (s : State) : State :=
  if s.me.settled then consumeError (s.modMe fun c => { c with owes := false }) s.cur.1 s.cur.2 0 else s

/-- The executing carrel fetches its next word and executes it. An error that it has still to consume comes first (R278). A gap after a transfer and the occupied divider hold it back (R243,
R247). A fetch that fails is a trap of the group (R363). -/
def issueHere (s : State) : Host.Outcome State Fault Refusal :=
  if !s.me.issues || !s.myCore.live || s.me.gap ≠ 0 then .next s else
  if s.me.owes then .next (payMe s) else
  match fetch s with
  | .word i t => if Instr.divides i && t.myCore.divBusy ≠ 0 then .next s else exec i t
  | .trap c v t => raise t (trapMe t c v)
  | .fault f => .fault f

/-- A carrel of a core issues its next word. -/
def issueAt (s : State) (core carrel : Nat) : Host.Outcome State Fault Refusal := issueHere { s with cur := (core, carrel) }

/-- The next word of a carrel, if it can be fetched. -/
def nextWord (s : State) (core carrel : Nat) : Option Instr :=
  match fetch { s with cur := (core, carrel) } with
  | .word i _ => some i
  | _ => none

/-- A carrel is a candidate (R243): its word would issue now. One that stalls would leave its carrel as it is. -/
def candidate (s : State) (core i : Nat) : Bool :=
  let c := s.carrel core i
  c.issues && (c.born < s.cycle || c.born = 0) &&
  match issueAt s core i with
  | .next t => t.carrel core i != c
  | _ => true

/-- Slot B takes the vector arithmetic groups only (R76, R244). -/
def Instr.slotB : Instr → Bool
  | .vadd .. | .vsub .. | .vmul .. | .vmin .. | .vmax .. | .vminu .. | .vmaxu .. | .vand .. | .vor .. | .vxor .. | .vshl ..
  | .vshr .. | .vsra .. | .vcmp .. | .vfadd .. | .vfsub .. | .vfmul .. | .vfma .. | .vfmin .. | .vfmax .. | .vfdiv ..
  | .vfsqrt .. | .vfcmp .. => true
  | _ => false

/-- The word is a hint (R80). -/
def Instr.isHint : Instr → Bool
  | .hintImm _ | .hintScope _ | .hintYield _ | .hintCache _ | .hintDisp _ | .hintPrio | .hintNop => true
  | _ => false

/-- The carrel's next word is the instruction of a group that carries PRIO (R80): PRIO is about the instruction, not about a hint word that
stands between. -/
def carriesPrio (s : State) (core i : Nat) : Bool :=
  ((s.carrel core i).hints.any fun w => hintKind w == 5) && !(((nextWord s core i).map Instr.isHint).getD false)

/-- The tier of a candidate (R245): an instruction with PRIO in its first ready cycle, all others, a YIELD period. -/
def tierOf (s : State) (core i : Nat) : Nat :=
  let c := s.carrel core i
  if carriesPrio s core i && !c.prioTried then 1
  else if 1 < c.yield then 3 else 2

/-- The candidates of the first tier that is not empty. -/
def topTier (s : State) (core : Nat) (cs : List Nat) : List Nat :=
  let t := minOf (cs.map (tierOf s core))
  cs.filter fun i => tierOf s core i == t

/-- The policy bit that governs selection: a write counts from the next cycle (R68). -/
def Core.selPol (k : Core) : Bool :=
  match fget k.sysOld SysReg.status.code with
  | none => k.pol
  | some (_, old) => old.getLsbD 4

/-- The choice within a tier (R245): greedy then oldest, or round robin. -/
def pick (k : Core) (cyc last : Nat) (at_ : Option Nat) (cs : List Nat) : Option Nat :=
  if k.selPol then ((List.range 8).map fun j => (last + 1 + j) % 8).find? cs.contains
  else if at_.map (· + 1) = some cyc && cs.contains last then some last
  else cs.foldl (fun o i => match o with
    | none => some i
    | some j => if (k.carrel i).born < (k.carrel j).born then some i else some j) none

/-- An instruction with PRIO that was ready and did not issue loses its place (R80). -/
def missPrio (s : State) (core : Nat) (cs : List Nat) : State :=
  cs.foldl (fun s i => if carriesPrio s core i then s.modCarrel core i fun c => { c with prioTried := true } else s) s

/-- The carrel that slot B chooses (R244, R245): it chooses first, among the candidates whose word it takes. -/
def pickB (s : State) (core : Nat) : Option Nat :=
  let k := s.core core
  let cs := (List.range 8).filter fun i => candidate s core i && ((nextWord s core i).map Instr.slotB).getD false
  pick k s.cycle k.lastB k.atB (topTier s core cs)

/-- The candidates that are left to slot A: not the carrel that issued in slot B, and, where that word occupies the divider, none that needs
it (R243, R244). -/
def leftToA (s : State) (core : Nat) (b : Option Nat) : List Nat := (List.range 8).filter fun i => b != some i && candidate s core i

/-- The carrel that slot A chooses, once slot B's word has issued (R244, R245). -/
def pickA (s : State) (core : Nat) (b : Option Nat) : Option Nat :=
  let k := s.core core
  pick k s.cycle k.lastA k.atA (topTier s core (leftToA s core b))

/-- A slot's choice: the last issuer of the slot. -/
def Core.issuer (k : Core) (cyc : Nat) (b : Bool) (i : Nat) : Core :=
  if b then { k with lastB := i, atB := some cyc } else { k with lastA := i, atA := some cyc }

/-- The latency of a word's result where it is more than one cycle, and where the result goes (R246 and the L of each reference entry): a register, a vector
(64 and up) or a mask (96 and up). -/
def Instr.latency : Instr → Option (Nat × Nat)
  | .mul d .. | .mulh d .. | .mulhu d .. => some (4, d.toNat)
  | .div d .. | .divu d .. | .rem d .. | .remu d .. | .fdiv d .. | .fsqrt d .. => some (24, d.toNat)
  | .fadd d .. | .fsub d .. | .fmul d .. | .ffma d .. | .fmin d .. | .fmax d .. | .fcmp d .. | .fcvt d .. | .vred d .. =>
    some (4, d.toNat)
  | .vmul v .. | .vperm v .. | .vcvt v .. | .vfadd v .. | .vfsub v .. | .vfmul v .. | .vfma v .. | .vfmin v .. | .vfmax v .. =>
    some (4, 64 + v.toNat)
  | .vfcmp m .. => some (4, 96 + m.toNat)
  | .vfdiv v .. | .vfsqrt v .. => some (24, 64 + v.toNat)
  | _ => none

/-- What a word that completed leaves to be waited for (R246, R247): its result, unless that is an element of a stream, and the
divider. A word that traps leaves the divider free (DESIGN CHOICE, log entry 105). -/
def timed (i : Instr) (pc : Va) (s : State) : State :=
  if s.me.pc ≠ pc + 4 then s else
  let t := match Instr.latency i with
    | some (n, r) => if r < 64 && (s.me.stream (BitVec.ofNat 6 r)).isSome then s
                     else s.modMe fun c => { c with lat := fset c.lat r n }
    | none => s
  if Instr.divides i then t.modMyCore fun k => { k with divBusy := 24 } else t

/-- A slot's chosen carrel issues. -/
def slotIssue (s : State) (core i : Nat) (b : Bool) : Host.Outcome State Fault Refusal :=
  let s := s.modCore core (·.issuer s.cycle b i)
  match issueAt s core i with
  | .next t => .next (match nextWord s core i with
    | some w => timed w (s.carrel core i).pc t
    | none => t)
  | o => o

/-- A core's slots choose and issue (R244, R245): once in a cycle, slot B before slot A. -/
def slotStep (s : State) (core : Nat) : Host.Outcome State Fault Refusal :=
  if (s.core core).slotted then .next s else
  let b := pickB s core
  let s := s.modCore core fun k => { k with slotted := true }
  match (match b with
    | some i => slotIssue s core i true
    | none => .next s) with
  | .next t =>
    let a := pickA t core b
    let t := missPrio t core ((leftToA t core b).filter fun i => a != some i)
    match a with
    | some i => slotIssue t core i false
    | none => .next t
  | o => o

/-- The slots of the cores that have not yet chosen in this cycle. -/
def slotsOf (s : State) : List Nat → Host.Outcome State Fault Refusal
  | [] => .next s
  | c :: cs => match slotStep s c with
    | .next t => slotsOf t cs
    | o => o

/-- One cycle passes: every core's slots have chosen, and every router has sent on what is under way there, before it ends. -/
def cyclePasses (s : State) : Host.Outcome State Fault Refusal :=
  match slotsOf s (s.cores.map (·.1)) with
  | .next t => .next (tick (routersFree (routeAll t)))
  | o => o

end Sys2Proof.Machine
end

