-- ==== Sys2Proof/Machine/Step.lean ====
section
/-! DEFINITION. One step of the module: the head of the agenda is taken, and with an empty agenda a cycle passes. A step
takes the choice of one core's slots, a cycle, or an event of the opcode table. -/

namespace Sys2Proof.Machine

/-- One step. -/
def step (s : State) : Host.Outcome State Fault Refusal :=
  match s.agenda with
  | [] => cyclePasses s
  | c :: rest =>
    let s := { s with agenda := rest }
    match c with
    | .tick => cyclePasses s
    | .slots core => slotStep s core
    | .event i => if i.isEvent then exec i s else .next s

/-- The range-table entry of `withFetchWord`: granule 0 to physical granule 2, readable, writable and executable, valid. -/
def fetchEntry : List Byte := natBytes 8 0 ++ natBytes 8 1 ++ natBytes 8 2 ++ natBytes 8 0xF

/-- The module with an instruction placed where the next step fetches it. A program comes to run only through the resident OS
and the dispatch hub (a context, a launch, a message, a dispatch), so this stands for those steps: context 1 with a
table of one entry, and core 0 in an open bay with carrel 0 Running at address 0, whose issue is the next step. -/
def State.withFetchWord (s : State) (_nbits w : Nat) : State :=
  let bay : Bay := { launch := 0, wing := 0, bay := 0, cib := 0, bayn := 1, nbay := 1, nwing := 1, stage := 0, isOpen := true }
  let core : Core := { ctx := 1, bay := some bay, carrels := [(0, { st := .running })] }
  let t : State := { s with
    agenda := [.slots 0], cur := (0, 0), clusters := [],
    cores := [(0, core)], ctxs := fset s.ctxs 1 { rtBase := 0x1000, rtCount := 1 } }
  (t.writeMem 0x1000 (fetchEntry.map fun b => (b, false))).writeMem 0x2000 ((natBytes 4 w).map fun b => (b, false))

end Sys2Proof.Machine
end

