-- ==== Sys2Proof/Safety.lean ====
section
/-! DEFINITION. What counts as a safe run, and the terms in which the statements about words are made: when a carrel issues a
word, when its sources and its destination let it complete, the state after it, and the values of operands in the
manual's own bit vectors. -/

namespace Sys2Proof.Machine

/-- A step answers a next state. -/
def Runs (s : State) : Prop := ∃ t, step s = .next t

/-- The first `n` steps all answer a next state. -/
def SafeFor : Nat → State → Prop
  | 0, _ => True
  | n + 1, s => ∃ t, step s = .next t ∧ SafeFor n t

/-- The carrel of `s.cur` issues `i` as a word of its own: it is Running or Runtime (R39), no class 1 cause holds (R121), and
it is no synchronised word on the twin of a pair, which waits for the primary's (R284). -/
def issuable (i : Instr) (s : State) : Bool :=
  s.me.issues && (classOne s i).isNone && !(isSync i && isTwin s)

/-- The sources of a word can be read: none is absent (R58), waited for (R164), marked erroneous (R123) or failing its ECC
check (R278), and a bound stream register has its next element (R197). -/
def sourcesReady (o : OpSpec) (s : State) : Bool := gate s.me o == .go && !(eccFails s.me o)

/-- Register `d` takes the value: always, but for a bound stream register, whose next element has to pass its checks (R197). -/
def takes (s : State) (d : Reg) (v : Word) : Bool := destGate s d (some v) == .go

/-- The state of a completed word: the stream elements of its sources are taken (R197), and the next word follows (R70). -/
def completed (t : State) (cs : List Reg) : State := (popAll t cs).retire

/-- The state of a completed word that goes to `pc`. -/
def jumped (t : State) (cs : List Reg) (pc : Va) : State := (popAll t cs).retireTo pc

/-- The data half of the n-th source of a word that reads the registers `cs` (R55). -/
def operand (s : State) (cs : List Reg) (n : Nat) : Word := (src (readSources s.me cs) n).data

/-- The word with result `r` in `d` completes from every state in which it issues, its sources can be read and `d` takes
the result. -/
def GivesData (i : Instr) (d : Reg) (cs : List Reg) (s : State) (r : Word) : Prop :=
  issuable i s = true → sourcesReady { cs := cs, dc := some d } s = true → takes s d r = true →
    exec i s = .next (completed (s.putData d r) cs)

/-- The same for a word whose result is a capability register value. -/
def GivesCap (i : Instr) (d : Reg) (cs : List Reg) (s : State) (r : TCap) : Prop :=
  issuable i s = true → sourcesReady { cs := cs, dc := some d } s = true → takes s d r.data = true →
    exec i s = .next (completed (s.put d r) cs)

/-- The end of a word that may be synchronised: on the primary core of a pair it leaves its record (R284). -/
def finished (i : Instr) (o : OpSpec) (s t : State) : State := recordSync i s (completed t o.cs) (doneRec i o s t)

/-- The same as `GivesData` for a synchronised word. -/
def GivesSync (i : Instr) (d : Reg) (cs : List Reg) (s : State) (r : Word) : Prop :=
  issuable i s = true → sourcesReady { cs := cs, dc := some d } s = true → takes s d r = true →
    exec i s = .next (finished i { cs := cs, dc := some d } s (s.putData d r))

/-- The word traps with a cause and a value, and has no other effect (R119, R122). -/
def Traps (i : Instr) (s : State) (cause : Nat) (tval : Word) : Prop :=
  s.me.settled = true → exec i s = .next (takeTrap s s.cur.1 s.cur.2 cause tval)

/-- A commit point of the executing word can go ahead (R166, R170): its loads are complete, the queue has room, no entry fails its ECC check
(R278), and no comparison is due (R286). -/
def commits (s : State) : Bool := canDrain s s.cur.1 s.cur.2 && !(s.me.outbox.any (·.ecc)) && !(comparing s.me)

/-- The outbox takes one more entry, of an access that touches the ranges named: it has room, or the overflow commit can go ahead (R165), and
brings no siphon command that holds the access back (R190). -/
def hasRoom (s : State) (touch : List (Nat × Nat) := []) : Bool :=
  s.me.outbox.length < outboxMax || (commits s && siphStalls (commitPoint s s.cur.1 s.cur.2) s.cur.1 touch == .go)

/-- The state with an entry placed in the outbox of the executing carrel; a 65th entry comes after an overflow commit
(R165). -/
def placed (s : State) (e : Entry) : State :=
  if s.me.outbox.length < outboxMax then putEntry s s.cur.1 s.cur.2 e
  else putEntry (commitPoint s s.cur.1 s.cur.2) s.cur.1 s.cur.2 e

/-- The bytes that the executing word reads at its issue as a load (R113, R173, R183, R197, R260), once they have arrived, with
the state in which their places are translated. -/
def arrived (s : State) (addr size : Nat) : Option (State × List TByte) :=
  match places s s.cur.1 s.myCore.ctx addr size .vecR with
  | (t, .ok _) => match t.me.bufs.find? fun b => b.addr == BitVec.ofNat 64 addr with
    | some b => if b.err = none then some (t, b.data) else none
    | none => none
  | _ => none

/-- A load can issue: nothing holds it back (R164, R168, R169), the core has room for its requests (R248), its bytes have DRAM
behind them, and no byte that it reads at once is poisoned (R278). -/
def loadGoes (s : State) (l : Outst) : Bool :=
  let locs := l.elems.flatMap fun e => e.want.map (·.2)
  !(loadHeld s locs) && outstanding s.myCore + granuleCount (l.elems.map (·.addr)) ≤ requestMax && (badLoc locs).isNone &&
  match issueLoad s l with
  | .consume _ => false
  | _ => true

/-- Element `i` of `w` bits of a vector (R64). -/
def lane (w : Nat) (v : VWord) (i : Nat) : BitVec w := v.extractLsb' (i * w) w

/-- A vector register with a new value. A write of every element takes its erroneous mark away (R398). -/
def State.putV (s : State) (v : VReg) (x : VWord) (all : Bool) : State :=
  s.modMe fun c => { c with vregs := fset c.vregs v.toNat (if all then { val := x } else { c.vreg v with val := x }) }

/-- An element-wise word completes: the elements of v that mask m governs get `f`, every other keeps its value (R64, R398). -/
def GivesLanes (i : Instr) (v : VReg) (cs : List Reg) (vs : List VReg) (m : MReg) (w : Nat) (s : State)
    (f : Nat → BitVec w) : Prop :=
  issuable i s = true → sourcesReady { cs := cs, vs := vs, ms := [m], dv := some v } s = true →
    ∃ x : VWord, exec i s = .next (completed (s.putV v x (coversAll (s.me.mask m) (512 / w))) cs) ∧
      ∀ k < 512 / w, lane w x k = if (s.me.mask m).getLsbD k then f k else lane w (s.me.vreg v).val k

/-- An operation of the width n of R329: on the low 32 bits with a sign-extended result under W, else on 64 bits. -/
def onWidth (w : Bool) (f : (n : Nat) → BitVec n → BitVec n → BitVec n) (x y : Word) : Word :=
  if w then (f 32 (x.setWidth 32) (y.setWidth 32)).signExtend 64 else f 64 x y

/-- Cond of R74 on bit vectors. -/
def condOf {n : Nat} (c : Cond) (x y : BitVec n) : Bool :=
  match c with
  | .eq => x == y
  | .ne => x != y
  | .lt => x.slt y
  | .ge => y.sle x
  | .ltu => x.ult y
  | .geu => y.ule x
  | .gt => y.slt x
  | .le => x.sle y
  | .gtu => y.ult x
  | .leu => x.ule y

/-- Register `d` takes any value: it is no stream register, or its next element passes its checks whatever it holds (R197). -/
def takesAny (s : State) (d : Reg) : Prop := ∀ v, destGate s d v = .go

/-- The cistern cell that an access reaches: its address and its type (R203, R207). -/
def cellOf (p : Places) : Option (Nat × Nat) :=
  match p.ent, p.locs with
  | some e, .mem pa :: _ => if e.kind = 1 then some (pa, e.typ) else none
  | _, _ => none

/-- The executing word reads the places now, with no wait and no poison: the bytes, the latest pending store first (R164). -/
def readsNow (t : State) (reach : Reach) (locs : List Loc) (bs : List TByte) : Prop :=
  locs.map (fwdByte (baseNow t t.cur.1 reach) (pendingFor t t.cur.1 t.cur.2 t.myCore.nextId)) = bs.map fun b => some (b, false)

/-- The state in which an access is numbered: what held it back is over (R169). -/
def State.numbered (t : State) : State :=
  (t.setCore t.cur.1 t.myCore.fresh.2).modMe fun x => { x with fenceLoads := false, scWait := [] }

/-- A vector load of the elements `es`, whose capability checks are made on `checks` (R108, R161, R411, R415, R418); `joint` where they make
one request (R135). -/
def LoadsElems (i : Instr) (cs : List Reg) (s : State) (v : VReg) (cap : TCap) (noHost joint : Bool) (checks es : List VElem) : Prop :=
  (∀ c a, capAll s cap permR noHost checks = some (c, a) → Traps i s c (BitVec.ofNat 64 a)) ∧
  (capAll s cap permR noHost checks = none → ∀ t ps, placeAll s .vecR (sortElems es) = (t, ps, none) →
    let u := (opScope t 4).1
    let l := { plainAccess u (.vec v) ((es.head?.map (·.addr)).getD 0) 64 with
      joint := joint,
      elems := es.map fun e => elemOf (winOf ps) (opScope t 4).2 e.dst e.addr (placesFor ps e) }
    siphStalls u u.cur.1 (es.map fun e => (e.addr, e.size)) = .go → loadGoes u l = true →
      ∃ r, issueLoad u l = .done r ∧ exec i s = .next (completed r cs))

/-- A vector store of the elements `es` of `data`: one outbox entry with their bytes in element order, performed element by element where
`unit` is their size (R411, R412, R415, R418). -/
def StoresElems (i : Instr) (cs : List Reg) (s : State) (cap : TCap) (noHost : Bool) (addr : Nat) (data : VWord) (unit : Nat)
    (es : List VElem) : Prop :=
  (∀ c a, capAll s cap permW noHost es = some (c, a) → Traps i s c (BitVec.ofNat 64 a)) ∧
  (capAll s cap permW noHost es = none → ∀ t ps, placeAll s .vecW (sortElems es) = (t, ps, none) →
    let u := (opScope t 4).1
    let cells := es.flatMap fun e => (placesFor ps e).zip (natBytes e.size (bitsAt data.toNat (8 * e.dst) (8 * e.size)))
    let touch := es.map fun e => (e.addr, e.size)
    siphStalls u u.cur.1 touch = .go → badLoc (cells.map (·.1)) = none → hasRoom u touch = true →
      exec i s = .next (completed (placed u { storeEntry u i (.store cells false) addr (winOf ps) (opScope t 4).2 with unit := unit }) cs))

/-- LJOIN or LWAIT reaches a cistern cell of this module (R210, R370): its checks pass, with the state after translation, the
cell's address and its type. -/
def ReachesCell (s : State) (cap : TCap) (perm : Nat) (acc : Acc_) (t : State) (pa typ : Nat) : Prop :=
  let addr := capAddr cap.val
  ∃ p e ls, places s s.cur.1 s.myCore.ctx addr 4 acc = (t, .ok p) ∧ p.ent = some e ∧ p.locs = .mem pa :: ls ∧ e.typ = typ ∧
    addr % 4 = 0 ∧ capCheck s s.cur.1 cap addr 4 perm = none ∧ spaceOf addr ≠ 2 ∧ spaceOf addr ≠ 3 ∧
    addr % cellSize typ = 0 ∧ (cellSize typ = 8 → capCheck t t.cur.1 cap addr 8 perm = none) ∧ hasDram pa = true

/-- The checks on the operand of a barrier word pass (R336): the state after translation and the object's place. -/
def ReachesBarrier (s : State) (cap : TCap) (perm : Nat) (own : Bool) (t : State) (l : Loc) : Prop :=
  let addr := capAddr cap.val
  ∃ p ls, places s s.cur.1 s.myCore.ctx addr 16 .rw = (t, .ok p) ∧ p.locs = l :: ls ∧ addr % 16 = 0 ∧
    capCheck s s.cur.1 cap addr 16 perm = none ∧ spaceOf addr = 2 ∧ (own = true → localScratch s s.cur.1 addr = true)

/-- A destination of SEND or RPUT that raises no cause (R54, R378). -/
def goodDest (s : State) (v : Word) (tag : Nat) : Bool :=
  v.extractLsb' 28 36 == 0 && v.extractLsb' 12 4 == 0 && tag != 63 &&
  (let dev := (v.extractLsb' 16 12).toNat
   let core := (v.extractLsb' 0 12).toNat
   if s.isOwnDev dev then inOpenBay s s.myCore.ctx core && !(unbacked s core) else devAllowed s dev)

/-- The memory of the module is in its canonical form: bytes, tag flags and poisoned words each in strictly rising order, and no
byte listed that reads as an unlisted one does. -/
def State.memOk (s : State) : Prop := memWf s.mem = true ∧ s.memTags.Pairwise (· < ·) ∧ s.memPoison.Pairwise (· < ·)

/-- The commit-queue entry at a place of a core's queue may take effect now (R166, R169): it is not under way, nothing earlier
holds it back, and it passes its ECC check. -/
def due (s : State) (core idx : Nat) (e : Entry) : Prop :=
  (s.core core).queue[idx]? = some e ∧ e.sent = none ∧ eligible s core idx e = true ∧ e.ecc = false

end Sys2Proof.Machine

namespace Sys2Proof

/-- The instruction has a word of its own (R71 to R82). -/
def Instr.hasWord : Instr → Bool
  | .illegalInstruction _ => false
  | i => !i.isEvent

end Sys2Proof
end

