-- ==== Sys2Proof/Certificates/Slice0/Obligations.lean ====
section
/-! DEFINITION. The statements about the model. Each docstring names the rules it states or rests on; where a clause rests on
a choice of the model, it names the log entry. -/

section

open Sys2Proof Sys2Proof.Machine

/-- The integer words of R328 and R329: the result on the low n bits, n being 32 under W and 64 otherwise, sign-extended and
untagged; no flag is set and nothing traps. Counts, selection, extension and comparison (R349, R350, R388, R389). -/
def Obligations.IntegerArithmetic : Prop :=
  (∀ (s : State) (d a b : Reg) (w : Bool),
    let x := operand s [a, b] 0
    let y := operand s [a, b] 1
    GivesData (.add d a b w) d [a, b] s (onWidth w (fun _ p q => p + q) x y) ∧
    GivesData (.sub d a b w) d [a, b] s (onWidth w (fun _ p q => p - q) x y) ∧
    GivesData (.and_ d a b w) d [a, b] s (onWidth w (fun _ p q => p &&& q) x y) ∧
    GivesData (.or_ d a b w) d [a, b] s (onWidth w (fun _ p q => p ||| q) x y) ∧
    GivesData (.xor_ d a b w) d [a, b] s (onWidth w (fun _ p q => p ^^^ q) x y) ∧
    GivesData (.min d a b w) d [a, b] s (onWidth w (fun _ p q => if p.sle q then p else q) x y) ∧
    GivesData (.max d a b w) d [a, b] s (onWidth w (fun _ p q => if p.sle q then q else p) x y) ∧
    GivesData (.minu d a b w) d [a, b] s (onWidth w (fun _ p q => if p.ule q then p else q) x y) ∧
    GivesData (.maxu d a b w) d [a, b] s (onWidth w (fun _ p q => if p.ule q then q else p) x y)) ∧
  (∀ (s : State) (d a b : Reg) (w : Bool) (c : Cond) (e : ExtCode) (i : BitVec 10),
    let x := operand s [a] 0
    (GivesData (.clz d a w) d [a] s (if w then ((x.setWidth 32).clz).setWidth 64 else x.clz) ∧
     GivesData (.popc d a w) d [a] s (if w then ((x.setWidth 32).cpop).setWidth 64 else x.cpop)) ∧
    GivesData (.sel d a b) d [a, b, d] s
      (if operand s [a, b, d] 2 ≠ 0 then operand s [a, b, d] 0 else operand s [a, b, d] 1) ∧
    GivesData (.sext d a e) d [a] s (match e with
      | .b => (x.setWidth 8).signExtend 64
      | .h => (x.setWidth 16).signExtend 64
      | .w => (x.setWidth 32).signExtend 64) ∧
    GivesData (.zext d a e) d [a] s (match e with
      | .b => (x.setWidth 8).setWidth 64
      | .h => (x.setWidth 16).setWidth 64
      | .w => (x.setWidth 32).setWidth 64) ∧
    GivesData (.cmp d a b w c) d [a, b] s
      (if (if w then condOf c ((operand s [a, b] 0).setWidth 32) ((operand s [a, b] 1).setWidth 32)
           else condOf c (operand s [a, b] 0) (operand s [a, b] 1)) then 1 else 0) ∧
    GivesData (.cmpi d a c i) d [a] s (if condOf c x (i.signExtend 64) then 1 else 0))

/-- The shifts of R390, with the amount in the low six bits of cB, or the low five under W. -/
def Obligations.IntegerShifts : Prop :=
  ∀ (s : State) (d a b : Reg) (w : Bool),
    let x := operand s [a, b] 0
    let y := operand s [a, b] 1
    GivesData (.shl d a b w) d [a, b] s (onWidth w (fun n p q => p <<< (q.toNat % n)) x y) ∧
    GivesData (.shr d a b w) d [a, b] s (onWidth w (fun n p q => p >>> (q.toNat % n)) x y) ∧
    GivesData (.sra d a b w) d [a, b] s (onWidth w (fun n p q => p.sshiftRight (q.toNat % n)) x y)

/-- Multiplication and division (R352, R376): no operand traps; a zero divisor gives an all-ones quotient and the dividend as
remainder, and the most negative number divided by −1 gives itself and remainder 0. -/
def Obligations.IntegerMulDiv : Prop :=
  ∀ (s : State) (d a b : Reg) (w : Bool),
    let x := operand s [a, b] 0
    let y := operand s [a, b] 1
    GivesData (.mul d a b w) d [a, b] s (onWidth w (fun _ p q => p * q) x y) ∧
    GivesData (.mulh d a b w) d [a, b] s
      (onWidth w (fun n p q => (p.signExtend (2 * n) * q.signExtend (2 * n)).extractLsb' n n) x y) ∧
    GivesData (.mulhu d a b w) d [a, b] s
      (onWidth w (fun n p q => (p.setWidth (2 * n) * q.setWidth (2 * n)).extractLsb' n n) x y) ∧
    GivesData (.div d a b w) d [a, b] s
      (onWidth w (fun n p q => if q = 0 then BitVec.allOnes n else p.sdiv q) x y) ∧
    GivesData (.divu d a b w) d [a, b] s
      (onWidth w (fun n p q => if q = 0 then BitVec.allOnes n else p.udiv q) x y) ∧
    GivesData (.rem d a b w) d [a, b] s (onWidth w (fun _ p q => if q = 0 then p else p.srem q) x y) ∧
    GivesData (.remu d a b w) d [a, b] s (onWidth w (fun _ p q => if q = 0 then p else p.umod q) x y)

/-- The immediates of R81 as ADDI, ANDI, ORI, XORI and MOVI use them (R330, R375): without a hint the immediate is
sign-extended, one HINT.IMM of payload p puts p above it and the whole is sign-extended, and two before MOVI give all 64
bits. The bit-field words and the shifts by an immediate (R339, R391), for every position and length with pos + len at most
64; a longer field is an illegal word (R85). -/
def Obligations.ImmediatesAndFields : Prop :=
  (∀ (s : State) (d a : Reg) (i : BitVec 14) (j : BitVec 20),
    let x := operand s [a] 0
    let imm : Word := match hintsOf 0 s.me.hints with
      | [] => i.signExtend 64
      | p :: _ => (BitVec.ofNat 22 p ++ i).signExtend 64
    GivesData (.addi d a i) d [a] s (x + imm) ∧
    GivesData (.andi d a i) d [a] s (x &&& imm) ∧
    GivesData (.ori d a i) d [a] s (x ||| imm) ∧
    GivesData (.xori d a i) d [a] s (x ^^^ imm) ∧
    GivesData (.movi d j) d [] s (match hintsOf 0 s.me.hints with
      | [] => j.signExtend 64
      | [p] => (BitVec.ofNat 22 p ++ j).signExtend 64
      | p :: q :: _ => BitVec.ofNat 22 p ++ BitVec.ofNat 22 q ++ j)) ∧
  (∀ (s : State) (d a : Reg) (p l : BitVec 6),
    let x := operand s [a] 0
    let mask : Word := (BitVec.allOnes 64 >>> (63 - l.toNat)) <<< p.toNat
    (p.toNat + l.toNat + 1 ≤ 64 →
      GivesData (.bfxU d a p l) d [a] s ((x.extractLsb' p.toNat (l.toNat + 1)).setWidth 64) ∧
      GivesData (.bfxS d a p l) d [a] s ((x.extractLsb' p.toNat (l.toNat + 1)).signExtend 64) ∧
      GivesData (.bfi d a p l) d [a, d] s
        ((operand s [a, d] 1 &&& ~~~mask) ||| ((operand s [a, d] 0 <<< p.toNat) &&& mask))) ∧
    GivesData (.shli d a p) d [a] s (x <<< p.toNat) ∧
    GivesData (.shri d a p) d [a] s (x >>> p.toNat) ∧
    GivesData (.srai d a p) d [a] s (x.sshiftRight p.toNat))

/-- What a word with one register result leaves unchanged (R55, R70, R197): nothing changes outside the executing carrel, and
in it only the destination register, the streams that the word reads or writes, the pc, the hints, what the end of a
word resets, the list of remotely writable registers written in this cycle (R60), and what is waited for before the destination is read
(R246). A register that is no bound stream register takes the result; c0 stays zero. A bound one gets the result as
its next element, and no register changes. -/
def Obligations.ResultFrame : Prop :=
  ∀ (s : State) (d : Reg) (r : TCap) (cs : List Reg),
    let t := completed (s.put d r) cs
    t = s.setMe t.me ∧
    t.me = { s.me with regs := t.me.regs, streams := t.me.streams, pc := s.me.pc + 4, hints := [], prioTried := false,
                       bufs := [], yield := t.me.yield, wrote := t.me.wrote, lat := t.me.lat } ∧
    (∀ n, n ≠ d.toNat → fget t.me.lat n = fget s.me.lat n) ∧
    t.me.wrote = (if s.me.stream d = none ∧ 32 ≤ d.toNat then d :: s.me.wrote else s.me.wrote) ∧
    (∀ q, q ≠ d → t.me.creg q = s.me.creg q) ∧
    (s.me.stream d = none → t.me.read d = if d = 0 then {} else r) ∧
    (s.me.stream d ≠ none → t.me.regs = s.me.regs ∧ t.me.lat = s.me.lat) ∧
    (∀ st, s.me.stream d = some st → d ∉ cs →
      t.me.stream d = some { st with buffer := st.buffer ++ [(st.next, r.data)], next := st.next + 1 }) ∧
    ((∀ q, q ∈ cs ∨ q = d → s.me.stream q = none) → t.me.streams = s.me.streams)

/-- CBND and CPERM (R346, R347). CBND of a tagged capability to a length whose extent lies in its bounds and is exactly
representable gives a tagged capability that decodes to just that extent, with the same permissions; an untagged source, an
extent outside the bounds and an extent that no granule encodes trap with 0x081, 0x082 and 0x084. CPERM masks the
permissions and leaves every other bit and the tag. -/
def Obligations.CapabilityNarrowing : Prop :=
  ∀ (s : State) (d a b : Reg),
    let v := readSources s.me [a, b]
    let c := src v 0
    let len := (src v 1).data.toNat
    let lo := capAddr c.val
    let i : Instr := .cbnd d a b
    let o : OpSpec := { cs := [a, b], dc := some d }
    (issuable i s = true → sourcesReady o s = true →
      (c.tag = false → Traps i s 0x081 (BitVec.ofNat 64 lo)) ∧
      (c.tag = true → ((lo : Int) < (capBounds c.val).1 ∨ ((lo + len : Nat) : Int) > (capBounds c.val).2) →
        Traps i s 0x082 (BitVec.ofNat 64 lo)) ∧
      (c.tag = true → (capBounds c.val).1 ≤ lo → ((lo + len : Nat) : Int) ≤ (capBounds c.val).2 →
        (∀ g ≤ 24, ¬(1 ≤ len ∧ len ≤ (2 ^ 24 - 1) * 2 ^ g ∧ lo % 2 ^ g = 0 ∧ (lo + len) % 2 ^ g = 0)) →
        Traps i s 0x084 (BitVec.ofNat 64 lo)) ∧
      (c.tag = true → (capBounds c.val).1 ≤ lo → ((lo + len : Nat) : Int) ≤ (capBounds c.val).2 → lo + len ≤ 2 ^ 64 →
        (∃ g ≤ 24, 1 ≤ len ∧ len ≤ (2 ^ 24 - 1) * 2 ^ g ∧ lo % 2 ^ g = 0 ∧ (lo + len) % 2 ^ g = 0) →
        takes s d (BitVec.ofNat 64 lo) = true →
        ∃ r : TCap, exec i s = .next (completed (s.put d r) [a, b]) ∧ r.tag = true ∧
          capBounds r.val = ((lo : Int), ((lo + len : Nat) : Int)) ∧ capAddr r.val = lo ∧
          capPerms r.val = capPerms c.val)) ∧
    GivesCap (.cperm d a b) d [a, b] s
      { val := (c.val.extractLsb' 117 11 &&& (src v 1).val.extractLsb' 0 11) ++ c.val.extractLsb' 0 117, tag := c.tag }

/-- CINC, CSETA and CINCI (R345, R347): the address moves; a tagged source stays tagged, with the same bounds and
permissions, while the new address rounded down to the granule lies in its bounds, and otherwise loses only its tag. None
of them traps. CGET and CTEST (R348) give untagged data and do not trap: a field of the capability, and whether cB lies within cA. -/
def Obligations.CapabilityWords : Prop :=
  (∀ (s : State) (d a b : Reg) (imm : BitVec 14),
    let v := readSources s.me [a, b]
    let c := src v 0
    let w := src (readSources s.me [a]) 0
    let moves := fun (c : TCap) (na : Word) (r : TCap) =>
      let g := 2 ^ capG c.val
      let anchor : Int := (na.toNat - na.toNat % g : Nat)
      r.data = na ∧ capPerms r.val = capPerms c.val ∧ capG r.val = capG c.val ∧
      (r.tag = true ↔ c.tag = true ∧ (capBounds c.val).1 ≤ anchor ∧ anchor ≤ (capBounds c.val).2) ∧
      (r.tag = true → capDown c.val + capUp c.val < 2 ^ 24 → capBounds r.val = capBounds c.val) ∧
      (r.tag = false → r.val.extractLsb' 64 64 = c.val.extractLsb' 64 64)
    let wide : Word := match hintsOf 0 s.me.hints with
      | [] => imm.signExtend 64
      | p :: _ => (BitVec.ofNat 22 p ++ imm).signExtend 64
    (∃ r, moves c (c.data + (src v 1).data) r ∧ GivesCap (.cinc d a b) d [a, b] s r) ∧
    (∃ r, moves c (src v 1).data r ∧ GivesCap (.cseta d a b) d [a, b] s r) ∧
    (∃ r, moves w (w.data + wide) r ∧ GivesCap (.cinci d a imm) d [a] s r)) ∧
  (∀ (s : State) (d a b : Reg) (f : CapField),
    let c := src (readSources s.me [a]) 0
    let p := src (readSources s.me [a, b]) 0
    let q := src (readSources s.me [a, b]) 1
    GivesCap (.cget d a f) d [a] s (dataCap (match f with
      | .addr => c.val.extractLsb' 0 64
      | .base => BitVec.ofInt 64 (capBounds c.val).1
      | .top => BitVec.ofInt 64 (capBounds c.val).2
      | .perms => (c.val.extractLsb' 117 11).setWidth 64
      | .tag => if c.tag then 1 else 0
      | .gran => (c.val.extractLsb' 112 5).setWidth 64)) ∧
    GivesCap (.ctest d a b) d [a, b] s (dataCap
      (if p.tag = true ∧ q.tag = true ∧ (capBounds p.val).1 ≤ (capBounds q.val).1 ∧
          (capBounds q.val).2 ≤ (capBounds p.val).2 ∧
          q.val.extractLsb' 117 11 &&& ~~~(p.val.extractLsb' 117 11) = 0 then 1 else 0)))

/-- The scalar floating-point words (R355, R357, R358): an operation on the low bits of its sources raises flags, which FPC
keeps; when no raised flag is enabled the result is written, and otherwise the word traps with the lowest enabled detail
(R128) and writes nothing but FPC. The special values of R356, in every format and rounding mode: a NaN operand gives the canonical NaN, and a signalling
one sets IV; ∞ − ∞, 0 × ∞, 0 ÷ 0, ∞ ÷ ∞ and the root of a negative number are invalid; a finite number divided by zero gives
∞ and sets DZ; an exact zero sum of opposite signs is +0, and −0 under RDN; FMIN and FMAX return the operand that is no
NaN. -/
def Obligations.ScalarFloat : Prop :=
  (∀ (s : State) (d a b : Reg) (f : FpFmt) (c : FcmpOp) (k : FcvtCode),
    let rm := fpcRm s.me.fpc
    let F := fpFmtOf f
    let v := fun (cs : List Reg) (n : Nat) => (operand s cs n).toNat % 2 ^ F.bits
    let ends := fun (i : Instr) (cs : List Reg) (r : Word) (fl : FFlags) =>
      let t := s.modMe fun c => { c with fpc := c.fpc ||| fl.mask }
      issuable i s = true → sourcesReady { cs := cs, dc := some d } s = true →
        (fpTrap s.me.fpc fl = none → takes s d r = true → exec i s = .next (completed (t.putData d r) cs)) ∧
        (∀ n, fpTrap s.me.fpc fl = some n → s.me.settled = true → destGate s d none = .go →
          exec i s = .next (takeTrap t t.cur.1 t.cur.2 (0x140 + n) 0))
    let arith := fun (i : Instr) (cs : List Reg) (o : FpOp) =>
      let r := F.apply rm o (v cs 0) (v cs 1) (v cs 2)
      ends i cs (BitVec.ofNat 64 (r.1 % 2 ^ F.bits)) r.2
    arith (.fadd d a b f) [a, b] .add ∧ arith (.fsub d a b f) [a, b] .sub ∧ arith (.fmul d a b f) [a, b] .mul ∧
    arith (.fdiv d a b f) [a, b] .div ∧ arith (.fsqrt d a f) [a] .sqrt ∧ arith (.fmin d a b f) [a, b] .min ∧
    arith (.fmax d a b f) [a, b] .max ∧ arith (.ffma d a b f) [a, b, d] .fma ∧
    (let x := F.decode (v [a, b] 0)
     let y := F.decode (v [a, b] 1)
     let un := x.isNan || y.isNan
     let sg := x.isSig || y.isSig
     let holds : Bool := match c with
       | .eq => !un && x.cmp y == .eq
       | .lt => !un && x.cmp y == .lt
       | .le => !un && x.cmp y != .gt
       | .un => un
     ends (.fcmp d a b f c) [a, b] (if holds then 1 else 0)
       { iv := match c with
          | .eq | .un => sg
          | .lt | .le => un }) ∧
    ends (.fcvt d a k f) [a] (fcvt rm k f (operand s [a] 0).toNat).1 (fcvt rm k f (operand s [a] 0).toNat).2) ∧
  (∀ (F : Fmt) (rm : Rm) (x y z : Nat),
    let X := F.decode x
    let Y := F.decode y
    let nan := F.nanBits
    (X.isNan ∨ Y.isNan → ∀ o, o = .add ∨ o = .sub ∨ o = .mul ∨ o = .div →
      (F.apply rm o x y z).1 = nan ∧ (F.apply rm o x y z).2.iv = (X.isSig || Y.isSig)) ∧
    (X.isNan ∨ Y.isNan ∨ (F.decode z).isNan → (F.apply rm .fma x y z).1 = nan) ∧
    (X.isNan → (F.apply rm .sqrt x y z).1 = nan ∧ (F.apply rm .sqrt x y z).2.iv = X.isSig) ∧
    (∀ a, X = .inf a → Y = .inf a → F.apply rm .sub x y z = (nan, { iv := true })) ∧
    (∀ a, X = .inf a → Y = .inf (!a) → F.apply rm .add x y z = (nan, { iv := true })) ∧
    (∀ a b e, X = .inf a → Y = .num b 0 e → F.apply rm .mul x y z = (nan, { iv := true })) ∧
    (∀ a b e e', X = .num a 0 e → Y = .num b 0 e' → F.apply rm .div x y z = (nan, { iv := true })) ∧
    (∀ a b, X = .inf a → Y = .inf b → F.apply rm .div x y z = (nan, { iv := true })) ∧
    (∀ a b m e e', X = .num a (m + 1) e → Y = .num b 0 e' →
      F.apply rm .div x y z = (F.infBits (a != b), { dz := true })) ∧
    (∀ m e, X = .num true (m + 1) e → F.apply rm .sqrt x y z = (nan, { iv := true })) ∧
    (∀ a m e, X = .num a m e → Y = .num (!a) m e →
      F.apply rm .add x y z = ((rm == .rdn).toNat * 2 ^ (F.eb + F.mb), {})) ∧
    (∀ o, o = .min ∨ o = .max → X.isNan → ¬Y.isNan → (F.apply rm o x y z).1 = y) ∧
    (∀ o, o = .min ∨ o = .max → ¬X.isNan → Y.isNan → (F.apply rm o x y z).1 = x))

/-- The value of an E4M3 byte with sign s, exponent field e and mantissa field m (R252). -/
def Obligations.E4M3Values : Prop :=
  ∀ x : BitVec 8,
    let sgn : ℚ := if x.getLsbD 7 then -1 else 1
    let e := (x.extractLsb' 3 4).toNat
    let m := (x.extractLsb' 0 3).toNat
    let value : FNum → Option ℚ := fun v => match v with
      | .num n k q => some ((if n then -1 else 1) * k * (2 : ℚ) ^ q)
      | _ => none
    (e = 0 → value (decode43 x.toNat) = some (sgn * (2 : ℚ) ^ (-6 : ℤ) * (m / 8))) ∧
    (1 ≤ e → ¬(e = 15 ∧ m = 7) → value (decode43 x.toNat) = some (sgn * (2 : ℚ) ^ ((e : ℤ) - 7) * (1 + m / 8))) ∧
    (e = 15 → m = 7 → decode43 x.toNat = .nan false)

/-- The element-wise integer words (R401, R413): each governed element is computed from the elements of the sources as they
were, and every other keeps its value. A shift takes its amount modulo the width. -/
def Obligations.VectorInteger : Prop :=
  ∀ (s : State) (v a b : VReg) (m : MReg) (w : ElemWidth),
    let n := ewBits w
    let p := fun k => lane n (s.me.vreg a).val k
    let q := fun k => lane n (s.me.vreg b).val k
    let g := fun (i : Instr) (f : BitVec n → BitVec n → BitVec n) =>
      GivesLanes i v [] [a, b] m n s fun k => f (p k) (q k)
    g (.vadd v a b m w) (fun x y => x + y) ∧ g (.vsub v a b m w) (fun x y => x - y) ∧
    g (.vmul v a b m w) (fun x y => x * y) ∧
    g (.vmin v a b m w) (fun x y => if x.sle y then x else y) ∧
    g (.vmax v a b m w) (fun x y => if x.sle y then y else x) ∧
    g (.vminu v a b m w) (fun x y => if x.ule y then x else y) ∧
    g (.vmaxu v a b m w) (fun x y => if x.ule y then y else x) ∧
    g (.vand v a b m w) (fun x y => x &&& y) ∧ g (.vor v a b m w) (fun x y => x ||| y) ∧
    g (.vxor v a b m w) (fun x y => x ^^^ y) ∧
    g (.vshl v a b m w) (fun x y => x <<< (y.toNat % n)) ∧
    g (.vshr v a b m w) (fun x y => x >>> (y.toNat % n)) ∧
    g (.vsra v a b m w) (fun x y => x.sshiftRight (y.toNat % n)) ∧
    GivesLanes (.vperm v a b m w) v [] [a, b] m n s
      (fun k => if (q k).toNat < 512 / n then p (q k).toNat else 0) ∧
    GivesLanes (.viota v m w) v [] [] m n s (fun k => BitVec.ofNat n k) ∧
    GivesLanes (.vmov v a m w) v [] [a] m n s p

/-- The transfers and VSEL (R402, R403, R413): VBCAST and VSEL write every element; VINS writes one and VEXT reads one, and
an index at or above the element count traps with 0x102; VRED combines all elements, whose order does not matter. The mask words (R64, R351, R374, R404): CTOM and MTOC move the bits below the element count, MCNT counts them, MOP
combines all 64 bits, and VCMP writes the governed bits, keeps the others below the element count and clears the rest. A
write of m0 is discarded. -/
def Obligations.VectorTransfersAndMasks : Prop :=
  (∀ (s : State) (v a b : VReg) (d c e : Reg) (m : MReg) (w : ElemWidth) (o : RedOp),
    let n := ewBits w
    let E := 512 / n
    let op : BitVec n → BitVec n → BitVec n := fun x y => match o with
      | .add => x + y
      | .min => if x.sle y then x else y
      | .max => if x.sle y then y else x
      | .minu => if x.ule y then x else y
      | .maxu => if x.ule y then y else x
      | .and => x &&& y
      | .or => x ||| y
      | .xor => x ^^^ y
    (issuable (.vbcast v c w) s = true → sourcesReady { cs := [c], dv := some v } s = true →
      ∃ x, exec (.vbcast v c w) s = .next (completed (s.putV v x true) [c]) ∧
        ∀ k < E, lane n x k = (operand s [c] 0).setWidth n) ∧
    (issuable (.vsel v a b m w) s = true → sourcesReady { vs := [a, b], ms := [m], dv := some v } s = true →
      ∃ x, exec (.vsel v a b m w) s = .next (completed (s.putV v x true) []) ∧
        ∀ k < E, lane n x k = lane n (s.me.vreg (if (s.me.mask m).getLsbD k then a else b)).val k) ∧
    (issuable (.vins v c e w) s = true → sourcesReady { cs := [c, e], vs := [v], dv := some v } s = true →
      let j := operand s [c, e] 1
      (E ≤ j.toNat → Traps (.vins v c e w) s 0x102 j) ∧
      (j.toNat < E → ∃ x, exec (.vins v c e w) s = .next (completed (s.putV v x true) [c, e]) ∧
        ∀ k < E, lane n x k = if k = j.toNat then (operand s [c, e] 0).setWidth n else lane n (s.me.vreg v).val k)) ∧
    (issuable (.vext d a e w) s = true → sourcesReady { cs := [e], vs := [a], dc := some d } s = true →
      let j := operand s [e] 0
      let x := (lane n (s.me.vreg a).val j.toNat).signExtend 64
      (E ≤ j.toNat → Traps (.vext d a e w) s 0x102 j) ∧
      (j.toNat < E → takes s d x = true → exec (.vext d a e w) s = .next (completed (s.putData d x) [e]))) ∧
    (issuable (.vred d a o w) s = true → sourcesReady { vs := [a], dc := some d } s = true →
      let x := (((List.range (E - 1)).map fun k => lane n (s.me.vreg a).val (k + 1)).foldl op
        (lane n (s.me.vreg a).val 0)).signExtend 64
      takes s d x = true → exec (.vred d a o w) s = .next (completed (s.putData d x) []))) ∧
  (∀ (s : State) (d c : Reg) (x y m : MReg) (a b : VReg) (w : ElemWidth) (o : MaskOp) (k : Cond),
    let n := ewBits w
    let E := 512 / n
    let low : Word := BitVec.allOnes 64 >>> (64 - E)
    (issuable (.mtoc d x w) s = true → sourcesReady { ms := [x], dc := some d } s = true →
      takes s d (s.me.mask x &&& low) = true →
      exec (.mtoc d x w) s = .next (completed (s.putData d (s.me.mask x &&& low)) [])) ∧
    (issuable (.mcnt d x w) s = true → sourcesReady { ms := [x], dc := some d } s = true →
      takes s d (s.me.mask x &&& low).cpop = true →
      exec (.mcnt d x w) s = .next (completed (s.putData d (s.me.mask x &&& low).cpop) [])) ∧
    (issuable (.ctom x c w) s = true → sourcesReady { cs := [c] } s = true →
      exec (.ctom x c w) s = .next (completed (s.modMe (·.setM x (operand s [c] 0 &&& low))) [c])) ∧
    (issuable (.mop m x y o) s = true → sourcesReady { ms := [x, y] } s = true →
      exec (.mop m x y o) s = .next (completed (s.modMe (·.setM m (match o with
        | .and => s.me.mask x &&& s.me.mask y
        | .or => s.me.mask x ||| s.me.mask y
        | .xor => s.me.mask x ^^^ s.me.mask y
        | .andn => s.me.mask x &&& ~~~(s.me.mask y)))) [])) ∧
    (issuable (.vcmp x a b m w k) s = true → sourcesReady { vs := [a, b], ms := [m, x] } s = true →
      ∃ z : Word, exec (.vcmp x a b m w k) s = .next (completed (s.modMe (·.setM x z)) []) ∧
        ∀ j < 64, z.getLsbD j =
          if E ≤ j then false
          else if (s.me.mask m).getLsbD j then condOf k (lane n (s.me.vreg a).val j) (lane n (s.me.vreg b).val j)
          else (s.me.mask x).getLsbD j) ∧
    (∀ (q : Carrel) (z : Word), (q.setM 0 z) = q ∧ q.mask 0 = BitVec.allOnes 64 ∧
      (x ≠ 0 → (q.setM x z).mask x = z ∧ ∀ r, r ≠ x → (q.setM x z).mask r = q.mask r)))

/-- The vector floating-point words (R405 to R409): every governed element is computed, the flags that they raise are joined
in FPC, in the compare and the conversion too, and when one of them is enabled the word traps with its lowest governed raiser (R128) and writes no element. -/
def Obligations.VectorFloat : Prop :=
  ∀ (s : State) (v a b : VReg) (d m : MReg) (f : VfFmt) (c : FcmpOp) (k : VcvtCode) (p : BitVec 2),
    let rm := fpcRm s.me.fpc
    let F := vfFmtOf f
    let n := F.bits
    let g := s.me.mask m
    let el := fun (r : VReg) (j : Nat) => (lane n (s.me.vreg r).val j).toNat
    let raised := fun (js : List Nat) (fl : Nat → FFlags) => js.foldl (fun x j => x.or (fl j)) {}
    let ends := fun (i : Instr) (o : OpSpec) (js : List Nat) (fl : Nat → FFlags) (done : State → Prop) =>
      let t := s.modMe fun q => { q with fpc := q.fpc ||| (raised js fl).mask }
      issuable i s = true → sourcesReady o s = true →
        (fpTrap s.me.fpc (raised js fl) = none → ∃ u, exec i s = .next u ∧ done u) ∧
        (∀ e, fpTrap s.me.fpc (raised js fl) = some e → s.me.settled = true →
          exec i s = .next (takeTrap t t.cur.1 t.cur.2 (0x140 + e)
            (BitVec.ofNat 64 ((js.find? fun j => (fl j).detail e).getD 0))))
    let arith := fun (i : Instr) (vs : List VReg) (o : FpOp) =>
      let r := fun j => F.apply rm o (el (vs.getD 0 0) j) (el (vs.getD 1 0) j) (el (vs.getD 2 0) j)
      let js := (List.range (512 / n)).filter g.getLsbD
      ends i { vs := vs, ms := [m], dv := some v } js (fun j => (r j).2) fun u =>
        (∀ j < 512 / n, lane n (u.me.vreg v).val j = if g.getLsbD j then BitVec.ofNat n (r j).1 else lane n (s.me.vreg v).val j) ∧
        (∀ x, x ≠ v → u.me.vreg x = s.me.vreg x) ∧ u.me.fpc = s.me.fpc ||| (raised js fun j => (r j).2).mask ∧
        u.me.pc = s.me.pc + 4 ∧ u.me.regs = s.me.regs ∧ u.mem = s.mem
    arith (.vfadd v a b m f) [a, b] .add ∧ arith (.vfsub v a b m f) [a, b] .sub ∧ arith (.vfmul v a b m f) [a, b] .mul ∧
    arith (.vfma v a b m f) [a, b, v] .fma ∧ arith (.vfmin v a b m f) [a, b] .min ∧
    arith (.vfmax v a b m f) [a, b] .max ∧ arith (.vfdiv v a b m f) [a, b] .div ∧ arith (.vfsqrt v a m f) [a] .sqrt ∧
    (let r := fun j => fcmpX c (F.decode (el a j)) (F.decode (el b j))
     let js := (List.range (512 / n)).filter g.getLsbD
     ends (.vfcmp d a b m f c) { vs := [a, b], ms := [m, d] } js (fun j => (r j).2) fun u =>
       (∀ j < 64, d ≠ 0 → (u.me.mask d).getLsbD j =
         if 512 / n ≤ j then false else if g.getLsbD j then (r j).1 else (s.me.mask d).getLsbD j) ∧
       u.me.fpc = s.me.fpc ||| (raised js fun j => (r j).2).mask ∧ u.me.vregs = s.me.vregs ∧ u.me.pc = s.me.pc + 4) ∧
    (let ws := (vcvtWidths k).1
     let wd := (vcvtWidths k).2
     let N := 512 / max ws wd
     let dst := fun i => if wd ≤ ws then p.toNat * N + i else i
     let from_ := fun j => if wd ≤ ws then j - p.toNat * N else p.toNat * N + j
     let r := fun j => vcvtElem rm k ((lane ws (s.me.vreg a).val (from_ j)).toNat)
     let js := ((List.range N).map dst).filter g.getLsbD
     p.toNat < k.ratio → ends (.vcvt v a k m p) { vs := [a], ms := [m], dv := some v } js (fun j => (r j).2) fun u =>
       (∀ j < 512 / wd, lane wd (u.me.vreg v).val j =
         if j ∈ js then BitVec.ofNat wd (r j).1 else lane wd (s.me.vreg v).val j) ∧
       (∀ x, x ≠ v → u.me.vreg x = s.me.vreg x) ∧ u.me.fpc = s.me.fpc ||| (raised js fun j => (r j).2).mask ∧
       u.me.pc = s.me.pc + 4)

/-- The branches (R78, R334, R338, R340): the target is the word's own address plus four times the displacement, which one
HINT.DISP widens to 32 bits; a conditional branch that is not taken goes to the next word. -/
def Obligations.Branches : Prop :=
  ∀ (s : State) (a b : Reg) (x y : MReg) (c : Cond) (q : MaskCond) (d : BitVec 26) (e : BitVec 10),
    let disp : Va := match hintsOf 4 s.me.hints with
      | [] => e.signExtend 48
      | p :: _ => (BitVec.ofNat 22 p ++ e).signExtend 48
    (issuable (.b d) s = true → exec (.b d) s = .next (jumped s [] (s.me.pc + 4 * d.signExtend 48))) ∧
    (issuable (.bc c a b e) s = true → sourcesReady { cs := [a, b] } s = true →
      exec (.bc c a b e) s = .next (if condOf c (operand s [a, b] 0) (operand s [a, b] 1)
        then jumped s [a, b] (s.me.pc + 4 * disp) else completed s [a, b])) ∧
    (let m := s.me.mask x &&& s.me.mask y
     let taken : Bool := match q with
       | .none => m == 0
       | .any => m != 0
       | .all => m == s.me.mask y
       | .nall => m != s.me.mask y
     issuable (.bm q x y e) s = true → sourcesReady { ms := [x, y] } s = true →
      exec (.bm q x y e) s = .next (if taken then jumped s [] (s.me.pc + 4 * disp) else completed s []))

/-- CALL, JR, CALLR and RET (R341, R342): the target is read first; a target with its low two bits or its high 16 bits not
zero traps with 0x101 or 0x0C1 and changes nothing; the link goes to c30 before the registers of DEADMASK die (R63), and
JR kills none. A load that is still to write a register which the word kills is waited for. -/
def Obligations.CallsAndJumps : Prop :=
  ∀ (s : State) (a : Reg) (d : BitVec 26),
    let link : TCap := dataCap (s.me.pc.setWidth 64 + 4)
    let dies := fun (t : State) => t.modMe fun c => c.killAll (deadRegs s.myCore.cregs.deadmask)
    let waits := (deadRegs s.myCore.cregs.deadmask).any s.me.pendingReg
    (issuable (.call d) s = true → sourcesReady { dc := some 30 } s = true → takes s 30 link.data = true → waits = false →
      exec (.call d) s = .next (jumped (dies (s.put 30 link)) [] (s.me.pc + 4 * d.signExtend 48))) ∧
    (let t := operand s [a] 0
     issuable (.jr a) s = true → sourcesReady { cs := [a] } s = true →
      (t.extractLsb' 0 2 ≠ 0 → Traps (.jr a) s 0x101 t) ∧
      (t.extractLsb' 0 2 = 0 → t.extractLsb' 48 16 ≠ 0 → Traps (.jr a) s 0x0C1 t) ∧
      (t.extractLsb' 0 2 = 0 → t.extractLsb' 48 16 = 0 → exec (.jr a) s = .next (jumped s [a] (t.setWidth 48)))) ∧
    (let t := operand s [a] 0
     issuable (.callr a) s = true → sourcesReady { cs := [a], dc := some 30 } s = true →
      (t.extractLsb' 0 2 ≠ 0 → Traps (.callr a) s 0x101 t) ∧
      (t.extractLsb' 0 2 = 0 → t.extractLsb' 48 16 ≠ 0 → Traps (.callr a) s 0x0C1 t) ∧
      (t.extractLsb' 0 2 = 0 → t.extractLsb' 48 16 = 0 → takes s 30 link.data = true → waits = false →
        exec (.callr a) s = .next (jumped (dies (s.put 30 link)) [a] (t.setWidth 48)))) ∧
    (let t := operand s [30] 0
     issuable .ret s = true → sourcesReady { cs := [30] } s = true →
      (t.extractLsb' 0 2 ≠ 0 → Traps .ret s 0x101 t) ∧
      (t.extractLsb' 0 2 = 0 → t.extractLsb' 48 16 ≠ 0 → Traps .ret s 0x0C1 t) ∧
      (t.extractLsb' 0 2 = 0 → t.extractLsb' 48 16 = 0 → waits = false →
        exec .ret s = .next (jumped (dies s) [30] (t.setWidth 48))))

/-- Dead registers (R63): the dead marking reaches exactly the registers whose DEADMASK bit is 1 and that are no bound stream
register (R197), whose reads then give untagged zero and never wait for a presence bit; any write revives. What holds a word back before its operation (R43, R58, R123, R164, R243, R246): a source whose result is still on its way, or that
an outstanding load still has to write, stalls it; else sources with a clear presence bit park the carrel until they are set; else an erroneous source traps with
0x381, or 0x382 for poisoned data, with the recorded address in DEFERR and TVAL. Without any of these, and with no stream among
the sources, the word goes on. That a word also waits for a load that still writes its destination (log entry 15) and which of
two marks it takes (log entry 88) are the model's. -/
def Obligations.DeadRegistersAndSources : Prop :=
  (∀ (c : Carrel) (mask : Word) (r q : Reg) (v : TCap),
    let k := c.killAll (deadRegs mask)
    (c.stream r = none → mask.getLsbD r.toNat = true →
      k.read r = {} ∧ k.absent r = false ∧ k.marked r = none) ∧
    (mask.getLsbD r.toNat = false → k.creg r = c.creg r ∧ k.read r = c.read r) ∧
    (c.stream r ≠ none → k.creg r = c.creg r) ∧
    k.streams = c.streams ∧ k.vregs = c.vregs ∧ k.masks = c.masks ∧ k.pc = c.pc ∧
    (r ≠ 0 → (k.write r v).read r = v ∧ (k.write r v).absent r = false) ∧
    (q ≠ r → (k.write r v).read q = k.read q) ∧ (k.write 0 v) = k) ∧
  (∀ (s : State) (i : Instr) (a b d : Reg) (f : List Word → Word),
    let o : OpSpec := { cs := [a, b], dc := some d }
    let waits := s.me.late o || s.me.pendingReg a || s.me.pendingReg b || s.me.pendingReg d
    let away := [a, b].filter s.me.absent
    issuable i s = true → isSync i = false → exec i s = dataWord i d [a, b] s f →
      (waits = true → exec i s = .next s) ∧
      (waits = false → away ≠ [] →
        exec i s = .next (s.setMe { s.me with st := .parked, park := some { why := .presence away, pops := [a, b] } })) ∧
      (∀ m, waits = false → away = [] → (s.me.marked a = some m ∨ (s.me.marked a = none ∧ s.me.marked b = some m)) →
        s.me.settled = true →
        exec i s = .next (takeTrap (s.setMe { s.me with deferr := m.addr }) s.cur.1 s.cur.2
          (if m.poison then 0x382 else 0x381) m.addr)) ∧
      (waits = false → away = [] → s.me.marked a = none → s.me.marked b = none → s.me.stream a = none →
        s.me.stream b = none → eccFails s.me o = false → sourcesReady o s = true ∧
        operand s [a, b] 0 = (s.me.read a).data ∧ operand s [a, b] 1 = (s.me.read b).data))

/-- The hint words (R80 to R83, R363): the first and the second of a group join it and change nothing else; a third traps with
0x044 at itself. -/
def Obligations.HintWords : Prop :=
  ∀ (s : State) (p : BitVec 22) (i : BitVec 5) (n : BitVec 16) (q : CachePol),
    ∀ w ∈ [Instr.hintImm p, .hintScope i, .hintYield n, .hintCache q, .hintDisp p, .hintPrio, .hintNop],
      s.me.issues = true →
        (s.me.hints.length ≠ 2 →
          exec w s = .next (s.setMe { s.me with hints := s.me.hints ++ [encode w], pc := s.me.pc + 4 })) ∧
        (s.me.hints.length = 2 → Traps w s 0x044 ((encode w).setWidth 64))

/-- Taking a trap at level 0 (R119): EPC is the first word of the group, CAUSE the code with the number of hints before the
word, TVAL the value, PLV the level before; the carrel becomes Runtime at level 1 at the context's TVEC. Its registers, masks,
vectors, FPC, streams and outbox, the memory, and every other carrel are as they were. A trap at level 1 is a double trap (R124): the carrel halts with its pending EPC, CAUSE and TVAL as they were, and the
resident OS receives the context, the core and the carrel, the pending EPC, CAUSE and TVAL, and the second cause with its address
and value; a hub interrupt is then pending for each of the
16 control cores, which is the model's reading of R361 (log entries 11, 13). At level 2 a trap enters the resident OS at its own TVEC and
the level stays 2. -/
def Obligations.TrapEntry : Prop :=
  (∀ (s : State) (c i code : Nat) (v : Word),
    let k := s.carrel c i
    let t := takeTrap s c i code v
    let k' := t.carrel c i
    k.lv = 0 →
      k'.epc = k.pc - BitVec.ofNat 48 (4 * k.hints.length) ∧
      (code < 1024 → k.hints.length < 4 → k'.cause.toNat = 1024 * k.hints.length + code) ∧
      k'.tval = v ∧ k'.plv = 0 ∧ k'.lv = 1 ∧ k'.st = .runtime ∧ k'.pc = (s.ctx (s.core c).ctx).tvec ∧ k'.hints = [] ∧
      k'.regs = k.regs ∧ k'.masks = k.masks ∧ k'.vregs = k.vregs ∧ k'.fpc = k.fpc ∧ k'.streams = k.streams ∧
      k'.outbox = k.outbox ∧ k'.deferr = k.deferr ∧ t = s.setCarrel c i k') ∧
  (∀ (s : State) (c i code : Nat) (v : Word),
    let k := s.carrel c i
    let t := takeTrap s c i code v
    let k' := t.carrel c i
    (k.lv = 1 →
      k' = { k with st := .halted, second := some (code, v, k.pc) } ∧ 
      t.outs = s.outs ++ [.osReport { ctx := (s.core c).ctx, core := c, carrel := i, epc := k.epc, pending := k.cause,
                                      ptval := k.tval, cause := code, tval := v, pc := k.pc }] ∧
      t.hub = { s.hub with osIrq := List.range 16 } ∧ t.mem = s.mem ∧ ∀ d j, (d, j) ≠ (c, i) → t.carrel d j = s.carrel d j) ∧
    (k.lv = 2 →
      k'.lv = 2 ∧ k'.plv = 2 ∧ k'.st = k.st ∧ k'.pc = (s.ctx (s.core c).ctx).tvec ∧ k'.tval = v ∧
      k'.epc = k.pc - BitVec.ofNat 48 (4 * k.hints.length) ∧ k'.regs = k.regs ∧ t.outs = s.outs))

/-- ERET (R120, R126, R354), which issues at level 1 only: the level comes back from PLV and control goes to EPC; at an abortive cause it
abandons the activation instead: the outbox is discarded, the message retires, the tag's ACT falls by one and the carrel is
Free. -/
def Obligations.EretReturns : Prop :=
  ∀ s : State, issuable .eret s = true → s.me.settled = true →
    (causeIsAbortive s.me.cause = false →
      exec .eret s = .next (jumped
        (s.modMe fun x => { x with lv := x.plv, st := if x.plv = 1 then .runtime else .running }) [] s.me.epc)) ∧
    (causeIsAbortive s.me.cause = true → s.me.pair = false →
      ∃ t, exec .eret s = .next t ∧ t.me.st = .free ∧ t.me.outbox = [] ∧
        (∀ e ∈ t.myCore.inbox, e.id ≠ s.me.entry) ∧ t.myCore.queue = s.myCore.queue ∧ t.mem = s.mem ∧
        (t.myCore.tagOf s.me.tag).act = (s.myCore.tagOf s.me.tag).act - 1)

/-- TRAP (R129, R399) and a word that is no instruction (R85): each raises its own cause and has no other effect. The privilege of R67 and R120, R361, R383: below its level a word raises 0x042 with the word as TVAL and has no effect.
SYSR of CAUSE, EPC, TVAL and TVEC, SYSW of all but DEADMASK, FPC, LTMO and BTMO, SYSW RTTW, TWIN and SCPBASE, ERET and RTINV
need level 1; SYSW TVEC and CTXID and HALT need level 2. ERET and RTINV are legal at level 1 only; that they raise 0x042 at level 2
as well is read from R120 (log entry 87). -/
def Obligations.ExceptionWords : Prop :=
  (∀ (s : State) (c : BitVec 12) (w : Insn),
    (issuable (.trap c) s = true → Traps (.trap c) s (0x340 + c.toNat % 64) (c.setWidth 64)) ∧
    (s.me.issues = true → Traps (.illegalInstruction w) s 0x041 (w.setWidth 64))) ∧
  (∀ (s : State) (d a : Reg),
    let low : List Instr := [.sysr d .cause, .sysr d .epc, .sysr d .tval, .sysr d .tvec, .sysw a .status, .sysw a .cause,
      .sysw a .epc, .sysw a .tval, .sysw a .deferr, .syswRttw a, .syswTwin a, .syswScpbase a, .eret, .rtinv a]
    let high : List Instr := [.sysw a .tvec, .sysw a .ctxid, .halt]
    ∀ i, (i ∈ low ∧ s.me.lv = 0) ∨ ((i = .eret ∨ i = .rtinv a) ∧ s.me.lv = 2) ∨ (i ∈ high ∧ s.me.lv.toNat < 2) →
      s.me.issues = true → illegalNow s i = none → (isSync i && isTwin s) = false → isPrimary s = false →
      Traps i s 0x042 ((encode i).setWidth 64))


/-- What a system register holds (R46, R67 to R69, R117, R118, R256): its fields at their places, and zero in every reserved bit. -/
def sysHolds (s : State) (n : SysReg) : Word :=
  let c := s.me
  let k := s.myCore
  let r := k.cregs
  let al := allotOf s s.cur.1
  match n with
  | .status => (0 : BitVec 52) ++ BitVec.ofNat 2 c.rply ++ BitVec.ofBool c.pair ++ BitVec.ofBool c.nr ++
      BitVec.ofNat 3 s.cur.2 ++ BitVec.ofBool k.pol ++ c.plv ++ c.lv
  | .cause => c.cause.setWidth 64
  | .epc => c.epc.setWidth 64
  | .tval => c.tval
  | .tvec => s.myCtx.tvec.setWidth 64
  | .deadmask => r.deadmask
  | .fpc => c.fpc.setWidth 64
  | .ltmo => r.ltmo
  | .btmo => r.btmo
  | .ctxid => (0 : BitVec 40) ++ BitVec.ofNat 8 s.myCtx.colour ++ BitVec.ofNat 16 k.ctx
  | .coord => match k.bay with
    | none => 0
    | some b => (0 : BitVec 14) ++ BitVec.ofNat 2 (b.nwing - 1) ++ (0 : BitVec 2) ++ BitVec.ofNat 6 (b.nbay - 1) ++
        (0 : BitVec 4) ++ BitVec.ofNat 4 (b.bayn - 1) ++ (0 : BitVec 8) ++ BitVec.ofNat 4 b.stage ++ (0 : BitVec 2) ++
        BitVec.ofNat 2 b.wing ++ (0 : BitVec 2) ++ BitVec.ofNat 6 b.bay ++ (0 : BitVec 4) ++ BitVec.ofNat 4 b.cib
  | .epoch => s.hub.epoch.setWidth 64
  | .time => s.hub.time
  | .deferr => c.deferr
  | .twin => (0 : BitVec 15) ++ BitVec.ofNat 4 al.aln ++ BitVec.ofNat 3 al.alb ++ (0 : BitVec 1) ++
      BitVec.ofNat 5 al.tln ++ BitVec.ofNat 4 al.tlb ++ (0 : BitVec 9) ++ BitVec.ofNat 4 r.acnt ++
      BitVec.ofNat 3 r.abase ++ (0 : BitVec 7) ++ BitVec.ofNat 5 r.tcnt ++ BitVec.ofNat 4 r.tbase
  | .scpbase => r.scpbase
  | .caplist => s.hub.caplist
  | .rttw => 0

/-- No other carrel of the core has written the register in this cycle (R397). -/
def unwritten (s : State) (n : SysReg) : Prop := ∀ j w, fget s.myCore.sysOld n.code = some (j, w) → j = s.cur.2

/-- The state after the executing carrel's write of a register that the carrels share, `t` being the one with the value written:
within a cycle the lowest carrel's write stands, and the core keeps the value before the first (R68, R397). -/
def sharedWrite (s : State) (n : SysReg) (t : State) : State :=
  match fget s.myCore.sysOld n.code with
  | none => t.modCore s.cur.1 fun k => { k with sysOld := fset k.sysOld n.code (s.cur.2, sysHolds s n) }
  | some (j, old) =>
    if j < s.cur.2 then s else t.modCore s.cur.1 fun k => { k with sysOld := fset k.sysOld n.code (s.cur.2, old) }

/-- SYSR (R46, R67 to R69, R117, R118, R256, R396) gives what the register holds, or what it held before this cycle where another
carrel of the core has written it (R397). A core in no bay reads COORD as 0 (the model's choice, log entry 12). SYSW (R68, R69,
R117, R118, R202, R212, R396, R397): the writable fields take the bits of cA and nothing else changes; of the writes of a shared
register in one cycle the lowest carrel's stands. It waits until every earlier load of the carrel is over, since no replay undoes
it (log entry 18). -/
def Obligations.SystemRegisters : Prop :=
  (∀ (s : State) (d : Reg) (n : SysReg), n ≠ .rttw →
    (unwritten s n → GivesData (.sysr d n) d [] s (sysHolds s n)) ∧
    (∀ j w, fget s.myCore.sysOld n.code = some (j, w) → j ≠ s.cur.2 →
      GivesData (.sysr d n) d [] s (if n = .status
        then (sysHolds s n).extractLsb' 5 59 ++ BitVec.ofBool (w.getLsbD 4) ++ (sysHolds s n).extractLsb' 0 4 else w))) ∧
  (∀ (s : State) (a : Reg) (n : SysReg),
    let w := operand s [a] 0
    let c := s.cur.1
    let x := s.ctx s.myCore.ctx
    let cregs := fun (f : CtxRegs → CtxRegs) => sharedWrite s n (s.modCore c fun k => k.setCregs (f k.cregs))
    let o : OpSpec := { cs := [a] }
    let i : Instr := .sysw a n
    n.writable = true → issuable i s = true → sourcesReady o s = true → s.me.settled = true →
      exec i s = .next (finished i o s (match n with
        | .status => sharedWrite s n (s.modCore c fun k => { k with pol := w.getLsbD 4 })
        | .cause => s.modMe fun k => { k with cause := w.extractLsb' 0 12 }
        | .epc => s.modMe fun k => { k with epc := w.extractLsb' 2 46 ++ (0 : BitVec 2) }
        | .tval => s.modMe fun k => { k with tval := w }
        | .tvec => sharedWrite s n (s.setCtx s.myCore.ctx { x with tvec := w.extractLsb' 2 46 ++ (0 : BitVec 2) })
        | .fpc => s.modMe fun k => { k with fpc := w.extractLsb' 0 13 }
        | .deadmask => cregs fun r => { r with deadmask := w &&& 0x0FFFFFFF9FFFFC00 }
        | .ltmo => cregs fun r => { r with ltmo := (w.extractLsb' 0 40).setWidth 64 }
        | .btmo => cregs fun r => { r with btmo := (w.extractLsb' 0 40).setWidth 64 }
        | .deferr => s.modMe fun k => { k with deferr := w }
        | .ctxid =>
          let m := (w.extractLsb' 0 16).toNat
          sharedWrite s n
            ((s.setCtx m { s.ctx m with colour := (w.extractLsb' 16 8).toNat }).modCore c fun k => { k with ctx := m })
        | _ => s)))

/-- The layout of DEADMASK (R62): after a SYSW of w, bit i is bit i of w for i of 10 to 28 and 31 to 59 and zero for every
other, and SYSR reads just that, where no other carrel of the core has written it in this cycle (R397); at reset every bit is 0. A register whose bit is 1, and that is no bound stream register (R197), is
dead after a CALL, CALLR or RET. -/
def Obligations.DeadmaskLayout : Prop :=
  (∀ (s : State) (a : Reg), issuable (.sysw a .deadmask) s = true → sourcesReady { cs := [a] } s = true →
    s.me.settled = true → unwritten s .deadmask → ∃ t, exec (.sysw a .deadmask) s = .next t ∧
      ∀ i < 64, t.myCore.cregs.deadmask.getLsbD i =
        ((operand s [a] 0).getLsbD i && ((10 ≤ i && i ≤ 28) || (31 ≤ i && i ≤ 59)))) ∧
  (∀ (s : State) (d : Reg), unwritten s .deadmask → GivesData (.sysr d .deadmask) d [] s s.myCore.cregs.deadmask) ∧
  (∀ c, (State.reset.core c).cregs.deadmask = 0) ∧
  (∀ (s : State) (a r : Reg) (d : BitVec 26),
    let m := s.myCore.cregs.deadmask
    let link : Word := s.me.pc.setWidth 64 + 4
    let target := fun (b : Reg) => (operand s [b] 0).extractLsb' 0 2 = 0 ∧ (operand s [b] 0).extractLsb' 48 16 = 0
    let dies := fun (i : Instr) => ∃ t, exec i s = .next t ∧ t.me.read r = {} ∧ t.me.absent r = false
    m.getLsbD r.toNat = true → s.me.stream r = none → (deadRegs m).any s.me.pendingReg = false →
      (issuable (.call d) s = true → sourcesReady { dc := some 30 } s = true → takes s 30 link = true → dies (.call d)) ∧
      (issuable (.callr a) s = true → sourcesReady { cs := [a], dc := some 30 } s = true → takes s 30 link = true → target a →
        dies (.callr a)) ∧
      (issuable .ret s = true → sourcesReady { cs := [30] } s = true → target 30 → dies .ret))

/-- SYSW TWIN, SYSW SCPBASE and SYSW RTTW (R113, R256, R387). TWIN takes a window inside the allotment and otherwise traps with
0x202 and the lowest tile or accumulator outside. A SCPBASE that changes BASE or clears EN unsets entries 6 to 31. RTTW
rewrites the second half of the delegated entry with the image's range, once the image has arrived. -/
def Obligations.ContextWrites : Prop :=
  ∀ (s : State) (a : Reg),
    let w := operand s [a] 0
    let c := s.cur.1
    let o : OpSpec := { cs := [a] }
    let al := allotOf s c
    let base := (w.extractLsb' 0 4).toNat
    let cnt := (w.extractLsb' 4 5).toNat
    let abase := (w.extractLsb' 16 3).toNat
    let acnt := (w.extractLsb' 19 4).toNat
    let tileIn := fun n => al.tlb ≤ n ∧ n < al.tlb + al.tln
    let accIn := fun n => al.alb ≤ n ∧ n < al.alb + al.aln
    (issuable (.syswTwin a) s = true → sourcesReady o s = true → isPrimary s = false →
      ((∀ j < cnt, tileIn (base + j)) → (∀ j < acnt, accIn (abase + j)) → s.me.settled = true →
        exec (.syswTwin a) s = .next (finished (.syswTwin a) o s (sharedWrite s .twin (s.modCore c fun k =>
          k.setCregs { k.cregs with tbase := base, tcnt := cnt, abase := abase, acnt := acnt })))) ∧
      (∀ n, n < cnt → ¬tileIn (base + n) → (∀ j < n, tileIn (base + j)) →
        Traps (.syswTwin a) s 0x202 (BitVec.ofNat 64 (base + n))) ∧
      (∀ n, (∀ j < cnt, tileIn (base + j)) → n < acnt → ¬accIn (abase + n) → (∀ j < n, accIn (abase + j)) →
        Traps (.syswTwin a) s 0x202 (BitVec.ofNat 64 (abase + n)))) ∧
    (issuable (.syswScpbase a) s = true → sourcesReady o s = true → s.me.settled = true →
      let old := s.myCore.cregs.scpbase
      let new := w &&& 0x8000FFFFFFFFC000
      let t := s.modCore c fun k => k.setCregs { k.cregs with scpbase := new }
      exec (.syswScpbase a) s = .next (finished (.syswScpbase a) o s (sharedWrite s .scpbase
        (if old.extractLsb' 14 34 ≠ new.extractLsb' 14 34 ∨ (old.getLsbD 63 = true ∧ new.getLsbD 63 = false)
         then t.setCtx s.myCore.ctx { s.myCtx with scopeSet := [] } else t)))) ∧
    (issuable (.syswRttw a) s = true → sourcesReady o s = true → s.me.settled = true →
      let cap := src (readSources s.me [a]) 0
      let addr := capAddr cap.val
      capCheck s c cap addr 32 (permR ||| permSYS) = none →
      (spaceOf addr = 0 ∨ (spaceOf addr = 1 ∧ s.isOwnDev (devOf addr) = true)) →
      ∀ t bs, arrived s addr 32 = some (t, bs) →
        let img := rtOfBytes (bs.map (·.1))
        ∀ j < t.myCtx.rtCount,
          (rtEntry t t.myCtx j).vgran = img.vgran → (rtEntry t t.myCtx j).len = img.len →
          (∀ m < j, ¬((rtEntry t t.myCtx m).vgran = img.vgran ∧ (rtEntry t t.myCtx m).len = img.len)) →
          (rtEntry t t.myCtx j).kind = 2 → img.kind = 2 → img.valid = true → homeBusy t (t.myCtx.rtBase + 32 * j + 16) 16 = false → t.me.settled = true →
          exec (.syswRttw a) s = .next (finished (.syswRttw a) o s
            (coherentWrite t (t.myCtx.rtBase + 32 * j + 16) ((bs.drop 16).map fun b => (b.1, false)))))

/-- RTINV (R114, R383): once the earlier loads are over, every cached entry of the context that holds the address is gone from
every core and cluster of the module; with no access in flight through one of them the word completes, else the carrel waits
for those accesses and then completes. -/
def Obligations.RtinvRemoves : Prop :=
  ∀ (s : State) (a : Reg),
    let va := (operand s [a] 0).toNat
    let ctx := s.myCore.ctx
    let u := rtinvRemove s ctx va
    let hit := fun (t : TlbEnt) => t.ctx = ctx ∧ t.ent.holds (va % 2 ^ 48 / 4096) = true
    let left := fun (ws : List (Nat × Nat)) => s.modMe fun c => { c with rtinv := ws }
    (issuable (.rtinv a) s = true → sourcesReady { cs := [a] } s = true → s.me.rtinv ≠ [] →
      ((s.me.rtinv.any (stillOut s)) = true → exec (.rtinv a) s = .next (left s.me.rtinv)) ∧
      ((s.me.rtinv.any (stillOut s)) = false → exec (.rtinv a) s = .next (completed (left []) [a]))) ∧
    (issuable (.rtinv a) s = true → sourcesReady { cs := [a] } s = true → s.me.settled = true → s.me.rtinv = [] →
      let ws := inFlight s ctx (inEntries (rtinvEntries s ctx va))
      (ws = [] → exec (.rtinv a) s = .next (completed (u.modMe fun c => { c with rtinv := [] }) [a])) ∧
      (ws ≠ [] → exec (.rtinv a) s = .next (u.modMe fun c => { c with rtinv := ws })) ∧
      (∀ p ∈ u.cores, ∀ t ∈ p.2.tlb, ¬hit t) ∧ (∀ p ∈ u.clusters, ∀ t ∈ p.2.rtc, ¬hit t) ∧
      (∀ p ∈ s.cores, ∀ t ∈ p.2.tlb, ¬hit t → ∃ q ∈ u.cores, q.1 = p.1 ∧ t ∈ q.2.tlb) ∧ u.mem = s.mem)

/-- The words of LOCQ (R12, R294 to R298, R371). EPOCH gives the count in [31:0]; WHERE gives the place of the named core, or of
the issuing core under c0, with PSLOT 0x1F where no physical core stands behind it; a core that is named and not in an open bay of the context traps with 0x242. -/
def Obligations.LocqPlaces : Prop :=
  ∀ (s : State) (d a : Reg),
    let v := operand s [a] 0
    let core := if a = 0 then s.cur.1 else (v.extractLsb' 0 12).toNat
    let named := v.extractLsb' 28 36 = 0 ∧ v.extractLsb' 12 4 = 0 ∧ s.isOwnDev (v.extractLsb' 16 12).toNat = true ∧
      inOpenBay s s.myCore.ctx (v.extractLsb' 0 12).toNat = true
    GivesData (.locqEpoch d) d [] s ((0 : BitVec 31) ++ BitVec.ofBool s.me.moved ++ s.hub.epoch) ∧
    ((a = 0 ∨ named) → core < 4096 → GivesData (.locqWhere d a) d [a] s
      (s.hub.epoch ++ BitVec.ofBool (unbacked s core) ++ (0 : BitVec 7) ++ BitVec.ofNat 4 (torusY (core / 16)) ++
        BitVec.ofNat 4 (torusX (core / 16)) ++ BitVec.ofNat 2 (core / 1024) ++ BitVec.ofNat 3 (core / 16 % 64 / 8) ++
        BitVec.ofNat 3 (core / 16 % 8) ++ (0 : BitVec 3) ++
        (if unbacked s core then 0x1F else BitVec.ofNat 5 (physOf s core)))) ∧
    (a ≠ 0 → ¬named → ∀ i, i = .locqWhere d a ∨ i = .locqHops d a → issuable i s = true →
      sourcesReady { cs := [a], dc := some d } s = true → Traps i s 0x242 v)

/-- LOCQ.HOPS (R298): the torus distance of the issuing core's cluster and the named core's, from their coordinates on the
16 × 16 torus. -/
def Obligations.LocqHops : Prop :=
  ∀ (s : State) (d a : Reg),
    let v := operand s [a] 0
    let core := if a = 0 then s.cur.1 else (v.extractLsb' 0 12).toNat
    let k := s.cur.1 / 16
    let j := core / 16
    let dist := fun (p q : Nat) => min ((p : Int) - q).natAbs (16 - ((p : Int) - q).natAbs)
    let hx := dist (torusX k) (torusX j)
    let hy := dist (torusY k) (torusY j)
    s.cur.1 < 4096 → (a = 0 ∨ locqTarget s a v = some core) →
      hx ≤ 8 ∧ hy ≤ 8 ∧
      GivesData (.locqHops d a) d [a] s
        ((0 : BitVec 51) ++ BitVec.ofNat 5 (hx + hy) ++ BitVec.ofNat 4 hy ++ BitVec.ofNat 4 hx)

/-- SCPSET and SCPGET (R173, R387). SCPGET of an id below 6 gives the id as COVER and counts its cores; of an unset entry it gives
0, and the activation keeps that reading. SCPSET writes the bitmap, without the bits of cores that are in no open bay of the context, to the slot of its id and
sets the entry. The word 0 of an unset entry, and id 5 counting this module's cores alone, are the model's (log entry
20). -/
def Obligations.ScopeTable : Prop :=
  ∀ (s : State) (d a : Reg) (i : BitVec 6),
    (i.toNat < 6 → GivesSync (.scpget d i) d [] s ((1 : BitVec 1) ++ (0 : BitVec 44) ++ i.extractLsb' 0 3 ++ (0 : BitVec 3) ++
      BitVec.ofNat 13 (fixedScope s s.cur.1 i.toNat).length)) ∧
    (6 ≤ i.toNat → fget s.me.scopes i.toNat = none → s.myCtx.scopeSet.contains i.toNat = false →
      issuable (.scpget d i) s = true → sourcesReady { dc := some d } s = true → takes s d 0 = true →
      exec (.scpget d i) s = .next (finished (.scpget d i) { dc := some d } s (State.putData
        (s.modMe fun c => { c with scopes := fset c.scopes i.toNat { isSet := false, cover := 1, cores := [] } }) d 0))) ∧
    (∀ r, 6 ≤ i.toNat → fget s.me.scopes i.toNat = some r → GivesSync (.scpget d i) d [] s
      (if r.isSet then (1 : BitVec 1) ++ (0 : BitVec 44) ++ BitVec.ofNat 3 r.cover ++ (0 : BitVec 3) ++
        BitVec.ofNat 13 r.cores.length else 0)) ∧
    (issuable (.scpset a i) s = true → sourcesReady { cs := [a] } s = true →
      let cap := src (readSources s.me [a]) 0
      let addr := capAddr cap.val
      (isPrimary s = false → addr % 64 ≠ 0 → Traps (.scpset a i) s 0x101 (BitVec.ofNat 64 addr)) ∧
      (addr % 64 = 0 → capCheck s s.cur.1 cap addr 512 permR = none →
        ∀ t bs u p e, arrived s addr 512 = some (t, bs) →
          translate t t.cur.1 t.myCore.ctx (scopeSlot t.myCore.cregs.scpbase i.toNat) .vecW (t.cur.1 / 1024) = (u, .ok p e) →
          let pa := p * 4096 + scopeSlot t.myCore.cregs.scpbase i.toNat % 4096
          hasDram pa = true → homeBusy u pa 512 = false → u.me.settled = true →
          let x := coherentWrite u pa (clearClosed u t.myCore.ctx bs)
          exec (.scpset a i) s = .next (finished (.scpset a i) { cs := [a] } s
            (x.setCtx t.myCore.ctx { x.ctx t.myCore.ctx with
              scopeSet := insertNat (x.ctx t.myCore.ctx).scopeSet i.toNat })))) ∧
    (∀ (bs : List TByte) (n : Nat), n < bs.length → ∀ j < 8,
      (((clearClosed s s.myCore.ctx bs).getD n (0, false)).1).getLsbD j =
        (((bs.getD n (0, false)).1).getLsbD j && inOpenBay s s.myCore.ctx (8 * n + j)))

/-- LD (R107, R108, R111, R164, R190, R367 to R369). A misaligned address and a failing capability trap; else the load issues,
and its word completes once nothing holds it back. A load of a cistern cell of the access's own size gives the view (R207,
R208), sign-extended for LD.W; any other size traps with 0x182. -/
def Obligations.LoadWord : Prop :=
  ∀ (s : State) (d a : Reg) (w : LdWidth) (o : BitVec 11),
    let cap := src (readSources s.me [a]) 0
    let n := ldBytes w
    let addr := effAddr cap (o.toInt * n)
    let x : Word := BitVec.ofNat 64 addr
    let i : Instr := .ld d a w o
    issuable i s = true → sourcesReady { cs := [a], dc := some d } s = true →
      (addr % n ≠ 0 → Traps i s 0x101 x) ∧
      (addr % n = 0 → ∀ c, capCheck s s.cur.1 cap addr n permR = some c → Traps i s c x) ∧
      (addr % n = 0 → capCheck s s.cur.1 cap addr n permR = none → takesAny s d →
        (∀ t c v, places s s.cur.1 s.myCore.ctx addr n .read = (t, .error (c, v)) → s.me.settled = true →
          exec i s = .next (takeTrap t t.cur.1 t.cur.2 c (BitVec.ofNat 64 v))) ∧
        (∀ t p, places s s.cur.1 s.myCore.ctx addr n .read = (t, .ok p) →
          let u := (opScope t 4).1
          let free := siphStalls u u.cur.1 [(addr, n)] = .go
          (cellOf p = none → free →
            let l := { plainAccess u (.reg d w (hasPerms (capPerms cap.val) permTGL)) addr n with
              elems := [elemOf p.window (opScope t 4).2 0 addr p.locs] }
            loadGoes u l = true → ∃ r, issueLoad u l = .done r ∧ exec i s = .next (completed r [a])) ∧
          (∀ pa typ, cellOf p = some (pa, typ) →
            (n ≠ cellSize typ ∨ w = .q → Traps i s 0x182 x) ∧
            (free → n = cellSize typ → w ≠ .q → hasDram pa = true →
              loadHeld u ((List.range n).map fun j => .mem (pa + j)) = false →
              ∀ z v, viewCell u u.cur.1 u.cur.2 pa typ n (cacheHint u.me.hints) = (z, v, false) →
                exec i s = .next (completed (z.put d (dataCap (match w with
                  | .w => (BitVec.ofNat 32 v).signExtend 64
                  | _ => BitVec.ofNat 64 (v % 2 ^ (8 * n))))) [a])))))

/-- The value of an LD whose bytes can be read at once (R55, R72, R106, R164, R368): little-endian, sign- or zero-extended by
its width; LD.Q takes the tag when the capability has TGL and all sixteen bytes are tagged. Nothing else changes but the
number of the access, the folio caches with the catalogue's messages (R136, R138), and what the module counts. -/
def Obligations.LoadedValue : Prop :=
  ∀ (s : State) (d a : Reg) (w : LdWidth) (o : BitVec 11),
    let cap := src (readSources s.me [a]) 0
    let n := ldBytes w
    let addr := effAddr cap (o.toInt * n)
    let i : Instr := .ld d a w o
    let tgl := hasPerms (capPerms cap.val) permTGL
    issuable i s = true → sourcesReady { cs := [a], dc := some d } s = true → takesAny s d → addr % n = 0 →
      capCheck s s.cur.1 cap addr n permR = none →
      ∀ t p, places s s.cur.1 s.myCore.ctx addr n .read = (t, .ok p) → cellOf p = none →
        let u := (opScope t 4).1
        let r := u.numbered
        let e := elemOf p.window (opScope t 4).2 0 addr p.locs
        let l := { plainAccess u (.reg d w tgl) addr n with elems := [e] }
        siphStalls u u.cur.1 [(addr, n)] = .go → loadGoes u l = true →
        (∀ q : Outst, q.elems = l.elems → heal r u.cur.1 q = r) →
        ∀ bs, readsNow r e.reach p.locs bs →
          let v := leNat (bs.map (·.1))
          ∃ y : State, y.mem = r.mem ∧ y.memTags = r.memTags ∧ y.ctxs = r.ctxs ∧ y.hub = r.hub ∧ y.cur = r.cur ∧ y.outs = r.outs ∧
            (∀ c, y.core c = { r.core c with l1 := (y.core c).l1 }) ∧
            exec i s = .next (completed (y.put d (match w with
            | .b => dataCap ((BitVec.ofNat 8 v).signExtend 64)
            | .h => dataCap ((BitVec.ofNat 16 v).signExtend 64)
            | .w => dataCap ((BitVec.ofNat 32 v).signExtend 64)
            | .bu => dataCap ((BitVec.ofNat 8 v).setWidth 64)
            | .hu => dataCap ((BitVec.ofNat 16 v).setWidth 64)
            | .wu => dataCap ((BitVec.ofNat 32 v).setWidth 64)
            | .d => dataCap (BitVec.ofNat 64 v)
            | .q => { val := BitVec.ofNat 128 v, tag := tgl && bs.all (·.2) })) [a])

/-- VLD, VLDS and VGATH (R108, R161, R319, R410, R411, R414 to R418): the governed elements' addresses; a misaligned one traps
with 0x101 at the lowest element; with none governed the word completes and has no effect, else it loads its elements, VLD in
aligned pairs. A gather may not reach space 3. VST, VSTS and VSCAT (R108, R165, R319, R410 to R412, R414 to R418): one outbox entry whose cells are the governed elements'
bytes in element order, so that of elements that overlap the highest wins. With none governed a store still places its entry, which
stores nothing: the model's choice (log entry 25). -/
def Obligations.VectorAccesses : Prop :=
  (∀ (s : State) (v b : VReg) (a c : Reg) (m : MReg) (o : BitVec 12) (w : ElemWidth) (f : WideElem),
    let cap := src (readSources s.me [a]) 0
    let g := s.me.mask m
    let addr := effAddr cap (o.toInt * 64)
    let words := ((List.range 16).filter g.getLsbD).map fun k => (⟨4 * k, (addr + 4 * k) % 2 ^ 64, 4⟩ : VElem)
    let z := ewBits w / 8
    let stride := (operand s [a, c] 1).toInt
    let strided := ((List.range (64 / z)).filter g.getLsbD).map fun (k : Nat) =>
      (⟨z * k, effAddr (src (readSources s.me [a, c]) 0) ((k : Int) * stride), z⟩ : VElem)
    let y := wideBytes f
    let index := fun (k : Nat) => (if y = 4 then (lane 32 (s.me.vreg b).val k).toInt else (lane 64 (s.me.vreg b).val k).toInt)
    let gathered := ((List.range (64 / y)).filter g.getLsbD).map fun k => (⟨y * k, effAddr cap (index k * y), y⟩ : VElem)
    (issuable (.vld v a m o) s = true → sourcesReady { cs := [a], ms := [m], dv := some v } s = true →
      (addr % 4 ≠ 0 → Traps (.vld v a m o) s 0x101 (BitVec.ofNat 64 addr)) ∧
      (addr % 4 = 0 → words = [] → exec (.vld v a m o) s = .next (completed s [a])) ∧
      (addr % 4 = 0 → words ≠ [] → LoadsElems (.vld v a m o) [a] s v cap false true words (pairElems words))) ∧
    (issuable (.vlds v a c w m) s = true → sourcesReady { cs := [a, c], ms := [m], dv := some v } s = true →
      (∀ e, strided.find? (fun e => e.addr % z ≠ 0) = some e → Traps (.vlds v a c w m) s 0x101 (BitVec.ofNat 64 e.addr)) ∧
      (strided = [] → exec (.vlds v a c w m) s = .next (completed s [a, c])) ∧
      ((∀ e ∈ strided, e.addr % z = 0) → strided ≠ [] →
        LoadsElems (.vlds v a c w m) [a, c] s v (src (readSources s.me [a, c]) 0) false false strided strided)) ∧
    (issuable (.vgath v a b f m) s = true → sourcesReady { cs := [a], vs := [b], ms := [m], dv := some v } s = true →
      (∀ e, gathered.find? (fun e => e.addr % y ≠ 0) = some e → Traps (.vgath v a b f m) s 0x101 (BitVec.ofNat 64 e.addr)) ∧
      (gathered = [] → exec (.vgath v a b f m) s = .next (completed s [a])) ∧
      ((∀ e ∈ gathered, e.addr % y = 0) → gathered ≠ [] →
        LoadsElems (.vgath v a b f m) [a] s v cap true false gathered gathered))) ∧
  (∀ (s : State) (v b : VReg) (a c : Reg) (m : MReg) (o : BitVec 12) (w : ElemWidth) (f : WideElem),
    let cap := src (readSources s.me [a]) 0
    let g := s.me.mask m
    let data := (s.me.vreg v).val
    let addr := effAddr cap (o.toInt * 64)
    let words := ((List.range 16).filter g.getLsbD).map fun k => (⟨4 * k, (addr + 4 * k) % 2 ^ 64, 4⟩ : VElem)
    let z := ewBits w / 8
    let cap2 := src (readSources s.me [a, c]) 0
    let stride := (operand s [a, c] 1).toInt
    let strided := ((List.range (64 / z)).filter g.getLsbD).map fun (k : Nat) =>
      (⟨z * k, effAddr cap2 ((k : Int) * stride), z⟩ : VElem)
    let y := wideBytes f
    let index := fun (k : Nat) => (if y = 4 then (lane 32 (s.me.vreg b).val k).toInt else (lane 64 (s.me.vreg b).val k).toInt)
    let gathered := ((List.range (64 / y)).filter g.getLsbD).map fun k => (⟨y * k, effAddr cap (index k * y), y⟩ : VElem)
    (issuable (.vst v a m o) s = true → sourcesReady { cs := [a], vs := [v], ms := [m] } s = true →
      (addr % 4 ≠ 0 → Traps (.vst v a m o) s 0x101 (BitVec.ofNat 64 addr)) ∧
      (addr % 4 = 0 → words = [] → exec (.vst v a m o) s = .next (completed s [a])) ∧
      (addr % 4 = 0 → words ≠ [] → StoresElems (.vst v a m o) [a] s cap false addr data 0 words)) ∧
    (issuable (.vsts v a c w m) s = true → sourcesReady { cs := [a, c], vs := [v], ms := [m] } s = true →
      (∀ e, strided.find? (fun e => e.addr % z ≠ 0) = some e → Traps (.vsts v a c w m) s 0x101 (BitVec.ofNat 64 e.addr)) ∧
      ((∀ e ∈ strided, e.addr % z = 0) →
        StoresElems (.vsts v a c w m) [a, c] s cap2 false (capAddr cap2.val) data z strided)) ∧
    (issuable (.vscat v a b f m) s = true → sourcesReady { cs := [a], vs := [v, b], ms := [m] } s = true →
      (∀ e, gathered.find? (fun e => e.addr % y ≠ 0) = some e → Traps (.vscat v a b f m) s 0x101 (BitVec.ofNat 64 e.addr)) ∧
      ((∀ e ∈ gathered, e.addr % y = 0) →
        StoresElems (.vscat v a b f m) [a] s cap true (capAddr cap.val) data y gathered)))

/-- ST (R106 to R108, R111, R165, R211, R392 to R394): a tagged ST.Q needs TGS as well; the store becomes one outbox entry of
the low bytes at the access's places, and memory and the registers do not change. A plain store to a cistern cell of its own
size becomes a join, and traps with 0x181 when the value does not reach the view. -/
def Obligations.StoreWord : Prop :=
  ∀ (s : State) (r a : Reg) (w : StWidth) (o : BitVec 11),
    let cap := src (readSources s.me [a, r]) 0
    let v := src (readSources s.me [a, r]) 1
    let n := stBytes w
    let addr := effAddr cap (o.toInt * n)
    let x : Word := BitVec.ofNat 64 addr
    let i : Instr := .st r a w o
    let tag := w == .q && v.tag
    let perm := if tag then permW ||| permTGS else permW
    issuable i s = true → sourcesReady { cs := [a, r] } s = true →
      (addr % n ≠ 0 → Traps i s 0x101 x) ∧
      (addr % n = 0 → ∀ c, capCheck s s.cur.1 cap addr n perm = some c → Traps i s c x) ∧
      (addr % n = 0 → capCheck s s.cur.1 cap addr n perm = none →
        ∀ t p, places s s.cur.1 s.myCore.ctx addr n .write = (t, .ok p) →
          let u := (opScope t 4).1
          let free := siphStalls u u.cur.1 [(addr, n)] = .go
          (cellOf p = none → free → badLoc p.locs = none → (∀ ga ls, p.locs ≠ .peer ga :: ls) → hasRoom u [(addr, n)] = true →
            exec i s = .next (completed (placed u (storeEntry u i
              (.store (p.locs.zip (natBytes n v.val.toNat)) tag) addr p.window (opScope t 4).2)) [a, r])) ∧
          (∀ ga ls, cellOf p = none → free → p.locs = .peer ga :: ls → hasRoom u [(addr, n)] = true →
            ∃ e, exec i s = .next (completed (placed u e) [a, r]) ∧ e.addr = x ∧
              (spaceOf addr ≠ 1 ∨ w = .q → e.eff = .store (p.locs.zip (natBytes n v.val.toNat)) tag)) ∧
          (∀ pa typ, cellOf p = some (pa, typ) →
            (n ≠ cellSize typ → Traps i s 0x182 x) ∧
            (n = cellSize typ → hasDram pa = true → ∀ z old,
              viewCell u u.cur.1 u.cur.2 pa typ n (cacheHint u.me.hints) = (z, old, false) →
              (geq typ (v.val.toNat % 2 ^ (8 * n)) old = false → Traps i s 0x181 x) ∧
              (geq typ (v.val.toNat % 2 ^ (8 * n)) old = true → siphStalls z z.cur.1 [(addr, n)] = .go →
                hasRoom z [(addr, n)] = true → exec i s = .next (completed (placed z (mkEntry z i
                  (.join pa typ n (BitVec.ofNat 64 (v.val.toNat % 2 ^ (8 * n)))) x)) [a, r])))))

/-- What placing an entry does (R165, R166, R170, R238, R286): with room it stands last in the outbox, numbered, and nothing else
changes; a 65th entry first sends the outbox as one drain to the commit queue and makes the activation unreplayable. Neither
changes a register, the memory, or another core. -/
def Obligations.OutboxFrame : Prop :=
  ∀ (s : State) (e : Entry),
    let t := placed s e
    hasRoom s = true →
      (s.me.outbox.length < 64 →
        t = s.setCore s.cur.1 (({ s.myCore with nextId := s.myCore.nextId + 1 } : Core).setCarrel s.cur.2
          { s.me with outbox := s.me.outbox ++ [{ e with id := s.myCore.nextId }] })) ∧
      (64 ≤ s.me.outbox.length → s.me.pair = false →
        t.myCore.queue = s.myCore.queue ++ s.me.outbox.map (fun x => { x with drain := s.myCore.nextId }) ∧
        t.me.outbox = [{ e with id := s.myCore.nextId + 1 }] ∧ t.me.nr = true) ∧
      t.me.regs = s.me.regs ∧ t.me.vregs = s.me.vregs ∧ t.me.masks = s.me.masks ∧ t.me.fpc = s.me.fpc ∧
      t.me.streams = s.me.streams ∧ t.me.loads = s.me.loads ∧ t.me.pc = s.me.pc ∧ t.me.st = s.me.st ∧ t.me.lv = s.me.lv ∧
      t.me.epc = s.me.epc ∧ t.me.cause = s.me.cause ∧ t.me.tval = s.me.tval ∧ t.me.deferr = s.me.deferr ∧
      t.mem = s.mem ∧ t.memTags = s.memTags ∧ t.clusters = s.clusters ∧ t.ctxs = s.ctxs ∧ t.hub = s.hub ∧
      (∀ c, c ≠ s.cur.1 → t.core c = s.core c) ∧ (∀ j, j ≠ s.cur.2 → t.carrel s.cur.1 j = s.carrel s.cur.1 j)

/-- AMO, CAS and FENCE (R166, R168 to R170, R331 to R333, R343, R344, R360). A misaligned address traps with 0x101, a host
address that the host's link does not serve with 0x085 (for AMO and CAS said of a core that is not the primary of a pair, whose
synchronised word also leaves its record). The value-returning forms are commit points: the outbox drains, NR is
set, and a later write of d gives the old value; on the core's own scratchpad with an empty queue it is there at once, and the
bytes hold the result. The other form is one entry, a release under REL, AR and SC. FENCE commits when asked to: NR is set and
the outbox drains; under a release order it leaves a marker, which stands alone in the outbox after a commit. -/
def Obligations.AtomicsAndFences : Prop :=
  ∀ (s : State) (d a b : Reg) (o : Order) (w : Bool) (p : AmoOp) (f : BitVec 5) (k : Bool),
    let n := if w then 4 else 8
    let own := fun (i : Instr) => isSync i = true → isPrimary s = false
    let checked := fun (i : Instr) (cap : TCap) (hostOk : Bool) (done : State → Places → ScopeRef → Prop) =>
      let addr := capAddr cap.val
      let x : Word := BitVec.ofNat 64 addr
      (addr % n ≠ 0 → own i → Traps i s 0x101 x) ∧
      (addr % n = 0 → own i → ∀ c, capCheck s s.cur.1 cap addr n (permR ||| permW) = some c → Traps i s c x) ∧
      (addr % n = 0 → capCheck s s.cur.1 cap addr n (permR ||| permW) = none →
        (spaceOf addr = 3 → hostOk = false → own i → Traps i s 0x085 x) ∧
        ((spaceOf addr ≠ 3 ∨ hostOk = true) → ∀ t q, places s s.cur.1 s.myCore.ctx addr n .rw = (t, .ok q) →
          siphStalls (opScope t 4).1 (opScope t 4).1.cur.1 [(addr, n)] = .go → badLoc q.locs = none →
          done (opScope t 4).1 q (opScope t 4).2))
    let issued := fun (i : Instr) (cs : List Reg) (op : AccOp) (new : Nat → Option Nat) (u : State) (q : Places) (sc : ScopeRef) =>
      let o' : OpSpec := { cs := cs, dc := some d }
      let addr := capAddr (src (readSources s.me cs) 0).val
      loadHeld u q.locs = false → outstanding u.myCore + 1 ≤ 256 → commits u = true → takesAny s d →
        ∃ t, issueAtomic u op d addr n q sc o = .done t ∧ exec i s = .next (finished i o' s t) ∧
          t.me.nr = true ∧ t.me.outbox = [] ∧
          (∀ region off, q.locs = (List.range n).map (fun j => Loc.scr u.cur.1 region (off + j)) →
            u.myCore.queue = [] → u.me.outbox = [] →
            let h := healRegion u u.cur.1 region off n
            let bs := (List.range n).map fun j => baseNow h h.cur.1 .caches (.scr h.cur.1 region (off + j))
            ∀ old : List TByte, bs = old.map (fun y => some (y, false)) →
              let v := leNat (old.map (·.1))
              (d ≠ 0 → u.me.stream d = none →
                t.me.read d = dataCap (if w then (BitVec.ofNat 32 v).signExtend 64 else BitVec.ofNat 64 v)) ∧
              t.myCore.l1 = (match new v with
                | some z => (scrWrite h h.cur.1 region off (tbytes n z false)).myCore.l1
                | none => h.myCore.l1))
    (let cap := src (readSources s.me [a, b]) 0
     let y := (operand s [a, b] 1).toNat
     issuable (.amo d a b o w p) s = true → sourcesReady { cs := [a, b], dc := some d } s = true →
      checked (.amo d a b o w p) cap (p == .add || p == .swap)
        (issued (.amo d a b o w p) [a, b] (.amo p (operand s [a, b] 1)) fun v => some (amoApply p n v y))) ∧
    (let cap := src (readSources s.me [a, b]) 0
     let i : Instr := .amoNoReturn a b o w p
     issuable i s = true → sourcesReady { cs := [a, b] } s = true →
      checked i cap (p == .add || p == .swap) fun u q sc =>
        hasRoom u [(capAddr cap.val, n)] = true → q.locs ≠ [] →
        ∃ e, exec i s = .next (completed (placed u e) [a, b]) ∧
          (∀ l ls, q.locs = l :: ls → e.eff = .amo l p n (operand s [a, b] 1)) ∧
          e.release = if o = .rel ∨ o = .ar ∨ o = .sc then some sc else none) ∧
    (let cap := src (readSources s.me [a, b, d]) 0
     let i : Instr := .cas d a b o w
     issuable i s = true → sourcesReady { cs := [a, b, d], dc := some d } s = true →
      checked i cap true
        (issued i [a, b, d] (.cas (operand s [a, b, d] 2) (operand s [a, b, d] 1)) fun v =>
          if v = (operand s [a, b, d] 2).toNat % 2 ^ (8 * n) then some ((operand s [a, b, d] 1).toNat % 2 ^ (8 * n)) else none)) ∧
    (let i : Instr := .fence f k o
     let u := (opScope s f.toNat).1
     issuable i s = true → sourcesReady {} s = true →
      (k = true → commits u = true) →
      (k = false → o = .rel ∨ o = .ar ∨ o = .sc → hasRoom u = true) →
      ∃ t, exec i s = .next (completed t []) ∧ t.me.regs = u.me.regs ∧ t.mem = u.mem ∧
        (k = true → t.me.nr = true ∧ t.myCore.queue = (commitPoint u u.cur.1 u.cur.2).myCore.queue ∧
          (o = .rlx ∨ o = .acq → t.me.outbox = [])) ∧
        (o = .rel ∨ o = .ar ∨ o = .sc → ∃ e, t.me.outbox.getLast? = some e ∧ e.eff = .marker ∧
          e.release = some (opScope s f.toNat).2 ∧ (k = true → t.me.outbox = [e])) ∧
        (o = .acq ∨ o = .ar ∨ o = .sc → (u.me.loads.any fun l => l.dest != .none) = true → t.me.fenceLoads = true))

/-- PREF, WBR, INVR and WBRI (R152, R323, R364 to R366). A length of zero has no effect; a failing capability and an extent
outside the egress fence trap; PREF of more than 256 granules traps with 0x102. WBR writes the Dirty bytes of the extent's
parts back, INVR removes its bytes from the cluster's caches, WBRI does both; PREF only starts fills. Each completes: PREF where it
is permitted and the core has room for its requests, the others where the extent is also mapped and, for INVR alone even with
stores queued, nothing earlier is still to be performed. Granules without DRAM are passed over, which is the model's choice (log entry 27). Registers stay, and memory does under PREF and INVR. -/
def Obligations.RangeWords : Prop :=
  ∀ (s : State) (a b : Reg),
    let cap := src (readSources s.me [a, b]) 0
    let addr := capAddr cap.val
    let len := (operand s [a, b] 1).toNat
    let x : Word := BitVec.ofNat 64 addr
    let ready := fun (i : Instr) => issuable i s = true ∧ sourcesReady { cs := [a, b] } s = true
    let common := fun (i : Instr) (perm : Nat) =>
      (len = 0 → exec i s = .next (completed s [a, b])) ∧
      (len ≠ 0 → ∀ c, capCheck s s.cur.1 cap addr len perm = some c → Traps i s c x)
    let reached := fun (perm : Nat) (acc : Acc_) (stop : Bool) (t : State) (ps : List GranPart) =>
      len ≠ 0 ∧ capCheck s s.cur.1 cap addr len perm = none ∧ egressOf s addr len = none ∧
      ∃ qs, granParts s addr acc stop (extentOf s addr len) = (t, .ok qs) ∧ ps = qs.filter fun p => !p.cistern && hasDram p.pa
    (ready (.pref a b) → common (.pref a b) permR ∧
      (len ≠ 0 → capCheck s s.cur.1 cap addr len permR = none →
        256 < (addr + len - 1) / 4096 - addr / 4096 + 1 → Traps (.pref a b) s 0x102 (operand s [a, b] 1)) ∧
      (∀ t ps, reached permR .read true t ps → (addr + len - 1) / 4096 - addr / 4096 + 1 ≤ 256 →
        outstanding t.myCore + ps.length ≤ requestMax →
        ∃ u, exec (.pref a b) s = .next (completed u [a, b]))) ∧
    (ready (.wbr a b) → common (.wbr a b) permR ∧
      (∀ t ps, reached permR .read false t ps → t.me.settled = true → queueWrites t addr len ps = false →
        exec (.wbr a b) s = .next (completed
          (ps.foldl (fun t p => writeBackPart t (clusterOf t.cur.1) p) t) [a, b]))) ∧
    (ready (.invr a b) → common (.invr a b) permW ∧
      (∀ t ps, reached permW .write false t ps → t.me.settled = true →
        exec (.invr a b) s = .next (completed
          (ps.foldl (fun t p => removePart t (clusterOf t.cur.1) p) t) [a, b]))) ∧
    (ready (.wbri a b) → common (.wbri a b) permW ∧
      (∀ t ps, reached permW .write false t ps → t.me.settled = true → queueWrites t addr len ps = false →
        exec (.wbri a b) s = .next (completed
          (ps.foldl (fun t p => removePart (writeBackPart t (clusterOf t.cur.1) p) (clusterOf t.cur.1) p) t) [a, b]))) ∧
    (∀ i ∈ [Instr.pref a b, .wbr a b, .invr a b, .wbri a b], ready i → len ≠ 0 →
      capCheck s s.cur.1 cap addr len (if i = .invr a b ∨ i = .wbri a b then permW else permR) = none →
      (i = .pref a b → (addr + len - 1) / 4096 - addr / 4096 + 1 ≤ 256) → s.me.settled = true →
      ∀ t, egressOf s addr len = some t → exec i s = .next (takeTrap t t.cur.1 t.cur.2 0x384 x)) ∧
    (let goes := fun (i : Instr) => ∃ t, exec i s = .next (completed t [a, b]) ∧ t.me.regs = s.me.regs ∧ t.me.vregs = s.me.vregs ∧
       t.me.masks = s.me.masks ∧ t.me.outbox = s.me.outbox ∧ t.ctxs = s.ctxs ∧ t.hub = s.hub ∧
       (i = .pref a b ∨ i = .invr a b → t.mem = s.mem)
     let permitted := fun (perm : Nat) => capCheck s s.cur.1 cap addr len perm = none ∧ egressOf s addr len = none
     let mapped := fun (acc : Acc_) => ∃ qs, (granParts s addr acc false (extentOf s addr len)).2 = .ok qs
     (ready (.pref a b) → permitted permR → (addr + len - 1) / 4096 - addr / 4096 + 1 ≤ 256 →
       outstanding s.myCore + ((addr + len - 1) / 4096 - addr / 4096 + 1) ≤ 256 → goes (.pref a b)) ∧
     (ready (.wbr a b) → permitted permR → mapped .read → s.me.settled = true → s.myCore.queue = [] → goes (.wbr a b)) ∧
     (ready (.invr a b) → permitted permW → mapped .write → s.me.settled = true → goes (.invr a b)) ∧
     (ready (.wbri a b) → permitted permW → mapped .write → s.me.settled = true → s.myCore.queue = [] → goes (.wbri a b)))

/-- LJOIN and LWAIT (R207 to R211, R220, R370): the checks in order; a join at a cell is one outbox entry of its low bits, a
release under REL; a wait whose threshold the view has reached completes with the view, zero-extended, and otherwise parks. At
a cell of a peer the join is an entry that carries the operand to it, and the wait is sent to it while the carrel is parked (R220). -/
def Obligations.CisternWords : Prop :=
  ∀ (s : State) (d a b : Reg) (r : Bool),
    let cap := src (readSources s.me [a, b]) 0
    let v := operand s [a, b] 1
    let addr := capAddr cap.val
    let x : Word := BitVec.ofNat 64 addr
    let refused := fun (i : Instr) (perm : Nat) (acc : Acc_) =>
      (addr % 4 ≠ 0 → Traps i s 0x101 x) ∧
      (addr % 4 = 0 → ∀ c, capCheck s s.cur.1 cap addr 4 perm = some c → Traps i s c x) ∧
      (addr % 4 = 0 → capCheck s s.cur.1 cap addr 4 perm = none →
        (spaceOf addr = 2 → Traps i s 0x0C3 x) ∧ (spaceOf addr = 3 → Traps i s 0x085 x) ∧
        (spaceOf addr ≠ 2 → spaceOf addr ≠ 3 → s.me.settled = true →
          (∀ t c y, places s s.cur.1 s.myCore.ctx addr 4 acc = (t, .error (c, y)) →
            exec i s = .next (takeTrap t t.cur.1 t.cur.2 c (BitVec.ofNat 64 y))) ∧
          (∀ t p e pa ls, places s s.cur.1 s.myCore.ctx addr 4 acc = (t, .ok p) → p.ent = some e → p.locs = .mem pa :: ls →
            addr % cellSize e.typ ≠ 0 → Traps i s 0x182 x)))
    (let i : Instr := .ljoin a b r
     issuable i s = true → sourcesReady { cs := [a, b] } s = true →
      refused i permLAT .joinW ∧
      (∀ t pa typ, ReachesCell s cap permLAT .joinW t pa typ → hasRoom (opScope t 4).1 = true →
        exec i s = .next (completed (placed (opScope t 4).1
          { mkEntry t i (.join pa typ (cellSize typ) (BitVec.ofNat 64 (v.toNat % 2 ^ (8 * cellSize typ)))) x with
            release := if r then some (opScope t 4).2 else none }) [a, b])) ∧
      (∀ t ga p, addr % 4 = 0 → capCheck s s.cur.1 cap addr 4 permLAT = none → spaceOf addr ≠ 2 → spaceOf addr ≠ 3 →
        places s s.cur.1 s.myCore.ctx addr 4 .joinW = (t, .ok p) → p.locs.head? = some (.peer ga) → hasRoom (opScope t 4).1 = true →
        exec i s = .next (completed (placed (opScope t 4).1
          { mkEntry t i (.peer x (.join v (addr % 8 == 0 && (capCheck t t.cur.1 cap addr 8 permLAT).isNone)
              (if r then some (opScope t 4).2.cover else none))) x with
            release := if r then some (opScope t 4).2 else none }) [a, b]))) ∧
    (let i : Instr := .lwait d a b r
     issuable i s = true → sourcesReady { cs := [a, b], dc := some d } s = true → takesAny s d →
      refused i permR .joinR ∧
      (∀ t pa typ, ReachesCell s cap permR .joinR t pa typ →
        loadHeld t ((List.range (cellSize typ)).map fun j => .mem (pa + j)) = false →
        ∀ u view, viewCell t t.cur.1 t.cur.2 pa typ (cellSize typ) (cacheHint t.me.hints) = (u, view, false) →
          let y := v.toNat % 2 ^ (8 * cellSize typ)
          (geq typ view y = true → exec i s = .next (completed (u.put d (dataCap (BitVec.ofNat 64 view))) [a, b])) ∧
          (geq typ view y = false → ∃ q, exec i s = .next (u.setMe { u.me with
              st := .parked, park := some { why := .lwait q, pops := [a, b] } }) ∧
            q.d = d ∧ q.addr = x ∧ q.pa = pa ∧ q.typ = typ ∧ q.size = cellSize typ ∧ q.x.toNat = y ∧ q.req = none)) ∧
      (∀ t ga p, addr % 4 = 0 → capCheck s s.cur.1 cap addr 4 permR = none → spaceOf addr ≠ 2 → spaceOf addr ≠ 3 →
        places s s.cur.1 s.myCore.ctx addr 4 .joinR = (t, .ok p) → p.locs.head? = some (.peer ga) → loadHeld t [] = false →
        let w := sendOp t t.cur.1 (.lwait t.cur.1 t.cur.2) (.peer addr)
          (.lwait v (addr % 8 == 0 && (capCheck t t.cur.1 cap addr 8 permR).isNone))
        ∃ q, exec i s = .next (w.1.setMe { w.1.me with st := .parked, park := some { why := .lwait q, pops := [a, b] } }) ∧
          q.d = d ∧ q.addr = x ∧ q.x = v ∧ q.req = some w.2))

/-- SEND (R28, R42, R54, R106, R166, R377, R378): a destination that names nothing traps with 0x242, one with no physical core
behind it with 0x301, one outside the fence with 0x384 after the violation is logged; more than 64 bytes of payload with 0x102.
Else the payload is captured, a tag only with TGS, in one entry that releases at device scope, or system scope toward a
peer. RPUT sends one register's value the same way. -/
def Obligations.SendAndRput : Prop :=
  ∀ (s : State) (d a : Reg) (t : BitVec 6) (n k : BitVec 5),
    let regs := (List.range n.toNat).map fun i => d + BitVec.ofNat 6 i
    let v := operand s [a] 0
    let capture := fun (x : TCap) =>
      if x.tag = false then PWord.data x.data
      else if hasPerms (capPerms x.val) permTGS = true then .cap x.val true else .cap (x.data.setWidth 128) false
    let bytes := fun (p : PWord) => match p with
      | .data _ => 8
      | .cap .. => 16
    let sc : ScopeRef := if s.isOwnDev (v.extractLsb' 16 12).toNat then ⟨4, 4, []⟩ else ⟨5, 5, []⟩
    let dev := (v.extractLsb' 16 12).toNat
    let core := (v.extractLsb' 0 12).toNat
    let refused := fun (i : Instr) =>
      (v.extractLsb' 28 36 ≠ 0 ∨ v.extractLsb' 12 4 ≠ 0 ∨ t = 63 → Traps i s 0x242 v) ∧
      (v.extractLsb' 28 36 = 0 → v.extractLsb' 12 4 = 0 → t ≠ 63 →
        (s.isOwnDev dev = true → inOpenBay s s.myCore.ctx core = false → Traps i s 0x242 v) ∧
        (s.isOwnDev dev = true → inOpenBay s s.myCore.ctx core = true → unbacked s core = true →
          Traps i s 0x301 (BitVec.ofNat 64 core)) ∧
        (s.isOwnDev dev = false → devAllowed s dev = false → s.me.settled = true →
          ∃ u, exec i s = .next (takeTrap u u.cur.1 u.cur.2 0x384 v) ∧ u.hub.egcnt = s.hub.egcnt + 1 ∧ u.cores = s.cores))
    (let i : Instr := .send d a t n
     let ws := ((readSources s.me (a :: regs)).drop 1).map capture
     issuable i s = true → sourcesReady { cs := a :: regs } s = true →
      refused i ∧
      (goodDest s v t.toNat = true → 64 < (ws.map bytes).sum → Traps i s 0x102 (BitVec.ofNat 64 (ws.map bytes).sum)) ∧
      (goodDest s v t.toNat = true → (ws.map bytes).sum ≤ 64 → hasRoom s = true →
        exec i s = .next (completed (placed s
          { mkEntry s i (.send v.toNat t.toNat ws) v with release := some sc }) (a :: regs)))) ∧
    (let i : Instr := .rput d a t k
     issuable i s = true → sourcesReady { cs := [a, d] } s = true →
      refused i ∧
      (goodDest s v t.toNat = true → hasRoom s = true →
        exec i s = .next (completed (placed s
          { mkEntry s i (.rput v.toNat t.toNat k.toNat (capture (src (readSources s.me [a, d]) 1))) v with
            release := some sc }) [a, d])))

/-- PCLR and presence (R61, R380): the presence bit of c(32 + index) of the issuing carrel is cleared and nothing else changes; a write of the
register that lands in the same cycle comes after the clear, and its bit stays; a word
that reads the register then parks, WAIT_RESUME leaves it parked while the bit is clear, and a write sets the bit, with which
the wait ends. A bound stream register raises 0x1C5 instead (R197). -/
def Obligations.PresenceClear : Prop :=
  ∀ (s : State) (k : BitVec 5),
    let r : Reg := BitVec.ofNat 6 (32 + k.toNat)
    (issuable (.pclr k) s = true → sourcesReady {} s = true →
      (s.me.stream r = none → ∃ t, exec (.pclr k) s = .next t ∧
        (t.me.creg r).present = ((s.me.creg r).present && (s.me.wrote.contains r || s.me.landed.contains r)) ∧ (t.me.creg r).val = (s.me.creg r).val ∧ (t.me.creg r).tag = (s.me.creg r).tag ∧
        (∀ q, q ≠ r → t.me.creg q = s.me.creg q) ∧ t.me.vregs = s.me.vregs ∧ t.me.masks = s.me.masks ∧
        t.me.pc = s.me.pc + 4 ∧ t.mem = s.mem ∧ (∀ c i, (c, i) ≠ s.cur → t.carrel c i = s.carrel c i)) ∧
      (s.me.stream r ≠ none → Traps (.pclr k) s 0x1C5 (r.setWidth 64))) ∧
    (∀ (i : Instr) (d : Reg) (f : List Word → Word), exec i s = dataWord i d [r] s f → issuable i s = true →
      (s.me.creg r).present = false → (s.me.creg r).dead = false → s.me.stream r = none → s.me.pendingReg r = false →
      s.me.pendingReg d = false → s.me.late { cs := [r], dc := some d } = false → isSync i = false →
      exec i s = .next (s.setMe { s.me with st := .parked, park := some { why := .presence [r], pops := [r] } })) ∧
    (∀ c j pops, (s.carrel c j).st = .parked → (s.core c).live = true →
      (s.carrel c j).park = some { why := .presence [r], pops := pops } → (s.carrel c j).stream r = none →
      ((s.carrel c j).creg r).dead = false →
      (((s.carrel c j).creg r).present = false → exec (.waitResume c j) s = .next s) ∧
      (((s.carrel c j).creg r).present = true → ∃ t, exec (.waitResume c j) s = .next t ∧
        (t.carrel c j).st = (if (s.carrel c j).lv = 1 then .runtime else .running) ∧ (t.carrel c j).park = none ∧
        (t.carrel c j).pc = (s.carrel c j).pc ∧ (t.carrel c j).regs = (s.carrel c j).regs)) ∧
    (∀ (c : Carrel) (v : TCap), ((c.write r v).creg r).present = true)

/-- TAGCTL (R24 to R26, R37, R379 to R382): the reserved bits of a value trap with 0x102 and a handler address off a word with
0x101; each operation is one outbox entry, and STAT gives control word 1. The entry, when it takes effect, changes exactly its
field of an installed handler-table entry, and nothing of one that is not installed. -/
def Obligations.TagControls : Prop :=
  ∀ (s : State) (d a : Reg) (k : BitVec 6) (g : BitVec 2),
    let v := operand s [a] 0
    let h := s.myCore.tagOf k.toNat
    let places := fun (i : Instr) (cs : List Reg) (op : TagOp) =>
      exec i s = .next (completed (placed s (mkEntry s i (.tagctl k.toNat op) (k.setWidth 64))) cs)
    let ready := fun (i : Instr) (cs : List Reg) => issuable i s = true ∧ sourcesReady { cs := cs } s = true
    (hasRoom s = true → ready (.tagctlEn k) [] → places (.tagctlEn k) [] .en) ∧
    (hasRoom s = true → ready (.tagctlDis k) [] → places (.tagctlDis k) [] .dis) ∧
    (ready (.tagctlPrio a k) [a] →
      (v.extractLsb' 4 60 ≠ 0 → Traps (.tagctlPrio a k) s 0x102 v) ∧
      (v.extractLsb' 4 60 = 0 → hasRoom s = true → places (.tagctlPrio a k) [a] (.prio v.toNat))) ∧
    (ready (.tagctlAddr a k) [a] →
      (v.extractLsb' 0 2 ≠ 0 → Traps (.tagctlAddr a k) s 0x101 v) ∧
      (v.extractLsb' 0 2 = 0 → v.extractLsb' 48 16 ≠ 0 → Traps (.tagctlAddr a k) s 0x102 v) ∧
      (v.extractLsb' 0 2 = 0 → v.extractLsb' 48 16 = 0 → hasRoom s = true →
        places (.tagctlAddr a k) [a] (.addr (v.setWidth 48)))) ∧
    (ready (.tagctlMode a k) [a] →
      (v.extractLsb' 4 60 ≠ 0 → Traps (.tagctlMode a k) s 0x102 v) ∧
      (v.extractLsb' 4 60 = 0 → hasRoom s = true →
        places (.tagctlMode a k) [a] (.mode (v.getLsbD 3) (v.extractLsb' 0 3).toNat))) ∧
    (ready (.tagctlGate g a k) [a] →
      (v.extractLsb' 56 7 ≠ 0 ∨ v.extractLsb' 40 10 ≠ 0 → Traps (.tagctlGate g a k) s 0x102 v) ∧
      (v.extractLsb' 56 7 = 0 → v.extractLsb' 40 10 = 0 → hasRoom s = true →
        places (.tagctlGate g a k) [a] (.gate g.toNat v))) ∧
    (ready (.tagctlCap g a k) [a] → hasRoom s = true →
      places (.tagctlCap g a k) [a] (.cap g.toNat (src (readSources s.me [a]) 0))) ∧
    GivesData (.tagctlStat d k) d [] s (BitVec.ofNat 8 h.pend ++ BitVec.ofNat 4 h.eprio ++ BitVec.ofNat 4 h.act ++
      BitVec.ofNat 16 h.seq ++ (0 : BitVec 32)) ∧
    (∀ (c : Core) (t : Nat) (op : TagOp), let x := c.tagOf t
      (x.inst = false → applyTagctl c t op = c) ∧
      (x.inst = true → (∀ u, u ≠ t → (applyTagctl c t op).tagOf u = c.tagOf u) ∧ (applyTagctl c t op).tagOf t = match op with
        | .en => { x with en := true }
        | .dis => { x with en := false }
        | .prio p => { x with prio := p % 16, eprio := if x.wait = 0 then p % 16 else min 15 (p % 16 + (x.wait - 1) / 65536) }
        | .addr p => { x with haddr := p }
        | .mode p m => { x with par := p, pmax := m }
        | .gate j w => { x with gates := fset x.gates j w }
        | .cap j w => { x with caps := fset x.caps j w }))

/-- SBIND, SUNBIND and SSTAT (R197, R384). SBIND waits while an element of the register is still to be placed; a misaligned
record traps with 0x101, a pattern of 2^32 elements or more with 0x102; once the record has arrived the register is bound to it.
SUNBIND leaves untagged zero. SSTAT gives the status word, 0 for a register that is not bound. -/
def Obligations.StreamWords : Prop :=
  ∀ (s : State) (q : SReg) (a b d : Reg),
    let r : Reg := BitVec.ofNat 6 (48 + q.toNat)
    let base := src (readSources s.me [a, b]) 0
    let cap := src (readSources s.me [a, b]) 1
    let addr := capAddr cap.val
    let x : Word := BitVec.ofNat 64 addr
    let i : Instr := .sbind q a b
    (issuable i s = true → sourcesReady { cs := [a, b] } s = true → unbindWaits s.me r = false →
      (addr % 64 ≠ 0 → Traps i s 0x101 x) ∧
      (addr % 64 = 0 → ∀ c, capCheck s s.cur.1 cap addr 64 permR = some c → Traps i s c x) ∧
      (addr % 64 = 0 → capCheck s s.cur.1 cap addr 64 permR = none → ∀ t bs, arrived s addr 64 = some (t, bs) →
        let num := fun (off n : Nat) => leNat (((bs.drop off).take n).map (·.1))
        let ext := [num 0 4, num 4 4, num 8 4]
        let total := num 0 4 * num 4 4 * num 8 4
        (2 ^ 32 ≤ total → Traps i s 0x102 (BitVec.ofNat 64 (total % 2 ^ 32))) ∧
        (total < 2 ^ 32 → ∃ u, exec i s = .next u ∧ u.me.stream r = some {
            base := base, extents := ext,
            strides := [(BitVec.ofNat 64 (num 16 8)).toInt, (BitVec.ofNat 64 (num 24 8)).toInt, (BitVec.ofNat 64 (num 32 8)).toInt],
            size := 2 ^ (num 12 4 % 4), write := (num 12 4).testBit 2, sign := (num 12 4).testBit 3, total := total } ∧
          u.me.regs = t.me.regs ∧ u.me.pc = t.me.pc + 4 ∧ u.mem = t.mem ∧
          (∀ p, p ≠ r → p ≠ a → p ≠ b → u.me.stream p = t.me.stream p)))) ∧
    (issuable (.sunbind q) s = true → sourcesReady {} s = true → unbindWaits s.me r = false →
      ∃ u, exec (.sunbind q) s = .next u ∧ u.me.stream r = none ∧ u.me.read r = {} ∧ u.me.absent r = false ∧
        u.me.pc = s.me.pc + 4 ∧ (∀ p, p ≠ r → u.me.creg p = s.me.creg p ∧ u.me.stream p = s.me.stream p) ∧ u.mem = s.mem) ∧
    GivesData (.sstat d q) d [] s (match s.me.stream r with
      | none => 0
      | some st =>
        let used := if st.write then st.next else st.used
        let held := if st.write then st.buffer.length
          else (st.ready.filter fun e => match e with
            | .pending _ => false
            | _ => true).length
        BitVec.ofBool true ++ BitVec.ofBool st.write ++ BitVec.ofBool (decide (st.total ≤ used)) ++ (0 : BitVec 24) ++
          BitVec.ofNat 5 held ++ BitVec.ofNat 32 (st.total - used))

/-- SIPH, SGATH, SCFG and SWMR (R183 to R186, R193 to R196, R326, R385, R386). The descriptor's capability and alignment are
checked, then the command that it describes, and the word is one entry that releases at device scope. That a misaligned SGATH descriptor raises 0x1C1, that the row checks come before the
pointers are read, and TVAL of step 5 are the model's readings (log entries 32, 33, 34). SWMR gives the channel's
status word, DLO or the fault address. -/
def Obligations.SiphonWords : Prop :=
  ∀ (s : State) (d a b : Reg) (h : BitVec 6) (sel : SwmrSel),
    let vs := readSources s.me [a, b, d]
    let cap := src vs 2
    let addr := capAddr cap.val
    let x : Word := BitVec.ofNat 64 addr
    let refused := fun (i : Instr) =>
      (∀ c, capCheck s s.cur.1 cap addr 128 (permR ||| permENG) = some c → Traps i s c x) ∧
      (capCheck s s.cur.1 cap addr 128 (permR ||| permENG) = none →
        hasPerms (capPerms cap.val) permX = true ∨ addr % 128 ≠ 0 → Traps i s 0x1C1 x)
    let reads := fun (t : State) (bs : List TByte) =>
      capCheck s s.cur.1 cap addr 128 (permR ||| permENG) = none ∧ hasPerms (capPerms cap.val) permX = false ∧
      addr % 128 = 0 ∧ arrived s addr 128 = some (t, bs)
    let ready := fun (i : Instr) => issuable i s = true ∧ sourcesReady { cs := [a, b, d] } s = true
    (let i : Instr := .siph d a b h
     ready i → refused i ∧ ∀ t bs, reads t bs →
      (∀ c v, siphBuild t t.cur.1 (siphOfDesc bs (src vs 0) (src vs 1) cap.data) (b == 0) = .error (c, v) → Traps i s c v) ∧
      (∀ c, siphBuild t t.cur.1 (siphOfDesc bs (src vs 0) (src vs 1) cap.data) (b == 0) = .ok c → hasRoom t = true →
        exec i s = .next (completed (placed t
          { mkEntry t i (.siph h.toNat c) cap.data with release := some ⟨4, 4, []⟩ }) [a, b, d]))) ∧
    (let i : Instr := .sgath d a b h
     ready i → refused i ∧ ∀ t bs, reads t bs →
      let num := fun (off n : Nat) => leNat (((bs.drop off).take n).map (·.1))
      let ta := num 0x30 8 % 16
      let tb := num 0x30 8 / 16 % 16
      let n := num 4 4 - num 0 4
      let r := t.myCore.cregs
      let from_ := (capAddr (src vs 1).val + num 8 8 + 4 * num 0 4) % 2 ^ 64
      (r.tcnt ≤ ta → Traps i s 0x202 (BitVec.ofNat 64 ta)) ∧
      (ta < r.tcnt → r.tcnt ≤ tb → Traps i s 0x202 (BitVec.ofNat 64 tb)) ∧
      (ta < r.tcnt → tb < r.tcnt →
        (num 4 4 < num 0 4 ∨ tdRows (fgetD r.td ta 0).toNat < n → Traps i s 0x1C1 cap.data) ∧
        (num 0 4 ≤ num 4 4 → n ≤ tdRows (fgetD r.td ta 0).toNat →
          capCheck t t.cur.1 (src vs 1) from_ (4 * (n + 1)) permR = none →
          ∀ u ps, arrived t from_ (4 * (n + 1)) = some (u, ps) →
            ∀ c, gathBuild u bs (src vs 0) (src vs 1) cap.data
                ((List.range (n + 1)).map fun j => leNat (((ps.drop (4 * j)).take 4).map (·.1)))
                (r.tbase + ta) (r.tbase + tb) = .ok c → hasRoom u = true →
              exec i s = .next (completed (placed u
                { mkEntry u i (.sgath h.toNat c) cap.data with release := some ⟨4, 4, []⟩ }) [a, b, d])))) ∧
    (let i : Instr := .scfg a h
     issuable i s = true → sourcesReady { cs := [a] } s = true → hasRoom s = true →
      exec i s = .next (completed (placed s { mkEntry s i (.scfg h.toNat (operand s [a] 0)) (h.setWidth 64) with
        release := some ⟨4, 4, []⟩ }) [a])) ∧
    (let ch := s.myCore.chan h.toNat
     GivesSync (.swmr d sel h) d [] s (match sel with
      | .status => BitVec.ofBool ch.v ++ BitVec.ofBool ch.done ++ BitVec.ofBool ch.flt ++
          BitVec.ofBool (s.myCore.queue.any (namesChan h.toNat)) ++ (0 : BitVec 20) ++ BitVec.ofNat 40 ch.wmk
      | .dlo => match ch.last with
        | some (.siph c) => BitVec.ofInt 64 c.dlo
        | _ => 0
      | .fault => if ch.flt then ch.faultAddr else 0))

/-- BARM, BARB, BARR and BWAIT (R198 to R202, R335 to R337). A misaligned operand traps with 0x101, one outside the scratchpads
with 0x0C3. BARM and BARB are one entry each, after BARM's checks of its init word. BARR is a commit point and, at an object of
its own core with nothing queued, arrives at once: it traps with 0x281 at a broken object, and with 0x282 when its arrival breaks it, else
gives the old GEN. BWAIT traps at a broken object, gives GEN where it is not the awaited one, and otherwise parks. -/
def Obligations.BarrierWords : Prop :=
  ∀ (s : State) (d a b : Reg),
    let cap := src (readSources s.me [a, b]) 0
    let v := operand s [a, b] 1
    let addr := capAddr cap.val
    let x : Word := BitVec.ofNat 64 addr
    let pe := permR ||| permW ||| permENG
    let refused := fun (i : Instr) (k : TCap) (perm : Nat) =>
      let z : Word := BitVec.ofNat 64 (capAddr k.val)
      (capAddr k.val % 16 ≠ 0 → Traps i s 0x101 z) ∧
      (capAddr k.val % 16 = 0 → ∀ c, capCheck s s.cur.1 k (capAddr k.val) 16 perm = some c → Traps i s c z) ∧
      (capAddr k.val % 16 = 0 → capCheck s s.cur.1 k (capAddr k.val) 16 perm = none → spaceOf (capAddr k.val) ≠ 2 →
        Traps i s 0x0C3 z)
    (let i : Instr := .barm a b
     issuable i s = true → sourcesReady { cs := [a, b] } s = true → refused i cap pe ∧
      (addr % 16 = 0 → capCheck s s.cur.1 cap addr 16 pe = none → spaceOf addr = 2 →
        localScratch s s.cur.1 addr = false ∨ (∃ t p, places s s.cur.1 s.myCore.ctx addr 16 .rw = (t, .ok p)) →
        (8191 < (v.extractLsb' 0 14).toNat → Traps i s 0x102 ((v.extractLsb' 0 14).setWidth 64)) ∧
        ((v.extractLsb' 0 14).toNat ≤ 8191 → v.extractLsb' 22 5 = 5 ∨ v.extractLsb' 16 6 = 63 →
          Traps i s 0x102 ((v.extractLsb' 16 11).setWidth 64))) ∧
      ∀ t l, ReachesBarrier s cap pe false t l →
        (v.extractLsb' 0 14).toNat ≤ 8191 → v.extractLsb' 22 5 ≠ 5 → v.extractLsb' 16 6 ≠ 63 → hasRoom t = true →
          exec i s = .next (completed (placed t { mkEntry t i (.barm x l v) x with release := some ⟨4, 4, []⟩ }) [a, b])) ∧
    (let i : Instr := .barb a b
     issuable i s = true → sourcesReady { cs := [a, b] } s = true → refused i cap pe ∧
      ∀ t l, ReachesBarrier s cap pe false t l → hasRoom t = true →
        exec i s = .next (completed (placed t { mkEntry t i (.barb x l v) x with release := some ⟨4, 4, []⟩ }) [a, b])) ∧
    (let i : Instr := .barr d a
     let k := src (readSources s.me [a]) 0
     let z : Word := BitVec.ofNat 64 (capAddr k.val)
     let o : OpSpec := { cs := [a], dc := some d }
     issuable i s = true → sourcesReady o s = true → s.me.barr = none → takesAny s d → isPrimary s = false →
      refused i k pe ∧
      ∀ t region off, ReachesBarrier s k pe false t (.scr t.cur.1 region off) → commits t = true →
        t.myCore.queue = [] → t.me.outbox = [] →
        let u := healRegion (commitPoint t t.cur.1 t.cur.2) t.cur.1 region off 16
        barPoisoned u u.cur.1 region off = false →
        let w := barObject u u.cur.1 region off
        let arrived := (barUpdate u u.cur.1 region off u.cur.1 false barArriveAt).modMe fun c => { c with barr := none }
        (barBroken w = true → s.me.settled = true →
          ∃ y, exec i s = .next (takeTrap y y.cur.1 y.cur.2 0x281 z) ∧ y.me.nr = true ∧ y.me.regs = t.me.regs) ∧
        (barBroken w = false → barBroken (barArrive w).1 = true → s.me.settled = true →
          exec i s = .next (takeTrap arrived arrived.cur.1 arrived.cur.2 0x282 z)) ∧
        (barBroken w = false → barBroken (barArrive w).1 = false →
          exec i s = .next (finished i o s (arrived.put d (dataCap (BitVec.ofNat 64 (w % 16))))))) ∧
    (let i : Instr := .bwait d a b
     let o : OpSpec := { cs := [a, b], dc := some d }
     issuable i s = true → sourcesReady o s = true → takesAny s d → isPrimary s = false →
      refused i cap (permR ||| permENG) ∧
      ∀ u c region off, ReachesBarrier s cap (permR ||| permENG) true u (.scr c region off) →
        let t := healRegion u c region off 16
        barPoisoned t c region off = false →
        let w := barObject t c region off
        (barBroken w = true → Traps i s 0x281 x) ∧
        (barBroken w = false → w % 16 ≠ v.toNat % 16 →
          exec i s = .next (finished i o s (t.put d (dataCap (BitVec.ofNat 64 (w % 16)))))) ∧
        (barBroken w = false → w % 16 = v.toNat % 16 →
          exec i s = .next (t.setMe { t.me with st := .parked, park := some {
            why := .bwait { d := d, addr := x, gen := v.toNat % 16 }, pops := [a, b] } })))

/-- One arrival and one count at a barrier object (R198, R199): a broken object keeps its value; an arrival at an object with no
bytes due lowers PENDING, and the one that takes it to 0 with EXPECTED above 0 begins the next generation with EXPECTED arrivals
due; a count that would leave 0 to 2^40 − 1 breaks the object and leaves the field; BARM's initial value keeps GEN. -/
def Obligations.BarrierObjects : Prop :=
  ∀ (w : Nat) (b : Word) (n : Nat) (out sub : Bool), w < 2 ^ 128 →
    let pend := ((BitVec.ofNat 128 w).extractLsb' 18 14).toInt
    let exp := ((BitVec.ofNat 128 w).extractLsb' 4 14).toNat
    let due := fun (o : Bool) => if o then ((BitVec.ofNat 128 w).extractLsb' 72 40).toNat else ((BitVec.ofNat 128 w).extractLsb' 32 40).toNat
    barGen w = w % 16 ∧ barPending w = pend ∧ barExpected w = exp ∧ barIn w = due false ∧ barOut w = due true ∧
    (barBroken w = true → barCount w out sub n = (w, [])) ∧
    (barBroken w = false → 1 < pend →
      barPending (barArrive w).1 = pend - 1 ∧ barGen (barArrive w).1 = barGen w ∧ (barArrive w).2 = []) ∧
    (barBroken w = false → pend = 1 → due false = 0 → due true = 0 → 0 < exp → exp ≤ 8191 →
      barPending (barArrive w).1 = exp ∧ barGen (barArrive w).1 = (barGen w + 1) % 16 ∧
      barExpected (barArrive w).1 = exp ∧ barBroken (barArrive w).1 = false ∧
      (barArrive w).2 = if barNotify w then [(barArrive w).1] else []) ∧
    (barBroken w = false → (if sub then due out < n else 2 ^ 40 ≤ due out + n) →
      barBroken (barCount w out sub n).1 = true ∧ (barCount w out sub n).2 = [] ∧
      (if out then barOut (barCount w out sub n).1 else barIn (barCount w out sub n).1) = due out) ∧
    (barBroken w = false → ¬(if sub then due out < n else 2 ^ 40 ≤ due out + n) → 0 < pend →
      (if out then barOut (barCount w out sub n).1 else barIn (barCount w out sub n).1) = (if sub then due out - n else due out + n) ∧
      barGen (barCount w out sub n).1 = barGen w) ∧
    (let z := barInit w b
     barGen z = barGen w ∧ barExpected z = (b.extractLsb' 0 14).toNat ∧ barIn z = 0 ∧ barOut z = 0 ∧ barBroken z = false ∧
     barNotify z = b.getLsbD 14 ∧ barAuto z = b.getLsbD 15 ∧ barTag z = (b.extractLsb' 16 6).toNat ∧
     barScope z = (b.extractLsb' 22 5).toNat)

/-- TDSET, the TDGET forms, MMA, MACZ and MACST (R256 to R265, R372, R373). A number outside the window traps with 0x202; an
illegal descriptor with 0x203, one with a reserved bit set among them (log entry 43, the model's reading); a pair of tiles whose formats or shapes do not fit with 0x203, or whose recorded swizzle differs
with 0x201. A command is one entry that releases at device scope. -/
def Obligations.MatrixWords : Prop :=
  ∀ (s : State) (d a b : Reg) (m n : BitVec 4) (c : BitVec 3) (mig : Bool) (kind : AccKind),
    let r := s.myCore.cregs
    let k := clusterOf s.cur.1
    let e := (s.cluster k).engine
    let td := fun (j : BitVec 4) => fgetD r.td j.toNat 0
    (let i : Instr := .tdset m a
     let cap := src (readSources s.me [a]) 0
     let addr := capAddr cap.val
     let x : Word := BitVec.ofNat 64 addr
     let o : OpSpec := { cs := [a] }
     issuable i s = true → sourcesReady o s = true →
      (r.tcnt ≤ m.toNat → isPrimary s = false → Traps i s 0x202 (m.setWidth 64)) ∧
      (m.toNat < r.tcnt → addr % 16 ≠ 0 → isPrimary s = false → Traps i s 0x101 x) ∧
      (m.toNat < r.tcnt → addr % 16 = 0 → capCheck s s.cur.1 cap addr 16 permR = none → spaceOf addr ≠ 3 →
        ∀ t bs, arrived s addr 16 = some (t, bs) →
          let w := leNat ((bs.take 8).map (·.1))
          (leNat (((bs.drop 8).take 8).map (·.1)) ≠ 0 ∨ tdLegal (t.hasFeature 1) w = false → isPrimary s = false →
            Traps i s 0x203 (m.setWidth 64)) ∧
          (leNat (((bs.drop 8).take 8).map (·.1)) = 0 → tdLegal (t.hasFeature 1) w = true → t.me.settled = true →
            exec i s = .next (finished i o s (t.modMyCore fun q =>
              q.setCregs { q.cregs with td := fset q.cregs.td m.toNat (BitVec.ofNat 64 w) }))))) ∧
    (let i : Instr := .tdget d m
     (m.toNat < r.tcnt → GivesSync i d [] s (td m)) ∧
     (r.tcnt ≤ m.toNat → issuable i s = true → sourcesReady { dc := some d } s = true → isPrimary s = false →
       Traps i s 0x202 (m.setWidth 64))) ∧
    (let i : Instr := .tdgetSt d m
     let t := r.tbase + m.toNat
     (m.toNat < r.tcnt → GivesSync i d [] s (BitVec.ofNat 41 0 ++ BitVec.ofNat 7 (e.useTile t) ++ (0 : BitVec 10) ++
       BitVec.ofBool (tileFilling s k t) ++ BitVec.ofBool (e.tile t).poison ++ BitVec.ofNat 4 (e.tile t).swz)) ∧
     (r.tcnt ≤ m.toNat → issuable i s = true → sourcesReady { dc := some d } s = true → isPrimary s = false →
       Traps i s 0x202 (m.setWidth 64))) ∧
    (let i : Instr := .tdgetAcc d c
     let q := r.abase + c.toNat
     let x := e.acc q
     (c.toNat < r.acnt → GivesSync i d [] s (BitVec.ofNat 41 0 ++ BitVec.ofNat 7 (e.useAcc q) ++ (0 : BitVec 8) ++
       BitVec.ofBool (e.away.any fun z => z.op.accOf == q) ++ BitVec.ofBool x.poison ++ BitVec.ofBool x.nsat ++
       BitVec.ofBool x.asat ++ BitVec.ofBool x.aiv ++ BitVec.ofBool x.aov ++ BitVec.ofNat 2 (accCode x.kind))) ∧
     (r.acnt ≤ c.toNat → issuable i s = true → sourcesReady { dc := some d } s = true → isPrimary s = false →
       Traps i s 0x202 (c.setWidth 64))) ∧
    (let i : Instr := .mma c m n mig
     let ta := r.tbase + m.toNat
     let tb := r.tbase + n.toNat
     let tiles := (winTile r m.toNat).toList ++ (winTile r n.toNat).toList
     issuable i s = true → sourcesReady {} s = true → tileStall s s.cur.1 tiles = .go →
      (r.tcnt ≤ m.toNat → Traps i s 0x202 (m.setWidth 64)) ∧
      (m.toNat < r.tcnt → r.tcnt ≤ n.toNat → Traps i s 0x202 (n.setWidth 64)) ∧
      (m.toNat < r.tcnt → n.toNat < r.tcnt → r.acnt ≤ c.toNat → Traps i s 0x202 (c.setWidth 64)) ∧
      (m.toNat < r.tcnt → n.toNat < r.tcnt → c.toNat < r.acnt →
        (tdPair (s.hasFeature 1) (td m).toNat (td n).toNat = false → Traps i s 0x203 (m.setWidth 64)) ∧
        (tdPair (s.hasFeature 1) (td m).toNat (td n).toNat = true →
          ((e.tile ta).swz ≠ tdSwz (td m).toNat → Traps i s 0x201 (m.setWidth 64)) ∧
          ((e.tile ta).swz = tdSwz (td m).toNat → (e.tile tb).swz ≠ tdSwz (td n).toNat → Traps i s 0x201 (n.setWidth 64)) ∧
          ((e.tile ta).swz = tdSwz (td m).toNat → (e.tile tb).swz = tdSwz (td n).toNat → hasRoom s = true →
            s.me.outbox.length < outboxMax ∨ tileStall (commitPoint s s.cur.1 s.cur.2) s.cur.1 tiles = .go →
            let q : MmaCmd := ⟨ta, tb, r.abase + c.toNat, td m, td n, mig, m.toNat, n.toNat, c.toNat, false⟩
            exec i s = .next (completed (placed s { mkEntry s i (.engine (.mma q)) 0 with release := some ⟨4, 4, []⟩ }) []))))) ∧
    (let i : Instr := .macst c a b kind
     let vs := readSources s.me [a, b]
     issuable i s = true → sourcesReady { cs := [a, b] } s = true →
      (r.acnt ≤ c.toNat → Traps i s 0x202 (c.setWidth 64)) ∧
      (c.toNat < r.acnt →
        (∀ z v, macstFault s c.toNat kind (src vs 0) (operand s [a, b] 1).toNat = some (z, v) → Traps i s z v) ∧
        (macstFault s c.toNat kind (src vs 0) (operand s [a, b] 1).toNat = none → hasRoom s = true →
          let q : MacstCmd := ⟨r.abase + c.toNat, c.toNat, kind, src vs 0, operand s [a, b] 1, 0⟩
          exec i s = .next (completed (placed s { mkEntry s i (.engine (.macst q)) (src vs 0).data with
            release := some ⟨4, 4, []⟩ }) [a, b]))))

/-- MACZ (R263) from its word to its effect: the window is checked, the command goes to the outbox, and when the engine performs
it the accumulator has the kind, all elements of bit pattern zero, and its four flags and its poison clear. For f64 it needs
feature 1 (R326). -/
def Obligations.AccumulatorClear : Prop :=
  ∀ (s : State) (c : BitVec 3) (kind : AccKind),
    let r := s.myCore.cregs
    let i : Instr := .macz c kind
    (issuable i s = true → sourcesReady {} s = true →
      (r.acnt ≤ c.toNat → Traps i s 0x202 (c.setWidth 64)) ∧
      (c.toNat < r.acnt → (kind ≠ .f64 ∨ s.hasFeature 1 = true) → hasRoom s = true →
        exec i s = .next (completed (placed s { mkEntry s i (.engine (.macz (r.abase + c.toNat) kind)) 0 with
          release := some ⟨4, 4, []⟩ }) []))) ∧
    (∀ k x acc, (s.engine k).running = some x → x.op = .macz acc kind →
      ∃ t, exec (.engineCommandComplete k) s = .next t ∧
        ((t.engine k).acc acc).kind = kind ∧ (∀ j, fgetD ((t.engine k).acc acc).elems j 0 = 0) ∧
        ((t.engine k).acc acc).aov = false ∧ ((t.engine k).acc acc).aiv = false ∧ ((t.engine k).acc acc).asat = false ∧
        ((t.engine k).acc acc).nsat = false ∧ ((t.engine k).acc acc).poison = false ∧
        (t.engine k).running = none ∧ (∀ q, q ≠ acc → (t.engine k).acc q = (s.engine k).acc q) ∧
        (t.engine k).tiles = (s.engine k).tiles ∧ t.mem = s.mem)

/-- Which tag may be dispatched, and what a dispatch sets (R27, R29, R33 to R37, R40 to R43), by the entries and channels as selection
sees them, without the changes of the cycle. The highest EPRIO goes first, then the
earliest message, then the lowest tag; its oldest message goes to the lowest free carrel, whose registers hold the payload, c9
and the bundle and nothing else. A tag's EPRIO rises by one while it is behind its wait counter, and a YIELD period that has run
out leaves the carrel in its normal tier (R363). -/
def Obligations.DispatchStarts : Prop :=
  (∀ (k : Core) (t : Nat), let h := k.selTag t
    runnable k t = true ↔ h.en = true ∧ h.inst = true ∧ 0 < h.pend ∧ (∃ e ∈ k.inbox, e.tag = t ∧ e.pending = true) ∧
      (∃ b, k.bay = some b ∧ b.isOpen = true) ∧ (if h.par then h.act ≤ h.pmax else h.act = 0) ∧
      ∀ g < 4, gatePair k (fgetD h.gates g 0) = true) ∧
  (∀ (s : State) (core t i n : Nat) (e : InboxEnt),
    let k := s.core core
    let h := k.tagOf t
    k.live = true → reshelving s core = none → k.dispatched = none → (∀ u < 64, agingDue k u = false) → t < 64 →
    runnable k t = true → (∀ u < 64, runnable k u = true → u ≠ t → before k t u = true) →
    i < 8 → (k.carrel i).st = .free → (k.carrel i).freedAt ≠ some s.cycle →
    (∀ j < i, (k.carrel j).st ≠ .free ∨ (k.carrel j).freedAt = some s.cycle) →
    k.inbox[n]? = some e → e.tag = t → e.pending = true → (∀ m < n, ∀ x, k.inbox[m]? = some x → ¬(x.tag = t ∧ x.pending = true)) →
    e.again = false → e.rputs = [] → heldRputs k t = [] →
      ∃ s', exec (.dispatch core) s = .next s' ∧
        let c := s'.carrel core i
        c.st = .running ∧ c.pc = (k.selTag t).haddr ∧ c.yield = 0 ∧ c.lv = 0 ∧ c.fpc = 0 ∧ c.vregs = [] ∧ c.masks = [] ∧ c.streams = [] ∧
        c.outbox = [] ∧ c.nr = false ∧ c.tag = t ∧ c.aseq = e.seq ∧
        (∀ j < 8, c.read (BitVec.ofNat 6 (j + 1)) = ((e.words[j]?).map pwordCap).getD {}) ∧
        c.read 9 = dataCap (BitVec.ofNat 4 e.kind ++ BitVec.ofNat 12 e.sdev ++ BitVec.ofNat 16 e.seq ++ (0 : BitVec 4) ++
          BitVec.ofNat 12 e.score ++ (0 : BitVec 10) ++ BitVec.ofNat 6 e.tag) ∧
        (∀ j < 4, c.read (BitVec.ofNat 6 (60 + j)) = fgetD (k.selTag t).caps j {}) ∧
        (∀ j, 9 < j → j < 60 → c.read (BitVec.ofNat 6 j) = {}) ∧
        (∀ r : Reg, c.absent r = (32 ≤ r.toNat && r.toNat ≤ 59)) ∧
        ((s'.core core).tagOf t).act = h.act + 1 ∧ ((s'.core core).tagOf t).pend = h.pend - 1 ∧
        ((s'.core core).tagOf t).wait = 0 ∧ ((s'.core core).tagOf t).eprio = h.prio ∧
        (∀ u, u ≠ t → (s'.core core).tagOf u = k.tagOf u) ∧ (s'.core core).ctxRegs = k.ctxRegs ∧
        (s'.core core).queue = k.queue ∧ (∀ j, j ≠ i → s'.carrel core j = s.carrel core j) ∧
        (∀ d, d ≠ core → s'.core d = s.core d) ∧ s'.mem = s.mem ∧ s'.clusters = s.clusters) ∧
  (∀ (s : State) (core t : Nat), let h := (s.core core).tagOf t
    h.eprio < (if h.wait = 0 then h.prio else min 15 (h.prio + (h.wait - 1) / 65536)) →
      ∃ s', exec (.eprioAging core t) s = .next s' ∧ (s'.core core).tagOf t = { h with eprio := h.eprio + 1 } ∧
        (∀ u, u ≠ t → (s'.core core).tagOf u = (s.core core).tagOf u) ∧ (s'.core core).carrels = (s.core core).carrels ∧
        s'.mem = s.mem) ∧
  (∀ (s : State) (core i : Nat), let c := s.carrel core i
    c.issues = true → c.yield = 1 →
      exec (.yieldPeriodExpiry core i) s = .next (s.setCarrel core i { c with yield := 0 }))

/-- The ends of an activation (R39, R43, R44, R124, R353, R361). END makes the carrel Ending, where it stays until the hand-off
(the model's, log entry 10), and takes its bindings away once no written element waits in them; IDLE parks, and HALT does unless a hub
interrupt is pending for its core, which it takes (the model's, log entry 11). The hand-off puts the outbox at the end of the commit queue, frees the carrel,
retires its message and lowers ACT. The resident OS releases a Halted carrel, with its outbox discarded, and may remove one that
waits for a presence bit. An IDLE ends at its count and then goes on at the next word with no register changed. -/
def Obligations.ActivationEnds : Prop :=
  ∀ (s : State) (a : Reg) (core i : Nat),
    let k := s.core core
    let c := s.carrel core i
    (issuable .end_ s = true → ∃ y,
      let e := { s.me with st := .ending, yield := y }
      exec .end_ s = .next (s.setMe (if ∀ p ∈ s.me.streams, p.2.write = true → p.2.buffer = []
        then { e with streams := [], loads := s.me.loads.filter fun l => match l.dest with
          | .stream .. => false
          | _ => true }
        else e))) ∧
    (issuable (.idle a) s = true → sourcesReady { cs := [a] } s = true →
      let why : ParkWhy := .idle ((operand s [a] 0).extractLsb' 0 40).toNat
      exec (.idle a) s = .next (s.setMe { s.me with st := .parked, park := some { why := why, pops := [a] } })) ∧
    (issuable .halt s = true → (s.hub.osIrq.contains (s.cur.1 - 4096) = true →
      exec .halt s = .next (completed (s.modHub fun h => { h with osIrq := h.osIrq.filter (· ≠ s.cur.1 - 4096) }) [])) ∧
      (s.hub.osIrq.contains (s.cur.1 - 4096) = false → exec .halt s = .next (s.setMe { s.me with st := .parked, park := some { why := .halt } }))) ∧
    (c.st = .ending → k.frozen = false → c.streams = [] → canDrain s core i = true → (∀ e ∈ c.outbox, e.ecc = false) →
      c.pair = false → k.twin = none → k.twinOf = none →
      ∃ t, exec (.outboxHandoff core i) s = .next t ∧ (t.carrel core i).st = .free ∧
        (t.core core).queue = k.queue ++ c.outbox.map (fun e => { e with drain := k.nextId }) ∧
        (∀ e ∈ (t.core core).inbox, e.id ≠ c.entry) ∧ ((t.core core).tagOf c.tag).act = (k.tagOf c.tag).act - 1 ∧
        (∀ j, j ≠ i → t.carrel core j = s.carrel core j) ∧ t.mem = s.mem ∧ t.clusters = s.clusters) ∧
    (c.st = .halted → c.pair = false →
      ∃ t, exec (.haltedCarrelRelease core i) s = .next t ∧ (t.carrel core i).st = .free ∧ (t.core core).queue = k.queue ∧
        (∀ e ∈ (t.core core).inbox, e.id ≠ c.entry) ∧ ((t.core core).tagOf c.tag).act = (k.tagOf c.tag).act - 1 ∧ t.mem = s.mem) ∧
    (∀ (rs : List Reg) (p : Park), c.st = .parked → c.park = some { p with why := .presence rs } → c.pair = false →
      ∃ t, exec (.activationRemoval core i) s = .next t ∧ (t.carrel core i).st = .free ∧ (t.core core).queue = k.queue ∧
        ((t.core core).tagOf c.tag).act = (k.tagOf c.tag).act - 1 ∧ t.mem = s.mem) ∧
    (∀ (n : Nat) (p : Park), c.st = .parked → k.live = true → c.park = some { p with why := .idle n } → p.pops = [] →
      (0 < n → n ≤ p.cycles → ∃ t, exec (.idleTimeout core i) s = .next t ∧ (t.carrel core i).pc = c.pc + 4 ∧
        (t.carrel core i).regs = c.regs ∧ (t.carrel core i).park = none ∧ (t.carrel core i).issues = true ∧ t.mem = s.mem) ∧
      (n = 0 ∨ p.cycles < n → exec (.idleTimeout core i) s = .next s) ∧
      (p.woken = true → ∃ t, exec (.waitResume core i) s = .next t ∧ (t.carrel core i).pc = c.pc + 4 ∧
        (t.carrel core i).regs = c.regs ∧ (t.carrel core i).issues = true))

/-- The limits of BWAIT and LWAIT (R202, R212). BTMO and LTMO hold LIMIT in [39:0], which SYSW writes and SYSR reads with [63:40]
zero (where no other carrel of the core has written the register in this cycle, R397), and are 0 at reset. A BWAIT that has been parked LIMIT cycles traps with 0x283, and an LWAIT then ends by R210: with its
view and bit 127 set, or for c0 with the trap 0x183. With a LIMIT of 0, and before it is reached, nothing ends the wait. -/
def Obligations.WaitLimits : Prop :=
  (∀ (s : State) (a d : Reg) (n : SysReg), n = .btmo ∨ n = .ltmo →
    let limit := fun (t : State) => if n = .btmo then t.myCore.cregs.btmo else t.myCore.cregs.ltmo
    (issuable (.sysw a n) s = true → sourcesReady { cs := [a] } s = true → s.me.settled = true → unwritten s n →
      ∃ t, exec (.sysw a n) s = .next t ∧ limit t = ((operand s [a] 0).extractLsb' 0 40).setWidth 64) ∧
    (unwritten s n → GivesData (.sysr d n) d [] s (limit s))) ∧
  (∀ c, (State.reset.core c).cregs.btmo = 0 ∧ (State.reset.core c).cregs.ltmo = 0) ∧
  (∀ (s : State) (core i : Nat) (w : BWaitRec) (p : Park),
    let c := s.carrel core i
    let limit := (s.core core).cregs.btmo
    c.st = .parked → (s.core core).live = true → c.park = some { p with why := .bwait w } → w.got = none →
      (limit = 0 ∨ p.cycles < limit.toNat → exec (.bwaitTimeout core i) s = .next s) ∧
      (limit ≠ 0 → limit.toNat ≤ p.cycles → c.settled = true → c.pair = false → c.lv = 0 →
        ∃ t, exec (.bwaitTimeout core i) s = .next t ∧ (t.carrel core i).cause = causeWord 0x283 c.hints.length ∧
          (t.carrel core i).tval = w.addr ∧ (t.carrel core i).st = .runtime ∧ (t.carrel core i).lv = 1 ∧
          (t.carrel core i).epc = c.groupPc ∧ (t.carrel core i).park = none ∧ (t.carrel core i).regs = c.regs)) ∧
  (∀ (s t : State) (core i v : Nat) (w : LWaitRec) (p : Park),
    let c := s.carrel core i
    let limit := (s.core core).cregs.ltmo
    c.st = .parked → (s.core core).live = true → c.park = some { p with why := .lwait w } → w.req = none → p.pops = [] →
      (limit = 0 ∨ p.cycles < limit.toNat → exec (.lwaitTimeout core i) s = .next s) ∧
      (limit ≠ 0 → limit.toNat ≤ p.cycles → lwaitView s core i w = (t, v, false) → geq w.typ v w.x.toNat = false →
        let c' := t.carrel core i
        (w.d ≠ 0 → c'.park = c.park → c'.stream w.d = none → ∃ u, exec (.lwaitTimeout core i) s = .next u ∧
          (u.carrel core i).read w.d = { val := (1 : BitVec 1) ++ (0 : BitVec 63) ++ BitVec.ofNat 64 v, tag := false } ∧
          (u.carrel core i).pc = c'.pc + 4 ∧ (u.carrel core i).issues = true) ∧
        (w.d = 0 → c'.settled = true → c'.lv = 0 → ∃ u, exec (.lwaitTimeout core i) s = .next u ∧
          (u.carrel core i).cause = causeWord 0x183 c'.hints.length ∧ (u.carrel core i).tval = w.addr ∧
          (u.carrel core i).st = .runtime ∧ (u.carrel core i).lv = 1)))

/-- Messages on their way (R28 to R30, R43, R59, R60, R281, R302). The first message of a stream leaves with the stream's sequence
number, and a refused one is sent again with the same one; what its destination has taken already is acknowledged and has no effect.
A message that its core can take enters the inbox with the tag's SEQ, counts in PEND
and is acknowledged; a tag that is not installed sends the sender 0x241, and a full tag a refusal. A remote register write lands
in the earliest activation of the tag, unless the carrel has written the register itself in the cycle (R60); without one it is held. The acknowledgement ends the message at its sender. When an
accepted message is acknowledged, and that a duplicate is acknowledged before it is discarded, are the model's reading (log entry 60). -/
def Obligations.MessageEvents : Prop :=
  ∀ (s : State) (core idx cluster : Nat),
    (∀ m, (s.core core).out[idx]? = some m → m.inFlight = false → firstOfStream s (s.core core).out idx m = true →
      s.isOwnDev (destDev m.dest) = true →
      ∀ i, (i = Instr.messageInject core idx ∧ m.refused = false) ∨ (i = .messageRetry core idx ∧ m.refused = true) →
        let q := if m.again then m.seq else fgetD (s.core core).sendSeq (m.stream s) 0
        ∃ t f, exec i s = .next t ∧ t.flits = s.flits ++ [f] ∧ f.dst = destCore m.dest / 16 ∧ f.dslot = destCore m.dest % 16 ∧
          f.src = core / 16 ∧ f.sslot = core % 16 ∧ f.tag = m.tag ∧ f.seq = q ∧ f.body = .msg m.body m.score ∧ f.age = 0 ∧
          (m.again = false → fgetD (t.core core).sendSeq (m.stream s) 0 = (q + 1) % 65536) ∧
          (m.again = true → (t.core core).sendSeq = (s.core core).sendSeq) ∧
          (∃ m', (t.core core).out[idx]? = some m' ∧ m'.inFlight = true ∧ m'.refused = false ∧ m'.body = m.body) ∧
          (t.core core).carrels = (s.core core).carrels ∧ t.mem = s.mem) ∧
    (∀ f ws kind score, (s.cluster cluster).arrived[idx]? = some f → f.body = .msg (.msg ws kind) score →
      f.fromPeer = false → (duplicate s f = true → ∃ t, exec (.messageArrival cluster idx) s = .next t ∧
        t.flits = s.flits ++ [ackFlit f false none] ∧ (t.core f.dstCore).inbox = (s.core f.dstCore).inbox ∧ t.mem = s.mem) ∧
      (duplicate s f = false → holdFlit s f = none → inBayOf s f.ctx f.dstCore = true → unbacked s f.dstCore = false →
      let c := f.dstCore
      let h := (s.core c).tagOf f.tag
      ((h.inst = true → h.pend < 255 → (s.core c).inbox.length < 512 → (s.core c).twin = none →
        ∃ t, exec (.messageArrival cluster idx) s = .next t ∧
          (∃ e, (t.core c).inbox = (s.core c).inbox ++ [e] ∧ e.tag = f.tag ∧ e.seq = h.seq ∧ e.kind = kind ∧ e.sdev = f.dev ∧
            e.score = score ∧ e.words = ws ∧ e.cyc = s.cycle ∧ e.fresh = true ∧ e.started = false) ∧
          (t.core c).tagOf f.tag = { h with seq := (h.seq + 1) % 65536, pend := h.pend + 1 } ∧
          t.flits = s.flits ++ [ackFlit f false none] ∧ t.mem = s.mem) ∧
      (h.inst = false → f.tag ≠ 63 → ∃ t, exec (.messageArrival cluster idx) s = .next t ∧
          t.flits = s.flits ++ [ackFlit f false (some 0x241)] ∧ (t.core c).inbox = (s.core c).inbox ∧
          (t.core c).tags = (s.core c).tags ∧ (t.core c).carrels = (s.core c).carrels) ∧
      (h.inst = true → 255 ≤ h.pend → ∃ t, exec (.messageArrival cluster idx) s = .next t ∧
          t.flits = s.flits ++ [ackFlit f true none] ∧ t.cores = s.cores)))) ∧
    (∀ f n w score, (s.cluster cluster).arrived[idx]? = some f → f.body = .msg (.rput n w) score → n < 32 →
      duplicate s f = false → holdFlit s f = none → inBayOf s f.ctx f.dstCore = true → unbacked s f.dstCore = false →
      f.fromPeer = false → ((s.core f.dstCore).tagOf f.tag).inst = true → rputBound (s.core f.dstCore) f.tag n = false → (s.core f.dstCore).twin = none →
      let c := f.dstCore
      let r : Reg := BitVec.ofNat 6 (32 + n)
      (∀ i, rputCarrel (s.core c) f.tag = some i → r ∈ (s.carrel c i).wrote → ∃ t, exec (.rputArrival cluster idx) s = .next t ∧
        (t.carrel c i).regs = (s.carrel c i).regs) ∧
      (∀ i, rputCarrel (s.core c) f.tag = some i → r ∉ (s.carrel c i).wrote → ∃ t, exec (.rputArrival cluster idx) s = .next t ∧
        ((t.carrel c i).creg r).val = (pwordCap w).val ∧ ((t.carrel c i).creg r).tag = (pwordCap w).tag ∧
        ((t.carrel c i).creg r).present = true ∧ (∀ q, q ≠ r → (t.carrel c i).creg q = (s.carrel c i).creg q) ∧
        (∀ j, j ≠ i → t.carrel c j = s.carrel c j) ∧ t.flits = s.flits ++ [ackFlit f false none] ∧ t.mem = s.mem) ∧
      (rputCarrel (s.core c) f.tag = none → (s.core c).inbox.length < 512 → ∃ t, exec (.rputArrival cluster idx) s = .next t ∧
        (∃ e, (t.core c).inbox = (s.core c).inbox ++ [e] ∧ e.tag = f.tag ∧ e.held = some (n, w)) ∧
        (t.core c).carrels = (s.core c).carrels ∧ ((t.core c).tagOf f.tag).pend = ((s.core c).tagOf f.tag).pend)) ∧
    (∀ f dest tag refused, (s.cluster cluster).arrived[idx]? = some f → f.body = .ack core dest tag refused none →
      ∀ n m, (s.core core).out[n]? = some m → m.inFlight = true → m.tag = tag → destCore m.dest = dest →
        s.isOwnDev (destDev m.dest) = true →
        (∀ j < n, ∀ x, (s.core core).out[j]? = some x →
          ¬(x.inFlight = true ∧ x.tag = tag ∧ destCore x.dest = dest ∧ s.isOwnDev (destDev x.dest) = true)) →
        ∃ t, exec (.streamAck cluster idx) s = .next t ∧
          (refused = false → (t.core core).out = (s.core core).out.eraseIdx n) ∧
          (refused = true → ∃ m', (t.core core).out[n]? = some m' ∧ m'.refused = true ∧ m'.inFlight = false))

/-- Commit-queue entries as they take effect (R166, R169, R198, R200, R210, R214, R270, R331, R336, R377 to R382, R394). A store
to the core's own scratchpad writes there, one past the caches changes exactly its bytes of memory; a message goes to the
network interface; TAGCTL changes the handler table; a command enters its engine's queue; BARM and BARB act on their object, whose poisoned sectors
are first put right from the twin copy; a
join puts the merge of the old value and the operand into the cell of its die, and changes nothing in a poisoned cell (R211, R214). A waiting BARR arrives once the entries before it are gone. -/
def Obligations.EntryEvents : Prop :=
  (∀ (s : State) (core idx : Nat) (e : Entry), due s core idx e →
    let rest := (s.core core).queue.filter fun x => x.id ≠ e.id
    (e.eff = .marker → ∃ t, exec (.commitEntryPerform core idx) s = .next t ∧ (t.core core).queue = rest ∧
      (t.core core).carrels = (s.core core).carrels ∧ t.mem = s.mem) ∧
    (∀ r o bs tag, e.eff = .store (((List.range bs.length).map fun j => Loc.scr core r (o + j)).zip bs) tag → bs ≠ [] →
      (∀ x ∈ (s.core core).queue.take idx, x.id ≠ e.id) →
      exec (.commitEntryPerform core idx) s = .next (dropEntry (scrWrite s core r o (bs.map fun b => (b, tag))) core e.id)) ∧
    (∀ pa bs tag, e.eff = .store (((List.range bs.length).map fun j => Loc.mem (pa + j)).zip bs) tag → e.through = true →
      e.window.contains (pa / 4096) = true → bs ≠ [] → pa % 4096 + bs.length ≤ 4096 → (∀ x ∈ (s.core core).queue.take idx, x.id ≠ e.id) → s.memOk →
      ∃ t, exec (.commitEntryPerform core idx) s = .next t ∧ (t.core core).queue = rest ∧
        (∀ j < bs.length, t.memByte (pa + j) = (bs.getD j 0, tag)) ∧
        (∀ a, a < pa ∨ pa + bs.length ≤ a → t.memByte a = s.memByte a)) ∧
    (∀ dest tag ws, e.eff = .send dest tag ws → ∃ t m, exec (.commitEntryPerform core idx) s = .next t ∧
      (t.core core).queue = rest ∧ (t.core core).out = (s.core core).out ++ [m] ∧ m.dest = dest ∧ m.tag = tag ∧
      m.body = .msg ws 0 ∧ m.inFlight = false) ∧
    (∀ k op, e.eff = .tagctl k op → ∃ t, exec (.commitEntryPerform core idx) s = .next t ∧ (t.core core).queue = rest ∧
      (t.core core).tagOf k = (applyTagctl (s.core core) k op).tagOf k ∧
      (∀ j, j ≠ k → (t.core core).tagOf j = (s.core core).tagOf j)) ∧
    (∀ op, e.eff = .engine op → (s.engine (core / 16)).queue.length < 64 →
      ∃ t, exec (.engineQueueEntry core idx) s = .next t ∧ (t.core core).queue = rest ∧
        (t.engine (core / 16)).queue = (s.engine (core / 16)).queue ++ [{ op := op, core := core, ctx := e.ctx, pc := e.pc }]) ∧
    (∀ a w r o, e.eff = .barm a (.scr core r o) w → ∃ t, exec (.barmApply core idx) s = .next t ∧ (t.core core).queue = rest ∧
      let u := healRegion s core r o 16
      t = dropEntry (barUpdate u core r o core false fun obj => (barInit obj w, [])) core e.id) ∧
    (∀ a w r o, e.eff = .barb a (.scr core r o) w → barPoisoned (healRegion s core r o 16) core r o = false →
      let t := dropEntry (healRegion s core r o 16) core e.id
      let count := fun (n : Nat) => barCount n (w.getLsbD 63) (w.getLsbD 62) (w.extractLsb' 0 40).toNat
      let u := barUpdate t core r o core false count
      exec (.barbApply core idx) s = .next (if barBroken (barObject t core r o) = false ∧
          barBroken (count (barObject t core r o)).1 = true ∧ (s.core core).twinOf = none
        then postNotice u core 0x282 0 a e.pc else u)) ∧
    (∀ pa typ n v, e.eff = .join pa typ n v → exec (.cisternMerge core idx) s = .next (mergeEntry s core e pa typ n v) ∧
      (s.memOk → cellPoisoned s pa n = false →
        memCell (mergeEntry s core e pa typ n v) pa n = joinOf typ (memCell s pa n) v.toNat % 2 ^ (8 * n)) ∧
      (cellPoisoned s pa n = true → (mergeEntry s core e pa typ n v).mem = s.mem) ∧
      (s.memOk → ∀ a, a < pa ∨ pa + n ≤ a → (mergeEntry s core e pa typ n v).memByte a = s.memByte a)) ∧
    (∀ ch c, e.eff = .siph ch c → ((s.core core).chan ch).cmd = none → c.tile = none → ctlBarv c.ctl.toNat = false → c.count ≠ 0 →
      ∃ t, exec (.siphAccept core idx) s = .next t ∧ (t.core core).queue = rest ∧
        let x := (t.core core).chan ch
        x.cmd = some (.siph c) ∧ x.last = some (.siph c) ∧ x.v = true ∧ x.done = false ∧ x.flt = false ∧ x.wmk = 0 ∧ x.next = 0) ∧
    (∀ ch c, e.eff = .sgath ch c → ((s.core core).chan ch).cmd = none → tileNamed s (core / 16) c.ta = false →
      tileNamed s (core / 16) c.tb = false → (leNat ((c.raw.drop 0x30).take 8)).testBit 8 = false →
      ∃ t, exec (.sgathAccept core idx) s = .next t ∧ (t.core core).queue = rest ∧
        ((t.core core).chan ch).cmd = some (.gath c) ∧ ((t.core core).chan ch).v = true ∧ ((t.core core).chan ch).done = false) ∧
    (∀ ch w, e.eff = .scfg ch w → ((s.core core).queue.take idx).any (aboutChan ch) = false →
      ∃ t, exec (.scfgApply core idx) s = .next t ∧ (t.core core).queue = rest ∧
        (t.core core).chan ch = { (s.core core).chan ch with cnote := w.getLsbD 0, hipri := w.getLsbD 1 })) ∧
  (∀ (s : State) (c i : Nat) (b : BarrWait) (r o : Nat), (s.carrel c i).barr = some b → b.result = none → b.req = none →
    (∀ id ∈ b.entries, ∀ x ∈ (s.core c).queue, x.id ≠ id) → placeOf s c b.addr.toNat = .scr c r o →
    let u := healRegion s c r o 16
    barPoisoned u c r o = false →
    let a := barArrival u c r o c false
    exec (.barrUpdate c i) s = .next (a.1.modCarrel c i fun y => { y with barr := y.barr.map fun z => { z with result := some a.2 } }))

/-- The elements of bound streams (R197, R207, R208). STREAM_FETCH loads the next element of a read stream: a misaligned one and
one whose capability fails become faulty elements, a cistern cell gives its view, and anything else an ordinary load.
STREAM_CONVERT turns the first appended element of a write stream into an outbox entry; the last one of an Ending carrel takes its
bindings away (R353). -/
def Obligations.StreamEvents : Prop :=
  ∀ (s : State) (core i reg : Nat) (st : Stream), streamAt s core i reg = some st →
    let r : Reg := BitVec.ofNat 6 reg
    let a := streamAddr st (if st.write then ((st.buffer.head?).map (·.1)).getD 0 else st.next)
    let x : Word := BitVec.ofNat 64 a
    let u : State := { s with cur := (core, i) }
    let gets := fun (t : State) (e : StreamElem) => exec (.streamFetch core i reg) s = .next (pushElem t core i r e)
    (st.write = false → st.next < st.total → st.ready.length < 16 →
      (a % st.size ≠ 0 → gets u (.fault 0x101 x)) ∧
      (a % st.size = 0 → ∀ c, capCheck u core st.base a st.size permR = some c → gets u (.fault c x)) ∧
      (a % st.size = 0 → capCheck u core st.base a st.size permR = none →
        ∀ t p, places u core (u.core core).ctx a st.size .read = (t, .ok p) → siphStall t core a st.size = .go →
          (cellOf p = none → ∀ v, issueLoad (pushElem t core i r (.pending (t.core core).nextId))
              { id := 0, dest := .stream r st.size st.sign, addr := x, size := st.size,
                elems := [elemOf p.window ⟨4, 4, []⟩ 0 a p.locs] } = .done v → exec (.streamFetch core i reg) s = .next v) ∧
          (∀ pa typ, cellOf p = some (pa, typ) → st.size = cellSize typ → (st.size = 4 ∨ st.size = 8) → hasDram pa = true →
            loadHeld t ((List.range st.size).map fun j => .mem (pa + j)) = false →
            ∀ z v, viewCell t core i pa typ st.size {} = (z, v, false) →
              gets z (.value (if st.sign then (if st.size = 4 then (BitVec.ofNat 32 v).signExtend 64 else BitVec.ofNat 64 v)
                else BitVec.ofNat 64 (v % 2 ^ (8 * st.size))))))) ∧
    (∀ t e, (pushElem t core i r e).mem = t.mem ∧ ∀ q : Stream, (t.carrel core i).stream r = some q →
      ((pushElem t core i r e).carrel core i).stream r = some { q with ready := q.ready ++ [e], next := q.next + 1 }) ∧
    (∀ n v rest, st.write = true → st.buffer = (n, v) :: rest → (s.carrel core i).outbox.length < 64 →
      ∀ t p, places u core (u.core core).ctx a st.size .write = (t, .ok p) → cellOf p = none → badLoc p.locs = none →
        (∀ ga ls, p.locs ≠ .peer ga :: ls) → (t.carrel core i).outbox = (s.carrel core i).outbox →
        ∃ w e, exec (.streamConvert core i reg) s = .next w ∧ (w.carrel core i).outbox = (s.carrel core i).outbox ++ [e] ∧
          e.eff = .store (p.locs.zip (natBytes st.size v.toNat)) false ∧
          (let ss := fset (s.carrel core i).streams r.toNat { st with buffer := rest }
           (w.carrel core i).streams = if (s.carrel core i).st = .ending ∧ ∀ p ∈ ss, p.2.write = true → p.2.buffer = [] then []
             else ss) ∧ w.mem = t.mem)

/-- The catalogue (R153 to R160, R333). A message at a home is served in its turn: a request by its rounds, an eviction notice, the
answers of clusters; one at a cluster by its L2F, and the answer goes back. Content is stated where one entry or none lies in the way: a first GETO makes the requester the
owner and GRANTs it; one that meets a holder sends it INV, with WB for an atomic (log entry 97), and waits; an UNCR is answered with the bytes of
memory; IACK from the last holder hands the block over; FACK from the owner shares it; a GRANT lets its store or atomic go on. Reads of home memory do not change it. The first GETS
of a tract that no entry covers makes a Private entry that names the requester, and DATA with the bytes of memory, in pieces of at
most 64 bytes (R300). Under pressure
an idle Private entry is dropped silently and its drop bit set; two quiet siblings with the same holders become one tract. That INV and FETCH act in one step
(log entry 58), the size of a first tract and the choice of the entry to drop (log entry 85) are the model's. -/
def Obligations.CatalogueEvents : Prop :=
  ∀ (s : State) (die k idx : Nat),
    let u := homeDrop s die idx
    let v := clusterDrop s k idx
    (∀ p ∈ [(Instr.catalogueGets die idx, CatKind.gets), (.catalogueGeto die idx, .geto), (.catalogueUncr die idx, .uncr),
        (.catalogueUncw die idx, .uncw)], ∀ m, homeTake s die idx p.2 = some m →
      exec p.1 s = .next (serveRequest u die m) ∧ (p.2 = .gets ∨ p.2 = .uncr → (serveRequest u die m).mem = s.mem)) ∧
    (∀ m, (s.die die).entries = [] → (s.die die).filter = [] → m.die = die → 0 < m.len → m.pa / 65536 = (m.pa + m.len - 1) / 65536 →
      (homeTake s die idx .geto = some m → ∃ t e f x, exec (.catalogueGeto die idx) s = .next t ∧ (t.die die).entries = [e] ∧
        e.isShared = false ∧ e.ptrs = [(m.cluster, true)] ∧ e.cur = none ∧ f ∈ t.flits ∧ f.dst = m.cluster ∧ f.body = .cat x ∧
        x.kind = .grant ∧ x.req = m.req) ∧
      (homeTake s die idx .uncr = some m → m.atomic = false → ∃ t fs, exec (.catalogueUncr die idx) s = .next t ∧ t.flits = s.flits ++ fs ∧
        (fs.flatMap fun f => match f.body with
          | .cat x => x.data
          | _ => []) = s.readMem m.pa m.len ∧ (t.die die).entries = []) ∧
      (homeTake s die idx .uncw = some m → ∃ t f x, exec (.catalogueUncw die idx) s = .next t ∧
        (∀ e ∈ (t.die die).entries, e.ptrs.map (·.1) = [m.cluster] ∧ e.cur = none) ∧ f ∈ t.flits ∧ f.dst = m.cluster ∧ f.body = .cat x ∧
        x.kind = .grant ∧ x.req = m.req)) ∧
    (∀ m e k dm, homeTake s die idx .geto = some m → (s.die die).entries = [e] → e.lo ≤ m.pa → m.pa + m.len ≤ e.hi → 0 < m.len →
      e.coarse = false → e.ptrs = [(k, dm)] → k ≠ m.cluster → e.disc = false →
      ∃ t f x e', exec (.catalogueGeto die idx) s = .next t ∧ t.flits = s.flits ++ [f] ∧ f.dst = k ∧ f.body = .cat x ∧ x.kind = .inv ∧
        x.pa = m.pa ∧ x.len = m.len ∧ x.wb = m.atomic ∧ (t.die die).entries = [e'] ∧ e'.cur = some m ∧ e'.wait = [k] ∧
        e'.ptrs = e.ptrs ∧ t.mem = s.mem) ∧
    (∀ m q e, (s.die die).entries = [e] → e.lo ≤ m.pa → m.pa < e.hi → e.wait = [m.cluster] → e.cur = some q → e.recalled = false →
      e.disc = false → e.acks = [] → e.coarse = false → e.lo ≤ q.pa → 0 < q.len → q.pa + q.len ≤ e.hi →
      (homeTake s die idx .iack = some m → q.kind = .geto → m.hold = false → ∃ t f x e', exec (.catalogueIack die idx) s = .next t ∧
        (t.die die).entries = [e'] ∧ e'.ptrs = [(q.cluster, true)] ∧ e'.isShared = false ∧ e'.cur = none ∧ f ∈ t.flits ∧ f.dst = q.cluster ∧
        f.body = .cat x ∧ x.kind = .grant ∧ x.req = q.req) ∧
      (homeTake s die idx .fack = some m → q.kind = .gets → q.cluster ≠ m.cluster → (∃ dm, e.ptrs = [(m.cluster, dm)]) →
        ∃ t fs e', exec (.catalogueFack die idx) s = .next t ∧ t.flits = s.flits ++ fs ∧
          (fs.flatMap fun f => match f.body with
            | .cat x => x.data
            | _ => []) = s.readMem q.pa q.len ∧
          (t.die die).entries = [e'] ∧ e'.ptrs = [(m.cluster, m.dirty), (q.cluster, false)] ∧ e'.isShared = true ∧ e'.cur = none ∧
          t.mem = s.mem)) ∧
    (∀ m, homeTake s die idx .gets = some m → (s.die die).entries = [] → (s.die die).filter = [] → m.die = die → m.atomic = false →
      0 < m.len → m.pa / 65536 = (m.pa + m.len - 1) / 65536 →
      ∃ t fs, exec (.catalogueGets die idx) s = .next t ∧ t.flits = s.flits ++ fs ∧
        (∀ f ∈ fs, f.dst = m.cluster ∧
          ∃ x, f.body = .cat x ∧ x.kind = .data ∧ x.req = m.req ∧ x.len ≤ 64 ∧ x.data = s.readMem x.pa x.len) ∧
        (fs.flatMap fun f => match f.body with
          | .cat x => x.data
          | _ => []) = s.readMem m.pa m.len ∧
        (∃ e, (t.die die).entries = [e] ∧ e.isShared = false ∧ e.ptrs = [(m.cluster, false)] ∧ e.cur = none ∧
          e.lo = m.pa / 65536 * 65536 ∧ e.hi = m.pa / 65536 * 65536 + 65536)) ∧
    (∀ m, homeTake s die idx .evn = some m →
      let t := if m.dirty then sendToCluster (writeNotice u die m)
          { kind := .eack, cluster := m.cluster, die := die, pa := m.pa, len := m.len, colour := m.colour } else u
      exec (.catalogueEvn die idx) s = .next (t.modDie die fun d => { d with entries := d.entries.flatMap (noteEvict t m) }) ∧
        (m.dirty = false → t.mem = s.mem)) ∧
    (∀ m, homeTake s die idx .iack = some m →
      exec (.catalogueIack die idx) s = .next (afterAnswer (countAnswer u die m id) die m.pa)) ∧
    (∀ m, homeTake s die idx .fack = some m →
      exec (.catalogueFack die idx) s = .next (afterAnswer (countAnswer u die m noteDleft) die m.pa)) ∧
    (∀ m, homeTake s die idx .dack = some m →
      let t := countAnswer u die m id
      (∀ e, entryOf t die m.pa = some e → e.disc = true → e.wait = [] →
        exec (.catalogueDack die idx) s = .next (rebuild t die e)) ∧
      (∀ e, entryOf t die m.pa = some e → e.disc = false ∨ e.wait ≠ [] → exec (.catalogueDack die idx) s = .next t)) ∧
    (∀ m, clusterTake s k idx .eack = some m → ∃ t, exec (.catalogueEack k idx) s = .next t ∧
      (t.cluster k).evn = (s.cluster k).evn.erase (m.pa, m.len) ∧ (t.cluster k).l2 = (s.cluster k).l2 ∧ t.mem = s.mem) ∧
    (∀ m, clusterTake s k idx .inv = some m →
      let w := removeExtent (if m.wb then copyBackExtent v k m.pa m.len else v) k m.pa m.len
      exec (.catalogueInv k idx) s = .next (sendToHome w.1 (reportOn w.1 k m .iack w.2))) ∧
    (∀ m, clusterTake s k idx .fetch = some m →
      let t := writeBackExtent v k m.pa m.len
      exec (.catalogueFetch k idx) s = .next (sendToHome t (reportOn t k m .fack false))) ∧
    (∀ m, clusterTake s k idx .disc = some m → ∃ t f, exec (.catalogueDisc k idx) s = .next t ∧ t.flits = s.flits ++ [f] ∧
      (∃ x, f.body = .cat x ∧ x.kind = .dack ∧ x.cluster = k ∧ x.hold = !(holdings s k m.lo m.hi).isEmpty) ∧
      (t.cluster k).l2 = (s.cluster k).l2 ∧ t.mem = s.mem) ∧
    (∀ m, clusterTake s k idx .data = some m →
      ((s.cluster k).reqs.find? (fun q => q.id == m.req) = none → exec (.catalogueData k idx) s =
        .next (feedLoads (fillFolio v k m) k m)) ∧
      (∀ q c i id, (s.cluster k).reqs.find? (fun q => q.id == m.req) = some q → q.user = .access c i id →
        exec (.catalogueData k idx) s = .next (feedUncached (if m.last = true
          then v.modCluster k fun c => { c with reqs := c.reqs.filter fun q => q.id ≠ m.req } else v) m c i id))) ∧
    (∀ m q, clusterTake s k idx .grant = some m → (s.cluster k).reqs.find? (fun q => q.id == m.req) = some q →
      exec (.catalogueGrant k idx) s = .next (useGrant
        (v.modCluster k fun c => { c with reqs := c.reqs.filter fun x => x.id ≠ q.id }) q) ∧
      (∀ c id e, q.user = .entry c id → (s.core c).queue.find? (fun e => e.id == id) = some e →
        ∃ t, exec (.catalogueGrant k idx) s = .next t ∧ t.mem = s.mem ∧
          ((∃ tag, e.eff = .store [] tag) → (t.core c).queue = (s.core c).queue.filter fun x => x.id ≠ id) ∧
          ((∀ tag, e.eff ≠ .store [] tag) → (t.core c).queue.find? (fun e => e.id == id) = some { e with sent := none }))) ∧
    (∀ e, leastRecent ((s.die die).entries.filter fun e => e.cur.isNone && !e.isShared) = some e →
      ∃ t, exec (.catalogueReplacement die) s = .next t ∧ t.flits = s.flits ∧ t.mem = s.mem ∧
        (t.die die).entries = (s.die die).entries.filter (fun x => x.tract ≠ e.tract) ∧
        e.lo / 65536 ∈ (t.die die).filter ∧ (∀ x, x ∈ (s.die die).filter → x ∈ (t.die die).filter)) ∧
    (∀ base a b, (s.die die).entries.find? (fun e => e.lo == base) = some a →
      (s.die die).entries.find? (fun e => e.lo == base + 2 ^ (a.size + 6) && e.size == a.size) = some b →
      a.size < 10 → base % (2 * 2 ^ (a.size + 6)) = 0 → a.cur = none → b.cur = none → a.quietFor s.cycle = 2 ^ 20 →
      b.quietFor s.cycle = 2 ^ 20 → sameHolders a b = true →
      ∃ t m, exec (.tractMerge die base) s = .next t ∧ m ∈ (t.die die).entries ∧ m.lo = base ∧
        m.hi = base + 2 * 2 ^ (a.size + 6) ∧ m.isShared = a.isShared ∧ t.mem = s.mem ∧ t.flits = s.flits)

/-- Loads that go on, fills, soft errors, and what arrives from other agents (R102, R123, R131, R136, R145, R149, R150, R164, R278,
R288, R300 to R310, R319). A load whose last bytes can be read ends with them in its register; an answer is kept for its access or
ends its entry; a request without an answer fails at FABLIM. TIME and the age of every injected flit advance together. A message toward a peer
goes out in a link flit of 256 bytes with its CRC; a flit in its turn is taken, a port sends again what is not acknowledged, and goes
down after 16 failed replays. Once a cycle a router takes a flit that has reached its target, and sends on one that has not by a
port that shortens its way. That a link flit comes with its decoded messages (log entry 77), a cluster's own count of errors
(log entry 70) and the bytes of a step of a fill (log entry 81) are the model's. -/
def Obligations.MemoryAndNetworkEvents : Prop :=
  ∀ (s : State),
    (∀ c i idx l bs, (s.carrel c i).loads[idx]? = some l → l.op = .load → l.dest ≠ .none → l.got = [] → l.errs = [] →
      heal s c l = s → l.elems = [bs] →
      ∀ got, captureElem (fun p => match baseNow s c bs.reach p with
          | some b => some b
          | none => respBase s bs p) (pendingFor s c i l.id) bs = some got →
        respErr s bs = none → (got.all fun b => !b.poison) = true →
        exec (.loadComplete c i idx) s = .next (finishLoad (touchRead s c l l.elems) c i { l with elems := [], got := got })) ∧
    (∀ c idx n f g ps, ((s.core c).l1.folios.filter fun f => f.st == .filling)[idx]? = some f →
      fillBytes (s.cluster (c / 16)).l2 n f [] = (g, ps) → g.wmk ≠ f.wmk →
      ∃ t, exec (.fillDataReturn c idx n) s = .next t ∧ t.mem = s.mem ∧ t.clusters = s.clusters ∧
        (t.core c).carrels = (s.core c).carrels) ∧
    (∀ c i (r : Reg) (v : VReg) w, r ≠ 0 →
      (∃ t, exec (.softErrorDetected (.reg c i r)) s = .next t ∧ ((t.carrel c i).creg r).ecc = true ∧
        (∀ q, (t.carrel c i).read q = (s.carrel c i).read q) ∧ t.mem = s.mem) ∧
      (∃ t, exec (.softErrorDetected (.vreg c i v)) s = .next t ∧ ((t.carrel c i).vreg v).ecc = true ∧
        ∀ q, ((t.carrel c i).vreg q).val = ((s.carrel c i).vreg q).val) ∧
      (∃ t, exec (.softErrorDetected (.memory w)) s = .next t ∧ w ∈ t.memPoison ∧ t.mem = s.mem ∧
        ∀ x, x ∈ s.memPoison → x ∈ t.memPoison)) ∧
    (∀ k p, 16 < p → exec (.correctedError k p none) s = .next (s.modCluster k fun c => { c with errors := c.errors + 1 })) ∧
    (∀ k p, p ≤ 16 → let w := s.health k p
      ∃ t, exec (.correctedError k p none) s = .next t ∧ ceb (t.health k p) = min 255 (ceb w + 1) ∧ cet (t.health k p) = cet w ∧
        t.mem = s.mem ∧ t.cores = s.cores) ∧
    (∀ k idx f op r o q, (s.cluster k).arrived[idx]? = some f → f.body = .space2 op r o q → duplicate s f = false → holdSpace2 s f = none →
      let t := s.modCluster k fun c => { c with arrived := dropAt c.arrived idx }
      let a := answerScr t f.ctx f.dstCore r o f.srcCore op
      exec (.space2AccessArrival k idx) s = .next (reply a.1 f q a.2)) ∧
    (∀ (r : PeerReq), exec (.peerRequestArrival r) s = .next (if peerBusy s r then s else peerRequest s r) ∧
      (fget s.ctxs r.ctx = none → (∀ id x, r.op ≠ .answer id x) → peerBusy s r = false ∧
        peerRequest s r = replyPeer s (PeerReq.back r) .error)) ∧
    (∀ (m : LinkMsg) p, portOf s m = some p → (s.port p).queue = [] → (s.port p).down = false → (s.port p).replay.length < 64 →
      (s.port p).canClaim m.lane = true → (m.bytes s.hub.devid).length ≤ 240 →
      ∃ t f, sendLink s m = some t ∧ t.outs = s.outs ++ [.linkFlit p f] ∧ f.bytes.length = 256 ∧ linkSound f.bytes 1 = true ∧
        leNat (f.bytes.take 2) = (s.port p).lseq % 65536 ∧ (f.bytes.drop 8).take (m.bytes s.hub.devid).length = m.bytes s.hub.devid ∧
        (t.port p).replay = (s.port p).replay ++ [f] ∧ (t.port p).queue = []) ∧
    (∀ id resp q, s.reqs.find? (fun x => x.id == id) = some q → q.outside = true → q.resp = none → resp ≠ .retry →
      ∀ c i a, q.user = .access c i a → (∃ l ∈ (s.carrel c i).loads, l.id = a) → ∃ t, exec (.remoteResponse id resp) s = .next t ∧ respOf t id = some resp ∧
        t.cores = s.cores ∧ t.mem = s.mem) ∧
    (∀ id q, s.reqs.find? (fun x => x.id == id) = some q → q.outside = true → q.resp = none → (∀ c i, q.user ≠ .lwait c i) →
      (s.hub.time.toNat < q.start + s.hub.fablim.toNat * 1000 → exec (.fablimTimeout id) s = .next s) ∧
      (q.start + s.hub.fablim.toNat * 1000 ≤ s.hub.time.toNat → ∀ c i a, q.user = .access c i a → (∃ l ∈ (s.carrel c i).loads, l.id = a) →
        ∃ t, exec (.fablimTimeout id) s = .next t ∧ respOf t id = some .error ∧ t.mem = s.mem)) ∧
    (∃ t, exec .timeTick s = .next t ∧ t.hub.time = s.hub.time + 1 ∧ t.flits = s.flits.map (fun f => if f.transit then { f with age := min 1023 (f.age + 1) } else f) ∧
      t.cores = s.cores ∧ t.mem = s.mem ∧ t.hub.epoch = s.hub.epoch) ∧
    (∀ k, exec (.flitRoute k) s = .next (routeStep s k) ∧ ((s.cluster k).routed = true → routeStep s k = s) ∧
      ((s.cluster k).routed = false →
        ((∀ f ∈ s.flits, f.at_ ≠ k) → routeStep s k = s.modCluster k fun c => { c with routed := true }) ∧
        (∀ f, s.flits = [f] → f.at_ = k → f.transit = true → f.moved = false →
          (∀ b score, f.body = .msg b score → f.peer = false → f.dst = k → (routeStep s k).flits = [] ∧
            ((routeStep s k).cluster k).arrived = (s.cluster k).arrived ++ [f]) ∧
          (f.target ≠ k → k < 256 → f.target < 256 → ∃ p < 4, (routeStep s k).flits = [f.hop k p] ∧
            distance (neighbour k p) f.target < distance k f.target)))) ∧
    (∀ p flit msgs, let x := s.port p
      let good := linkSound flit msgs.length = true ∧ carriesAll s.hub.devid ((flit.drop 8).take 240) msgs = true ∧
        msgs.any (peerBusy s) = false
      (x.down = true ∨ ¬good → exec (.linkFlitReceive p flit msgs) s = .next s) ∧
      (x.down = false → good →
        let y := acknowledge x (leNat ((flit.drop 2).take 2))
        exec (.linkFlitReceive p flit msgs) s = .next (if leNat (flit.take 2) = y.expected then takeFlit s p y flit msgs
          else sendAfter (s.setPort p y) p false))) ∧
    (∀ p, (s.port p).replay ≠ [] → (s.port p).down = false →
      ∃ t, exec (.linkReplay p) s = .next t ∧ t.outs = s.outs ++ (s.port p).replay.map (Output.linkFlit p) ∧
        (t.port p).fails = (s.port p).fails + 1 ∧ (t.port p).replay = (s.port p).replay) ∧
    (∀ p, (s.port p).down = false → 16 ≤ (s.port p).fails →
      ∃ t, exec (.portDown p) s = .next t ∧ (t.port p).down = true ∧ (t.port p).replay = [] ∧ (t.port p).queue = [] ∧ t.mem = s.mem ∧
        ((s.port p).replay.flatMap (·.msgs) ++ (s.port p).queue = [] → t.cores = s.cores ∧ t.outs = s.outs)) ∧
    (∀ p, (s.port p).fails < 16 → exec (.portDown p) s = .next s)


/-- Siphons, engines and pumps at work (R188, R190, R191, R196, R206, R214, R216, R217, R264, R265, R267, R269, R271, R272, R274).
A channel's next element is written; its command ends with DONE and WMK, or with FLT, its address and a notice. An engine starts
the head of its queue, or ends it with a notice; an INT8 MMA adds each exact sum of products, clamped to 32 bits, and a poisoned
tile poisons the accumulator; MACST converts and writes element after element, where a saturating conversion sets NSAT also when the
element's address faults; a migrated MMA runs on the neighbour and its accumulator comes
home. A participant begins a round when its interval has passed and its partners have begun theirs; a block's mark stays until it is
acknowledged. Partners whose rounds wait for each other begin together, which is the model's choice (log entry 61). -/
def Obligations.UnitEvents : Prop :=
  ∀ (s : State) (k : Nat),
    let e := s.engine k
    let nb := neighbourEngine k
    (∀ core ch c, let x := s.chan core ch
      x.cmd = some c → walks x = true → chanFrozen s core = false → x.inflight = [] → (x.hi = true ∨ hipriFirst s core ch = false) →
      (∀ d, c = .siph d → exec (.siphElementWrite core ch) s = .next (nextUnit s core ch d)) ∧
      (∀ g, c = .gath g → exec (.siphElementWrite core ch) s = .next (nextGath s core ch g)) ∧
      (∀ d n, c = .siph d → d.tile = some n → ctlBarv d.ctl.toNat = false → barWaits s core ch = false → d.scales ≤ x.next →
        x.next < d.units → d.unitSrc x.next = none → ∃ t, exec (.siphElementWrite core ch) s = .next t ∧ t.mem = s.mem ∧
          (t.chan core ch).next = x.next + 1 ∧ (∀ j < d.unitSize x.next,
            fget ((t.engine (clusterOf core)).tile n).bytes (d.unitDst x.next + j) = some (ctlPad d.ctl.toNat)) ∧
          ∀ a, a < d.unitDst x.next ∨ d.unitDst x.next + d.unitSize x.next ≤ a →
            fget ((t.engine (clusterOf core)).tile n).bytes a = fget ((s.engine (clusterOf core)).tile n).bytes a)) ∧
    (∀ core ch c, let x := s.chan core ch
      x.cmd = some c → x.written = true → x.failed = none → barWaits s core ch = false →
      exec (.siphDone core ch) s = .next (tryDone s core ch c) ∧
      (c.follow = none → nodeOf c = none → x.note = false → ∃ t, exec (.siphDone core ch) s = .next t ∧
        t.chan core ch = { x with cmd := none, wmk := c.span, done := true } ∧ t.mem = s.mem)) ∧
    (∀ core ch c a, let x := s.chan core ch
      x.cmd = some c → x.failed = some a → nodeOf c = none → ∃ t, exec (.siphFault core ch) s = .next t ∧
        t.chan core ch = { x with cmd := none, flt := true, faultAddr := a, failed := none, reading := none, inflight := [] } ∧
        t.mem = s.mem ∧ (x.quiet = false → (t.core core).out.length = (s.core core).out.length + 1)) ∧
    (∀ c rest, e.queue = c :: rest → e.running = none → e.migrant = none → headReady s k c = true →
      (∀ p, startCheck e c = some p → exec (.engineCommandStart k) s =
        .next (engineNotice (s.modEngine k fun e => { e with queue := rest }) c p.1 p.2)) ∧
      (startCheck e c = none → (∀ m, c.op = .macst m → macstBar m = none) → ∃ t, exec (.engineCommandStart k) s = .next t ∧
        (t.engine k).running = some c ∧ (t.engine k).queue = rest ∧ (t.engine k).accs = e.accs ∧ t.mem = s.mem)) ∧
    (∀ m : MmaCmd, ∀ c : EngCmd, c.op = .mma m → e.running = some c →
      ∃ t, exec (.engineCommandComplete k) s = .next t ∧ (t.engine k).running = none ∧ (t.engine k).tiles = e.tiles ∧ t.mem = s.mem ∧
        (∀ a, a ≠ m.acc → (t.engine k).acc a = e.acc a) ∧
        ((t.engine k).acc m.acc).poison = ((e.acc m.acc).poison || (e.tile m.a).poison || (e.tile m.b).poison) ∧
        ((e.acc m.acc).kind = .i32 → tdFmt m.tda.toNat = 2 → ∀ i < 128, ∀ j < 128,
          let sum : Int := signedOf 32 (fgetD (e.acc m.acc).elems (i * 128 + j) 0).toNat +
            ((List.range (tdCols m.tda.toNat)).map fun q => signedOf 8 ((e.tile m.a).elem (tdCols m.tda.toNat) 1 i q) *
              signedOf 8 ((e.tile m.b).elem (tdCols m.tdb.toNat) 1 q j)).sum
          signedOf 32 (fgetD ((t.engine k).acc m.acc).elems (i * 128 + j) 0).toNat = min (2 ^ 31 - 1) (max (-(2 ^ 31)) sum))) ∧
    (∀ m : MacstCmd, ∀ c : EngCmd, c.op = .macst m → e.running = some c → macstElems m ≤ m.next → bitAt m.ctl.toNat 34 = false →
      ∃ t, exec (.engineCommandComplete k) s = .next t ∧ (t.engine k).running = none ∧ (t.engine k).accs = e.accs ∧ t.mem = s.mem) ∧
    (∀ m : MacstCmd, ∀ c : EngCmd, c.op = .macst m → e.running = some c → m.next < macstElems m →
      let a := macstAddr m m.next
      let v := macstConvert m.kind (bitsAt m.ctl.toNat 32 2) (fgetD (e.acc m.acc).elems m.next 0).toNat
      let y := if v.2 then s.setAcc k m.acc { e.acc m.acc with nsat := true } else s
      let r := macstPlaces y c a (macstSize m)
      (∀ p, r.2 = .error p → exec (.macstWrite k) s =
        .next (postNotice (idleEngine r.1 k) c.core p.1 0 (BitVec.ofNat 64 a) c.pc)) ∧
      (∀ p pa ls, r.2 = .ok p → p.locs = .mem pa :: ls → badLoc p.locs = none →
        (homeHolds r.1 p = true → exec (.macstWrite k) s = .next s) ∧
        (homeHolds r.1 p = false → macstBar m = none → ∃ t, exec (.macstWrite k) s = .next t ∧
          ((t.engine k).acc m.acc).nsat = ((e.acc m.acc).nsat || v.2) ∧
          (t.engine k).running = some { c with op := .macst { m with next := m.next + 1 } } ∧
          t.mem = (macstPut r.1 c pa (tbytes (macstSize m) v.1 false) (p.window.contains (pa / 4096)) (e.acc m.acc).poison).mem))) ∧
    (∀ idx m, ∀ c : EngCmd, e.queue[idx]? = some c → c.op = .mma m → mayMigrate s k idx m = true →
      ∃ t, exec (.migration k idx) s = .next t ∧ (t.engine k).queue = dropAt e.queue idx ∧ (t.engine k).away = e.away ++ [c] ∧
        (t.engine nb).migrant = some { cmd := c, home := k, ta := e.tile m.a, tb := e.tile m.b, acc := e.acc m.acc, started := false } ∧
        t.mem = s.mem) ∧
    (∀ g m, e.migrant = some g → g.cmd.op = .mma m →
      (g.started = false → mmaStart m g.ta g.tb g.acc = none → ∃ t, exec (.migratedMmaStart k) s = .next t ∧
        (t.engine k).migrant = some { g with started := true } ∧ (t.engine k).accs = e.accs ∧ t.mem = s.mem) ∧
      (∀ p, g.started = false → mmaStart m g.ta g.tb g.acc = some p →
        exec (.migratedMmaStart k) s = .next (engineNotice (migrantLeaves s k g) g.cmd p.1 p.2)) ∧
      (g.started = true → ∃ t, exec (.migrationReturn k) s = .next t ∧ (t.engine k).migrant = none ∧
        (t.engine g.home).acc m.acc = mmaResult m g.ta g.tb g.acc ∧ (t.engine g.home).away = (s.engine g.home).away.erase g.cmd ∧
        t.mem = s.mem)) ∧
    (∀ idx p, pushAt s k idx = some p →
      let u := endMerge (joinL2 { s with pushes := s.pushes.erase p } k p.pa p.typ p.size p.val.toNat) p.merge
      exec (.replicaPush k idx) s = .next ((List.range u.ranges.length).foldl endRounds u)) ∧
    (∀ range r part, let u := liftHolds s
      u.ranges[range]? = some r → part ≤ modulePart → 1 < (layerOf u r part).1 →
      let n := (layerOf u r part).1
      (partReady u r part = true → (part = modulePart ∨ ∀ j ∈ partners r.sched n part (r.part part).round,
          (r.part part).round < (r.part j).round) →
        exec (.pumpRoundStart part range) s = .next (endRounds (beginRound u range part) range)) ∧
      (partReady u r part = false → exec (.pumpRoundStart part range) s = .next u)) ∧
    (∀ idx b, s.blocks[idx]? = some b →
      (comesIn b = true → b.merged = false → blockBusy s b = false →
        exec (.pumpBlockReceive idx) s = .next (receiveBlock s b)) ∧
      (let settle := fun (t : State) => endRounds (liftHolds { t with blocks := dropAt t.blocks idx }) b.range
       (b.req = none → exec (.pumpBlockAck idx) s = .next (if b.merged then (match b.back with
         | some d => settle (replyPeer s d (.ok [] false))
         | none => settle (clearMark s b)) else s)) ∧
       (∀ q, b.req = some q → exec (.pumpBlockAck idx) s = .next (match respOf s q with
         | none => s
         | some (.ok ..) => settle (clearMark (dropReq s q) b)
         | some _ => settle (dropReq s q))))) ∧
    (∀ init : RangeInit, cellSize init.typ ≠ 0 → init.len ≠ 0 → init.pgran % 2 ^ 26 + init.len ≤ dramBytes / 4096 → init.sched ≤ 2 →
      init.pgran < 2 ^ 28 → init.peers = [] → (fget s.ctxs init.ctx).isSome = true →
      init.entry < (s.ctx init.ctx).rtCount → ∃ t r, exec (.cisternRangeCreation init) s = .next t ∧ t.ranges = s.ranges ++ [r] ∧ r.ctx = init.ctx ∧ r.vgran = init.vgran ∧
        r.len = init.len ∧ r.pgran = init.pgran ∧ r.typ = init.typ ∧ r.peers = [] ∧
        (∀ p < 5, r.part p = { ended := s.hub.time.toNat }) ∧ (t.ctx init.ctx).rtCount = (s.ctx init.ctx).rtCount)


/-- The world outside, reliability, pairs and partitions (R4, R255, R278, R283 to R286, R288 to R294, R309, R311 to R315, R317 to
R321). A health count leaks by one in its interval; a reshelving copies an evacuated core, then rewrites its map entry and releases
what was held. Reset leaves the hub as the ROM does, with everything else in its first state. BAR2 reads and writes home memory
without the L2Fs; a host access that BAR0 does not take is discarded, and a read of it returns all ones; a write of 4 bytes leaves
the other half of its register. Two executions of a pair
with equal hashes are compared once; ones that differ replay once. Where the resident OS starts and in which context is opaque or the
model's (log entries 13, 52, 102), and so are what a module reset clears and what a failed policy leaves (log entry 68), what EVAC_LIMIT aborts
(71), a slot without a spare (72), what a switch waits for (73), and that a write of a health register keeps CEB (70). -/
def Obligations.HostEvents : Prop :=
  ∀ (s : State) (k p : Nat),
    let w := s.health k p
    let last := fgetD (s.cluster k).leaks p 0
    ((leakOf w ≠ 0 → last + 1000 * leakOf w ≤ s.hub.time.toNat → ∃ t, exec (.healthLeak k p) s = .next t ∧
        ceb (t.health k p) = ceb w - 1 ∧ cet (t.health k p) = cet w ∧ fgetD (t.cluster k).leaks p 0 = last + 1000 * leakOf w ∧
        t.mem = s.mem ∧ t.cores = s.cores) ∧
      (leakOf w = 0 → exec (.healthLeak k p) s = .next s)) ∧
    (exec (.healthRqWrite k p) s = .next (trigger s k p) ∧
      (∀ i, slotBacked s k p = some i → (s.cluster k).reshelve = none → clusterAway s k = false → disOf w = false →
        spareOf s k ≠ 0x1F → s.hasFeature 5 = true → ∃ t r, exec (.healthRqWrite k p) s = .next t ∧
          (t.cluster k).reshelve = some r ∧ r.slot = i ∧ r.phys = p ∧ r.spare = spareOf s k ∧ r.phase = .evacuate ∧ t.cores = s.cores)) ∧
    (∀ r, (s.cluster k).reshelve = some r → r.phase = .evacuate →
      (r.expired = false → r.limit ≤ r.cycles →
        exec (.evacLimitExpiry k) s = .next (abortAll (s.modCluster k fun c => { c with reshelve := some { r with expired := true } })
          (r.core k) fun x => x.st == .running || x.st == .runtime || x.st == .ending)) ∧
      (r.cycles < r.limit → exec (.evacLimitExpiry k) s = .next s) ∧
      (evacuated s (r.core k) = true → ∃ t, exec (.reshelveCopy k) s = .next t ∧
        (t.cluster k).reshelve = some { r with phase := .copied } ∧ (t.core (r.core k)).frozen = true ∧
        (t.core (r.core k)).inbox = (s.core (r.core k)).inbox ∧ (t.core (r.core k)).tags = (s.core (r.core k)).tags ∧ t.mem = s.mem) ∧
      (evacuated s (r.core k) = false → exec (.reshelveCopy k) s = .next s)) ∧
    (∀ r, (s.cluster k).reshelve = some r → r.phase = .copied → (s.cluster k).held = [] → (s.cluster k).waiting = [] →
      r.slot < 16 → r.spare < 17 → ∃ t, exec (.reshelveMapRelease k) s = .next t ∧ (t.cluster k).reshelve = none ∧
        physOf t (r.core k) = r.spare ∧ spareOf t k = 0x1F ∧ t.hub.epoch = s.hub.epoch + 1 ∧ (t.core (r.core k)).frozen = false ∧
        t.mem = s.mem) ∧
    (slotBacked s k p = none → exec (.coreFailure k p) s = .next s) ∧
    (∀ i, slotBacked s k p = some i →
      (reshelvingAt s k i .copied = true → exec (.coreFailure k p) s = .next s) ∧
      (reshelvingAt s k i .copied = false → clusterAway s k = true → exec (.coreFailure k p) s =
        .next (s.modCluster k fun c => { c with waiting := c.waiting ++ [(p, true)] })) ∧
      ((s.cluster k).reshelve = none → clusterAway s k = false →
        (disOf w = true ∨ spareOf s k = 0x1F ∨ s.hasFeature 5 = false → exec (.coreFailure k p) s =
          .next (loseSlot (s.tellOs (.shelfIrq (some (16 * k + i)))) k i p)) ∧
        (disOf w = false → spareOf s k ≠ 0x1F → s.hasFeature 5 = true →
          exec (.coreFailure k p) s = .next (flushCore (honour s k p) (16 * k + i))))) ∧
    (∀ v, ∃ t, exec (.shelfMapWrite k v) s = .next t ∧ t.hub.epoch = s.hub.epoch + 1 ∧
      (t.cluster k).shelf = some (v &&& ~~~((0xFFFFFF : Cap) <<< 104 ||| (1 : Cap) <<< 85)) ∧ t.cores = s.cores ∧ t.mem = s.mem) ∧
    (∀ b, ∃ t, exec (.moduleReset b) s = .next t ∧ t.mem = [] ∧ t.cores = [] ∧ t.clusters = [] ∧ t.ctxs = [] ∧
      (b.slot0 = false → b.slot1 = false → t.hub.bstat = 1 ∧ t.hub.boot = none ∧ t.hub.features = []) ∧
      (b.slot0 = true ∨ b.slot1 = true → stageOf t.hub.bstat = 1 ∧ bootErr t.hub.bstat = 0 ∧
        t.hub.bstat.extractLsb' 16 1 = (if b.slot0 then 0 else 1) ∧ t.hub.boot = some b ∧ t.hub.features = b.features)) ∧
    (∀ b, s.hub.boot = some b → ∃ t, exec .bootStageAdvance s = .next t ∧ stageOf t.hub.bstat = 2 ∧ t.hub.boot = none ∧
      t.hub.locked = true ∧ t.mem = s.mem ∧
      (b.policy = true → bootErr t.hub.bstat = bootErr s.hub.bstat ∧ t.hub.devid = b.devid % 4096 ∧
        ∀ i f, b.fences[i]? = some f → i < 16 → ∃ g, t.hub.fences[i]? = some g ∧
          g.1 = f.1 &&& 0xE00FFFFFFFFFFFFF ∧ g.2 = f.2 &&& 0x000FFFFFFFFFFFFF) ∧
      (b.policy = false → bootErr t.hub.bstat = 2 ∧ t.hub.fences = s.hub.fences) ∧
      ∀ i < 16, (t.carrel (4096 + i) 0).st = .running ∧ (t.carrel (4096 + i) 0).lv = 2 ∧ (t.carrel (4096 + i) 0).nr = true ∧
        (t.carrel (4096 + i) 0).pc = Config.bootPc i) ∧
    (s.hub.boot = none → 2 ≤ stageOf s.hub.bstat → stageOf s.hub.bstat ≤ 5 → ∃ t, exec .bootStageAdvance s = .next t ∧
      stageOf t.hub.bstat = stageOf s.hub.bstat + 1 ∧ bootErr t.hub.bstat = bootErr s.hub.bstat ∧ t.mem = s.mem) ∧
    (∀ off n, bar2Ok s off n = true → ∃ t ds bad, exec (.bar2Read off n) s = .next t ∧ t = s.emit (.hostData ds bad) ∧
      ds.length = n ∧ ∀ i < n, ds[i]? = some (if hasDram (bar2Pa s off + i) then (s.memByte (bar2Pa s off + i)).1 else 0xFF)) ∧
    (∀ off d, s.memOk → bar2Ok s off 1 = true → hasDram (bar2Pa s off) = true → s.rangeOfPa (bar2Pa s off) = none →
      ∃ t, exec (.bar2Write off [d]) s = .next t ∧ (t.memByte (bar2Pa s off)).1 = d ∧
        (∀ a, a ≠ bar2Pa s off → (t.memByte a).1 = (s.memByte a).1) ∧ t.clusters = s.clusters ∧ t.cores = s.cores) ∧
    (∀ v, exec (.w2baseWrite v) s = .next (s.modHub fun h => { h with w2base := v &&& 15 })) ∧
    (∀ off size wr, (size ≠ 4 ∧ size ≠ 8) ∨ off % size ≠ 0 → exec (.bar0InvalidAccess off size wr) s =
      .next (if wr then s else s.emit (.hostData (List.replicate size 0xFF) false))) ∧
    (∀ off, off % 8 = 0 → off < 65536 →
      exec (.bar0InvalidAccess off 8 false) s = .next (s.emit (.hostData (natBytes 8 (bar0Word s off).toNat) false)) ∧
      exec (.bar0InvalidAccess off 4 false) s = .next (s.emit (.hostData ((natBytes 8 (bar0Word s off).toNat).take 4) false)) ∧
      exec (.bar0InvalidAccess (off + 4) 4 false) s = .next (s.emit (.hostData ((natBytes 8 (bar0Word s off).toNat).drop 4) false))) ∧
    (∀ v, exec (.registerWrite .fablim v) s = .next (s.modHub fun h => { h with fablim := v }) ∧
      exec (.registerWrite (.bar0 0x410 8) v) s = .next (s.modHub fun h => { h with harg := v }) ∧
      exec (.registerWrite (.bar0 0x410 4) v) s =
        .next (s.modHub fun h => { h with harg := h.harg.extractLsb' 32 32 ++ v.extractLsb' 0 32 }) ∧
      exec (.registerWrite (.bar0 0x414 4) v) s =
        .next (s.modHub fun h => { h with harg := v.extractLsb' 0 32 ++ h.harg.extractLsb' 0 32 }) ∧
      exec (.registerWrite (.bar0 0x418 8) v) s = .next (s.modHub fun h => { h with hctx := v }) ∧
      exec (.registerWrite (.bar0 0x1000 8) v) s = .next s ∧
      exec (.registerWrite (.bar0 0x400 4) v) s = .next s ∧
      (∀ host, ∃ t, exec (.registerWrite (if host then .bar0 0x400 8 else .hcmd) v) s = .next t ∧
        { word := v, host := host, cyc := s.cycle } ∈ t.hub.hcmds ∧ (∀ c ∈ s.hub.hcmds, c ∈ t.hub.hcmds) ∧
        (hstatWord t.hub).getLsbD 63 = true ∧ t.mem = s.mem ∧ t.cores = s.cores) ∧
      exec (.registerWrite .osEvent v) s = .next (sendMsix s 63) ∧
      (∀ e, (e = 3 ∧ stageOf s.hub.bstat = 2) ∨ (e = 4 ∧ stageOf s.hub.bstat = 4) →
        ∃ t, exec (.registerWrite .bootErr (BitVec.ofNat 64 e)) s = .next t ∧ bootErr t.hub.bstat = e ∧
          stageOf t.hub.bstat = stageOf s.hub.bstat ∧ t.mem = s.mem) ∧
      (p ≤ 16 → v.getLsbD 1 = false → ∃ t, exec (.registerWrite (.health k p) v) s = .next t ∧ ceb (t.health k p) = ceb w ∧
        cet (t.health k p) = cet v.toNat ∧ leakOf (t.health k p) = leakOf v.toNat ∧ t.cores = s.cores ∧ t.mem = s.mem)) ∧
    (∀ i : CtxInit, i.ctx < 65536 → fget s.ctxs i.ctx = none → 1 ≤ i.rtCount → i.rtCount ≤ 4096 → i.windows.length ≤ 16 →
      ∃ t, exec (.contextCreation i) s = .next t ∧ (t.ctx i.ctx).scopeSet = [] ∧ (t.ctx i.ctx).rtBase = i.rtBase ∧
        (t.ctx i.ctx).rtCount = i.rtCount ∧ (t.ctx i.ctx).colour = i.colour ∧ (t.ctx i.ctx).tvec = i.tvec &&& ~~~3 ∧ (t.ctx i.ctx).windows = i.windows ∧
        (∀ c ∈ t.cores, fget c.2.ctxRegs i.ctx = none) ∧ t.mem = s.mem) ∧
    (∀ ctx tlb tln alb aln, tlb + tln ≤ 16 → alb + aln ≤ 8 →
      ((s.engine k).allots.all fun (c, a) => c = ctx || (apart tlb tln a.tlb a.tln && apart alb aln a.alb a.aln)) = true →
      ∃ t, exec (.engineAllotment k ctx tlb tln alb aln) s = .next t ∧ fget (t.engine k).allots ctx = some ⟨tlb, tln, alb, aln⟩ ∧
        (∀ n, tlb ≤ n → n < tlb + tln → (t.engine k).tile n = {}) ∧ (∀ n, alb ≤ n → n < alb + aln → (t.engine k).acc n = {}) ∧
        (∀ n, n < tlb ∨ tlb + tln ≤ n → (t.engine k).tile n = (s.engine k).tile n) ∧ t.mem = s.mem) ∧
    (∀ c i d j a, (s.core c).twin.isSome = true → partner s c i = some (d, j) → atCompare (s.carrel c i) = some a →
      atCompare (s.carrel d j) = some a →
      (outboxHash (s.carrel c i).outbox = outboxHash (s.carrel d j).outbox →
        ∃ t, exec (.pairCompare c i) s = .next t ∧ (t.carrel c i).pairOk = true ∧ (t.carrel d j).pairOk = true ∧
          (t.carrel c i).outbox = (s.carrel c i).outbox ∧ t.mem = s.mem) ∧
      (outboxHash (s.carrel c i).outbox ≠ outboxHash (s.carrel d j).outbox → exec (.pairCompare c i) s =
        .next (pairDiffers s c i d j))) ∧
    (∀ c j u v i t r, (s.carrel c j).issues = true → (s.core c).live = true → (s.carrel c j).pair = true →
      (s.core c).twinOf.isSome = true → partner s c j = some (u, v) → fetch { s with cur := (c, j) } = .word i t →
      isSync i = true → (t.carrel u v).sync[(t.carrel c j).synced]? = some r → r.pending.isNone = true → twinReady t c j i r = true →
      exec (.twinSyncWord c j) s = .next (takeSync t c j i r)) ∧
    (∀ ctx, let cs := partitionCores s ctx
      (cs ≠ [] → (s.hub.partitions.any fun q => q.ctx == ctx) = false →
        (cs.any fun c => (s.cluster (clusterOf c)).reshelve.isSome) = false →
        ∃ t, exec (.partitionSwitchOut ctx) s = .next t ∧ (∀ c ∈ cs, (t.core c).stopped = true) ∧
          (∀ c, c ∉ cs → t.core c = s.core c) ∧ t.mem = s.mem ∧
          t.hub.partitions = s.hub.partitions ++ [⟨ctx, true, false, [], [], []⟩]) ∧
      ((s.hub.partitions.any fun q => q.ctx == ctx && q.stopping) = true → partitionDrained s ctx = true →
        ∃ t, exec (.partitionDrainDone ctx) s = .next t ∧ (∀ q ∈ t.hub.partitions, q.ctx = ctx → q.isOut = true ∧ q.stopping = false ∧
          q.shadow = (stoppedCores s ctx).map fun c => (c, savedCore ((stoppedCores s ctx).foldl healRegions s) c))) ∧
      (partitionDrained s ctx = false → exec (.partitionDrainDone ctx) s = .next s)) ∧
    (∀ ctx colour q t, s.hub.partitions.find? (fun q => q.ctx == ctx) = some q → q.stopping = false → q.isOut = true →
      coresFree s (q.shadow.map (·.1)) = true → (q.shadow.any fun (c, _) => (reshelving s c).isSome) = false → colourFree s ctx colour = true →
      q.shadow.foldl (fun (o : Option State) (c, k) => o.bind fun s => restoreCore s ctx c k) (some s) = some t →
      let u := (q.tiles.foldl restoreTiles (t.setCtx ctx { t.ctx ctx with colour := colour })).modPartition ctx
        fun q => { q with isOut := false }
      exec (.partitionSwitchIn ctx colour) s =
        .next ((q.shadow.map fun (c, _) => clusterOf c).eraseDups.foldl (fun s k => serveWaiting s k) (deliverHeld u ctx)))


/-- The dispatch hub (R50, R226 to R240). HCMD loads, unloads, releases and cancels with its result in HSTAT, in the
order of the writes, and is closed to a host where it says so; a trigger is queued or turned away with its reason; the oldest trigger
of a queue starts an instance. A node starts
once it is ready: a KERNEL node opens its launch when its cores are free, a SIPH node queues its command, a BARRIER node looks at
its object, whose poisoned sectors are first put right from the twin copy, and not while its core's partition is out, a NOTIFY-HOST node writes its record and reads it back; a launch finishes when its cores have nothing left to do. Status 4 for a KERNEL node's
LTAG, NPARAM and bay list (log entry 93), the order of waiting KERNEL nodes and REGOFF 0 (log entry 67) are the model's. -/
def Obligations.GraphEvents : Prop :=
  ∀ (s : State),
    (∀ w host i, i ∈ [Instr.graphLoad w host, .graphUnload w host, .nodeRelease w host, .nodeCancel w host, .hcmdInvalid w host] →
      isHead s w host = false → exec i s = .next s) ∧
    (∀ w, hcmdOp w = 1 → isHead s w false = true →
      ((s.hub.graph (hcmdGraph w)).isSome = true → exec (.graphLoad w false) s = .next (setHstat s 2)) ∧
      (∀ hd img, (s.hub.graph (hcmdGraph w)).isNone = true → physRead s s.hub.harg.toNat 64 = some hd →
        physRead s s.hub.harg.toNat (imageField hd 8 4) = some img → headerOk hd (imageField hd 8 4) = true → imageOk img = true →
        ((List.range (imageNodes img)).all fun i => !(imageNode img i).paired) = true →
        (s.hub.graphs.map fun g => g.image.length).sum + imageField hd 8 4 ≤ imageMax →
        ∃ t, exec (.graphLoad w false) s = .next t ∧ t.hub.hstat = 0 ∧ t.hub.hcmds = s.hub.hcmds.tail ∧ t.mem = s.mem ∧
          t.hub.graphs = s.hub.graphs ++ [{ id := hcmdGraph w, ctx := (s.hub.hctx.extractLsb' 0 16).toNat, image := img }])) ∧
    (∀ w, hcmdOp w = 2 → isHead s w false = true →
      (s.hub.graph (hcmdGraph w) = none → exec (.graphUnload w false) s = .next (setHstat s 2)) ∧
      (∀ g, s.hub.graph (hcmdGraph w) = some g → g.unloaded = false → ∃ t, exec (.graphUnload w false) s = .next t ∧
        t.hub.hstat = 0 ∧ (∀ x ∈ t.hub.graphs, x.id = g.id → x.unloaded = true) ∧
        (∀ x ∈ s.hub.graphs, x.id ≠ g.id → x.unloaded = false → x ∈ t.hub.graphs) ∧ t.hub.insts = s.hub.insts ∧ t.mem = s.mem)) ∧
    (∀ w host, hcmdOp w = 3 ∨ hcmdOp w = 4 → isHead s w host = true →
      let i := if hcmdOp w = 3 then Instr.nodeRelease w host else .nodeCancel w host
      (s.hub.graph (hcmdGraph w) = none → exec i s = .next (setHstat s 2)) ∧
      ((s.hub.graph (hcmdGraph w)).isSome = true → heldNode s w = none → exec i s = .next (setHstat s 3)) ∧
      (∀ x g n, (s.hub.graph (hcmdGraph w)).isSome = true → heldNode s w = some (x, g, n) →
        let t := s.modNode x.id (hcmdNode w) fun n => { n with holding := false }
        exec i s = .next (setHstat (if hcmdOp w = 3 then freeSuccs t x.id g n else cancelFrom t x g n) 0))) ∧
    (∀ w host, isHead s w host = true → (hcmdOp w = 0 ∨ 4 < hcmdOp w ∨ (host = true ∧ hcmdOp w ≤ 2)) →
      exec (.hcmdInvalid w host) s = .next (setHstat s 1)) ∧
    (∀ off v, exec (.hcmdPartialWrite off v) s = .next s) ∧
    (∀ q size w, q < 16 → size = 4 ∨ size = 8 → let x := s.hub.tqueue q
      (∀ r, testTrigger s q size w.toNat = .error r → ∃ t, exec (.triggerWrite q size w) s = .next t ∧
        t.hub.tqueue q = { x with reason := r, rej := (x.rej + 1) % 65536 } ∧ (∀ p, p ≠ q → t.hub.tqueue p = s.hub.tqueue p) ∧
        t.mem = s.mem) ∧
      (∀ ps, testTrigger s q size w.toNat = .ok ps → ∃ t y, exec (.triggerWrite q size w) s = .next t ∧
        t.hub.tqueue q = { x with queue := x.queue ++ [y], acc := (x.acc + 1) % 65536 } ∧ y.patches = ps ∧
        y.graph = (w.extractLsb' 0 12).toNat ∧ y.irq = w.getLsbD 54 ∧ y.ser = w.getLsbD 53 ∧ t.mem = s.mem) ∧
      testTrigger s q 4 w.toNat = .error 2 ∧
      (w.extractLsb' 12 52 = 0 → s.hub.graph (w.extractLsb' 0 12).toNat = none → testTrigger s q 8 w.toNat = .error 1) ∧
      (∀ g, w.extractLsb' 12 52 = 0 → s.hub.graph (w.extractLsb' 0 12).toNat = some g → g.unloaded = false →
        testTrigger s q 8 w.toNat = if 32 ≤ x.queue.length then .error 4 else .ok [])) ∧
    (∀ q x rest g, (s.hub.tqueue q).queue = x :: rest → s.hub.insts.length < 64 → s.hub.graph x.graph = some g →
      ((x.ser = false ∨ (∀ i ∈ s.hub.insts, i.queue ≠ q ∨ i.graph ≠ x.graph)) →
        ∃ t, exec (.instanceStart q) s = .next t ∧ (t.hub.tqueue q).queue = rest ∧
          t.hub.insts.length = s.hub.insts.length + 1 ∧ t.mem = s.mem ∧ t.cores = s.cores) ∧
      (x.ser = true → (∃ i ∈ s.hub.insts, i.queue = q ∧ i.graph = x.graph) → exec (.instanceStart q) s = .next s)) ∧
    (∀ inst node i g n, readyNode s inst node 0 = some (i, g, n) →
      let end_ := fun st => exec (.kernelReserve inst node) s = .next (completeNode (startNode s inst node) inst node st 2 0 0 0)
      (bayList g.image n = none → end_ 4) ∧
      ∀ bs, bayList g.image n = some bs →
        (bayListOk bs = false ∨ 62 < n.ltag ∨ 8 < n.nparam → end_ 4) ∧
        (bayListOk bs = true → n.ltag ≤ 62 → n.nparam ≤ 8 → n.regOff = 0 ∨ n.regOff + 64 ≤ g.image.length →
          (shelfBad s (kernelCores bs n) = true → end_ 1) ∧
          (shelfBad s (kernelCores bs n) = false →
            (coresFree s (kernelCores bs n) = false → exec (.kernelReserve inst node) s = .next s) ∧
            (earlierKernel s n = true → exec (.kernelReserve inst node) s = .next s) ∧
            (coresFree s (kernelCores bs n) = true → earlierKernel s n = false →
              exec (.kernelReserve inst node) s = .next (reserveKernel s inst node g n bs))))) ∧
    (∀ idx l, s.hub.launches[idx]? = some l →
      (launchIdle s l = true → launchAway s l = false → exec (.launchFinish idx) s = .next (finishLaunch s l)) ∧
      (launchIdle s l = false ∨ launchAway s l = true → exec (.launchFinish idx) s = .next s)) ∧
    (∀ inst node i g n, readyNode s inst node 1 = some (i, g, n) → let core := bitsAt (n.word 7) 0 12
      let t := startNode s inst node
      (∀ c, siphNodeCmd t inst node g.ctx core n = some c → ∃ u e, exec (.siphNodeStart inst node) s = .next u ∧
        (u.core core).queue = (s.core core).queue ++ [e] ∧ e.eff = .siph (bitsAt (n.word 7) 12 6) c ∧ e.ctx = g.ctx ∧ u.mem = s.mem) ∧
      (siphNodeCmd t inst node g.ctx core n = none →
        exec (.siphNodeStart inst node) s = .next (completeNode t inst node 4 2 0 0 0))) ∧
    (∀ inst node i g n, nodeAt s inst node = some (i, g, n) → n.kind = 2 →
      let a := n.word 3
      let healed := fun (t : State) =>
        if barLook t g.ctx n = .invalid then t else healRegion t (scrCoreOf a) (scrRegionOf a) (scrOffOf a) 16
      (n.st = .ready → n.word 3 = 0 →
        exec (.barrierNodeStart inst node) s = .next (completeNode (startNode s inst node) inst node 0 0 0 0 0)) ∧
      (n.st = .ready → n.word 3 ≠ 0 → barLook (healed (startNode s inst node)) g.ctx n = .wait →
        exec (.barrierNodeStart inst node) s = .next (healed (startNode s inst node))) ∧
      (n.st = .ready → n.word 3 ≠ 0 → barLook (startNode s inst node) g.ctx n = .invalid →
        exec (.barrierNodeStart inst node) s = .next (completeNode (startNode s inst node) inst node 4 2 0 0 0)) ∧
      (n.st = .running → n.word 3 ≠ 0 →
        (n.moved = some true → exec (.barrierNodeStart inst node) s = .next (completeNode s inst node 0 0 0 0 0)) ∧
        (n.moved = some false → exec (.barrierNodeStart inst node) s = .next (completeNode s inst node 2 2 0 0 0)) ∧
        (n.moved = none → coreAway s (scrCoreOf a) = true → exec (.barrierNodeStart inst node) s = .next s) ∧
        (n.moved = none → coreAway s (scrCoreOf a) = false →
          (barLook (healed s) g.ctx n = .moved →
            exec (.barrierNodeStart inst node) s = .next (completeNode (healed s) inst node 0 0 0 0 0)) ∧
          (barLook (healed s) g.ctx n = .broken →
            exec (.barrierNodeStart inst node) s = .next (completeNode (healed s) inst node 2 2 0 0 0))))) ∧
    (∀ inst node i g n x h m, readyNode s inst node 3 = some (i, g, n) → let t := startNode s inst node
      nodeAt t inst node = some (x, h, m) → let v := bitsAt (m.word 3) 0 16
      (v < 16 ∨ 62 < v → exec (.notifyHostNodeStart inst node) s = .next (endNotify t inst node m false)) ∧
      (16 ≤ v → v ≤ 62 →
        (m.word 4 = 0 → exec (.notifyHostNodeStart inst node) s = .next (endNotify t inst node m true)) ∧
        (m.word 4 ≠ 0 → hostAllowed t (m.word 4) 32 = true → ∃ u bs, exec (.notifyHostNodeStart inst node) s = .next u ∧
          u.outs = s.outs ++ [.hostWrite (m.word 4) bs, .hostRead (m.word 4) 32] ∧ bs.length = 32 ∧ u.mem = s.mem))) ∧
    (∀ inst node ok i g n q, nodeAt s inst node = some (i, g, n) → n.kind = 3 → n.st = .running → notifyReq s inst node = some q →
      (q.resp = none → s.hub.time.toNat < q.start + 1000 * s.hub.fablim.toNat →
        exec (.notifyHostReadback inst node ok) s = .next (endNotify (dropReq s q.id) inst node n ok)) ∧
      (q.resp.isSome = true ∨ q.start + 1000 * s.hub.fablim.toNat ≤ s.hub.time.toNat →
        exec (.notifyHostReadback inst node ok) s = .next (endNotify (dropReq s q.id) inst node n false)))


/-- Words written out bit by bit from the encodings of R71 to R82 decode to what they stand for; a word that breaks a rule of
R73 to R80 decodes to nothing. -/
def Obligations.DecodeWords : Prop :=
  -- R: op d a b f; ADD c10, c10, c1 and SUB.W c5, c6, c7
  decodeWord 0b000001_001010_001010_000001_00000000 = .ok (.add 10 10 1 false) ∧
  decodeWord 0b000001_000101_000110_000111_10000001 = .ok (.sub 5 6 7 true) ∧
  -- I: op d a imm14; ADDI c1, c2, -1
  decodeWord 0b000010_000001_000010_11111111111111 = .ok (.addi 1 2 (-1)) ∧
  -- M: op d a w off11; LD.D c4, [c5 + 8] and ST.Q c4, [c5 - 16]
  decodeWord 0b001100_000100_000101_011_00000000001 = .ok (.ld 4 5 .d 1) ∧
  decodeWord 0b001101_000100_000101_100_11111111111 = .ok (.st 4 5 .q (-1)) ∧
  -- VM: op vd a m off12; VLD v1, [c2 - 64] under m3
  decodeWord 0b001110_00001_000010_011_111111111111 = .ok (.vld 1 2 3 (-1)) ∧
  -- B: op cond a b disp10; BC.LT c1, c2, -1
  decodeWord 0b011101_0010_000001_000010_1111111111 = .ok (.bc .lt 1 2 (-1)) ∧
  -- J: op disp26; CALL -1
  decodeWord 0b011111_11111111111111111111111111 = .ok (.call (-1)) ∧
  -- V: op vd va vb m width function; VFMA v2, v3, v4 in BF16 under m1 and VADD on elements of 32 bits
  decodeWord 0b011001_00010_00011_00100_001_00_000011 = .ok (.vfma 2 3 4 1 .bf16) ∧
  decodeWord 0b011000_00010_00011_00100_000_10_000000 = .ok (.vadd 2 3 4 0 .e32) ∧
  -- H: 0x3F kind payload; HINT.SCOPE 5
  decodeWord 0b111111_0001_0000000000000000000101 = .ok (.hintScope 5) ∧
  -- major 0x00, ALU function 0x18, W with SEL, ST with w = 101, and hint kind 7
  decodeWord 0 = .error .reservedMajor ∧
  decodeWord 0b000001_000001_000010_000011_00011000 = .error .illegalField ∧
  decodeWord 0b000001_000001_000010_000011_10010101 = .error .illegalField ∧
  decodeWord 0b001101_000100_000101_101_00000000000 = .error .illegalField ∧
  decodeWord 0b111111_0111_0000000000000000000000 = .error .reservedHint

/-- Decoding the word that encodes a well-formed instruction gives the instruction back, every operand at every value that its
field holds (R71 to R82): no bit of an instruction is lost. -/
def Obligations.DecodeEncode : Prop :=
  ∀ i : Instr, i.hasWord = true → i.wellFormed = true → decodeWord (encode i) = .ok i

/-- A word that decodes is the encoding of the well-formed instruction that it decodes to (R71 to R85): no bit of a word is
ignored, so a field that must be zero is, and no two words stand for one instruction. -/
def Obligations.EncodeDecode : Prop :=
  ∀ (w : Insn) (i : Instr), decodeWord w = .ok i → encode i = w ∧ i.wellFormed = true ∧ i.hasWord = true

/-- A step in which a core's slots choose runs, of each chosen carrel, the instruction that the word at the carrel's pc decodes to
(R70, R111, R244, R363): the pc is translated for execution in the core's context, and four bytes are read there in little-endian
order. A word that decodes to nothing is the illegal instruction (R85); a failed translation traps. An error that an entry of the carrel
has left to be consumed comes before its next word (R278). A slot chooses only a candidate;
slot B issues before slot A chooses among the others, each once in a cycle. Around the instruction the step notes the choice and what the
word's result waits for (`timed`). A step whose choice is an event runs the event, and one with an empty agenda lets a cycle pass, whose end
comes after every core's slots. That choices stand on an agenda, and that a cycle passes when it is empty, is the model's (log entry 4),
as are the place of the slots' choice (log entry 7) and the one step of a fetch in coherent memory (log entry 17). -/
def Obligations.StepRunsWord : Prop :=
  (∀ (s : State) (c : Nat) (rest : List Choice), s.agenda = .slots c :: rest →
    let z := { s with agenda := rest }
    let y := z.modCore c fun k => { k with slotted := true }
    let chosen := fun (x : State) (b : Option Nat) =>
      let m := missPrio x c ((leftToA x c b).filter fun i => pickA x c b != some i)
      (pickA x c b = none → step s = .next m) ∧ (∀ i, pickA x c b = some i → step s = slotIssue m c i false)
    ((z.core c).slotted = true → step s = .next z) ∧
    (∀ i, pickB z c = some i → candidate z c i = true) ∧
    (∀ x b i, pickA x c b = some i → candidate x c i = true ∧ b ≠ some i) ∧
    ((z.core c).slotted = false →
      (pickB z c = none → chosen y none) ∧
      (∀ i x, pickB z c = some i → slotIssue y c i true = .next x → chosen x (some i)))) ∧
  (∀ (s : State) (rest : List Choice) (i : Instr), s.agenda = .event i :: rest →
    step s = if i.isEvent then exec i { s with agenda := rest } else .next { s with agenda := rest }) ∧
  (∀ (s : State), s.agenda = [] → (s.cores.all fun (_, k) => k.slotted) = true →
    step s = .next (tick (routersFree (routeAll s)))) ∧
  ∀ (s : State) (c j : Nat) (b : Bool),
    let u := { s.modCore c (·.issuer s.cycle b j) with cur := (c, j) }
    let after := fun (i : Instr) (o : Host.Outcome State Fault Refusal) => match o with
      | .next x => .next (timed i u.me.pc x)
      | o => o
    (u.me.issues = true → u.myCore.live = true → u.me.gap = 0 → u.me.owes = true → issueHere u = .next (payMe u)) ∧
    (u.me.issues = true → u.myCore.live = true → u.me.gap = 0 → u.me.owes = false →
      (∀ t p e, translate u c u.myCore.ctx u.me.pc.toNat .exec (c / 1024) = (t, .ok p e) →
        hasDram (p * 4096 + u.me.pc.toNat % 4096) = true →
        let bs := (coherentRead t (p * 4096 + u.me.pc.toNat % 4096) 4).map (·.1.1)
        let w : Insn := BitVec.ofNat 32 (leNat bs)
        bs.length = 4 ∧
        (∀ i, decodeWord w = .ok i → Instr.divides i = false ∨ t.myCore.divBusy = 0 → slotIssue s c j b = after i (exec i t)) ∧
        (∀ x, decodeWord w = .error x → slotIssue s c j b = after (.illegalInstruction w) (exec (.illegalInstruction w) t))) ∧
      (∀ t cause, translate u c u.myCore.ctx u.me.pc.toNat .exec (c / 1024) = (t, .fail cause) →
        slotIssue s c j b = raise t (trapMe t cause (u.me.pc.setWidth 64))))

/-- What reset leaves (R4, R5, R293, R304, R310, R320): no context, no open bay, every carrel Free at level 0 with registers of zero,
empty caches and catalogues, TIME and EPOCH zero, FABLIM 100, slot s on physical core s with core 16 as the spare. That a byte of
memory that nothing has written reads as zero is the model's (log entry 2), and so are register values that nothing states (log
entry 3). -/
def Obligations.ResetState : Prop :=
  let z := State.reset
  z.memOk ∧ z.ctxs = [] ∧ z.hub.time = 0 ∧ z.hub.epoch = 0 ∧ z.hub.fablim = 100 ∧
  (∀ a, z.memByte a = (0, false)) ∧
  (∀ c i, (z.core c).bay = none ∧ (z.carrel c i).st = .free ∧ (z.carrel c i).lv = 0 ∧ (z.core c).inbox = [] ∧
    (z.core c).queue = [] ∧ (z.core c).l1.folios = [] ∧ (z.core c).lastA = 7 ∧ (z.core c).lastB = 7 ∧
    ∀ r, (z.carrel c i).read r = {}) ∧
  (∀ k, (z.cluster k).l2.folios = [] ∧ spareOf z k = 16 ∧ ∀ i < 16, physOf z (16 * k + i) = i) ∧
  (∀ d, (z.die d).entries = [] ∧ (z.die d).filter = []) ∧
  step z = .next (tick z)

/-- Every step keeps the memory of the module in its canonical form: rising addresses, no byte listed that reads as an unlisted
one does, and tag flags and poisoned words in rising order. Reset has the form. -/
def Obligations.StepKeepsMemory : Prop :=
  State.reset.memOk ∧ ∀ s t : State, s.memOk → step s = .next t → t.memOk

end
end

