-- ==== Sys2Proof/Laws/State.lean ====
section
/-! SUPPORT. Field by field, what each update of the state leaves as it was; and what it sets. -/

namespace Sys2Proof.Machine

/-! ### setCore -/
@[simp] theorem agenda_setCore (s : State) (c : Nat) (x : Core) : (s.setCore c x).agenda = s.agenda := rfl
@[simp] theorem cur_setCore (s : State) (c : Nat) (x : Core) : (s.setCore c x).cur = s.cur := rfl
@[simp] theorem cycle_setCore (s : State) (c : Nat) (x : Core) : (s.setCore c x).cycle = s.cycle := rfl
@[simp] theorem clusters_setCore (s : State) (c : Nat) (x : Core) : (s.setCore c x).clusters = s.clusters := rfl
@[simp] theorem dies_setCore (s : State) (c : Nat) (x : Core) : (s.setCore c x).dies = s.dies := rfl
@[simp] theorem ctxs_setCore (s : State) (c : Nat) (x : Core) : (s.setCore c x).ctxs = s.ctxs := rfl
@[simp] theorem mem_setCore (s : State) (c : Nat) (x : Core) : (s.setCore c x).mem = s.mem := rfl
@[simp] theorem memTags_setCore (s : State) (c : Nat) (x : Core) : (s.setCore c x).memTags = s.memTags := rfl
@[simp] theorem memPoison_setCore (s : State) (c : Nat) (x : Core) : (s.setCore c x).memPoison = s.memPoison := rfl
@[simp] theorem flits_setCore (s : State) (c : Nat) (x : Core) : (s.setCore c x).flits = s.flits := rfl
@[simp] theorem reqs_setCore (s : State) (c : Nat) (x : Core) : (s.setCore c x).reqs = s.reqs := rfl
@[simp] theorem nextReq_setCore (s : State) (c : Nat) (x : Core) : (s.setCore c x).nextReq = s.nextReq := rfl
@[simp] theorem ranges_setCore (s : State) (c : Nat) (x : Core) : (s.setCore c x).ranges = s.ranges := rfl
@[simp] theorem blocks_setCore (s : State) (c : Nat) (x : Core) : (s.setCore c x).blocks = s.blocks := rfl
@[simp] theorem pushes_setCore (s : State) (c : Nat) (x : Core) : (s.setCore c x).pushes = s.pushes := rfl
@[simp] theorem merges_setCore (s : State) (c : Nat) (x : Core) : (s.setCore c x).merges = s.merges := rfl
@[simp] theorem hub_setCore (s : State) (c : Nat) (x : Core) : (s.setCore c x).hub = s.hub := rfl
@[simp] theorem outs_setCore (s : State) (c : Nat) (x : Core) : (s.setCore c x).outs = s.outs := rfl
@[simp] theorem cluster_setCore (s : State) (c : Nat) (x : Core) (q : Nat) : (s.setCore c x).cluster q = s.cluster q := rfl
@[simp] theorem die_setCore (s : State) (c : Nat) (x : Core) (q : Nat) : (s.setCore c x).die q = s.die q := rfl
@[simp] theorem ctx_setCore (s : State) (c : Nat) (x : Core) (q : Nat) : (s.setCore c x).ctx q = s.ctx q := rfl

/-! ### modCore -/
@[simp] theorem agenda_modCore (s : State) (c : Nat) (f : Core → Core) : (s.modCore c f).agenda = s.agenda := rfl
@[simp] theorem cur_modCore (s : State) (c : Nat) (f : Core → Core) : (s.modCore c f).cur = s.cur := rfl
@[simp] theorem cycle_modCore (s : State) (c : Nat) (f : Core → Core) : (s.modCore c f).cycle = s.cycle := rfl
@[simp] theorem clusters_modCore (s : State) (c : Nat) (f : Core → Core) : (s.modCore c f).clusters = s.clusters := rfl
@[simp] theorem dies_modCore (s : State) (c : Nat) (f : Core → Core) : (s.modCore c f).dies = s.dies := rfl
@[simp] theorem ctxs_modCore (s : State) (c : Nat) (f : Core → Core) : (s.modCore c f).ctxs = s.ctxs := rfl
@[simp] theorem mem_modCore (s : State) (c : Nat) (f : Core → Core) : (s.modCore c f).mem = s.mem := rfl
@[simp] theorem memTags_modCore (s : State) (c : Nat) (f : Core → Core) : (s.modCore c f).memTags = s.memTags := rfl
@[simp] theorem memPoison_modCore (s : State) (c : Nat) (f : Core → Core) : (s.modCore c f).memPoison = s.memPoison := rfl
@[simp] theorem flits_modCore (s : State) (c : Nat) (f : Core → Core) : (s.modCore c f).flits = s.flits := rfl
@[simp] theorem reqs_modCore (s : State) (c : Nat) (f : Core → Core) : (s.modCore c f).reqs = s.reqs := rfl
@[simp] theorem nextReq_modCore (s : State) (c : Nat) (f : Core → Core) : (s.modCore c f).nextReq = s.nextReq := rfl
@[simp] theorem ranges_modCore (s : State) (c : Nat) (f : Core → Core) : (s.modCore c f).ranges = s.ranges := rfl
@[simp] theorem blocks_modCore (s : State) (c : Nat) (f : Core → Core) : (s.modCore c f).blocks = s.blocks := rfl
@[simp] theorem pushes_modCore (s : State) (c : Nat) (f : Core → Core) : (s.modCore c f).pushes = s.pushes := rfl
@[simp] theorem merges_modCore (s : State) (c : Nat) (f : Core → Core) : (s.modCore c f).merges = s.merges := rfl
@[simp] theorem hub_modCore (s : State) (c : Nat) (f : Core → Core) : (s.modCore c f).hub = s.hub := rfl
@[simp] theorem outs_modCore (s : State) (c : Nat) (f : Core → Core) : (s.modCore c f).outs = s.outs := rfl
@[simp] theorem cluster_modCore (s : State) (c : Nat) (f : Core → Core) (q : Nat) : (s.modCore c f).cluster q = s.cluster q := rfl
@[simp] theorem die_modCore (s : State) (c : Nat) (f : Core → Core) (q : Nat) : (s.modCore c f).die q = s.die q := rfl
@[simp] theorem ctx_modCore (s : State) (c : Nat) (f : Core → Core) (q : Nat) : (s.modCore c f).ctx q = s.ctx q := rfl

/-! ### setCarrel -/
@[simp] theorem agenda_setCarrel (s : State) (c i : Nat) (x : Carrel) : (s.setCarrel c i x).agenda = s.agenda := rfl
@[simp] theorem cur_setCarrel (s : State) (c i : Nat) (x : Carrel) : (s.setCarrel c i x).cur = s.cur := rfl
@[simp] theorem cycle_setCarrel (s : State) (c i : Nat) (x : Carrel) : (s.setCarrel c i x).cycle = s.cycle := rfl
@[simp] theorem clusters_setCarrel (s : State) (c i : Nat) (x : Carrel) : (s.setCarrel c i x).clusters = s.clusters := rfl
@[simp] theorem dies_setCarrel (s : State) (c i : Nat) (x : Carrel) : (s.setCarrel c i x).dies = s.dies := rfl
@[simp] theorem ctxs_setCarrel (s : State) (c i : Nat) (x : Carrel) : (s.setCarrel c i x).ctxs = s.ctxs := rfl
@[simp] theorem mem_setCarrel (s : State) (c i : Nat) (x : Carrel) : (s.setCarrel c i x).mem = s.mem := rfl
@[simp] theorem memTags_setCarrel (s : State) (c i : Nat) (x : Carrel) : (s.setCarrel c i x).memTags = s.memTags := rfl
@[simp] theorem memPoison_setCarrel (s : State) (c i : Nat) (x : Carrel) : (s.setCarrel c i x).memPoison = s.memPoison := rfl
@[simp] theorem flits_setCarrel (s : State) (c i : Nat) (x : Carrel) : (s.setCarrel c i x).flits = s.flits := rfl
@[simp] theorem reqs_setCarrel (s : State) (c i : Nat) (x : Carrel) : (s.setCarrel c i x).reqs = s.reqs := rfl
@[simp] theorem nextReq_setCarrel (s : State) (c i : Nat) (x : Carrel) : (s.setCarrel c i x).nextReq = s.nextReq := rfl
@[simp] theorem ranges_setCarrel (s : State) (c i : Nat) (x : Carrel) : (s.setCarrel c i x).ranges = s.ranges := rfl
@[simp] theorem blocks_setCarrel (s : State) (c i : Nat) (x : Carrel) : (s.setCarrel c i x).blocks = s.blocks := rfl
@[simp] theorem pushes_setCarrel (s : State) (c i : Nat) (x : Carrel) : (s.setCarrel c i x).pushes = s.pushes := rfl
@[simp] theorem merges_setCarrel (s : State) (c i : Nat) (x : Carrel) : (s.setCarrel c i x).merges = s.merges := rfl
@[simp] theorem hub_setCarrel (s : State) (c i : Nat) (x : Carrel) : (s.setCarrel c i x).hub = s.hub := rfl
@[simp] theorem outs_setCarrel (s : State) (c i : Nat) (x : Carrel) : (s.setCarrel c i x).outs = s.outs := rfl
@[simp] theorem cluster_setCarrel (s : State) (c i : Nat) (x : Carrel) (q : Nat) : (s.setCarrel c i x).cluster q = s.cluster q := rfl
@[simp] theorem die_setCarrel (s : State) (c i : Nat) (x : Carrel) (q : Nat) : (s.setCarrel c i x).die q = s.die q := rfl
@[simp] theorem ctx_setCarrel (s : State) (c i : Nat) (x : Carrel) (q : Nat) : (s.setCarrel c i x).ctx q = s.ctx q := rfl

/-! ### modCarrel -/
@[simp] theorem agenda_modCarrel (s : State) (c i : Nat) (f : Carrel → Carrel) : (s.modCarrel c i f).agenda = s.agenda := rfl
@[simp] theorem cur_modCarrel (s : State) (c i : Nat) (f : Carrel → Carrel) : (s.modCarrel c i f).cur = s.cur := rfl
@[simp] theorem cycle_modCarrel (s : State) (c i : Nat) (f : Carrel → Carrel) : (s.modCarrel c i f).cycle = s.cycle := rfl
@[simp] theorem clusters_modCarrel (s : State) (c i : Nat) (f : Carrel → Carrel) : (s.modCarrel c i f).clusters = s.clusters := rfl
@[simp] theorem dies_modCarrel (s : State) (c i : Nat) (f : Carrel → Carrel) : (s.modCarrel c i f).dies = s.dies := rfl
@[simp] theorem ctxs_modCarrel (s : State) (c i : Nat) (f : Carrel → Carrel) : (s.modCarrel c i f).ctxs = s.ctxs := rfl
@[simp] theorem mem_modCarrel (s : State) (c i : Nat) (f : Carrel → Carrel) : (s.modCarrel c i f).mem = s.mem := rfl
@[simp] theorem memTags_modCarrel (s : State) (c i : Nat) (f : Carrel → Carrel) : (s.modCarrel c i f).memTags = s.memTags := rfl
@[simp] theorem memPoison_modCarrel (s : State) (c i : Nat) (f : Carrel → Carrel) : (s.modCarrel c i f).memPoison = s.memPoison := rfl
@[simp] theorem flits_modCarrel (s : State) (c i : Nat) (f : Carrel → Carrel) : (s.modCarrel c i f).flits = s.flits := rfl
@[simp] theorem reqs_modCarrel (s : State) (c i : Nat) (f : Carrel → Carrel) : (s.modCarrel c i f).reqs = s.reqs := rfl
@[simp] theorem nextReq_modCarrel (s : State) (c i : Nat) (f : Carrel → Carrel) : (s.modCarrel c i f).nextReq = s.nextReq := rfl
@[simp] theorem ranges_modCarrel (s : State) (c i : Nat) (f : Carrel → Carrel) : (s.modCarrel c i f).ranges = s.ranges := rfl
@[simp] theorem blocks_modCarrel (s : State) (c i : Nat) (f : Carrel → Carrel) : (s.modCarrel c i f).blocks = s.blocks := rfl
@[simp] theorem pushes_modCarrel (s : State) (c i : Nat) (f : Carrel → Carrel) : (s.modCarrel c i f).pushes = s.pushes := rfl
@[simp] theorem merges_modCarrel (s : State) (c i : Nat) (f : Carrel → Carrel) : (s.modCarrel c i f).merges = s.merges := rfl
@[simp] theorem hub_modCarrel (s : State) (c i : Nat) (f : Carrel → Carrel) : (s.modCarrel c i f).hub = s.hub := rfl
@[simp] theorem outs_modCarrel (s : State) (c i : Nat) (f : Carrel → Carrel) : (s.modCarrel c i f).outs = s.outs := rfl
@[simp] theorem cluster_modCarrel (s : State) (c i : Nat) (f : Carrel → Carrel) (q : Nat) : (s.modCarrel c i f).cluster q = s.cluster q := rfl
@[simp] theorem die_modCarrel (s : State) (c i : Nat) (f : Carrel → Carrel) (q : Nat) : (s.modCarrel c i f).die q = s.die q := rfl
@[simp] theorem ctx_modCarrel (s : State) (c i : Nat) (f : Carrel → Carrel) (q : Nat) : (s.modCarrel c i f).ctx q = s.ctx q := rfl

/-! ### setMe -/
@[simp] theorem agenda_setMe (s : State) (x : Carrel) : (s.setMe x).agenda = s.agenda := rfl
@[simp] theorem cur_setMe (s : State) (x : Carrel) : (s.setMe x).cur = s.cur := rfl
@[simp] theorem cycle_setMe (s : State) (x : Carrel) : (s.setMe x).cycle = s.cycle := rfl
@[simp] theorem clusters_setMe (s : State) (x : Carrel) : (s.setMe x).clusters = s.clusters := rfl
@[simp] theorem dies_setMe (s : State) (x : Carrel) : (s.setMe x).dies = s.dies := rfl
@[simp] theorem ctxs_setMe (s : State) (x : Carrel) : (s.setMe x).ctxs = s.ctxs := rfl
@[simp] theorem mem_setMe (s : State) (x : Carrel) : (s.setMe x).mem = s.mem := rfl
@[simp] theorem memTags_setMe (s : State) (x : Carrel) : (s.setMe x).memTags = s.memTags := rfl
@[simp] theorem memPoison_setMe (s : State) (x : Carrel) : (s.setMe x).memPoison = s.memPoison := rfl
@[simp] theorem flits_setMe (s : State) (x : Carrel) : (s.setMe x).flits = s.flits := rfl
@[simp] theorem reqs_setMe (s : State) (x : Carrel) : (s.setMe x).reqs = s.reqs := rfl
@[simp] theorem nextReq_setMe (s : State) (x : Carrel) : (s.setMe x).nextReq = s.nextReq := rfl
@[simp] theorem ranges_setMe (s : State) (x : Carrel) : (s.setMe x).ranges = s.ranges := rfl
@[simp] theorem blocks_setMe (s : State) (x : Carrel) : (s.setMe x).blocks = s.blocks := rfl
@[simp] theorem pushes_setMe (s : State) (x : Carrel) : (s.setMe x).pushes = s.pushes := rfl
@[simp] theorem merges_setMe (s : State) (x : Carrel) : (s.setMe x).merges = s.merges := rfl
@[simp] theorem hub_setMe (s : State) (x : Carrel) : (s.setMe x).hub = s.hub := rfl
@[simp] theorem outs_setMe (s : State) (x : Carrel) : (s.setMe x).outs = s.outs := rfl
@[simp] theorem cluster_setMe (s : State) (x : Carrel) (q : Nat) : (s.setMe x).cluster q = s.cluster q := rfl
@[simp] theorem die_setMe (s : State) (x : Carrel) (q : Nat) : (s.setMe x).die q = s.die q := rfl
@[simp] theorem ctx_setMe (s : State) (x : Carrel) (q : Nat) : (s.setMe x).ctx q = s.ctx q := rfl

/-! ### modMe -/
@[simp] theorem agenda_modMe (s : State) (f : Carrel → Carrel) : (s.modMe f).agenda = s.agenda := rfl
@[simp] theorem cur_modMe (s : State) (f : Carrel → Carrel) : (s.modMe f).cur = s.cur := rfl
@[simp] theorem cycle_modMe (s : State) (f : Carrel → Carrel) : (s.modMe f).cycle = s.cycle := rfl
@[simp] theorem clusters_modMe (s : State) (f : Carrel → Carrel) : (s.modMe f).clusters = s.clusters := rfl
@[simp] theorem dies_modMe (s : State) (f : Carrel → Carrel) : (s.modMe f).dies = s.dies := rfl
@[simp] theorem ctxs_modMe (s : State) (f : Carrel → Carrel) : (s.modMe f).ctxs = s.ctxs := rfl
@[simp] theorem mem_modMe (s : State) (f : Carrel → Carrel) : (s.modMe f).mem = s.mem := rfl
@[simp] theorem memTags_modMe (s : State) (f : Carrel → Carrel) : (s.modMe f).memTags = s.memTags := rfl
@[simp] theorem memPoison_modMe (s : State) (f : Carrel → Carrel) : (s.modMe f).memPoison = s.memPoison := rfl
@[simp] theorem flits_modMe (s : State) (f : Carrel → Carrel) : (s.modMe f).flits = s.flits := rfl
@[simp] theorem reqs_modMe (s : State) (f : Carrel → Carrel) : (s.modMe f).reqs = s.reqs := rfl
@[simp] theorem nextReq_modMe (s : State) (f : Carrel → Carrel) : (s.modMe f).nextReq = s.nextReq := rfl
@[simp] theorem ranges_modMe (s : State) (f : Carrel → Carrel) : (s.modMe f).ranges = s.ranges := rfl
@[simp] theorem blocks_modMe (s : State) (f : Carrel → Carrel) : (s.modMe f).blocks = s.blocks := rfl
@[simp] theorem pushes_modMe (s : State) (f : Carrel → Carrel) : (s.modMe f).pushes = s.pushes := rfl
@[simp] theorem merges_modMe (s : State) (f : Carrel → Carrel) : (s.modMe f).merges = s.merges := rfl
@[simp] theorem hub_modMe (s : State) (f : Carrel → Carrel) : (s.modMe f).hub = s.hub := rfl
@[simp] theorem outs_modMe (s : State) (f : Carrel → Carrel) : (s.modMe f).outs = s.outs := rfl
@[simp] theorem cluster_modMe (s : State) (f : Carrel → Carrel) (q : Nat) : (s.modMe f).cluster q = s.cluster q := rfl
@[simp] theorem die_modMe (s : State) (f : Carrel → Carrel) (q : Nat) : (s.modMe f).die q = s.die q := rfl
@[simp] theorem ctx_modMe (s : State) (f : Carrel → Carrel) (q : Nat) : (s.modMe f).ctx q = s.ctx q := rfl

/-! ### modMyCore -/
@[simp] theorem agenda_modMyCore (s : State) (f : Core → Core) : (s.modMyCore f).agenda = s.agenda := rfl
@[simp] theorem cur_modMyCore (s : State) (f : Core → Core) : (s.modMyCore f).cur = s.cur := rfl
@[simp] theorem cycle_modMyCore (s : State) (f : Core → Core) : (s.modMyCore f).cycle = s.cycle := rfl
@[simp] theorem clusters_modMyCore (s : State) (f : Core → Core) : (s.modMyCore f).clusters = s.clusters := rfl
@[simp] theorem dies_modMyCore (s : State) (f : Core → Core) : (s.modMyCore f).dies = s.dies := rfl
@[simp] theorem ctxs_modMyCore (s : State) (f : Core → Core) : (s.modMyCore f).ctxs = s.ctxs := rfl
@[simp] theorem mem_modMyCore (s : State) (f : Core → Core) : (s.modMyCore f).mem = s.mem := rfl
@[simp] theorem memTags_modMyCore (s : State) (f : Core → Core) : (s.modMyCore f).memTags = s.memTags := rfl
@[simp] theorem memPoison_modMyCore (s : State) (f : Core → Core) : (s.modMyCore f).memPoison = s.memPoison := rfl
@[simp] theorem flits_modMyCore (s : State) (f : Core → Core) : (s.modMyCore f).flits = s.flits := rfl
@[simp] theorem reqs_modMyCore (s : State) (f : Core → Core) : (s.modMyCore f).reqs = s.reqs := rfl
@[simp] theorem nextReq_modMyCore (s : State) (f : Core → Core) : (s.modMyCore f).nextReq = s.nextReq := rfl
@[simp] theorem ranges_modMyCore (s : State) (f : Core → Core) : (s.modMyCore f).ranges = s.ranges := rfl
@[simp] theorem blocks_modMyCore (s : State) (f : Core → Core) : (s.modMyCore f).blocks = s.blocks := rfl
@[simp] theorem pushes_modMyCore (s : State) (f : Core → Core) : (s.modMyCore f).pushes = s.pushes := rfl
@[simp] theorem merges_modMyCore (s : State) (f : Core → Core) : (s.modMyCore f).merges = s.merges := rfl
@[simp] theorem hub_modMyCore (s : State) (f : Core → Core) : (s.modMyCore f).hub = s.hub := rfl
@[simp] theorem outs_modMyCore (s : State) (f : Core → Core) : (s.modMyCore f).outs = s.outs := rfl
@[simp] theorem cluster_modMyCore (s : State) (f : Core → Core) (q : Nat) : (s.modMyCore f).cluster q = s.cluster q := rfl
@[simp] theorem die_modMyCore (s : State) (f : Core → Core) (q : Nat) : (s.modMyCore f).die q = s.die q := rfl
@[simp] theorem ctx_modMyCore (s : State) (f : Core → Core) (q : Nat) : (s.modMyCore f).ctx q = s.ctx q := rfl

/-! ### put -/
@[simp] theorem agenda_put (s : State) (r : Reg) (v : TCap) : (s.put r v).agenda = s.agenda := rfl
@[simp] theorem cur_put (s : State) (r : Reg) (v : TCap) : (s.put r v).cur = s.cur := rfl
@[simp] theorem cycle_put (s : State) (r : Reg) (v : TCap) : (s.put r v).cycle = s.cycle := rfl
@[simp] theorem clusters_put (s : State) (r : Reg) (v : TCap) : (s.put r v).clusters = s.clusters := rfl
@[simp] theorem dies_put (s : State) (r : Reg) (v : TCap) : (s.put r v).dies = s.dies := rfl
@[simp] theorem ctxs_put (s : State) (r : Reg) (v : TCap) : (s.put r v).ctxs = s.ctxs := rfl
@[simp] theorem mem_put (s : State) (r : Reg) (v : TCap) : (s.put r v).mem = s.mem := rfl
@[simp] theorem memTags_put (s : State) (r : Reg) (v : TCap) : (s.put r v).memTags = s.memTags := rfl
@[simp] theorem memPoison_put (s : State) (r : Reg) (v : TCap) : (s.put r v).memPoison = s.memPoison := rfl
@[simp] theorem flits_put (s : State) (r : Reg) (v : TCap) : (s.put r v).flits = s.flits := rfl
@[simp] theorem reqs_put (s : State) (r : Reg) (v : TCap) : (s.put r v).reqs = s.reqs := rfl
@[simp] theorem nextReq_put (s : State) (r : Reg) (v : TCap) : (s.put r v).nextReq = s.nextReq := rfl
@[simp] theorem ranges_put (s : State) (r : Reg) (v : TCap) : (s.put r v).ranges = s.ranges := rfl
@[simp] theorem blocks_put (s : State) (r : Reg) (v : TCap) : (s.put r v).blocks = s.blocks := rfl
@[simp] theorem pushes_put (s : State) (r : Reg) (v : TCap) : (s.put r v).pushes = s.pushes := rfl
@[simp] theorem merges_put (s : State) (r : Reg) (v : TCap) : (s.put r v).merges = s.merges := rfl
@[simp] theorem hub_put (s : State) (r : Reg) (v : TCap) : (s.put r v).hub = s.hub := rfl
@[simp] theorem outs_put (s : State) (r : Reg) (v : TCap) : (s.put r v).outs = s.outs := rfl
@[simp] theorem cluster_put (s : State) (r : Reg) (v : TCap) (q : Nat) : (s.put r v).cluster q = s.cluster q := rfl
@[simp] theorem die_put (s : State) (r : Reg) (v : TCap) (q : Nat) : (s.put r v).die q = s.die q := rfl
@[simp] theorem ctx_put (s : State) (r : Reg) (v : TCap) (q : Nat) : (s.put r v).ctx q = s.ctx q := rfl

/-! ### putData -/
@[simp] theorem agenda_putData (s : State) (r : Reg) (w : Word) : (s.putData r w).agenda = s.agenda := rfl
@[simp] theorem cur_putData (s : State) (r : Reg) (w : Word) : (s.putData r w).cur = s.cur := rfl
@[simp] theorem cycle_putData (s : State) (r : Reg) (w : Word) : (s.putData r w).cycle = s.cycle := rfl
@[simp] theorem clusters_putData (s : State) (r : Reg) (w : Word) : (s.putData r w).clusters = s.clusters := rfl
@[simp] theorem dies_putData (s : State) (r : Reg) (w : Word) : (s.putData r w).dies = s.dies := rfl
@[simp] theorem ctxs_putData (s : State) (r : Reg) (w : Word) : (s.putData r w).ctxs = s.ctxs := rfl
@[simp] theorem mem_putData (s : State) (r : Reg) (w : Word) : (s.putData r w).mem = s.mem := rfl
@[simp] theorem memTags_putData (s : State) (r : Reg) (w : Word) : (s.putData r w).memTags = s.memTags := rfl
@[simp] theorem memPoison_putData (s : State) (r : Reg) (w : Word) : (s.putData r w).memPoison = s.memPoison := rfl
@[simp] theorem flits_putData (s : State) (r : Reg) (w : Word) : (s.putData r w).flits = s.flits := rfl
@[simp] theorem reqs_putData (s : State) (r : Reg) (w : Word) : (s.putData r w).reqs = s.reqs := rfl
@[simp] theorem nextReq_putData (s : State) (r : Reg) (w : Word) : (s.putData r w).nextReq = s.nextReq := rfl
@[simp] theorem ranges_putData (s : State) (r : Reg) (w : Word) : (s.putData r w).ranges = s.ranges := rfl
@[simp] theorem blocks_putData (s : State) (r : Reg) (w : Word) : (s.putData r w).blocks = s.blocks := rfl
@[simp] theorem pushes_putData (s : State) (r : Reg) (w : Word) : (s.putData r w).pushes = s.pushes := rfl
@[simp] theorem merges_putData (s : State) (r : Reg) (w : Word) : (s.putData r w).merges = s.merges := rfl
@[simp] theorem hub_putData (s : State) (r : Reg) (w : Word) : (s.putData r w).hub = s.hub := rfl
@[simp] theorem outs_putData (s : State) (r : Reg) (w : Word) : (s.putData r w).outs = s.outs := rfl
@[simp] theorem cluster_putData (s : State) (r : Reg) (w : Word) (q : Nat) : (s.putData r w).cluster q = s.cluster q := rfl
@[simp] theorem die_putData (s : State) (r : Reg) (w : Word) (q : Nat) : (s.putData r w).die q = s.die q := rfl
@[simp] theorem ctx_putData (s : State) (r : Reg) (w : Word) (q : Nat) : (s.putData r w).ctx q = s.ctx q := rfl

/-! ### setChan -/
@[simp] theorem agenda_setChan (s : State) (c h : Nat) (x : Channel) : (s.setChan c h x).agenda = s.agenda := rfl
@[simp] theorem cur_setChan (s : State) (c h : Nat) (x : Channel) : (s.setChan c h x).cur = s.cur := rfl
@[simp] theorem cycle_setChan (s : State) (c h : Nat) (x : Channel) : (s.setChan c h x).cycle = s.cycle := rfl
@[simp] theorem clusters_setChan (s : State) (c h : Nat) (x : Channel) : (s.setChan c h x).clusters = s.clusters := rfl
@[simp] theorem dies_setChan (s : State) (c h : Nat) (x : Channel) : (s.setChan c h x).dies = s.dies := rfl
@[simp] theorem ctxs_setChan (s : State) (c h : Nat) (x : Channel) : (s.setChan c h x).ctxs = s.ctxs := rfl
@[simp] theorem mem_setChan (s : State) (c h : Nat) (x : Channel) : (s.setChan c h x).mem = s.mem := rfl
@[simp] theorem memTags_setChan (s : State) (c h : Nat) (x : Channel) : (s.setChan c h x).memTags = s.memTags := rfl
@[simp] theorem memPoison_setChan (s : State) (c h : Nat) (x : Channel) : (s.setChan c h x).memPoison = s.memPoison := rfl
@[simp] theorem flits_setChan (s : State) (c h : Nat) (x : Channel) : (s.setChan c h x).flits = s.flits := rfl
@[simp] theorem reqs_setChan (s : State) (c h : Nat) (x : Channel) : (s.setChan c h x).reqs = s.reqs := rfl
@[simp] theorem nextReq_setChan (s : State) (c h : Nat) (x : Channel) : (s.setChan c h x).nextReq = s.nextReq := rfl
@[simp] theorem ranges_setChan (s : State) (c h : Nat) (x : Channel) : (s.setChan c h x).ranges = s.ranges := rfl
@[simp] theorem blocks_setChan (s : State) (c h : Nat) (x : Channel) : (s.setChan c h x).blocks = s.blocks := rfl
@[simp] theorem pushes_setChan (s : State) (c h : Nat) (x : Channel) : (s.setChan c h x).pushes = s.pushes := rfl
@[simp] theorem merges_setChan (s : State) (c h : Nat) (x : Channel) : (s.setChan c h x).merges = s.merges := rfl
@[simp] theorem hub_setChan (s : State) (c h : Nat) (x : Channel) : (s.setChan c h x).hub = s.hub := rfl
@[simp] theorem outs_setChan (s : State) (c h : Nat) (x : Channel) : (s.setChan c h x).outs = s.outs := rfl
@[simp] theorem cluster_setChan (s : State) (c h : Nat) (x : Channel) (q : Nat) : (s.setChan c h x).cluster q = s.cluster q := rfl
@[simp] theorem die_setChan (s : State) (c h : Nat) (x : Channel) (q : Nat) : (s.setChan c h x).die q = s.die q := rfl
@[simp] theorem ctx_setChan (s : State) (c h : Nat) (x : Channel) (q : Nat) : (s.setChan c h x).ctx q = s.ctx q := rfl

/-! ### modChan -/
@[simp] theorem agenda_modChan (s : State) (c h : Nat) (f : Channel → Channel) : (s.modChan c h f).agenda = s.agenda := rfl
@[simp] theorem cur_modChan (s : State) (c h : Nat) (f : Channel → Channel) : (s.modChan c h f).cur = s.cur := rfl
@[simp] theorem cycle_modChan (s : State) (c h : Nat) (f : Channel → Channel) : (s.modChan c h f).cycle = s.cycle := rfl
@[simp] theorem clusters_modChan (s : State) (c h : Nat) (f : Channel → Channel) : (s.modChan c h f).clusters = s.clusters := rfl
@[simp] theorem dies_modChan (s : State) (c h : Nat) (f : Channel → Channel) : (s.modChan c h f).dies = s.dies := rfl
@[simp] theorem ctxs_modChan (s : State) (c h : Nat) (f : Channel → Channel) : (s.modChan c h f).ctxs = s.ctxs := rfl
@[simp] theorem mem_modChan (s : State) (c h : Nat) (f : Channel → Channel) : (s.modChan c h f).mem = s.mem := rfl
@[simp] theorem memTags_modChan (s : State) (c h : Nat) (f : Channel → Channel) : (s.modChan c h f).memTags = s.memTags := rfl
@[simp] theorem memPoison_modChan (s : State) (c h : Nat) (f : Channel → Channel) : (s.modChan c h f).memPoison = s.memPoison := rfl
@[simp] theorem flits_modChan (s : State) (c h : Nat) (f : Channel → Channel) : (s.modChan c h f).flits = s.flits := rfl
@[simp] theorem reqs_modChan (s : State) (c h : Nat) (f : Channel → Channel) : (s.modChan c h f).reqs = s.reqs := rfl
@[simp] theorem nextReq_modChan (s : State) (c h : Nat) (f : Channel → Channel) : (s.modChan c h f).nextReq = s.nextReq := rfl
@[simp] theorem ranges_modChan (s : State) (c h : Nat) (f : Channel → Channel) : (s.modChan c h f).ranges = s.ranges := rfl
@[simp] theorem blocks_modChan (s : State) (c h : Nat) (f : Channel → Channel) : (s.modChan c h f).blocks = s.blocks := rfl
@[simp] theorem pushes_modChan (s : State) (c h : Nat) (f : Channel → Channel) : (s.modChan c h f).pushes = s.pushes := rfl
@[simp] theorem merges_modChan (s : State) (c h : Nat) (f : Channel → Channel) : (s.modChan c h f).merges = s.merges := rfl
@[simp] theorem hub_modChan (s : State) (c h : Nat) (f : Channel → Channel) : (s.modChan c h f).hub = s.hub := rfl
@[simp] theorem outs_modChan (s : State) (c h : Nat) (f : Channel → Channel) : (s.modChan c h f).outs = s.outs := rfl
@[simp] theorem cluster_modChan (s : State) (c h : Nat) (f : Channel → Channel) (q : Nat) : (s.modChan c h f).cluster q = s.cluster q := rfl
@[simp] theorem die_modChan (s : State) (c h : Nat) (f : Channel → Channel) (q : Nat) : (s.modChan c h f).die q = s.die q := rfl
@[simp] theorem ctx_modChan (s : State) (c h : Nat) (f : Channel → Channel) (q : Nat) : (s.modChan c h f).ctx q = s.ctx q := rfl

/-! ### endChan -/
@[simp] theorem agenda_endChan (s : State) (c h : Nat) (x : Channel) : (s.endChan c h x).agenda = s.agenda := rfl
@[simp] theorem cur_endChan (s : State) (c h : Nat) (x : Channel) : (s.endChan c h x).cur = s.cur := rfl
@[simp] theorem cycle_endChan (s : State) (c h : Nat) (x : Channel) : (s.endChan c h x).cycle = s.cycle := rfl
@[simp] theorem clusters_endChan (s : State) (c h : Nat) (x : Channel) : (s.endChan c h x).clusters = s.clusters := rfl
@[simp] theorem dies_endChan (s : State) (c h : Nat) (x : Channel) : (s.endChan c h x).dies = s.dies := rfl
@[simp] theorem ctxs_endChan (s : State) (c h : Nat) (x : Channel) : (s.endChan c h x).ctxs = s.ctxs := rfl
@[simp] theorem mem_endChan (s : State) (c h : Nat) (x : Channel) : (s.endChan c h x).mem = s.mem := rfl
@[simp] theorem memTags_endChan (s : State) (c h : Nat) (x : Channel) : (s.endChan c h x).memTags = s.memTags := rfl
@[simp] theorem memPoison_endChan (s : State) (c h : Nat) (x : Channel) : (s.endChan c h x).memPoison = s.memPoison := rfl
@[simp] theorem flits_endChan (s : State) (c h : Nat) (x : Channel) : (s.endChan c h x).flits = s.flits := rfl
@[simp] theorem reqs_endChan (s : State) (c h : Nat) (x : Channel) : (s.endChan c h x).reqs = s.reqs := rfl
@[simp] theorem nextReq_endChan (s : State) (c h : Nat) (x : Channel) : (s.endChan c h x).nextReq = s.nextReq := rfl
@[simp] theorem ranges_endChan (s : State) (c h : Nat) (x : Channel) : (s.endChan c h x).ranges = s.ranges := rfl
@[simp] theorem blocks_endChan (s : State) (c h : Nat) (x : Channel) : (s.endChan c h x).blocks = s.blocks := rfl
@[simp] theorem pushes_endChan (s : State) (c h : Nat) (x : Channel) : (s.endChan c h x).pushes = s.pushes := rfl
@[simp] theorem merges_endChan (s : State) (c h : Nat) (x : Channel) : (s.endChan c h x).merges = s.merges := rfl
@[simp] theorem hub_endChan (s : State) (c h : Nat) (x : Channel) : (s.endChan c h x).hub = s.hub := rfl
@[simp] theorem outs_endChan (s : State) (c h : Nat) (x : Channel) : (s.endChan c h x).outs = s.outs := rfl
@[simp] theorem cluster_endChan (s : State) (c h : Nat) (x : Channel) (q : Nat) : (s.endChan c h x).cluster q = s.cluster q := rfl
@[simp] theorem die_endChan (s : State) (c h : Nat) (x : Channel) (q : Nat) : (s.endChan c h x).die q = s.die q := rfl
@[simp] theorem ctx_endChan (s : State) (c h : Nat) (x : Channel) (q : Nat) : (s.endChan c h x).ctx q = s.ctx q := rfl

/-! ### setCluster -/
@[simp] theorem agenda_setCluster (s : State) (k : Nat) (x : Cluster) : (s.setCluster k x).agenda = s.agenda := rfl
@[simp] theorem cur_setCluster (s : State) (k : Nat) (x : Cluster) : (s.setCluster k x).cur = s.cur := rfl
@[simp] theorem cycle_setCluster (s : State) (k : Nat) (x : Cluster) : (s.setCluster k x).cycle = s.cycle := rfl
@[simp] theorem cores_setCluster (s : State) (k : Nat) (x : Cluster) : (s.setCluster k x).cores = s.cores := rfl
@[simp] theorem dies_setCluster (s : State) (k : Nat) (x : Cluster) : (s.setCluster k x).dies = s.dies := rfl
@[simp] theorem ctxs_setCluster (s : State) (k : Nat) (x : Cluster) : (s.setCluster k x).ctxs = s.ctxs := rfl
@[simp] theorem mem_setCluster (s : State) (k : Nat) (x : Cluster) : (s.setCluster k x).mem = s.mem := rfl
@[simp] theorem memTags_setCluster (s : State) (k : Nat) (x : Cluster) : (s.setCluster k x).memTags = s.memTags := rfl
@[simp] theorem memPoison_setCluster (s : State) (k : Nat) (x : Cluster) : (s.setCluster k x).memPoison = s.memPoison := rfl
@[simp] theorem flits_setCluster (s : State) (k : Nat) (x : Cluster) : (s.setCluster k x).flits = s.flits := rfl
@[simp] theorem reqs_setCluster (s : State) (k : Nat) (x : Cluster) : (s.setCluster k x).reqs = s.reqs := rfl
@[simp] theorem nextReq_setCluster (s : State) (k : Nat) (x : Cluster) : (s.setCluster k x).nextReq = s.nextReq := rfl
@[simp] theorem ranges_setCluster (s : State) (k : Nat) (x : Cluster) : (s.setCluster k x).ranges = s.ranges := rfl
@[simp] theorem blocks_setCluster (s : State) (k : Nat) (x : Cluster) : (s.setCluster k x).blocks = s.blocks := rfl
@[simp] theorem pushes_setCluster (s : State) (k : Nat) (x : Cluster) : (s.setCluster k x).pushes = s.pushes := rfl
@[simp] theorem merges_setCluster (s : State) (k : Nat) (x : Cluster) : (s.setCluster k x).merges = s.merges := rfl
@[simp] theorem hub_setCluster (s : State) (k : Nat) (x : Cluster) : (s.setCluster k x).hub = s.hub := rfl
@[simp] theorem outs_setCluster (s : State) (k : Nat) (x : Cluster) : (s.setCluster k x).outs = s.outs := rfl
@[simp] theorem core_setCluster (s : State) (k : Nat) (x : Cluster) (q : Nat) : (s.setCluster k x).core q = s.core q := rfl
@[simp] theorem die_setCluster (s : State) (k : Nat) (x : Cluster) (q : Nat) : (s.setCluster k x).die q = s.die q := rfl
@[simp] theorem ctx_setCluster (s : State) (k : Nat) (x : Cluster) (q : Nat) : (s.setCluster k x).ctx q = s.ctx q := rfl

/-! ### modCluster -/
@[simp] theorem agenda_modCluster (s : State) (k : Nat) (f : Cluster → Cluster) : (s.modCluster k f).agenda = s.agenda := rfl
@[simp] theorem cur_modCluster (s : State) (k : Nat) (f : Cluster → Cluster) : (s.modCluster k f).cur = s.cur := rfl
@[simp] theorem cycle_modCluster (s : State) (k : Nat) (f : Cluster → Cluster) : (s.modCluster k f).cycle = s.cycle := rfl
@[simp] theorem cores_modCluster (s : State) (k : Nat) (f : Cluster → Cluster) : (s.modCluster k f).cores = s.cores := rfl
@[simp] theorem dies_modCluster (s : State) (k : Nat) (f : Cluster → Cluster) : (s.modCluster k f).dies = s.dies := rfl
@[simp] theorem ctxs_modCluster (s : State) (k : Nat) (f : Cluster → Cluster) : (s.modCluster k f).ctxs = s.ctxs := rfl
@[simp] theorem mem_modCluster (s : State) (k : Nat) (f : Cluster → Cluster) : (s.modCluster k f).mem = s.mem := rfl
@[simp] theorem memTags_modCluster (s : State) (k : Nat) (f : Cluster → Cluster) : (s.modCluster k f).memTags = s.memTags := rfl
@[simp] theorem memPoison_modCluster (s : State) (k : Nat) (f : Cluster → Cluster) : (s.modCluster k f).memPoison = s.memPoison := rfl
@[simp] theorem flits_modCluster (s : State) (k : Nat) (f : Cluster → Cluster) : (s.modCluster k f).flits = s.flits := rfl
@[simp] theorem reqs_modCluster (s : State) (k : Nat) (f : Cluster → Cluster) : (s.modCluster k f).reqs = s.reqs := rfl
@[simp] theorem nextReq_modCluster (s : State) (k : Nat) (f : Cluster → Cluster) : (s.modCluster k f).nextReq = s.nextReq := rfl
@[simp] theorem ranges_modCluster (s : State) (k : Nat) (f : Cluster → Cluster) : (s.modCluster k f).ranges = s.ranges := rfl
@[simp] theorem blocks_modCluster (s : State) (k : Nat) (f : Cluster → Cluster) : (s.modCluster k f).blocks = s.blocks := rfl
@[simp] theorem pushes_modCluster (s : State) (k : Nat) (f : Cluster → Cluster) : (s.modCluster k f).pushes = s.pushes := rfl
@[simp] theorem merges_modCluster (s : State) (k : Nat) (f : Cluster → Cluster) : (s.modCluster k f).merges = s.merges := rfl
@[simp] theorem hub_modCluster (s : State) (k : Nat) (f : Cluster → Cluster) : (s.modCluster k f).hub = s.hub := rfl
@[simp] theorem outs_modCluster (s : State) (k : Nat) (f : Cluster → Cluster) : (s.modCluster k f).outs = s.outs := rfl
@[simp] theorem core_modCluster (s : State) (k : Nat) (f : Cluster → Cluster) (q : Nat) : (s.modCluster k f).core q = s.core q := rfl
@[simp] theorem die_modCluster (s : State) (k : Nat) (f : Cluster → Cluster) (q : Nat) : (s.modCluster k f).die q = s.die q := rfl
@[simp] theorem ctx_modCluster (s : State) (k : Nat) (f : Cluster → Cluster) (q : Nat) : (s.modCluster k f).ctx q = s.ctx q := rfl

/-! ### modEngine -/
@[simp] theorem agenda_modEngine (s : State) (k : Nat) (f : Engine → Engine) : (s.modEngine k f).agenda = s.agenda := rfl
@[simp] theorem cur_modEngine (s : State) (k : Nat) (f : Engine → Engine) : (s.modEngine k f).cur = s.cur := rfl
@[simp] theorem cycle_modEngine (s : State) (k : Nat) (f : Engine → Engine) : (s.modEngine k f).cycle = s.cycle := rfl
@[simp] theorem cores_modEngine (s : State) (k : Nat) (f : Engine → Engine) : (s.modEngine k f).cores = s.cores := rfl
@[simp] theorem dies_modEngine (s : State) (k : Nat) (f : Engine → Engine) : (s.modEngine k f).dies = s.dies := rfl
@[simp] theorem ctxs_modEngine (s : State) (k : Nat) (f : Engine → Engine) : (s.modEngine k f).ctxs = s.ctxs := rfl
@[simp] theorem mem_modEngine (s : State) (k : Nat) (f : Engine → Engine) : (s.modEngine k f).mem = s.mem := rfl
@[simp] theorem memTags_modEngine (s : State) (k : Nat) (f : Engine → Engine) : (s.modEngine k f).memTags = s.memTags := rfl
@[simp] theorem memPoison_modEngine (s : State) (k : Nat) (f : Engine → Engine) : (s.modEngine k f).memPoison = s.memPoison := rfl
@[simp] theorem flits_modEngine (s : State) (k : Nat) (f : Engine → Engine) : (s.modEngine k f).flits = s.flits := rfl
@[simp] theorem reqs_modEngine (s : State) (k : Nat) (f : Engine → Engine) : (s.modEngine k f).reqs = s.reqs := rfl
@[simp] theorem nextReq_modEngine (s : State) (k : Nat) (f : Engine → Engine) : (s.modEngine k f).nextReq = s.nextReq := rfl
@[simp] theorem ranges_modEngine (s : State) (k : Nat) (f : Engine → Engine) : (s.modEngine k f).ranges = s.ranges := rfl
@[simp] theorem blocks_modEngine (s : State) (k : Nat) (f : Engine → Engine) : (s.modEngine k f).blocks = s.blocks := rfl
@[simp] theorem pushes_modEngine (s : State) (k : Nat) (f : Engine → Engine) : (s.modEngine k f).pushes = s.pushes := rfl
@[simp] theorem merges_modEngine (s : State) (k : Nat) (f : Engine → Engine) : (s.modEngine k f).merges = s.merges := rfl
@[simp] theorem hub_modEngine (s : State) (k : Nat) (f : Engine → Engine) : (s.modEngine k f).hub = s.hub := rfl
@[simp] theorem outs_modEngine (s : State) (k : Nat) (f : Engine → Engine) : (s.modEngine k f).outs = s.outs := rfl
@[simp] theorem core_modEngine (s : State) (k : Nat) (f : Engine → Engine) (q : Nat) : (s.modEngine k f).core q = s.core q := rfl
@[simp] theorem die_modEngine (s : State) (k : Nat) (f : Engine → Engine) (q : Nat) : (s.modEngine k f).die q = s.die q := rfl
@[simp] theorem ctx_modEngine (s : State) (k : Nat) (f : Engine → Engine) (q : Nat) : (s.modEngine k f).ctx q = s.ctx q := rfl

/-! ### modTile -/
@[simp] theorem agenda_modTile (s : State) (k t : Nat) (f : Tile → Tile) : (s.modTile k t f).agenda = s.agenda := rfl
@[simp] theorem cur_modTile (s : State) (k t : Nat) (f : Tile → Tile) : (s.modTile k t f).cur = s.cur := rfl
@[simp] theorem cycle_modTile (s : State) (k t : Nat) (f : Tile → Tile) : (s.modTile k t f).cycle = s.cycle := rfl
@[simp] theorem cores_modTile (s : State) (k t : Nat) (f : Tile → Tile) : (s.modTile k t f).cores = s.cores := rfl
@[simp] theorem dies_modTile (s : State) (k t : Nat) (f : Tile → Tile) : (s.modTile k t f).dies = s.dies := rfl
@[simp] theorem ctxs_modTile (s : State) (k t : Nat) (f : Tile → Tile) : (s.modTile k t f).ctxs = s.ctxs := rfl
@[simp] theorem mem_modTile (s : State) (k t : Nat) (f : Tile → Tile) : (s.modTile k t f).mem = s.mem := rfl
@[simp] theorem memTags_modTile (s : State) (k t : Nat) (f : Tile → Tile) : (s.modTile k t f).memTags = s.memTags := rfl
@[simp] theorem memPoison_modTile (s : State) (k t : Nat) (f : Tile → Tile) : (s.modTile k t f).memPoison = s.memPoison := rfl
@[simp] theorem flits_modTile (s : State) (k t : Nat) (f : Tile → Tile) : (s.modTile k t f).flits = s.flits := rfl
@[simp] theorem reqs_modTile (s : State) (k t : Nat) (f : Tile → Tile) : (s.modTile k t f).reqs = s.reqs := rfl
@[simp] theorem nextReq_modTile (s : State) (k t : Nat) (f : Tile → Tile) : (s.modTile k t f).nextReq = s.nextReq := rfl
@[simp] theorem ranges_modTile (s : State) (k t : Nat) (f : Tile → Tile) : (s.modTile k t f).ranges = s.ranges := rfl
@[simp] theorem blocks_modTile (s : State) (k t : Nat) (f : Tile → Tile) : (s.modTile k t f).blocks = s.blocks := rfl
@[simp] theorem pushes_modTile (s : State) (k t : Nat) (f : Tile → Tile) : (s.modTile k t f).pushes = s.pushes := rfl
@[simp] theorem merges_modTile (s : State) (k t : Nat) (f : Tile → Tile) : (s.modTile k t f).merges = s.merges := rfl
@[simp] theorem hub_modTile (s : State) (k t : Nat) (f : Tile → Tile) : (s.modTile k t f).hub = s.hub := rfl
@[simp] theorem outs_modTile (s : State) (k t : Nat) (f : Tile → Tile) : (s.modTile k t f).outs = s.outs := rfl
@[simp] theorem core_modTile (s : State) (k t : Nat) (f : Tile → Tile) (q : Nat) : (s.modTile k t f).core q = s.core q := rfl
@[simp] theorem die_modTile (s : State) (k t : Nat) (f : Tile → Tile) (q : Nat) : (s.modTile k t f).die q = s.die q := rfl
@[simp] theorem ctx_modTile (s : State) (k t : Nat) (f : Tile → Tile) (q : Nat) : (s.modTile k t f).ctx q = s.ctx q := rfl

/-! ### setAcc -/
@[simp] theorem agenda_setAcc (s : State) (k a : Nat) (x : Acc) : (s.setAcc k a x).agenda = s.agenda := rfl
@[simp] theorem cur_setAcc (s : State) (k a : Nat) (x : Acc) : (s.setAcc k a x).cur = s.cur := rfl
@[simp] theorem cycle_setAcc (s : State) (k a : Nat) (x : Acc) : (s.setAcc k a x).cycle = s.cycle := rfl
@[simp] theorem cores_setAcc (s : State) (k a : Nat) (x : Acc) : (s.setAcc k a x).cores = s.cores := rfl
@[simp] theorem dies_setAcc (s : State) (k a : Nat) (x : Acc) : (s.setAcc k a x).dies = s.dies := rfl
@[simp] theorem ctxs_setAcc (s : State) (k a : Nat) (x : Acc) : (s.setAcc k a x).ctxs = s.ctxs := rfl
@[simp] theorem mem_setAcc (s : State) (k a : Nat) (x : Acc) : (s.setAcc k a x).mem = s.mem := rfl
@[simp] theorem memTags_setAcc (s : State) (k a : Nat) (x : Acc) : (s.setAcc k a x).memTags = s.memTags := rfl
@[simp] theorem memPoison_setAcc (s : State) (k a : Nat) (x : Acc) : (s.setAcc k a x).memPoison = s.memPoison := rfl
@[simp] theorem flits_setAcc (s : State) (k a : Nat) (x : Acc) : (s.setAcc k a x).flits = s.flits := rfl
@[simp] theorem reqs_setAcc (s : State) (k a : Nat) (x : Acc) : (s.setAcc k a x).reqs = s.reqs := rfl
@[simp] theorem nextReq_setAcc (s : State) (k a : Nat) (x : Acc) : (s.setAcc k a x).nextReq = s.nextReq := rfl
@[simp] theorem ranges_setAcc (s : State) (k a : Nat) (x : Acc) : (s.setAcc k a x).ranges = s.ranges := rfl
@[simp] theorem blocks_setAcc (s : State) (k a : Nat) (x : Acc) : (s.setAcc k a x).blocks = s.blocks := rfl
@[simp] theorem pushes_setAcc (s : State) (k a : Nat) (x : Acc) : (s.setAcc k a x).pushes = s.pushes := rfl
@[simp] theorem merges_setAcc (s : State) (k a : Nat) (x : Acc) : (s.setAcc k a x).merges = s.merges := rfl
@[simp] theorem hub_setAcc (s : State) (k a : Nat) (x : Acc) : (s.setAcc k a x).hub = s.hub := rfl
@[simp] theorem outs_setAcc (s : State) (k a : Nat) (x : Acc) : (s.setAcc k a x).outs = s.outs := rfl
@[simp] theorem core_setAcc (s : State) (k a : Nat) (x : Acc) (q : Nat) : (s.setAcc k a x).core q = s.core q := rfl
@[simp] theorem die_setAcc (s : State) (k a : Nat) (x : Acc) (q : Nat) : (s.setAcc k a x).die q = s.die q := rfl
@[simp] theorem ctx_setAcc (s : State) (k a : Nat) (x : Acc) (q : Nat) : (s.setAcc k a x).ctx q = s.ctx q := rfl

/-! ### setHealth -/
@[simp] theorem agenda_setHealth (s : State) (k p w : Nat) : (s.setHealth k p w).agenda = s.agenda := rfl
@[simp] theorem cur_setHealth (s : State) (k p w : Nat) : (s.setHealth k p w).cur = s.cur := rfl
@[simp] theorem cycle_setHealth (s : State) (k p w : Nat) : (s.setHealth k p w).cycle = s.cycle := rfl
@[simp] theorem cores_setHealth (s : State) (k p w : Nat) : (s.setHealth k p w).cores = s.cores := rfl
@[simp] theorem dies_setHealth (s : State) (k p w : Nat) : (s.setHealth k p w).dies = s.dies := rfl
@[simp] theorem ctxs_setHealth (s : State) (k p w : Nat) : (s.setHealth k p w).ctxs = s.ctxs := rfl
@[simp] theorem mem_setHealth (s : State) (k p w : Nat) : (s.setHealth k p w).mem = s.mem := rfl
@[simp] theorem memTags_setHealth (s : State) (k p w : Nat) : (s.setHealth k p w).memTags = s.memTags := rfl
@[simp] theorem memPoison_setHealth (s : State) (k p w : Nat) : (s.setHealth k p w).memPoison = s.memPoison := rfl
@[simp] theorem flits_setHealth (s : State) (k p w : Nat) : (s.setHealth k p w).flits = s.flits := rfl
@[simp] theorem reqs_setHealth (s : State) (k p w : Nat) : (s.setHealth k p w).reqs = s.reqs := rfl
@[simp] theorem nextReq_setHealth (s : State) (k p w : Nat) : (s.setHealth k p w).nextReq = s.nextReq := rfl
@[simp] theorem ranges_setHealth (s : State) (k p w : Nat) : (s.setHealth k p w).ranges = s.ranges := rfl
@[simp] theorem blocks_setHealth (s : State) (k p w : Nat) : (s.setHealth k p w).blocks = s.blocks := rfl
@[simp] theorem pushes_setHealth (s : State) (k p w : Nat) : (s.setHealth k p w).pushes = s.pushes := rfl
@[simp] theorem merges_setHealth (s : State) (k p w : Nat) : (s.setHealth k p w).merges = s.merges := rfl
@[simp] theorem hub_setHealth (s : State) (k p w : Nat) : (s.setHealth k p w).hub = s.hub := rfl
@[simp] theorem outs_setHealth (s : State) (k p w : Nat) : (s.setHealth k p w).outs = s.outs := rfl
@[simp] theorem core_setHealth (s : State) (k p w : Nat) (q : Nat) : (s.setHealth k p w).core q = s.core q := rfl
@[simp] theorem die_setHealth (s : State) (k p w : Nat) (q : Nat) : (s.setHealth k p w).die q = s.die q := rfl
@[simp] theorem ctx_setHealth (s : State) (k p w : Nat) (q : Nat) : (s.setHealth k p w).ctx q = s.ctx q := rfl

/-! ### setDie -/
@[simp] theorem agenda_setDie (s : State) (d : Nat) (x : Die) : (s.setDie d x).agenda = s.agenda := rfl
@[simp] theorem cur_setDie (s : State) (d : Nat) (x : Die) : (s.setDie d x).cur = s.cur := rfl
@[simp] theorem cycle_setDie (s : State) (d : Nat) (x : Die) : (s.setDie d x).cycle = s.cycle := rfl
@[simp] theorem cores_setDie (s : State) (d : Nat) (x : Die) : (s.setDie d x).cores = s.cores := rfl
@[simp] theorem clusters_setDie (s : State) (d : Nat) (x : Die) : (s.setDie d x).clusters = s.clusters := rfl
@[simp] theorem ctxs_setDie (s : State) (d : Nat) (x : Die) : (s.setDie d x).ctxs = s.ctxs := rfl
@[simp] theorem mem_setDie (s : State) (d : Nat) (x : Die) : (s.setDie d x).mem = s.mem := rfl
@[simp] theorem memTags_setDie (s : State) (d : Nat) (x : Die) : (s.setDie d x).memTags = s.memTags := rfl
@[simp] theorem memPoison_setDie (s : State) (d : Nat) (x : Die) : (s.setDie d x).memPoison = s.memPoison := rfl
@[simp] theorem flits_setDie (s : State) (d : Nat) (x : Die) : (s.setDie d x).flits = s.flits := rfl
@[simp] theorem reqs_setDie (s : State) (d : Nat) (x : Die) : (s.setDie d x).reqs = s.reqs := rfl
@[simp] theorem nextReq_setDie (s : State) (d : Nat) (x : Die) : (s.setDie d x).nextReq = s.nextReq := rfl
@[simp] theorem ranges_setDie (s : State) (d : Nat) (x : Die) : (s.setDie d x).ranges = s.ranges := rfl
@[simp] theorem blocks_setDie (s : State) (d : Nat) (x : Die) : (s.setDie d x).blocks = s.blocks := rfl
@[simp] theorem pushes_setDie (s : State) (d : Nat) (x : Die) : (s.setDie d x).pushes = s.pushes := rfl
@[simp] theorem merges_setDie (s : State) (d : Nat) (x : Die) : (s.setDie d x).merges = s.merges := rfl
@[simp] theorem hub_setDie (s : State) (d : Nat) (x : Die) : (s.setDie d x).hub = s.hub := rfl
@[simp] theorem outs_setDie (s : State) (d : Nat) (x : Die) : (s.setDie d x).outs = s.outs := rfl
@[simp] theorem core_setDie (s : State) (d : Nat) (x : Die) (q : Nat) : (s.setDie d x).core q = s.core q := rfl
@[simp] theorem cluster_setDie (s : State) (d : Nat) (x : Die) (q : Nat) : (s.setDie d x).cluster q = s.cluster q := rfl
@[simp] theorem ctx_setDie (s : State) (d : Nat) (x : Die) (q : Nat) : (s.setDie d x).ctx q = s.ctx q := rfl

/-! ### modDie -/
@[simp] theorem agenda_modDie (s : State) (d : Nat) (f : Die → Die) : (s.modDie d f).agenda = s.agenda := rfl
@[simp] theorem cur_modDie (s : State) (d : Nat) (f : Die → Die) : (s.modDie d f).cur = s.cur := rfl
@[simp] theorem cycle_modDie (s : State) (d : Nat) (f : Die → Die) : (s.modDie d f).cycle = s.cycle := rfl
@[simp] theorem cores_modDie (s : State) (d : Nat) (f : Die → Die) : (s.modDie d f).cores = s.cores := rfl
@[simp] theorem clusters_modDie (s : State) (d : Nat) (f : Die → Die) : (s.modDie d f).clusters = s.clusters := rfl
@[simp] theorem ctxs_modDie (s : State) (d : Nat) (f : Die → Die) : (s.modDie d f).ctxs = s.ctxs := rfl
@[simp] theorem mem_modDie (s : State) (d : Nat) (f : Die → Die) : (s.modDie d f).mem = s.mem := rfl
@[simp] theorem memTags_modDie (s : State) (d : Nat) (f : Die → Die) : (s.modDie d f).memTags = s.memTags := rfl
@[simp] theorem memPoison_modDie (s : State) (d : Nat) (f : Die → Die) : (s.modDie d f).memPoison = s.memPoison := rfl
@[simp] theorem flits_modDie (s : State) (d : Nat) (f : Die → Die) : (s.modDie d f).flits = s.flits := rfl
@[simp] theorem reqs_modDie (s : State) (d : Nat) (f : Die → Die) : (s.modDie d f).reqs = s.reqs := rfl
@[simp] theorem nextReq_modDie (s : State) (d : Nat) (f : Die → Die) : (s.modDie d f).nextReq = s.nextReq := rfl
@[simp] theorem ranges_modDie (s : State) (d : Nat) (f : Die → Die) : (s.modDie d f).ranges = s.ranges := rfl
@[simp] theorem blocks_modDie (s : State) (d : Nat) (f : Die → Die) : (s.modDie d f).blocks = s.blocks := rfl
@[simp] theorem pushes_modDie (s : State) (d : Nat) (f : Die → Die) : (s.modDie d f).pushes = s.pushes := rfl
@[simp] theorem merges_modDie (s : State) (d : Nat) (f : Die → Die) : (s.modDie d f).merges = s.merges := rfl
@[simp] theorem hub_modDie (s : State) (d : Nat) (f : Die → Die) : (s.modDie d f).hub = s.hub := rfl
@[simp] theorem outs_modDie (s : State) (d : Nat) (f : Die → Die) : (s.modDie d f).outs = s.outs := rfl
@[simp] theorem core_modDie (s : State) (d : Nat) (f : Die → Die) (q : Nat) : (s.modDie d f).core q = s.core q := rfl
@[simp] theorem cluster_modDie (s : State) (d : Nat) (f : Die → Die) (q : Nat) : (s.modDie d f).cluster q = s.cluster q := rfl
@[simp] theorem ctx_modDie (s : State) (d : Nat) (f : Die → Die) (q : Nat) : (s.modDie d f).ctx q = s.ctx q := rfl

/-! ### setCtx -/
@[simp] theorem agenda_setCtx (s : State) (c : Nat) (x : Ctx) : (s.setCtx c x).agenda = s.agenda := rfl
@[simp] theorem cur_setCtx (s : State) (c : Nat) (x : Ctx) : (s.setCtx c x).cur = s.cur := rfl
@[simp] theorem cycle_setCtx (s : State) (c : Nat) (x : Ctx) : (s.setCtx c x).cycle = s.cycle := rfl
@[simp] theorem cores_setCtx (s : State) (c : Nat) (x : Ctx) : (s.setCtx c x).cores = s.cores := rfl
@[simp] theorem clusters_setCtx (s : State) (c : Nat) (x : Ctx) : (s.setCtx c x).clusters = s.clusters := rfl
@[simp] theorem dies_setCtx (s : State) (c : Nat) (x : Ctx) : (s.setCtx c x).dies = s.dies := rfl
@[simp] theorem mem_setCtx (s : State) (c : Nat) (x : Ctx) : (s.setCtx c x).mem = s.mem := rfl
@[simp] theorem memTags_setCtx (s : State) (c : Nat) (x : Ctx) : (s.setCtx c x).memTags = s.memTags := rfl
@[simp] theorem memPoison_setCtx (s : State) (c : Nat) (x : Ctx) : (s.setCtx c x).memPoison = s.memPoison := rfl
@[simp] theorem flits_setCtx (s : State) (c : Nat) (x : Ctx) : (s.setCtx c x).flits = s.flits := rfl
@[simp] theorem reqs_setCtx (s : State) (c : Nat) (x : Ctx) : (s.setCtx c x).reqs = s.reqs := rfl
@[simp] theorem nextReq_setCtx (s : State) (c : Nat) (x : Ctx) : (s.setCtx c x).nextReq = s.nextReq := rfl
@[simp] theorem ranges_setCtx (s : State) (c : Nat) (x : Ctx) : (s.setCtx c x).ranges = s.ranges := rfl
@[simp] theorem blocks_setCtx (s : State) (c : Nat) (x : Ctx) : (s.setCtx c x).blocks = s.blocks := rfl
@[simp] theorem pushes_setCtx (s : State) (c : Nat) (x : Ctx) : (s.setCtx c x).pushes = s.pushes := rfl
@[simp] theorem merges_setCtx (s : State) (c : Nat) (x : Ctx) : (s.setCtx c x).merges = s.merges := rfl
@[simp] theorem hub_setCtx (s : State) (c : Nat) (x : Ctx) : (s.setCtx c x).hub = s.hub := rfl
@[simp] theorem outs_setCtx (s : State) (c : Nat) (x : Ctx) : (s.setCtx c x).outs = s.outs := rfl
@[simp] theorem core_setCtx (s : State) (c : Nat) (x : Ctx) (q : Nat) : (s.setCtx c x).core q = s.core q := rfl
@[simp] theorem cluster_setCtx (s : State) (c : Nat) (x : Ctx) (q : Nat) : (s.setCtx c x).cluster q = s.cluster q := rfl
@[simp] theorem die_setCtx (s : State) (c : Nat) (x : Ctx) (q : Nat) : (s.setCtx c x).die q = s.die q := rfl

/-! ### modHub -/
@[simp] theorem agenda_modHub (s : State) (f : Hub → Hub) : (s.modHub f).agenda = s.agenda := rfl
@[simp] theorem cur_modHub (s : State) (f : Hub → Hub) : (s.modHub f).cur = s.cur := rfl
@[simp] theorem cycle_modHub (s : State) (f : Hub → Hub) : (s.modHub f).cycle = s.cycle := rfl
@[simp] theorem cores_modHub (s : State) (f : Hub → Hub) : (s.modHub f).cores = s.cores := rfl
@[simp] theorem clusters_modHub (s : State) (f : Hub → Hub) : (s.modHub f).clusters = s.clusters := rfl
@[simp] theorem dies_modHub (s : State) (f : Hub → Hub) : (s.modHub f).dies = s.dies := rfl
@[simp] theorem ctxs_modHub (s : State) (f : Hub → Hub) : (s.modHub f).ctxs = s.ctxs := rfl
@[simp] theorem mem_modHub (s : State) (f : Hub → Hub) : (s.modHub f).mem = s.mem := rfl
@[simp] theorem memTags_modHub (s : State) (f : Hub → Hub) : (s.modHub f).memTags = s.memTags := rfl
@[simp] theorem memPoison_modHub (s : State) (f : Hub → Hub) : (s.modHub f).memPoison = s.memPoison := rfl
@[simp] theorem flits_modHub (s : State) (f : Hub → Hub) : (s.modHub f).flits = s.flits := rfl
@[simp] theorem reqs_modHub (s : State) (f : Hub → Hub) : (s.modHub f).reqs = s.reqs := rfl
@[simp] theorem nextReq_modHub (s : State) (f : Hub → Hub) : (s.modHub f).nextReq = s.nextReq := rfl
@[simp] theorem ranges_modHub (s : State) (f : Hub → Hub) : (s.modHub f).ranges = s.ranges := rfl
@[simp] theorem blocks_modHub (s : State) (f : Hub → Hub) : (s.modHub f).blocks = s.blocks := rfl
@[simp] theorem pushes_modHub (s : State) (f : Hub → Hub) : (s.modHub f).pushes = s.pushes := rfl
@[simp] theorem merges_modHub (s : State) (f : Hub → Hub) : (s.modHub f).merges = s.merges := rfl
@[simp] theorem outs_modHub (s : State) (f : Hub → Hub) : (s.modHub f).outs = s.outs := rfl
@[simp] theorem core_modHub (s : State) (f : Hub → Hub) (q : Nat) : (s.modHub f).core q = s.core q := rfl
@[simp] theorem cluster_modHub (s : State) (f : Hub → Hub) (q : Nat) : (s.modHub f).cluster q = s.cluster q := rfl
@[simp] theorem die_modHub (s : State) (f : Hub → Hub) (q : Nat) : (s.modHub f).die q = s.die q := rfl
@[simp] theorem ctx_modHub (s : State) (f : Hub → Hub) (q : Nat) : (s.modHub f).ctx q = s.ctx q := rfl

/-! ### modNode -/
@[simp] theorem agenda_modNode (s : State) (i n : Nat) (f : Node → Node) : (s.modNode i n f).agenda = s.agenda := rfl
@[simp] theorem cur_modNode (s : State) (i n : Nat) (f : Node → Node) : (s.modNode i n f).cur = s.cur := rfl
@[simp] theorem cycle_modNode (s : State) (i n : Nat) (f : Node → Node) : (s.modNode i n f).cycle = s.cycle := rfl
@[simp] theorem cores_modNode (s : State) (i n : Nat) (f : Node → Node) : (s.modNode i n f).cores = s.cores := rfl
@[simp] theorem clusters_modNode (s : State) (i n : Nat) (f : Node → Node) : (s.modNode i n f).clusters = s.clusters := rfl
@[simp] theorem dies_modNode (s : State) (i n : Nat) (f : Node → Node) : (s.modNode i n f).dies = s.dies := rfl
@[simp] theorem ctxs_modNode (s : State) (i n : Nat) (f : Node → Node) : (s.modNode i n f).ctxs = s.ctxs := rfl
@[simp] theorem mem_modNode (s : State) (i n : Nat) (f : Node → Node) : (s.modNode i n f).mem = s.mem := rfl
@[simp] theorem memTags_modNode (s : State) (i n : Nat) (f : Node → Node) : (s.modNode i n f).memTags = s.memTags := rfl
@[simp] theorem memPoison_modNode (s : State) (i n : Nat) (f : Node → Node) : (s.modNode i n f).memPoison = s.memPoison := rfl
@[simp] theorem flits_modNode (s : State) (i n : Nat) (f : Node → Node) : (s.modNode i n f).flits = s.flits := rfl
@[simp] theorem reqs_modNode (s : State) (i n : Nat) (f : Node → Node) : (s.modNode i n f).reqs = s.reqs := rfl
@[simp] theorem nextReq_modNode (s : State) (i n : Nat) (f : Node → Node) : (s.modNode i n f).nextReq = s.nextReq := rfl
@[simp] theorem ranges_modNode (s : State) (i n : Nat) (f : Node → Node) : (s.modNode i n f).ranges = s.ranges := rfl
@[simp] theorem blocks_modNode (s : State) (i n : Nat) (f : Node → Node) : (s.modNode i n f).blocks = s.blocks := rfl
@[simp] theorem pushes_modNode (s : State) (i n : Nat) (f : Node → Node) : (s.modNode i n f).pushes = s.pushes := rfl
@[simp] theorem merges_modNode (s : State) (i n : Nat) (f : Node → Node) : (s.modNode i n f).merges = s.merges := rfl
@[simp] theorem outs_modNode (s : State) (i n : Nat) (f : Node → Node) : (s.modNode i n f).outs = s.outs := rfl
@[simp] theorem core_modNode (s : State) (i n : Nat) (f : Node → Node) (q : Nat) : (s.modNode i n f).core q = s.core q := rfl
@[simp] theorem cluster_modNode (s : State) (i n : Nat) (f : Node → Node) (q : Nat) : (s.modNode i n f).cluster q = s.cluster q := rfl
@[simp] theorem die_modNode (s : State) (i n : Nat) (f : Node → Node) (q : Nat) : (s.modNode i n f).die q = s.die q := rfl
@[simp] theorem ctx_modNode (s : State) (i n : Nat) (f : Node → Node) (q : Nat) : (s.modNode i n f).ctx q = s.ctx q := rfl

/-! ### modPartition -/
@[simp] theorem agenda_modPartition (s : State) (c : Nat) (f : Partition → Partition) : (s.modPartition c f).agenda = s.agenda := rfl
@[simp] theorem cur_modPartition (s : State) (c : Nat) (f : Partition → Partition) : (s.modPartition c f).cur = s.cur := rfl
@[simp] theorem cycle_modPartition (s : State) (c : Nat) (f : Partition → Partition) : (s.modPartition c f).cycle = s.cycle := rfl
@[simp] theorem cores_modPartition (s : State) (c : Nat) (f : Partition → Partition) : (s.modPartition c f).cores = s.cores := rfl
@[simp] theorem clusters_modPartition (s : State) (c : Nat) (f : Partition → Partition) : (s.modPartition c f).clusters = s.clusters := rfl
@[simp] theorem dies_modPartition (s : State) (c : Nat) (f : Partition → Partition) : (s.modPartition c f).dies = s.dies := rfl
@[simp] theorem ctxs_modPartition (s : State) (c : Nat) (f : Partition → Partition) : (s.modPartition c f).ctxs = s.ctxs := rfl
@[simp] theorem mem_modPartition (s : State) (c : Nat) (f : Partition → Partition) : (s.modPartition c f).mem = s.mem := rfl
@[simp] theorem memTags_modPartition (s : State) (c : Nat) (f : Partition → Partition) : (s.modPartition c f).memTags = s.memTags := rfl
@[simp] theorem memPoison_modPartition (s : State) (c : Nat) (f : Partition → Partition) : (s.modPartition c f).memPoison = s.memPoison := rfl
@[simp] theorem flits_modPartition (s : State) (c : Nat) (f : Partition → Partition) : (s.modPartition c f).flits = s.flits := rfl
@[simp] theorem reqs_modPartition (s : State) (c : Nat) (f : Partition → Partition) : (s.modPartition c f).reqs = s.reqs := rfl
@[simp] theorem nextReq_modPartition (s : State) (c : Nat) (f : Partition → Partition) : (s.modPartition c f).nextReq = s.nextReq := rfl
@[simp] theorem ranges_modPartition (s : State) (c : Nat) (f : Partition → Partition) : (s.modPartition c f).ranges = s.ranges := rfl
@[simp] theorem blocks_modPartition (s : State) (c : Nat) (f : Partition → Partition) : (s.modPartition c f).blocks = s.blocks := rfl
@[simp] theorem pushes_modPartition (s : State) (c : Nat) (f : Partition → Partition) : (s.modPartition c f).pushes = s.pushes := rfl
@[simp] theorem merges_modPartition (s : State) (c : Nat) (f : Partition → Partition) : (s.modPartition c f).merges = s.merges := rfl
@[simp] theorem outs_modPartition (s : State) (c : Nat) (f : Partition → Partition) : (s.modPartition c f).outs = s.outs := rfl
@[simp] theorem core_modPartition (s : State) (c : Nat) (f : Partition → Partition) (q : Nat) : (s.modPartition c f).core q = s.core q := rfl
@[simp] theorem cluster_modPartition (s : State) (c : Nat) (f : Partition → Partition) (q : Nat) : (s.modPartition c f).cluster q = s.cluster q := rfl
@[simp] theorem die_modPartition (s : State) (c : Nat) (f : Partition → Partition) (q : Nat) : (s.modPartition c f).die q = s.die q := rfl
@[simp] theorem ctx_modPartition (s : State) (c : Nat) (f : Partition → Partition) (q : Nat) : (s.modPartition c f).ctx q = s.ctx q := rfl

/-! ### setPort -/
@[simp] theorem agenda_setPort (s : State) (p : Nat) (x : Port) : (s.setPort p x).agenda = s.agenda := rfl
@[simp] theorem cur_setPort (s : State) (p : Nat) (x : Port) : (s.setPort p x).cur = s.cur := rfl
@[simp] theorem cycle_setPort (s : State) (p : Nat) (x : Port) : (s.setPort p x).cycle = s.cycle := rfl
@[simp] theorem cores_setPort (s : State) (p : Nat) (x : Port) : (s.setPort p x).cores = s.cores := rfl
@[simp] theorem clusters_setPort (s : State) (p : Nat) (x : Port) : (s.setPort p x).clusters = s.clusters := rfl
@[simp] theorem dies_setPort (s : State) (p : Nat) (x : Port) : (s.setPort p x).dies = s.dies := rfl
@[simp] theorem ctxs_setPort (s : State) (p : Nat) (x : Port) : (s.setPort p x).ctxs = s.ctxs := rfl
@[simp] theorem mem_setPort (s : State) (p : Nat) (x : Port) : (s.setPort p x).mem = s.mem := rfl
@[simp] theorem memTags_setPort (s : State) (p : Nat) (x : Port) : (s.setPort p x).memTags = s.memTags := rfl
@[simp] theorem memPoison_setPort (s : State) (p : Nat) (x : Port) : (s.setPort p x).memPoison = s.memPoison := rfl
@[simp] theorem flits_setPort (s : State) (p : Nat) (x : Port) : (s.setPort p x).flits = s.flits := rfl
@[simp] theorem reqs_setPort (s : State) (p : Nat) (x : Port) : (s.setPort p x).reqs = s.reqs := rfl
@[simp] theorem nextReq_setPort (s : State) (p : Nat) (x : Port) : (s.setPort p x).nextReq = s.nextReq := rfl
@[simp] theorem ranges_setPort (s : State) (p : Nat) (x : Port) : (s.setPort p x).ranges = s.ranges := rfl
@[simp] theorem blocks_setPort (s : State) (p : Nat) (x : Port) : (s.setPort p x).blocks = s.blocks := rfl
@[simp] theorem pushes_setPort (s : State) (p : Nat) (x : Port) : (s.setPort p x).pushes = s.pushes := rfl
@[simp] theorem merges_setPort (s : State) (p : Nat) (x : Port) : (s.setPort p x).merges = s.merges := rfl
@[simp] theorem outs_setPort (s : State) (p : Nat) (x : Port) : (s.setPort p x).outs = s.outs := rfl
@[simp] theorem core_setPort (s : State) (p : Nat) (x : Port) (q : Nat) : (s.setPort p x).core q = s.core q := rfl
@[simp] theorem cluster_setPort (s : State) (p : Nat) (x : Port) (q : Nat) : (s.setPort p x).cluster q = s.cluster q := rfl
@[simp] theorem die_setPort (s : State) (p : Nat) (x : Port) (q : Nat) : (s.setPort p x).die q = s.die q := rfl
@[simp] theorem ctx_setPort (s : State) (p : Nat) (x : Port) (q : Nat) : (s.setPort p x).ctx q = s.ctx q := rfl

/-! ### emit -/
@[simp] theorem agenda_emit (s : State) (o : Output) : (s.emit o).agenda = s.agenda := rfl
@[simp] theorem cur_emit (s : State) (o : Output) : (s.emit o).cur = s.cur := rfl
@[simp] theorem cycle_emit (s : State) (o : Output) : (s.emit o).cycle = s.cycle := rfl
@[simp] theorem cores_emit (s : State) (o : Output) : (s.emit o).cores = s.cores := rfl
@[simp] theorem clusters_emit (s : State) (o : Output) : (s.emit o).clusters = s.clusters := rfl
@[simp] theorem dies_emit (s : State) (o : Output) : (s.emit o).dies = s.dies := rfl
@[simp] theorem ctxs_emit (s : State) (o : Output) : (s.emit o).ctxs = s.ctxs := rfl
@[simp] theorem mem_emit (s : State) (o : Output) : (s.emit o).mem = s.mem := rfl
@[simp] theorem memTags_emit (s : State) (o : Output) : (s.emit o).memTags = s.memTags := rfl
@[simp] theorem memPoison_emit (s : State) (o : Output) : (s.emit o).memPoison = s.memPoison := rfl
@[simp] theorem flits_emit (s : State) (o : Output) : (s.emit o).flits = s.flits := rfl
@[simp] theorem reqs_emit (s : State) (o : Output) : (s.emit o).reqs = s.reqs := rfl
@[simp] theorem nextReq_emit (s : State) (o : Output) : (s.emit o).nextReq = s.nextReq := rfl
@[simp] theorem ranges_emit (s : State) (o : Output) : (s.emit o).ranges = s.ranges := rfl
@[simp] theorem blocks_emit (s : State) (o : Output) : (s.emit o).blocks = s.blocks := rfl
@[simp] theorem pushes_emit (s : State) (o : Output) : (s.emit o).pushes = s.pushes := rfl
@[simp] theorem merges_emit (s : State) (o : Output) : (s.emit o).merges = s.merges := rfl
@[simp] theorem hub_emit (s : State) (o : Output) : (s.emit o).hub = s.hub := rfl
@[simp] theorem core_emit (s : State) (o : Output) (q : Nat) : (s.emit o).core q = s.core q := rfl
@[simp] theorem cluster_emit (s : State) (o : Output) (q : Nat) : (s.emit o).cluster q = s.cluster q := rfl
@[simp] theorem die_emit (s : State) (o : Output) (q : Nat) : (s.emit o).die q = s.die q := rfl
@[simp] theorem ctx_emit (s : State) (o : Output) (q : Nat) : (s.emit o).ctx q = s.ctx q := rfl

/-! ### modRange -/
@[simp] theorem agenda_modRange (s : State) (i : Nat) (f : Range → Range) : (s.modRange i f).agenda = s.agenda := rfl
@[simp] theorem cur_modRange (s : State) (i : Nat) (f : Range → Range) : (s.modRange i f).cur = s.cur := rfl
@[simp] theorem cycle_modRange (s : State) (i : Nat) (f : Range → Range) : (s.modRange i f).cycle = s.cycle := rfl
@[simp] theorem cores_modRange (s : State) (i : Nat) (f : Range → Range) : (s.modRange i f).cores = s.cores := rfl
@[simp] theorem clusters_modRange (s : State) (i : Nat) (f : Range → Range) : (s.modRange i f).clusters = s.clusters := rfl
@[simp] theorem dies_modRange (s : State) (i : Nat) (f : Range → Range) : (s.modRange i f).dies = s.dies := rfl
@[simp] theorem ctxs_modRange (s : State) (i : Nat) (f : Range → Range) : (s.modRange i f).ctxs = s.ctxs := rfl
@[simp] theorem mem_modRange (s : State) (i : Nat) (f : Range → Range) : (s.modRange i f).mem = s.mem := rfl
@[simp] theorem memTags_modRange (s : State) (i : Nat) (f : Range → Range) : (s.modRange i f).memTags = s.memTags := rfl
@[simp] theorem memPoison_modRange (s : State) (i : Nat) (f : Range → Range) : (s.modRange i f).memPoison = s.memPoison := rfl
@[simp] theorem flits_modRange (s : State) (i : Nat) (f : Range → Range) : (s.modRange i f).flits = s.flits := rfl
@[simp] theorem reqs_modRange (s : State) (i : Nat) (f : Range → Range) : (s.modRange i f).reqs = s.reqs := rfl
@[simp] theorem nextReq_modRange (s : State) (i : Nat) (f : Range → Range) : (s.modRange i f).nextReq = s.nextReq := rfl
@[simp] theorem blocks_modRange (s : State) (i : Nat) (f : Range → Range) : (s.modRange i f).blocks = s.blocks := rfl
@[simp] theorem pushes_modRange (s : State) (i : Nat) (f : Range → Range) : (s.modRange i f).pushes = s.pushes := rfl
@[simp] theorem merges_modRange (s : State) (i : Nat) (f : Range → Range) : (s.modRange i f).merges = s.merges := rfl
@[simp] theorem hub_modRange (s : State) (i : Nat) (f : Range → Range) : (s.modRange i f).hub = s.hub := rfl
@[simp] theorem outs_modRange (s : State) (i : Nat) (f : Range → Range) : (s.modRange i f).outs = s.outs := rfl
@[simp] theorem core_modRange (s : State) (i : Nat) (f : Range → Range) (q : Nat) : (s.modRange i f).core q = s.core q := rfl
@[simp] theorem cluster_modRange (s : State) (i : Nat) (f : Range → Range) (q : Nat) : (s.modRange i f).cluster q = s.cluster q := rfl
@[simp] theorem die_modRange (s : State) (i : Nat) (f : Range → Range) (q : Nat) : (s.modRange i f).die q = s.die q := rfl
@[simp] theorem ctx_modRange (s : State) (i : Nat) (f : Range → Range) (q : Nat) : (s.modRange i f).ctx q = s.ctx q := rfl

/-! ### setMemByte -/
@[simp] theorem agenda_setMemByte (s : State) (a : Nat) (b : TByte) : (s.setMemByte a b).agenda = s.agenda := rfl
@[simp] theorem cur_setMemByte (s : State) (a : Nat) (b : TByte) : (s.setMemByte a b).cur = s.cur := rfl
@[simp] theorem cycle_setMemByte (s : State) (a : Nat) (b : TByte) : (s.setMemByte a b).cycle = s.cycle := rfl
@[simp] theorem cores_setMemByte (s : State) (a : Nat) (b : TByte) : (s.setMemByte a b).cores = s.cores := rfl
@[simp] theorem clusters_setMemByte (s : State) (a : Nat) (b : TByte) : (s.setMemByte a b).clusters = s.clusters := rfl
@[simp] theorem dies_setMemByte (s : State) (a : Nat) (b : TByte) : (s.setMemByte a b).dies = s.dies := rfl
@[simp] theorem ctxs_setMemByte (s : State) (a : Nat) (b : TByte) : (s.setMemByte a b).ctxs = s.ctxs := rfl
@[simp] theorem memPoison_setMemByte (s : State) (a : Nat) (b : TByte) : (s.setMemByte a b).memPoison = s.memPoison := rfl
@[simp] theorem flits_setMemByte (s : State) (a : Nat) (b : TByte) : (s.setMemByte a b).flits = s.flits := rfl
@[simp] theorem reqs_setMemByte (s : State) (a : Nat) (b : TByte) : (s.setMemByte a b).reqs = s.reqs := rfl
@[simp] theorem nextReq_setMemByte (s : State) (a : Nat) (b : TByte) : (s.setMemByte a b).nextReq = s.nextReq := rfl
@[simp] theorem ranges_setMemByte (s : State) (a : Nat) (b : TByte) : (s.setMemByte a b).ranges = s.ranges := rfl
@[simp] theorem blocks_setMemByte (s : State) (a : Nat) (b : TByte) : (s.setMemByte a b).blocks = s.blocks := rfl
@[simp] theorem pushes_setMemByte (s : State) (a : Nat) (b : TByte) : (s.setMemByte a b).pushes = s.pushes := rfl
@[simp] theorem merges_setMemByte (s : State) (a : Nat) (b : TByte) : (s.setMemByte a b).merges = s.merges := rfl
@[simp] theorem hub_setMemByte (s : State) (a : Nat) (b : TByte) : (s.setMemByte a b).hub = s.hub := rfl
@[simp] theorem outs_setMemByte (s : State) (a : Nat) (b : TByte) : (s.setMemByte a b).outs = s.outs := rfl
@[simp] theorem core_setMemByte (s : State) (a : Nat) (b : TByte) (q : Nat) : (s.setMemByte a b).core q = s.core q := rfl
@[simp] theorem cluster_setMemByte (s : State) (a : Nat) (b : TByte) (q : Nat) : (s.setMemByte a b).cluster q = s.cluster q := rfl
@[simp] theorem die_setMemByte (s : State) (a : Nat) (b : TByte) (q : Nat) : (s.setMemByte a b).die q = s.die q := rfl
@[simp] theorem ctx_setMemByte (s : State) (a : Nat) (b : TByte) (q : Nat) : (s.setMemByte a b).ctx q = s.ctx q := rfl

/-! ### poisonWords -/
@[simp] theorem agenda_poisonWords (s : State) (ws : List Nat) : (s.poisonWords ws).agenda = s.agenda := rfl
@[simp] theorem cur_poisonWords (s : State) (ws : List Nat) : (s.poisonWords ws).cur = s.cur := rfl
@[simp] theorem cycle_poisonWords (s : State) (ws : List Nat) : (s.poisonWords ws).cycle = s.cycle := rfl
@[simp] theorem cores_poisonWords (s : State) (ws : List Nat) : (s.poisonWords ws).cores = s.cores := rfl
@[simp] theorem clusters_poisonWords (s : State) (ws : List Nat) : (s.poisonWords ws).clusters = s.clusters := rfl
@[simp] theorem dies_poisonWords (s : State) (ws : List Nat) : (s.poisonWords ws).dies = s.dies := rfl
@[simp] theorem ctxs_poisonWords (s : State) (ws : List Nat) : (s.poisonWords ws).ctxs = s.ctxs := rfl
@[simp] theorem mem_poisonWords (s : State) (ws : List Nat) : (s.poisonWords ws).mem = s.mem := rfl
@[simp] theorem memTags_poisonWords (s : State) (ws : List Nat) : (s.poisonWords ws).memTags = s.memTags := rfl
@[simp] theorem flits_poisonWords (s : State) (ws : List Nat) : (s.poisonWords ws).flits = s.flits := rfl
@[simp] theorem reqs_poisonWords (s : State) (ws : List Nat) : (s.poisonWords ws).reqs = s.reqs := rfl
@[simp] theorem nextReq_poisonWords (s : State) (ws : List Nat) : (s.poisonWords ws).nextReq = s.nextReq := rfl
@[simp] theorem ranges_poisonWords (s : State) (ws : List Nat) : (s.poisonWords ws).ranges = s.ranges := rfl
@[simp] theorem blocks_poisonWords (s : State) (ws : List Nat) : (s.poisonWords ws).blocks = s.blocks := rfl
@[simp] theorem pushes_poisonWords (s : State) (ws : List Nat) : (s.poisonWords ws).pushes = s.pushes := rfl
@[simp] theorem merges_poisonWords (s : State) (ws : List Nat) : (s.poisonWords ws).merges = s.merges := rfl
@[simp] theorem hub_poisonWords (s : State) (ws : List Nat) : (s.poisonWords ws).hub = s.hub := rfl
@[simp] theorem outs_poisonWords (s : State) (ws : List Nat) : (s.poisonWords ws).outs = s.outs := rfl
@[simp] theorem core_poisonWords (s : State) (ws : List Nat) (q : Nat) : (s.poisonWords ws).core q = s.core q := rfl
@[simp] theorem cluster_poisonWords (s : State) (ws : List Nat) (q : Nat) : (s.poisonWords ws).cluster q = s.cluster q := rfl
@[simp] theorem die_poisonWords (s : State) (ws : List Nat) (q : Nat) : (s.poisonWords ws).die q = s.die q := rfl
@[simp] theorem ctx_poisonWords (s : State) (ws : List Nat) (q : Nat) : (s.poisonWords ws).ctx q = s.ctx q := rfl

/-! ### cleanWords -/
@[simp] theorem agenda_cleanWords (s : State) (a n : Nat) : (s.cleanWords a n).agenda = s.agenda := rfl
@[simp] theorem cur_cleanWords (s : State) (a n : Nat) : (s.cleanWords a n).cur = s.cur := rfl
@[simp] theorem cycle_cleanWords (s : State) (a n : Nat) : (s.cleanWords a n).cycle = s.cycle := rfl
@[simp] theorem cores_cleanWords (s : State) (a n : Nat) : (s.cleanWords a n).cores = s.cores := rfl
@[simp] theorem clusters_cleanWords (s : State) (a n : Nat) : (s.cleanWords a n).clusters = s.clusters := rfl
@[simp] theorem dies_cleanWords (s : State) (a n : Nat) : (s.cleanWords a n).dies = s.dies := rfl
@[simp] theorem ctxs_cleanWords (s : State) (a n : Nat) : (s.cleanWords a n).ctxs = s.ctxs := rfl
@[simp] theorem mem_cleanWords (s : State) (a n : Nat) : (s.cleanWords a n).mem = s.mem := rfl
@[simp] theorem memTags_cleanWords (s : State) (a n : Nat) : (s.cleanWords a n).memTags = s.memTags := rfl
@[simp] theorem flits_cleanWords (s : State) (a n : Nat) : (s.cleanWords a n).flits = s.flits := rfl
@[simp] theorem reqs_cleanWords (s : State) (a n : Nat) : (s.cleanWords a n).reqs = s.reqs := rfl
@[simp] theorem nextReq_cleanWords (s : State) (a n : Nat) : (s.cleanWords a n).nextReq = s.nextReq := rfl
@[simp] theorem ranges_cleanWords (s : State) (a n : Nat) : (s.cleanWords a n).ranges = s.ranges := rfl
@[simp] theorem blocks_cleanWords (s : State) (a n : Nat) : (s.cleanWords a n).blocks = s.blocks := rfl
@[simp] theorem pushes_cleanWords (s : State) (a n : Nat) : (s.cleanWords a n).pushes = s.pushes := rfl
@[simp] theorem merges_cleanWords (s : State) (a n : Nat) : (s.cleanWords a n).merges = s.merges := rfl
@[simp] theorem hub_cleanWords (s : State) (a n : Nat) : (s.cleanWords a n).hub = s.hub := rfl
@[simp] theorem outs_cleanWords (s : State) (a n : Nat) : (s.cleanWords a n).outs = s.outs := rfl
@[simp] theorem core_cleanWords (s : State) (a n : Nat) (q : Nat) : (s.cleanWords a n).core q = s.core q := rfl
@[simp] theorem cluster_cleanWords (s : State) (a n : Nat) (q : Nat) : (s.cleanWords a n).cluster q = s.cluster q := rfl
@[simp] theorem die_cleanWords (s : State) (a n : Nat) (q : Nat) : (s.cleanWords a n).die q = s.die q := rfl
@[simp] theorem ctx_cleanWords (s : State) (a n : Nat) (q : Nat) : (s.cleanWords a n).ctx q = s.ctx q := rfl

end Sys2Proof.Machine
end

