-- ==== Sys2Proof/Laws/Memory.lean ====
section
/-! SUPPORT. Module memory: what a write leaves to be read, and that every operation on it keeps the canonical form. -/

namespace Sys2Proof.Machine

/-! ### Bytes -/

/-- The canonical form as two facts: rising addresses, and no empty byte listed. -/
theorem memWf_iff (m : List Host.Cell) :
    memWf m = true ↔ m.Pairwise (fun x y => x.1 < y.1) ∧ ∀ x ∈ m, x.2 ≠ emptyByte := by
  induction m with
  | nil => simp [memWf]
  | cons p m ih =>
    obtain ⟨a, v⟩ := p
    cases m with
    | nil => simp [memWf]
    | cons q m =>
      obtain ⟨b, w⟩ := q
      simp only [memWf, Bool.and_eq_true, ih, bne_iff_ne, decide_eq_true_eq]
      constructor
      · rintro ⟨⟨h1, h2⟩, h3, h4⟩
        refine ⟨List.pairwise_cons.2 ⟨?_, h3⟩, ?_⟩
        · intro x hx
          rcases List.mem_cons.1 hx with rfl | hx
          · exact h2
          · exact Nat.lt_trans h2 ((List.pairwise_cons.1 h3).1 x hx)
        · intro x hx
          rcases List.mem_cons.1 hx with rfl | hx
          · exact h1
          · exact h4 x hx
      · rintro ⟨h1, h2⟩
        have h := List.pairwise_cons.1 h1
        exact ⟨⟨h2 (a, v) (by simp), h.1 (b, w) (by simp)⟩, h.2, fun x hx => h2 x (List.mem_cons_of_mem _ hx)⟩

theorem mem_memSet {m : List Host.Cell} {x : Nat} {v : Byte} {c : Host.Cell} (h : c ∈ memSet m x v) :
    c = (x, v) ∧ v ≠ emptyByte ∨ c ∈ m := by
  induction m with
  | nil => unfold memSet at h; split at h <;> simp_all
  | cons p m ih =>
    obtain ⟨a, w⟩ := p
    simp only [memSet] at h
    split at h
    · split at h
      · exact .inr h
      · rename_i hv
        rcases List.mem_cons.1 h with h | h
        · exact .inl ⟨h, hv⟩
        · exact .inr h
    · split at h
      · split at h
        · exact .inr (List.mem_cons_of_mem _ h)
        · rename_i hv
          rcases List.mem_cons.1 h with h | h
          · exact .inl ⟨h, hv⟩
          · exact .inr (List.mem_cons_of_mem _ h)
      · rcases List.mem_cons.1 h with h | h
        · exact .inr (h ▸ List.mem_cons_self ..)
        · rcases ih h with h | h
          · exact .inl h
          · exact .inr (List.mem_cons_of_mem _ h)

theorem memWf_memSet {m : List Host.Cell} (x : Nat) (v : Byte) (h : memWf m = true) : memWf (memSet m x v) = true := by
  rw [memWf_iff] at h ⊢
  obtain ⟨h1, h2⟩ := h
  refine ⟨?_, ?_⟩
  · induction m with
    | nil => unfold memSet; split <;> simp
    | cons p m ih =>
      obtain ⟨a, w⟩ := p
      have hp := List.pairwise_cons.1 h1
      simp only [memSet]
      split
      · rename_i hx
        split
        · exact h1
        · refine List.pairwise_cons.2 ⟨fun c hc => ?_, h1⟩
          rcases List.mem_cons.1 hc with rfl | hc
          · exact hx
          · exact Nat.lt_trans hx (hp.1 c hc)
      · split
        · rename_i hx he
          split
          · exact hp.2
          · exact List.pairwise_cons.2 ⟨fun c hc => he ▸ hp.1 c hc, hp.2⟩
        · rename_i hx he
          refine List.pairwise_cons.2 ⟨fun c hc => ?_, ih hp.2 fun y hy => h2 y (List.mem_cons_of_mem _ hy)⟩
          rcases mem_memSet hc with ⟨rfl, -⟩ | hc
          · show a < x; omega
          · exact hp.1 c hc
  · intro c hc
    rcases mem_memSet hc with ⟨rfl, hv⟩ | hc
    · exact hv
    · exact h2 c hc

theorem memGet_of_lt {m : List Host.Cell} {x : Nat} (h : ∀ c ∈ m, x < c.1) : memGet m x = emptyByte := by
  induction m with
  | nil => rfl
  | cons p m ih =>
    obtain ⟨a, w⟩ := p
    have : x < a := h (a, w) (by simp)
    simp only [memGet]
    rw [if_neg (by omega)]
    exact ih fun c hc => h c (List.mem_cons_of_mem _ hc)

/-- A read after a write: the byte written at its address, what was there everywhere else. -/
theorem memGet_memSet {m : List Host.Cell} (x y : Nat) (v : Byte) (h : memWf m = true) :
    memGet (memSet m x v) y = if x = y then v else memGet m y := by
  have h := ((memWf_iff m).1 h).1
  clear * - h
  induction m with
  | nil =>
    simp only [memSet]
    split
    · rename_i e; split <;> simp_all [memGet]
    · simp [memGet]
  | cons p m ih =>
    obtain ⟨a, w⟩ := p
    have hp := List.pairwise_cons.1 h
    simp only [memSet]
    split
    · rename_i hx
      have hlt : ∀ c ∈ (a, w) :: m, x < c.1 := by
        intro c hc
        rcases List.mem_cons.1 hc with rfl | hc
        · exact hx
        · exact Nat.lt_trans hx (hp.1 c hc)
      split
      · rename_i hv
        split
        · rename_i e; subst e; rw [hv]; exact memGet_of_lt hlt
        · rfl
      · simp only [memGet]
    · split
      · rename_i hx e
        subst e
        split
        · rename_i hv
          simp only [memGet]
          split
          · rename_i e; subst e; rw [hv]; exact memGet_of_lt hp.1
          · rfl
        · simp only [memGet]; split <;> rfl
      · rename_i hx he
        simp only [memGet]
        rw [ih hp.2]
        split
        · rename_i e
          rw [if_neg (by omega)]
        · rfl

/-! ### Sets of numbers -/

theorem mem_insertNat {m : List Nat} {x y : Nat} : y ∈ insertNat m x ↔ y = x ∨ y ∈ m := by
  induction m with
  | nil => simp [insertNat]
  | cons a m ih =>
    simp only [insertNat]
    split
    · simp
    · split
      · rename_i e; subst e; simp
      · simp only [List.mem_cons, ih]; tauto

theorem insertNat_sorted {m : List Nat} (x : Nat) (h : m.Pairwise (· < ·)) : (insertNat m x).Pairwise (· < ·) := by
  induction m with
  | nil => simp [insertNat]
  | cons a m ih =>
    have hp := List.pairwise_cons.1 h
    simp only [insertNat]
    split
    · rename_i hx
      refine List.pairwise_cons.2 ⟨fun c hc => ?_, h⟩
      rcases List.mem_cons.1 hc with rfl | hc
      · exact hx
      · exact Nat.lt_trans hx (hp.1 c hc)
    · split
      · exact h
      · refine List.pairwise_cons.2 ⟨fun c hc => ?_, ih hp.2⟩
        rcases mem_insertNat.1 hc with rfl | hc
        · omega
        · exact hp.1 c hc

theorem eraseNat_sublist (m : List Nat) (x : Nat) : (eraseNat m x).Sublist m := by
  induction m with
  | nil => exact .slnil
  | cons a m ih =>
    simp only [eraseNat]
    split
    · exact List.sublist_cons_self a m
    · exact ih.cons_cons a

theorem mem_eraseNat {m : List Nat} {x y : Nat} (h : m.Pairwise (· < ·)) : y ∈ eraseNat m x ↔ y ≠ x ∧ y ∈ m := by
  induction m with
  | nil => simp [eraseNat]
  | cons a m ih =>
    have hp := List.pairwise_cons.1 h
    simp only [eraseNat]
    split
    · rename_i e
      subst e
      constructor
      · intro hy; exact ⟨fun e => absurd (hp.1 y hy) (by omega), List.mem_cons_of_mem _ hy⟩
      · rintro ⟨h1, h2⟩; exact (List.mem_cons.1 h2).resolve_left h1
    · rename_i e
      simp only [List.mem_cons, ih hp.2]
      constructor
      · rintro (rfl | ⟨h1, h2⟩)
        · exact ⟨fun e' => e e'.symm, .inl rfl⟩
        · exact ⟨h1, .inr h2⟩
      · rintro ⟨h1, h2 | h2⟩
        · exact .inl h2
        · exact .inr ⟨h1, h2⟩

theorem foldl_insertNat_sorted (ws : List Nat) {m : List Nat} (h : m.Pairwise (· < ·)) :
    (ws.foldl insertNat m).Pairwise (· < ·) := by
  induction ws generalizing m with
  | nil => exact h
  | cons w ws ih => exact ih (insertNat_sorted w h)

/-! ### The state's memory -/

/-- The form depends on the three parts of memory alone. -/
theorem memOk_congr {s t : State} (h1 : t.mem = s.mem) (h2 : t.memTags = s.memTags) (h3 : t.memPoison = s.memPoison)
    (h : s.memOk) : t.memOk := by
  unfold State.memOk at *; rw [h1, h2, h3]; exact h

theorem reset_memOk : State.reset.memOk := by simp [State.memOk, State.reset, memWf]

theorem memOk_setMemByte {s : State} (a : Nat) (b : TByte) (h : s.memOk) : (s.setMemByte a b).memOk := by
  obtain ⟨h1, h2, h3⟩ := h
  refine ⟨memWf_memSet a b.1 h1, ?_, h3⟩
  show List.Pairwise _ (if b.2 = true then insertNat s.memTags a else eraseNat s.memTags a)
  split
  · exact insertNat_sorted a h2
  · exact h2.sublist (eraseNat_sublist _ _)

theorem memOk_writeMem {s : State} (a : Nat) (bs : List TByte) (h : s.memOk) : (s.writeMem a bs).memOk := by
  induction bs generalizing s a with
  | nil => exact h
  | cons b bs ih => exact ih (a + 1) (memOk_setMemByte a b h)

theorem memOk_poisonWords {s : State} (ws : List Nat) (h : s.memOk) : (s.poisonWords ws).memOk :=
  ⟨h.1, h.2.1, foldl_insertNat_sorted ws h.2.2⟩

theorem memOk_cleanWords {s : State} (a n : Nat) (h : s.memOk) : (s.cleanWords a n).memOk :=
  ⟨h.1, h.2.1, h.2.2.sublist List.filter_sublist⟩

theorem memOk_storeMem {s : State} (a : Nat) (bs : List TByte) (h : s.memOk) : (s.storeMem a bs).memOk :=
  memOk_cleanWords _ _ (memOk_writeMem a bs h)

/-- A byte of memory after a write of one byte. -/
theorem memByte_setMemByte {s : State} (a x : Nat) (b : TByte) (h : s.memOk) :
    (s.setMemByte a b).memByte x = if a = x then b else s.memByte x := by
  obtain ⟨h1, h2, -⟩ := h
  have hm : memGet (memSet s.mem a b.1) x = if a = x then b.1 else memGet s.mem x := memGet_memSet a x b.1 h1
  have ht : (if b.2 then insertNat s.memTags a else eraseNat s.memTags a).contains x =
      if a = x then b.2 else s.memTags.contains x := by
    by_cases hb : b.2 = true
    · rw [if_pos hb]
      by_cases e : a = x
      · subst e; simp [mem_insertNat, hb]
      · have : x ≠ a := fun h => e h.symm
        simp [mem_insertNat, e, this]
    · rw [if_neg hb]
      by_cases e : a = x
      · subst e
        have : ¬a ∈ eraseNat s.memTags a := fun hh => ((mem_eraseNat h2).1 hh).1 rfl
        simp [this, hb]
      · have : x ≠ a := fun h => e h.symm
        simp [mem_eraseNat h2, e, this]
  show (memGet (memSet s.mem a b.1) x, _) = _
  rw [hm]
  show (_, (if b.2 then insertNat s.memTags a else eraseNat s.memTags a).contains x) = _
  rw [ht]
  split <;> rfl

/-- A byte of memory after a write of bytes: the byte written, or what was there outside them. -/
theorem memByte_writeMem {s : State} (a x : Nat) (bs : List TByte) (h : s.memOk) :
    (s.writeMem a bs).memByte x = if a ≤ x then (bs[x - a]?).getD (s.memByte x) else s.memByte x := by
  induction bs generalizing s a with
  | nil => simp [State.writeMem]
  | cons b bs ih =>
    rw [State.writeMem, ih (a + 1) (memOk_setMemByte a b h), memByte_setMemByte a x b h]
    by_cases h1 : a + 1 ≤ x
    · rw [if_pos h1, if_neg (by omega), if_pos (by omega)]
      have : x - a = (x - (a + 1)) + 1 := by omega
      rw [this, List.getElem?_cons_succ]
    · rw [if_neg h1]
      by_cases e : a = x
      · subst e; simp
      · rw [if_neg e, if_neg (by omega)]

@[simp] theorem readMem_length (s : State) (a n : Nat) : (s.readMem a n).length = n := by
  induction n generalizing a with
  | zero => rfl
  | succ n ih => simp [State.readMem, ih]

theorem getElem?_readMem (s : State) (a n i : Nat) (h : i < n) : (s.readMem a n)[i]? = some (s.memByte (a + i)) := by
  induction n generalizing a i with
  | zero => omega
  | succ n ih =>
    cases i with
    | zero => simp [State.readMem]
    | succ i => simp only [State.readMem, List.getElem?_cons_succ]; rw [ih (a + 1) i (by omega)]; congr 2; omega

/-- Bytes read where they were written. -/
theorem readMem_writeMem {s : State} (a : Nat) (bs : List TByte) (h : s.memOk) :
    (s.writeMem a bs).readMem a bs.length = bs := by
  refine List.ext_getElem? fun i => ?_
  by_cases hi : i < bs.length
  · rw [getElem?_readMem _ _ _ _ hi, memByte_writeMem a (a + i) bs h, if_pos (by omega)]
    simp [hi]
  · rw [List.getElem?_eq_none (by simp; omega), List.getElem?_eq_none (by omega)]

end Sys2Proof.Machine
end

