-- ==== Sys2Proof/Laws/Ops.lean ====
section
/-! SUPPORT. What the shared operations do, said once: finite maps, the executing carrel, register writes, and the frame of a
word from its sources to its completion. -/

namespace Sys2Proof.Machine

/-! ### Finite maps -/

theorem fget_fset {α : Type} (m : FMap α) (k j : Nat) (v : α) : fget (fset m k v) j = if k = j then some v else fget m j := by
  induction m with
  | nil => simp [fset, fget]
  | cons p m ih =>
    obtain ⟨i, w⟩ := p
    by_cases h : i = k <;> by_cases hj : i = j <;> simp_all [fset, fget]
    intro e; exact absurd e (fun x => h (x.symm ▸ hj ▸ rfl))

theorem fgetD_fset {α : Type} (m : FMap α) (k j : Nat) (v d : α) :
    fgetD (fset m k v) j d = if k = j then v else fgetD m j d := by
  unfold fgetD; rw [fget_fset]; split <;> rfl

@[simp] theorem fgetD_fset_same {α : Type} (m : FMap α) (k : Nat) (v d : α) : fgetD (fset m k v) k d = v := by
  simp [fgetD_fset]

/-! ### The parts of the state -/

@[simp] theorem core_setCore (s : State) (c d : Nat) (x : Core) :
    (s.setCore c x).core d = if c = d then x else s.core d := by
  simp [State.core, State.setCore, fgetD_fset]

@[simp] theorem carrel_setCarrel (k : Core) (i j : Nat) (x : Carrel) :
    (k.setCarrel i x).carrel j = if i = j then x else k.carrel j := by
  simp [Core.carrel, Core.setCarrel, fgetD_fset]

@[simp] theorem me_setMe (s : State) (x : Carrel) : (s.setMe x).me = x := by
  simp [State.me, State.setMe, State.setCarrel, State.carrel]
@[simp] theorem me_modMe (s : State) (f : Carrel → Carrel) : (s.modMe f).me = f s.me := by simp [State.modMe]

/-- Another carrel is untouched by a change to the executing one. -/
theorem carrel_modMe (s : State) (f : Carrel → Carrel) (c i : Nat) (h : (c, i) ≠ s.cur) :
    (s.modMe f).carrel c i = s.carrel c i := by
  by_cases hc : s.cur.1 = c
  · have hi : s.cur.2 ≠ i := fun e => h (by rw [← hc, ← e])
    simp [State.modMe, State.setMe, State.setCarrel, State.carrel, hc, hi]
  · simp [State.modMe, State.setMe, State.setCarrel, State.carrel, hc]

/-! ### Registers -/

@[simp] theorem read_zero (c : Carrel) : c.read 0 = {} := rfl

theorem write_of_ne (c : Carrel) {r : Reg} (v : TCap) (h : r ≠ 0) :
    c.write r v = { c with regs := fset c.regs r.toNat { val := v.val, tag := v.tag },
                           wrote := if inRputWindow r then r :: c.wrote else c.wrote,
                           lat := fdel c.lat r.toNat } := if_neg h

theorem read_of_ne (c : Carrel) {r : Reg} (h : r ≠ 0) :
    c.read r = if (c.creg r).dead then {} else { val := (c.creg r).val, tag := (c.creg r).tag } := if_neg h

theorem creg_write (c : Carrel) (r q : Reg) (v : TCap) :
    (c.write r v).creg q = if r = q ∧ r ≠ 0 then { val := v.val, tag := v.tag } else c.creg q := by
  by_cases hr : r = 0
  · subst hr; simp [Carrel.write]
  have hw : (c.write r v).creg q = fgetD (fset c.regs r.toNat { val := v.val, tag := v.tag }) q.toNat (cregInit q) := by
    rw [write_of_ne c v hr]; rfl
  rw [hw]
  by_cases e : r = q
  · subst e; rw [if_pos ⟨rfl, hr⟩]; simp [Carrel.creg]
  · have hn : r.toNat ≠ q.toNat := fun h => e (BitVec.eq_of_toNat_eq h)
    rw [if_neg (fun h => e h.1)]; simp [Carrel.creg, fgetD_fset, hn]

theorem read_write (c : Carrel) (r q : Reg) (v : TCap) :
    (c.write r v).read q = if r = q ∧ r ≠ 0 then v else c.read q := by
  by_cases hq : q = 0
  · subst hq; rw [if_neg (fun h => h.2 h.1)]; rfl
  rw [read_of_ne _ hq, read_of_ne _ hq, creg_write]
  split <;> simp

/-- A write of a register that is no bound stream register. -/
theorem put_plain (c : Carrel) (r : Reg) (v : TCap) (h : c.stream r = none) : c.put r v = c.write r v := by
  simp [Carrel.put, h]

@[simp] theorem write_stream (c : Carrel) (r q : Reg) (v : TCap) : (c.write r v).stream q = c.stream q := by
  unfold Carrel.write; split <;> rfl

/-- A write of a bound stream register appends the next element (R197). -/
theorem stream_put (c : Carrel) (r : Reg) (v : TCap) (st : Stream) (h : c.stream r = some st) :
    (c.put r v).stream r = some { st with buffer := st.buffer ++ [(st.next, v.data)], next := st.next + 1 } := by
  unfold Carrel.put; rw [h]; simp [Carrel.stream, fget_fset]

@[simp] theorem me_put (s : State) (r : Reg) (v : TCap) : (s.put r v).me = s.me.put r v := by simp [State.put]

/-! ### The end of a word -/

/-- A result left in the destination passes that destination's gate when `takes` does. -/
theorem destGate_put (s : State) (d : Reg) (v : TCap) (h : takes s d v.data = true) :
    destGate s d ((WordRes.done (s.put d v)).element s d) = .go := by
  unfold takes at h
  cases hs : s.me.stream d with
  | none => simp [destGate, hs]
  | some st =>
    have e : (WordRes.done (s.put d v)).element s d = some v.data := by
      simp [WordRes.element, stream_put _ _ v st hs, hs, Carrel.left, dataCap, TCap.data]
    rw [e]; simpa using h

/-- A word whose operation is done, from its sources to the next word. -/
theorem runWord_done {i : Instr} {o : OpSpec} {s t : State} {body : State → List TCap → WordRes}
    (hi : issuable i s = true) (hr : sourcesReady o s = true) (hb : body s (readSources s.me o.cs) = .done t)
    (hd : ∀ d, o.dc = some d → destGate s d ((WordRes.done t).element s d) = .go) :
    runWord i o s body = .next (recordSync i s (completed t o.cs) (doneRec i o s t)) := by
  simp only [issuable, sourcesReady, Bool.and_eq_true, Bool.not_eq_true', Option.isNone_iff_eq_none, beq_iff_eq] at hi hr
  obtain ⟨⟨h1, h2⟩, h3⟩ := hi
  obtain ⟨h4, h5⟩ := hr
  unfold runWord
  rw [h1, h3]
  simp only [Bool.not_true, if_false, Bool.false_eq_true]
  unfold wordRes runOps
  rw [h2]; dsimp only
  rw [h4]; dsimp only
  rw [hb, h5]
  cases hdc : o.dc with
  | none => cases hsn : o.sends <;> simp [ownCauses, hsn, WordRes.turnsAway, firstCause, WordRes.rank, Gate.cause, complete, completed]
  | some d => cases hsn : o.sends <;> simp [ownCauses, hsn, WordRes.turnsAway, firstCause, WordRes.rank, Gate.cause, complete, completed, hd d hdc]

/-- A word that is not synchronised (R284) leaves no record. -/
theorem recordSync_plain {i : Instr} (h : isSync i = false) (s t : State) (r : SyncRec) : recordSync i s t r = t := by
  simp [recordSync, h]

/-- The words with one data result: the result goes to `d`. -/
theorem givesData_dataWord {i : Instr} {d : Reg} {cs : List Reg} {s : State} {f : List Word → Word}
    (h : exec i s = dataWord i d cs s f) (hs : isSync i = false) :
    GivesData i d cs s (f ((readSources s.me cs).map TCap.data)) := by
  intro hi hr hd
  rw [h, dataWord, runWord_done (t := s.putData d (f ((readSources s.me cs).map TCap.data))) hi hr rfl, recordSync_plain hs]
  intro d' e
  cases e
  refine destGate_put s d _ ?_
  simpa [dataCap, TCap.data] using hd

/-- The words with one register result. -/
theorem givesCap_word {i : Instr} {d : Reg} {cs : List Reg} {s : State} {f : State → List TCap → TCap}
    (h : exec i s = runWord i { cs := cs, dc := some d } s fun s vs => .done (s.put d (f s vs))) (hs : isSync i = false) :
    GivesCap i d cs s (f s (readSources s.me cs)) := by
  intro hi hr hd
  rw [h, runWord_done (t := s.put d (f s (readSources s.me cs))) hi hr rfl, recordSync_plain hs]
  intro d' e
  cases e
  exact destGate_put s d _ hd

end Sys2Proof.Machine
end

