-- ==== Sys2Proof/Laws/RoundTrip.lean ====
section
/-! SUPPORT. Decoding reads back what encoding wrote (R71 to R82): the fields of an encoded word, and for every instruction
with a word of its own one lemma `rt_<constructor>`. -/

namespace Sys2Proof.Laws

/-- A field of an encoded word. -/
theorem fld_ofNat (n lo k : Nat) (h : lo + k ≤ 32) : fld (BitVec.ofNat 32 n) lo k = n / 2 ^ lo % 2 ^ k := by
  unfold fld
  have e : (2 : Nat) ^ 32 = 2 ^ lo * 2 ^ (32 - lo) := by rw [← Nat.pow_add]; congr 1; omega
  rw [BitVec.toNat_ofNat, e, Nat.mod_mul_right_div_self, Nat.mod_mod_of_dvd]
  exact Nat.pow_dvd_pow 2 (by omega)

theorem bits_eq {k : Nat} (n lo : Nat) (x : BitVec k) (h : lo + k ≤ 32) (e : n / 2 ^ lo % 2 ^ k = x.toNat) :
    bits (BitVec.ofNat 32 n) lo k = x := by
  unfold bits; rw [fld_ofNat n lo k h, e]; simp

theorem bit_eq (n lo : Nat) (b : Bool) (h : lo < 32) (e : n / 2 ^ lo % 2 = b2n b) : bit (BitVec.ofNat 32 n) lo = b := by
  unfold bit; rw [fld_ofNat n lo 1 (by omega), show (2 : Nat) ^ 1 = 2 from rfl, e]; cases b <;> rfl

theorem b2n_lt (b : Bool) : b2n b < 2 := by cases b <;> decide

theorem AccKind.ofCode_code (c : AccKind) : AccKind.ofCode c.code = some c := by cases c <;> rfl
theorem AccKind.code_lt (c : AccKind) : c.code < 4 := by cases c <;> decide
theorem AmoOp.ofCode_code (c : AmoOp) : AmoOp.ofCode c.code = some c := by cases c <;> rfl
theorem AmoOp.code_lt (c : AmoOp) : c.code < 16 := by cases c <;> decide
theorem CachePol.ofCode_code (c : CachePol) : CachePol.ofCode c.code = some c := by cases c <;> rfl
theorem CachePol.code_lt (c : CachePol) : c.code < 4 := by cases c <;> decide
theorem CapField.ofCode_code (c : CapField) : CapField.ofCode c.code = some c := by cases c <;> rfl
theorem CapField.code_lt (c : CapField) : c.code < 64 := by cases c <;> decide
theorem Cond.ofCode_code (c : Cond) : Cond.ofCode c.code = some c := by cases c <;> rfl
theorem Cond.code_lt (c : Cond) : c.code < 16 := by cases c <;> decide
theorem ElemWidth.ofCode_code (c : ElemWidth) : ElemWidth.ofCode c.code = some c := by cases c <;> rfl
theorem ElemWidth.code_lt (c : ElemWidth) : c.code < 4 := by cases c <;> decide
theorem ExtCode.ofCode_code (c : ExtCode) : ExtCode.ofCode c.code = some c := by cases c <;> rfl
theorem ExtCode.code_lt (c : ExtCode) : c.code < 64 := by cases c <;> decide
theorem FcmpOp.ofCode_code (c : FcmpOp) : FcmpOp.ofCode c.code = some c := by cases c <;> rfl
theorem FcmpOp.code_lt (c : FcmpOp) : c.code < 4 := by cases c <;> decide
theorem FcvtCode.ofCode_code (c : FcvtCode) : FcvtCode.ofCode c.code = some c := by cases c <;> rfl
theorem FcvtCode.code_lt (c : FcvtCode) : c.code < 64 := by cases c <;> decide
theorem FpFmt.ofCode_code (c : FpFmt) : FpFmt.ofCode c.code = some c := by cases c <;> rfl
theorem FpFmt.code_lt (c : FpFmt) : c.code < 4 := by cases c <;> decide
theorem LdWidth.ofCode_code (c : LdWidth) : LdWidth.ofCode c.code = some c := by cases c <;> rfl
theorem LdWidth.code_lt (c : LdWidth) : c.code < 8 := by cases c <;> decide
theorem MaskCond.ofCode_code (c : MaskCond) : MaskCond.ofCode c.code = some c := by cases c <;> rfl
theorem MaskCond.code_lt (c : MaskCond) : c.code < 16 := by cases c <;> decide
theorem MaskOp.ofCode_code (c : MaskOp) : MaskOp.ofCode c.code = some c := by cases c <;> rfl
theorem MaskOp.code_lt (c : MaskOp) : c.code < 4 := by cases c <;> decide
theorem Order.ofCode_code (c : Order) : Order.ofCode c.code = some c := by cases c <;> rfl
theorem Order.code_lt (c : Order) : c.code < 8 := by cases c <;> decide
theorem RedOp.ofCode_code (c : RedOp) : RedOp.ofCode c.code = some c := by cases c <;> rfl
theorem RedOp.code_lt (c : RedOp) : c.code < 8 := by cases c <;> decide
theorem StWidth.ofCode_code (c : StWidth) : StWidth.ofCode c.code = some c := by cases c <;> rfl
theorem StWidth.code_lt (c : StWidth) : c.code < 8 := by cases c <;> decide
theorem SwmrSel.ofCode_code (c : SwmrSel) : SwmrSel.ofCode c.code = some c := by cases c <;> rfl
theorem SwmrSel.code_lt (c : SwmrSel) : c.code < 64 := by cases c <;> decide
theorem SysReg.ofCode_code (c : SysReg) : SysReg.ofCode c.code = some c := by cases c <;> rfl
theorem SysReg.code_lt (c : SysReg) : c.code < 64 := by cases c <;> decide
theorem VcvtCode.ofCode_code (c : VcvtCode) : VcvtCode.ofCode c.code = some c := by cases c <;> rfl
theorem VcvtCode.code_lt (c : VcvtCode) : c.code < 32 := by cases c <;> decide
theorem VfFmt.ofCode_code (c : VfFmt) : VfFmt.ofCode c.code = some c := by cases c <;> rfl
theorem VfFmt.code_lt (c : VfFmt) : c.code < 4 := by cases c <;> decide
theorem WideElem.ofCode_code (c : WideElem) : WideElem.ofCode c.code = some c := by cases c <;> rfl
theorem WideElem.code_lt (c : WideElem) : c.code < 4 := by cases c <;> decide

theorem read_add (x : Insn) (d : Reg) (a : Reg) (b : Reg) (w : Bool) (e0 : fld x 26 6 = 1) (e1 : fld x 0 7 = 0) (e2 :
    bits x 20 6 = d) (e3 : bits x 14 6 = a) (e4 : bits x 8 6 = b) (e5 : bit x 7 = w) :
    decodeWord x = .ok (.add d a b w) := by
  simp [decodeWord, decodeFields, decodeMajor01, e0, e1, e2, e3, e4, e5, Instr.wellFormed]
theorem rt_add (d : Reg) (a : Reg) (b : Reg) (w : Bool) : decodeWord (encode (.add d a b w)) = .ok (.add d a b w) := by
  have h0 := d.isLt
  have h1 := a.isLt
  have h2 := b.isLt
  have h3 := b2n_lt w
  have hn :
      encodeNat (.add d a b w) = 0x04000000 + d.toNat * 0x100000 + a.toNat * 0x4000 + b.toNat * 0x100 + b2n w * 0x80 := rfl
  unfold encode
  generalize encodeNat (.add d a b w) = n at hn ⊢
  refine read_add _ d a b w ?_ ?_ ?_ ?_ ?_ ?_
  · rw [fld_ofNat _ _ _ (by decide)]; omega
  · rw [fld_ofNat _ _ _ (by decide)]; omega
  · exact bits_eq _ _ _ (by decide) (by omega)
  · exact bits_eq _ _ _ (by decide) (by omega)
  · exact bits_eq _ _ _ (by decide) (by omega)
  · exact bit_eq _ _ _ (by decide) (by omega)

theorem read_sub (x : Insn) (d : Reg) (a : Reg) (b : Reg) (w : Bool) (e0 : fld x 26 6 = 1) (e1 : fld x 0 7 = 1) (e2 :
    bits x 20 6 = d) (e3 : bits x 14 6 = a) (e4 : bits x 8 6 = b) (e5 : bit x 7 = w) :
    decodeWord x = .ok (.sub d a b w) := by
  simp [decodeWord, decodeFields, decodeMajor01, e0, e1, e2, e3, e4, e5, Instr.wellFormed]
theorem rt_sub (d : Reg) (a : Reg) (b : Reg) (w : Bool) : decodeWord (encode (.sub d a b w)) = .ok (.sub d a b w) := by
  have h0 := d.isLt
  have h1 := a.isLt
  have h2 := b.isLt
  have h3 := b2n_lt w
  have hn :
      encodeNat (.sub d a b w) = 0x04000001 + d.toNat * 0x100000 + a.toNat * 0x4000 + b.toNat * 0x100 + b2n w * 0x80 := rfl
  unfold encode
  generalize encodeNat (.sub d a b w) = n at hn ⊢
  refine read_sub _ d a b w ?_ ?_ ?_ ?_ ?_ ?_
  · rw [fld_ofNat _ _ _ (by decide)]; omega
  · rw [fld_ofNat _ _ _ (by decide)]; omega
  · exact bits_eq _ _ _ (by decide) (by omega)
  · exact bits_eq _ _ _ (by decide) (by omega)
  · exact bits_eq _ _ _ (by decide) (by omega)
  · exact bit_eq _ _ _ (by decide) (by omega)

theorem read_and_ (x : Insn) (d : Reg) (a : Reg) (b : Reg) (w : Bool) (e0 : fld x 26 6 = 1) (e1 : fld x 0 7 = 2) (e2 :
    bits x 20 6 = d) (e3 : bits x 14 6 = a) (e4 : bits x 8 6 = b) (e5 : bit x 7 = w) :
    decodeWord x = .ok (.and_ d a b w) := by
  simp [decodeWord, decodeFields, decodeMajor01, e0, e1, e2, e3, e4, e5, Instr.wellFormed]
theorem rt_and_ (d : Reg) (a : Reg) (b : Reg) (w : Bool) : decodeWord (encode (.and_ d a b w)) = .ok (.and_ d a b w) := by
  have h0 := d.isLt
  have h1 := a.isLt
  have h2 := b.isLt
  have h3 := b2n_lt w
  have hn :
      encodeNat (.and_ d a b w) = 0x04000002 + d.toNat * 0x100000 + a.toNat * 0x4000 + b.toNat * 0x100 + b2n w * 0x80 := rfl
  unfold encode
  generalize encodeNat (.and_ d a b w) = n at hn ⊢
  refine read_and_ _ d a b w ?_ ?_ ?_ ?_ ?_ ?_
  · rw [fld_ofNat _ _ _ (by decide)]; omega
  · rw [fld_ofNat _ _ _ (by decide)]; omega
  · exact bits_eq _ _ _ (by decide) (by omega)
  · exact bits_eq _ _ _ (by decide) (by omega)
  · exact bits_eq _ _ _ (by decide) (by omega)
  · exact bit_eq _ _ _ (by decide) (by omega)

theorem read_or_ (x : Insn) (d : Reg) (a : Reg) (b : Reg) (w : Bool) (e0 : fld x 26 6 = 1) (e1 : fld x 0 7 = 3) (e2 :
    bits x 20 6 = d) (e3 : bits x 14 6 = a) (e4 : bits x 8 6 = b) (e5 : bit x 7 = w) :
    decodeWord x = .ok (.or_ d a b w) := by
  simp [decodeWord, decodeFields, decodeMajor01, e0, e1, e2, e3, e4, e5, Instr.wellFormed]
theorem rt_or_ (d : Reg) (a : Reg) (b : Reg) (w : Bool) : decodeWord (encode (.or_ d a b w)) = .ok (.or_ d a b w) := by
  have h0 := d.isLt
  have h1 := a.isLt
  have h2 := b.isLt
  have h3 := b2n_lt w
  have hn :
      encodeNat (.or_ d a b w) = 0x04000003 + d.toNat * 0x100000 + a.toNat * 0x4000 + b.toNat * 0x100 + b2n w * 0x80 := rfl
  unfold encode
  generalize encodeNat (.or_ d a b w) = n at hn ⊢
  refine read_or_ _ d a b w ?_ ?_ ?_ ?_ ?_ ?_
  · rw [fld_ofNat _ _ _ (by decide)]; omega
  · rw [fld_ofNat _ _ _ (by decide)]; omega
  · exact bits_eq _ _ _ (by decide) (by omega)
  · exact bits_eq _ _ _ (by decide) (by omega)
  · exact bits_eq _ _ _ (by decide) (by omega)
  · exact bit_eq _ _ _ (by decide) (by omega)

theorem read_xor_ (x : Insn) (d : Reg) (a : Reg) (b : Reg) (w : Bool) (e0 : fld x 26 6 = 1) (e1 : fld x 0 7 = 4) (e2 :
    bits x 20 6 = d) (e3 : bits x 14 6 = a) (e4 : bits x 8 6 = b) (e5 : bit x 7 = w) :
    decodeWord x = .ok (.xor_ d a b w) := by
  simp [decodeWord, decodeFields, decodeMajor01, e0, e1, e2, e3, e4, e5, Instr.wellFormed]
theorem rt_xor_ (d : Reg) (a : Reg) (b : Reg) (w : Bool) : decodeWord (encode (.xor_ d a b w)) = .ok (.xor_ d a b w) := by
  have h0 := d.isLt
  have h1 := a.isLt
  have h2 := b.isLt
  have h3 := b2n_lt w
  have hn :
      encodeNat (.xor_ d a b w) = 0x04000004 + d.toNat * 0x100000 + a.toNat * 0x4000 + b.toNat * 0x100 + b2n w * 0x80 := rfl
  unfold encode
  generalize encodeNat (.xor_ d a b w) = n at hn ⊢
  refine read_xor_ _ d a b w ?_ ?_ ?_ ?_ ?_ ?_
  · rw [fld_ofNat _ _ _ (by decide)]; omega
  · rw [fld_ofNat _ _ _ (by decide)]; omega
  · exact bits_eq _ _ _ (by decide) (by omega)
  · exact bits_eq _ _ _ (by decide) (by omega)
  · exact bits_eq _ _ _ (by decide) (by omega)
  · exact bit_eq _ _ _ (by decide) (by omega)

theorem read_shl (x : Insn) (d : Reg) (a : Reg) (b : Reg) (w : Bool) (e0 : fld x 26 6 = 1) (e1 : fld x 0 7 = 5) (e2 :
    bits x 20 6 = d) (e3 : bits x 14 6 = a) (e4 : bits x 8 6 = b) (e5 : bit x 7 = w) :
    decodeWord x = .ok (.shl d a b w) := by
  simp [decodeWord, decodeFields, decodeMajor01, e0, e1, e2, e3, e4, e5, Instr.wellFormed]
theorem rt_shl (d : Reg) (a : Reg) (b : Reg) (w : Bool) : decodeWord (encode (.shl d a b w)) = .ok (.shl d a b w) := by
  have h0 := d.isLt
  have h1 := a.isLt
  have h2 := b.isLt
  have h3 := b2n_lt w
  have hn :
      encodeNat (.shl d a b w) = 0x04000005 + d.toNat * 0x100000 + a.toNat * 0x4000 + b.toNat * 0x100 + b2n w * 0x80 := rfl
  unfold encode
  generalize encodeNat (.shl d a b w) = n at hn ⊢
  refine read_shl _ d a b w ?_ ?_ ?_ ?_ ?_ ?_
  · rw [fld_ofNat _ _ _ (by decide)]; omega
  · rw [fld_ofNat _ _ _ (by decide)]; omega
  · exact bits_eq _ _ _ (by decide) (by omega)
  · exact bits_eq _ _ _ (by decide) (by omega)
  · exact bits_eq _ _ _ (by decide) (by omega)
  · exact bit_eq _ _ _ (by decide) (by omega)

theorem read_shr (x : Insn) (d : Reg) (a : Reg) (b : Reg) (w : Bool) (e0 : fld x 26 6 = 1) (e1 : fld x 0 7 = 6) (e2 :
    bits x 20 6 = d) (e3 : bits x 14 6 = a) (e4 : bits x 8 6 = b) (e5 : bit x 7 = w) :
    decodeWord x = .ok (.shr d a b w) := by
  simp [decodeWord, decodeFields, decodeMajor01, e0, e1, e2, e3, e4, e5, Instr.wellFormed]
theorem rt_shr (d : Reg) (a : Reg) (b : Reg) (w : Bool) : decodeWord (encode (.shr d a b w)) = .ok (.shr d a b w) := by
  have h0 := d.isLt
  have h1 := a.isLt
  have h2 := b.isLt
  have h3 := b2n_lt w
  have hn :
      encodeNat (.shr d a b w) = 0x04000006 + d.toNat * 0x100000 + a.toNat * 0x4000 + b.toNat * 0x100 + b2n w * 0x80 := rfl
  unfold encode
  generalize encodeNat (.shr d a b w) = n at hn ⊢
  refine read_shr _ d a b w ?_ ?_ ?_ ?_ ?_ ?_
  · rw [fld_ofNat _ _ _ (by decide)]; omega
  · rw [fld_ofNat _ _ _ (by decide)]; omega
  · exact bits_eq _ _ _ (by decide) (by omega)
  · exact bits_eq _ _ _ (by decide) (by omega)
  · exact bits_eq _ _ _ (by decide) (by omega)
  · exact bit_eq _ _ _ (by decide) (by omega)

theorem read_sra (x : Insn) (d : Reg) (a : Reg) (b : Reg) (w : Bool) (e0 : fld x 26 6 = 1) (e1 : fld x 0 7 = 7) (e2 :
    bits x 20 6 = d) (e3 : bits x 14 6 = a) (e4 : bits x 8 6 = b) (e5 : bit x 7 = w) :
    decodeWord x = .ok (.sra d a b w) := by
  simp [decodeWord, decodeFields, decodeMajor01, e0, e1, e2, e3, e4, e5, Instr.wellFormed]
theorem rt_sra (d : Reg) (a : Reg) (b : Reg) (w : Bool) : decodeWord (encode (.sra d a b w)) = .ok (.sra d a b w) := by
  have h0 := d.isLt
  have h1 := a.isLt
  have h2 := b.isLt
  have h3 := b2n_lt w
  have hn :
      encodeNat (.sra d a b w) = 0x04000007 + d.toNat * 0x100000 + a.toNat * 0x4000 + b.toNat * 0x100 + b2n w * 0x80 := rfl
  unfold encode
  generalize encodeNat (.sra d a b w) = n at hn ⊢
  refine read_sra _ d a b w ?_ ?_ ?_ ?_ ?_ ?_
  · rw [fld_ofNat _ _ _ (by decide)]; omega
  · rw [fld_ofNat _ _ _ (by decide)]; omega
  · exact bits_eq _ _ _ (by decide) (by omega)
  · exact bits_eq _ _ _ (by decide) (by omega)
  · exact bits_eq _ _ _ (by decide) (by omega)
  · exact bit_eq _ _ _ (by decide) (by omega)

theorem read_mul (x : Insn) (d : Reg) (a : Reg) (b : Reg) (w : Bool) (e0 : fld x 26 6 = 1) (e1 : fld x 0 7 = 8) (e2 :
    bits x 20 6 = d) (e3 : bits x 14 6 = a) (e4 : bits x 8 6 = b) (e5 : bit x 7 = w) :
    decodeWord x = .ok (.mul d a b w) := by
  simp [decodeWord, decodeFields, decodeMajor01, e0, e1, e2, e3, e4, e5, Instr.wellFormed]
theorem rt_mul (d : Reg) (a : Reg) (b : Reg) (w : Bool) : decodeWord (encode (.mul d a b w)) = .ok (.mul d a b w) := by
  have h0 := d.isLt
  have h1 := a.isLt
  have h2 := b.isLt
  have h3 := b2n_lt w
  have hn :
      encodeNat (.mul d a b w) = 0x04000008 + d.toNat * 0x100000 + a.toNat * 0x4000 + b.toNat * 0x100 + b2n w * 0x80 := rfl
  unfold encode
  generalize encodeNat (.mul d a b w) = n at hn ⊢
  refine read_mul _ d a b w ?_ ?_ ?_ ?_ ?_ ?_
  · rw [fld_ofNat _ _ _ (by decide)]; omega
  · rw [fld_ofNat _ _ _ (by decide)]; omega
  · exact bits_eq _ _ _ (by decide) (by omega)
  · exact bits_eq _ _ _ (by decide) (by omega)
  · exact bits_eq _ _ _ (by decide) (by omega)
  · exact bit_eq _ _ _ (by decide) (by omega)

theorem read_mulh (x : Insn) (d : Reg) (a : Reg) (b : Reg) (w : Bool) (e0 : fld x 26 6 = 1) (e1 : fld x 0 7 = 9) (e2 :
    bits x 20 6 = d) (e3 : bits x 14 6 = a) (e4 : bits x 8 6 = b) (e5 : bit x 7 = w) :
    decodeWord x = .ok (.mulh d a b w) := by
  simp [decodeWord, decodeFields, decodeMajor01, e0, e1, e2, e3, e4, e5, Instr.wellFormed]
theorem rt_mulh (d : Reg) (a : Reg) (b : Reg) (w : Bool) : decodeWord (encode (.mulh d a b w)) = .ok (.mulh d a b w) := by
  have h0 := d.isLt
  have h1 := a.isLt
  have h2 := b.isLt
  have h3 := b2n_lt w
  have hn :
      encodeNat (.mulh d a b w) = 0x04000009 + d.toNat * 0x100000 + a.toNat * 0x4000 + b.toNat * 0x100 + b2n w * 0x80 := rfl
  unfold encode
  generalize encodeNat (.mulh d a b w) = n at hn ⊢
  refine read_mulh _ d a b w ?_ ?_ ?_ ?_ ?_ ?_
  · rw [fld_ofNat _ _ _ (by decide)]; omega
  · rw [fld_ofNat _ _ _ (by decide)]; omega
  · exact bits_eq _ _ _ (by decide) (by omega)
  · exact bits_eq _ _ _ (by decide) (by omega)
  · exact bits_eq _ _ _ (by decide) (by omega)
  · exact bit_eq _ _ _ (by decide) (by omega)

theorem read_mulhu (x : Insn) (d : Reg) (a : Reg) (b : Reg) (w : Bool) (e0 : fld x 26 6 = 1) (e1 : fld x 0 7 = 10) (e2 :
    bits x 20 6 = d) (e3 : bits x 14 6 = a) (e4 : bits x 8 6 = b) (e5 : bit x 7 = w) :
    decodeWord x = .ok (.mulhu d a b w) := by
  simp [decodeWord, decodeFields, decodeMajor01, e0, e1, e2, e3, e4, e5, Instr.wellFormed]
theorem rt_mulhu (d : Reg) (a : Reg) (b : Reg) (w : Bool) : decodeWord (encode (.mulhu d a b w)) = .ok (.mulhu d a b w) := by
  have h0 := d.isLt
  have h1 := a.isLt
  have h2 := b.isLt
  have h3 := b2n_lt w
  have hn :
      encodeNat (.mulhu d a b w) = 0x0400000A + d.toNat * 0x100000 + a.toNat * 0x4000 + b.toNat * 0x100 + b2n w * 0x80 := rfl
  unfold encode
  generalize encodeNat (.mulhu d a b w) = n at hn ⊢
  refine read_mulhu _ d a b w ?_ ?_ ?_ ?_ ?_ ?_
  · rw [fld_ofNat _ _ _ (by decide)]; omega
  · rw [fld_ofNat _ _ _ (by decide)]; omega
  · exact bits_eq _ _ _ (by decide) (by omega)
  · exact bits_eq _ _ _ (by decide) (by omega)
  · exact bits_eq _ _ _ (by decide) (by omega)
  · exact bit_eq _ _ _ (by decide) (by omega)

theorem read_div (x : Insn) (d : Reg) (a : Reg) (b : Reg) (w : Bool) (e0 : fld x 26 6 = 1) (e1 : fld x 0 7 = 11) (e2 :
    bits x 20 6 = d) (e3 : bits x 14 6 = a) (e4 : bits x 8 6 = b) (e5 : bit x 7 = w) :
    decodeWord x = .ok (.div d a b w) := by
  simp [decodeWord, decodeFields, decodeMajor01, e0, e1, e2, e3, e4, e5, Instr.wellFormed]
theorem rt_div (d : Reg) (a : Reg) (b : Reg) (w : Bool) : decodeWord (encode (.div d a b w)) = .ok (.div d a b w) := by
  have h0 := d.isLt
  have h1 := a.isLt
  have h2 := b.isLt
  have h3 := b2n_lt w
  have hn :
      encodeNat (.div d a b w) = 0x0400000B + d.toNat * 0x100000 + a.toNat * 0x4000 + b.toNat * 0x100 + b2n w * 0x80 := rfl
  unfold encode
  generalize encodeNat (.div d a b w) = n at hn ⊢
  refine read_div _ d a b w ?_ ?_ ?_ ?_ ?_ ?_
  · rw [fld_ofNat _ _ _ (by decide)]; omega
  · rw [fld_ofNat _ _ _ (by decide)]; omega
  · exact bits_eq _ _ _ (by decide) (by omega)
  · exact bits_eq _ _ _ (by decide) (by omega)
  · exact bits_eq _ _ _ (by decide) (by omega)
  · exact bit_eq _ _ _ (by decide) (by omega)

theorem read_divu (x : Insn) (d : Reg) (a : Reg) (b : Reg) (w : Bool) (e0 : fld x 26 6 = 1) (e1 : fld x 0 7 = 12) (e2 :
    bits x 20 6 = d) (e3 : bits x 14 6 = a) (e4 : bits x 8 6 = b) (e5 : bit x 7 = w) :
    decodeWord x = .ok (.divu d a b w) := by
  simp [decodeWord, decodeFields, decodeMajor01, e0, e1, e2, e3, e4, e5, Instr.wellFormed]
theorem rt_divu (d : Reg) (a : Reg) (b : Reg) (w : Bool) : decodeWord (encode (.divu d a b w)) = .ok (.divu d a b w) := by
  have h0 := d.isLt
  have h1 := a.isLt
  have h2 := b.isLt
  have h3 := b2n_lt w
  have hn :
      encodeNat (.divu d a b w) = 0x0400000C + d.toNat * 0x100000 + a.toNat * 0x4000 + b.toNat * 0x100 + b2n w * 0x80 := rfl
  unfold encode
  generalize encodeNat (.divu d a b w) = n at hn ⊢
  refine read_divu _ d a b w ?_ ?_ ?_ ?_ ?_ ?_
  · rw [fld_ofNat _ _ _ (by decide)]; omega
  · rw [fld_ofNat _ _ _ (by decide)]; omega
  · exact bits_eq _ _ _ (by decide) (by omega)
  · exact bits_eq _ _ _ (by decide) (by omega)
  · exact bits_eq _ _ _ (by decide) (by omega)
  · exact bit_eq _ _ _ (by decide) (by omega)

theorem read_rem (x : Insn) (d : Reg) (a : Reg) (b : Reg) (w : Bool) (e0 : fld x 26 6 = 1) (e1 : fld x 0 7 = 13) (e2 :
    bits x 20 6 = d) (e3 : bits x 14 6 = a) (e4 : bits x 8 6 = b) (e5 : bit x 7 = w) :
    decodeWord x = .ok (.rem d a b w) := by
  simp [decodeWord, decodeFields, decodeMajor01, e0, e1, e2, e3, e4, e5, Instr.wellFormed]
theorem rt_rem (d : Reg) (a : Reg) (b : Reg) (w : Bool) : decodeWord (encode (.rem d a b w)) = .ok (.rem d a b w) := by
  have h0 := d.isLt
  have h1 := a.isLt
  have h2 := b.isLt
  have h3 := b2n_lt w
  have hn :
      encodeNat (.rem d a b w) = 0x0400000D + d.toNat * 0x100000 + a.toNat * 0x4000 + b.toNat * 0x100 + b2n w * 0x80 := rfl
  unfold encode
  generalize encodeNat (.rem d a b w) = n at hn ⊢
  refine read_rem _ d a b w ?_ ?_ ?_ ?_ ?_ ?_
  · rw [fld_ofNat _ _ _ (by decide)]; omega
  · rw [fld_ofNat _ _ _ (by decide)]; omega
  · exact bits_eq _ _ _ (by decide) (by omega)
  · exact bits_eq _ _ _ (by decide) (by omega)
  · exact bits_eq _ _ _ (by decide) (by omega)
  · exact bit_eq _ _ _ (by decide) (by omega)

theorem read_remu (x : Insn) (d : Reg) (a : Reg) (b : Reg) (w : Bool) (e0 : fld x 26 6 = 1) (e1 : fld x 0 7 = 14) (e2 :
    bits x 20 6 = d) (e3 : bits x 14 6 = a) (e4 : bits x 8 6 = b) (e5 : bit x 7 = w) :
    decodeWord x = .ok (.remu d a b w) := by
  simp [decodeWord, decodeFields, decodeMajor01, e0, e1, e2, e3, e4, e5, Instr.wellFormed]
theorem rt_remu (d : Reg) (a : Reg) (b : Reg) (w : Bool) : decodeWord (encode (.remu d a b w)) = .ok (.remu d a b w) := by
  have h0 := d.isLt
  have h1 := a.isLt
  have h2 := b.isLt
  have h3 := b2n_lt w
  have hn :
      encodeNat (.remu d a b w) = 0x0400000E + d.toNat * 0x100000 + a.toNat * 0x4000 + b.toNat * 0x100 + b2n w * 0x80 := rfl
  unfold encode
  generalize encodeNat (.remu d a b w) = n at hn ⊢
  refine read_remu _ d a b w ?_ ?_ ?_ ?_ ?_ ?_
  · rw [fld_ofNat _ _ _ (by decide)]; omega
  · rw [fld_ofNat _ _ _ (by decide)]; omega
  · exact bits_eq _ _ _ (by decide) (by omega)
  · exact bits_eq _ _ _ (by decide) (by omega)
  · exact bits_eq _ _ _ (by decide) (by omega)
  · exact bit_eq _ _ _ (by decide) (by omega)

theorem read_min (x : Insn) (d : Reg) (a : Reg) (b : Reg) (w : Bool) (e0 : fld x 26 6 = 1) (e1 : fld x 0 7 = 15) (e2 :
    bits x 20 6 = d) (e3 : bits x 14 6 = a) (e4 : bits x 8 6 = b) (e5 : bit x 7 = w) :
    decodeWord x = .ok (.min d a b w) := by
  simp [decodeWord, decodeFields, decodeMajor01, e0, e1, e2, e3, e4, e5, Instr.wellFormed]
theorem rt_min (d : Reg) (a : Reg) (b : Reg) (w : Bool) : decodeWord (encode (.min d a b w)) = .ok (.min d a b w) := by
  have h0 := d.isLt
  have h1 := a.isLt
  have h2 := b.isLt
  have h3 := b2n_lt w
  have hn :
      encodeNat (.min d a b w) = 0x0400000F + d.toNat * 0x100000 + a.toNat * 0x4000 + b.toNat * 0x100 + b2n w * 0x80 := rfl
  unfold encode
  generalize encodeNat (.min d a b w) = n at hn ⊢
  refine read_min _ d a b w ?_ ?_ ?_ ?_ ?_ ?_
  · rw [fld_ofNat _ _ _ (by decide)]; omega
  · rw [fld_ofNat _ _ _ (by decide)]; omega
  · exact bits_eq _ _ _ (by decide) (by omega)
  · exact bits_eq _ _ _ (by decide) (by omega)
  · exact bits_eq _ _ _ (by decide) (by omega)
  · exact bit_eq _ _ _ (by decide) (by omega)

theorem read_max (x : Insn) (d : Reg) (a : Reg) (b : Reg) (w : Bool) (e0 : fld x 26 6 = 1) (e1 : fld x 0 7 = 16) (e2 :
    bits x 20 6 = d) (e3 : bits x 14 6 = a) (e4 : bits x 8 6 = b) (e5 : bit x 7 = w) :
    decodeWord x = .ok (.max d a b w) := by
  simp [decodeWord, decodeFields, decodeMajor01, e0, e1, e2, e3, e4, e5, Instr.wellFormed]
theorem rt_max (d : Reg) (a : Reg) (b : Reg) (w : Bool) : decodeWord (encode (.max d a b w)) = .ok (.max d a b w) := by
  have h0 := d.isLt
  have h1 := a.isLt
  have h2 := b.isLt
  have h3 := b2n_lt w
  have hn :
      encodeNat (.max d a b w) = 0x04000010 + d.toNat * 0x100000 + a.toNat * 0x4000 + b.toNat * 0x100 + b2n w * 0x80 := rfl
  unfold encode
  generalize encodeNat (.max d a b w) = n at hn ⊢
  refine read_max _ d a b w ?_ ?_ ?_ ?_ ?_ ?_
  · rw [fld_ofNat _ _ _ (by decide)]; omega
  · rw [fld_ofNat _ _ _ (by decide)]; omega
  · exact bits_eq _ _ _ (by decide) (by omega)
  · exact bits_eq _ _ _ (by decide) (by omega)
  · exact bits_eq _ _ _ (by decide) (by omega)
  · exact bit_eq _ _ _ (by decide) (by omega)

theorem read_minu (x : Insn) (d : Reg) (a : Reg) (b : Reg) (w : Bool) (e0 : fld x 26 6 = 1) (e1 : fld x 0 7 = 17) (e2 :
    bits x 20 6 = d) (e3 : bits x 14 6 = a) (e4 : bits x 8 6 = b) (e5 : bit x 7 = w) :
    decodeWord x = .ok (.minu d a b w) := by
  simp [decodeWord, decodeFields, decodeMajor01, e0, e1, e2, e3, e4, e5, Instr.wellFormed]
theorem rt_minu (d : Reg) (a : Reg) (b : Reg) (w : Bool) : decodeWord (encode (.minu d a b w)) = .ok (.minu d a b w) := by
  have h0 := d.isLt
  have h1 := a.isLt
  have h2 := b.isLt
  have h3 := b2n_lt w
  have hn :
      encodeNat (.minu d a b w) = 0x04000011 + d.toNat * 0x100000 + a.toNat * 0x4000 + b.toNat * 0x100 + b2n w * 0x80 := rfl
  unfold encode
  generalize encodeNat (.minu d a b w) = n at hn ⊢
  refine read_minu _ d a b w ?_ ?_ ?_ ?_ ?_ ?_
  · rw [fld_ofNat _ _ _ (by decide)]; omega
  · rw [fld_ofNat _ _ _ (by decide)]; omega
  · exact bits_eq _ _ _ (by decide) (by omega)
  · exact bits_eq _ _ _ (by decide) (by omega)
  · exact bits_eq _ _ _ (by decide) (by omega)
  · exact bit_eq _ _ _ (by decide) (by omega)

theorem read_maxu (x : Insn) (d : Reg) (a : Reg) (b : Reg) (w : Bool) (e0 : fld x 26 6 = 1) (e1 : fld x 0 7 = 18) (e2 :
    bits x 20 6 = d) (e3 : bits x 14 6 = a) (e4 : bits x 8 6 = b) (e5 : bit x 7 = w) :
    decodeWord x = .ok (.maxu d a b w) := by
  simp [decodeWord, decodeFields, decodeMajor01, e0, e1, e2, e3, e4, e5, Instr.wellFormed]
theorem rt_maxu (d : Reg) (a : Reg) (b : Reg) (w : Bool) : decodeWord (encode (.maxu d a b w)) = .ok (.maxu d a b w) := by
  have h0 := d.isLt
  have h1 := a.isLt
  have h2 := b.isLt
  have h3 := b2n_lt w
  have hn :
      encodeNat (.maxu d a b w) = 0x04000012 + d.toNat * 0x100000 + a.toNat * 0x4000 + b.toNat * 0x100 + b2n w * 0x80 := rfl
  unfold encode
  generalize encodeNat (.maxu d a b w) = n at hn ⊢
  refine read_maxu _ d a b w ?_ ?_ ?_ ?_ ?_ ?_
  · rw [fld_ofNat _ _ _ (by decide)]; omega
  · rw [fld_ofNat _ _ _ (by decide)]; omega
  · exact bits_eq _ _ _ (by decide) (by omega)
  · exact bits_eq _ _ _ (by decide) (by omega)
  · exact bits_eq _ _ _ (by decide) (by omega)
  · exact bit_eq _ _ _ (by decide) (by omega)

theorem read_clz (x : Insn) (d : Reg) (a : Reg) (w : Bool) (e0 : fld x 26 6 = 1) (e1 : fld x 0 7 = 19) (e2 : fld x 8 6 = 0)
    (e3 : bits x 20 6 = d) (e4 : bits x 14 6 = a) (e5 : bit x 7 = w) :
    decodeWord x = .ok (.clz d a w) := by
  simp [decodeWord, decodeFields, decodeMajor01, e0, e1, e2, e3, e4, e5, Instr.wellFormed]
theorem rt_clz (d : Reg) (a : Reg) (w : Bool) : decodeWord (encode (.clz d a w)) = .ok (.clz d a w) := by
  have h0 := d.isLt
  have h1 := a.isLt
  have h2 := b2n_lt w
  have hn : encodeNat (.clz d a w) = 0x04000013 + d.toNat * 0x100000 + a.toNat * 0x4000 + b2n w * 0x80 := rfl
  unfold encode
  generalize encodeNat (.clz d a w) = n at hn ⊢
  refine read_clz _ d a w ?_ ?_ ?_ ?_ ?_ ?_
  · rw [fld_ofNat _ _ _ (by decide)]; omega
  · rw [fld_ofNat _ _ _ (by decide)]; omega
  · rw [fld_ofNat _ _ _ (by decide)]; omega
  · exact bits_eq _ _ _ (by decide) (by omega)
  · exact bits_eq _ _ _ (by decide) (by omega)
  · exact bit_eq _ _ _ (by decide) (by omega)

theorem read_popc (x : Insn) (d : Reg) (a : Reg) (w : Bool) (e0 : fld x 26 6 = 1) (e1 : fld x 0 7 = 20) (e2 : fld x 8 6 = 0)
    (e3 : bits x 20 6 = d) (e4 : bits x 14 6 = a) (e5 : bit x 7 = w) :
    decodeWord x = .ok (.popc d a w) := by
  simp [decodeWord, decodeFields, decodeMajor01, e0, e1, e2, e3, e4, e5, Instr.wellFormed]
theorem rt_popc (d : Reg) (a : Reg) (w : Bool) : decodeWord (encode (.popc d a w)) = .ok (.popc d a w) := by
  have h0 := d.isLt
  have h1 := a.isLt
  have h2 := b2n_lt w
  have hn : encodeNat (.popc d a w) = 0x04000014 + d.toNat * 0x100000 + a.toNat * 0x4000 + b2n w * 0x80 := rfl
  unfold encode
  generalize encodeNat (.popc d a w) = n at hn ⊢
  refine read_popc _ d a w ?_ ?_ ?_ ?_ ?_ ?_
  · rw [fld_ofNat _ _ _ (by decide)]; omega
  · rw [fld_ofNat _ _ _ (by decide)]; omega
  · rw [fld_ofNat _ _ _ (by decide)]; omega
  · exact bits_eq _ _ _ (by decide) (by omega)
  · exact bits_eq _ _ _ (by decide) (by omega)
  · exact bit_eq _ _ _ (by decide) (by omega)

theorem read_sel (x : Insn) (d : Reg) (a : Reg) (b : Reg) (e0 : fld x 26 6 = 1) (e1 : fld x 0 7 = 21) (e2 : fld x 0 8 = 21)
    (e3 : bits x 20 6 = d) (e4 : bits x 14 6 = a) (e5 : bits x 8 6 = b) :
    decodeWord x = .ok (.sel d a b) := by
  simp [decodeWord, decodeFields, decodeMajor01, e0, e1, e2, e3, e4, e5, Instr.wellFormed]
theorem rt_sel (d : Reg) (a : Reg) (b : Reg) : decodeWord (encode (.sel d a b)) = .ok (.sel d a b) := by
  have h0 := d.isLt
  have h1 := a.isLt
  have h2 := b.isLt
  have hn : encodeNat (.sel d a b) = 0x04000015 + d.toNat * 0x100000 + a.toNat * 0x4000 + b.toNat * 0x100 := rfl
  unfold encode
  generalize encodeNat (.sel d a b) = n at hn ⊢
  refine read_sel _ d a b ?_ ?_ ?_ ?_ ?_ ?_
  · rw [fld_ofNat _ _ _ (by decide)]; omega
  · rw [fld_ofNat _ _ _ (by decide)]; omega
  · rw [fld_ofNat _ _ _ (by decide)]; omega
  · exact bits_eq _ _ _ (by decide) (by omega)
  · exact bits_eq _ _ _ (by decide) (by omega)
  · exact bits_eq _ _ _ (by decide) (by omega)

theorem read_sext (x : Insn) (d : Reg) (a : Reg) (c : ExtCode) (e0 : fld x 26 6 = 1) (e1 : fld x 0 7 = 22) (e2 :
    fld x 0 8 = 22) (e3 : bits x 20 6 = d) (e4 : bits x 14 6 = a) (e5 : fld x 8 6 = c.code) :
    decodeWord x = .ok (.sext d a c) := by
  simp [decodeWord, decodeFields, decodeMajor01, e0, e1, e2, e3, e4, e5, ExtCode.ofCode_code, Instr.wellFormed]
theorem rt_sext (d : Reg) (a : Reg) (c : ExtCode) : decodeWord (encode (.sext d a c)) = .ok (.sext d a c) := by
  have h0 := d.isLt
  have h1 := a.isLt
  have h2 := ExtCode.code_lt c
  have hn : encodeNat (.sext d a c) = 0x04000016 + d.toNat * 0x100000 + a.toNat * 0x4000 + c.code * 0x100 := rfl
  unfold encode
  generalize encodeNat (.sext d a c) = n at hn ⊢
  refine read_sext _ d a c ?_ ?_ ?_ ?_ ?_ ?_
  · rw [fld_ofNat _ _ _ (by decide)]; omega
  · rw [fld_ofNat _ _ _ (by decide)]; omega
  · rw [fld_ofNat _ _ _ (by decide)]; omega
  · exact bits_eq _ _ _ (by decide) (by omega)
  · exact bits_eq _ _ _ (by decide) (by omega)
  · rw [fld_ofNat _ _ _ (by decide)]; omega

theorem read_zext (x : Insn) (d : Reg) (a : Reg) (c : ExtCode) (e0 : fld x 26 6 = 1) (e1 : fld x 0 7 = 23) (e2 :
    fld x 0 8 = 23) (e3 : bits x 20 6 = d) (e4 : bits x 14 6 = a) (e5 : fld x 8 6 = c.code) :
    decodeWord x = .ok (.zext d a c) := by
  simp [decodeWord, decodeFields, decodeMajor01, e0, e1, e2, e3, e4, e5, ExtCode.ofCode_code, Instr.wellFormed]
theorem rt_zext (d : Reg) (a : Reg) (c : ExtCode) : decodeWord (encode (.zext d a c)) = .ok (.zext d a c) := by
  have h0 := d.isLt
  have h1 := a.isLt
  have h2 := ExtCode.code_lt c
  have hn : encodeNat (.zext d a c) = 0x04000017 + d.toNat * 0x100000 + a.toNat * 0x4000 + c.code * 0x100 := rfl
  unfold encode
  generalize encodeNat (.zext d a c) = n at hn ⊢
  refine read_zext _ d a c ?_ ?_ ?_ ?_ ?_ ?_
  · rw [fld_ofNat _ _ _ (by decide)]; omega
  · rw [fld_ofNat _ _ _ (by decide)]; omega
  · rw [fld_ofNat _ _ _ (by decide)]; omega
  · exact bits_eq _ _ _ (by decide) (by omega)
  · exact bits_eq _ _ _ (by decide) (by omega)
  · rw [fld_ofNat _ _ _ (by decide)]; omega

theorem read_cmp (x : Insn) (d : Reg) (a : Reg) (b : Reg) (w : Bool) (c : Cond) (e0 : fld x 26 6 = 1) (e1 : fld x 0 7 ≠ 0)
    (e2 : fld x 0 7 ≠ 1) (e3 : fld x 0 7 ≠ 2) (e4 : fld x 0 7 ≠ 3) (e5 : fld x 0 7 ≠ 4) (e6 : fld x 0 7 ≠ 5) (e7 :
    fld x 0 7 ≠ 6) (e8 : fld x 0 7 ≠ 7) (e9 : fld x 0 7 ≠ 8) (e10 : fld x 0 7 ≠ 9) (e11 : fld x 0 7 ≠ 10) (e12 :
    fld x 0 7 ≠ 11) (e13 : fld x 0 7 ≠ 12) (e14 : fld x 0 7 ≠ 13) (e15 : fld x 0 7 ≠ 14) (e16 : fld x 0 7 ≠ 15) (e17 :
    fld x 0 7 ≠ 16) (e18 : fld x 0 7 ≠ 17) (e19 : fld x 0 7 ≠ 18) (e20 : fld x 0 7 ≠ 19) (e21 : fld x 0 7 ≠ 20) (e22 :
    fld x 0 8 ≠ 21) (e23 : fld x 0 8 ≠ 22) (e24 : fld x 0 8 ≠ 23) (e25 : fld x 4 3 = 2) (e26 : bits x 20 6 = d) (e27 :
    bits x 14 6 = a) (e28 : bits x 8 6 = b) (e29 : bit x 7 = w) (e30 : fld x 0 4 = c.code) :
    decodeWord x = .ok (.cmp d a b w c) := by
  simp [decodeWord, decodeFields, decodeMajor01, e0, e1, e2, e3, e4, e5, e6, e7, e8, e9, e10, e11, e12, e13, e14, e15, e16, e17, e18, e19, e20, e21, e22, e23, e24, e25, e26, e27, e28, e29, e30, Cond.ofCode_code, Instr.wellFormed]
theorem rt_cmp (d : Reg) (a : Reg) (b : Reg) (w : Bool) (c : Cond) :
    decodeWord (encode (.cmp d a b w c)) = .ok (.cmp d a b w c) := by
  have h0 := d.isLt
  have h1 := a.isLt
  have h2 := b.isLt
  have h3 := b2n_lt w
  have h4 := Cond.code_lt c
  have hn :
      encodeNat (.cmp d a b w c) = 0x04000020 + d.toNat * 0x100000 + a.toNat * 0x4000 + b.toNat * 0x100 + b2n w * 0x80 + c.code := rfl
  unfold encode
  generalize encodeNat (.cmp d a b w c) = n at hn ⊢
  refine read_cmp _ d a b w c ?_ ?_ ?_ ?_ ?_ ?_ ?_ ?_ ?_ ?_ ?_ ?_ ?_ ?_ ?_ ?_ ?_ ?_ ?_ ?_ ?_ ?_ ?_ ?_ ?_ ?_ ?_ ?_ ?_ ?_ ?_
  · rw [fld_ofNat _ _ _ (by decide)]; omega
  · rw [fld_ofNat _ _ _ (by decide)]; omega
  · rw [fld_ofNat _ _ _ (by decide)]; omega
  · rw [fld_ofNat _ _ _ (by decide)]; omega
  · rw [fld_ofNat _ _ _ (by decide)]; omega
  · rw [fld_ofNat _ _ _ (by decide)]; omega
  · rw [fld_ofNat _ _ _ (by decide)]; omega
  · rw [fld_ofNat _ _ _ (by decide)]; omega
  · rw [fld_ofNat _ _ _ (by decide)]; omega
  · rw [fld_ofNat _ _ _ (by decide)]; omega
  · rw [fld_ofNat _ _ _ (by decide)]; omega
  · rw [fld_ofNat _ _ _ (by decide)]; omega
  · rw [fld_ofNat _ _ _ (by decide)]; omega
  · rw [fld_ofNat _ _ _ (by decide)]; omega
  · rw [fld_ofNat _ _ _ (by decide)]; omega
  · rw [fld_ofNat _ _ _ (by decide)]; omega
  · rw [fld_ofNat _ _ _ (by decide)]; omega
  · rw [fld_ofNat _ _ _ (by decide)]; omega
  · rw [fld_ofNat _ _ _ (by decide)]; omega
  · rw [fld_ofNat _ _ _ (by decide)]; omega
  · rw [fld_ofNat _ _ _ (by decide)]; omega
  · rw [fld_ofNat _ _ _ (by decide)]; omega
  · rw [fld_ofNat _ _ _ (by decide)]; omega
  · rw [fld_ofNat _ _ _ (by decide)]; omega
  · rw [fld_ofNat _ _ _ (by decide)]; omega
  · rw [fld_ofNat _ _ _ (by decide)]; omega
  · exact bits_eq _ _ _ (by decide) (by omega)
  · exact bits_eq _ _ _ (by decide) (by omega)
  · exact bits_eq _ _ _ (by decide) (by omega)
  · exact bit_eq _ _ _ (by decide) (by omega)
  · rw [fld_ofNat _ _ _ (by decide)]; omega

theorem read_addi (x : Insn) (d : Reg) (a : Reg) (i : BitVec 14) (e0 : fld x 26 6 = 2) (e1 : bits x 20 6 = d) (e2 :
    bits x 14 6 = a) (e3 : bits x 0 14 = i) :
    decodeWord x = .ok (.addi d a i) := by
  simp [decodeWord, decodeFields, decodeMajor02, e0, e1, e2, e3, Instr.wellFormed]
theorem rt_addi (d : Reg) (a : Reg) (i : BitVec 14) : decodeWord (encode (.addi d a i)) = .ok (.addi d a i) := by
  have h0 := d.isLt
  have h1 := a.isLt
  have h2 := i.isLt
  have hn : encodeNat (.addi d a i) = 0x08000000 + d.toNat * 0x100000 + a.toNat * 0x4000 + i.toNat := rfl
  unfold encode
  generalize encodeNat (.addi d a i) = n at hn ⊢
  refine read_addi _ d a i ?_ ?_ ?_ ?_
  · rw [fld_ofNat _ _ _ (by decide)]; omega
  · exact bits_eq _ _ _ (by decide) (by omega)
  · exact bits_eq _ _ _ (by decide) (by omega)
  · exact bits_eq _ _ _ (by decide) (by omega)

theorem read_andi (x : Insn) (d : Reg) (a : Reg) (i : BitVec 14) (e0 : fld x 26 6 = 3) (e1 : bits x 20 6 = d) (e2 :
    bits x 14 6 = a) (e3 : bits x 0 14 = i) :
    decodeWord x = .ok (.andi d a i) := by
  simp [decodeWord, decodeFields, decodeMajor03, e0, e1, e2, e3, Instr.wellFormed]
theorem rt_andi (d : Reg) (a : Reg) (i : BitVec 14) : decodeWord (encode (.andi d a i)) = .ok (.andi d a i) := by
  have h0 := d.isLt
  have h1 := a.isLt
  have h2 := i.isLt
  have hn : encodeNat (.andi d a i) = 0x0C000000 + d.toNat * 0x100000 + a.toNat * 0x4000 + i.toNat := rfl
  unfold encode
  generalize encodeNat (.andi d a i) = n at hn ⊢
  refine read_andi _ d a i ?_ ?_ ?_ ?_
  · rw [fld_ofNat _ _ _ (by decide)]; omega
  · exact bits_eq _ _ _ (by decide) (by omega)
  · exact bits_eq _ _ _ (by decide) (by omega)
  · exact bits_eq _ _ _ (by decide) (by omega)

theorem read_ori (x : Insn) (d : Reg) (a : Reg) (i : BitVec 14) (e0 : fld x 26 6 = 4) (e1 : bits x 20 6 = d) (e2 :
    bits x 14 6 = a) (e3 : bits x 0 14 = i) :
    decodeWord x = .ok (.ori d a i) := by
  simp [decodeWord, decodeFields, decodeMajor04, e0, e1, e2, e3, Instr.wellFormed]
theorem rt_ori (d : Reg) (a : Reg) (i : BitVec 14) : decodeWord (encode (.ori d a i)) = .ok (.ori d a i) := by
  have h0 := d.isLt
  have h1 := a.isLt
  have h2 := i.isLt
  have hn : encodeNat (.ori d a i) = 0x10000000 + d.toNat * 0x100000 + a.toNat * 0x4000 + i.toNat := rfl
  unfold encode
  generalize encodeNat (.ori d a i) = n at hn ⊢
  refine read_ori _ d a i ?_ ?_ ?_ ?_
  · rw [fld_ofNat _ _ _ (by decide)]; omega
  · exact bits_eq _ _ _ (by decide) (by omega)
  · exact bits_eq _ _ _ (by decide) (by omega)
  · exact bits_eq _ _ _ (by decide) (by omega)

theorem read_xori (x : Insn) (d : Reg) (a : Reg) (i : BitVec 14) (e0 : fld x 26 6 = 5) (e1 : bits x 20 6 = d) (e2 :
    bits x 14 6 = a) (e3 : bits x 0 14 = i) :
    decodeWord x = .ok (.xori d a i) := by
  simp [decodeWord, decodeFields, decodeMajor05, e0, e1, e2, e3, Instr.wellFormed]
theorem rt_xori (d : Reg) (a : Reg) (i : BitVec 14) : decodeWord (encode (.xori d a i)) = .ok (.xori d a i) := by
  have h0 := d.isLt
  have h1 := a.isLt
  have h2 := i.isLt
  have hn : encodeNat (.xori d a i) = 0x14000000 + d.toNat * 0x100000 + a.toNat * 0x4000 + i.toNat := rfl
  unfold encode
  generalize encodeNat (.xori d a i) = n at hn ⊢
  refine read_xori _ d a i ?_ ?_ ?_ ?_
  · rw [fld_ofNat _ _ _ (by decide)]; omega
  · exact bits_eq _ _ _ (by decide) (by omega)
  · exact bits_eq _ _ _ (by decide) (by omega)
  · exact bits_eq _ _ _ (by decide) (by omega)

theorem read_shli (x : Insn) (d : Reg) (a : Reg) (k : BitVec 6) (e0 : fld x 26 6 = 6) (e1 : fld x 6 8 = 0) (e2 :
    bits x 20 6 = d) (e3 : bits x 14 6 = a) (e4 : bits x 0 6 = k) :
    decodeWord x = .ok (.shli d a k) := by
  simp [decodeWord, decodeFields, decodeMajor06, e0, e1, e2, e3, e4, Instr.wellFormed]
theorem rt_shli (d : Reg) (a : Reg) (k : BitVec 6) : decodeWord (encode (.shli d a k)) = .ok (.shli d a k) := by
  have h0 := d.isLt
  have h1 := a.isLt
  have h2 := k.isLt
  have hn : encodeNat (.shli d a k) = 0x18000000 + d.toNat * 0x100000 + a.toNat * 0x4000 + k.toNat := rfl
  unfold encode
  generalize encodeNat (.shli d a k) = n at hn ⊢
  refine read_shli _ d a k ?_ ?_ ?_ ?_ ?_
  · rw [fld_ofNat _ _ _ (by decide)]; omega
  · rw [fld_ofNat _ _ _ (by decide)]; omega
  · exact bits_eq _ _ _ (by decide) (by omega)
  · exact bits_eq _ _ _ (by decide) (by omega)
  · exact bits_eq _ _ _ (by decide) (by omega)

theorem read_shri (x : Insn) (d : Reg) (a : Reg) (k : BitVec 6) (e0 : fld x 26 6 = 6) (e1 : fld x 6 8 = 64) (e2 :
    bits x 20 6 = d) (e3 : bits x 14 6 = a) (e4 : bits x 0 6 = k) :
    decodeWord x = .ok (.shri d a k) := by
  simp [decodeWord, decodeFields, decodeMajor06, e0, e1, e2, e3, e4, Instr.wellFormed]
theorem rt_shri (d : Reg) (a : Reg) (k : BitVec 6) : decodeWord (encode (.shri d a k)) = .ok (.shri d a k) := by
  have h0 := d.isLt
  have h1 := a.isLt
  have h2 := k.isLt
  have hn : encodeNat (.shri d a k) = 0x18001000 + d.toNat * 0x100000 + a.toNat * 0x4000 + k.toNat := rfl
  unfold encode
  generalize encodeNat (.shri d a k) = n at hn ⊢
  refine read_shri _ d a k ?_ ?_ ?_ ?_ ?_
  · rw [fld_ofNat _ _ _ (by decide)]; omega
  · rw [fld_ofNat _ _ _ (by decide)]; omega
  · exact bits_eq _ _ _ (by decide) (by omega)
  · exact bits_eq _ _ _ (by decide) (by omega)
  · exact bits_eq _ _ _ (by decide) (by omega)

theorem read_srai (x : Insn) (d : Reg) (a : Reg) (k : BitVec 6) (e0 : fld x 26 6 = 6) (e1 : fld x 6 8 = 128) (e2 :
    bits x 20 6 = d) (e3 : bits x 14 6 = a) (e4 : bits x 0 6 = k) :
    decodeWord x = .ok (.srai d a k) := by
  simp [decodeWord, decodeFields, decodeMajor06, e0, e1, e2, e3, e4, Instr.wellFormed]
theorem rt_srai (d : Reg) (a : Reg) (k : BitVec 6) : decodeWord (encode (.srai d a k)) = .ok (.srai d a k) := by
  have h0 := d.isLt
  have h1 := a.isLt
  have h2 := k.isLt
  have hn : encodeNat (.srai d a k) = 0x18002000 + d.toNat * 0x100000 + a.toNat * 0x4000 + k.toNat := rfl
  unfold encode
  generalize encodeNat (.srai d a k) = n at hn ⊢
  refine read_srai _ d a k ?_ ?_ ?_ ?_ ?_
  · rw [fld_ofNat _ _ _ (by decide)]; omega
  · rw [fld_ofNat _ _ _ (by decide)]; omega
  · exact bits_eq _ _ _ (by decide) (by omega)
  · exact bits_eq _ _ _ (by decide) (by omega)
  · exact bits_eq _ _ _ (by decide) (by omega)

theorem read_cmpi (x : Insn) (d : Reg) (a : Reg) (c : Cond) (i : BitVec 10) (e0 : fld x 26 6 = 7) (e1 : bits x 20 6 = d)
    (e2 : bits x 14 6 = a) (e3 : fld x 10 4 = c.code) (e4 : bits x 0 10 = i) :
    decodeWord x = .ok (.cmpi d a c i) := by
  simp [decodeWord, decodeFields, decodeMajor07, e0, e1, e2, e3, e4, Cond.ofCode_code, Instr.wellFormed]
theorem rt_cmpi (d : Reg) (a : Reg) (c : Cond) (i : BitVec 10) :
    decodeWord (encode (.cmpi d a c i)) = .ok (.cmpi d a c i) := by
  have h0 := d.isLt
  have h1 := a.isLt
  have h2 := Cond.code_lt c
  have h3 := i.isLt
  have hn : encodeNat (.cmpi d a c i) = 0x1C000000 + d.toNat * 0x100000 + a.toNat * 0x4000 + c.code * 0x400 + i.toNat := rfl
  unfold encode
  generalize encodeNat (.cmpi d a c i) = n at hn ⊢
  refine read_cmpi _ d a c i ?_ ?_ ?_ ?_ ?_
  · rw [fld_ofNat _ _ _ (by decide)]; omega
  · exact bits_eq _ _ _ (by decide) (by omega)
  · exact bits_eq _ _ _ (by decide) (by omega)
  · rw [fld_ofNat _ _ _ (by decide)]; omega
  · exact bits_eq _ _ _ (by decide) (by omega)

theorem read_movi (x : Insn) (d : Reg) (i : BitVec 20) (e0 : fld x 26 6 = 8) (e1 : bits x 20 6 = d) (e2 : bits x 0 20 = i) :
    decodeWord x = .ok (.movi d i) := by
  simp [decodeWord, decodeFields, decodeMajor08, e0, e1, e2, Instr.wellFormed]
theorem rt_movi (d : Reg) (i : BitVec 20) : decodeWord (encode (.movi d i)) = .ok (.movi d i) := by
  have h0 := d.isLt
  have h1 := i.isLt
  have hn : encodeNat (.movi d i) = 0x20000000 + d.toNat * 0x100000 + i.toNat := rfl
  unfold encode
  generalize encodeNat (.movi d i) = n at hn ⊢
  refine read_movi _ d i ?_ ?_ ?_
  · rw [fld_ofNat _ _ _ (by decide)]; omega
  · exact bits_eq _ _ _ (by decide) (by omega)
  · exact bits_eq _ _ _ (by decide) (by omega)

theorem read_bfxU (x : Insn) (d : Reg) (a : Reg) (p : BitVec 6) (l : BitVec 6) (h : Instr.wellFormed (.bfxU d a p l) = true)
    (e0 : fld x 26 6 = 9) (e1 : fld x 0 2 = 0) (e2 : bits x 20 6 = d) (e3 : bits x 14 6 = a) (e4 : bits x 8 6 = p) (e5 :
    bits x 2 6 = l) :
    decodeWord x = .ok (.bfxU d a p l) := by
  simp [decodeWord, decodeFields, decodeMajor09, e0, e1, e2, e3, e4, e5, h]
theorem rt_bfxU (d : Reg) (a : Reg) (p : BitVec 6) (l : BitVec 6) (h : Instr.wellFormed (.bfxU d a p l) = true) :
    decodeWord (encode (.bfxU d a p l)) = .ok (.bfxU d a p l) := by
  have h0 := d.isLt
  have h1 := a.isLt
  have h2 := p.isLt
  have h3 := l.isLt
  have hn :
      encodeNat (.bfxU d a p l) = 0x24000000 + d.toNat * 0x100000 + a.toNat * 0x4000 + p.toNat * 0x100 + l.toNat * 0x4 := rfl
  unfold encode
  generalize encodeNat (.bfxU d a p l) = n at hn ⊢
  refine read_bfxU _ d a p l h ?_ ?_ ?_ ?_ ?_ ?_
  · rw [fld_ofNat _ _ _ (by decide)]; omega
  · rw [fld_ofNat _ _ _ (by decide)]; omega
  · exact bits_eq _ _ _ (by decide) (by omega)
  · exact bits_eq _ _ _ (by decide) (by omega)
  · exact bits_eq _ _ _ (by decide) (by omega)
  · exact bits_eq _ _ _ (by decide) (by omega)

theorem read_bfxS (x : Insn) (d : Reg) (a : Reg) (p : BitVec 6) (l : BitVec 6) (h : Instr.wellFormed (.bfxS d a p l) = true)
    (e0 : fld x 26 6 = 9) (e1 : fld x 0 2 = 1) (e2 : bits x 20 6 = d) (e3 : bits x 14 6 = a) (e4 : bits x 8 6 = p) (e5 :
    bits x 2 6 = l) :
    decodeWord x = .ok (.bfxS d a p l) := by
  simp [decodeWord, decodeFields, decodeMajor09, e0, e1, e2, e3, e4, e5, h]
theorem rt_bfxS (d : Reg) (a : Reg) (p : BitVec 6) (l : BitVec 6) (h : Instr.wellFormed (.bfxS d a p l) = true) :
    decodeWord (encode (.bfxS d a p l)) = .ok (.bfxS d a p l) := by
  have h0 := d.isLt
  have h1 := a.isLt
  have h2 := p.isLt
  have h3 := l.isLt
  have hn :
      encodeNat (.bfxS d a p l) = 0x24000001 + d.toNat * 0x100000 + a.toNat * 0x4000 + p.toNat * 0x100 + l.toNat * 0x4 := rfl
  unfold encode
  generalize encodeNat (.bfxS d a p l) = n at hn ⊢
  refine read_bfxS _ d a p l h ?_ ?_ ?_ ?_ ?_ ?_
  · rw [fld_ofNat _ _ _ (by decide)]; omega
  · rw [fld_ofNat _ _ _ (by decide)]; omega
  · exact bits_eq _ _ _ (by decide) (by omega)
  · exact bits_eq _ _ _ (by decide) (by omega)
  · exact bits_eq _ _ _ (by decide) (by omega)
  · exact bits_eq _ _ _ (by decide) (by omega)

theorem read_bfi (x : Insn) (d : Reg) (a : Reg) (p : BitVec 6) (l : BitVec 6) (h : Instr.wellFormed (.bfi d a p l) = true)
    (e0 : fld x 26 6 = 9) (e1 : fld x 0 2 = 2) (e2 : bits x 20 6 = d) (e3 : bits x 14 6 = a) (e4 : bits x 8 6 = p) (e5 :
    bits x 2 6 = l) :
    decodeWord x = .ok (.bfi d a p l) := by
  simp [decodeWord, decodeFields, decodeMajor09, e0, e1, e2, e3, e4, e5, h]
theorem rt_bfi (d : Reg) (a : Reg) (p : BitVec 6) (l : BitVec 6) (h : Instr.wellFormed (.bfi d a p l) = true) :
    decodeWord (encode (.bfi d a p l)) = .ok (.bfi d a p l) := by
  have h0 := d.isLt
  have h1 := a.isLt
  have h2 := p.isLt
  have h3 := l.isLt
  have hn :
      encodeNat (.bfi d a p l) = 0x24000002 + d.toNat * 0x100000 + a.toNat * 0x4000 + p.toNat * 0x100 + l.toNat * 0x4 := rfl
  unfold encode
  generalize encodeNat (.bfi d a p l) = n at hn ⊢
  refine read_bfi _ d a p l h ?_ ?_ ?_ ?_ ?_ ?_
  · rw [fld_ofNat _ _ _ (by decide)]; omega
  · rw [fld_ofNat _ _ _ (by decide)]; omega
  · exact bits_eq _ _ _ (by decide) (by omega)
  · exact bits_eq _ _ _ (by decide) (by omega)
  · exact bits_eq _ _ _ (by decide) (by omega)
  · exact bits_eq _ _ _ (by decide) (by omega)

theorem read_cbnd (x : Insn) (d : Reg) (a : Reg) (b : Reg) (e0 : fld x 26 6 = 10) (e1 : fld x 0 8 = 0) (e2 : bits x 20 6 = d)
    (e3 : bits x 14 6 = a) (e4 : bits x 8 6 = b) :
    decodeWord x = .ok (.cbnd d a b) := by
  simp [decodeWord, decodeFields, decodeMajor0A, e0, e1, e2, e3, e4, Instr.wellFormed]
theorem rt_cbnd (d : Reg) (a : Reg) (b : Reg) : decodeWord (encode (.cbnd d a b)) = .ok (.cbnd d a b) := by
  have h0 := d.isLt
  have h1 := a.isLt
  have h2 := b.isLt
  have hn : encodeNat (.cbnd d a b) = 0x28000000 + d.toNat * 0x100000 + a.toNat * 0x4000 + b.toNat * 0x100 := rfl
  unfold encode
  generalize encodeNat (.cbnd d a b) = n at hn ⊢
  refine read_cbnd _ d a b ?_ ?_ ?_ ?_ ?_
  · rw [fld_ofNat _ _ _ (by decide)]; omega
  · rw [fld_ofNat _ _ _ (by decide)]; omega
  · exact bits_eq _ _ _ (by decide) (by omega)
  · exact bits_eq _ _ _ (by decide) (by omega)
  · exact bits_eq _ _ _ (by decide) (by omega)

theorem read_cperm (x : Insn) (d : Reg) (a : Reg) (b : Reg) (e0 : fld x 26 6 = 10) (e1 : fld x 0 8 = 1) (e2 :
    bits x 20 6 = d) (e3 : bits x 14 6 = a) (e4 : bits x 8 6 = b) :
    decodeWord x = .ok (.cperm d a b) := by
  simp [decodeWord, decodeFields, decodeMajor0A, e0, e1, e2, e3, e4, Instr.wellFormed]
theorem rt_cperm (d : Reg) (a : Reg) (b : Reg) : decodeWord (encode (.cperm d a b)) = .ok (.cperm d a b) := by
  have h0 := d.isLt
  have h1 := a.isLt
  have h2 := b.isLt
  have hn : encodeNat (.cperm d a b) = 0x28000001 + d.toNat * 0x100000 + a.toNat * 0x4000 + b.toNat * 0x100 := rfl
  unfold encode
  generalize encodeNat (.cperm d a b) = n at hn ⊢
  refine read_cperm _ d a b ?_ ?_ ?_ ?_ ?_
  · rw [fld_ofNat _ _ _ (by decide)]; omega
  · rw [fld_ofNat _ _ _ (by decide)]; omega
  · exact bits_eq _ _ _ (by decide) (by omega)
  · exact bits_eq _ _ _ (by decide) (by omega)
  · exact bits_eq _ _ _ (by decide) (by omega)

theorem read_cinc (x : Insn) (d : Reg) (a : Reg) (b : Reg) (e0 : fld x 26 6 = 10) (e1 : fld x 0 8 = 2) (e2 : bits x 20 6 = d)
    (e3 : bits x 14 6 = a) (e4 : bits x 8 6 = b) :
    decodeWord x = .ok (.cinc d a b) := by
  simp [decodeWord, decodeFields, decodeMajor0A, e0, e1, e2, e3, e4, Instr.wellFormed]
theorem rt_cinc (d : Reg) (a : Reg) (b : Reg) : decodeWord (encode (.cinc d a b)) = .ok (.cinc d a b) := by
  have h0 := d.isLt
  have h1 := a.isLt
  have h2 := b.isLt
  have hn : encodeNat (.cinc d a b) = 0x28000002 + d.toNat * 0x100000 + a.toNat * 0x4000 + b.toNat * 0x100 := rfl
  unfold encode
  generalize encodeNat (.cinc d a b) = n at hn ⊢
  refine read_cinc _ d a b ?_ ?_ ?_ ?_ ?_
  · rw [fld_ofNat _ _ _ (by decide)]; omega
  · rw [fld_ofNat _ _ _ (by decide)]; omega
  · exact bits_eq _ _ _ (by decide) (by omega)
  · exact bits_eq _ _ _ (by decide) (by omega)
  · exact bits_eq _ _ _ (by decide) (by omega)

theorem read_cget (x : Insn) (d : Reg) (a : Reg) (s : CapField) (e0 : fld x 26 6 = 10) (e1 : fld x 0 8 = 3) (e2 :
    bits x 20 6 = d) (e3 : bits x 14 6 = a) (e4 : fld x 8 6 = s.code) :
    decodeWord x = .ok (.cget d a s) := by
  simp [decodeWord, decodeFields, decodeMajor0A, e0, e1, e2, e3, e4, CapField.ofCode_code, Instr.wellFormed]
theorem rt_cget (d : Reg) (a : Reg) (s : CapField) : decodeWord (encode (.cget d a s)) = .ok (.cget d a s) := by
  have h0 := d.isLt
  have h1 := a.isLt
  have h2 := CapField.code_lt s
  have hn : encodeNat (.cget d a s) = 0x28000003 + d.toNat * 0x100000 + a.toNat * 0x4000 + s.code * 0x100 := rfl
  unfold encode
  generalize encodeNat (.cget d a s) = n at hn ⊢
  refine read_cget _ d a s ?_ ?_ ?_ ?_ ?_
  · rw [fld_ofNat _ _ _ (by decide)]; omega
  · rw [fld_ofNat _ _ _ (by decide)]; omega
  · exact bits_eq _ _ _ (by decide) (by omega)
  · exact bits_eq _ _ _ (by decide) (by omega)
  · rw [fld_ofNat _ _ _ (by decide)]; omega

theorem read_ctest (x : Insn) (d : Reg) (a : Reg) (b : Reg) (e0 : fld x 26 6 = 10) (e1 : fld x 0 8 = 4) (e2 :
    bits x 20 6 = d) (e3 : bits x 14 6 = a) (e4 : bits x 8 6 = b) :
    decodeWord x = .ok (.ctest d a b) := by
  simp [decodeWord, decodeFields, decodeMajor0A, e0, e1, e2, e3, e4, Instr.wellFormed]
theorem rt_ctest (d : Reg) (a : Reg) (b : Reg) : decodeWord (encode (.ctest d a b)) = .ok (.ctest d a b) := by
  have h0 := d.isLt
  have h1 := a.isLt
  have h2 := b.isLt
  have hn : encodeNat (.ctest d a b) = 0x28000004 + d.toNat * 0x100000 + a.toNat * 0x4000 + b.toNat * 0x100 := rfl
  unfold encode
  generalize encodeNat (.ctest d a b) = n at hn ⊢
  refine read_ctest _ d a b ?_ ?_ ?_ ?_ ?_
  · rw [fld_ofNat _ _ _ (by decide)]; omega
  · rw [fld_ofNat _ _ _ (by decide)]; omega
  · exact bits_eq _ _ _ (by decide) (by omega)
  · exact bits_eq _ _ _ (by decide) (by omega)
  · exact bits_eq _ _ _ (by decide) (by omega)

theorem read_cseta (x : Insn) (d : Reg) (a : Reg) (b : Reg) (e0 : fld x 26 6 = 10) (e1 : fld x 0 8 = 5) (e2 :
    bits x 20 6 = d) (e3 : bits x 14 6 = a) (e4 : bits x 8 6 = b) :
    decodeWord x = .ok (.cseta d a b) := by
  simp [decodeWord, decodeFields, decodeMajor0A, e0, e1, e2, e3, e4, Instr.wellFormed]
theorem rt_cseta (d : Reg) (a : Reg) (b : Reg) : decodeWord (encode (.cseta d a b)) = .ok (.cseta d a b) := by
  have h0 := d.isLt
  have h1 := a.isLt
  have h2 := b.isLt
  have hn : encodeNat (.cseta d a b) = 0x28000005 + d.toNat * 0x100000 + a.toNat * 0x4000 + b.toNat * 0x100 := rfl
  unfold encode
  generalize encodeNat (.cseta d a b) = n at hn ⊢
  refine read_cseta _ d a b ?_ ?_ ?_ ?_ ?_
  · rw [fld_ofNat _ _ _ (by decide)]; omega
  · rw [fld_ofNat _ _ _ (by decide)]; omega
  · exact bits_eq _ _ _ (by decide) (by omega)
  · exact bits_eq _ _ _ (by decide) (by omega)
  · exact bits_eq _ _ _ (by decide) (by omega)

theorem read_cinci (x : Insn) (d : Reg) (a : Reg) (i : BitVec 14) (e0 : fld x 26 6 = 11) (e1 : bits x 20 6 = d) (e2 :
    bits x 14 6 = a) (e3 : bits x 0 14 = i) :
    decodeWord x = .ok (.cinci d a i) := by
  simp [decodeWord, decodeFields, decodeMajor0B, e0, e1, e2, e3, Instr.wellFormed]
theorem rt_cinci (d : Reg) (a : Reg) (i : BitVec 14) : decodeWord (encode (.cinci d a i)) = .ok (.cinci d a i) := by
  have h0 := d.isLt
  have h1 := a.isLt
  have h2 := i.isLt
  have hn : encodeNat (.cinci d a i) = 0x2C000000 + d.toNat * 0x100000 + a.toNat * 0x4000 + i.toNat := rfl
  unfold encode
  generalize encodeNat (.cinci d a i) = n at hn ⊢
  refine read_cinci _ d a i ?_ ?_ ?_ ?_
  · rw [fld_ofNat _ _ _ (by decide)]; omega
  · exact bits_eq _ _ _ (by decide) (by omega)
  · exact bits_eq _ _ _ (by decide) (by omega)
  · exact bits_eq _ _ _ (by decide) (by omega)

theorem read_ld (x : Insn) (d : Reg) (a : Reg) (w : LdWidth) (o : BitVec 11) (e0 : fld x 26 6 = 12) (e1 : bits x 20 6 = d)
    (e2 : bits x 14 6 = a) (e3 : fld x 11 3 = w.code) (e4 : bits x 0 11 = o) :
    decodeWord x = .ok (.ld d a w o) := by
  simp [decodeWord, decodeFields, decodeMajor0C, e0, e1, e2, e3, e4, LdWidth.ofCode_code, Instr.wellFormed]
theorem rt_ld (d : Reg) (a : Reg) (w : LdWidth) (o : BitVec 11) : decodeWord (encode (.ld d a w o)) = .ok (.ld d a w o) := by
  have h0 := d.isLt
  have h1 := a.isLt
  have h2 := LdWidth.code_lt w
  have h3 := o.isLt
  have hn : encodeNat (.ld d a w o) = 0x30000000 + d.toNat * 0x100000 + a.toNat * 0x4000 + w.code * 0x800 + o.toNat := rfl
  unfold encode
  generalize encodeNat (.ld d a w o) = n at hn ⊢
  refine read_ld _ d a w o ?_ ?_ ?_ ?_ ?_
  · rw [fld_ofNat _ _ _ (by decide)]; omega
  · exact bits_eq _ _ _ (by decide) (by omega)
  · exact bits_eq _ _ _ (by decide) (by omega)
  · rw [fld_ofNat _ _ _ (by decide)]; omega
  · exact bits_eq _ _ _ (by decide) (by omega)

theorem read_st (x : Insn) (s : Reg) (a : Reg) (w : StWidth) (o : BitVec 11) (e0 : fld x 26 6 = 13) (e1 : bits x 20 6 = s)
    (e2 : bits x 14 6 = a) (e3 : fld x 11 3 = w.code) (e4 : bits x 0 11 = o) :
    decodeWord x = .ok (.st s a w o) := by
  simp [decodeWord, decodeFields, decodeMajor0D, e0, e1, e2, e3, e4, StWidth.ofCode_code, Instr.wellFormed]
theorem rt_st (s : Reg) (a : Reg) (w : StWidth) (o : BitVec 11) : decodeWord (encode (.st s a w o)) = .ok (.st s a w o) := by
  have h0 := s.isLt
  have h1 := a.isLt
  have h2 := StWidth.code_lt w
  have h3 := o.isLt
  have hn : encodeNat (.st s a w o) = 0x34000000 + s.toNat * 0x100000 + a.toNat * 0x4000 + w.code * 0x800 + o.toNat := rfl
  unfold encode
  generalize encodeNat (.st s a w o) = n at hn ⊢
  refine read_st _ s a w o ?_ ?_ ?_ ?_ ?_
  · rw [fld_ofNat _ _ _ (by decide)]; omega
  · exact bits_eq _ _ _ (by decide) (by omega)
  · exact bits_eq _ _ _ (by decide) (by omega)
  · rw [fld_ofNat _ _ _ (by decide)]; omega
  · exact bits_eq _ _ _ (by decide) (by omega)

theorem read_vld (x : Insn) (v : VReg) (a : Reg) (m : MReg) (o : BitVec 12) (e0 : fld x 26 6 = 14) (e1 : bits x 21 5 = v)
    (e2 : bits x 15 6 = a) (e3 : bits x 12 3 = m) (e4 : bits x 0 12 = o) :
    decodeWord x = .ok (.vld v a m o) := by
  simp [decodeWord, decodeFields, decodeMajor0E, e0, e1, e2, e3, e4, Instr.wellFormed]
theorem rt_vld (v : VReg) (a : Reg) (m : MReg) (o : BitVec 12) :
    decodeWord (encode (.vld v a m o)) = .ok (.vld v a m o) := by
  have h0 := v.isLt
  have h1 := a.isLt
  have h2 := m.isLt
  have h3 := o.isLt
  have hn : encodeNat (.vld v a m o) = 0x38000000 + v.toNat * 0x200000 + a.toNat * 0x8000 + m.toNat * 0x1000 + o.toNat := rfl
  unfold encode
  generalize encodeNat (.vld v a m o) = n at hn ⊢
  refine read_vld _ v a m o ?_ ?_ ?_ ?_ ?_
  · rw [fld_ofNat _ _ _ (by decide)]; omega
  · exact bits_eq _ _ _ (by decide) (by omega)
  · exact bits_eq _ _ _ (by decide) (by omega)
  · exact bits_eq _ _ _ (by decide) (by omega)
  · exact bits_eq _ _ _ (by decide) (by omega)

theorem read_vst (x : Insn) (v : VReg) (a : Reg) (m : MReg) (o : BitVec 12) (e0 : fld x 26 6 = 15) (e1 : bits x 21 5 = v)
    (e2 : bits x 15 6 = a) (e3 : bits x 12 3 = m) (e4 : bits x 0 12 = o) :
    decodeWord x = .ok (.vst v a m o) := by
  simp [decodeWord, decodeFields, decodeMajor0F, e0, e1, e2, e3, e4, Instr.wellFormed]
theorem rt_vst (v : VReg) (a : Reg) (m : MReg) (o : BitVec 12) :
    decodeWord (encode (.vst v a m o)) = .ok (.vst v a m o) := by
  have h0 := v.isLt
  have h1 := a.isLt
  have h2 := m.isLt
  have h3 := o.isLt
  have hn : encodeNat (.vst v a m o) = 0x3C000000 + v.toNat * 0x200000 + a.toNat * 0x8000 + m.toNat * 0x1000 + o.toNat := rfl
  unfold encode
  generalize encodeNat (.vst v a m o) = n at hn ⊢
  refine read_vst _ v a m o ?_ ?_ ?_ ?_ ?_
  · rw [fld_ofNat _ _ _ (by decide)]; omega
  · exact bits_eq _ _ _ (by decide) (by omega)
  · exact bits_eq _ _ _ (by decide) (by omega)
  · exact bits_eq _ _ _ (by decide) (by omega)
  · exact bits_eq _ _ _ (by decide) (by omega)

theorem read_vlds (x : Insn) (d : VReg) (a : Reg) (b : Reg) (w : ElemWidth) (m : MReg) (e0 : fld x 26 6 = 16) (e1 :
    fld x 25 1 = 0) (e2 : fld x 5 1 = 0) (e3 : fld x 0 2 = 0) (e4 : bits x 20 5 = d) (e5 : bits x 14 6 = a) (e6 :
    bits x 8 6 = b) (e7 : fld x 6 2 = w.code) (e8 : bits x 2 3 = m) :
    decodeWord x = .ok (.vlds d a b w m) := by
  simp [decodeWord, decodeFields, decodeMajor10, e0, e1, e2, e3, e4, e5, e6, e7, e8, ElemWidth.ofCode_code, Instr.wellFormed]
theorem rt_vlds (d : VReg) (a : Reg) (b : Reg) (w : ElemWidth) (m : MReg) :
    decodeWord (encode (.vlds d a b w m)) = .ok (.vlds d a b w m) := by
  have h0 := d.isLt
  have h1 := a.isLt
  have h2 := b.isLt
  have h3 := ElemWidth.code_lt w
  have h4 := m.isLt
  have hn :
      encodeNat (.vlds d a b w m) = 0x40000000 + d.toNat * 0x100000 + a.toNat * 0x4000 + b.toNat * 0x100 + w.code * 0x40 + m.toNat * 0x4 := rfl
  unfold encode
  generalize encodeNat (.vlds d a b w m) = n at hn ⊢
  refine read_vlds _ d a b w m ?_ ?_ ?_ ?_ ?_ ?_ ?_ ?_ ?_
  · rw [fld_ofNat _ _ _ (by decide)]; omega
  · rw [fld_ofNat _ _ _ (by decide)]; omega
  · rw [fld_ofNat _ _ _ (by decide)]; omega
  · rw [fld_ofNat _ _ _ (by decide)]; omega
  · exact bits_eq _ _ _ (by decide) (by omega)
  · exact bits_eq _ _ _ (by decide) (by omega)
  · exact bits_eq _ _ _ (by decide) (by omega)
  · rw [fld_ofNat _ _ _ (by decide)]; omega
  · exact bits_eq _ _ _ (by decide) (by omega)

theorem read_vsts (x : Insn) (d : VReg) (a : Reg) (b : Reg) (w : ElemWidth) (m : MReg) (e0 : fld x 26 6 = 16) (e1 :
    fld x 5 1 = 1) (e2 : fld x 25 1 = 0) (e3 : fld x 0 2 = 0) (e4 : bits x 20 5 = d) (e5 : bits x 14 6 = a) (e6 :
    bits x 8 6 = b) (e7 : fld x 6 2 = w.code) (e8 : bits x 2 3 = m) :
    decodeWord x = .ok (.vsts d a b w m) := by
  simp [decodeWord, decodeFields, decodeMajor10, e0, e1, e2, e3, e4, e5, e6, e7, e8, ElemWidth.ofCode_code, Instr.wellFormed]
theorem rt_vsts (d : VReg) (a : Reg) (b : Reg) (w : ElemWidth) (m : MReg) :
    decodeWord (encode (.vsts d a b w m)) = .ok (.vsts d a b w m) := by
  have h0 := d.isLt
  have h1 := a.isLt
  have h2 := b.isLt
  have h3 := ElemWidth.code_lt w
  have h4 := m.isLt
  have hn :
      encodeNat (.vsts d a b w m) = 0x40000020 + d.toNat * 0x100000 + a.toNat * 0x4000 + b.toNat * 0x100 + w.code * 0x40 + m.toNat * 0x4 := rfl
  unfold encode
  generalize encodeNat (.vsts d a b w m) = n at hn ⊢
  refine read_vsts _ d a b w m ?_ ?_ ?_ ?_ ?_ ?_ ?_ ?_ ?_
  · rw [fld_ofNat _ _ _ (by decide)]; omega
  · rw [fld_ofNat _ _ _ (by decide)]; omega
  · rw [fld_ofNat _ _ _ (by decide)]; omega
  · rw [fld_ofNat _ _ _ (by decide)]; omega
  · exact bits_eq _ _ _ (by decide) (by omega)
  · exact bits_eq _ _ _ (by decide) (by omega)
  · exact bits_eq _ _ _ (by decide) (by omega)
  · rw [fld_ofNat _ _ _ (by decide)]; omega
  · exact bits_eq _ _ _ (by decide) (by omega)

theorem read_vgath (x : Insn) (d : VReg) (a : Reg) (b : VReg) (w : WideElem) (m : MReg) (e0 : fld x 26 6 = 17) (e1 :
    fld x 25 1 = 0) (e2 : fld x 13 1 = 0) (e3 : fld x 5 1 = 0) (e4 : fld x 0 2 = 0) (e5 : bits x 20 5 = d) (e6 :
    bits x 14 6 = a) (e7 : bits x 8 5 = b) (e8 : fld x 6 2 = w.code) (e9 : bits x 2 3 = m) :
    decodeWord x = .ok (.vgath d a b w m) := by
  simp [decodeWord, decodeFields, decodeMajor11, e0, e1, e2, e3, e4, e5, e6, e7, e8, e9, WideElem.ofCode_code, Instr.wellFormed]
theorem rt_vgath (d : VReg) (a : Reg) (b : VReg) (w : WideElem) (m : MReg) :
    decodeWord (encode (.vgath d a b w m)) = .ok (.vgath d a b w m) := by
  have h0 := d.isLt
  have h1 := a.isLt
  have h2 := b.isLt
  have h3 := WideElem.code_lt w
  have h4 := m.isLt
  have hn :
      encodeNat (.vgath d a b w m) = 0x44000000 + d.toNat * 0x100000 + a.toNat * 0x4000 + b.toNat * 0x100 + w.code * 0x40 + m.toNat * 0x4 := rfl
  unfold encode
  generalize encodeNat (.vgath d a b w m) = n at hn ⊢
  refine read_vgath _ d a b w m ?_ ?_ ?_ ?_ ?_ ?_ ?_ ?_ ?_ ?_
  · rw [fld_ofNat _ _ _ (by decide)]; omega
  · rw [fld_ofNat _ _ _ (by decide)]; omega
  · rw [fld_ofNat _ _ _ (by decide)]; omega
  · rw [fld_ofNat _ _ _ (by decide)]; omega
  · rw [fld_ofNat _ _ _ (by decide)]; omega
  · exact bits_eq _ _ _ (by decide) (by omega)
  · exact bits_eq _ _ _ (by decide) (by omega)
  · exact bits_eq _ _ _ (by decide) (by omega)
  · rw [fld_ofNat _ _ _ (by decide)]; omega
  · exact bits_eq _ _ _ (by decide) (by omega)

theorem read_vscat (x : Insn) (d : VReg) (a : Reg) (b : VReg) (w : WideElem) (m : MReg) (e0 : fld x 26 6 = 17) (e1 :
    fld x 5 1 = 1) (e2 : fld x 25 1 = 0) (e3 : fld x 13 1 = 0) (e4 : fld x 0 2 = 0) (e5 : bits x 20 5 = d) (e6 :
    bits x 14 6 = a) (e7 : bits x 8 5 = b) (e8 : fld x 6 2 = w.code) (e9 : bits x 2 3 = m) :
    decodeWord x = .ok (.vscat d a b w m) := by
  simp [decodeWord, decodeFields, decodeMajor11, e0, e1, e2, e3, e4, e5, e6, e7, e8, e9, WideElem.ofCode_code, Instr.wellFormed]
theorem rt_vscat (d : VReg) (a : Reg) (b : VReg) (w : WideElem) (m : MReg) :
    decodeWord (encode (.vscat d a b w m)) = .ok (.vscat d a b w m) := by
  have h0 := d.isLt
  have h1 := a.isLt
  have h2 := b.isLt
  have h3 := WideElem.code_lt w
  have h4 := m.isLt
  have hn :
      encodeNat (.vscat d a b w m) = 0x44000020 + d.toNat * 0x100000 + a.toNat * 0x4000 + b.toNat * 0x100 + w.code * 0x40 + m.toNat * 0x4 := rfl
  unfold encode
  generalize encodeNat (.vscat d a b w m) = n at hn ⊢
  refine read_vscat _ d a b w m ?_ ?_ ?_ ?_ ?_ ?_ ?_ ?_ ?_ ?_
  · rw [fld_ofNat _ _ _ (by decide)]; omega
  · rw [fld_ofNat _ _ _ (by decide)]; omega
  · rw [fld_ofNat _ _ _ (by decide)]; omega
  · rw [fld_ofNat _ _ _ (by decide)]; omega
  · rw [fld_ofNat _ _ _ (by decide)]; omega
  · exact bits_eq _ _ _ (by decide) (by omega)
  · exact bits_eq _ _ _ (by decide) (by omega)
  · exact bits_eq _ _ _ (by decide) (by omega)
  · rw [fld_ofNat _ _ _ (by decide)]; omega
  · exact bits_eq _ _ _ (by decide) (by omega)

theorem read_amo (x : Insn) (d : Reg) (a : Reg) (b : Reg) (o : Order) (w : Bool) (p : AmoOp) (h :
    Instr.wellFormed (.amo d a b o w p) = true) (e0 : fld x 26 6 = 18) (e1 : bits x 20 6 = d) (e2 : bits x 14 6 = a) (e3 :
    bits x 8 6 = b) (e4 : fld x 5 3 = o.code) (e5 : bit x 4 = w) (e6 : fld x 0 4 = p.code) :
    decodeWord x = .ok (.amo d a b o w p) := by
  have hd : ¬d = 0#6 := by simpa [Instr.wellFormed] using h
  simp [decodeWord, decodeFields, decodeMajor12, e0, e1, e2, e3, e4, e5, e6, AmoOp.ofCode_code, Order.ofCode_code, hd]
theorem rt_amo (d : Reg) (a : Reg) (b : Reg) (o : Order) (w : Bool) (p : AmoOp) (h :
    Instr.wellFormed (.amo d a b o w p) = true) : decodeWord (encode (.amo d a b o w p)) = .ok (.amo d a b o w p) := by
  have h0 := d.isLt
  have h1 := a.isLt
  have h2 := b.isLt
  have h3 := Order.code_lt o
  have h4 := b2n_lt w
  have h5 := AmoOp.code_lt p
  have hn :
      encodeNat (.amo d a b o w p) = 0x48000000 + d.toNat * 0x100000 + a.toNat * 0x4000 + b.toNat * 0x100 + o.code * 0x20 + b2n w * 0x10 + p.code := rfl
  unfold encode
  generalize encodeNat (.amo d a b o w p) = n at hn ⊢
  refine read_amo _ d a b o w p h ?_ ?_ ?_ ?_ ?_ ?_ ?_
  · rw [fld_ofNat _ _ _ (by decide)]; omega
  · exact bits_eq _ _ _ (by decide) (by omega)
  · exact bits_eq _ _ _ (by decide) (by omega)
  · exact bits_eq _ _ _ (by decide) (by omega)
  · rw [fld_ofNat _ _ _ (by decide)]; omega
  · exact bit_eq _ _ _ (by decide) (by omega)
  · rw [fld_ofNat _ _ _ (by decide)]; omega

theorem read_amoNoReturn (x : Insn) (a : Reg) (b : Reg) (o : Order) (w : Bool) (p : AmoOp) (e0 : fld x 26 6 = 18) (e1 :
    bits x 20 6 = 0) (e2 : bits x 14 6 = a) (e3 : bits x 8 6 = b) (e4 : fld x 5 3 = o.code) (e5 : bit x 4 = w) (e6 :
    fld x 0 4 = p.code) :
    decodeWord x = .ok (.amoNoReturn a b o w p) := by
  simp [decodeWord, decodeFields, decodeMajor12, e0, e1, e2, e3, e4, e5, e6, AmoOp.ofCode_code, Order.ofCode_code]
theorem rt_amoNoReturn (a : Reg) (b : Reg) (o : Order) (w : Bool) (p : AmoOp) :
    decodeWord (encode (.amoNoReturn a b o w p)) = .ok (.amoNoReturn a b o w p) := by
  have h0 := a.isLt
  have h1 := b.isLt
  have h2 := Order.code_lt o
  have h3 := b2n_lt w
  have h4 := AmoOp.code_lt p
  have hn :
      encodeNat (.amoNoReturn a b o w p) = 0x48000000 + a.toNat * 0x4000 + b.toNat * 0x100 + o.code * 0x20 + b2n w * 0x10 + p.code := rfl
  unfold encode
  generalize encodeNat (.amoNoReturn a b o w p) = n at hn ⊢
  refine read_amoNoReturn _ a b o w p ?_ ?_ ?_ ?_ ?_ ?_ ?_
  · rw [fld_ofNat _ _ _ (by decide)]; omega
  · exact bits_eq _ _ 0 (by decide) (by show _ = 0; omega)
  · exact bits_eq _ _ _ (by decide) (by omega)
  · exact bits_eq _ _ _ (by decide) (by omega)
  · rw [fld_ofNat _ _ _ (by decide)]; omega
  · exact bit_eq _ _ _ (by decide) (by omega)
  · rw [fld_ofNat _ _ _ (by decide)]; omega

theorem read_cas (x : Insn) (d : Reg) (a : Reg) (b : Reg) (o : Order) (w : Bool) (e0 : fld x 26 6 = 19) (e1 : fld x 0 4 = 0)
    (e2 : bits x 20 6 = d) (e3 : bits x 14 6 = a) (e4 : bits x 8 6 = b) (e5 : fld x 5 3 = o.code) (e6 : bit x 4 = w) :
    decodeWord x = .ok (.cas d a b o w) := by
  simp [decodeWord, decodeFields, decodeMajor13, e0, e1, e2, e3, e4, e5, e6, Order.ofCode_code, Instr.wellFormed]
theorem rt_cas (d : Reg) (a : Reg) (b : Reg) (o : Order) (w : Bool) :
    decodeWord (encode (.cas d a b o w)) = .ok (.cas d a b o w) := by
  have h0 := d.isLt
  have h1 := a.isLt
  have h2 := b.isLt
  have h3 := Order.code_lt o
  have h4 := b2n_lt w
  have hn :
      encodeNat (.cas d a b o w) = 0x4C000000 + d.toNat * 0x100000 + a.toNat * 0x4000 + b.toNat * 0x100 + o.code * 0x20 + b2n w * 0x10 := rfl
  unfold encode
  generalize encodeNat (.cas d a b o w) = n at hn ⊢
  refine read_cas _ d a b o w ?_ ?_ ?_ ?_ ?_ ?_ ?_
  · rw [fld_ofNat _ _ _ (by decide)]; omega
  · rw [fld_ofNat _ _ _ (by decide)]; omega
  · exact bits_eq _ _ _ (by decide) (by omega)
  · exact bits_eq _ _ _ (by decide) (by omega)
  · exact bits_eq _ _ _ (by decide) (by omega)
  · rw [fld_ofNat _ _ _ (by decide)]; omega
  · exact bit_eq _ _ _ (by decide) (by omega)

theorem read_fence (x : Insn) (s : BitVec 5) (c : Bool) (o : Order) (e0 : fld x 26 6 = 20) (e1 : fld x 13 13 = 0) (e2 :
    fld x 4 4 = 0) (e3 : bits x 8 5 = s) (e4 : bit x 3 = c) (e5 : fld x 0 3 = o.code) :
    decodeWord x = .ok (.fence s c o) := by
  simp [decodeWord, decodeFields, decodeMajor14, e0, e1, e2, e3, e4, e5, Order.ofCode_code, Instr.wellFormed]
theorem rt_fence (s : BitVec 5) (c : Bool) (o : Order) : decodeWord (encode (.fence s c o)) = .ok (.fence s c o) := by
  have h0 := s.isLt
  have h1 := b2n_lt c
  have h2 := Order.code_lt o
  have hn : encodeNat (.fence s c o) = 0x50000000 + s.toNat * 0x100 + b2n c * 0x8 + o.code := rfl
  unfold encode
  generalize encodeNat (.fence s c o) = n at hn ⊢
  refine read_fence _ s c o ?_ ?_ ?_ ?_ ?_ ?_
  · rw [fld_ofNat _ _ _ (by decide)]; omega
  · rw [fld_ofNat _ _ _ (by decide)]; omega
  · rw [fld_ofNat _ _ _ (by decide)]; omega
  · exact bits_eq _ _ _ (by decide) (by omega)
  · exact bit_eq _ _ _ (by decide) (by omega)
  · rw [fld_ofNat _ _ _ (by decide)]; omega

theorem read_pref (x : Insn) (a : Reg) (b : Reg) (e0 : fld x 26 6 = 21) (e1 : fld x 20 6 = 0) (e2 : fld x 0 8 = 0) (e3 :
    bits x 14 6 = a) (e4 : bits x 8 6 = b) :
    decodeWord x = .ok (.pref a b) := by
  simp [decodeWord, decodeFields, decodeMajor15, e0, e1, e2, e3, e4, Instr.wellFormed]
theorem rt_pref (a : Reg) (b : Reg) : decodeWord (encode (.pref a b)) = .ok (.pref a b) := by
  have h0 := a.isLt
  have h1 := b.isLt
  have hn : encodeNat (.pref a b) = 0x54000000 + a.toNat * 0x4000 + b.toNat * 0x100 := rfl
  unfold encode
  generalize encodeNat (.pref a b) = n at hn ⊢
  refine read_pref _ a b ?_ ?_ ?_ ?_ ?_
  · rw [fld_ofNat _ _ _ (by decide)]; omega
  · rw [fld_ofNat _ _ _ (by decide)]; omega
  · rw [fld_ofNat _ _ _ (by decide)]; omega
  · exact bits_eq _ _ _ (by decide) (by omega)
  · exact bits_eq _ _ _ (by decide) (by omega)

theorem read_wbr (x : Insn) (a : Reg) (b : Reg) (e0 : fld x 26 6 = 21) (e1 : fld x 0 8 = 1) (e2 : fld x 20 6 = 0) (e3 :
    bits x 14 6 = a) (e4 : bits x 8 6 = b) :
    decodeWord x = .ok (.wbr a b) := by
  simp [decodeWord, decodeFields, decodeMajor15, e0, e1, e2, e3, e4, Instr.wellFormed]
theorem rt_wbr (a : Reg) (b : Reg) : decodeWord (encode (.wbr a b)) = .ok (.wbr a b) := by
  have h0 := a.isLt
  have h1 := b.isLt
  have hn : encodeNat (.wbr a b) = 0x54000001 + a.toNat * 0x4000 + b.toNat * 0x100 := rfl
  unfold encode
  generalize encodeNat (.wbr a b) = n at hn ⊢
  refine read_wbr _ a b ?_ ?_ ?_ ?_ ?_
  · rw [fld_ofNat _ _ _ (by decide)]; omega
  · rw [fld_ofNat _ _ _ (by decide)]; omega
  · rw [fld_ofNat _ _ _ (by decide)]; omega
  · exact bits_eq _ _ _ (by decide) (by omega)
  · exact bits_eq _ _ _ (by decide) (by omega)

theorem read_invr (x : Insn) (a : Reg) (b : Reg) (e0 : fld x 26 6 = 21) (e1 : fld x 0 8 = 2) (e2 : fld x 20 6 = 0) (e3 :
    bits x 14 6 = a) (e4 : bits x 8 6 = b) :
    decodeWord x = .ok (.invr a b) := by
  simp [decodeWord, decodeFields, decodeMajor15, e0, e1, e2, e3, e4, Instr.wellFormed]
theorem rt_invr (a : Reg) (b : Reg) : decodeWord (encode (.invr a b)) = .ok (.invr a b) := by
  have h0 := a.isLt
  have h1 := b.isLt
  have hn : encodeNat (.invr a b) = 0x54000002 + a.toNat * 0x4000 + b.toNat * 0x100 := rfl
  unfold encode
  generalize encodeNat (.invr a b) = n at hn ⊢
  refine read_invr _ a b ?_ ?_ ?_ ?_ ?_
  · rw [fld_ofNat _ _ _ (by decide)]; omega
  · rw [fld_ofNat _ _ _ (by decide)]; omega
  · rw [fld_ofNat _ _ _ (by decide)]; omega
  · exact bits_eq _ _ _ (by decide) (by omega)
  · exact bits_eq _ _ _ (by decide) (by omega)

theorem read_wbri (x : Insn) (a : Reg) (b : Reg) (e0 : fld x 26 6 = 21) (e1 : fld x 0 8 = 3) (e2 : fld x 20 6 = 0) (e3 :
    bits x 14 6 = a) (e4 : bits x 8 6 = b) :
    decodeWord x = .ok (.wbri a b) := by
  simp [decodeWord, decodeFields, decodeMajor15, e0, e1, e2, e3, e4, Instr.wellFormed]
theorem rt_wbri (a : Reg) (b : Reg) : decodeWord (encode (.wbri a b)) = .ok (.wbri a b) := by
  have h0 := a.isLt
  have h1 := b.isLt
  have hn : encodeNat (.wbri a b) = 0x54000003 + a.toNat * 0x4000 + b.toNat * 0x100 := rfl
  unfold encode
  generalize encodeNat (.wbri a b) = n at hn ⊢
  refine read_wbri _ a b ?_ ?_ ?_ ?_ ?_
  · rw [fld_ofNat _ _ _ (by decide)]; omega
  · rw [fld_ofNat _ _ _ (by decide)]; omega
  · rw [fld_ofNat _ _ _ (by decide)]; omega
  · exact bits_eq _ _ _ (by decide) (by omega)
  · exact bits_eq _ _ _ (by decide) (by omega)

theorem read_ljoin (x : Insn) (a : Reg) (b : Reg) (r : Bool) (e0 : fld x 26 6 = 22) (e1 : fld x 20 6 = 0) (e2 :
    fld x 0 7 = 0) (e3 : bits x 14 6 = a) (e4 : bits x 8 6 = b) (e5 : bit x 7 = r) :
    decodeWord x = .ok (.ljoin a b r) := by
  simp [decodeWord, decodeFields, decodeMajor16, e0, e1, e2, e3, e4, e5, Instr.wellFormed]
theorem rt_ljoin (a : Reg) (b : Reg) (r : Bool) : decodeWord (encode (.ljoin a b r)) = .ok (.ljoin a b r) := by
  have h0 := a.isLt
  have h1 := b.isLt
  have h2 := b2n_lt r
  have hn : encodeNat (.ljoin a b r) = 0x58000000 + a.toNat * 0x4000 + b.toNat * 0x100 + b2n r * 0x80 := rfl
  unfold encode
  generalize encodeNat (.ljoin a b r) = n at hn ⊢
  refine read_ljoin _ a b r ?_ ?_ ?_ ?_ ?_ ?_
  · rw [fld_ofNat _ _ _ (by decide)]; omega
  · rw [fld_ofNat _ _ _ (by decide)]; omega
  · rw [fld_ofNat _ _ _ (by decide)]; omega
  · exact bits_eq _ _ _ (by decide) (by omega)
  · exact bits_eq _ _ _ (by decide) (by omega)
  · exact bit_eq _ _ _ (by decide) (by omega)

theorem read_lwait (x : Insn) (d : Reg) (a : Reg) (b : Reg) (q : Bool) (e0 : fld x 26 6 = 22) (e1 : fld x 0 7 = 1) (e2 :
    bits x 20 6 = d) (e3 : bits x 14 6 = a) (e4 : bits x 8 6 = b) (e5 : bit x 7 = q) :
    decodeWord x = .ok (.lwait d a b q) := by
  simp [decodeWord, decodeFields, decodeMajor16, e0, e1, e2, e3, e4, e5, Instr.wellFormed]
theorem rt_lwait (d : Reg) (a : Reg) (b : Reg) (q : Bool) : decodeWord (encode (.lwait d a b q)) = .ok (.lwait d a b q) := by
  have h0 := d.isLt
  have h1 := a.isLt
  have h2 := b.isLt
  have h3 := b2n_lt q
  have hn :
      encodeNat (.lwait d a b q) = 0x58000001 + d.toNat * 0x100000 + a.toNat * 0x4000 + b.toNat * 0x100 + b2n q * 0x80 := rfl
  unfold encode
  generalize encodeNat (.lwait d a b q) = n at hn ⊢
  refine read_lwait _ d a b q ?_ ?_ ?_ ?_ ?_ ?_
  · rw [fld_ofNat _ _ _ (by decide)]; omega
  · rw [fld_ofNat _ _ _ (by decide)]; omega
  · exact bits_eq _ _ _ (by decide) (by omega)
  · exact bits_eq _ _ _ (by decide) (by omega)
  · exact bits_eq _ _ _ (by decide) (by omega)
  · exact bit_eq _ _ _ (by decide) (by omega)

theorem read_fadd (x : Insn) (d : Reg) (a : Reg) (b : Reg) (f : FpFmt) (e0 : fld x 26 6 = 23) (e1 : fld x 0 6 = 0) (e2 :
    bits x 20 6 = d) (e3 : bits x 14 6 = a) (e4 : bits x 8 6 = b) (e5 : fld x 6 2 = f.code) :
    decodeWord x = .ok (.fadd d a b f) := by
  simp [decodeWord, decodeFields, decodeMajor17, e0, e1, e2, e3, e4, e5, FpFmt.ofCode_code, Instr.wellFormed]
theorem rt_fadd (d : Reg) (a : Reg) (b : Reg) (f : FpFmt) : decodeWord (encode (.fadd d a b f)) = .ok (.fadd d a b f) := by
  have h0 := d.isLt
  have h1 := a.isLt
  have h2 := b.isLt
  have h3 := FpFmt.code_lt f
  have hn :
      encodeNat (.fadd d a b f) = 0x5C000000 + d.toNat * 0x100000 + a.toNat * 0x4000 + b.toNat * 0x100 + f.code * 0x40 := rfl
  unfold encode
  generalize encodeNat (.fadd d a b f) = n at hn ⊢
  refine read_fadd _ d a b f ?_ ?_ ?_ ?_ ?_ ?_
  · rw [fld_ofNat _ _ _ (by decide)]; omega
  · rw [fld_ofNat _ _ _ (by decide)]; omega
  · exact bits_eq _ _ _ (by decide) (by omega)
  · exact bits_eq _ _ _ (by decide) (by omega)
  · exact bits_eq _ _ _ (by decide) (by omega)
  · rw [fld_ofNat _ _ _ (by decide)]; omega

theorem read_fsub (x : Insn) (d : Reg) (a : Reg) (b : Reg) (f : FpFmt) (e0 : fld x 26 6 = 23) (e1 : fld x 0 6 = 1) (e2 :
    bits x 20 6 = d) (e3 : bits x 14 6 = a) (e4 : bits x 8 6 = b) (e5 : fld x 6 2 = f.code) :
    decodeWord x = .ok (.fsub d a b f) := by
  simp [decodeWord, decodeFields, decodeMajor17, e0, e1, e2, e3, e4, e5, FpFmt.ofCode_code, Instr.wellFormed]
theorem rt_fsub (d : Reg) (a : Reg) (b : Reg) (f : FpFmt) : decodeWord (encode (.fsub d a b f)) = .ok (.fsub d a b f) := by
  have h0 := d.isLt
  have h1 := a.isLt
  have h2 := b.isLt
  have h3 := FpFmt.code_lt f
  have hn :
      encodeNat (.fsub d a b f) = 0x5C000001 + d.toNat * 0x100000 + a.toNat * 0x4000 + b.toNat * 0x100 + f.code * 0x40 := rfl
  unfold encode
  generalize encodeNat (.fsub d a b f) = n at hn ⊢
  refine read_fsub _ d a b f ?_ ?_ ?_ ?_ ?_ ?_
  · rw [fld_ofNat _ _ _ (by decide)]; omega
  · rw [fld_ofNat _ _ _ (by decide)]; omega
  · exact bits_eq _ _ _ (by decide) (by omega)
  · exact bits_eq _ _ _ (by decide) (by omega)
  · exact bits_eq _ _ _ (by decide) (by omega)
  · rw [fld_ofNat _ _ _ (by decide)]; omega

theorem read_fmul (x : Insn) (d : Reg) (a : Reg) (b : Reg) (f : FpFmt) (e0 : fld x 26 6 = 23) (e1 : fld x 0 6 = 2) (e2 :
    bits x 20 6 = d) (e3 : bits x 14 6 = a) (e4 : bits x 8 6 = b) (e5 : fld x 6 2 = f.code) :
    decodeWord x = .ok (.fmul d a b f) := by
  simp [decodeWord, decodeFields, decodeMajor17, e0, e1, e2, e3, e4, e5, FpFmt.ofCode_code, Instr.wellFormed]
theorem rt_fmul (d : Reg) (a : Reg) (b : Reg) (f : FpFmt) : decodeWord (encode (.fmul d a b f)) = .ok (.fmul d a b f) := by
  have h0 := d.isLt
  have h1 := a.isLt
  have h2 := b.isLt
  have h3 := FpFmt.code_lt f
  have hn :
      encodeNat (.fmul d a b f) = 0x5C000002 + d.toNat * 0x100000 + a.toNat * 0x4000 + b.toNat * 0x100 + f.code * 0x40 := rfl
  unfold encode
  generalize encodeNat (.fmul d a b f) = n at hn ⊢
  refine read_fmul _ d a b f ?_ ?_ ?_ ?_ ?_ ?_
  · rw [fld_ofNat _ _ _ (by decide)]; omega
  · rw [fld_ofNat _ _ _ (by decide)]; omega
  · exact bits_eq _ _ _ (by decide) (by omega)
  · exact bits_eq _ _ _ (by decide) (by omega)
  · exact bits_eq _ _ _ (by decide) (by omega)
  · rw [fld_ofNat _ _ _ (by decide)]; omega

theorem read_fdiv (x : Insn) (d : Reg) (a : Reg) (b : Reg) (f : FpFmt) (e0 : fld x 26 6 = 23) (e1 : fld x 0 6 = 3) (e2 :
    bits x 20 6 = d) (e3 : bits x 14 6 = a) (e4 : bits x 8 6 = b) (e5 : fld x 6 2 = f.code) :
    decodeWord x = .ok (.fdiv d a b f) := by
  simp [decodeWord, decodeFields, decodeMajor17, e0, e1, e2, e3, e4, e5, FpFmt.ofCode_code, Instr.wellFormed]
theorem rt_fdiv (d : Reg) (a : Reg) (b : Reg) (f : FpFmt) : decodeWord (encode (.fdiv d a b f)) = .ok (.fdiv d a b f) := by
  have h0 := d.isLt
  have h1 := a.isLt
  have h2 := b.isLt
  have h3 := FpFmt.code_lt f
  have hn :
      encodeNat (.fdiv d a b f) = 0x5C000003 + d.toNat * 0x100000 + a.toNat * 0x4000 + b.toNat * 0x100 + f.code * 0x40 := rfl
  unfold encode
  generalize encodeNat (.fdiv d a b f) = n at hn ⊢
  refine read_fdiv _ d a b f ?_ ?_ ?_ ?_ ?_ ?_
  · rw [fld_ofNat _ _ _ (by decide)]; omega
  · rw [fld_ofNat _ _ _ (by decide)]; omega
  · exact bits_eq _ _ _ (by decide) (by omega)
  · exact bits_eq _ _ _ (by decide) (by omega)
  · exact bits_eq _ _ _ (by decide) (by omega)
  · rw [fld_ofNat _ _ _ (by decide)]; omega

theorem read_fsqrt (x : Insn) (d : Reg) (a : Reg) (f : FpFmt) (e0 : fld x 26 6 = 23) (e1 : fld x 0 6 = 4) (e2 :
    fld x 8 6 = 0) (e3 : bits x 20 6 = d) (e4 : bits x 14 6 = a) (e5 : fld x 6 2 = f.code) :
    decodeWord x = .ok (.fsqrt d a f) := by
  simp [decodeWord, decodeFields, decodeMajor17, e0, e1, e2, e3, e4, e5, FpFmt.ofCode_code, Instr.wellFormed]
theorem rt_fsqrt (d : Reg) (a : Reg) (f : FpFmt) : decodeWord (encode (.fsqrt d a f)) = .ok (.fsqrt d a f) := by
  have h0 := d.isLt
  have h1 := a.isLt
  have h2 := FpFmt.code_lt f
  have hn : encodeNat (.fsqrt d a f) = 0x5C000004 + d.toNat * 0x100000 + a.toNat * 0x4000 + f.code * 0x40 := rfl
  unfold encode
  generalize encodeNat (.fsqrt d a f) = n at hn ⊢
  refine read_fsqrt _ d a f ?_ ?_ ?_ ?_ ?_ ?_
  · rw [fld_ofNat _ _ _ (by decide)]; omega
  · rw [fld_ofNat _ _ _ (by decide)]; omega
  · rw [fld_ofNat _ _ _ (by decide)]; omega
  · exact bits_eq _ _ _ (by decide) (by omega)
  · exact bits_eq _ _ _ (by decide) (by omega)
  · rw [fld_ofNat _ _ _ (by decide)]; omega

theorem read_fmin (x : Insn) (d : Reg) (a : Reg) (b : Reg) (f : FpFmt) (e0 : fld x 26 6 = 23) (e1 : fld x 0 6 = 5) (e2 :
    bits x 20 6 = d) (e3 : bits x 14 6 = a) (e4 : bits x 8 6 = b) (e5 : fld x 6 2 = f.code) :
    decodeWord x = .ok (.fmin d a b f) := by
  simp [decodeWord, decodeFields, decodeMajor17, e0, e1, e2, e3, e4, e5, FpFmt.ofCode_code, Instr.wellFormed]
theorem rt_fmin (d : Reg) (a : Reg) (b : Reg) (f : FpFmt) : decodeWord (encode (.fmin d a b f)) = .ok (.fmin d a b f) := by
  have h0 := d.isLt
  have h1 := a.isLt
  have h2 := b.isLt
  have h3 := FpFmt.code_lt f
  have hn :
      encodeNat (.fmin d a b f) = 0x5C000005 + d.toNat * 0x100000 + a.toNat * 0x4000 + b.toNat * 0x100 + f.code * 0x40 := rfl
  unfold encode
  generalize encodeNat (.fmin d a b f) = n at hn ⊢
  refine read_fmin _ d a b f ?_ ?_ ?_ ?_ ?_ ?_
  · rw [fld_ofNat _ _ _ (by decide)]; omega
  · rw [fld_ofNat _ _ _ (by decide)]; omega
  · exact bits_eq _ _ _ (by decide) (by omega)
  · exact bits_eq _ _ _ (by decide) (by omega)
  · exact bits_eq _ _ _ (by decide) (by omega)
  · rw [fld_ofNat _ _ _ (by decide)]; omega

theorem read_fmax (x : Insn) (d : Reg) (a : Reg) (b : Reg) (f : FpFmt) (e0 : fld x 26 6 = 23) (e1 : fld x 0 6 = 6) (e2 :
    bits x 20 6 = d) (e3 : bits x 14 6 = a) (e4 : bits x 8 6 = b) (e5 : fld x 6 2 = f.code) :
    decodeWord x = .ok (.fmax d a b f) := by
  simp [decodeWord, decodeFields, decodeMajor17, e0, e1, e2, e3, e4, e5, FpFmt.ofCode_code, Instr.wellFormed]
theorem rt_fmax (d : Reg) (a : Reg) (b : Reg) (f : FpFmt) : decodeWord (encode (.fmax d a b f)) = .ok (.fmax d a b f) := by
  have h0 := d.isLt
  have h1 := a.isLt
  have h2 := b.isLt
  have h3 := FpFmt.code_lt f
  have hn :
      encodeNat (.fmax d a b f) = 0x5C000006 + d.toNat * 0x100000 + a.toNat * 0x4000 + b.toNat * 0x100 + f.code * 0x40 := rfl
  unfold encode
  generalize encodeNat (.fmax d a b f) = n at hn ⊢
  refine read_fmax _ d a b f ?_ ?_ ?_ ?_ ?_ ?_
  · rw [fld_ofNat _ _ _ (by decide)]; omega
  · rw [fld_ofNat _ _ _ (by decide)]; omega
  · exact bits_eq _ _ _ (by decide) (by omega)
  · exact bits_eq _ _ _ (by decide) (by omega)
  · exact bits_eq _ _ _ (by decide) (by omega)
  · rw [fld_ofNat _ _ _ (by decide)]; omega

theorem read_ffma (x : Insn) (d : Reg) (a : Reg) (b : Reg) (f : FpFmt) (e0 : fld x 26 6 = 23) (e1 : fld x 0 6 = 7) (e2 :
    bits x 20 6 = d) (e3 : bits x 14 6 = a) (e4 : bits x 8 6 = b) (e5 : fld x 6 2 = f.code) :
    decodeWord x = .ok (.ffma d a b f) := by
  simp [decodeWord, decodeFields, decodeMajor17, e0, e1, e2, e3, e4, e5, FpFmt.ofCode_code, Instr.wellFormed]
theorem rt_ffma (d : Reg) (a : Reg) (b : Reg) (f : FpFmt) : decodeWord (encode (.ffma d a b f)) = .ok (.ffma d a b f) := by
  have h0 := d.isLt
  have h1 := a.isLt
  have h2 := b.isLt
  have h3 := FpFmt.code_lt f
  have hn :
      encodeNat (.ffma d a b f) = 0x5C000007 + d.toNat * 0x100000 + a.toNat * 0x4000 + b.toNat * 0x100 + f.code * 0x40 := rfl
  unfold encode
  generalize encodeNat (.ffma d a b f) = n at hn ⊢
  refine read_ffma _ d a b f ?_ ?_ ?_ ?_ ?_ ?_
  · rw [fld_ofNat _ _ _ (by decide)]; omega
  · rw [fld_ofNat _ _ _ (by decide)]; omega
  · exact bits_eq _ _ _ (by decide) (by omega)
  · exact bits_eq _ _ _ (by decide) (by omega)
  · exact bits_eq _ _ _ (by decide) (by omega)
  · rw [fld_ofNat _ _ _ (by decide)]; omega

theorem read_fcmp (x : Insn) (d : Reg) (a : Reg) (b : Reg) (f : FpFmt) (c : FcmpOp) (e0 : fld x 26 6 = 23) (e1 :
    fld x 0 6 ≠ 0) (e2 : fld x 0 6 ≠ 1) (e3 : fld x 0 6 ≠ 2) (e4 : fld x 0 6 ≠ 3) (e5 : fld x 0 6 ≠ 4) (e6 : fld x 0 6 ≠ 5)
    (e7 : fld x 0 6 ≠ 6) (e8 : fld x 0 6 ≠ 7) (e9 : fld x 2 4 = 2) (e10 : bits x 20 6 = d) (e11 : bits x 14 6 = a) (e12 :
    bits x 8 6 = b) (e13 : fld x 6 2 = f.code) (e14 : fld x 0 2 = c.code) :
    decodeWord x = .ok (.fcmp d a b f c) := by
  simp [decodeWord, decodeFields, decodeMajor17, e0, e1, e2, e3, e4, e5, e6, e7, e8, e9, e10, e11, e12, e13, e14, FcmpOp.ofCode_code, FpFmt.ofCode_code, Instr.wellFormed]
theorem rt_fcmp (d : Reg) (a : Reg) (b : Reg) (f : FpFmt) (c : FcmpOp) :
    decodeWord (encode (.fcmp d a b f c)) = .ok (.fcmp d a b f c) := by
  have h0 := d.isLt
  have h1 := a.isLt
  have h2 := b.isLt
  have h3 := FpFmt.code_lt f
  have h4 := FcmpOp.code_lt c
  have hn :
      encodeNat (.fcmp d a b f c) = 0x5C000008 + d.toNat * 0x100000 + a.toNat * 0x4000 + b.toNat * 0x100 + f.code * 0x40 + c.code := rfl
  unfold encode
  generalize encodeNat (.fcmp d a b f c) = n at hn ⊢
  refine read_fcmp _ d a b f c ?_ ?_ ?_ ?_ ?_ ?_ ?_ ?_ ?_ ?_ ?_ ?_ ?_ ?_ ?_
  · rw [fld_ofNat _ _ _ (by decide)]; omega
  · rw [fld_ofNat _ _ _ (by decide)]; omega
  · rw [fld_ofNat _ _ _ (by decide)]; omega
  · rw [fld_ofNat _ _ _ (by decide)]; omega
  · rw [fld_ofNat _ _ _ (by decide)]; omega
  · rw [fld_ofNat _ _ _ (by decide)]; omega
  · rw [fld_ofNat _ _ _ (by decide)]; omega
  · rw [fld_ofNat _ _ _ (by decide)]; omega
  · rw [fld_ofNat _ _ _ (by decide)]; omega
  · rw [fld_ofNat _ _ _ (by decide)]; omega
  · exact bits_eq _ _ _ (by decide) (by omega)
  · exact bits_eq _ _ _ (by decide) (by omega)
  · exact bits_eq _ _ _ (by decide) (by omega)
  · rw [fld_ofNat _ _ _ (by decide)]; omega
  · rw [fld_ofNat _ _ _ (by decide)]; omega

theorem read_fcvt (x : Insn) (d : Reg) (a : Reg) (c : FcvtCode) (f : FpFmt) (e0 : fld x 26 6 = 23) (e1 : fld x 0 6 = 16)
    (e2 : fld x 2 4 = 4) (e3 : bits x 20 6 = d) (e4 : bits x 14 6 = a) (e5 : fld x 8 6 = c.code) (e6 : fld x 6 2 = f.code) :
    decodeWord x = .ok (.fcvt d a c f) := by
  simp [decodeWord, decodeFields, decodeMajor17, e0, e1, e2, e3, e4, e5, e6, FcvtCode.ofCode_code, FpFmt.ofCode_code, Instr.wellFormed]
theorem rt_fcvt (d : Reg) (a : Reg) (c : FcvtCode) (f : FpFmt) :
    decodeWord (encode (.fcvt d a c f)) = .ok (.fcvt d a c f) := by
  have h0 := d.isLt
  have h1 := a.isLt
  have h2 := FcvtCode.code_lt c
  have h3 := FpFmt.code_lt f
  have hn :
      encodeNat (.fcvt d a c f) = 0x5C000010 + d.toNat * 0x100000 + a.toNat * 0x4000 + c.code * 0x100 + f.code * 0x40 := rfl
  unfold encode
  generalize encodeNat (.fcvt d a c f) = n at hn ⊢
  refine read_fcvt _ d a c f ?_ ?_ ?_ ?_ ?_ ?_ ?_
  · rw [fld_ofNat _ _ _ (by decide)]; omega
  · rw [fld_ofNat _ _ _ (by decide)]; omega
  · rw [fld_ofNat _ _ _ (by decide)]; omega
  · exact bits_eq _ _ _ (by decide) (by omega)
  · exact bits_eq _ _ _ (by decide) (by omega)
  · rw [fld_ofNat _ _ _ (by decide)]; omega
  · rw [fld_ofNat _ _ _ (by decide)]; omega

theorem read_vadd (x : Insn) (v : VReg) (a : VReg) (b : VReg) (m : MReg) (w : ElemWidth) (e0 : fld x 26 6 = 24) (e1 :
    fld x 0 6 = 0) (e2 : bits x 21 5 = v) (e3 : bits x 16 5 = a) (e4 : bits x 11 5 = b) (e5 : bits x 8 3 = m) (e6 :
    fld x 6 2 = w.code) :
    decodeWord x = .ok (.vadd v a b m w) := by
  simp [decodeWord, decodeFields, decodeMajor18, e0, e1, e2, e3, e4, e5, e6, ElemWidth.ofCode_code, Instr.wellFormed]
theorem rt_vadd (v : VReg) (a : VReg) (b : VReg) (m : MReg) (w : ElemWidth) :
    decodeWord (encode (.vadd v a b m w)) = .ok (.vadd v a b m w) := by
  have h0 := v.isLt
  have h1 := a.isLt
  have h2 := b.isLt
  have h3 := m.isLt
  have h4 := ElemWidth.code_lt w
  have hn :
      encodeNat (.vadd v a b m w) = 0x60000000 + v.toNat * 0x200000 + a.toNat * 0x10000 + b.toNat * 0x800 + m.toNat * 0x100 + w.code * 0x40 := rfl
  unfold encode
  generalize encodeNat (.vadd v a b m w) = n at hn ⊢
  refine read_vadd _ v a b m w ?_ ?_ ?_ ?_ ?_ ?_ ?_
  · rw [fld_ofNat _ _ _ (by decide)]; omega
  · rw [fld_ofNat _ _ _ (by decide)]; omega
  · exact bits_eq _ _ _ (by decide) (by omega)
  · exact bits_eq _ _ _ (by decide) (by omega)
  · exact bits_eq _ _ _ (by decide) (by omega)
  · exact bits_eq _ _ _ (by decide) (by omega)
  · rw [fld_ofNat _ _ _ (by decide)]; omega

theorem read_vsub (x : Insn) (v : VReg) (a : VReg) (b : VReg) (m : MReg) (w : ElemWidth) (e0 : fld x 26 6 = 24) (e1 :
    fld x 0 6 = 1) (e2 : bits x 21 5 = v) (e3 : bits x 16 5 = a) (e4 : bits x 11 5 = b) (e5 : bits x 8 3 = m) (e6 :
    fld x 6 2 = w.code) :
    decodeWord x = .ok (.vsub v a b m w) := by
  simp [decodeWord, decodeFields, decodeMajor18, e0, e1, e2, e3, e4, e5, e6, ElemWidth.ofCode_code, Instr.wellFormed]
theorem rt_vsub (v : VReg) (a : VReg) (b : VReg) (m : MReg) (w : ElemWidth) :
    decodeWord (encode (.vsub v a b m w)) = .ok (.vsub v a b m w) := by
  have h0 := v.isLt
  have h1 := a.isLt
  have h2 := b.isLt
  have h3 := m.isLt
  have h4 := ElemWidth.code_lt w
  have hn :
      encodeNat (.vsub v a b m w) = 0x60000001 + v.toNat * 0x200000 + a.toNat * 0x10000 + b.toNat * 0x800 + m.toNat * 0x100 + w.code * 0x40 := rfl
  unfold encode
  generalize encodeNat (.vsub v a b m w) = n at hn ⊢
  refine read_vsub _ v a b m w ?_ ?_ ?_ ?_ ?_ ?_ ?_
  · rw [fld_ofNat _ _ _ (by decide)]; omega
  · rw [fld_ofNat _ _ _ (by decide)]; omega
  · exact bits_eq _ _ _ (by decide) (by omega)
  · exact bits_eq _ _ _ (by decide) (by omega)
  · exact bits_eq _ _ _ (by decide) (by omega)
  · exact bits_eq _ _ _ (by decide) (by omega)
  · rw [fld_ofNat _ _ _ (by decide)]; omega

theorem read_vmul (x : Insn) (v : VReg) (a : VReg) (b : VReg) (m : MReg) (w : ElemWidth) (e0 : fld x 26 6 = 24) (e1 :
    fld x 0 6 = 2) (e2 : bits x 21 5 = v) (e3 : bits x 16 5 = a) (e4 : bits x 11 5 = b) (e5 : bits x 8 3 = m) (e6 :
    fld x 6 2 = w.code) :
    decodeWord x = .ok (.vmul v a b m w) := by
  simp [decodeWord, decodeFields, decodeMajor18, e0, e1, e2, e3, e4, e5, e6, ElemWidth.ofCode_code, Instr.wellFormed]
theorem rt_vmul (v : VReg) (a : VReg) (b : VReg) (m : MReg) (w : ElemWidth) :
    decodeWord (encode (.vmul v a b m w)) = .ok (.vmul v a b m w) := by
  have h0 := v.isLt
  have h1 := a.isLt
  have h2 := b.isLt
  have h3 := m.isLt
  have h4 := ElemWidth.code_lt w
  have hn :
      encodeNat (.vmul v a b m w) = 0x60000002 + v.toNat * 0x200000 + a.toNat * 0x10000 + b.toNat * 0x800 + m.toNat * 0x100 + w.code * 0x40 := rfl
  unfold encode
  generalize encodeNat (.vmul v a b m w) = n at hn ⊢
  refine read_vmul _ v a b m w ?_ ?_ ?_ ?_ ?_ ?_ ?_
  · rw [fld_ofNat _ _ _ (by decide)]; omega
  · rw [fld_ofNat _ _ _ (by decide)]; omega
  · exact bits_eq _ _ _ (by decide) (by omega)
  · exact bits_eq _ _ _ (by decide) (by omega)
  · exact bits_eq _ _ _ (by decide) (by omega)
  · exact bits_eq _ _ _ (by decide) (by omega)
  · rw [fld_ofNat _ _ _ (by decide)]; omega

theorem read_vmin (x : Insn) (v : VReg) (a : VReg) (b : VReg) (m : MReg) (w : ElemWidth) (e0 : fld x 26 6 = 24) (e1 :
    fld x 0 6 = 3) (e2 : bits x 21 5 = v) (e3 : bits x 16 5 = a) (e4 : bits x 11 5 = b) (e5 : bits x 8 3 = m) (e6 :
    fld x 6 2 = w.code) :
    decodeWord x = .ok (.vmin v a b m w) := by
  simp [decodeWord, decodeFields, decodeMajor18, e0, e1, e2, e3, e4, e5, e6, ElemWidth.ofCode_code, Instr.wellFormed]
theorem rt_vmin (v : VReg) (a : VReg) (b : VReg) (m : MReg) (w : ElemWidth) :
    decodeWord (encode (.vmin v a b m w)) = .ok (.vmin v a b m w) := by
  have h0 := v.isLt
  have h1 := a.isLt
  have h2 := b.isLt
  have h3 := m.isLt
  have h4 := ElemWidth.code_lt w
  have hn :
      encodeNat (.vmin v a b m w) = 0x60000003 + v.toNat * 0x200000 + a.toNat * 0x10000 + b.toNat * 0x800 + m.toNat * 0x100 + w.code * 0x40 := rfl
  unfold encode
  generalize encodeNat (.vmin v a b m w) = n at hn ⊢
  refine read_vmin _ v a b m w ?_ ?_ ?_ ?_ ?_ ?_ ?_
  · rw [fld_ofNat _ _ _ (by decide)]; omega
  · rw [fld_ofNat _ _ _ (by decide)]; omega
  · exact bits_eq _ _ _ (by decide) (by omega)
  · exact bits_eq _ _ _ (by decide) (by omega)
  · exact bits_eq _ _ _ (by decide) (by omega)
  · exact bits_eq _ _ _ (by decide) (by omega)
  · rw [fld_ofNat _ _ _ (by decide)]; omega

theorem read_vmax (x : Insn) (v : VReg) (a : VReg) (b : VReg) (m : MReg) (w : ElemWidth) (e0 : fld x 26 6 = 24) (e1 :
    fld x 0 6 = 4) (e2 : bits x 21 5 = v) (e3 : bits x 16 5 = a) (e4 : bits x 11 5 = b) (e5 : bits x 8 3 = m) (e6 :
    fld x 6 2 = w.code) :
    decodeWord x = .ok (.vmax v a b m w) := by
  simp [decodeWord, decodeFields, decodeMajor18, e0, e1, e2, e3, e4, e5, e6, ElemWidth.ofCode_code, Instr.wellFormed]
theorem rt_vmax (v : VReg) (a : VReg) (b : VReg) (m : MReg) (w : ElemWidth) :
    decodeWord (encode (.vmax v a b m w)) = .ok (.vmax v a b m w) := by
  have h0 := v.isLt
  have h1 := a.isLt
  have h2 := b.isLt
  have h3 := m.isLt
  have h4 := ElemWidth.code_lt w
  have hn :
      encodeNat (.vmax v a b m w) = 0x60000004 + v.toNat * 0x200000 + a.toNat * 0x10000 + b.toNat * 0x800 + m.toNat * 0x100 + w.code * 0x40 := rfl
  unfold encode
  generalize encodeNat (.vmax v a b m w) = n at hn ⊢
  refine read_vmax _ v a b m w ?_ ?_ ?_ ?_ ?_ ?_ ?_
  · rw [fld_ofNat _ _ _ (by decide)]; omega
  · rw [fld_ofNat _ _ _ (by decide)]; omega
  · exact bits_eq _ _ _ (by decide) (by omega)
  · exact bits_eq _ _ _ (by decide) (by omega)
  · exact bits_eq _ _ _ (by decide) (by omega)
  · exact bits_eq _ _ _ (by decide) (by omega)
  · rw [fld_ofNat _ _ _ (by decide)]; omega

theorem read_vminu (x : Insn) (v : VReg) (a : VReg) (b : VReg) (m : MReg) (w : ElemWidth) (e0 : fld x 26 6 = 24) (e1 :
    fld x 0 6 = 5) (e2 : bits x 21 5 = v) (e3 : bits x 16 5 = a) (e4 : bits x 11 5 = b) (e5 : bits x 8 3 = m) (e6 :
    fld x 6 2 = w.code) :
    decodeWord x = .ok (.vminu v a b m w) := by
  simp [decodeWord, decodeFields, decodeMajor18, e0, e1, e2, e3, e4, e5, e6, ElemWidth.ofCode_code, Instr.wellFormed]
theorem rt_vminu (v : VReg) (a : VReg) (b : VReg) (m : MReg) (w : ElemWidth) :
    decodeWord (encode (.vminu v a b m w)) = .ok (.vminu v a b m w) := by
  have h0 := v.isLt
  have h1 := a.isLt
  have h2 := b.isLt
  have h3 := m.isLt
  have h4 := ElemWidth.code_lt w
  have hn :
      encodeNat (.vminu v a b m w) = 0x60000005 + v.toNat * 0x200000 + a.toNat * 0x10000 + b.toNat * 0x800 + m.toNat * 0x100 + w.code * 0x40 := rfl
  unfold encode
  generalize encodeNat (.vminu v a b m w) = n at hn ⊢
  refine read_vminu _ v a b m w ?_ ?_ ?_ ?_ ?_ ?_ ?_
  · rw [fld_ofNat _ _ _ (by decide)]; omega
  · rw [fld_ofNat _ _ _ (by decide)]; omega
  · exact bits_eq _ _ _ (by decide) (by omega)
  · exact bits_eq _ _ _ (by decide) (by omega)
  · exact bits_eq _ _ _ (by decide) (by omega)
  · exact bits_eq _ _ _ (by decide) (by omega)
  · rw [fld_ofNat _ _ _ (by decide)]; omega

theorem read_vmaxu (x : Insn) (v : VReg) (a : VReg) (b : VReg) (m : MReg) (w : ElemWidth) (e0 : fld x 26 6 = 24) (e1 :
    fld x 0 6 = 6) (e2 : bits x 21 5 = v) (e3 : bits x 16 5 = a) (e4 : bits x 11 5 = b) (e5 : bits x 8 3 = m) (e6 :
    fld x 6 2 = w.code) :
    decodeWord x = .ok (.vmaxu v a b m w) := by
  simp [decodeWord, decodeFields, decodeMajor18, e0, e1, e2, e3, e4, e5, e6, ElemWidth.ofCode_code, Instr.wellFormed]
theorem rt_vmaxu (v : VReg) (a : VReg) (b : VReg) (m : MReg) (w : ElemWidth) :
    decodeWord (encode (.vmaxu v a b m w)) = .ok (.vmaxu v a b m w) := by
  have h0 := v.isLt
  have h1 := a.isLt
  have h2 := b.isLt
  have h3 := m.isLt
  have h4 := ElemWidth.code_lt w
  have hn :
      encodeNat (.vmaxu v a b m w) = 0x60000006 + v.toNat * 0x200000 + a.toNat * 0x10000 + b.toNat * 0x800 + m.toNat * 0x100 + w.code * 0x40 := rfl
  unfold encode
  generalize encodeNat (.vmaxu v a b m w) = n at hn ⊢
  refine read_vmaxu _ v a b m w ?_ ?_ ?_ ?_ ?_ ?_ ?_
  · rw [fld_ofNat _ _ _ (by decide)]; omega
  · rw [fld_ofNat _ _ _ (by decide)]; omega
  · exact bits_eq _ _ _ (by decide) (by omega)
  · exact bits_eq _ _ _ (by decide) (by omega)
  · exact bits_eq _ _ _ (by decide) (by omega)
  · exact bits_eq _ _ _ (by decide) (by omega)
  · rw [fld_ofNat _ _ _ (by decide)]; omega

theorem read_vand (x : Insn) (v : VReg) (a : VReg) (b : VReg) (m : MReg) (w : ElemWidth) (e0 : fld x 26 6 = 24) (e1 :
    fld x 0 6 = 7) (e2 : bits x 21 5 = v) (e3 : bits x 16 5 = a) (e4 : bits x 11 5 = b) (e5 : bits x 8 3 = m) (e6 :
    fld x 6 2 = w.code) :
    decodeWord x = .ok (.vand v a b m w) := by
  simp [decodeWord, decodeFields, decodeMajor18, e0, e1, e2, e3, e4, e5, e6, ElemWidth.ofCode_code, Instr.wellFormed]
theorem rt_vand (v : VReg) (a : VReg) (b : VReg) (m : MReg) (w : ElemWidth) :
    decodeWord (encode (.vand v a b m w)) = .ok (.vand v a b m w) := by
  have h0 := v.isLt
  have h1 := a.isLt
  have h2 := b.isLt
  have h3 := m.isLt
  have h4 := ElemWidth.code_lt w
  have hn :
      encodeNat (.vand v a b m w) = 0x60000007 + v.toNat * 0x200000 + a.toNat * 0x10000 + b.toNat * 0x800 + m.toNat * 0x100 + w.code * 0x40 := rfl
  unfold encode
  generalize encodeNat (.vand v a b m w) = n at hn ⊢
  refine read_vand _ v a b m w ?_ ?_ ?_ ?_ ?_ ?_ ?_
  · rw [fld_ofNat _ _ _ (by decide)]; omega
  · rw [fld_ofNat _ _ _ (by decide)]; omega
  · exact bits_eq _ _ _ (by decide) (by omega)
  · exact bits_eq _ _ _ (by decide) (by omega)
  · exact bits_eq _ _ _ (by decide) (by omega)
  · exact bits_eq _ _ _ (by decide) (by omega)
  · rw [fld_ofNat _ _ _ (by decide)]; omega

theorem read_vor (x : Insn) (v : VReg) (a : VReg) (b : VReg) (m : MReg) (w : ElemWidth) (e0 : fld x 26 6 = 24) (e1 :
    fld x 0 6 = 8) (e2 : bits x 21 5 = v) (e3 : bits x 16 5 = a) (e4 : bits x 11 5 = b) (e5 : bits x 8 3 = m) (e6 :
    fld x 6 2 = w.code) :
    decodeWord x = .ok (.vor v a b m w) := by
  simp [decodeWord, decodeFields, decodeMajor18, e0, e1, e2, e3, e4, e5, e6, ElemWidth.ofCode_code, Instr.wellFormed]
theorem rt_vor (v : VReg) (a : VReg) (b : VReg) (m : MReg) (w : ElemWidth) :
    decodeWord (encode (.vor v a b m w)) = .ok (.vor v a b m w) := by
  have h0 := v.isLt
  have h1 := a.isLt
  have h2 := b.isLt
  have h3 := m.isLt
  have h4 := ElemWidth.code_lt w
  have hn :
      encodeNat (.vor v a b m w) = 0x60000008 + v.toNat * 0x200000 + a.toNat * 0x10000 + b.toNat * 0x800 + m.toNat * 0x100 + w.code * 0x40 := rfl
  unfold encode
  generalize encodeNat (.vor v a b m w) = n at hn ⊢
  refine read_vor _ v a b m w ?_ ?_ ?_ ?_ ?_ ?_ ?_
  · rw [fld_ofNat _ _ _ (by decide)]; omega
  · rw [fld_ofNat _ _ _ (by decide)]; omega
  · exact bits_eq _ _ _ (by decide) (by omega)
  · exact bits_eq _ _ _ (by decide) (by omega)
  · exact bits_eq _ _ _ (by decide) (by omega)
  · exact bits_eq _ _ _ (by decide) (by omega)
  · rw [fld_ofNat _ _ _ (by decide)]; omega

theorem read_vxor (x : Insn) (v : VReg) (a : VReg) (b : VReg) (m : MReg) (w : ElemWidth) (e0 : fld x 26 6 = 24) (e1 :
    fld x 0 6 = 9) (e2 : bits x 21 5 = v) (e3 : bits x 16 5 = a) (e4 : bits x 11 5 = b) (e5 : bits x 8 3 = m) (e6 :
    fld x 6 2 = w.code) :
    decodeWord x = .ok (.vxor v a b m w) := by
  simp [decodeWord, decodeFields, decodeMajor18, e0, e1, e2, e3, e4, e5, e6, ElemWidth.ofCode_code, Instr.wellFormed]
theorem rt_vxor (v : VReg) (a : VReg) (b : VReg) (m : MReg) (w : ElemWidth) :
    decodeWord (encode (.vxor v a b m w)) = .ok (.vxor v a b m w) := by
  have h0 := v.isLt
  have h1 := a.isLt
  have h2 := b.isLt
  have h3 := m.isLt
  have h4 := ElemWidth.code_lt w
  have hn :
      encodeNat (.vxor v a b m w) = 0x60000009 + v.toNat * 0x200000 + a.toNat * 0x10000 + b.toNat * 0x800 + m.toNat * 0x100 + w.code * 0x40 := rfl
  unfold encode
  generalize encodeNat (.vxor v a b m w) = n at hn ⊢
  refine read_vxor _ v a b m w ?_ ?_ ?_ ?_ ?_ ?_ ?_
  · rw [fld_ofNat _ _ _ (by decide)]; omega
  · rw [fld_ofNat _ _ _ (by decide)]; omega
  · exact bits_eq _ _ _ (by decide) (by omega)
  · exact bits_eq _ _ _ (by decide) (by omega)
  · exact bits_eq _ _ _ (by decide) (by omega)
  · exact bits_eq _ _ _ (by decide) (by omega)
  · rw [fld_ofNat _ _ _ (by decide)]; omega

theorem read_vshl (x : Insn) (v : VReg) (a : VReg) (b : VReg) (m : MReg) (w : ElemWidth) (e0 : fld x 26 6 = 24) (e1 :
    fld x 0 6 = 10) (e2 : bits x 21 5 = v) (e3 : bits x 16 5 = a) (e4 : bits x 11 5 = b) (e5 : bits x 8 3 = m) (e6 :
    fld x 6 2 = w.code) :
    decodeWord x = .ok (.vshl v a b m w) := by
  simp [decodeWord, decodeFields, decodeMajor18, e0, e1, e2, e3, e4, e5, e6, ElemWidth.ofCode_code, Instr.wellFormed]
theorem rt_vshl (v : VReg) (a : VReg) (b : VReg) (m : MReg) (w : ElemWidth) :
    decodeWord (encode (.vshl v a b m w)) = .ok (.vshl v a b m w) := by
  have h0 := v.isLt
  have h1 := a.isLt
  have h2 := b.isLt
  have h3 := m.isLt
  have h4 := ElemWidth.code_lt w
  have hn :
      encodeNat (.vshl v a b m w) = 0x6000000A + v.toNat * 0x200000 + a.toNat * 0x10000 + b.toNat * 0x800 + m.toNat * 0x100 + w.code * 0x40 := rfl
  unfold encode
  generalize encodeNat (.vshl v a b m w) = n at hn ⊢
  refine read_vshl _ v a b m w ?_ ?_ ?_ ?_ ?_ ?_ ?_
  · rw [fld_ofNat _ _ _ (by decide)]; omega
  · rw [fld_ofNat _ _ _ (by decide)]; omega
  · exact bits_eq _ _ _ (by decide) (by omega)
  · exact bits_eq _ _ _ (by decide) (by omega)
  · exact bits_eq _ _ _ (by decide) (by omega)
  · exact bits_eq _ _ _ (by decide) (by omega)
  · rw [fld_ofNat _ _ _ (by decide)]; omega

theorem read_vshr (x : Insn) (v : VReg) (a : VReg) (b : VReg) (m : MReg) (w : ElemWidth) (e0 : fld x 26 6 = 24) (e1 :
    fld x 0 6 = 11) (e2 : bits x 21 5 = v) (e3 : bits x 16 5 = a) (e4 : bits x 11 5 = b) (e5 : bits x 8 3 = m) (e6 :
    fld x 6 2 = w.code) :
    decodeWord x = .ok (.vshr v a b m w) := by
  simp [decodeWord, decodeFields, decodeMajor18, e0, e1, e2, e3, e4, e5, e6, ElemWidth.ofCode_code, Instr.wellFormed]
theorem rt_vshr (v : VReg) (a : VReg) (b : VReg) (m : MReg) (w : ElemWidth) :
    decodeWord (encode (.vshr v a b m w)) = .ok (.vshr v a b m w) := by
  have h0 := v.isLt
  have h1 := a.isLt
  have h2 := b.isLt
  have h3 := m.isLt
  have h4 := ElemWidth.code_lt w
  have hn :
      encodeNat (.vshr v a b m w) = 0x6000000B + v.toNat * 0x200000 + a.toNat * 0x10000 + b.toNat * 0x800 + m.toNat * 0x100 + w.code * 0x40 := rfl
  unfold encode
  generalize encodeNat (.vshr v a b m w) = n at hn ⊢
  refine read_vshr _ v a b m w ?_ ?_ ?_ ?_ ?_ ?_ ?_
  · rw [fld_ofNat _ _ _ (by decide)]; omega
  · rw [fld_ofNat _ _ _ (by decide)]; omega
  · exact bits_eq _ _ _ (by decide) (by omega)
  · exact bits_eq _ _ _ (by decide) (by omega)
  · exact bits_eq _ _ _ (by decide) (by omega)
  · exact bits_eq _ _ _ (by decide) (by omega)
  · rw [fld_ofNat _ _ _ (by decide)]; omega

theorem read_vsra (x : Insn) (v : VReg) (a : VReg) (b : VReg) (m : MReg) (w : ElemWidth) (e0 : fld x 26 6 = 24) (e1 :
    fld x 0 6 = 12) (e2 : bits x 21 5 = v) (e3 : bits x 16 5 = a) (e4 : bits x 11 5 = b) (e5 : bits x 8 3 = m) (e6 :
    fld x 6 2 = w.code) :
    decodeWord x = .ok (.vsra v a b m w) := by
  simp [decodeWord, decodeFields, decodeMajor18, e0, e1, e2, e3, e4, e5, e6, ElemWidth.ofCode_code, Instr.wellFormed]
theorem rt_vsra (v : VReg) (a : VReg) (b : VReg) (m : MReg) (w : ElemWidth) :
    decodeWord (encode (.vsra v a b m w)) = .ok (.vsra v a b m w) := by
  have h0 := v.isLt
  have h1 := a.isLt
  have h2 := b.isLt
  have h3 := m.isLt
  have h4 := ElemWidth.code_lt w
  have hn :
      encodeNat (.vsra v a b m w) = 0x6000000C + v.toNat * 0x200000 + a.toNat * 0x10000 + b.toNat * 0x800 + m.toNat * 0x100 + w.code * 0x40 := rfl
  unfold encode
  generalize encodeNat (.vsra v a b m w) = n at hn ⊢
  refine read_vsra _ v a b m w ?_ ?_ ?_ ?_ ?_ ?_ ?_
  · rw [fld_ofNat _ _ _ (by decide)]; omega
  · rw [fld_ofNat _ _ _ (by decide)]; omega
  · exact bits_eq _ _ _ (by decide) (by omega)
  · exact bits_eq _ _ _ (by decide) (by omega)
  · exact bits_eq _ _ _ (by decide) (by omega)
  · exact bits_eq _ _ _ (by decide) (by omega)
  · rw [fld_ofNat _ _ _ (by decide)]; omega

theorem read_vcmp (x : Insn) (d : MReg) (a : VReg) (b : VReg) (m : MReg) (w : ElemWidth) (c : Cond) (e0 : fld x 26 6 = 24)
    (e1 : fld x 0 6 ≠ 0) (e2 : fld x 0 6 ≠ 1) (e3 : fld x 0 6 ≠ 2) (e4 : fld x 0 6 ≠ 3) (e5 : fld x 0 6 ≠ 4) (e6 :
    fld x 0 6 ≠ 5) (e7 : fld x 0 6 ≠ 6) (e8 : fld x 0 6 ≠ 7) (e9 : fld x 0 6 ≠ 8) (e10 : fld x 0 6 ≠ 9) (e11 :
    fld x 0 6 ≠ 10) (e12 : fld x 0 6 ≠ 11) (e13 : fld x 0 6 ≠ 12) (e14 : fld x 24 2 = 0) (e15 : fld x 4 2 = 1) (e16 :
    bits x 21 3 = d) (e17 : bits x 16 5 = a) (e18 : bits x 11 5 = b) (e19 : bits x 8 3 = m) (e20 : fld x 6 2 = w.code) (e21 :
    fld x 0 4 = c.code) :
    decodeWord x = .ok (.vcmp d a b m w c) := by
  simp [decodeWord, decodeFields, decodeMajor18, e0, e1, e2, e3, e4, e5, e6, e7, e8, e9, e10, e11, e12, e13, e14, e15, e16, e17, e18, e19, e20, e21, Cond.ofCode_code, ElemWidth.ofCode_code, Instr.wellFormed]
theorem rt_vcmp (d : MReg) (a : VReg) (b : VReg) (m : MReg) (w : ElemWidth) (c : Cond) :
    decodeWord (encode (.vcmp d a b m w c)) = .ok (.vcmp d a b m w c) := by
  have h0 := d.isLt
  have h1 := a.isLt
  have h2 := b.isLt
  have h3 := m.isLt
  have h4 := ElemWidth.code_lt w
  have h5 := Cond.code_lt c
  have hn :
      encodeNat (.vcmp d a b m w c) = 0x60000010 + d.toNat * 0x200000 + a.toNat * 0x10000 + b.toNat * 0x800 + m.toNat * 0x100 + w.code * 0x40 + c.code := rfl
  unfold encode
  generalize encodeNat (.vcmp d a b m w c) = n at hn ⊢
  refine read_vcmp _ d a b m w c ?_ ?_ ?_ ?_ ?_ ?_ ?_ ?_ ?_ ?_ ?_ ?_ ?_ ?_ ?_ ?_ ?_ ?_ ?_ ?_ ?_ ?_
  · rw [fld_ofNat _ _ _ (by decide)]; omega
  · rw [fld_ofNat _ _ _ (by decide)]; omega
  · rw [fld_ofNat _ _ _ (by decide)]; omega
  · rw [fld_ofNat _ _ _ (by decide)]; omega
  · rw [fld_ofNat _ _ _ (by decide)]; omega
  · rw [fld_ofNat _ _ _ (by decide)]; omega
  · rw [fld_ofNat _ _ _ (by decide)]; omega
  · rw [fld_ofNat _ _ _ (by decide)]; omega
  · rw [fld_ofNat _ _ _ (by decide)]; omega
  · rw [fld_ofNat _ _ _ (by decide)]; omega
  · rw [fld_ofNat _ _ _ (by decide)]; omega
  · rw [fld_ofNat _ _ _ (by decide)]; omega
  · rw [fld_ofNat _ _ _ (by decide)]; omega
  · rw [fld_ofNat _ _ _ (by decide)]; omega
  · rw [fld_ofNat _ _ _ (by decide)]; omega
  · rw [fld_ofNat _ _ _ (by decide)]; omega
  · exact bits_eq _ _ _ (by decide) (by omega)
  · exact bits_eq _ _ _ (by decide) (by omega)
  · exact bits_eq _ _ _ (by decide) (by omega)
  · exact bits_eq _ _ _ (by decide) (by omega)
  · rw [fld_ofNat _ _ _ (by decide)]; omega
  · rw [fld_ofNat _ _ _ (by decide)]; omega

theorem read_vfadd (x : Insn) (v : VReg) (a : VReg) (b : VReg) (m : MReg) (f : VfFmt) (e0 : fld x 26 6 = 25) (e1 :
    fld x 0 6 = 0) (e2 : bits x 21 5 = v) (e3 : bits x 16 5 = a) (e4 : bits x 11 5 = b) (e5 : bits x 8 3 = m) (e6 :
    fld x 6 2 = f.code) :
    decodeWord x = .ok (.vfadd v a b m f) := by
  simp [decodeWord, decodeFields, decodeMajor19, e0, e1, e2, e3, e4, e5, e6, VfFmt.ofCode_code, Instr.wellFormed]
theorem rt_vfadd (v : VReg) (a : VReg) (b : VReg) (m : MReg) (f : VfFmt) :
    decodeWord (encode (.vfadd v a b m f)) = .ok (.vfadd v a b m f) := by
  have h0 := v.isLt
  have h1 := a.isLt
  have h2 := b.isLt
  have h3 := m.isLt
  have h4 := VfFmt.code_lt f
  have hn :
      encodeNat (.vfadd v a b m f) = 0x64000000 + v.toNat * 0x200000 + a.toNat * 0x10000 + b.toNat * 0x800 + m.toNat * 0x100 + f.code * 0x40 := rfl
  unfold encode
  generalize encodeNat (.vfadd v a b m f) = n at hn ⊢
  refine read_vfadd _ v a b m f ?_ ?_ ?_ ?_ ?_ ?_ ?_
  · rw [fld_ofNat _ _ _ (by decide)]; omega
  · rw [fld_ofNat _ _ _ (by decide)]; omega
  · exact bits_eq _ _ _ (by decide) (by omega)
  · exact bits_eq _ _ _ (by decide) (by omega)
  · exact bits_eq _ _ _ (by decide) (by omega)
  · exact bits_eq _ _ _ (by decide) (by omega)
  · rw [fld_ofNat _ _ _ (by decide)]; omega

theorem read_vfsub (x : Insn) (v : VReg) (a : VReg) (b : VReg) (m : MReg) (f : VfFmt) (e0 : fld x 26 6 = 25) (e1 :
    fld x 0 6 = 1) (e2 : bits x 21 5 = v) (e3 : bits x 16 5 = a) (e4 : bits x 11 5 = b) (e5 : bits x 8 3 = m) (e6 :
    fld x 6 2 = f.code) :
    decodeWord x = .ok (.vfsub v a b m f) := by
  simp [decodeWord, decodeFields, decodeMajor19, e0, e1, e2, e3, e4, e5, e6, VfFmt.ofCode_code, Instr.wellFormed]
theorem rt_vfsub (v : VReg) (a : VReg) (b : VReg) (m : MReg) (f : VfFmt) :
    decodeWord (encode (.vfsub v a b m f)) = .ok (.vfsub v a b m f) := by
  have h0 := v.isLt
  have h1 := a.isLt
  have h2 := b.isLt
  have h3 := m.isLt
  have h4 := VfFmt.code_lt f
  have hn :
      encodeNat (.vfsub v a b m f) = 0x64000001 + v.toNat * 0x200000 + a.toNat * 0x10000 + b.toNat * 0x800 + m.toNat * 0x100 + f.code * 0x40 := rfl
  unfold encode
  generalize encodeNat (.vfsub v a b m f) = n at hn ⊢
  refine read_vfsub _ v a b m f ?_ ?_ ?_ ?_ ?_ ?_ ?_
  · rw [fld_ofNat _ _ _ (by decide)]; omega
  · rw [fld_ofNat _ _ _ (by decide)]; omega
  · exact bits_eq _ _ _ (by decide) (by omega)
  · exact bits_eq _ _ _ (by decide) (by omega)
  · exact bits_eq _ _ _ (by decide) (by omega)
  · exact bits_eq _ _ _ (by decide) (by omega)
  · rw [fld_ofNat _ _ _ (by decide)]; omega

theorem read_vfmul (x : Insn) (v : VReg) (a : VReg) (b : VReg) (m : MReg) (f : VfFmt) (e0 : fld x 26 6 = 25) (e1 :
    fld x 0 6 = 2) (e2 : bits x 21 5 = v) (e3 : bits x 16 5 = a) (e4 : bits x 11 5 = b) (e5 : bits x 8 3 = m) (e6 :
    fld x 6 2 = f.code) :
    decodeWord x = .ok (.vfmul v a b m f) := by
  simp [decodeWord, decodeFields, decodeMajor19, e0, e1, e2, e3, e4, e5, e6, VfFmt.ofCode_code, Instr.wellFormed]
theorem rt_vfmul (v : VReg) (a : VReg) (b : VReg) (m : MReg) (f : VfFmt) :
    decodeWord (encode (.vfmul v a b m f)) = .ok (.vfmul v a b m f) := by
  have h0 := v.isLt
  have h1 := a.isLt
  have h2 := b.isLt
  have h3 := m.isLt
  have h4 := VfFmt.code_lt f
  have hn :
      encodeNat (.vfmul v a b m f) = 0x64000002 + v.toNat * 0x200000 + a.toNat * 0x10000 + b.toNat * 0x800 + m.toNat * 0x100 + f.code * 0x40 := rfl
  unfold encode
  generalize encodeNat (.vfmul v a b m f) = n at hn ⊢
  refine read_vfmul _ v a b m f ?_ ?_ ?_ ?_ ?_ ?_ ?_
  · rw [fld_ofNat _ _ _ (by decide)]; omega
  · rw [fld_ofNat _ _ _ (by decide)]; omega
  · exact bits_eq _ _ _ (by decide) (by omega)
  · exact bits_eq _ _ _ (by decide) (by omega)
  · exact bits_eq _ _ _ (by decide) (by omega)
  · exact bits_eq _ _ _ (by decide) (by omega)
  · rw [fld_ofNat _ _ _ (by decide)]; omega

theorem read_vfma (x : Insn) (v : VReg) (a : VReg) (b : VReg) (m : MReg) (f : VfFmt) (e0 : fld x 26 6 = 25) (e1 :
    fld x 0 6 = 3) (e2 : bits x 21 5 = v) (e3 : bits x 16 5 = a) (e4 : bits x 11 5 = b) (e5 : bits x 8 3 = m) (e6 :
    fld x 6 2 = f.code) :
    decodeWord x = .ok (.vfma v a b m f) := by
  simp [decodeWord, decodeFields, decodeMajor19, e0, e1, e2, e3, e4, e5, e6, VfFmt.ofCode_code, Instr.wellFormed]
theorem rt_vfma (v : VReg) (a : VReg) (b : VReg) (m : MReg) (f : VfFmt) :
    decodeWord (encode (.vfma v a b m f)) = .ok (.vfma v a b m f) := by
  have h0 := v.isLt
  have h1 := a.isLt
  have h2 := b.isLt
  have h3 := m.isLt
  have h4 := VfFmt.code_lt f
  have hn :
      encodeNat (.vfma v a b m f) = 0x64000003 + v.toNat * 0x200000 + a.toNat * 0x10000 + b.toNat * 0x800 + m.toNat * 0x100 + f.code * 0x40 := rfl
  unfold encode
  generalize encodeNat (.vfma v a b m f) = n at hn ⊢
  refine read_vfma _ v a b m f ?_ ?_ ?_ ?_ ?_ ?_ ?_
  · rw [fld_ofNat _ _ _ (by decide)]; omega
  · rw [fld_ofNat _ _ _ (by decide)]; omega
  · exact bits_eq _ _ _ (by decide) (by omega)
  · exact bits_eq _ _ _ (by decide) (by omega)
  · exact bits_eq _ _ _ (by decide) (by omega)
  · exact bits_eq _ _ _ (by decide) (by omega)
  · rw [fld_ofNat _ _ _ (by decide)]; omega

theorem read_vfmin (x : Insn) (v : VReg) (a : VReg) (b : VReg) (m : MReg) (f : VfFmt) (e0 : fld x 26 6 = 25) (e1 :
    fld x 0 6 = 4) (e2 : bits x 21 5 = v) (e3 : bits x 16 5 = a) (e4 : bits x 11 5 = b) (e5 : bits x 8 3 = m) (e6 :
    fld x 6 2 = f.code) :
    decodeWord x = .ok (.vfmin v a b m f) := by
  simp [decodeWord, decodeFields, decodeMajor19, e0, e1, e2, e3, e4, e5, e6, VfFmt.ofCode_code, Instr.wellFormed]
theorem rt_vfmin (v : VReg) (a : VReg) (b : VReg) (m : MReg) (f : VfFmt) :
    decodeWord (encode (.vfmin v a b m f)) = .ok (.vfmin v a b m f) := by
  have h0 := v.isLt
  have h1 := a.isLt
  have h2 := b.isLt
  have h3 := m.isLt
  have h4 := VfFmt.code_lt f
  have hn :
      encodeNat (.vfmin v a b m f) = 0x64000004 + v.toNat * 0x200000 + a.toNat * 0x10000 + b.toNat * 0x800 + m.toNat * 0x100 + f.code * 0x40 := rfl
  unfold encode
  generalize encodeNat (.vfmin v a b m f) = n at hn ⊢
  refine read_vfmin _ v a b m f ?_ ?_ ?_ ?_ ?_ ?_ ?_
  · rw [fld_ofNat _ _ _ (by decide)]; omega
  · rw [fld_ofNat _ _ _ (by decide)]; omega
  · exact bits_eq _ _ _ (by decide) (by omega)
  · exact bits_eq _ _ _ (by decide) (by omega)
  · exact bits_eq _ _ _ (by decide) (by omega)
  · exact bits_eq _ _ _ (by decide) (by omega)
  · rw [fld_ofNat _ _ _ (by decide)]; omega

theorem read_vfmax (x : Insn) (v : VReg) (a : VReg) (b : VReg) (m : MReg) (f : VfFmt) (e0 : fld x 26 6 = 25) (e1 :
    fld x 0 6 = 5) (e2 : bits x 21 5 = v) (e3 : bits x 16 5 = a) (e4 : bits x 11 5 = b) (e5 : bits x 8 3 = m) (e6 :
    fld x 6 2 = f.code) :
    decodeWord x = .ok (.vfmax v a b m f) := by
  simp [decodeWord, decodeFields, decodeMajor19, e0, e1, e2, e3, e4, e5, e6, VfFmt.ofCode_code, Instr.wellFormed]
theorem rt_vfmax (v : VReg) (a : VReg) (b : VReg) (m : MReg) (f : VfFmt) :
    decodeWord (encode (.vfmax v a b m f)) = .ok (.vfmax v a b m f) := by
  have h0 := v.isLt
  have h1 := a.isLt
  have h2 := b.isLt
  have h3 := m.isLt
  have h4 := VfFmt.code_lt f
  have hn :
      encodeNat (.vfmax v a b m f) = 0x64000005 + v.toNat * 0x200000 + a.toNat * 0x10000 + b.toNat * 0x800 + m.toNat * 0x100 + f.code * 0x40 := rfl
  unfold encode
  generalize encodeNat (.vfmax v a b m f) = n at hn ⊢
  refine read_vfmax _ v a b m f ?_ ?_ ?_ ?_ ?_ ?_ ?_
  · rw [fld_ofNat _ _ _ (by decide)]; omega
  · rw [fld_ofNat _ _ _ (by decide)]; omega
  · exact bits_eq _ _ _ (by decide) (by omega)
  · exact bits_eq _ _ _ (by decide) (by omega)
  · exact bits_eq _ _ _ (by decide) (by omega)
  · exact bits_eq _ _ _ (by decide) (by omega)
  · rw [fld_ofNat _ _ _ (by decide)]; omega

theorem read_vfdiv (x : Insn) (v : VReg) (a : VReg) (b : VReg) (m : MReg) (f : VfFmt) (e0 : fld x 26 6 = 25) (e1 :
    fld x 0 6 = 6) (e2 : bits x 21 5 = v) (e3 : bits x 16 5 = a) (e4 : bits x 11 5 = b) (e5 : bits x 8 3 = m) (e6 :
    fld x 6 2 = f.code) :
    decodeWord x = .ok (.vfdiv v a b m f) := by
  simp [decodeWord, decodeFields, decodeMajor19, e0, e1, e2, e3, e4, e5, e6, VfFmt.ofCode_code, Instr.wellFormed]
theorem rt_vfdiv (v : VReg) (a : VReg) (b : VReg) (m : MReg) (f : VfFmt) :
    decodeWord (encode (.vfdiv v a b m f)) = .ok (.vfdiv v a b m f) := by
  have h0 := v.isLt
  have h1 := a.isLt
  have h2 := b.isLt
  have h3 := m.isLt
  have h4 := VfFmt.code_lt f
  have hn :
      encodeNat (.vfdiv v a b m f) = 0x64000006 + v.toNat * 0x200000 + a.toNat * 0x10000 + b.toNat * 0x800 + m.toNat * 0x100 + f.code * 0x40 := rfl
  unfold encode
  generalize encodeNat (.vfdiv v a b m f) = n at hn ⊢
  refine read_vfdiv _ v a b m f ?_ ?_ ?_ ?_ ?_ ?_ ?_
  · rw [fld_ofNat _ _ _ (by decide)]; omega
  · rw [fld_ofNat _ _ _ (by decide)]; omega
  · exact bits_eq _ _ _ (by decide) (by omega)
  · exact bits_eq _ _ _ (by decide) (by omega)
  · exact bits_eq _ _ _ (by decide) (by omega)
  · exact bits_eq _ _ _ (by decide) (by omega)
  · rw [fld_ofNat _ _ _ (by decide)]; omega

theorem read_vfsqrt (x : Insn) (v : VReg) (a : VReg) (m : MReg) (f : VfFmt) (e0 : fld x 26 6 = 25) (e1 : fld x 0 6 = 7) (e2 :
    fld x 11 5 = 0) (e3 : bits x 21 5 = v) (e4 : bits x 16 5 = a) (e5 : bits x 8 3 = m) (e6 : fld x 6 2 = f.code) :
    decodeWord x = .ok (.vfsqrt v a m f) := by
  simp [decodeWord, decodeFields, decodeMajor19, e0, e1, e2, e3, e4, e5, e6, VfFmt.ofCode_code, Instr.wellFormed]
theorem rt_vfsqrt (v : VReg) (a : VReg) (m : MReg) (f : VfFmt) :
    decodeWord (encode (.vfsqrt v a m f)) = .ok (.vfsqrt v a m f) := by
  have h0 := v.isLt
  have h1 := a.isLt
  have h2 := m.isLt
  have h3 := VfFmt.code_lt f
  have hn :
      encodeNat (.vfsqrt v a m f) = 0x64000007 + v.toNat * 0x200000 + a.toNat * 0x10000 + m.toNat * 0x100 + f.code * 0x40 := rfl
  unfold encode
  generalize encodeNat (.vfsqrt v a m f) = n at hn ⊢
  refine read_vfsqrt _ v a m f ?_ ?_ ?_ ?_ ?_ ?_ ?_
  · rw [fld_ofNat _ _ _ (by decide)]; omega
  · rw [fld_ofNat _ _ _ (by decide)]; omega
  · rw [fld_ofNat _ _ _ (by decide)]; omega
  · exact bits_eq _ _ _ (by decide) (by omega)
  · exact bits_eq _ _ _ (by decide) (by omega)
  · exact bits_eq _ _ _ (by decide) (by omega)
  · rw [fld_ofNat _ _ _ (by decide)]; omega

theorem read_vfcmp (x : Insn) (d : MReg) (a : VReg) (b : VReg) (m : MReg) (f : VfFmt) (c : FcmpOp) (e0 : fld x 26 6 = 25)
    (e1 : fld x 0 6 ≠ 0) (e2 : fld x 0 6 ≠ 1) (e3 : fld x 0 6 ≠ 2) (e4 : fld x 0 6 ≠ 3) (e5 : fld x 0 6 ≠ 4) (e6 :
    fld x 0 6 ≠ 5) (e7 : fld x 0 6 ≠ 6) (e8 : fld x 0 6 ≠ 7) (e9 : fld x 24 2 = 0) (e10 : fld x 2 4 = 2) (e11 :
    bits x 21 3 = d) (e12 : bits x 16 5 = a) (e13 : bits x 11 5 = b) (e14 : bits x 8 3 = m) (e15 : fld x 6 2 = f.code) (e16 :
    fld x 0 2 = c.code) :
    decodeWord x = .ok (.vfcmp d a b m f c) := by
  simp [decodeWord, decodeFields, decodeMajor19, e0, e1, e2, e3, e4, e5, e6, e7, e8, e9, e10, e11, e12, e13, e14, e15, e16, FcmpOp.ofCode_code, VfFmt.ofCode_code, Instr.wellFormed]
theorem rt_vfcmp (d : MReg) (a : VReg) (b : VReg) (m : MReg) (f : VfFmt) (c : FcmpOp) :
    decodeWord (encode (.vfcmp d a b m f c)) = .ok (.vfcmp d a b m f c) := by
  have h0 := d.isLt
  have h1 := a.isLt
  have h2 := b.isLt
  have h3 := m.isLt
  have h4 := VfFmt.code_lt f
  have h5 := FcmpOp.code_lt c
  have hn :
      encodeNat (.vfcmp d a b m f c) = 0x64000008 + d.toNat * 0x200000 + a.toNat * 0x10000 + b.toNat * 0x800 + m.toNat * 0x100 + f.code * 0x40 + c.code := rfl
  unfold encode
  generalize encodeNat (.vfcmp d a b m f c) = n at hn ⊢
  refine read_vfcmp _ d a b m f c ?_ ?_ ?_ ?_ ?_ ?_ ?_ ?_ ?_ ?_ ?_ ?_ ?_ ?_ ?_ ?_ ?_
  · rw [fld_ofNat _ _ _ (by decide)]; omega
  · rw [fld_ofNat _ _ _ (by decide)]; omega
  · rw [fld_ofNat _ _ _ (by decide)]; omega
  · rw [fld_ofNat _ _ _ (by decide)]; omega
  · rw [fld_ofNat _ _ _ (by decide)]; omega
  · rw [fld_ofNat _ _ _ (by decide)]; omega
  · rw [fld_ofNat _ _ _ (by decide)]; omega
  · rw [fld_ofNat _ _ _ (by decide)]; omega
  · rw [fld_ofNat _ _ _ (by decide)]; omega
  · rw [fld_ofNat _ _ _ (by decide)]; omega
  · rw [fld_ofNat _ _ _ (by decide)]; omega
  · exact bits_eq _ _ _ (by decide) (by omega)
  · exact bits_eq _ _ _ (by decide) (by omega)
  · exact bits_eq _ _ _ (by decide) (by omega)
  · exact bits_eq _ _ _ (by decide) (by omega)
  · rw [fld_ofNat _ _ _ (by decide)]; omega
  · rw [fld_ofNat _ _ _ (by decide)]; omega

theorem read_vbcast (x : Insn) (d : VReg) (a : Reg) (w : ElemWidth) (e0 : fld x 26 6 = 26) (e1 : fld x 25 1 = 0) (e2 :
    fld x 8 6 = 0) (e3 : fld x 0 6 = 0) (e4 : bits x 20 5 = d) (e5 : bits x 14 6 = a) (e6 : fld x 6 2 = w.code) :
    decodeWord x = .ok (.vbcast d a w) := by
  simp [decodeWord, decodeFields, decodeMajor1A, e0, e1, e2, e3, e4, e5, e6, ElemWidth.ofCode_code, Instr.wellFormed]
theorem rt_vbcast (d : VReg) (a : Reg) (w : ElemWidth) : decodeWord (encode (.vbcast d a w)) = .ok (.vbcast d a w) := by
  have h0 := d.isLt
  have h1 := a.isLt
  have h2 := ElemWidth.code_lt w
  have hn : encodeNat (.vbcast d a w) = 0x68000000 + d.toNat * 0x100000 + a.toNat * 0x4000 + w.code * 0x40 := rfl
  unfold encode
  generalize encodeNat (.vbcast d a w) = n at hn ⊢
  refine read_vbcast _ d a w ?_ ?_ ?_ ?_ ?_ ?_ ?_
  · rw [fld_ofNat _ _ _ (by decide)]; omega
  · rw [fld_ofNat _ _ _ (by decide)]; omega
  · rw [fld_ofNat _ _ _ (by decide)]; omega
  · rw [fld_ofNat _ _ _ (by decide)]; omega
  · exact bits_eq _ _ _ (by decide) (by omega)
  · exact bits_eq _ _ _ (by decide) (by omega)
  · rw [fld_ofNat _ _ _ (by decide)]; omega

theorem read_vins (x : Insn) (d : VReg) (a : Reg) (b : Reg) (w : ElemWidth) (e0 : fld x 26 6 = 26) (e1 : fld x 0 6 = 1) (e2 :
    fld x 25 1 = 0) (e3 : bits x 20 5 = d) (e4 : bits x 14 6 = a) (e5 : bits x 8 6 = b) (e6 : fld x 6 2 = w.code) :
    decodeWord x = .ok (.vins d a b w) := by
  simp [decodeWord, decodeFields, decodeMajor1A, e0, e1, e2, e3, e4, e5, e6, ElemWidth.ofCode_code, Instr.wellFormed]
theorem rt_vins (d : VReg) (a : Reg) (b : Reg) (w : ElemWidth) :
    decodeWord (encode (.vins d a b w)) = .ok (.vins d a b w) := by
  have h0 := d.isLt
  have h1 := a.isLt
  have h2 := b.isLt
  have h3 := ElemWidth.code_lt w
  have hn :
      encodeNat (.vins d a b w) = 0x68000001 + d.toNat * 0x100000 + a.toNat * 0x4000 + b.toNat * 0x100 + w.code * 0x40 := rfl
  unfold encode
  generalize encodeNat (.vins d a b w) = n at hn ⊢
  refine read_vins _ d a b w ?_ ?_ ?_ ?_ ?_ ?_ ?_
  · rw [fld_ofNat _ _ _ (by decide)]; omega
  · rw [fld_ofNat _ _ _ (by decide)]; omega
  · rw [fld_ofNat _ _ _ (by decide)]; omega
  · exact bits_eq _ _ _ (by decide) (by omega)
  · exact bits_eq _ _ _ (by decide) (by omega)
  · exact bits_eq _ _ _ (by decide) (by omega)
  · rw [fld_ofNat _ _ _ (by decide)]; omega

theorem read_vext (x : Insn) (d : Reg) (a : VReg) (b : Reg) (w : ElemWidth) (e0 : fld x 26 6 = 26) (e1 : fld x 0 6 = 2) (e2 :
    fld x 19 1 = 0) (e3 : bits x 20 6 = d) (e4 : bits x 14 5 = a) (e5 : bits x 8 6 = b) (e6 : fld x 6 2 = w.code) :
    decodeWord x = .ok (.vext d a b w) := by
  simp [decodeWord, decodeFields, decodeMajor1A, e0, e1, e2, e3, e4, e5, e6, ElemWidth.ofCode_code, Instr.wellFormed]
theorem rt_vext (d : Reg) (a : VReg) (b : Reg) (w : ElemWidth) :
    decodeWord (encode (.vext d a b w)) = .ok (.vext d a b w) := by
  have h0 := d.isLt
  have h1 := a.isLt
  have h2 := b.isLt
  have h3 := ElemWidth.code_lt w
  have hn :
      encodeNat (.vext d a b w) = 0x68000002 + d.toNat * 0x100000 + a.toNat * 0x4000 + b.toNat * 0x100 + w.code * 0x40 := rfl
  unfold encode
  generalize encodeNat (.vext d a b w) = n at hn ⊢
  refine read_vext _ d a b w ?_ ?_ ?_ ?_ ?_ ?_ ?_
  · rw [fld_ofNat _ _ _ (by decide)]; omega
  · rw [fld_ofNat _ _ _ (by decide)]; omega
  · rw [fld_ofNat _ _ _ (by decide)]; omega
  · exact bits_eq _ _ _ (by decide) (by omega)
  · exact bits_eq _ _ _ (by decide) (by omega)
  · exact bits_eq _ _ _ (by decide) (by omega)
  · rw [fld_ofNat _ _ _ (by decide)]; omega

theorem read_vred (x : Insn) (d : Reg) (a : VReg) (o : RedOp) (w : ElemWidth) (e0 : fld x 26 6 = 26) (e1 : fld x 0 6 = 3)
    (e2 : fld x 19 1 = 0) (e3 : fld x 11 3 = 0) (e4 : bits x 20 6 = d) (e5 : bits x 14 5 = a) (e6 : fld x 8 3 = o.code) (e7 :
    fld x 6 2 = w.code) :
    decodeWord x = .ok (.vred d a o w) := by
  simp [decodeWord, decodeFields, decodeMajor1A, e0, e1, e2, e3, e4, e5, e6, e7, ElemWidth.ofCode_code, RedOp.ofCode_code, Instr.wellFormed]
theorem rt_vred (d : Reg) (a : VReg) (o : RedOp) (w : ElemWidth) :
    decodeWord (encode (.vred d a o w)) = .ok (.vred d a o w) := by
  have h0 := d.isLt
  have h1 := a.isLt
  have h2 := RedOp.code_lt o
  have h3 := ElemWidth.code_lt w
  have hn :
      encodeNat (.vred d a o w) = 0x68000003 + d.toNat * 0x100000 + a.toNat * 0x4000 + o.code * 0x100 + w.code * 0x40 := rfl
  unfold encode
  generalize encodeNat (.vred d a o w) = n at hn ⊢
  refine read_vred _ d a o w ?_ ?_ ?_ ?_ ?_ ?_ ?_ ?_
  · rw [fld_ofNat _ _ _ (by decide)]; omega
  · rw [fld_ofNat _ _ _ (by decide)]; omega
  · rw [fld_ofNat _ _ _ (by decide)]; omega
  · rw [fld_ofNat _ _ _ (by decide)]; omega
  · exact bits_eq _ _ _ (by decide) (by omega)
  · exact bits_eq _ _ _ (by decide) (by omega)
  · rw [fld_ofNat _ _ _ (by decide)]; omega
  · rw [fld_ofNat _ _ _ (by decide)]; omega

theorem read_mtoc (x : Insn) (d : Reg) (a : MReg) (w : ElemWidth) (e0 : fld x 26 6 = 26) (e1 : fld x 0 6 = 4) (e2 :
    fld x 17 3 = 0) (e3 : fld x 8 6 = 0) (e4 : bits x 20 6 = d) (e5 : bits x 14 3 = a) (e6 : fld x 6 2 = w.code) :
    decodeWord x = .ok (.mtoc d a w) := by
  simp [decodeWord, decodeFields, decodeMajor1A, e0, e1, e2, e3, e4, e5, e6, ElemWidth.ofCode_code, Instr.wellFormed]
theorem rt_mtoc (d : Reg) (a : MReg) (w : ElemWidth) : decodeWord (encode (.mtoc d a w)) = .ok (.mtoc d a w) := by
  have h0 := d.isLt
  have h1 := a.isLt
  have h2 := ElemWidth.code_lt w
  have hn : encodeNat (.mtoc d a w) = 0x68000004 + d.toNat * 0x100000 + a.toNat * 0x4000 + w.code * 0x40 := rfl
  unfold encode
  generalize encodeNat (.mtoc d a w) = n at hn ⊢
  refine read_mtoc _ d a w ?_ ?_ ?_ ?_ ?_ ?_ ?_
  · rw [fld_ofNat _ _ _ (by decide)]; omega
  · rw [fld_ofNat _ _ _ (by decide)]; omega
  · rw [fld_ofNat _ _ _ (by decide)]; omega
  · rw [fld_ofNat _ _ _ (by decide)]; omega
  · exact bits_eq _ _ _ (by decide) (by omega)
  · exact bits_eq _ _ _ (by decide) (by omega)
  · rw [fld_ofNat _ _ _ (by decide)]; omega

theorem read_ctom (x : Insn) (d : MReg) (a : Reg) (w : ElemWidth) (e0 : fld x 26 6 = 26) (e1 : fld x 0 6 = 5) (e2 :
    fld x 23 3 = 0) (e3 : fld x 8 6 = 0) (e4 : bits x 20 3 = d) (e5 : bits x 14 6 = a) (e6 : fld x 6 2 = w.code) :
    decodeWord x = .ok (.ctom d a w) := by
  simp [decodeWord, decodeFields, decodeMajor1A, e0, e1, e2, e3, e4, e5, e6, ElemWidth.ofCode_code, Instr.wellFormed]
theorem rt_ctom (d : MReg) (a : Reg) (w : ElemWidth) : decodeWord (encode (.ctom d a w)) = .ok (.ctom d a w) := by
  have h0 := d.isLt
  have h1 := a.isLt
  have h2 := ElemWidth.code_lt w
  have hn : encodeNat (.ctom d a w) = 0x68000005 + d.toNat * 0x100000 + a.toNat * 0x4000 + w.code * 0x40 := rfl
  unfold encode
  generalize encodeNat (.ctom d a w) = n at hn ⊢
  refine read_ctom _ d a w ?_ ?_ ?_ ?_ ?_ ?_ ?_
  · rw [fld_ofNat _ _ _ (by decide)]; omega
  · rw [fld_ofNat _ _ _ (by decide)]; omega
  · rw [fld_ofNat _ _ _ (by decide)]; omega
  · rw [fld_ofNat _ _ _ (by decide)]; omega
  · exact bits_eq _ _ _ (by decide) (by omega)
  · exact bits_eq _ _ _ (by decide) (by omega)
  · rw [fld_ofNat _ _ _ (by decide)]; omega

theorem read_mcnt (x : Insn) (d : Reg) (a : MReg) (w : ElemWidth) (e0 : fld x 26 6 = 26) (e1 : fld x 0 6 = 6) (e2 :
    fld x 17 3 = 0) (e3 : fld x 8 6 = 0) (e4 : bits x 20 6 = d) (e5 : bits x 14 3 = a) (e6 : fld x 6 2 = w.code) :
    decodeWord x = .ok (.mcnt d a w) := by
  simp [decodeWord, decodeFields, decodeMajor1A, e0, e1, e2, e3, e4, e5, e6, ElemWidth.ofCode_code, Instr.wellFormed]
theorem rt_mcnt (d : Reg) (a : MReg) (w : ElemWidth) : decodeWord (encode (.mcnt d a w)) = .ok (.mcnt d a w) := by
  have h0 := d.isLt
  have h1 := a.isLt
  have h2 := ElemWidth.code_lt w
  have hn : encodeNat (.mcnt d a w) = 0x68000006 + d.toNat * 0x100000 + a.toNat * 0x4000 + w.code * 0x40 := rfl
  unfold encode
  generalize encodeNat (.mcnt d a w) = n at hn ⊢
  refine read_mcnt _ d a w ?_ ?_ ?_ ?_ ?_ ?_ ?_
  · rw [fld_ofNat _ _ _ (by decide)]; omega
  · rw [fld_ofNat _ _ _ (by decide)]; omega
  · rw [fld_ofNat _ _ _ (by decide)]; omega
  · rw [fld_ofNat _ _ _ (by decide)]; omega
  · exact bits_eq _ _ _ (by decide) (by omega)
  · exact bits_eq _ _ _ (by decide) (by omega)
  · rw [fld_ofNat _ _ _ (by decide)]; omega

theorem read_vsel (x : Insn) (v : VReg) (a : VReg) (b : VReg) (m : MReg) (w : ElemWidth) (e0 : fld x 26 6 = 27) (e1 :
    fld x 0 6 = 0) (e2 : bits x 21 5 = v) (e3 : bits x 16 5 = a) (e4 : bits x 11 5 = b) (e5 : bits x 8 3 = m) (e6 :
    fld x 6 2 = w.code) :
    decodeWord x = .ok (.vsel v a b m w) := by
  simp [decodeWord, decodeFields, decodeMajor1B, e0, e1, e2, e3, e4, e5, e6, ElemWidth.ofCode_code, Instr.wellFormed]
theorem rt_vsel (v : VReg) (a : VReg) (b : VReg) (m : MReg) (w : ElemWidth) :
    decodeWord (encode (.vsel v a b m w)) = .ok (.vsel v a b m w) := by
  have h0 := v.isLt
  have h1 := a.isLt
  have h2 := b.isLt
  have h3 := m.isLt
  have h4 := ElemWidth.code_lt w
  have hn :
      encodeNat (.vsel v a b m w) = 0x6C000000 + v.toNat * 0x200000 + a.toNat * 0x10000 + b.toNat * 0x800 + m.toNat * 0x100 + w.code * 0x40 := rfl
  unfold encode
  generalize encodeNat (.vsel v a b m w) = n at hn ⊢
  refine read_vsel _ v a b m w ?_ ?_ ?_ ?_ ?_ ?_ ?_
  · rw [fld_ofNat _ _ _ (by decide)]; omega
  · rw [fld_ofNat _ _ _ (by decide)]; omega
  · exact bits_eq _ _ _ (by decide) (by omega)
  · exact bits_eq _ _ _ (by decide) (by omega)
  · exact bits_eq _ _ _ (by decide) (by omega)
  · exact bits_eq _ _ _ (by decide) (by omega)
  · rw [fld_ofNat _ _ _ (by decide)]; omega

theorem read_vperm (x : Insn) (v : VReg) (a : VReg) (b : VReg) (m : MReg) (w : ElemWidth) (e0 : fld x 26 6 = 27) (e1 :
    fld x 0 6 = 1) (e2 : bits x 21 5 = v) (e3 : bits x 16 5 = a) (e4 : bits x 11 5 = b) (e5 : bits x 8 3 = m) (e6 :
    fld x 6 2 = w.code) :
    decodeWord x = .ok (.vperm v a b m w) := by
  simp [decodeWord, decodeFields, decodeMajor1B, e0, e1, e2, e3, e4, e5, e6, ElemWidth.ofCode_code, Instr.wellFormed]
theorem rt_vperm (v : VReg) (a : VReg) (b : VReg) (m : MReg) (w : ElemWidth) :
    decodeWord (encode (.vperm v a b m w)) = .ok (.vperm v a b m w) := by
  have h0 := v.isLt
  have h1 := a.isLt
  have h2 := b.isLt
  have h3 := m.isLt
  have h4 := ElemWidth.code_lt w
  have hn :
      encodeNat (.vperm v a b m w) = 0x6C000001 + v.toNat * 0x200000 + a.toNat * 0x10000 + b.toNat * 0x800 + m.toNat * 0x100 + w.code * 0x40 := rfl
  unfold encode
  generalize encodeNat (.vperm v a b m w) = n at hn ⊢
  refine read_vperm _ v a b m w ?_ ?_ ?_ ?_ ?_ ?_ ?_
  · rw [fld_ofNat _ _ _ (by decide)]; omega
  · rw [fld_ofNat _ _ _ (by decide)]; omega
  · exact bits_eq _ _ _ (by decide) (by omega)
  · exact bits_eq _ _ _ (by decide) (by omega)
  · exact bits_eq _ _ _ (by decide) (by omega)
  · exact bits_eq _ _ _ (by decide) (by omega)
  · rw [fld_ofNat _ _ _ (by decide)]; omega

theorem read_viota (x : Insn) (v : VReg) (m : MReg) (w : ElemWidth) (e0 : fld x 26 6 = 27) (e1 : fld x 0 6 = 2) (e2 :
    fld x 11 10 = 0) (e3 : bits x 21 5 = v) (e4 : bits x 8 3 = m) (e5 : fld x 6 2 = w.code) :
    decodeWord x = .ok (.viota v m w) := by
  simp [decodeWord, decodeFields, decodeMajor1B, e0, e1, e2, e3, e4, e5, ElemWidth.ofCode_code, Instr.wellFormed]
theorem rt_viota (v : VReg) (m : MReg) (w : ElemWidth) : decodeWord (encode (.viota v m w)) = .ok (.viota v m w) := by
  have h0 := v.isLt
  have h1 := m.isLt
  have h2 := ElemWidth.code_lt w
  have hn : encodeNat (.viota v m w) = 0x6C000002 + v.toNat * 0x200000 + m.toNat * 0x100 + w.code * 0x40 := rfl
  unfold encode
  generalize encodeNat (.viota v m w) = n at hn ⊢
  refine read_viota _ v m w ?_ ?_ ?_ ?_ ?_ ?_
  · rw [fld_ofNat _ _ _ (by decide)]; omega
  · rw [fld_ofNat _ _ _ (by decide)]; omega
  · rw [fld_ofNat _ _ _ (by decide)]; omega
  · exact bits_eq _ _ _ (by decide) (by omega)
  · exact bits_eq _ _ _ (by decide) (by omega)
  · rw [fld_ofNat _ _ _ (by decide)]; omega

theorem read_vcvt (x : Insn) (v : VReg) (a : VReg) (c : VcvtCode) (m : MReg) (p : BitVec 2) (h :
    Instr.wellFormed (.vcvt v a c m p) = true) (e0 : fld x 26 6 = 27) (e1 : fld x 0 6 = 3) (e2 : bits x 21 5 = v) (e3 :
    bits x 16 5 = a) (e4 : fld x 11 5 = c.code) (e5 : bits x 8 3 = m) (e6 : bits x 6 2 = p) :
    decodeWord x = .ok (.vcvt v a c m p) := by
  simp [decodeWord, decodeFields, decodeMajor1B, e0, e1, e2, e3, e4, e5, e6, VcvtCode.ofCode_code, h]
theorem rt_vcvt (v : VReg) (a : VReg) (c : VcvtCode) (m : MReg) (p : BitVec 2) (h :
    Instr.wellFormed (.vcvt v a c m p) = true) : decodeWord (encode (.vcvt v a c m p)) = .ok (.vcvt v a c m p) := by
  have h0 := v.isLt
  have h1 := a.isLt
  have h2 := VcvtCode.code_lt c
  have h3 := m.isLt
  have h4 := p.isLt
  have hn :
      encodeNat (.vcvt v a c m p) = 0x6C000003 + v.toNat * 0x200000 + a.toNat * 0x10000 + c.code * 0x800 + m.toNat * 0x100 + p.toNat * 0x40 := rfl
  unfold encode
  generalize encodeNat (.vcvt v a c m p) = n at hn ⊢
  refine read_vcvt _ v a c m p h ?_ ?_ ?_ ?_ ?_ ?_ ?_
  · rw [fld_ofNat _ _ _ (by decide)]; omega
  · rw [fld_ofNat _ _ _ (by decide)]; omega
  · exact bits_eq _ _ _ (by decide) (by omega)
  · exact bits_eq _ _ _ (by decide) (by omega)
  · rw [fld_ofNat _ _ _ (by decide)]; omega
  · exact bits_eq _ _ _ (by decide) (by omega)
  · exact bits_eq _ _ _ (by decide) (by omega)

theorem read_vmov (x : Insn) (v : VReg) (a : VReg) (m : MReg) (w : ElemWidth) (e0 : fld x 26 6 = 27) (e1 : fld x 0 6 = 4)
    (e2 : fld x 11 5 = 0) (e3 : bits x 21 5 = v) (e4 : bits x 16 5 = a) (e5 : bits x 8 3 = m) (e6 : fld x 6 2 = w.code) :
    decodeWord x = .ok (.vmov v a m w) := by
  simp [decodeWord, decodeFields, decodeMajor1B, e0, e1, e2, e3, e4, e5, e6, ElemWidth.ofCode_code, Instr.wellFormed]
theorem rt_vmov (v : VReg) (a : VReg) (m : MReg) (w : ElemWidth) :
    decodeWord (encode (.vmov v a m w)) = .ok (.vmov v a m w) := by
  have h0 := v.isLt
  have h1 := a.isLt
  have h2 := m.isLt
  have h3 := ElemWidth.code_lt w
  have hn :
      encodeNat (.vmov v a m w) = 0x6C000004 + v.toNat * 0x200000 + a.toNat * 0x10000 + m.toNat * 0x100 + w.code * 0x40 := rfl
  unfold encode
  generalize encodeNat (.vmov v a m w) = n at hn ⊢
  refine read_vmov _ v a m w ?_ ?_ ?_ ?_ ?_ ?_ ?_
  · rw [fld_ofNat _ _ _ (by decide)]; omega
  · rw [fld_ofNat _ _ _ (by decide)]; omega
  · rw [fld_ofNat _ _ _ (by decide)]; omega
  · exact bits_eq _ _ _ (by decide) (by omega)
  · exact bits_eq _ _ _ (by decide) (by omega)
  · exact bits_eq _ _ _ (by decide) (by omega)
  · rw [fld_ofNat _ _ _ (by decide)]; omega

theorem read_mop (x : Insn) (d : MReg) (a : MReg) (b : MReg) (o : MaskOp) (e0 : fld x 26 6 = 27) (e1 : fld x 0 6 = 5) (e2 :
    fld x 24 2 = 0) (e3 : fld x 19 2 = 0) (e4 : fld x 14 2 = 0) (e5 : fld x 8 3 = 0) (e6 : bits x 21 3 = d) (e7 :
    bits x 16 3 = a) (e8 : bits x 11 3 = b) (e9 : fld x 6 2 = o.code) :
    decodeWord x = .ok (.mop d a b o) := by
  simp [decodeWord, decodeFields, decodeMajor1B, e0, e1, e2, e3, e4, e5, e6, e7, e8, e9, MaskOp.ofCode_code, Instr.wellFormed]
theorem rt_mop (d : MReg) (a : MReg) (b : MReg) (o : MaskOp) : decodeWord (encode (.mop d a b o)) = .ok (.mop d a b o) := by
  have h0 := d.isLt
  have h1 := a.isLt
  have h2 := b.isLt
  have h3 := MaskOp.code_lt o
  have hn :
      encodeNat (.mop d a b o) = 0x6C000005 + d.toNat * 0x200000 + a.toNat * 0x10000 + b.toNat * 0x800 + o.code * 0x40 := rfl
  unfold encode
  generalize encodeNat (.mop d a b o) = n at hn ⊢
  refine read_mop _ d a b o ?_ ?_ ?_ ?_ ?_ ?_ ?_ ?_ ?_ ?_
  · rw [fld_ofNat _ _ _ (by decide)]; omega
  · rw [fld_ofNat _ _ _ (by decide)]; omega
  · rw [fld_ofNat _ _ _ (by decide)]; omega
  · rw [fld_ofNat _ _ _ (by decide)]; omega
  · rw [fld_ofNat _ _ _ (by decide)]; omega
  · rw [fld_ofNat _ _ _ (by decide)]; omega
  · exact bits_eq _ _ _ (by decide) (by omega)
  · exact bits_eq _ _ _ (by decide) (by omega)
  · exact bits_eq _ _ _ (by decide) (by omega)
  · rw [fld_ofNat _ _ _ (by decide)]; omega

theorem read_b (x : Insn) (d : BitVec 26) (e0 : fld x 26 6 = 28) (e1 : bits x 0 26 = d) :
    decodeWord x = .ok (.b d) := by
  simp [decodeWord, decodeFields, decodeMajor1C, e0, e1, Instr.wellFormed]
theorem rt_b (d : BitVec 26) : decodeWord (encode (.b d)) = .ok (.b d) := by
  have h0 := d.isLt
  have hn : encodeNat (.b d) = 0x70000000 + d.toNat := rfl
  unfold encode
  generalize encodeNat (.b d) = n at hn ⊢
  refine read_b _ d ?_ ?_
  · rw [fld_ofNat _ _ _ (by decide)]; omega
  · exact bits_eq _ _ _ (by decide) (by omega)

theorem read_bc (x : Insn) (c : Cond) (a : Reg) (b : Reg) (d : BitVec 10) (e0 : fld x 26 6 = 29) (e1 : fld x 22 4 = c.code)
    (e2 : bits x 16 6 = a) (e3 : bits x 10 6 = b) (e4 : bits x 0 10 = d) :
    decodeWord x = .ok (.bc c a b d) := by
  simp [decodeWord, decodeFields, decodeMajor1D, e0, e1, e2, e3, e4, Cond.ofCode_code, Instr.wellFormed]
theorem rt_bc (c : Cond) (a : Reg) (b : Reg) (d : BitVec 10) : decodeWord (encode (.bc c a b d)) = .ok (.bc c a b d) := by
  have h0 := Cond.code_lt c
  have h1 := a.isLt
  have h2 := b.isLt
  have h3 := d.isLt
  have hn : encodeNat (.bc c a b d) = 0x74000000 + c.code * 0x400000 + a.toNat * 0x10000 + b.toNat * 0x400 + d.toNat := rfl
  unfold encode
  generalize encodeNat (.bc c a b d) = n at hn ⊢
  refine read_bc _ c a b d ?_ ?_ ?_ ?_ ?_
  · rw [fld_ofNat _ _ _ (by decide)]; omega
  · rw [fld_ofNat _ _ _ (by decide)]; omega
  · exact bits_eq _ _ _ (by decide) (by omega)
  · exact bits_eq _ _ _ (by decide) (by omega)
  · exact bits_eq _ _ _ (by decide) (by omega)

theorem read_bm (x : Insn) (c : MaskCond) (a : MReg) (b : MReg) (d : BitVec 10) (e0 : fld x 26 6 = 30) (e1 : fld x 19 3 = 0)
    (e2 : fld x 13 3 = 0) (e3 : fld x 22 4 = c.code) (e4 : bits x 16 3 = a) (e5 : bits x 10 3 = b) (e6 : bits x 0 10 = d) :
    decodeWord x = .ok (.bm c a b d) := by
  simp [decodeWord, decodeFields, decodeMajor1E, e0, e1, e2, e3, e4, e5, e6, MaskCond.ofCode_code, Instr.wellFormed]
theorem rt_bm (c : MaskCond) (a : MReg) (b : MReg) (d : BitVec 10) :
    decodeWord (encode (.bm c a b d)) = .ok (.bm c a b d) := by
  have h0 := MaskCond.code_lt c
  have h1 := a.isLt
  have h2 := b.isLt
  have h3 := d.isLt
  have hn : encodeNat (.bm c a b d) = 0x78000000 + c.code * 0x400000 + a.toNat * 0x10000 + b.toNat * 0x400 + d.toNat := rfl
  unfold encode
  generalize encodeNat (.bm c a b d) = n at hn ⊢
  refine read_bm _ c a b d ?_ ?_ ?_ ?_ ?_ ?_ ?_
  · rw [fld_ofNat _ _ _ (by decide)]; omega
  · rw [fld_ofNat _ _ _ (by decide)]; omega
  · rw [fld_ofNat _ _ _ (by decide)]; omega
  · rw [fld_ofNat _ _ _ (by decide)]; omega
  · exact bits_eq _ _ _ (by decide) (by omega)
  · exact bits_eq _ _ _ (by decide) (by omega)
  · exact bits_eq _ _ _ (by decide) (by omega)

theorem read_call (x : Insn) (d : BitVec 26) (e0 : fld x 26 6 = 31) (e1 : bits x 0 26 = d) :
    decodeWord x = .ok (.call d) := by
  simp [decodeWord, decodeFields, decodeMajor1F, e0, e1, Instr.wellFormed]
theorem rt_call (d : BitVec 26) : decodeWord (encode (.call d)) = .ok (.call d) := by
  have h0 := d.isLt
  have hn : encodeNat (.call d) = 0x7C000000 + d.toNat := rfl
  unfold encode
  generalize encodeNat (.call d) = n at hn ⊢
  refine read_call _ d ?_ ?_
  · rw [fld_ofNat _ _ _ (by decide)]; omega
  · exact bits_eq _ _ _ (by decide) (by omega)

theorem read_jr (x : Insn) (a : Reg) (e0 : fld x 26 6 = 32) (e1 : fld x 20 6 = 0) (e2 : fld x 0 14 = 0) (e3 :
    bits x 14 6 = a) :
    decodeWord x = .ok (.jr a) := by
  simp [decodeWord, decodeFields, decodeMajor20, e0, e1, e2, e3, Instr.wellFormed]
theorem rt_jr (a : Reg) : decodeWord (encode (.jr a)) = .ok (.jr a) := by
  have h0 := a.isLt
  have hn : encodeNat (.jr a) = 0x80000000 + a.toNat * 0x4000 := rfl
  unfold encode
  generalize encodeNat (.jr a) = n at hn ⊢
  refine read_jr _ a ?_ ?_ ?_ ?_
  · rw [fld_ofNat _ _ _ (by decide)]; omega
  · rw [fld_ofNat _ _ _ (by decide)]; omega
  · rw [fld_ofNat _ _ _ (by decide)]; omega
  · exact bits_eq _ _ _ (by decide) (by omega)

theorem read_callr (x : Insn) (a : Reg) (e0 : fld x 26 6 = 32) (e1 : fld x 0 14 = 1) (e2 : fld x 20 6 = 0) (e3 :
    bits x 14 6 = a) :
    decodeWord x = .ok (.callr a) := by
  simp [decodeWord, decodeFields, decodeMajor20, e0, e1, e2, e3, Instr.wellFormed]
theorem rt_callr (a : Reg) : decodeWord (encode (.callr a)) = .ok (.callr a) := by
  have h0 := a.isLt
  have hn : encodeNat (.callr a) = 0x80000001 + a.toNat * 0x4000 := rfl
  unfold encode
  generalize encodeNat (.callr a) = n at hn ⊢
  refine read_callr _ a ?_ ?_ ?_ ?_
  · rw [fld_ofNat _ _ _ (by decide)]; omega
  · rw [fld_ofNat _ _ _ (by decide)]; omega
  · rw [fld_ofNat _ _ _ (by decide)]; omega
  · exact bits_eq _ _ _ (by decide) (by omega)

theorem read_ret (x : Insn) (e0 : fld x 26 6 = 32) (e1 : fld x 0 14 = 2) (e2 : fld x 0 26 = 2) :
    decodeWord x = .ok (.ret) := by
  simp [decodeWord, decodeFields, decodeMajor20, e0, e1, e2, Instr.wellFormed]
theorem rt_ret : decodeWord (encode (.ret)) = .ok (.ret) := by
  have hn : encodeNat (.ret) = 0x80000002 := rfl
  unfold encode
  generalize encodeNat (.ret) = n at hn ⊢
  refine read_ret _ ?_ ?_ ?_
  · rw [fld_ofNat _ _ _ (by decide)]; omega
  · rw [fld_ofNat _ _ _ (by decide)]; omega
  · rw [fld_ofNat _ _ _ (by decide)]; omega

theorem read_end_ (x : Insn) (e0 : fld x 26 6 = 33) (e1 : fld x 0 26 = 0) :
    decodeWord x = .ok (.end_) := by
  simp [decodeWord, decodeFields, decodeMajor21, e0, e1, Instr.wellFormed]
theorem rt_end_ : decodeWord (encode (.end_)) = .ok (.end_) := by
  have hn : encodeNat (.end_) = 0x84000000 := rfl
  unfold encode
  generalize encodeNat (.end_) = n at hn ⊢
  refine read_end_ _ ?_ ?_
  · rw [fld_ofNat _ _ _ (by decide)]; omega
  · rw [fld_ofNat _ _ _ (by decide)]; omega

theorem read_send (x : Insn) (d : Reg) (a : Reg) (t : BitVec 6) (n : BitVec 5) (h : Instr.wellFormed (.send d a t n) = true)
    (e0 : fld x 26 6 = 34) (e1 : fld x 5 3 = 0) (e2 : bits x 20 6 = d) (e3 : bits x 14 6 = a) (e4 : bits x 8 6 = t) (e5 :
    bits x 0 5 = n) :
    decodeWord x = .ok (.send d a t n) := by
  simp [decodeWord, decodeFields, decodeMajor22, e0, e1, e2, e3, e4, e5, h]
theorem rt_send (d : Reg) (a : Reg) (t : BitVec 6) (n : BitVec 5) (h : Instr.wellFormed (.send d a t n) = true) :
    decodeWord (encode (.send d a t n)) = .ok (.send d a t n) := by
  have h0 := d.isLt
  have h1 := a.isLt
  have h2 := t.isLt
  have h3 := n.isLt
  have hn : encodeNat (.send d a t n) = 0x88000000 + d.toNat * 0x100000 + a.toNat * 0x4000 + t.toNat * 0x100 + n.toNat := rfl
  unfold encode
  generalize encodeNat (.send d a t n) = n_ at hn ⊢
  refine read_send _ d a t n h ?_ ?_ ?_ ?_ ?_ ?_
  · rw [fld_ofNat _ _ _ (by decide)]; omega
  · rw [fld_ofNat _ _ _ (by decide)]; omega
  · exact bits_eq _ _ _ (by decide) (by omega)
  · exact bits_eq _ _ _ (by decide) (by omega)
  · exact bits_eq _ _ _ (by decide) (by omega)
  · exact bits_eq _ _ _ (by decide) (by omega)

theorem read_rput (x : Insn) (d : Reg) (a : Reg) (t : BitVec 6) (i : BitVec 5) (e0 : fld x 26 6 = 34) (e1 : fld x 5 3 = 1)
    (e2 : bits x 20 6 = d) (e3 : bits x 14 6 = a) (e4 : bits x 8 6 = t) (e5 : bits x 0 5 = i) :
    decodeWord x = .ok (.rput d a t i) := by
  simp [decodeWord, decodeFields, decodeMajor22, e0, e1, e2, e3, e4, e5, Instr.wellFormed]
theorem rt_rput (d : Reg) (a : Reg) (t : BitVec 6) (i : BitVec 5) :
    decodeWord (encode (.rput d a t i)) = .ok (.rput d a t i) := by
  have h0 := d.isLt
  have h1 := a.isLt
  have h2 := t.isLt
  have h3 := i.isLt
  have hn : encodeNat (.rput d a t i) = 0x88000020 + d.toNat * 0x100000 + a.toNat * 0x4000 + t.toNat * 0x100 + i.toNat := rfl
  unfold encode
  generalize encodeNat (.rput d a t i) = n at hn ⊢
  refine read_rput _ d a t i ?_ ?_ ?_ ?_ ?_ ?_
  · rw [fld_ofNat _ _ _ (by decide)]; omega
  · rw [fld_ofNat _ _ _ (by decide)]; omega
  · exact bits_eq _ _ _ (by decide) (by omega)
  · exact bits_eq _ _ _ (by decide) (by omega)
  · exact bits_eq _ _ _ (by decide) (by omega)
  · exact bits_eq _ _ _ (by decide) (by omega)

theorem read_pclr (x : Insn) (i : BitVec 5) (e0 : fld x 26 6 = 34) (e1 : fld x 5 3 = 2) (e2 : fld x 5 21 = 2) (e3 :
    bits x 0 5 = i) :
    decodeWord x = .ok (.pclr i) := by
  simp [decodeWord, decodeFields, decodeMajor22, e0, e1, e2, e3, Instr.wellFormed]
theorem rt_pclr (i : BitVec 5) : decodeWord (encode (.pclr i)) = .ok (.pclr i) := by
  have h0 := i.isLt
  have hn : encodeNat (.pclr i) = 0x88000040 + i.toNat := rfl
  unfold encode
  generalize encodeNat (.pclr i) = n at hn ⊢
  refine read_pclr _ i ?_ ?_ ?_ ?_
  · rw [fld_ofNat _ _ _ (by decide)]; omega
  · rw [fld_ofNat _ _ _ (by decide)]; omega
  · rw [fld_ofNat _ _ _ (by decide)]; omega
  · exact bits_eq _ _ _ (by decide) (by omega)

theorem read_tagctlEn (x : Insn) (k : BitVec 6) (e0 : fld x 26 6 = 34) (e1 : fld x 5 3 = 3) (e2 : fld x 5 21 ≠ 2) (e3 :
    fld x 14 12 = 0) (e4 : fld x 0 8 = 96) (e5 : bits x 8 6 = k) :
    decodeWord x = .ok (.tagctlEn k) := by
  simp [decodeWord, decodeFields, decodeMajor22, e0, e1, e2, e3, e4, e5, Instr.wellFormed]
theorem rt_tagctlEn (k : BitVec 6) : decodeWord (encode (.tagctlEn k)) = .ok (.tagctlEn k) := by
  have h0 := k.isLt
  have hn : encodeNat (.tagctlEn k) = 0x88000060 + k.toNat * 0x100 := rfl
  unfold encode
  generalize encodeNat (.tagctlEn k) = n at hn ⊢
  refine read_tagctlEn _ k ?_ ?_ ?_ ?_ ?_ ?_
  · rw [fld_ofNat _ _ _ (by decide)]; omega
  · rw [fld_ofNat _ _ _ (by decide)]; omega
  · rw [fld_ofNat _ _ _ (by decide)]; omega
  · rw [fld_ofNat _ _ _ (by decide)]; omega
  · rw [fld_ofNat _ _ _ (by decide)]; omega
  · exact bits_eq _ _ _ (by decide) (by omega)

theorem read_tagctlDis (x : Insn) (k : BitVec 6) (e0 : fld x 26 6 = 34) (e1 : fld x 5 3 = 3) (e2 : fld x 5 21 ≠ 2) (e3 :
    fld x 0 8 = 97) (e4 : fld x 14 12 = 0) (e5 : bits x 8 6 = k) :
    decodeWord x = .ok (.tagctlDis k) := by
  simp [decodeWord, decodeFields, decodeMajor22, e0, e1, e2, e3, e4, e5, Instr.wellFormed]
theorem rt_tagctlDis (k : BitVec 6) : decodeWord (encode (.tagctlDis k)) = .ok (.tagctlDis k) := by
  have h0 := k.isLt
  have hn : encodeNat (.tagctlDis k) = 0x88000061 + k.toNat * 0x100 := rfl
  unfold encode
  generalize encodeNat (.tagctlDis k) = n at hn ⊢
  refine read_tagctlDis _ k ?_ ?_ ?_ ?_ ?_ ?_
  · rw [fld_ofNat _ _ _ (by decide)]; omega
  · rw [fld_ofNat _ _ _ (by decide)]; omega
  · rw [fld_ofNat _ _ _ (by decide)]; omega
  · rw [fld_ofNat _ _ _ (by decide)]; omega
  · rw [fld_ofNat _ _ _ (by decide)]; omega
  · exact bits_eq _ _ _ (by decide) (by omega)

theorem read_tagctlPrio (x : Insn) (a : Reg) (k : BitVec 6) (e0 : fld x 26 6 = 34) (e1 : fld x 5 3 = 3) (e2 : fld x 5 21 ≠ 2)
    (e3 : fld x 0 8 = 98) (e4 : fld x 20 6 = 0) (e5 : bits x 14 6 = a) (e6 : bits x 8 6 = k) :
    decodeWord x = .ok (.tagctlPrio a k) := by
  simp [decodeWord, decodeFields, decodeMajor22, e0, e1, e2, e3, e4, e5, e6, Instr.wellFormed]
theorem rt_tagctlPrio (a : Reg) (k : BitVec 6) : decodeWord (encode (.tagctlPrio a k)) = .ok (.tagctlPrio a k) := by
  have h0 := a.isLt
  have h1 := k.isLt
  have hn : encodeNat (.tagctlPrio a k) = 0x88000062 + a.toNat * 0x4000 + k.toNat * 0x100 := rfl
  unfold encode
  generalize encodeNat (.tagctlPrio a k) = n at hn ⊢
  refine read_tagctlPrio _ a k ?_ ?_ ?_ ?_ ?_ ?_ ?_
  · rw [fld_ofNat _ _ _ (by decide)]; omega
  · rw [fld_ofNat _ _ _ (by decide)]; omega
  · rw [fld_ofNat _ _ _ (by decide)]; omega
  · rw [fld_ofNat _ _ _ (by decide)]; omega
  · rw [fld_ofNat _ _ _ (by decide)]; omega
  · exact bits_eq _ _ _ (by decide) (by omega)
  · exact bits_eq _ _ _ (by decide) (by omega)

theorem read_tagctlAddr (x : Insn) (a : Reg) (k : BitVec 6) (e0 : fld x 26 6 = 34) (e1 : fld x 5 3 = 3) (e2 : fld x 5 21 ≠ 2)
    (e3 : fld x 0 8 = 99) (e4 : fld x 20 6 = 0) (e5 : bits x 14 6 = a) (e6 : bits x 8 6 = k) :
    decodeWord x = .ok (.tagctlAddr a k) := by
  simp [decodeWord, decodeFields, decodeMajor22, e0, e1, e2, e3, e4, e5, e6, Instr.wellFormed]
theorem rt_tagctlAddr (a : Reg) (k : BitVec 6) : decodeWord (encode (.tagctlAddr a k)) = .ok (.tagctlAddr a k) := by
  have h0 := a.isLt
  have h1 := k.isLt
  have hn : encodeNat (.tagctlAddr a k) = 0x88000063 + a.toNat * 0x4000 + k.toNat * 0x100 := rfl
  unfold encode
  generalize encodeNat (.tagctlAddr a k) = n at hn ⊢
  refine read_tagctlAddr _ a k ?_ ?_ ?_ ?_ ?_ ?_ ?_
  · rw [fld_ofNat _ _ _ (by decide)]; omega
  · rw [fld_ofNat _ _ _ (by decide)]; omega
  · rw [fld_ofNat _ _ _ (by decide)]; omega
  · rw [fld_ofNat _ _ _ (by decide)]; omega
  · rw [fld_ofNat _ _ _ (by decide)]; omega
  · exact bits_eq _ _ _ (by decide) (by omega)
  · exact bits_eq _ _ _ (by decide) (by omega)

theorem read_tagctlMode (x : Insn) (a : Reg) (k : BitVec 6) (e0 : fld x 26 6 = 34) (e1 : fld x 5 3 = 3) (e2 : fld x 5 21 ≠ 2)
    (e3 : fld x 0 8 = 100) (e4 : fld x 20 6 = 0) (e5 : bits x 14 6 = a) (e6 : bits x 8 6 = k) :
    decodeWord x = .ok (.tagctlMode a k) := by
  simp [decodeWord, decodeFields, decodeMajor22, e0, e1, e2, e3, e4, e5, e6, Instr.wellFormed]
theorem rt_tagctlMode (a : Reg) (k : BitVec 6) : decodeWord (encode (.tagctlMode a k)) = .ok (.tagctlMode a k) := by
  have h0 := a.isLt
  have h1 := k.isLt
  have hn : encodeNat (.tagctlMode a k) = 0x88000064 + a.toNat * 0x4000 + k.toNat * 0x100 := rfl
  unfold encode
  generalize encodeNat (.tagctlMode a k) = n at hn ⊢
  refine read_tagctlMode _ a k ?_ ?_ ?_ ?_ ?_ ?_ ?_
  · rw [fld_ofNat _ _ _ (by decide)]; omega
  · rw [fld_ofNat _ _ _ (by decide)]; omega
  · rw [fld_ofNat _ _ _ (by decide)]; omega
  · rw [fld_ofNat _ _ _ (by decide)]; omega
  · rw [fld_ofNat _ _ _ (by decide)]; omega
  · exact bits_eq _ _ _ (by decide) (by omega)
  · exact bits_eq _ _ _ (by decide) (by omega)

theorem read_tagctlGate (x : Insn) (g : BitVec 2) (a : Reg) (k : BitVec 6) (e0 : fld x 26 6 = 34) (e1 : fld x 5 3 = 3) (e2 :
    fld x 5 21 ≠ 2) (e3 : fld x 0 8 = 101) (e4 : fld x 22 4 = 0) (e5 : bits x 20 2 = g) (e6 : bits x 14 6 = a) (e7 :
    bits x 8 6 = k) :
    decodeWord x = .ok (.tagctlGate g a k) := by
  simp [decodeWord, decodeFields, decodeMajor22, e0, e1, e2, e3, e4, e5, e6, e7, Instr.wellFormed]
theorem rt_tagctlGate (g : BitVec 2) (a : Reg) (k : BitVec 6) :
    decodeWord (encode (.tagctlGate g a k)) = .ok (.tagctlGate g a k) := by
  have h0 := g.isLt
  have h1 := a.isLt
  have h2 := k.isLt
  have hn : encodeNat (.tagctlGate g a k) = 0x88000065 + g.toNat * 0x100000 + a.toNat * 0x4000 + k.toNat * 0x100 := rfl
  unfold encode
  generalize encodeNat (.tagctlGate g a k) = n at hn ⊢
  refine read_tagctlGate _ g a k ?_ ?_ ?_ ?_ ?_ ?_ ?_ ?_
  · rw [fld_ofNat _ _ _ (by decide)]; omega
  · rw [fld_ofNat _ _ _ (by decide)]; omega
  · rw [fld_ofNat _ _ _ (by decide)]; omega
  · rw [fld_ofNat _ _ _ (by decide)]; omega
  · rw [fld_ofNat _ _ _ (by decide)]; omega
  · exact bits_eq _ _ _ (by decide) (by omega)
  · exact bits_eq _ _ _ (by decide) (by omega)
  · exact bits_eq _ _ _ (by decide) (by omega)

theorem read_tagctlCap (x : Insn) (g : BitVec 2) (a : Reg) (k : BitVec 6) (e0 : fld x 26 6 = 34) (e1 : fld x 5 3 = 3) (e2 :
    fld x 5 21 ≠ 2) (e3 : fld x 0 8 = 102) (e4 : fld x 22 4 = 0) (e5 : bits x 20 2 = g) (e6 : bits x 14 6 = a) (e7 :
    bits x 8 6 = k) :
    decodeWord x = .ok (.tagctlCap g a k) := by
  simp [decodeWord, decodeFields, decodeMajor22, e0, e1, e2, e3, e4, e5, e6, e7, Instr.wellFormed]
theorem rt_tagctlCap (g : BitVec 2) (a : Reg) (k : BitVec 6) :
    decodeWord (encode (.tagctlCap g a k)) = .ok (.tagctlCap g a k) := by
  have h0 := g.isLt
  have h1 := a.isLt
  have h2 := k.isLt
  have hn : encodeNat (.tagctlCap g a k) = 0x88000066 + g.toNat * 0x100000 + a.toNat * 0x4000 + k.toNat * 0x100 := rfl
  unfold encode
  generalize encodeNat (.tagctlCap g a k) = n at hn ⊢
  refine read_tagctlCap _ g a k ?_ ?_ ?_ ?_ ?_ ?_ ?_ ?_
  · rw [fld_ofNat _ _ _ (by decide)]; omega
  · rw [fld_ofNat _ _ _ (by decide)]; omega
  · rw [fld_ofNat _ _ _ (by decide)]; omega
  · rw [fld_ofNat _ _ _ (by decide)]; omega
  · rw [fld_ofNat _ _ _ (by decide)]; omega
  · exact bits_eq _ _ _ (by decide) (by omega)
  · exact bits_eq _ _ _ (by decide) (by omega)
  · exact bits_eq _ _ _ (by decide) (by omega)

theorem read_tagctlStat (x : Insn) (d : Reg) (k : BitVec 6) (e0 : fld x 26 6 = 34) (e1 : fld x 5 3 = 3) (e2 : fld x 5 21 ≠ 2)
    (e3 : fld x 0 8 = 103) (e4 : fld x 14 6 = 0) (e5 : bits x 20 6 = d) (e6 : bits x 8 6 = k) :
    decodeWord x = .ok (.tagctlStat d k) := by
  simp [decodeWord, decodeFields, decodeMajor22, e0, e1, e2, e3, e4, e5, e6, Instr.wellFormed]
theorem rt_tagctlStat (d : Reg) (k : BitVec 6) : decodeWord (encode (.tagctlStat d k)) = .ok (.tagctlStat d k) := by
  have h0 := d.isLt
  have h1 := k.isLt
  have hn : encodeNat (.tagctlStat d k) = 0x88000067 + d.toNat * 0x100000 + k.toNat * 0x100 := rfl
  unfold encode
  generalize encodeNat (.tagctlStat d k) = n at hn ⊢
  refine read_tagctlStat _ d k ?_ ?_ ?_ ?_ ?_ ?_ ?_
  · rw [fld_ofNat _ _ _ (by decide)]; omega
  · rw [fld_ofNat _ _ _ (by decide)]; omega
  · rw [fld_ofNat _ _ _ (by decide)]; omega
  · rw [fld_ofNat _ _ _ (by decide)]; omega
  · rw [fld_ofNat _ _ _ (by decide)]; omega
  · exact bits_eq _ _ _ (by decide) (by omega)
  · exact bits_eq _ _ _ (by decide) (by omega)

theorem read_sbind (x : Insn) (s : SReg) (a : Reg) (b : Reg) (e0 : fld x 26 6 = 35) (e1 : fld x 23 3 = 6) (e2 :
    fld x 0 8 = 0) (e3 : bits x 20 3 = s) (e4 : bits x 14 6 = a) (e5 : bits x 8 6 = b) :
    decodeWord x = .ok (.sbind s a b) := by
  simp [decodeWord, decodeFields, decodeMajor23, e0, e1, e2, e3, e4, e5, Instr.wellFormed]
theorem rt_sbind (s : SReg) (a : Reg) (b : Reg) : decodeWord (encode (.sbind s a b)) = .ok (.sbind s a b) := by
  have h0 := s.isLt
  have h1 := a.isLt
  have h2 := b.isLt
  have hn : encodeNat (.sbind s a b) = 0x8F000000 + s.toNat * 0x100000 + a.toNat * 0x4000 + b.toNat * 0x100 := rfl
  unfold encode
  generalize encodeNat (.sbind s a b) = n at hn ⊢
  refine read_sbind _ s a b ?_ ?_ ?_ ?_ ?_ ?_
  · rw [fld_ofNat _ _ _ (by decide)]; omega
  · rw [fld_ofNat _ _ _ (by decide)]; omega
  · rw [fld_ofNat _ _ _ (by decide)]; omega
  · exact bits_eq _ _ _ (by decide) (by omega)
  · exact bits_eq _ _ _ (by decide) (by omega)
  · exact bits_eq _ _ _ (by decide) (by omega)

theorem read_sunbind (x : Insn) (s : SReg) (e0 : fld x 26 6 = 35) (e1 : fld x 0 8 = 1) (e2 : fld x 23 3 = 6) (e3 :
    fld x 0 20 = 1) (e4 : bits x 20 3 = s) :
    decodeWord x = .ok (.sunbind s) := by
  simp [decodeWord, decodeFields, decodeMajor23, e0, e1, e2, e3, e4, Instr.wellFormed]
theorem rt_sunbind (s : SReg) : decodeWord (encode (.sunbind s)) = .ok (.sunbind s) := by
  have h0 := s.isLt
  have hn : encodeNat (.sunbind s) = 0x8F000001 + s.toNat * 0x100000 := rfl
  unfold encode
  generalize encodeNat (.sunbind s) = n at hn ⊢
  refine read_sunbind _ s ?_ ?_ ?_ ?_ ?_
  · rw [fld_ofNat _ _ _ (by decide)]; omega
  · rw [fld_ofNat _ _ _ (by decide)]; omega
  · rw [fld_ofNat _ _ _ (by decide)]; omega
  · rw [fld_ofNat _ _ _ (by decide)]; omega
  · exact bits_eq _ _ _ (by decide) (by omega)

theorem read_sstat (x : Insn) (d : Reg) (s : SReg) (e0 : fld x 26 6 = 35) (e1 : fld x 0 8 = 2) (e2 : fld x 0 20 ≠ 1) (e3 :
    fld x 17 3 = 6) (e4 : fld x 0 14 = 2) (e5 : bits x 20 6 = d) (e6 : bits x 14 3 = s) :
    decodeWord x = .ok (.sstat d s) := by
  simp [decodeWord, decodeFields, decodeMajor23, e0, e1, e2, e3, e4, e5, e6, Instr.wellFormed]
theorem rt_sstat (d : Reg) (s : SReg) : decodeWord (encode (.sstat d s)) = .ok (.sstat d s) := by
  have h0 := d.isLt
  have h1 := s.isLt
  have hn : encodeNat (.sstat d s) = 0x8C0C0002 + d.toNat * 0x100000 + s.toNat * 0x4000 := rfl
  unfold encode
  generalize encodeNat (.sstat d s) = n at hn ⊢
  refine read_sstat _ d s ?_ ?_ ?_ ?_ ?_ ?_ ?_
  · rw [fld_ofNat _ _ _ (by decide)]; omega
  · rw [fld_ofNat _ _ _ (by decide)]; omega
  · rw [fld_ofNat _ _ _ (by decide)]; omega
  · rw [fld_ofNat _ _ _ (by decide)]; omega
  · rw [fld_ofNat _ _ _ (by decide)]; omega
  · exact bits_eq _ _ _ (by decide) (by omega)
  · exact bits_eq _ _ _ (by decide) (by omega)

theorem read_siph (x : Insn) (d : Reg) (a : Reg) (b : Reg) (h : BitVec 6) (e0 : fld x 26 6 = 36) (e1 : fld x 6 2 = 0) (e2 :
    bits x 20 6 = d) (e3 : bits x 14 6 = a) (e4 : bits x 8 6 = b) (e5 : bits x 0 6 = h) :
    decodeWord x = .ok (.siph d a b h) := by
  simp [decodeWord, decodeFields, decodeMajor24, e0, e1, e2, e3, e4, e5, Instr.wellFormed]
theorem rt_siph (d : Reg) (a : Reg) (b : Reg) (h : BitVec 6) :
    decodeWord (encode (.siph d a b h)) = .ok (.siph d a b h) := by
  have h0 := d.isLt
  have h1 := a.isLt
  have h2 := b.isLt
  have h3 := h.isLt
  have hn : encodeNat (.siph d a b h) = 0x90000000 + d.toNat * 0x100000 + a.toNat * 0x4000 + b.toNat * 0x100 + h.toNat := rfl
  unfold encode
  generalize encodeNat (.siph d a b h) = n at hn ⊢
  refine read_siph _ d a b h ?_ ?_ ?_ ?_ ?_ ?_
  · rw [fld_ofNat _ _ _ (by decide)]; omega
  · rw [fld_ofNat _ _ _ (by decide)]; omega
  · exact bits_eq _ _ _ (by decide) (by omega)
  · exact bits_eq _ _ _ (by decide) (by omega)
  · exact bits_eq _ _ _ (by decide) (by omega)
  · exact bits_eq _ _ _ (by decide) (by omega)

theorem read_sgath (x : Insn) (d : Reg) (a : Reg) (b : Reg) (h : BitVec 6) (e0 : fld x 26 6 = 36) (e1 : fld x 6 2 = 1) (e2 :
    bits x 20 6 = d) (e3 : bits x 14 6 = a) (e4 : bits x 8 6 = b) (e5 : bits x 0 6 = h) :
    decodeWord x = .ok (.sgath d a b h) := by
  simp [decodeWord, decodeFields, decodeMajor24, e0, e1, e2, e3, e4, e5, Instr.wellFormed]
theorem rt_sgath (d : Reg) (a : Reg) (b : Reg) (h : BitVec 6) :
    decodeWord (encode (.sgath d a b h)) = .ok (.sgath d a b h) := by
  have h0 := d.isLt
  have h1 := a.isLt
  have h2 := b.isLt
  have h3 := h.isLt
  have hn :
      encodeNat (.sgath d a b h) = 0x90000040 + d.toNat * 0x100000 + a.toNat * 0x4000 + b.toNat * 0x100 + h.toNat := rfl
  unfold encode
  generalize encodeNat (.sgath d a b h) = n at hn ⊢
  refine read_sgath _ d a b h ?_ ?_ ?_ ?_ ?_ ?_
  · rw [fld_ofNat _ _ _ (by decide)]; omega
  · rw [fld_ofNat _ _ _ (by decide)]; omega
  · exact bits_eq _ _ _ (by decide) (by omega)
  · exact bits_eq _ _ _ (by decide) (by omega)
  · exact bits_eq _ _ _ (by decide) (by omega)
  · exact bits_eq _ _ _ (by decide) (by omega)

theorem read_scfg (x : Insn) (a : Reg) (h : BitVec 6) (e0 : fld x 26 6 = 36) (e1 : fld x 6 2 = 2) (e2 : fld x 20 6 = 0) (e3 :
    fld x 6 8 = 2) (e4 : bits x 14 6 = a) (e5 : bits x 0 6 = h) :
    decodeWord x = .ok (.scfg a h) := by
  simp [decodeWord, decodeFields, decodeMajor24, e0, e1, e2, e3, e4, e5, Instr.wellFormed]
theorem rt_scfg (a : Reg) (h : BitVec 6) : decodeWord (encode (.scfg a h)) = .ok (.scfg a h) := by
  have h0 := a.isLt
  have h1 := h.isLt
  have hn : encodeNat (.scfg a h) = 0x90000080 + a.toNat * 0x4000 + h.toNat := rfl
  unfold encode
  generalize encodeNat (.scfg a h) = n at hn ⊢
  refine read_scfg _ a h ?_ ?_ ?_ ?_ ?_ ?_
  · rw [fld_ofNat _ _ _ (by decide)]; omega
  · rw [fld_ofNat _ _ _ (by decide)]; omega
  · rw [fld_ofNat _ _ _ (by decide)]; omega
  · rw [fld_ofNat _ _ _ (by decide)]; omega
  · exact bits_eq _ _ _ (by decide) (by omega)
  · exact bits_eq _ _ _ (by decide) (by omega)

theorem read_swmr (x : Insn) (d : Reg) (s : SwmrSel) (h : BitVec 6) (e0 : fld x 26 6 = 36) (e1 : fld x 6 2 = 3) (e2 :
    fld x 6 8 ≠ 2) (e3 : fld x 14 6 = 0) (e4 : bits x 20 6 = d) (e5 : fld x 8 6 = s.code) (e6 : bits x 0 6 = h) :
    decodeWord x = .ok (.swmr d s h) := by
  simp [decodeWord, decodeFields, decodeMajor24, e0, e1, e2, e3, e4, e5, e6, SwmrSel.ofCode_code, Instr.wellFormed]
theorem rt_swmr (d : Reg) (s : SwmrSel) (h : BitVec 6) : decodeWord (encode (.swmr d s h)) = .ok (.swmr d s h) := by
  have h0 := d.isLt
  have h1 := SwmrSel.code_lt s
  have h2 := h.isLt
  have hn : encodeNat (.swmr d s h) = 0x900000C0 + d.toNat * 0x100000 + s.code * 0x100 + h.toNat := rfl
  unfold encode
  generalize encodeNat (.swmr d s h) = n at hn ⊢
  refine read_swmr _ d s h ?_ ?_ ?_ ?_ ?_ ?_ ?_
  · rw [fld_ofNat _ _ _ (by decide)]; omega
  · rw [fld_ofNat _ _ _ (by decide)]; omega
  · rw [fld_ofNat _ _ _ (by decide)]; omega
  · rw [fld_ofNat _ _ _ (by decide)]; omega
  · exact bits_eq _ _ _ (by decide) (by omega)
  · rw [fld_ofNat _ _ _ (by decide)]; omega
  · exact bits_eq _ _ _ (by decide) (by omega)

theorem read_barm (x : Insn) (a : Reg) (b : Reg) (e0 : fld x 26 6 = 37) (e1 : fld x 20 6 = 0) (e2 : fld x 0 8 = 0) (e3 :
    bits x 14 6 = a) (e4 : bits x 8 6 = b) :
    decodeWord x = .ok (.barm a b) := by
  simp [decodeWord, decodeFields, decodeMajor25, e0, e1, e2, e3, e4, Instr.wellFormed]
theorem rt_barm (a : Reg) (b : Reg) : decodeWord (encode (.barm a b)) = .ok (.barm a b) := by
  have h0 := a.isLt
  have h1 := b.isLt
  have hn : encodeNat (.barm a b) = 0x94000000 + a.toNat * 0x4000 + b.toNat * 0x100 := rfl
  unfold encode
  generalize encodeNat (.barm a b) = n at hn ⊢
  refine read_barm _ a b ?_ ?_ ?_ ?_ ?_
  · rw [fld_ofNat _ _ _ (by decide)]; omega
  · rw [fld_ofNat _ _ _ (by decide)]; omega
  · rw [fld_ofNat _ _ _ (by decide)]; omega
  · exact bits_eq _ _ _ (by decide) (by omega)
  · exact bits_eq _ _ _ (by decide) (by omega)

theorem read_barb (x : Insn) (a : Reg) (b : Reg) (e0 : fld x 26 6 = 37) (e1 : fld x 0 8 = 1) (e2 : fld x 20 6 = 0) (e3 :
    bits x 14 6 = a) (e4 : bits x 8 6 = b) :
    decodeWord x = .ok (.barb a b) := by
  simp [decodeWord, decodeFields, decodeMajor25, e0, e1, e2, e3, e4, Instr.wellFormed]
theorem rt_barb (a : Reg) (b : Reg) : decodeWord (encode (.barb a b)) = .ok (.barb a b) := by
  have h0 := a.isLt
  have h1 := b.isLt
  have hn : encodeNat (.barb a b) = 0x94000001 + a.toNat * 0x4000 + b.toNat * 0x100 := rfl
  unfold encode
  generalize encodeNat (.barb a b) = n at hn ⊢
  refine read_barb _ a b ?_ ?_ ?_ ?_ ?_
  · rw [fld_ofNat _ _ _ (by decide)]; omega
  · rw [fld_ofNat _ _ _ (by decide)]; omega
  · rw [fld_ofNat _ _ _ (by decide)]; omega
  · exact bits_eq _ _ _ (by decide) (by omega)
  · exact bits_eq _ _ _ (by decide) (by omega)

theorem read_barr (x : Insn) (d : Reg) (a : Reg) (e0 : fld x 26 6 = 37) (e1 : fld x 0 8 = 2) (e2 : fld x 0 14 = 2) (e3 :
    bits x 20 6 = d) (e4 : bits x 14 6 = a) :
    decodeWord x = .ok (.barr d a) := by
  simp [decodeWord, decodeFields, decodeMajor25, e0, e1, e2, e3, e4, Instr.wellFormed]
theorem rt_barr (d : Reg) (a : Reg) : decodeWord (encode (.barr d a)) = .ok (.barr d a) := by
  have h0 := d.isLt
  have h1 := a.isLt
  have hn : encodeNat (.barr d a) = 0x94000002 + d.toNat * 0x100000 + a.toNat * 0x4000 := rfl
  unfold encode
  generalize encodeNat (.barr d a) = n at hn ⊢
  refine read_barr _ d a ?_ ?_ ?_ ?_ ?_
  · rw [fld_ofNat _ _ _ (by decide)]; omega
  · rw [fld_ofNat _ _ _ (by decide)]; omega
  · rw [fld_ofNat _ _ _ (by decide)]; omega
  · exact bits_eq _ _ _ (by decide) (by omega)
  · exact bits_eq _ _ _ (by decide) (by omega)

theorem read_bwait (x : Insn) (d : Reg) (a : Reg) (b : Reg) (e0 : fld x 26 6 = 37) (e1 : fld x 0 8 = 3) (e2 : fld x 0 14 ≠ 2)
    (e3 : bits x 20 6 = d) (e4 : bits x 14 6 = a) (e5 : bits x 8 6 = b) :
    decodeWord x = .ok (.bwait d a b) := by
  simp [decodeWord, decodeFields, decodeMajor25, e0, e1, e2, e3, e4, e5, Instr.wellFormed]
theorem rt_bwait (d : Reg) (a : Reg) (b : Reg) : decodeWord (encode (.bwait d a b)) = .ok (.bwait d a b) := by
  have h0 := d.isLt
  have h1 := a.isLt
  have h2 := b.isLt
  have hn : encodeNat (.bwait d a b) = 0x94000003 + d.toNat * 0x100000 + a.toNat * 0x4000 + b.toNat * 0x100 := rfl
  unfold encode
  generalize encodeNat (.bwait d a b) = n at hn ⊢
  refine read_bwait _ d a b ?_ ?_ ?_ ?_ ?_ ?_
  · rw [fld_ofNat _ _ _ (by decide)]; omega
  · rw [fld_ofNat _ _ _ (by decide)]; omega
  · rw [fld_ofNat _ _ _ (by decide)]; omega
  · exact bits_eq _ _ _ (by decide) (by omega)
  · exact bits_eq _ _ _ (by decide) (by omega)
  · exact bits_eq _ _ _ (by decide) (by omega)

theorem read_tdset (x : Insn) (t : BitVec 4) (a : Reg) (e0 : fld x 26 6 = 38) (e1 : fld x 24 2 = 0) (e2 : fld x 0 14 = 0)
    (e3 : bits x 20 4 = t) (e4 : bits x 14 6 = a) :
    decodeWord x = .ok (.tdset t a) := by
  simp [decodeWord, decodeFields, decodeMajor26, e0, e1, e2, e3, e4, Instr.wellFormed]
theorem rt_tdset (t : BitVec 4) (a : Reg) : decodeWord (encode (.tdset t a)) = .ok (.tdset t a) := by
  have h0 := t.isLt
  have h1 := a.isLt
  have hn : encodeNat (.tdset t a) = 0x98000000 + t.toNat * 0x100000 + a.toNat * 0x4000 := rfl
  unfold encode
  generalize encodeNat (.tdset t a) = n at hn ⊢
  refine read_tdset _ t a ?_ ?_ ?_ ?_ ?_
  · rw [fld_ofNat _ _ _ (by decide)]; omega
  · rw [fld_ofNat _ _ _ (by decide)]; omega
  · rw [fld_ofNat _ _ _ (by decide)]; omega
  · exact bits_eq _ _ _ (by decide) (by omega)
  · exact bits_eq _ _ _ (by decide) (by omega)

theorem read_tdget (x : Insn) (d : Reg) (t : BitVec 4) (e0 : fld x 26 6 = 38) (e1 : fld x 0 14 ≠ 0) (e2 : fld x 12 8 = 0)
    (e3 : fld x 0 8 = 32) (e4 : bits x 20 6 = d) (e5 : bits x 8 4 = t) :
    decodeWord x = .ok (.tdget d t) := by
  simp [decodeWord, decodeFields, decodeMajor26, e0, e1, e2, e3, e4, e5, Instr.wellFormed]
theorem rt_tdget (d : Reg) (t : BitVec 4) : decodeWord (encode (.tdget d t)) = .ok (.tdget d t) := by
  have h0 := d.isLt
  have h1 := t.isLt
  have hn : encodeNat (.tdget d t) = 0x98000020 + d.toNat * 0x100000 + t.toNat * 0x100 := rfl
  unfold encode
  generalize encodeNat (.tdget d t) = n at hn ⊢
  refine read_tdget _ d t ?_ ?_ ?_ ?_ ?_ ?_
  · rw [fld_ofNat _ _ _ (by decide)]; omega
  · rw [fld_ofNat _ _ _ (by decide)]; omega
  · rw [fld_ofNat _ _ _ (by decide)]; omega
  · rw [fld_ofNat _ _ _ (by decide)]; omega
  · exact bits_eq _ _ _ (by decide) (by omega)
  · exact bits_eq _ _ _ (by decide) (by omega)

theorem read_tdgetSt (x : Insn) (d : Reg) (t : BitVec 4) (e0 : fld x 26 6 = 38) (e1 : fld x 0 14 ≠ 0) (e2 : fld x 0 8 = 33)
    (e3 : fld x 12 8 = 0) (e4 : bits x 20 6 = d) (e5 : bits x 8 4 = t) :
    decodeWord x = .ok (.tdgetSt d t) := by
  simp [decodeWord, decodeFields, decodeMajor26, e0, e1, e2, e3, e4, e5, Instr.wellFormed]
theorem rt_tdgetSt (d : Reg) (t : BitVec 4) : decodeWord (encode (.tdgetSt d t)) = .ok (.tdgetSt d t) := by
  have h0 := d.isLt
  have h1 := t.isLt
  have hn : encodeNat (.tdgetSt d t) = 0x98000021 + d.toNat * 0x100000 + t.toNat * 0x100 := rfl
  unfold encode
  generalize encodeNat (.tdgetSt d t) = n at hn ⊢
  refine read_tdgetSt _ d t ?_ ?_ ?_ ?_ ?_ ?_
  · rw [fld_ofNat _ _ _ (by decide)]; omega
  · rw [fld_ofNat _ _ _ (by decide)]; omega
  · rw [fld_ofNat _ _ _ (by decide)]; omega
  · rw [fld_ofNat _ _ _ (by decide)]; omega
  · exact bits_eq _ _ _ (by decide) (by omega)
  · exact bits_eq _ _ _ (by decide) (by omega)

theorem read_tdgetAcc (x : Insn) (d : Reg) (t : BitVec 3) (e0 : fld x 26 6 = 38) (e1 : fld x 0 14 ≠ 0) (e2 : fld x 0 8 = 34)
    (e3 : fld x 11 9 = 0) (e4 : bits x 20 6 = d) (e5 : bits x 8 3 = t) :
    decodeWord x = .ok (.tdgetAcc d t) := by
  simp [decodeWord, decodeFields, decodeMajor26, e0, e1, e2, e3, e4, e5, Instr.wellFormed]
theorem rt_tdgetAcc (d : Reg) (t : BitVec 3) : decodeWord (encode (.tdgetAcc d t)) = .ok (.tdgetAcc d t) := by
  have h0 := d.isLt
  have h1 := t.isLt
  have hn : encodeNat (.tdgetAcc d t) = 0x98000022 + d.toNat * 0x100000 + t.toNat * 0x100 := rfl
  unfold encode
  generalize encodeNat (.tdgetAcc d t) = n at hn ⊢
  refine read_tdgetAcc _ d t ?_ ?_ ?_ ?_ ?_ ?_
  · rw [fld_ofNat _ _ _ (by decide)]; omega
  · rw [fld_ofNat _ _ _ (by decide)]; omega
  · rw [fld_ofNat _ _ _ (by decide)]; omega
  · rw [fld_ofNat _ _ _ (by decide)]; omega
  · exact bits_eq _ _ _ (by decide) (by omega)
  · exact bits_eq _ _ _ (by decide) (by omega)

theorem read_mma (x : Insn) (c : BitVec 3) (a : BitVec 4) (b : BitVec 4) (i : Bool) (e0 : fld x 26 6 = 38) (e1 :
    fld x 0 14 ≠ 0) (e2 : fld x 0 8 ≠ 32) (e3 : fld x 0 8 ≠ 33) (e4 : fld x 0 8 ≠ 34) (e5 : fld x 23 3 = 0) (e6 :
    fld x 18 2 = 0) (e7 : fld x 12 2 = 0) (e8 : fld x 5 3 = 2) (e9 : fld x 0 4 = 0) (e10 : bits x 20 3 = c) (e11 :
    bits x 14 4 = a) (e12 : bits x 8 4 = b) (e13 : bit x 4 = i) :
    decodeWord x = .ok (.mma c a b i) := by
  simp [decodeWord, decodeFields, decodeMajor26, e0, e1, e2, e3, e4, e5, e6, e7, e8, e9, e10, e11, e12, e13, Instr.wellFormed]
theorem rt_mma (c : BitVec 3) (a : BitVec 4) (b : BitVec 4) (i : Bool) :
    decodeWord (encode (.mma c a b i)) = .ok (.mma c a b i) := by
  have h0 := c.isLt
  have h1 := a.isLt
  have h2 := b.isLt
  have h3 := b2n_lt i
  have hn :
      encodeNat (.mma c a b i) = 0x98000040 + c.toNat * 0x100000 + a.toNat * 0x4000 + b.toNat * 0x100 + b2n i * 0x10 := rfl
  unfold encode
  generalize encodeNat (.mma c a b i) = n at hn ⊢
  refine read_mma _ c a b i ?_ ?_ ?_ ?_ ?_ ?_ ?_ ?_ ?_ ?_ ?_ ?_ ?_ ?_
  · rw [fld_ofNat _ _ _ (by decide)]; omega
  · rw [fld_ofNat _ _ _ (by decide)]; omega
  · rw [fld_ofNat _ _ _ (by decide)]; omega
  · rw [fld_ofNat _ _ _ (by decide)]; omega
  · rw [fld_ofNat _ _ _ (by decide)]; omega
  · rw [fld_ofNat _ _ _ (by decide)]; omega
  · rw [fld_ofNat _ _ _ (by decide)]; omega
  · rw [fld_ofNat _ _ _ (by decide)]; omega
  · rw [fld_ofNat _ _ _ (by decide)]; omega
  · rw [fld_ofNat _ _ _ (by decide)]; omega
  · exact bits_eq _ _ _ (by decide) (by omega)
  · exact bits_eq _ _ _ (by decide) (by omega)
  · exact bits_eq _ _ _ (by decide) (by omega)
  · exact bit_eq _ _ _ (by decide) (by omega)

theorem read_macz (x : Insn) (c : BitVec 3) (k : AccKind) (e0 : fld x 26 6 = 38) (e1 : fld x 0 14 ≠ 0) (e2 : fld x 0 8 ≠ 32)
    (e3 : fld x 0 8 ≠ 33) (e4 : fld x 0 8 ≠ 34) (e5 : fld x 5 3 = 3) (e6 : fld x 23 3 = 0) (e7 : fld x 2 18 = 24) (e8 :
    bits x 20 3 = c) (e9 : fld x 0 2 = k.code) :
    decodeWord x = .ok (.macz c k) := by
  simp [decodeWord, decodeFields, decodeMajor26, e0, e1, e2, e3, e4, e5, e6, e7, e8, e9, AccKind.ofCode_code, Instr.wellFormed]
theorem rt_macz (c : BitVec 3) (k : AccKind) : decodeWord (encode (.macz c k)) = .ok (.macz c k) := by
  have h0 := c.isLt
  have h1 := AccKind.code_lt k
  have hn : encodeNat (.macz c k) = 0x98000060 + c.toNat * 0x100000 + k.code := rfl
  unfold encode
  generalize encodeNat (.macz c k) = n at hn ⊢
  refine read_macz _ c k ?_ ?_ ?_ ?_ ?_ ?_ ?_ ?_ ?_ ?_
  · rw [fld_ofNat _ _ _ (by decide)]; omega
  · rw [fld_ofNat _ _ _ (by decide)]; omega
  · rw [fld_ofNat _ _ _ (by decide)]; omega
  · rw [fld_ofNat _ _ _ (by decide)]; omega
  · rw [fld_ofNat _ _ _ (by decide)]; omega
  · rw [fld_ofNat _ _ _ (by decide)]; omega
  · rw [fld_ofNat _ _ _ (by decide)]; omega
  · rw [fld_ofNat _ _ _ (by decide)]; omega
  · exact bits_eq _ _ _ (by decide) (by omega)
  · rw [fld_ofNat _ _ _ (by decide)]; omega

theorem read_macst (x : Insn) (c : BitVec 3) (a : Reg) (b : Reg) (k : AccKind) (e0 : fld x 26 6 = 38) (e1 : fld x 0 14 ≠ 0)
    (e2 : fld x 0 8 ≠ 32) (e3 : fld x 0 8 ≠ 33) (e4 : fld x 0 8 ≠ 34) (e5 : fld x 5 3 = 4) (e6 : fld x 2 18 ≠ 24) (e7 :
    fld x 23 3 = 0) (e8 : fld x 2 6 = 32) (e9 : bits x 20 3 = c) (e10 : bits x 14 6 = a) (e11 : bits x 8 6 = b) (e12 :
    fld x 0 2 = k.code) :
    decodeWord x = .ok (.macst c a b k) := by
  simp [decodeWord, decodeFields, decodeMajor26, e0, e1, e2, e3, e4, e5, e6, e7, e8, e9, e10, e11, e12, AccKind.ofCode_code, Instr.wellFormed]
theorem rt_macst (c : BitVec 3) (a : Reg) (b : Reg) (k : AccKind) :
    decodeWord (encode (.macst c a b k)) = .ok (.macst c a b k) := by
  have h0 := c.isLt
  have h1 := a.isLt
  have h2 := b.isLt
  have h3 := AccKind.code_lt k
  have hn : encodeNat (.macst c a b k) = 0x98000080 + c.toNat * 0x100000 + a.toNat * 0x4000 + b.toNat * 0x100 + k.code := rfl
  unfold encode
  generalize encodeNat (.macst c a b k) = n at hn ⊢
  refine read_macst _ c a b k ?_ ?_ ?_ ?_ ?_ ?_ ?_ ?_ ?_ ?_ ?_ ?_ ?_
  · rw [fld_ofNat _ _ _ (by decide)]; omega
  · rw [fld_ofNat _ _ _ (by decide)]; omega
  · rw [fld_ofNat _ _ _ (by decide)]; omega
  · rw [fld_ofNat _ _ _ (by decide)]; omega
  · rw [fld_ofNat _ _ _ (by decide)]; omega
  · rw [fld_ofNat _ _ _ (by decide)]; omega
  · rw [fld_ofNat _ _ _ (by decide)]; omega
  · rw [fld_ofNat _ _ _ (by decide)]; omega
  · rw [fld_ofNat _ _ _ (by decide)]; omega
  · exact bits_eq _ _ _ (by decide) (by omega)
  · exact bits_eq _ _ _ (by decide) (by omega)
  · exact bits_eq _ _ _ (by decide) (by omega)
  · rw [fld_ofNat _ _ _ (by decide)]; omega

theorem read_locqWhere (x : Insn) (d : Reg) (a : Reg) (e0 : fld x 26 6 = 39) (e1 : fld x 0 14 = 0) (e2 : bits x 20 6 = d)
    (e3 : bits x 14 6 = a) :
    decodeWord x = .ok (.locqWhere d a) := by
  simp [decodeWord, decodeFields, decodeMajor27, e0, e1, e2, e3, Instr.wellFormed]
theorem rt_locqWhere (d : Reg) (a : Reg) : decodeWord (encode (.locqWhere d a)) = .ok (.locqWhere d a) := by
  have h0 := d.isLt
  have h1 := a.isLt
  have hn : encodeNat (.locqWhere d a) = 0x9C000000 + d.toNat * 0x100000 + a.toNat * 0x4000 := rfl
  unfold encode
  generalize encodeNat (.locqWhere d a) = n at hn ⊢
  refine read_locqWhere _ d a ?_ ?_ ?_ ?_
  · rw [fld_ofNat _ _ _ (by decide)]; omega
  · rw [fld_ofNat _ _ _ (by decide)]; omega
  · exact bits_eq _ _ _ (by decide) (by omega)
  · exact bits_eq _ _ _ (by decide) (by omega)

theorem read_locqEpoch (x : Insn) (d : Reg) (e0 : fld x 26 6 = 39) (e1 : fld x 0 14 = 1) (e2 : fld x 0 20 = 1) (e3 :
    bits x 20 6 = d) :
    decodeWord x = .ok (.locqEpoch d) := by
  simp [decodeWord, decodeFields, decodeMajor27, e0, e1, e2, e3, Instr.wellFormed]
theorem rt_locqEpoch (d : Reg) : decodeWord (encode (.locqEpoch d)) = .ok (.locqEpoch d) := by
  have h0 := d.isLt
  have hn : encodeNat (.locqEpoch d) = 0x9C000001 + d.toNat * 0x100000 := rfl
  unfold encode
  generalize encodeNat (.locqEpoch d) = n at hn ⊢
  refine read_locqEpoch _ d ?_ ?_ ?_ ?_
  · rw [fld_ofNat _ _ _ (by decide)]; omega
  · rw [fld_ofNat _ _ _ (by decide)]; omega
  · rw [fld_ofNat _ _ _ (by decide)]; omega
  · exact bits_eq _ _ _ (by decide) (by omega)

theorem read_locqHops (x : Insn) (d : Reg) (a : Reg) (e0 : fld x 26 6 = 39) (e1 : fld x 0 14 = 2) (e2 : fld x 0 20 ≠ 1) (e3 :
    bits x 20 6 = d) (e4 : bits x 14 6 = a) :
    decodeWord x = .ok (.locqHops d a) := by
  simp [decodeWord, decodeFields, decodeMajor27, e0, e1, e2, e3, e4, Instr.wellFormed]
theorem rt_locqHops (d : Reg) (a : Reg) : decodeWord (encode (.locqHops d a)) = .ok (.locqHops d a) := by
  have h0 := d.isLt
  have h1 := a.isLt
  have hn : encodeNat (.locqHops d a) = 0x9C000002 + d.toNat * 0x100000 + a.toNat * 0x4000 := rfl
  unfold encode
  generalize encodeNat (.locqHops d a) = n at hn ⊢
  refine read_locqHops _ d a ?_ ?_ ?_ ?_ ?_
  · rw [fld_ofNat _ _ _ (by decide)]; omega
  · rw [fld_ofNat _ _ _ (by decide)]; omega
  · rw [fld_ofNat _ _ _ (by decide)]; omega
  · exact bits_eq _ _ _ (by decide) (by omega)
  · exact bits_eq _ _ _ (by decide) (by omega)

theorem read_scpset (x : Insn) (a : Reg) (i : BitVec 6) (h : Instr.wellFormed (.scpset a i) = true) (e0 : fld x 26 6 = 40)
    (e1 : fld x 20 6 = 0) (e2 : fld x 0 8 = 0) (e3 : bits x 14 6 = a) (e4 : bits x 8 6 = i) :
    decodeWord x = .ok (.scpset a i) := by
  simp [decodeWord, decodeFields, decodeMajor28, e0, e1, e2, e3, e4, h]
theorem rt_scpset (a : Reg) (i : BitVec 6) (h : Instr.wellFormed (.scpset a i) = true) :
    decodeWord (encode (.scpset a i)) = .ok (.scpset a i) := by
  have h0 := a.isLt
  have h1 := i.isLt
  have hn : encodeNat (.scpset a i) = 0xA0000000 + a.toNat * 0x4000 + i.toNat * 0x100 := rfl
  unfold encode
  generalize encodeNat (.scpset a i) = n at hn ⊢
  refine read_scpset _ a i h ?_ ?_ ?_ ?_ ?_
  · rw [fld_ofNat _ _ _ (by decide)]; omega
  · rw [fld_ofNat _ _ _ (by decide)]; omega
  · rw [fld_ofNat _ _ _ (by decide)]; omega
  · exact bits_eq _ _ _ (by decide) (by omega)
  · exact bits_eq _ _ _ (by decide) (by omega)

theorem read_scpget (x : Insn) (d : Reg) (i : BitVec 6) (h : Instr.wellFormed (.scpget d i) = true) (e0 : fld x 26 6 = 40)
    (e1 : fld x 0 8 = 1) (e2 : fld x 14 6 = 0) (e3 : bits x 20 6 = d) (e4 : bits x 8 6 = i) :
    decodeWord x = .ok (.scpget d i) := by
  simp [decodeWord, decodeFields, decodeMajor28, e0, e1, e2, e3, e4, h]
theorem rt_scpget (d : Reg) (i : BitVec 6) (h : Instr.wellFormed (.scpget d i) = true) :
    decodeWord (encode (.scpget d i)) = .ok (.scpget d i) := by
  have h0 := d.isLt
  have h1 := i.isLt
  have hn : encodeNat (.scpget d i) = 0xA0000001 + d.toNat * 0x100000 + i.toNat * 0x100 := rfl
  unfold encode
  generalize encodeNat (.scpget d i) = n at hn ⊢
  refine read_scpget _ d i h ?_ ?_ ?_ ?_ ?_
  · rw [fld_ofNat _ _ _ (by decide)]; omega
  · rw [fld_ofNat _ _ _ (by decide)]; omega
  · rw [fld_ofNat _ _ _ (by decide)]; omega
  · exact bits_eq _ _ _ (by decide) (by omega)
  · exact bits_eq _ _ _ (by decide) (by omega)

theorem read_sysr (x : Insn) (d : Reg) (n : SysReg) (h : Instr.wellFormed (.sysr d n) = true) (e0 : fld x 26 6 = 41) (e1 :
    fld x 14 6 = 0) (e2 : fld x 0 8 = 0) (e3 : bits x 20 6 = d) (e4 : fld x 8 6 = n.code) :
    decodeWord x = .ok (.sysr d n) := by
  simp [decodeWord, decodeFields, decodeMajor29, e0, e1, e2, e3, e4, SysReg.ofCode_code, h]
theorem rt_sysr (d : Reg) (n : SysReg) (h : Instr.wellFormed (.sysr d n) = true) :
    decodeWord (encode (.sysr d n)) = .ok (.sysr d n) := by
  have h0 := d.isLt
  have h1 := SysReg.code_lt n
  have hn : encodeNat (.sysr d n) = 0xA4000000 + d.toNat * 0x100000 + n.code * 0x100 := rfl
  unfold encode
  generalize encodeNat (.sysr d n) = n_ at hn ⊢
  refine read_sysr _ d n h ?_ ?_ ?_ ?_ ?_
  · rw [fld_ofNat _ _ _ (by decide)]; omega
  · rw [fld_ofNat _ _ _ (by decide)]; omega
  · rw [fld_ofNat _ _ _ (by decide)]; omega
  · exact bits_eq _ _ _ (by decide) (by omega)
  · rw [fld_ofNat _ _ _ (by decide)]; omega

theorem read_sysw (x : Insn) (a : Reg) (n : SysReg) (h : Instr.wellFormed (.sysw a n) = true) (e0 : fld x 26 6 = 41) (e1 :
    fld x 0 8 = 1) (e2 : fld x 20 6 = 0) (e3 : bits x 14 6 = a) (e4 : fld x 8 6 = n.code) :
    decodeWord x = .ok (.sysw a n) := by
  cases n <;> simp_all [decodeWord, decodeFields, decodeMajor29, Instr.wellFormed, SysReg.writable, SysReg.ofCode, SysReg.code]
theorem rt_sysw (a : Reg) (n : SysReg) (h : Instr.wellFormed (.sysw a n) = true) :
    decodeWord (encode (.sysw a n)) = .ok (.sysw a n) := by
  have h0 := a.isLt
  have h1 := SysReg.code_lt n
  have hn : encodeNat (.sysw a n) = 0xA4000001 + a.toNat * 0x4000 + n.code * 0x100 := rfl
  unfold encode
  generalize encodeNat (.sysw a n) = n_ at hn ⊢
  refine read_sysw _ a n h ?_ ?_ ?_ ?_ ?_
  · rw [fld_ofNat _ _ _ (by decide)]; omega
  · rw [fld_ofNat _ _ _ (by decide)]; omega
  · rw [fld_ofNat _ _ _ (by decide)]; omega
  · exact bits_eq _ _ _ (by decide) (by omega)
  · rw [fld_ofNat _ _ _ (by decide)]; omega

theorem read_syswRttw (x : Insn) (a : Reg) (e0 : fld x 26 6 = 41) (e1 : fld x 0 8 = 1) (e2 : fld x 20 6 = 0) (e3 :
    fld x 8 6 = 17) (e4 : bits x 14 6 = a) :
    decodeWord x = .ok (.syswRttw a) := by
  simp [decodeWord, decodeFields, decodeMajor29, e0, e1, e2, e3, e4, SysReg.ofCode]
theorem rt_syswRttw (a : Reg) : decodeWord (encode (.syswRttw a)) = .ok (.syswRttw a) := by
  have h0 := a.isLt
  have hn : encodeNat (.syswRttw a) = 0xA4001101 + a.toNat * 0x4000 := rfl
  unfold encode
  generalize encodeNat (.syswRttw a) = n at hn ⊢
  refine read_syswRttw _ a ?_ ?_ ?_ ?_ ?_
  · rw [fld_ofNat _ _ _ (by decide)]; omega
  · rw [fld_ofNat _ _ _ (by decide)]; omega
  · rw [fld_ofNat _ _ _ (by decide)]; omega
  · rw [fld_ofNat _ _ _ (by decide)]; omega
  · exact bits_eq _ _ _ (by decide) (by omega)

theorem read_syswTwin (x : Insn) (a : Reg) (e0 : fld x 26 6 = 41) (e1 : fld x 0 8 = 1) (e2 : fld x 20 6 = 0) (e3 :
    fld x 8 6 = 14) (e4 : bits x 14 6 = a) :
    decodeWord x = .ok (.syswTwin a) := by
  simp [decodeWord, decodeFields, decodeMajor29, e0, e1, e2, e3, e4, SysReg.ofCode]
theorem rt_syswTwin (a : Reg) : decodeWord (encode (.syswTwin a)) = .ok (.syswTwin a) := by
  have h0 := a.isLt
  have hn : encodeNat (.syswTwin a) = 0xA4000E01 + a.toNat * 0x4000 := rfl
  unfold encode
  generalize encodeNat (.syswTwin a) = n at hn ⊢
  refine read_syswTwin _ a ?_ ?_ ?_ ?_ ?_
  · rw [fld_ofNat _ _ _ (by decide)]; omega
  · rw [fld_ofNat _ _ _ (by decide)]; omega
  · rw [fld_ofNat _ _ _ (by decide)]; omega
  · rw [fld_ofNat _ _ _ (by decide)]; omega
  · exact bits_eq _ _ _ (by decide) (by omega)

theorem read_syswScpbase (x : Insn) (a : Reg) (e0 : fld x 26 6 = 41) (e1 : fld x 0 8 = 1) (e2 : fld x 20 6 = 0) (e3 :
    fld x 8 6 = 15) (e4 : bits x 14 6 = a) :
    decodeWord x = .ok (.syswScpbase a) := by
  simp [decodeWord, decodeFields, decodeMajor29, e0, e1, e2, e3, e4, SysReg.ofCode]
theorem rt_syswScpbase (a : Reg) : decodeWord (encode (.syswScpbase a)) = .ok (.syswScpbase a) := by
  have h0 := a.isLt
  have hn : encodeNat (.syswScpbase a) = 0xA4000F01 + a.toNat * 0x4000 := rfl
  unfold encode
  generalize encodeNat (.syswScpbase a) = n at hn ⊢
  refine read_syswScpbase _ a ?_ ?_ ?_ ?_ ?_
  · rw [fld_ofNat _ _ _ (by decide)]; omega
  · rw [fld_ofNat _ _ _ (by decide)]; omega
  · rw [fld_ofNat _ _ _ (by decide)]; omega
  · rw [fld_ofNat _ _ _ (by decide)]; omega
  · exact bits_eq _ _ _ (by decide) (by omega)

theorem read_trap (x : Insn) (c : BitVec 12) (e0 : fld x 26 6 = 41) (e1 : fld x 0 8 = 2) (e2 : fld x 0 14 ≠ 4353) (e3 :
    fld x 0 14 ≠ 3585) (e4 : fld x 0 14 ≠ 3841) (e5 : fld x 20 6 = 0) (e6 : bits x 8 12 = c) :
    decodeWord x = .ok (.trap c) := by
  simp [decodeWord, decodeFields, decodeMajor29, e0, e1, e2, e3, e4, e5, e6, Instr.wellFormed]
theorem rt_trap (c : BitVec 12) : decodeWord (encode (.trap c)) = .ok (.trap c) := by
  have h0 := c.isLt
  have hn : encodeNat (.trap c) = 0xA4000002 + c.toNat * 0x100 := rfl
  unfold encode
  generalize encodeNat (.trap c) = n at hn ⊢
  refine read_trap _ c ?_ ?_ ?_ ?_ ?_ ?_ ?_
  · rw [fld_ofNat _ _ _ (by decide)]; omega
  · rw [fld_ofNat _ _ _ (by decide)]; omega
  · rw [fld_ofNat _ _ _ (by decide)]; omega
  · rw [fld_ofNat _ _ _ (by decide)]; omega
  · rw [fld_ofNat _ _ _ (by decide)]; omega
  · rw [fld_ofNat _ _ _ (by decide)]; omega
  · exact bits_eq _ _ _ (by decide) (by omega)

theorem read_eret (x : Insn) (e0 : fld x 26 6 = 41) (e1 : fld x 0 8 = 3) (e2 : fld x 0 14 = 3) (e3 : fld x 0 26 = 3) :
    decodeWord x = .ok (.eret) := by
  simp [decodeWord, decodeFields, decodeMajor29, e0, e1, e2, e3, Instr.wellFormed]
theorem rt_eret : decodeWord (encode (.eret)) = .ok (.eret) := by
  have hn : encodeNat (.eret) = 0xA4000003 := rfl
  unfold encode
  generalize encodeNat (.eret) = n at hn ⊢
  refine read_eret _ ?_ ?_ ?_ ?_
  · rw [fld_ofNat _ _ _ (by decide)]; omega
  · rw [fld_ofNat _ _ _ (by decide)]; omega
  · rw [fld_ofNat _ _ _ (by decide)]; omega
  · rw [fld_ofNat _ _ _ (by decide)]; omega

theorem read_rtinv (x : Insn) (a : Reg) (e0 : fld x 26 6 = 41) (e1 : fld x 0 8 = 4) (e2 : fld x 0 14 = 4) (e3 :
    fld x 0 26 ≠ 3) (e4 : fld x 20 6 = 0) (e5 : bits x 14 6 = a) :
    decodeWord x = .ok (.rtinv a) := by
  simp [decodeWord, decodeFields, decodeMajor29, e0, e1, e2, e3, e4, e5, Instr.wellFormed]
theorem rt_rtinv (a : Reg) : decodeWord (encode (.rtinv a)) = .ok (.rtinv a) := by
  have h0 := a.isLt
  have hn : encodeNat (.rtinv a) = 0xA4000004 + a.toNat * 0x4000 := rfl
  unfold encode
  generalize encodeNat (.rtinv a) = n at hn ⊢
  refine read_rtinv _ a ?_ ?_ ?_ ?_ ?_ ?_
  · rw [fld_ofNat _ _ _ (by decide)]; omega
  · rw [fld_ofNat _ _ _ (by decide)]; omega
  · rw [fld_ofNat _ _ _ (by decide)]; omega
  · rw [fld_ofNat _ _ _ (by decide)]; omega
  · rw [fld_ofNat _ _ _ (by decide)]; omega
  · exact bits_eq _ _ _ (by decide) (by omega)

theorem read_idle (x : Insn) (a : Reg) (e0 : fld x 26 6 = 41) (e1 : fld x 0 8 = 5) (e2 : fld x 0 14 = 5) (e3 :
    fld x 0 26 ≠ 3) (e4 : fld x 20 6 = 0) (e5 : bits x 14 6 = a) :
    decodeWord x = .ok (.idle a) := by
  simp [decodeWord, decodeFields, decodeMajor29, e0, e1, e2, e3, e4, e5, Instr.wellFormed]
theorem rt_idle (a : Reg) : decodeWord (encode (.idle a)) = .ok (.idle a) := by
  have h0 := a.isLt
  have hn : encodeNat (.idle a) = 0xA4000005 + a.toNat * 0x4000 := rfl
  unfold encode
  generalize encodeNat (.idle a) = n at hn ⊢
  refine read_idle _ a ?_ ?_ ?_ ?_ ?_ ?_
  · rw [fld_ofNat _ _ _ (by decide)]; omega
  · rw [fld_ofNat _ _ _ (by decide)]; omega
  · rw [fld_ofNat _ _ _ (by decide)]; omega
  · rw [fld_ofNat _ _ _ (by decide)]; omega
  · rw [fld_ofNat _ _ _ (by decide)]; omega
  · exact bits_eq _ _ _ (by decide) (by omega)

theorem read_halt (x : Insn) (e0 : fld x 26 6 = 41) (e1 : fld x 0 8 = 6) (e2 : fld x 0 14 = 6) (e3 : fld x 0 26 = 6) :
    decodeWord x = .ok (.halt) := by
  simp [decodeWord, decodeFields, decodeMajor29, e0, e1, e2, e3, Instr.wellFormed]
theorem rt_halt : decodeWord (encode (.halt)) = .ok (.halt) := by
  have hn : encodeNat (.halt) = 0xA4000006 := rfl
  unfold encode
  generalize encodeNat (.halt) = n at hn ⊢
  refine read_halt _ ?_ ?_ ?_ ?_
  · rw [fld_ofNat _ _ _ (by decide)]; omega
  · rw [fld_ofNat _ _ _ (by decide)]; omega
  · rw [fld_ofNat _ _ _ (by decide)]; omega
  · rw [fld_ofNat _ _ _ (by decide)]; omega

theorem read_hintImm (x : Insn) (p : BitVec 22) (e0 : fld x 26 6 = 63) (e1 : fld x 22 4 = 0) (e2 : bits x 0 22 = p) :
    decodeWord x = .ok (.hintImm p) := by
  simp [decodeWord, decodeFields, decodeMajor3F, e0, e1, e2, Instr.wellFormed]
theorem rt_hintImm (p : BitVec 22) : decodeWord (encode (.hintImm p)) = .ok (.hintImm p) := by
  have h0 := p.isLt
  have hn : encodeNat (.hintImm p) = 0xFC000000 + p.toNat := rfl
  unfold encode
  generalize encodeNat (.hintImm p) = n at hn ⊢
  refine read_hintImm _ p ?_ ?_ ?_
  · rw [fld_ofNat _ _ _ (by decide)]; omega
  · rw [fld_ofNat _ _ _ (by decide)]; omega
  · exact bits_eq _ _ _ (by decide) (by omega)

theorem read_hintScope (x : Insn) (s : BitVec 5) (e0 : fld x 26 6 = 63) (e1 : fld x 22 4 = 1) (e2 : fld x 5 21 = 131072)
    (e3 : bits x 0 5 = s) :
    decodeWord x = .ok (.hintScope s) := by
  simp [decodeWord, decodeFields, decodeMajor3F, e0, e1, e2, e3, Instr.wellFormed]
theorem rt_hintScope (s : BitVec 5) : decodeWord (encode (.hintScope s)) = .ok (.hintScope s) := by
  have h0 := s.isLt
  have hn : encodeNat (.hintScope s) = 0xFC400000 + s.toNat := rfl
  unfold encode
  generalize encodeNat (.hintScope s) = n at hn ⊢
  refine read_hintScope _ s ?_ ?_ ?_ ?_
  · rw [fld_ofNat _ _ _ (by decide)]; omega
  · rw [fld_ofNat _ _ _ (by decide)]; omega
  · rw [fld_ofNat _ _ _ (by decide)]; omega
  · exact bits_eq _ _ _ (by decide) (by omega)

theorem read_hintYield (x : Insn) (n : BitVec 16) (e0 : fld x 26 6 = 63) (e1 : fld x 22 4 = 2) (e2 : fld x 5 21 ≠ 131072)
    (e3 : fld x 16 10 = 128) (e4 : bits x 0 16 = n) :
    decodeWord x = .ok (.hintYield n) := by
  simp [decodeWord, decodeFields, decodeMajor3F, e0, e1, e2, e3, e4, Instr.wellFormed]
theorem rt_hintYield (n : BitVec 16) : decodeWord (encode (.hintYield n)) = .ok (.hintYield n) := by
  have h0 := n.isLt
  have hn : encodeNat (.hintYield n) = 0xFC800000 + n.toNat := rfl
  unfold encode
  generalize encodeNat (.hintYield n) = n_ at hn ⊢
  refine read_hintYield _ n ?_ ?_ ?_ ?_ ?_
  · rw [fld_ofNat _ _ _ (by decide)]; omega
  · rw [fld_ofNat _ _ _ (by decide)]; omega
  · rw [fld_ofNat _ _ _ (by decide)]; omega
  · rw [fld_ofNat _ _ _ (by decide)]; omega
  · exact bits_eq _ _ _ (by decide) (by omega)

theorem read_hintCache (x : Insn) (p : CachePol) (e0 : fld x 26 6 = 63) (e1 : fld x 22 4 = 3) (e2 : fld x 5 21 = 393216)
    (e3 : fld x 16 10 = 192) (e4 : fld x 2 24 = 3145728) (e5 : fld x 0 2 = p.code) :
    decodeWord x = .ok (.hintCache p) := by
  simp [decodeWord, decodeFields, decodeMajor3F, e0, e1, e2, e3, e4, e5, CachePol.ofCode_code, Instr.wellFormed]
theorem rt_hintCache (p : CachePol) : decodeWord (encode (.hintCache p)) = .ok (.hintCache p) := by
  have h0 := CachePol.code_lt p
  have hn : encodeNat (.hintCache p) = 0xFCC00000 + p.code := rfl
  unfold encode
  generalize encodeNat (.hintCache p) = n at hn ⊢
  refine read_hintCache _ p ?_ ?_ ?_ ?_ ?_ ?_
  · rw [fld_ofNat _ _ _ (by decide)]; omega
  · rw [fld_ofNat _ _ _ (by decide)]; omega
  · rw [fld_ofNat _ _ _ (by decide)]; omega
  · rw [fld_ofNat _ _ _ (by decide)]; omega
  · rw [fld_ofNat _ _ _ (by decide)]; omega
  · rw [fld_ofNat _ _ _ (by decide)]; omega

theorem read_hintDisp (x : Insn) (p : BitVec 22) (e0 : fld x 26 6 = 63) (e1 : fld x 22 4 = 4) (e2 : fld x 5 21 ≠ 131072)
    (e3 : fld x 16 10 ≠ 128) (e4 : fld x 2 24 ≠ 3145728) (e5 : bits x 0 22 = p) :
    decodeWord x = .ok (.hintDisp p) := by
  simp [decodeWord, decodeFields, decodeMajor3F, e0, e1, e2, e3, e4, e5, Instr.wellFormed]
theorem rt_hintDisp (p : BitVec 22) : decodeWord (encode (.hintDisp p)) = .ok (.hintDisp p) := by
  have h0 := p.isLt
  have hn : encodeNat (.hintDisp p) = 0xFD000000 + p.toNat := rfl
  unfold encode
  generalize encodeNat (.hintDisp p) = n at hn ⊢
  refine read_hintDisp _ p ?_ ?_ ?_ ?_ ?_ ?_
  · rw [fld_ofNat _ _ _ (by decide)]; omega
  · rw [fld_ofNat _ _ _ (by decide)]; omega
  · rw [fld_ofNat _ _ _ (by decide)]; omega
  · rw [fld_ofNat _ _ _ (by decide)]; omega
  · rw [fld_ofNat _ _ _ (by decide)]; omega
  · exact bits_eq _ _ _ (by decide) (by omega)

theorem read_hintPrio (x : Insn) (e0 : fld x 26 6 = 63) (e1 : fld x 22 4 = 5) (e2 : fld x 5 21 = 655360) (e3 :
    fld x 16 10 = 320) (e4 : fld x 2 24 = 5242880) (e5 : fld x 0 26 = 20971520) :
    decodeWord x = .ok (.hintPrio) := by
  simp [decodeWord, decodeFields, decodeMajor3F, e0, e1, e2, e3, e4, e5, Instr.wellFormed]
theorem rt_hintPrio : decodeWord (encode (.hintPrio)) = .ok (.hintPrio) := by
  have hn : encodeNat (.hintPrio) = 0xFD400000 := rfl
  unfold encode
  generalize encodeNat (.hintPrio) = n at hn ⊢
  refine read_hintPrio _ ?_ ?_ ?_ ?_ ?_ ?_
  · rw [fld_ofNat _ _ _ (by decide)]; omega
  · rw [fld_ofNat _ _ _ (by decide)]; omega
  · rw [fld_ofNat _ _ _ (by decide)]; omega
  · rw [fld_ofNat _ _ _ (by decide)]; omega
  · rw [fld_ofNat _ _ _ (by decide)]; omega
  · rw [fld_ofNat _ _ _ (by decide)]; omega

theorem read_hintNop (x : Insn) (e0 : fld x 26 6 = 63) (e1 : fld x 22 4 = 6) (e2 : fld x 5 21 = 786432) (e3 :
    fld x 16 10 = 384) (e4 : fld x 2 24 = 6291456) (e5 : fld x 0 26 = 25165824) :
    decodeWord x = .ok (.hintNop) := by
  simp [decodeWord, decodeFields, decodeMajor3F, e0, e1, e2, e3, e4, e5, Instr.wellFormed]
theorem rt_hintNop : decodeWord (encode (.hintNop)) = .ok (.hintNop) := by
  have hn : encodeNat (.hintNop) = 0xFD800000 := rfl
  unfold encode
  generalize encodeNat (.hintNop) = n at hn ⊢
  refine read_hintNop _ ?_ ?_ ?_ ?_ ?_ ?_
  · rw [fld_ofNat _ _ _ (by decide)]; omega
  · rw [fld_ofNat _ _ _ (by decide)]; omega
  · rw [fld_ofNat _ _ _ (by decide)]; omega
  · rw [fld_ofNat _ _ _ (by decide)]; omega
  · rw [fld_ofNat _ _ _ (by decide)]; omega
  · rw [fld_ofNat _ _ _ (by decide)]; omega

end Sys2Proof.Laws
end

