-- ==== Sys2Proof/Laws/PerInstr.lean ====
section
/-! SUPPORT. Statements about every instruction, one lemma per constructor. -/

namespace Sys2Proof.Laws.RoundTrip

/-- An instruction that has a word of its own and is well formed decodes from its word (R71 to R85). -/
def Statement (i : Instr) : Prop := i.hasWord = true → i.wellFormed = true → decodeWord (encode i) = .ok i

theorem add (d : Reg) (a : Reg) (b : Reg) (w : Bool) : Statement (.add d a b w) := fun _ _ => rt_add d a b w
theorem sub (d : Reg) (a : Reg) (b : Reg) (w : Bool) : Statement (.sub d a b w) := fun _ _ => rt_sub d a b w
theorem and_ (d : Reg) (a : Reg) (b : Reg) (w : Bool) : Statement (.and_ d a b w) := fun _ _ => rt_and_ d a b w
theorem or_ (d : Reg) (a : Reg) (b : Reg) (w : Bool) : Statement (.or_ d a b w) := fun _ _ => rt_or_ d a b w
theorem xor_ (d : Reg) (a : Reg) (b : Reg) (w : Bool) : Statement (.xor_ d a b w) := fun _ _ => rt_xor_ d a b w
theorem shl (d : Reg) (a : Reg) (b : Reg) (w : Bool) : Statement (.shl d a b w) := fun _ _ => rt_shl d a b w
theorem shr (d : Reg) (a : Reg) (b : Reg) (w : Bool) : Statement (.shr d a b w) := fun _ _ => rt_shr d a b w
theorem sra (d : Reg) (a : Reg) (b : Reg) (w : Bool) : Statement (.sra d a b w) := fun _ _ => rt_sra d a b w
theorem mul (d : Reg) (a : Reg) (b : Reg) (w : Bool) : Statement (.mul d a b w) := fun _ _ => rt_mul d a b w
theorem mulh (d : Reg) (a : Reg) (b : Reg) (w : Bool) : Statement (.mulh d a b w) := fun _ _ => rt_mulh d a b w
theorem mulhu (d : Reg) (a : Reg) (b : Reg) (w : Bool) : Statement (.mulhu d a b w) := fun _ _ => rt_mulhu d a b w
theorem div (d : Reg) (a : Reg) (b : Reg) (w : Bool) : Statement (.div d a b w) := fun _ _ => rt_div d a b w
theorem divu (d : Reg) (a : Reg) (b : Reg) (w : Bool) : Statement (.divu d a b w) := fun _ _ => rt_divu d a b w
theorem rem (d : Reg) (a : Reg) (b : Reg) (w : Bool) : Statement (.rem d a b w) := fun _ _ => rt_rem d a b w
theorem remu (d : Reg) (a : Reg) (b : Reg) (w : Bool) : Statement (.remu d a b w) := fun _ _ => rt_remu d a b w
theorem min (d : Reg) (a : Reg) (b : Reg) (w : Bool) : Statement (.min d a b w) := fun _ _ => rt_min d a b w
theorem max (d : Reg) (a : Reg) (b : Reg) (w : Bool) : Statement (.max d a b w) := fun _ _ => rt_max d a b w
theorem minu (d : Reg) (a : Reg) (b : Reg) (w : Bool) : Statement (.minu d a b w) := fun _ _ => rt_minu d a b w
theorem maxu (d : Reg) (a : Reg) (b : Reg) (w : Bool) : Statement (.maxu d a b w) := fun _ _ => rt_maxu d a b w
theorem clz (d : Reg) (a : Reg) (w : Bool) : Statement (.clz d a w) := fun _ _ => rt_clz d a w
theorem popc (d : Reg) (a : Reg) (w : Bool) : Statement (.popc d a w) := fun _ _ => rt_popc d a w
theorem sel (d : Reg) (a : Reg) (b : Reg) : Statement (.sel d a b) := fun _ _ => rt_sel d a b
theorem sext (d : Reg) (a : Reg) (c : ExtCode) : Statement (.sext d a c) := fun _ _ => rt_sext d a c
theorem zext (d : Reg) (a : Reg) (c : ExtCode) : Statement (.zext d a c) := fun _ _ => rt_zext d a c
theorem cmp (d : Reg) (a : Reg) (b : Reg) (w : Bool) (c : Cond) : Statement (.cmp d a b w c) := fun _ _ => rt_cmp d a b w c
theorem addi (d : Reg) (a : Reg) (i : BitVec 14) : Statement (.addi d a i) := fun _ _ => rt_addi d a i
theorem andi (d : Reg) (a : Reg) (i : BitVec 14) : Statement (.andi d a i) := fun _ _ => rt_andi d a i
theorem ori (d : Reg) (a : Reg) (i : BitVec 14) : Statement (.ori d a i) := fun _ _ => rt_ori d a i
theorem xori (d : Reg) (a : Reg) (i : BitVec 14) : Statement (.xori d a i) := fun _ _ => rt_xori d a i
theorem shli (d : Reg) (a : Reg) (k : BitVec 6) : Statement (.shli d a k) := fun _ _ => rt_shli d a k
theorem shri (d : Reg) (a : Reg) (k : BitVec 6) : Statement (.shri d a k) := fun _ _ => rt_shri d a k
theorem srai (d : Reg) (a : Reg) (k : BitVec 6) : Statement (.srai d a k) := fun _ _ => rt_srai d a k
theorem cmpi (d : Reg) (a : Reg) (c : Cond) (i : BitVec 10) : Statement (.cmpi d a c i) := fun _ _ => rt_cmpi d a c i
theorem movi (d : Reg) (i : BitVec 20) : Statement (.movi d i) := fun _ _ => rt_movi d i
theorem bfxU (d : Reg) (a : Reg) (p : BitVec 6) (l : BitVec 6) : Statement (.bfxU d a p l) := fun _ h => rt_bfxU d a p l h
theorem bfxS (d : Reg) (a : Reg) (p : BitVec 6) (l : BitVec 6) : Statement (.bfxS d a p l) := fun _ h => rt_bfxS d a p l h
theorem bfi (d : Reg) (a : Reg) (p : BitVec 6) (l : BitVec 6) : Statement (.bfi d a p l) := fun _ h => rt_bfi d a p l h
theorem cbnd (d : Reg) (a : Reg) (b : Reg) : Statement (.cbnd d a b) := fun _ _ => rt_cbnd d a b
theorem cperm (d : Reg) (a : Reg) (b : Reg) : Statement (.cperm d a b) := fun _ _ => rt_cperm d a b
theorem cinc (d : Reg) (a : Reg) (b : Reg) : Statement (.cinc d a b) := fun _ _ => rt_cinc d a b
theorem cget (d : Reg) (a : Reg) (s : CapField) : Statement (.cget d a s) := fun _ _ => rt_cget d a s
theorem ctest (d : Reg) (a : Reg) (b : Reg) : Statement (.ctest d a b) := fun _ _ => rt_ctest d a b
theorem cseta (d : Reg) (a : Reg) (b : Reg) : Statement (.cseta d a b) := fun _ _ => rt_cseta d a b
theorem cinci (d : Reg) (a : Reg) (i : BitVec 14) : Statement (.cinci d a i) := fun _ _ => rt_cinci d a i
theorem ld (d : Reg) (a : Reg) (w : LdWidth) (o : BitVec 11) : Statement (.ld d a w o) := fun _ _ => rt_ld d a w o
theorem st (s : Reg) (a : Reg) (w : StWidth) (o : BitVec 11) : Statement (.st s a w o) := fun _ _ => rt_st s a w o
theorem vld (v : VReg) (a : Reg) (m : MReg) (o : BitVec 12) : Statement (.vld v a m o) := fun _ _ => rt_vld v a m o
theorem vst (v : VReg) (a : Reg) (m : MReg) (o : BitVec 12) : Statement (.vst v a m o) := fun _ _ => rt_vst v a m o
theorem vlds (d : VReg) (a : Reg) (b : Reg) (w : ElemWidth) (m : MReg) :
    Statement (.vlds d a b w m) := fun _ _ => rt_vlds d a b w m
theorem vsts (d : VReg) (a : Reg) (b : Reg) (w : ElemWidth) (m : MReg) :
    Statement (.vsts d a b w m) := fun _ _ => rt_vsts d a b w m
theorem vgath (d : VReg) (a : Reg) (b : VReg) (w : WideElem) (m : MReg) :
    Statement (.vgath d a b w m) := fun _ _ => rt_vgath d a b w m
theorem vscat (d : VReg) (a : Reg) (b : VReg) (w : WideElem) (m : MReg) :
    Statement (.vscat d a b w m) := fun _ _ => rt_vscat d a b w m
theorem amo (d : Reg) (a : Reg) (b : Reg) (o : Order) (w : Bool) (p : AmoOp) :
    Statement (.amo d a b o w p) := fun _ h => rt_amo d a b o w p h
theorem amoNoReturn (a : Reg) (b : Reg) (o : Order) (w : Bool) (p : AmoOp) :
    Statement (.amoNoReturn a b o w p) := fun _ _ => rt_amoNoReturn a b o w p
theorem cas (d : Reg) (a : Reg) (b : Reg) (o : Order) (w : Bool) : Statement (.cas d a b o w) := fun _ _ => rt_cas d a b o w
theorem fence (s : BitVec 5) (c : Bool) (o : Order) : Statement (.fence s c o) := fun _ _ => rt_fence s c o
theorem pref (a : Reg) (b : Reg) : Statement (.pref a b) := fun _ _ => rt_pref a b
theorem wbr (a : Reg) (b : Reg) : Statement (.wbr a b) := fun _ _ => rt_wbr a b
theorem invr (a : Reg) (b : Reg) : Statement (.invr a b) := fun _ _ => rt_invr a b
theorem wbri (a : Reg) (b : Reg) : Statement (.wbri a b) := fun _ _ => rt_wbri a b
theorem ljoin (a : Reg) (b : Reg) (r : Bool) : Statement (.ljoin a b r) := fun _ _ => rt_ljoin a b r
theorem lwait (d : Reg) (a : Reg) (b : Reg) (q : Bool) : Statement (.lwait d a b q) := fun _ _ => rt_lwait d a b q
theorem fadd (d : Reg) (a : Reg) (b : Reg) (f : FpFmt) : Statement (.fadd d a b f) := fun _ _ => rt_fadd d a b f
theorem fsub (d : Reg) (a : Reg) (b : Reg) (f : FpFmt) : Statement (.fsub d a b f) := fun _ _ => rt_fsub d a b f
theorem fmul (d : Reg) (a : Reg) (b : Reg) (f : FpFmt) : Statement (.fmul d a b f) := fun _ _ => rt_fmul d a b f
theorem fdiv (d : Reg) (a : Reg) (b : Reg) (f : FpFmt) : Statement (.fdiv d a b f) := fun _ _ => rt_fdiv d a b f
theorem fsqrt (d : Reg) (a : Reg) (f : FpFmt) : Statement (.fsqrt d a f) := fun _ _ => rt_fsqrt d a f
theorem fmin (d : Reg) (a : Reg) (b : Reg) (f : FpFmt) : Statement (.fmin d a b f) := fun _ _ => rt_fmin d a b f
theorem fmax (d : Reg) (a : Reg) (b : Reg) (f : FpFmt) : Statement (.fmax d a b f) := fun _ _ => rt_fmax d a b f
theorem ffma (d : Reg) (a : Reg) (b : Reg) (f : FpFmt) : Statement (.ffma d a b f) := fun _ _ => rt_ffma d a b f
theorem fcmp (d : Reg) (a : Reg) (b : Reg) (f : FpFmt) (c : FcmpOp) :
    Statement (.fcmp d a b f c) := fun _ _ => rt_fcmp d a b f c
theorem fcvt (d : Reg) (a : Reg) (c : FcvtCode) (f : FpFmt) : Statement (.fcvt d a c f) := fun _ _ => rt_fcvt d a c f
theorem vadd (v : VReg) (a : VReg) (b : VReg) (m : MReg) (w : ElemWidth) :
    Statement (.vadd v a b m w) := fun _ _ => rt_vadd v a b m w
theorem vsub (v : VReg) (a : VReg) (b : VReg) (m : MReg) (w : ElemWidth) :
    Statement (.vsub v a b m w) := fun _ _ => rt_vsub v a b m w
theorem vmul (v : VReg) (a : VReg) (b : VReg) (m : MReg) (w : ElemWidth) :
    Statement (.vmul v a b m w) := fun _ _ => rt_vmul v a b m w
theorem vmin (v : VReg) (a : VReg) (b : VReg) (m : MReg) (w : ElemWidth) :
    Statement (.vmin v a b m w) := fun _ _ => rt_vmin v a b m w
theorem vmax (v : VReg) (a : VReg) (b : VReg) (m : MReg) (w : ElemWidth) :
    Statement (.vmax v a b m w) := fun _ _ => rt_vmax v a b m w
theorem vminu (v : VReg) (a : VReg) (b : VReg) (m : MReg) (w : ElemWidth) :
    Statement (.vminu v a b m w) := fun _ _ => rt_vminu v a b m w
theorem vmaxu (v : VReg) (a : VReg) (b : VReg) (m : MReg) (w : ElemWidth) :
    Statement (.vmaxu v a b m w) := fun _ _ => rt_vmaxu v a b m w
theorem vand (v : VReg) (a : VReg) (b : VReg) (m : MReg) (w : ElemWidth) :
    Statement (.vand v a b m w) := fun _ _ => rt_vand v a b m w
theorem vor (v : VReg) (a : VReg) (b : VReg) (m : MReg) (w : ElemWidth) :
    Statement (.vor v a b m w) := fun _ _ => rt_vor v a b m w
theorem vxor (v : VReg) (a : VReg) (b : VReg) (m : MReg) (w : ElemWidth) :
    Statement (.vxor v a b m w) := fun _ _ => rt_vxor v a b m w
theorem vshl (v : VReg) (a : VReg) (b : VReg) (m : MReg) (w : ElemWidth) :
    Statement (.vshl v a b m w) := fun _ _ => rt_vshl v a b m w
theorem vshr (v : VReg) (a : VReg) (b : VReg) (m : MReg) (w : ElemWidth) :
    Statement (.vshr v a b m w) := fun _ _ => rt_vshr v a b m w
theorem vsra (v : VReg) (a : VReg) (b : VReg) (m : MReg) (w : ElemWidth) :
    Statement (.vsra v a b m w) := fun _ _ => rt_vsra v a b m w
theorem vcmp (d : MReg) (a : VReg) (b : VReg) (m : MReg) (w : ElemWidth) (c : Cond) :
    Statement (.vcmp d a b m w c) := fun _ _ => rt_vcmp d a b m w c
theorem vfadd (v : VReg) (a : VReg) (b : VReg) (m : MReg) (f : VfFmt) :
    Statement (.vfadd v a b m f) := fun _ _ => rt_vfadd v a b m f
theorem vfsub (v : VReg) (a : VReg) (b : VReg) (m : MReg) (f : VfFmt) :
    Statement (.vfsub v a b m f) := fun _ _ => rt_vfsub v a b m f
theorem vfmul (v : VReg) (a : VReg) (b : VReg) (m : MReg) (f : VfFmt) :
    Statement (.vfmul v a b m f) := fun _ _ => rt_vfmul v a b m f
theorem vfma (v : VReg) (a : VReg) (b : VReg) (m : MReg) (f : VfFmt) :
    Statement (.vfma v a b m f) := fun _ _ => rt_vfma v a b m f
theorem vfmin (v : VReg) (a : VReg) (b : VReg) (m : MReg) (f : VfFmt) :
    Statement (.vfmin v a b m f) := fun _ _ => rt_vfmin v a b m f
theorem vfmax (v : VReg) (a : VReg) (b : VReg) (m : MReg) (f : VfFmt) :
    Statement (.vfmax v a b m f) := fun _ _ => rt_vfmax v a b m f
theorem vfdiv (v : VReg) (a : VReg) (b : VReg) (m : MReg) (f : VfFmt) :
    Statement (.vfdiv v a b m f) := fun _ _ => rt_vfdiv v a b m f
theorem vfsqrt (v : VReg) (a : VReg) (m : MReg) (f : VfFmt) : Statement (.vfsqrt v a m f) := fun _ _ => rt_vfsqrt v a m f
theorem vfcmp (d : MReg) (a : VReg) (b : VReg) (m : MReg) (f : VfFmt) (c : FcmpOp) :
    Statement (.vfcmp d a b m f c) := fun _ _ => rt_vfcmp d a b m f c
theorem vbcast (d : VReg) (a : Reg) (w : ElemWidth) : Statement (.vbcast d a w) := fun _ _ => rt_vbcast d a w
theorem vins (d : VReg) (a : Reg) (b : Reg) (w : ElemWidth) : Statement (.vins d a b w) := fun _ _ => rt_vins d a b w
theorem vext (d : Reg) (a : VReg) (b : Reg) (w : ElemWidth) : Statement (.vext d a b w) := fun _ _ => rt_vext d a b w
theorem vred (d : Reg) (a : VReg) (o : RedOp) (w : ElemWidth) : Statement (.vred d a o w) := fun _ _ => rt_vred d a o w
theorem mtoc (d : Reg) (a : MReg) (w : ElemWidth) : Statement (.mtoc d a w) := fun _ _ => rt_mtoc d a w
theorem ctom (d : MReg) (a : Reg) (w : ElemWidth) : Statement (.ctom d a w) := fun _ _ => rt_ctom d a w
theorem mcnt (d : Reg) (a : MReg) (w : ElemWidth) : Statement (.mcnt d a w) := fun _ _ => rt_mcnt d a w
theorem vsel (v : VReg) (a : VReg) (b : VReg) (m : MReg) (w : ElemWidth) :
    Statement (.vsel v a b m w) := fun _ _ => rt_vsel v a b m w
theorem vperm (v : VReg) (a : VReg) (b : VReg) (m : MReg) (w : ElemWidth) :
    Statement (.vperm v a b m w) := fun _ _ => rt_vperm v a b m w
theorem viota (v : VReg) (m : MReg) (w : ElemWidth) : Statement (.viota v m w) := fun _ _ => rt_viota v m w
theorem vcvt (v : VReg) (a : VReg) (c : VcvtCode) (m : MReg) (p : BitVec 2) :
    Statement (.vcvt v a c m p) := fun _ h => rt_vcvt v a c m p h
theorem vmov (v : VReg) (a : VReg) (m : MReg) (w : ElemWidth) : Statement (.vmov v a m w) := fun _ _ => rt_vmov v a m w
theorem mop (d : MReg) (a : MReg) (b : MReg) (o : MaskOp) : Statement (.mop d a b o) := fun _ _ => rt_mop d a b o
theorem b (d : BitVec 26) : Statement (.b d) := fun _ _ => rt_b d
theorem bc (c : Cond) (a : Reg) (b : Reg) (d : BitVec 10) : Statement (.bc c a b d) := fun _ _ => rt_bc c a b d
theorem bm (c : MaskCond) (a : MReg) (b : MReg) (d : BitVec 10) : Statement (.bm c a b d) := fun _ _ => rt_bm c a b d
theorem call (d : BitVec 26) : Statement (.call d) := fun _ _ => rt_call d
theorem jr (a : Reg) : Statement (.jr a) := fun _ _ => rt_jr a
theorem callr (a : Reg) : Statement (.callr a) := fun _ _ => rt_callr a
theorem ret : Statement .ret := fun _ _ => rt_ret
theorem end_ : Statement .end_ := fun _ _ => rt_end_
theorem send (d : Reg) (a : Reg) (t : BitVec 6) (n : BitVec 5) : Statement (.send d a t n) := fun _ h => rt_send d a t n h
theorem rput (d : Reg) (a : Reg) (t : BitVec 6) (i : BitVec 5) : Statement (.rput d a t i) := fun _ _ => rt_rput d a t i
theorem pclr (i : BitVec 5) : Statement (.pclr i) := fun _ _ => rt_pclr i
theorem tagctlEn (k : BitVec 6) : Statement (.tagctlEn k) := fun _ _ => rt_tagctlEn k
theorem tagctlDis (k : BitVec 6) : Statement (.tagctlDis k) := fun _ _ => rt_tagctlDis k
theorem tagctlPrio (a : Reg) (k : BitVec 6) : Statement (.tagctlPrio a k) := fun _ _ => rt_tagctlPrio a k
theorem tagctlAddr (a : Reg) (k : BitVec 6) : Statement (.tagctlAddr a k) := fun _ _ => rt_tagctlAddr a k
theorem tagctlMode (a : Reg) (k : BitVec 6) : Statement (.tagctlMode a k) := fun _ _ => rt_tagctlMode a k
theorem tagctlGate (g : BitVec 2) (a : Reg) (k : BitVec 6) : Statement (.tagctlGate g a k) := fun _ _ => rt_tagctlGate g a k
theorem tagctlCap (g : BitVec 2) (a : Reg) (k : BitVec 6) : Statement (.tagctlCap g a k) := fun _ _ => rt_tagctlCap g a k
theorem tagctlStat (d : Reg) (k : BitVec 6) : Statement (.tagctlStat d k) := fun _ _ => rt_tagctlStat d k
theorem sbind (s : SReg) (a : Reg) (b : Reg) : Statement (.sbind s a b) := fun _ _ => rt_sbind s a b
theorem sunbind (s : SReg) : Statement (.sunbind s) := fun _ _ => rt_sunbind s
theorem sstat (d : Reg) (s : SReg) : Statement (.sstat d s) := fun _ _ => rt_sstat d s
theorem siph (d : Reg) (a : Reg) (b : Reg) (h : BitVec 6) : Statement (.siph d a b h) := fun _ _ => rt_siph d a b h
theorem sgath (d : Reg) (a : Reg) (b : Reg) (h : BitVec 6) : Statement (.sgath d a b h) := fun _ _ => rt_sgath d a b h
theorem scfg (a : Reg) (h : BitVec 6) : Statement (.scfg a h) := fun _ _ => rt_scfg a h
theorem swmr (d : Reg) (s : SwmrSel) (h : BitVec 6) : Statement (.swmr d s h) := fun _ _ => rt_swmr d s h
theorem barm (a : Reg) (b : Reg) : Statement (.barm a b) := fun _ _ => rt_barm a b
theorem barb (a : Reg) (b : Reg) : Statement (.barb a b) := fun _ _ => rt_barb a b
theorem barr (d : Reg) (a : Reg) : Statement (.barr d a) := fun _ _ => rt_barr d a
theorem bwait (d : Reg) (a : Reg) (b : Reg) : Statement (.bwait d a b) := fun _ _ => rt_bwait d a b
theorem tdset (t : BitVec 4) (a : Reg) : Statement (.tdset t a) := fun _ _ => rt_tdset t a
theorem tdget (d : Reg) (t : BitVec 4) : Statement (.tdget d t) := fun _ _ => rt_tdget d t
theorem tdgetSt (d : Reg) (t : BitVec 4) : Statement (.tdgetSt d t) := fun _ _ => rt_tdgetSt d t
theorem tdgetAcc (d : Reg) (t : BitVec 3) : Statement (.tdgetAcc d t) := fun _ _ => rt_tdgetAcc d t
theorem mma (c : BitVec 3) (a : BitVec 4) (b : BitVec 4) (i : Bool) : Statement (.mma c a b i) := fun _ _ => rt_mma c a b i
theorem macz (c : BitVec 3) (k : AccKind) : Statement (.macz c k) := fun _ _ => rt_macz c k
theorem macst (c : BitVec 3) (a : Reg) (b : Reg) (k : AccKind) : Statement (.macst c a b k) := fun _ _ => rt_macst c a b k
theorem locqWhere (d : Reg) (a : Reg) : Statement (.locqWhere d a) := fun _ _ => rt_locqWhere d a
theorem locqEpoch (d : Reg) : Statement (.locqEpoch d) := fun _ _ => rt_locqEpoch d
theorem locqHops (d : Reg) (a : Reg) : Statement (.locqHops d a) := fun _ _ => rt_locqHops d a
theorem scpset (a : Reg) (i : BitVec 6) : Statement (.scpset a i) := fun _ h => rt_scpset a i h
theorem scpget (d : Reg) (i : BitVec 6) : Statement (.scpget d i) := fun _ h => rt_scpget d i h
theorem sysr (d : Reg) (n : SysReg) : Statement (.sysr d n) := fun _ h => rt_sysr d n h
theorem sysw (a : Reg) (n : SysReg) : Statement (.sysw a n) := fun _ h => rt_sysw a n h
theorem syswRttw (a : Reg) : Statement (.syswRttw a) := fun _ _ => rt_syswRttw a
theorem syswTwin (a : Reg) : Statement (.syswTwin a) := fun _ _ => rt_syswTwin a
theorem syswScpbase (a : Reg) : Statement (.syswScpbase a) := fun _ _ => rt_syswScpbase a
theorem trap (c : BitVec 12) : Statement (.trap c) := fun _ _ => rt_trap c
theorem eret : Statement .eret := fun _ _ => rt_eret
theorem rtinv (a : Reg) : Statement (.rtinv a) := fun _ _ => rt_rtinv a
theorem idle (a : Reg) : Statement (.idle a) := fun _ _ => rt_idle a
theorem halt : Statement .halt := fun _ _ => rt_halt
theorem hintImm (p : BitVec 22) : Statement (.hintImm p) := fun _ _ => rt_hintImm p
theorem hintScope (s : BitVec 5) : Statement (.hintScope s) := fun _ _ => rt_hintScope s
theorem hintYield (n : BitVec 16) : Statement (.hintYield n) := fun _ _ => rt_hintYield n
theorem hintCache (p : CachePol) : Statement (.hintCache p) := fun _ _ => rt_hintCache p
theorem hintDisp (p : BitVec 22) : Statement (.hintDisp p) := fun _ _ => rt_hintDisp p
theorem hintPrio : Statement .hintPrio := fun _ _ => rt_hintPrio
theorem hintNop : Statement .hintNop := fun _ _ => rt_hintNop
theorem illegalInstruction (w : Insn) : Statement (.illegalInstruction w) := fun h => Bool.noConfusion h
theorem haltedCarrelRelease (core : Nat) (carrel : Nat) :
    Statement (.haltedCarrelRelease core carrel) := fun h => Bool.noConfusion h
theorem messageArrival (cluster : Nat) (idx : Nat) : Statement (.messageArrival cluster idx) := fun h => Bool.noConfusion h
theorem rputArrival (cluster : Nat) (idx : Nat) : Statement (.rputArrival cluster idx) := fun h => Bool.noConfusion h
theorem dispatch (core : Nat) : Statement (.dispatch core) := fun h => Bool.noConfusion h
theorem eprioAging (core : Nat) (tag : Nat) : Statement (.eprioAging core tag) := fun h => Bool.noConfusion h
theorem yieldPeriodExpiry (core : Nat) (carrel : Nat) :
    Statement (.yieldPeriodExpiry core carrel) := fun h => Bool.noConfusion h
theorem outboxHandoff (core : Nat) (carrel : Nat) : Statement (.outboxHandoff core carrel) := fun h => Bool.noConfusion h
theorem commitEntryPerform (core : Nat) (idx : Nat) : Statement (.commitEntryPerform core idx) := fun h => Bool.noConfusion h
theorem messageInject (core : Nat) (idx : Nat) : Statement (.messageInject core idx) := fun h => Bool.noConfusion h
theorem streamAck (cluster : Nat) (idx : Nat) : Statement (.streamAck cluster idx) := fun h => Bool.noConfusion h
theorem loadComplete (core : Nat) (carrel : Nat) (idx : Nat) :
    Statement (.loadComplete core carrel idx) := fun h => Bool.noConfusion h
theorem waitResume (core : Nat) (carrel : Nat) : Statement (.waitResume core carrel) := fun h => Bool.noConfusion h
theorem fillDataReturn (core : Nat) (idx : Nat) (count : Nat) :
    Statement (.fillDataReturn core idx count) := fun h => Bool.noConfusion h
theorem softErrorDetected (target : SoftTarget) : Statement (.softErrorDetected target) := fun h => Bool.noConfusion h
theorem correctedError (cluster : Nat) (phys : Nat) (user : Option Nat) :
    Statement (.correctedError cluster phys user) := fun h => Bool.noConfusion h
theorem healthLeak (cluster : Nat) (phys : Nat) : Statement (.healthLeak cluster phys) := fun h => Bool.noConfusion h
theorem healthRqWrite (cluster : Nat) (phys : Nat) : Statement (.healthRqWrite cluster phys) := fun h => Bool.noConfusion h
theorem evacLimitExpiry (cluster : Nat) : Statement (.evacLimitExpiry cluster) := fun h => Bool.noConfusion h
theorem reshelveCopy (cluster : Nat) : Statement (.reshelveCopy cluster) := fun h => Bool.noConfusion h
theorem reshelveMapRelease (cluster : Nat) : Statement (.reshelveMapRelease cluster) := fun h => Bool.noConfusion h
theorem coreFailure (cluster : Nat) (phys : Nat) : Statement (.coreFailure cluster phys) := fun h => Bool.noConfusion h
theorem catalogueGets (die : Nat) (idx : Nat) : Statement (.catalogueGets die idx) := fun h => Bool.noConfusion h
theorem catalogueGeto (die : Nat) (idx : Nat) : Statement (.catalogueGeto die idx) := fun h => Bool.noConfusion h
theorem catalogueUncr (die : Nat) (idx : Nat) : Statement (.catalogueUncr die idx) := fun h => Bool.noConfusion h
theorem catalogueUncw (die : Nat) (idx : Nat) : Statement (.catalogueUncw die idx) := fun h => Bool.noConfusion h
theorem catalogueEvn (die : Nat) (idx : Nat) : Statement (.catalogueEvn die idx) := fun h => Bool.noConfusion h
theorem catalogueEack (cluster : Nat) (idx : Nat) : Statement (.catalogueEack cluster idx) := fun h => Bool.noConfusion h
theorem catalogueInv (cluster : Nat) (idx : Nat) : Statement (.catalogueInv cluster idx) := fun h => Bool.noConfusion h
theorem catalogueIack (die : Nat) (idx : Nat) : Statement (.catalogueIack die idx) := fun h => Bool.noConfusion h
theorem catalogueFetch (cluster : Nat) (idx : Nat) : Statement (.catalogueFetch cluster idx) := fun h => Bool.noConfusion h
theorem catalogueFack (die : Nat) (idx : Nat) : Statement (.catalogueFack die idx) := fun h => Bool.noConfusion h
theorem catalogueDisc (cluster : Nat) (idx : Nat) : Statement (.catalogueDisc cluster idx) := fun h => Bool.noConfusion h
theorem catalogueDack (die : Nat) (idx : Nat) : Statement (.catalogueDack die idx) := fun h => Bool.noConfusion h
theorem catalogueData (cluster : Nat) (idx : Nat) : Statement (.catalogueData cluster idx) := fun h => Bool.noConfusion h
theorem catalogueGrant (cluster : Nat) (idx : Nat) : Statement (.catalogueGrant cluster idx) := fun h => Bool.noConfusion h
theorem catalogueReplacement (die : Nat) : Statement (.catalogueReplacement die) := fun h => Bool.noConfusion h
theorem tractMerge (die : Nat) (base : Nat) : Statement (.tractMerge die base) := fun h => Bool.noConfusion h
theorem space2AccessArrival (cluster : Nat) (idx : Nat) :
    Statement (.space2AccessArrival cluster idx) := fun h => Bool.noConfusion h
theorem peerRequestArrival (req : PeerReq) : Statement (.peerRequestArrival req) := fun h => Bool.noConfusion h
theorem remoteResponse (id : Nat) (resp : RemoteResp) : Statement (.remoteResponse id resp) := fun h => Bool.noConfusion h
theorem fablimTimeout (id : Nat) : Statement (.fablimTimeout id) := fun h => Bool.noConfusion h
theorem flitRoute (cluster : Nat) : Statement (.flitRoute cluster) := fun h => Bool.noConfusion h
theorem linkFlitReceive (port : Nat) (flit : List Byte) (msgs : List PeerReq) :
    Statement (.linkFlitReceive port flit msgs) := fun h => Bool.noConfusion h
theorem linkReplay (port : Nat) : Statement (.linkReplay port) := fun h => Bool.noConfusion h
theorem portDown (port : Nat) : Statement (.portDown port) := fun h => Bool.noConfusion h
theorem siphAccept (core : Nat) (idx : Nat) : Statement (.siphAccept core idx) := fun h => Bool.noConfusion h
theorem siphElementWrite (core : Nat) (ch : Nat) : Statement (.siphElementWrite core ch) := fun h => Bool.noConfusion h
theorem siphDone (core : Nat) (ch : Nat) : Statement (.siphDone core ch) := fun h => Bool.noConfusion h
theorem siphFault (core : Nat) (ch : Nat) : Statement (.siphFault core ch) := fun h => Bool.noConfusion h
theorem sgathAccept (core : Nat) (idx : Nat) : Statement (.sgathAccept core idx) := fun h => Bool.noConfusion h
theorem scfgApply (core : Nat) (idx : Nat) : Statement (.scfgApply core idx) := fun h => Bool.noConfusion h
theorem streamFetch (core : Nat) (carrel : Nat) (reg : Nat) :
    Statement (.streamFetch core carrel reg) := fun h => Bool.noConfusion h
theorem streamConvert (core : Nat) (carrel : Nat) (reg : Nat) :
    Statement (.streamConvert core carrel reg) := fun h => Bool.noConfusion h
theorem barmApply (core : Nat) (idx : Nat) : Statement (.barmApply core idx) := fun h => Bool.noConfusion h
theorem barbApply (core : Nat) (idx : Nat) : Statement (.barbApply core idx) := fun h => Bool.noConfusion h
theorem barrUpdate (core : Nat) (carrel : Nat) : Statement (.barrUpdate core carrel) := fun h => Bool.noConfusion h
theorem bwaitTimeout (core : Nat) (carrel : Nat) : Statement (.bwaitTimeout core carrel) := fun h => Bool.noConfusion h
theorem lwaitTimeout (core : Nat) (carrel : Nat) : Statement (.lwaitTimeout core carrel) := fun h => Bool.noConfusion h
theorem idleTimeout (core : Nat) (carrel : Nat) : Statement (.idleTimeout core carrel) := fun h => Bool.noConfusion h
theorem cisternMerge (core : Nat) (idx : Nat) : Statement (.cisternMerge core idx) := fun h => Bool.noConfusion h
theorem replicaPush (cluster : Nat) (idx : Nat) : Statement (.replicaPush cluster idx) := fun h => Bool.noConfusion h
theorem pumpRoundStart (part : Nat) (range : Nat) : Statement (.pumpRoundStart part range) := fun h => Bool.noConfusion h
theorem pumpBlockReceive (idx : Nat) : Statement (.pumpBlockReceive idx) := fun h => Bool.noConfusion h
theorem pumpBlockAck (idx : Nat) : Statement (.pumpBlockAck idx) := fun h => Bool.noConfusion h
theorem engineQueueEntry (core : Nat) (idx : Nat) : Statement (.engineQueueEntry core idx) := fun h => Bool.noConfusion h
theorem engineCommandStart (cluster : Nat) : Statement (.engineCommandStart cluster) := fun h => Bool.noConfusion h
theorem engineCommandComplete (cluster : Nat) : Statement (.engineCommandComplete cluster) := fun h => Bool.noConfusion h
theorem macstWrite (cluster : Nat) : Statement (.macstWrite cluster) := fun h => Bool.noConfusion h
theorem migration (cluster : Nat) (idx : Nat) : Statement (.migration cluster idx) := fun h => Bool.noConfusion h
theorem migratedMmaStart (cluster : Nat) : Statement (.migratedMmaStart cluster) := fun h => Bool.noConfusion h
theorem migrationReturn (cluster : Nat) : Statement (.migrationReturn cluster) := fun h => Bool.noConfusion h
theorem pairCompare (core : Nat) (carrel : Nat) : Statement (.pairCompare core carrel) := fun h => Bool.noConfusion h
theorem twinSyncWord (core : Nat) (carrel : Nat) : Statement (.twinSyncWord core carrel) := fun h => Bool.noConfusion h
theorem graphLoad (w : Word) (host : Bool) : Statement (.graphLoad w host) := fun h => Bool.noConfusion h
theorem graphUnload (w : Word) (host : Bool) : Statement (.graphUnload w host) := fun h => Bool.noConfusion h
theorem nodeRelease (w : Word) (host : Bool) : Statement (.nodeRelease w host) := fun h => Bool.noConfusion h
theorem nodeCancel (w : Word) (host : Bool) : Statement (.nodeCancel w host) := fun h => Bool.noConfusion h
theorem hcmdInvalid (w : Word) (host : Bool) : Statement (.hcmdInvalid w host) := fun h => Bool.noConfusion h
theorem hcmdPartialWrite (off : Nat) (w : BitVec 32) : Statement (.hcmdPartialWrite off w) := fun h => Bool.noConfusion h
theorem triggerWrite (q : Nat) (size : Nat) (w : Word) : Statement (.triggerWrite q size w) := fun h => Bool.noConfusion h
theorem instanceStart (q : Nat) : Statement (.instanceStart q) := fun h => Bool.noConfusion h
theorem kernelReserve (inst : Nat) (node : Nat) : Statement (.kernelReserve inst node) := fun h => Bool.noConfusion h
theorem launchFinish (idx : Nat) : Statement (.launchFinish idx) := fun h => Bool.noConfusion h
theorem siphNodeStart (inst : Nat) (node : Nat) : Statement (.siphNodeStart inst node) := fun h => Bool.noConfusion h
theorem barrierNodeStart (inst : Nat) (node : Nat) : Statement (.barrierNodeStart inst node) := fun h => Bool.noConfusion h
theorem notifyHostNodeStart (inst : Nat) (node : Nat) :
    Statement (.notifyHostNodeStart inst node) := fun h => Bool.noConfusion h
theorem notifyHostReadback (inst : Nat) (node : Nat) (ok : Bool) :
    Statement (.notifyHostReadback inst node ok) := fun h => Bool.noConfusion h
theorem partitionSwitchOut (ctx : Nat) : Statement (.partitionSwitchOut ctx) := fun h => Bool.noConfusion h
theorem partitionDrainDone (ctx : Nat) : Statement (.partitionDrainDone ctx) := fun h => Bool.noConfusion h
theorem partitionSwitchIn (ctx : Nat) (colour : Nat) :
    Statement (.partitionSwitchIn ctx colour) := fun h => Bool.noConfusion h
theorem moduleReset (boot : BootInput) : Statement (.moduleReset boot) := fun h => Bool.noConfusion h
theorem bootStageAdvance : Statement .bootStageAdvance := fun h => Bool.noConfusion h
theorem bar2Read (off : Nat) (count : Nat) : Statement (.bar2Read off count) := fun h => Bool.noConfusion h
theorem bar2Write (off : Nat) (data : List Byte) : Statement (.bar2Write off data) := fun h => Bool.noConfusion h
theorem w2baseWrite (w : Word) : Statement (.w2baseWrite w) := fun h => Bool.noConfusion h
theorem bar0InvalidAccess (off : Nat) (size : Nat) (write : Bool) :
    Statement (.bar0InvalidAccess off size write) := fun h => Bool.noConfusion h
theorem registerWrite (r : HubReg) (w : Word) : Statement (.registerWrite r w) := fun h => Bool.noConfusion h
theorem timeTick : Statement .timeTick := fun h => Bool.noConfusion h
theorem messageRetry (core : Nat) (idx : Nat) : Statement (.messageRetry core idx) := fun h => Bool.noConfusion h
theorem shelfMapWrite (cluster : Nat) (w : Cap) : Statement (.shelfMapWrite cluster w) := fun h => Bool.noConfusion h
theorem contextCreation (init : CtxInit) : Statement (.contextCreation init) := fun h => Bool.noConfusion h
theorem cisternRangeCreation (init : RangeInit) : Statement (.cisternRangeCreation init) := fun h => Bool.noConfusion h
theorem engineAllotment (cluster : Nat) (ctx : Nat) (tlb : Nat) (tln : Nat) (alb : Nat) (aln : Nat) :
    Statement (.engineAllotment cluster ctx tlb tln alb aln) := fun h => Bool.noConfusion h
theorem activationRemoval (core : Nat) (carrel : Nat) :
    Statement (.activationRemoval core carrel) := fun h => Bool.noConfusion h

end Sys2Proof.Laws.RoundTrip
end

