-- ==== Sys2Proof/Tests/Slice0.lean ====
section
/-! SUPPORT. The model's own tests: ill-formed terms, words written out from the encodings, one step on a small state, and for each
statement a state and operands that meet its hypotheses. -/

namespace Sys2Proof.Tests

open Sys2Proof Sys2Proof.Machine

-- one theorem at a time: many kernel evaluations side by side would need too much memory
set_option Elab.async false

/-! ### Small states -/

/-- The place of core 0 in a launch of one bay with one core. -/
def tBay : Bay := { launch := 0, wing := 0, bay := 0, cib := 0, bayn := 1, nbay := 1, nwing := 1, stage := 0, isOpen := true }

/-- Context 1, with a range table of one entry at 0x1000 that maps granule 0 to physical granule 2. -/
def tCtxs : FMap Ctx := [(1, { rtBase := 0x1000, rtCount := 1 })]

/-- The bytes of that entry: 16 granules, readable, writable and executable. -/
def tTable : List Host.Cell := [(0x1008, 16), (0x1010, 2), (0x1018, 0xF)]

/-- Core 0 of context 1 with a carrel. -/
def tState (c : Carrel) : State :=
  { cores := [(0, { ctx := 1, bay := some tBay, carrels := [(0, c)] })], ctxs := tCtxs, mem := tTable }

/-- A Running carrel with data in some registers. -/
def tRun (rs : List (Nat × Word)) : Carrel := { st := .running, regs := rs.map fun (r, v) => (r, { val := v.setWidth 128 }) }

/-- Core 0 runs an activation with data in some registers. -/
def tRegs (rs : List (Nat × Word)) : State := tState (tRun rs)

/-- The state after a step's meaning, if it has one. -/
def tNext (i : Instr) (s : State) : Option State :=
  match exec i s with
  | .next t => some t
  | _ => none

/-- What a test reads of the state after an instruction. -/
def tAfter {α : Type} (i : Instr) (s : State) (f : State → α) : Option α := (tNext i s).map f

/-! ### WellFormed: for each check a term it refuses and one at its edge that it takes -/

theorem test_ill_formed :
    ∀ i ∈ [Instr.bfxU 1 2 63 1, .bfxS 1 2 32 32, .bfi 1 2 0b111111 0b111111, .amo 0 1 2 .rlx false .add, .send 1 2 3 9, .send 60 2 3 5,
      .send 1 2 3 0, .vcvt 1 2 .f32OfBf16 0 2, .vcvt 1 2 .f64OfI64 0 1, .scpset 1 5, .scpset 1 32, .scpget 1 32,
      .sysr 1 .rttw, .sysw 1 .coord, .sysw 1 .epoch, .sysw 1 .time, .sysw 1 .twin, .sysw 1 .scpbase, .sysw 1 .caplist, .sysw 1 .rttw],
      i.wellFormed = false := by decide

theorem test_well_formed :
    ∀ i ∈ [Instr.bfxU 1 2 63 0, .bfxS 1 2 32 31, .bfi 1 2 0 63, .amo 1 1 2 .rlx false .add, .send 1 2 3 8, .send 60 2 3 4, .send 0 2 3 0,
      .vcvt 1 2 .f32OfBf16 0 1, .vcvt 1 2 .i32OfI8 0 3, .vcvt 1 2 .f64OfI64 0 0, .scpset 1 6, .scpset 1 31, .scpget 1 31, .sysr 1 .caplist,
      .sysw 1 .deferr], i.wellFormed = true := by decide

/-! ### Words from the encoding tables and the examples of the spec -/

/-- R74: function codes 0x00 to 0x12, W in f[7]. -/
theorem test_decode_alu :
    decodeWord 0b000001_000011_000100_000101_00000000 = .ok (.add 3 4 5 false) ∧
    decodeWord 0b000001_000011_000100_000101_10000001 = .ok (.sub 3 4 5 true) ∧
    decodeWord 0b000001_000011_000100_000101_00000010 = .ok (.and_ 3 4 5 false) ∧
    decodeWord 0b000001_000011_000100_000101_10000011 = .ok (.or_ 3 4 5 true) ∧
    decodeWord 0b000001_000011_000100_000101_00000100 = .ok (.xor_ 3 4 5 false) ∧
    decodeWord 0b000001_000011_000100_000101_10000101 = .ok (.shl 3 4 5 true) ∧
    decodeWord 0b000001_000011_000100_000101_00000110 = .ok (.shr 3 4 5 false) ∧
    decodeWord 0b000001_000011_000100_000101_10000111 = .ok (.sra 3 4 5 true) ∧
    decodeWord 0b000001_000011_000100_000101_00001000 = .ok (.mul 3 4 5 false) ∧
    decodeWord 0b000001_000011_000100_000101_10001001 = .ok (.mulh 3 4 5 true) ∧
    decodeWord 0b000001_000011_000100_000101_00001010 = .ok (.mulhu 3 4 5 false) ∧
    decodeWord 0b000001_000011_000100_000101_10001011 = .ok (.div 3 4 5 true) ∧
    decodeWord 0b000001_000011_000100_000101_00001100 = .ok (.divu 3 4 5 false) ∧
    decodeWord 0b000001_000011_000100_000101_10001101 = .ok (.rem 3 4 5 true) ∧
    decodeWord 0b000001_000011_000100_000101_00001110 = .ok (.remu 3 4 5 false) ∧
    decodeWord 0b000001_000011_000100_000101_10001111 = .ok (.min 3 4 5 true) ∧
    decodeWord 0b000001_000011_000100_000101_00010000 = .ok (.max 3 4 5 false) ∧
    decodeWord 0b000001_000011_000100_000101_10010001 = .ok (.minu 3 4 5 true) ∧
    decodeWord 0b000001_000011_000100_000101_00010010 = .ok (.maxu 3 4 5 false) := by decide

/-- The examples of R328, R376 and R390. -/
theorem test_decode_alu_examples :
    decodeWord 0x04A28100 = .ok (.add 10 10 1 false) ∧
    decodeWord 0x04310508 = .ok (.mul 3 4 5 false) ∧
    decodeWord 0x0431058A = .ok (.mulhu 3 4 5 true) ∧
    decodeWord 0x04F38C08 = .ok (.mul 15 14 12 false) ∧
    decodeWord 0x04310587 = .ok (.sra 3 4 5 true) ∧
    decodeWord 0x05F7DC05 = .ok (.shl 31 31 28 false) ∧
    decodeWord 0x0431058B = .ok (.div 3 4 5 true) ∧
    decodeWord 0x0431058E = .ok (.remu 3 4 5 true) := by decide

/-- R74, R388, R389: CLZ to ZEXT. -/
theorem test_decode_alu_unary :
    decodeWord 0b000001_111111_000001_000000_00010011 = .ok (.clz 63 1 false) ∧
    decodeWord 0b000001_000001_111111_000000_10010100 = .ok (.popc 1 63 true) ∧
    decodeWord 0x04310515 = .ok (.sel 3 4 5) ∧
    decodeWord 0x04310116 = .ok (.sext 3 4 .h) ∧
    decodeWord 0x04310017 = .ok (.zext 3 4 .b) ∧
    decodeWord 0x05248217 = .ok (.zext 18 18 .w) := by decide

/-- R74: CMP is 0x20 plus the condition. -/
theorem test_decode_cmp :
    decodeWord 0b000001_000011_000100_000101_10100000 = .ok (.cmp 3 4 5 true .eq) ∧
    decodeWord 0b000001_000011_000100_000101_00100001 = .ok (.cmp 3 4 5 false .ne) ∧
    decodeWord 0b000001_000011_000100_000101_00100010 = .ok (.cmp 3 4 5 false .lt) ∧
    decodeWord 0b000001_000011_000100_000101_10100011 = .ok (.cmp 3 4 5 true .ge) ∧
    decodeWord 0b000001_000011_000100_000101_00100100 = .ok (.cmp 3 4 5 false .ltu) ∧
    decodeWord 0b000001_000011_000100_000101_00100101 = .ok (.cmp 3 4 5 false .geu) ∧
    decodeWord 0b000001_000011_000100_000101_10100110 = .ok (.cmp 3 4 5 true .gt) ∧
    decodeWord 0b000001_000011_000100_000101_00100111 = .ok (.cmp 3 4 5 false .le) ∧
    decodeWord 0b000001_000011_000100_000101_00101000 = .ok (.cmp 3 4 5 false .gtu) ∧
    decodeWord 0b000001_000011_000100_000101_10101001 = .ok (.cmp 3 4 5 true .leu) := by decide

/-- R73: majors 0x02 to 0x08. -/
theorem test_decode_immediates :
    decodeWord 0x08B2FFFF = .ok (.addi 11 11 (-1)) ∧
    decodeWord 0b000011_000001_000010_01010101010101 = .ok (.andi 1 2 0x1555) ∧
    decodeWord 0b000100_000001_000010_10101010101010 = .ok (.ori 1 2 0x2AAA) ∧
    decodeWord 0b000101_111111_000000_00000000000001 = .ok (.xori 63 0 1) ∧
    decodeWord 0x19030002 = .ok (.shli 16 12 2) ∧
    decodeWord 0x18311004 = .ok (.shri 3 4 4) ∧
    decodeWord 0b000110_000011_000100_10000000111111 = .ok (.srai 3 4 63) ∧
    decodeWord 0b000111_000011_000100_01011111111111 = .ok (.cmpi 3 4 .geu (-1)) ∧
    decodeWord 0x20C00001 = .ok (.movi 12 1) ∧
    decodeWord 0x212FFFFF = .ok (.movi 18 (-1)) ∧
    decodeWord 0x20C6789A = .ok (.movi 12 0x6789A) := by decide

/-- The examples of R339; f[7:2] is the length less 1. -/
theorem test_decode_bit_fields :
    decodeWord 0x24B2841C = .ok (.bfxU 11 10 4 7) ∧
    decodeWord 0x24B2841D = .ok (.bfxS 11 10 4 7) ∧
    decodeWord 0x24C2BC0E = .ok (.bfi 12 10 60 3) := by decide

/-- The examples of R345 to R348. -/
theorem test_decode_capabilities :
    decodeWord 0x28614700 = .ok (.cbnd 6 5 7) ∧
    decodeWord 0x28A18B01 = .ok (.cperm 10 6 11) ∧
    decodeWord 0b001010_000001_000010_000011_00000010 = .ok (.cinc 1 2 3) ∧
    decodeWord 0x28818203 = .ok (.cget 8 6 .top) ∧
    decodeWord 0x28914604 = .ok (.ctest 9 5 6) ∧
    decodeWord 0b001010_000001_000010_000011_00000101 = .ok (.cseta 1 2 3) ∧
    decodeWord 0b001011_001110_111101_11111111111111 = .ok (.cinci 14 61 (-1)) := by decide

/-- The examples of R368 and R392; R72 gives w. -/
theorem test_decode_loads_stores :
    decodeWord 0x30A15802 = .ok (.ld 10 5 .d 2) ∧
    decodeWord 0x3103F800 = .ok (.ld 16 15 .wu 0) ∧
    decodeWord 0x30816000 = .ok (.ld 8 5 .q 0) ∧
    decodeWord 0x303107FF = .ok (.ld 3 4 .b (-1)) ∧
    decodeWord 0b001100_000001_000010_001_10000000000 = .ok (.ld 1 2 .h (-1024)) ∧
    decodeWord 0b001100_000001_000010_010_01111111111 = .ok (.ld 1 2 .w 1023) ∧
    decodeWord 0b001100_000001_000010_101_00000000000 = .ok (.ld 1 2 .bu 0) ∧
    decodeWord 0b001100_000001_000010_110_00000000000 = .ok (.ld 1 2 .hu 0) ∧
    decodeWord 0x352F1000 = .ok (.st 18 60 .w 0) ∧
    decodeWord 0x34716000 = .ok (.st 7 5 .q 0) ∧
    decodeWord 0x343107FF = .ok (.st 3 4 .b (-1)) := by decide

/-- The examples of R411, R415 and R418. -/
theorem test_decode_vector_loads_stores :
    decodeWord 0x38861000 = .ok (.vld 4 12 1 0) ∧
    decodeWord 0x38632000 = .ok (.vld 3 6 2 0) ∧
    decodeWord 0x3C7F1000 = .ok (.vst 3 62 1 0) ∧
    decodeWord 0x40451584 = .ok (.vlds 4 20 21 .e32 1) ∧
    decodeWord 0x404515E0 = .ok (.vsts 4 20 21 .e64 0) ∧
    decodeWord 0x445586C0 = .ok (.vgath 5 22 6 .e64 0) ∧
    decodeWord 0x445586A8 = .ok (.vscat 5 22 6 .e32 2) := by decide

/-- R73, R331, R342; AMO with d = c0 is the form without a result. -/
theorem test_decode_atomics :
    decodeWord 0x48EF5F02 = .ok (.amo 14 61 31 .rlx false .or) ∧
    decodeWord 0x48F65100 = .ok (.amo 15 25 17 .rlx false .add) ∧
    decodeWord 0b010010_000001_000010_000011_10011000 = .ok (.amo 1 2 3 .sc true .swap) ∧
    decodeWord 0b010010_000000_000010_000011_01000101 = .ok (.amoNoReturn 2 3 .rel false .max) ∧
    decodeWord 0b010011_000001_000010_000011_01110000 = .ok (.cas 1 2 3 .ar true) ∧
    decodeWord 0x50000408 = .ok (.fence 4 true .rlx) ∧
    decodeWord 0b010100_000000_000000_011111_00000001 = .ok (.fence 31 false .acq) := by decide

/-- The examples of R365; R73 for LJOIN and LWAIT. -/
theorem test_decode_ranges_cisterns :
    decodeWord 0x54050C00 = .ok (.pref 20 12) ∧
    decodeWord 0x54050C01 = .ok (.wbr 20 12) ∧
    decodeWord 0x54050C02 = .ok (.invr 20 12) ∧
    decodeWord 0x54050C03 = .ok (.wbri 20 12) ∧
    decodeWord 0b010110_000000_000001_000010_10000000 = .ok (.ljoin 1 2 true) ∧
    decodeWord 0b010110_000011_000001_000010_00000001 = .ok (.lwait 3 1 2 false) := by decide

/-- R75 and the examples of R355 and R358. -/
theorem test_decode_scalar_float :
    decodeWord 0x5C310540 = .ok (.fadd 3 4 5 .fp32) ∧
    decodeWord 0x5C310441 = .ok (.fsub 3 4 4 .fp32) ∧
    decodeWord 0x5C310542 = .ok (.fmul 3 4 5 .fp32) ∧
    decodeWord 0x5C310543 = .ok (.fdiv 3 4 5 .fp32) ∧
    decodeWord 0x5C310044 = .ok (.fsqrt 3 4 .fp32) ∧
    decodeWord 0b010111_000011_000100_000101_10000101 = .ok (.fmin 3 4 5 .fp64) ∧
    decodeWord 0x5C310546 = .ok (.fmax 3 4 5 .fp32) ∧
    decodeWord 0b010111_000011_000100_000101_10000111 = .ok (.ffma 3 4 5 .fp64) ∧
    decodeWord 0b010111_000011_000100_000101_01001000 = .ok (.fcmp 3 4 5 .fp32 .eq) ∧
    decodeWord 0b010111_000011_000100_000101_01001001 = .ok (.fcmp 3 4 5 .fp32 .lt) ∧
    decodeWord 0b010111_000011_000100_000101_01001010 = .ok (.fcmp 3 4 5 .fp32 .le) ∧
    decodeWord 0b010111_000011_000100_000101_01001011 = .ok (.fcmp 3 4 5 .fp32 .un) := by decide

/-- The codes of R358. -/
theorem test_decode_fcvt :
    decodeWord 0b010111_000011_000100_000000_10010000 = .ok (.fcvt 3 4 .fOfOther .fp64) ∧
    decodeWord 0b010111_000011_000100_000001_10010000 = .ok (.fcvt 3 4 .fOfI64 .fp64) ∧
    decodeWord 0b010111_000011_000100_000010_10010000 = .ok (.fcvt 3 4 .fOfN64 .fp64) ∧
    decodeWord 0b010111_000011_000100_000011_10010000 = .ok (.fcvt 3 4 .fOfI32 .fp64) ∧
    decodeWord 0b010111_000011_000100_000100_10010000 = .ok (.fcvt 3 4 .fOfN32 .fp64) ∧
    decodeWord 0b010111_000011_000100_001000_10010000 = .ok (.fcvt 3 4 .i64OfF .fp64) ∧
    decodeWord 0b010111_000011_000100_001001_10010000 = .ok (.fcvt 3 4 .n64OfF .fp64) ∧
    decodeWord 0b010111_000011_000100_001010_10010000 = .ok (.fcvt 3 4 .i32OfF .fp64) ∧
    decodeWord 0b010111_000011_000100_001011_10010000 = .ok (.fcvt 3 4 .n32OfF .fp64) ∧
    decodeWord 0b010111_000011_000100_001100_10010000 = .ok (.fcvt 3 4 .i64tOfF .fp64) ∧
    decodeWord 0b010111_000011_000100_001101_10010000 = .ok (.fcvt 3 4 .i32tOfF .fp64) ∧
    decodeWord 0b010111_000011_000100_010000_10010000 = .ok (.fcvt 3 4 .bf16OfF .fp64) ∧
    decodeWord 0b010111_000011_000100_010001_10010000 = .ok (.fcvt 3 4 .fOfBf16 .fp64) ∧
    decodeWord 0b010111_000011_000100_010010_10010000 = .ok (.fcvt 3 4 .e4m3OfF .fp64) ∧
    decodeWord 0b010111_000011_000100_010011_10010000 = .ok (.fcvt 3 4 .fOfE4m3 .fp64) ∧
    decodeWord 0x5C311250 = .ok (.fcvt 3 4 .e4m3OfF .fp32) := by decide

/-- R76: VINT, and the examples of R400. -/
theorem test_decode_vector_integer :
    decodeWord 0b011000_11111_11110_11101_111_00_000000 = .ok (.vadd 31 30 29 7 .e8) ∧
    decodeWord 0b011000_11111_11110_11101_111_01_000001 = .ok (.vsub 31 30 29 7 .e16) ∧
    decodeWord 0b011000_11111_11110_11101_111_10_000010 = .ok (.vmul 31 30 29 7 .e32) ∧
    decodeWord 0b011000_11111_11110_11101_111_11_000011 = .ok (.vmin 31 30 29 7 .e64) ∧
    decodeWord 0b011000_11111_11110_11101_111_00_000100 = .ok (.vmax 31 30 29 7 .e8) ∧
    decodeWord 0b011000_11111_11110_11101_111_01_000101 = .ok (.vminu 31 30 29 7 .e16) ∧
    decodeWord 0b011000_11111_11110_11101_111_10_000110 = .ok (.vmaxu 31 30 29 7 .e32) ∧
    decodeWord 0b011000_11111_11110_11101_111_11_000111 = .ok (.vand 31 30 29 7 .e64) ∧
    decodeWord 0b011000_11111_11110_11101_111_00_001000 = .ok (.vor 31 30 29 7 .e8) ∧
    decodeWord 0b011000_11111_11110_11101_111_01_001001 = .ok (.vxor 31 30 29 7 .e16) ∧
    decodeWord 0b011000_11111_11110_11101_111_10_001010 = .ok (.vshl 31 30 29 7 .e32) ∧
    decodeWord 0b011000_11111_11110_11101_111_11_001011 = .ok (.vshr 31 30 29 7 .e64) ∧
    decodeWord 0b011000_11111_11110_11101_111_00_001100 = .ok (.vsra 31 30 29 7 .e8) ∧
    decodeWord 0x60221800 = .ok (.vadd 1 2 3 0 .e8) ∧
    decodeWord 0x608532C2 = .ok (.vmul 4 5 6 2 .e64) ∧
    decodeWord 0x60E8484C = .ok (.vsra 7 8 9 0 .e16) ∧
    decodeWord 0b011000_00101_00001_00010_011_10_010000 = .ok (.vcmp 5 1 2 3 .e32 .eq) ∧
    decodeWord 0b011000_00101_00001_00010_011_10_010001 = .ok (.vcmp 5 1 2 3 .e32 .ne) ∧
    decodeWord 0b011000_00101_00001_00010_011_10_010010 = .ok (.vcmp 5 1 2 3 .e32 .lt) ∧
    decodeWord 0b011000_00101_00001_00010_011_10_010011 = .ok (.vcmp 5 1 2 3 .e32 .ge) ∧
    decodeWord 0b011000_00101_00001_00010_011_10_010100 = .ok (.vcmp 5 1 2 3 .e32 .ltu) ∧
    decodeWord 0b011000_00101_00001_00010_011_10_010101 = .ok (.vcmp 5 1 2 3 .e32 .geu) ∧
    decodeWord 0b011000_00101_00001_00010_011_10_010110 = .ok (.vcmp 5 1 2 3 .e32 .gt) ∧
    decodeWord 0b011000_00101_00001_00010_011_10_010111 = .ok (.vcmp 5 1 2 3 .e32 .le) := by decide

/-- R76: VINT, and the examples of R400. -/
theorem test_decode_vector_integer_more :
    decodeWord 0b011000_00101_00001_00010_011_10_011000 = .ok (.vcmp 5 1 2 3 .e32 .gtu) ∧
    decodeWord 0b011000_00101_00001_00010_011_10_011001 = .ok (.vcmp 5 1 2 3 .e32 .leu) := by decide

/-- R76: VFP, and the examples of R407. -/
theorem test_decode_vector_float :
    decodeWord 0b011001_00001_00010_00011_100_00_000000 = .ok (.vfadd 1 2 3 4 .bf16) ∧
    decodeWord 0b011001_00001_00010_00011_100_01_000001 = .ok (.vfsub 1 2 3 4 .fp32) ∧
    decodeWord 0b011001_00001_00010_00011_100_10_000010 = .ok (.vfmul 1 2 3 4 .fp64) ∧
    decodeWord 0b011001_00001_00010_00011_100_00_000011 = .ok (.vfma 1 2 3 4 .bf16) ∧
    decodeWord 0b011001_00001_00010_00011_100_01_000100 = .ok (.vfmin 1 2 3 4 .fp32) ∧
    decodeWord 0b011001_00001_00010_00011_100_10_000101 = .ok (.vfmax 1 2 3 4 .fp64) ∧
    decodeWord 0b011001_00001_00010_00011_100_00_000110 = .ok (.vfdiv 1 2 3 4 .bf16) ∧
    decodeWord 0b011001_00001_00010_00000_100_01_000111 = .ok (.vfsqrt 1 2 4 .fp32) ∧
    decodeWord 0x64221800 = .ok (.vfadd 1 2 3 0 .bf16) ∧
    decodeWord 0x64853143 = .ok (.vfma 4 5 6 1 .fp32) ∧
    decodeWord 0x64221886 = .ok (.vfdiv 1 2 3 0 .fp64) ∧
    decodeWord 0b011001_00111_00001_00010_000_10_001000 = .ok (.vfcmp 7 1 2 0 .fp64 .eq) ∧
    decodeWord 0b011001_00111_00001_00010_000_10_001001 = .ok (.vfcmp 7 1 2 0 .fp64 .lt) ∧
    decodeWord 0b011001_00111_00001_00010_000_10_001010 = .ok (.vfcmp 7 1 2 0 .fp64 .le) ∧
    decodeWord 0b011001_00111_00001_00010_000_10_001011 = .ok (.vfcmp 7 1 2 0 .fp64 .un) := by decide

/-- R77: VXFER, and the examples of R402. -/
theorem test_decode_vector_transfer :
    decodeWord 0x68128080 = .ok (.vbcast 1 10 .e32) ∧
    decodeWord 0b011010_000001_000010_000011_01000001 = .ok (.vins 1 2 3 .e16) ∧
    decodeWord 0x68A04B82 = .ok (.vext 10 1 11 .e32) ∧
    decodeWord 0x68C080C3 = .ok (.vred 12 2 .add .e64) ∧
    decodeWord 0b011010_001100_000010_000111_00000011 = .ok (.vred 12 2 .xor .e8) ∧
    decodeWord 0b011010_000001_000010_000000_11000100 = .ok (.mtoc 1 2 .e64) ∧
    decodeWord 0b011010_000111_000010_000000_00000101 = .ok (.ctom 7 2 .e8) ∧
    decodeWord 0b011010_000001_000111_000000_00000110 = .ok (.mcnt 1 7 .e8) := by decide

/-- R77: VMISC, the examples of R374, R405 and R413, and the codes of R405. -/
theorem test_decode_vector_misc :
    decodeWord 0x6C221A80 = .ok (.vsel 1 2 3 2 .e32) ∧
    decodeWord 0x6CC74081 = .ok (.vperm 6 7 8 0 .e32) ∧
    decodeWord 0x6CA00002 = .ok (.viota 5 0 .e8) ∧
    decodeWord 0x6D2A03C4 = .ok (.vmov 9 10 3 .e64) ∧
    decodeWord 0x6C432043 = .ok (.vcvt 2 3 .e4m3OfF32 0 1) ∧
    decodeWord 0x6C844103 = .ok (.vcvt 4 4 .f32OfI32 1 0) ∧
    decodeWord 0x6C221805 = .ok (.mop 1 2 3 .and) ∧
    decodeWord 0x6C8008C5 = .ok (.mop 4 0 1 .andn) ∧
    decodeWord 0x6CA52885 = .ok (.mop 5 5 5 .xor) ∧
    decodeWord 0b011011_00001_00010_00011_000_01_000101 = .ok (.mop 1 2 3 .or) ∧
    decodeWord 0b011011_00010_00011_00000_000_00_000011 = .ok (.vcvt 2 3 .f32OfBf16 0 0) ∧
    decodeWord 0b011011_00010_00011_00001_000_00_000011 = .ok (.vcvt 2 3 .bf16OfF32 0 0) ∧
    decodeWord 0b011011_00010_00011_00010_000_00_000011 = .ok (.vcvt 2 3 .f64OfF32 0 0) ∧
    decodeWord 0b011011_00010_00011_00011_000_00_000011 = .ok (.vcvt 2 3 .f32OfF64 0 0) ∧
    decodeWord 0b011011_00010_00011_00100_000_00_000011 = .ok (.vcvt 2 3 .e4m3OfF32 0 0) ∧
    decodeWord 0b011011_00010_00011_00101_000_00_000011 = .ok (.vcvt 2 3 .f32OfE4m3 0 0) ∧
    decodeWord 0b011011_00010_00011_00110_000_00_000011 = .ok (.vcvt 2 3 .e4m3OfBf16 0 0) ∧
    decodeWord 0b011011_00010_00011_00111_000_00_000011 = .ok (.vcvt 2 3 .bf16OfE4m3 0 0) ∧
    decodeWord 0b011011_00010_00011_01000_000_00_000011 = .ok (.vcvt 2 3 .f32OfI32 0 0) ∧
    decodeWord 0b011011_00010_00011_01001_000_00_000011 = .ok (.vcvt 2 3 .f32OfN32 0 0) ∧
    decodeWord 0b011011_00010_00011_01010_000_00_000011 = .ok (.vcvt 2 3 .i32OfF32 0 0) ∧
    decodeWord 0b011011_00010_00011_01011_000_00_000011 = .ok (.vcvt 2 3 .n32OfF32 0 0) ∧
    decodeWord 0b011011_00010_00011_01100_000_00_000011 = .ok (.vcvt 2 3 .i32tOfF32 0 0) ∧
    decodeWord 0b011011_00010_00011_01101_000_00_000011 = .ok (.vcvt 2 3 .f64OfI64 0 0) := by decide

/-- R77: VMISC, the examples of R374, R405 and R413, and the codes of R405. -/
theorem test_decode_vector_misc_more :
    decodeWord 0b011011_00010_00011_01110_000_00_000011 = .ok (.vcvt 2 3 .i64OfF64 0 0) ∧
    decodeWord 0b011011_00010_00011_01111_000_00_000011 = .ok (.vcvt 2 3 .i64tOfF64 0 0) ∧
    decodeWord 0b011011_00010_00011_10000_000_00_000011 = .ok (.vcvt 2 3 .i32OfI8 0 0) ∧
    decodeWord 0b011011_00010_00011_10001_000_00_000011 = .ok (.vcvt 2 3 .i32OfI16 0 0) ∧
    decodeWord 0b011011_00010_00011_10010_000_00_000011 = .ok (.vcvt 2 3 .i8OfI32 0 0) ∧
    decodeWord 0b011011_00010_00011_10011_000_00_000011 = .ok (.vcvt 2 3 .i16OfI32 0 0) := by decide

/-- R71, R73, R78 and the examples of R367. -/
theorem test_decode_branches :
    decodeWord 0b011100_10000000000000000000000000 = .ok (.b 0x2000000) ∧
    decodeWord 0x744B03FE = .ok (.bc .ne 11 0 (-2)) ∧
    decodeWord 0b011101_1001_000001_000010_0000000001 = .ok (.bc .leu 1 2 1) ∧
    decodeWord 0b011110_0000_000001_000010_0000000001 = .ok (.bm .none 1 2 1) ∧
    decodeWord 0b011110_0001_000001_000010_0000000001 = .ok (.bm .any 1 2 1) ∧
    decodeWord 0b011110_0010_000001_000010_0000000001 = .ok (.bm .all 1 2 1) ∧
    decodeWord 0b011110_0011_000111_000000_1000000000 = .ok (.bm .nall 7 0 0x200) ∧
    decodeWord 0b011111_00000000000000000000000001 = .ok (.call 1) ∧
    decodeWord 0x8002C000 = .ok (.jr 11) ∧
    decodeWord 0x80030001 = .ok (.callr 12) ∧
    decodeWord 0x80000002 = .ok .ret ∧
    decodeWord 0x84000000 = .ok .end_ := by decide

/-- The examples of R377 and R381. -/
theorem test_decode_messages :
    decodeWord 0x88C04201 = .ok (.send 12 1 2 1) ∧
    decodeWord 0x88038300 = .ok (.send 0 14 3 0) ∧
    decodeWord 0x89560103 = .ok (.send 21 24 1 3) ∧
    decodeWord 0x88A2C423 = .ok (.rput 10 11 4 3) ∧
    decodeWord 0x88000045 = .ok (.pclr 5) ∧
    decodeWord 0b100010_000000_000000_111111_01100000 = .ok (.tagctlEn 63) ∧
    decodeWord 0x88000561 = .ok (.tagctlDis 5) ∧
    decodeWord 0b100010_000000_001100_000010_01100010 = .ok (.tagctlPrio 12 2) ∧
    decodeWord 0x88030263 = .ok (.tagctlAddr 12 2) ∧
    decodeWord 0b100010_000000_001100_000010_01100100 = .ok (.tagctlMode 12 2) ∧
    decodeWord 0b100010_000011_001100_000010_01100101 = .ok (.tagctlGate 3 12 2) ∧
    decodeWord 0b100010_000011_001100_000010_01100110 = .ok (.tagctlCap 3 12 2) ∧
    decodeWord 0x88A00267 = .ok (.tagctlStat 10 2) := by decide

/-- The examples of R384 to R386 and of the SBIND entry. -/
theorem test_decode_streams_siphons :
    decodeWord 0x8F0F7C00 = .ok (.sbind 0 61 60) ∧
    decodeWord 0x8F000001 = .ok (.sunbind 0) ∧
    decodeWord 0x8CCC0002 = .ok (.sstat 12 0) ∧
    decodeWord 0b100011_110111_000001_000010_00000000 = .ok (.sbind 7 1 2) ∧
    decodeWord 0x93CF7E05 = .ok (.siph 60 61 62 5) ∧
    decodeWord 0x91455646 = .ok (.sgath 20 21 22 6) ∧
    decodeWord 0x90030082 = .ok (.scfg 12 2) ∧
    decodeWord 0x90A000C3 = .ok (.swmr 10 .status 3) ∧
    decodeWord 0b100100_001010_000000_000001_11111111 = .ok (.swmr 10 .dlo 63) ∧
    decodeWord 0b100100_001010_000000_000010_11000000 = .ok (.swmr 10 .fault 0) := by decide

/-- The examples of R335 and R336. -/
theorem test_decode_barriers :
    decodeWord 0x940FD100 = .ok (.barm 63 17) ∧
    decodeWord 0x94050C01 = .ok (.barb 20 12) ∧
    decodeWord 0x94A50002 = .ok (.barr 10 20) ∧
    decodeWord 0x94B50A03 = .ok (.bwait 11 20 10) := by decide

/-- R259 and the examples of R372. -/
theorem test_decode_matrix :
    decodeWord 0x98050000 = .ok (.tdset 0 20) ∧
    decodeWord 0x98154000 = .ok (.tdset 1 21) ∧
    decodeWord 0b100110_001010_000000_001111_00100000 = .ok (.tdget 10 15) ∧
    decodeWord 0x98A00121 = .ok (.tdgetSt 10 1) ∧
    decodeWord 0x98A00022 = .ok (.tdgetAcc 10 0) ∧
    decodeWord 0x98000140 = .ok (.mma 0 0 1 false) ∧
    decodeWord 0x98108350 = .ok (.mma 1 2 3 true) ∧
    decodeWord 0x98000060 = .ok (.macz 0 .f32) ∧
    decodeWord 0b100110_000111_000000_000000_01100011 = .ok (.macz 7 .f64) ∧
    decodeWord 0x980F9380 = .ok (.macst 0 62 19 .f32) ∧
    decodeWord 0b100110_000001_000010_000011_10000001 = .ok (.macst 1 2 3 .i32) ∧
    decodeWord 0b100110_000001_000010_000011_10000010 = .ok (.macst 1 2 3 .f32s) := by decide

/-- The examples of R173 and R371. -/
theorem test_decode_place_scope :
    decodeWord 0x9CA30000 = .ok (.locqWhere 10 12) ∧
    decodeWord 0x9CD00001 = .ok (.locqEpoch 13) ∧
    decodeWord 0x9CB30002 = .ok (.locqHops 11 12) ∧
    decodeWord 0xA0050700 = .ok (.scpset 20 7) ∧
    decodeWord 0xA0A00701 = .ok (.scpget 10 7) := by decide

/-- The numbers of R67, and the examples of R395. -/
theorem test_decode_system_registers :
    decodeWord 0b101001_001010_000000_000000_00000000 = .ok (.sysr 10 .status) ∧
    decodeWord 0b101001_001010_000000_000001_00000000 = .ok (.sysr 10 .cause) ∧
    decodeWord 0b101001_001010_000000_000010_00000000 = .ok (.sysr 10 .epc) ∧
    decodeWord 0b101001_001010_000000_000011_00000000 = .ok (.sysr 10 .tval) ∧
    decodeWord 0b101001_001010_000000_000100_00000000 = .ok (.sysr 10 .tvec) ∧
    decodeWord 0b101001_001010_000000_000101_00000000 = .ok (.sysr 10 .deadmask) ∧
    decodeWord 0b101001_001010_000000_000110_00000000 = .ok (.sysr 10 .fpc) ∧
    decodeWord 0b101001_001010_000000_000111_00000000 = .ok (.sysr 10 .ltmo) ∧
    decodeWord 0b101001_001010_000000_001000_00000000 = .ok (.sysr 10 .btmo) ∧
    decodeWord 0b101001_001010_000000_001001_00000000 = .ok (.sysr 10 .ctxid) ∧
    decodeWord 0b101001_001010_000000_001010_00000000 = .ok (.sysr 10 .coord) ∧
    decodeWord 0b101001_001010_000000_001011_00000000 = .ok (.sysr 10 .epoch) ∧
    decodeWord 0b101001_001010_000000_001100_00000000 = .ok (.sysr 10 .time) ∧
    decodeWord 0b101001_001010_000000_001101_00000000 = .ok (.sysr 10 .deferr) ∧
    decodeWord 0b101001_001010_000000_001110_00000000 = .ok (.sysr 10 .twin) ∧
    decodeWord 0b101001_001010_000000_001111_00000000 = .ok (.sysr 10 .scpbase) ∧
    decodeWord 0b101001_001010_000000_010000_00000000 = .ok (.sysr 10 .caplist) ∧
    decodeWord 0b101001_000000_001100_000000_00000001 = .ok (.sysw 12 .status) ∧
    decodeWord 0b101001_000000_001100_000001_00000001 = .ok (.sysw 12 .cause) ∧
    decodeWord 0b101001_000000_001100_000010_00000001 = .ok (.sysw 12 .epc) ∧
    decodeWord 0b101001_000000_001100_000011_00000001 = .ok (.sysw 12 .tval) ∧
    decodeWord 0b101001_000000_001100_000100_00000001 = .ok (.sysw 12 .tvec) ∧
    decodeWord 0b101001_000000_001100_000101_00000001 = .ok (.sysw 12 .deadmask) ∧
    decodeWord 0b101001_000000_001100_000110_00000001 = .ok (.sysw 12 .fpc) := by decide

/-- The numbers of R67, and the examples of R395. -/
theorem test_decode_system_registers_more :
    decodeWord 0b101001_000000_001100_000111_00000001 = .ok (.sysw 12 .ltmo) ∧
    decodeWord 0b101001_000000_001100_001000_00000001 = .ok (.sysw 12 .btmo) ∧
    decodeWord 0b101001_000000_001100_001001_00000001 = .ok (.sysw 12 .ctxid) ∧
    decodeWord 0b101001_000000_001100_001101_00000001 = .ok (.sysw 12 .deferr) ∧
    decodeWord 0xA4A00A00 = .ok (.sysr 10 .coord) ∧
    decodeWord 0xA4050201 = .ok (.sysw 20 .epc) ∧
    decodeWord 0xA4031101 = .ok (.syswRttw 12) ∧
    decodeWord 0b101001_000000_001100_001110_00000001 = .ok (.syswTwin 12) ∧
    decodeWord 0b101001_000000_001100_001111_00000001 = .ok (.syswScpbase 12) := by decide

/-- The examples of R360, R361 and R397, and R73. -/
theorem test_decode_system :
    decodeWord 0xA4000102 = .ok (.trap 1) ∧
    decodeWord 0xA402A502 = .ok (.trap 0x2A5) ∧
    decodeWord 0xA40FFF02 = .ok (.trap 0xFFF) ∧
    decodeWord 0b101001_000000_000000_000000_00000011 = .ok .eret ∧
    decodeWord 0b101001_000000_001100_000000_00000100 = .ok (.rtinv 12) ∧
    decodeWord 0xA4028005 = .ok (.idle 10) ∧
    decodeWord 0xA4000006 = .ok .halt := by decide

/-- R80 and the examples of R362. -/
theorem test_decode_hints :
    decodeWord 0xFC012345 = .ok (.hintImm 0x12345) ∧
    decodeWord 0xFC400002 = .ok (.hintScope 2) ∧
    decodeWord 0xFC800008 = .ok (.hintYield 8) ∧
    decodeWord 0xFCC00002 = .ok (.hintCache .stream) ∧
    decodeWord 0b111111_0011_0000000000000000000000 = .ok (.hintCache .nal1) ∧
    decodeWord 0b111111_0011_0000000000000000000001 = .ok (.hintCache .nal2) ∧
    decodeWord 0b111111_0011_0000000000000000000011 = .ok (.hintCache .keep) ∧
    decodeWord 0xFD3FFFFF = .ok (.hintDisp 0x3FFFFF) ∧
    decodeWord 0xFD400000 = .ok .hintPrio ∧
    decodeWord 0xFD800000 = .ok .hintNop := by decide

/-- Words that R71 to R80 call illegal. -/
theorem test_decode_refused_1 :
    decodeWord 0 = .error .reservedMajor ∧
    decodeWord 0b101010_000000_000000_000000_00000000 = .error .reservedMajor ∧
    decodeWord 0b111110_000000_000000_000000_00000000 = .error .reservedMajor ∧
    decodeWord 0b000001_000001_000010_000011_00010011 = .error .illegalField ∧
    decodeWord 0b000001_000001_000010_000011_00011000 = .error .illegalField ∧
    decodeWord 0b000001_000001_000010_000011_00101010 = .error .illegalField ∧
    decodeWord 0b000001_000001_000010_000011_10010101 = .error .illegalField ∧
    decodeWord 0b000001_000001_000010_000011_00010110 = .error .illegalField ∧
    decodeWord 0b000110_000001_000010_00000001000000 = .error .illegalField ∧
    decodeWord 0b000110_000001_000010_11000000000000 = .error .illegalField ∧
    decodeWord 0b000111_000001_000010_10100000000000 = .error .illegalField ∧
    decodeWord 0b001001_000001_000010_000000_00000011 = .error .illegalField ∧
    decodeWord 0b001001_000001_000010_111111_00000100 = .error .illegalOperands ∧
    decodeWord 0b001010_000001_000010_000110_00000011 = .error .illegalField ∧
    decodeWord 0b001010_000001_000010_000011_00000110 = .error .illegalField ∧
    decodeWord 0b001101_000001_000010_101_00000000000 = .error .illegalField ∧
    decodeWord 0b010000_100000_000001_000010_00000000 = .error .illegalField ∧
    decodeWord 0b010000_000001_000001_000010_00000001 = .error .illegalField ∧
    decodeWord 0b010001_000001_000001_000010_00000000 = .error .illegalField ∧
    decodeWord 0b010010_000001_000010_000011_00001001 = .error .illegalField ∧
    decodeWord 0b010010_000001_000010_000011_10100000 = .error .illegalField ∧
    decodeWord 0b010011_000001_000010_000011_00000001 = .error .illegalField ∧
    decodeWord 0b010100_000001_000000_000000_00000000 = .error .illegalField ∧
    decodeWord 0b010100_000000_000000_100000_00000000 = .error .illegalField := by decide

/-- Words that R71 to R80 call illegal. -/
theorem test_decode_refused_2 :
    decodeWord 0b010101_000000_000001_000010_00000100 = .error .illegalField ∧
    decodeWord 0b010110_000001_000001_000010_00000000 = .error .illegalField ∧
    decodeWord 0b010111_000001_000010_000011_00000000 = .error .illegalField ∧
    decodeWord 0b010111_000001_000010_000011_01000100 = .error .illegalField ∧
    decodeWord 0b010111_000001_000010_000101_01010000 = .error .illegalField ∧
    decodeWord 0b011000_01000_00001_00010_000_00_010000 = .error .illegalField ∧
    decodeWord 0b011000_00001_00001_00010_000_00_001101 = .error .illegalField ∧
    decodeWord 0b011001_00001_00001_00010_000_11_000000 = .error .illegalField ∧
    decodeWord 0b011001_00001_00001_00010_000_01_000111 = .error .illegalField ∧
    decodeWord 0b011010_000001_000010_001000_00000011 = .error .illegalField ∧
    decodeWord 0b011010_000001_000010_000001_00000000 = .error .illegalField ∧
    decodeWord 0b011011_00001_00010_10100_000_00_000011 = .error .illegalField ∧
    decodeWord 0b011011_00001_00010_00000_000_10_000011 = .error .illegalOperands ∧
    decodeWord 0b011011_00001_00010_00011_001_00_000101 = .error .illegalField ∧
    decodeWord 0b011101_1010_000001_000010_0000000000 = .error .illegalField ∧
    decodeWord 0b011110_0100_000001_000010_0000000000 = .error .illegalField ∧
    decodeWord 0b011110_0000_001000_000010_0000000000 = .error .illegalField ∧
    decodeWord 0b100000_000001_000010_000000_00000000 = .error .illegalField ∧
    decodeWord 0b100000_000000_000001_000000_00000010 = .error .illegalField ∧
    decodeWord 0b100000_000000_000000_000000_00000011 = .error .illegalField ∧
    decodeWord 0b100001_000000_000000_000000_00000001 = .error .illegalField ∧
    decodeWord 0b100010_000000_000001_000010_00001001 = .error .illegalOperands ∧
    decodeWord 0b100010_111100_000001_000010_00000101 = .error .illegalOperands ∧
    decodeWord 0b100010_000001_000001_000010_00000000 = .error .illegalOperands := by decide

/-- Words that R71 to R80 call illegal. -/
theorem test_decode_refused_3 :
    decodeWord 0b100010_000000_000000_000001_01000000 = .error .illegalField ∧
    decodeWord 0b100010_000000_000000_000001_01101000 = .error .illegalField ∧
    decodeWord 0b100010_000100_000001_000001_01100101 = .error .illegalField ∧
    decodeWord 0b100010_000000_000000_000000_10000000 = .error .illegalField ∧
    decodeWord 0b100011_000000_000000_000000_00000011 = .error .illegalField ∧
    decodeWord 0b100100_000001_000000_000011_11000000 = .error .illegalField ∧
    decodeWord 0b100101_000000_000001_000010_00000100 = .error .illegalField ∧
    decodeWord 0b100110_010000_000001_000000_00000000 = .error .illegalField ∧
    decodeWord 0b100110_000001_000000_000001_00100011 = .error .illegalField ∧
    decodeWord 0b100110_001000_000000_000000_01100000 = .error .illegalField ∧
    decodeWord 0b100111_000001_000000_000000_00000011 = .error .illegalField ∧
    decodeWord 0b101000_000000_000001_000101_00000000 = .error .illegalOperands ∧
    decodeWord 0b101000_000001_000000_100000_00000001 = .error .illegalOperands ∧
    decodeWord 0b101001_000001_000000_010001_00000000 = .error .illegalOperands ∧
    decodeWord 0b101001_000000_000001_001010_00000001 = .error .illegalOperands ∧
    decodeWord 0b101001_000001_000000_010010_00000000 = .error .illegalField ∧
    decodeWord 0b101001_000001_000001_000000_00000000 = .error .illegalField ∧
    decodeWord 0b101001_000000_000000_000000_00000111 = .error .illegalField ∧
    decodeWord 0b111111_0001_0000000000000000100000 = .error .illegalField ∧
    decodeWord 0b111111_0011_0000000000000000000100 = .error .illegalField ∧
    decodeWord 0b111111_0101_0000000000000000000001 = .error .illegalField ∧
    decodeWord 0b111111_0111_0000000000000000000000 = .error .reservedHint := by decide

/-! ### Integer words -/

/-- R329: under W the sum of the low halves is sign-extended. -/
theorem test_add_wraps : tAfter (.add 1 2 3 true) (tRegs [(2, 0x7FFFFFFF), (3, 1)]) (fun t => (t.me.read 1).data) =
    some 0xFFFFFFFF80000000 := by decide +kernel

/-- R376, its examples with −1 and 2, and R352 on the zero divisor and on the overflow case. -/
theorem test_mul_div :
    tAfter (.mulh 3 4 5 false) (tRegs [(4, -1), (5, 2)]) (fun t => (t.me.read 3).data) = some (-1) ∧
    tAfter (.mulhu 3 4 5 false) (tRegs [(4, -1), (5, 2)]) (fun t => (t.me.read 3).data) = some 1 ∧
    tAfter (.mulh 3 4 5 true) (tRegs [(4, 0x80000000), (5, 2)]) (fun t => (t.me.read 3).data) = some (-1) ∧
    tAfter (.divu 3 4 5 false) (tRegs [(4, 7)]) (fun t => (t.me.read 3).data) = some (-1) ∧
    tAfter (.rem 3 4 5 true) (tRegs [(4, 7)]) (fun t => (t.me.read 3).data) = some 7 ∧
    tAfter (.div 3 4 5 true) (tRegs [(4, 0x80000000), (5, -1)]) (fun t => (t.me.read 3).data) = some 0xFFFFFFFF80000000 := by decide +kernel

/-- R389, its examples, and R339 on the top field. -/
theorem test_fields :
    tAfter (.sext 3 4 .h) (tRegs [(4, 0x18001)]) (fun t => (t.me.read 3).data) = some 0xFFFFFFFFFFFF8001 ∧
    tAfter (.zext 3 4 .b) (tRegs [(4, 0xFFFFFFFFFFFFFF80)]) (fun t => (t.me.read 3).data) = some 0x80 ∧
    tAfter (.bfxS 3 4 60 3) (tRegs [(4, 0x8000000000000000)]) (fun t => (t.me.read 3).data) = some 0xFFFFFFFFFFFFFFF8 ∧
    tAfter (.bfi 3 4 60 3) (tRegs [(3, 5), (4, 0x1F)]) (fun t => (t.me.read 3).data) = some 0xF000000000000005 := by decide +kernel

/-- Every word of one data result completes from this state, into a register and into c0. -/
theorem test_meets_IntegerArithmetic :
    (∀ i ∈ [Instr.add 1 2 3 false, .sub 1 2 3 true, .and_ 1 2 3 true, .or_ 1 2 3 true, .xor_ 1 2 3 false, .min 1 2 3 true, .max 1 2 3 true,
      .minu 1 2 3 false, .maxu 1 2 3 true, .clz 1 2 true, .popc 1 2 false, .sel 1 2 3, .sext 1 2 .w, .zext 1 2 .b, .cmp 1 2 3 true .leu,
      .cmpi 1 2 .lt (-1)], issuable i (tRegs []) = true) ∧
    sourcesReady { cs := [2, 3], dc := some 1 } (tRegs []) = true ∧ sourcesReady { cs := [2, 3, 1], dc := some 1 } (tRegs []) = true ∧
    sourcesReady { cs := [2], dc := some 1 } (tRegs []) = true ∧ takes (tRegs []) 1 0 = true ∧ takes (tRegs []) 0 5 = true := by decide +kernel

theorem test_meets_IntegerShifts :
    (∀ i ∈ [Instr.shl 1 2 3 false, .shr 1 2 3 true, .sra 0 2 3 true], issuable i (tRegs [(3, 64)]) = true) ∧
    sourcesReady { cs := [2, 3], dc := some 1 } (tRegs [(3, 64)]) = true ∧ takes (tRegs [(3, 64)]) 1 7 = true := by decide +kernel

theorem test_meets_IntegerMulDiv :
    (∀ i ∈ [Instr.mul 1 2 3 false, .mulh 1 2 3 true, .mulhu 1 2 3 true, .div 1 2 3 true, .divu 1 2 3 false, .rem 1 2 3 true, .remu 1 2 3 true],
      issuable i (tRegs []) = true) ∧
    sourcesReady { cs := [2, 3], dc := some 1 } (tRegs []) = true ∧ takes (tRegs []) 1 (-1) = true := by decide +kernel

/-- A carrel with hint words before its next word. -/
def tHints (hs : List Insn) : State := tState { st := .running, hints := hs }

theorem test_meets_ImmediatesAndFields :
    (∀ i ∈ [Instr.addi 1 2 3, .andi 1 2 3, .ori 1 2 3, .xori 1 2 3, .movi 1 5, .bfxU 1 2 0 63, .bfxS 1 2 63 0, .bfi 1 2 32 31, .shli 1 2 63,
      .shri 1 2 0, .srai 1 2 63], issuable i (tRegs []) = true) ∧
    (∀ i ∈ [Instr.addi 1 2 3, .andi 1 2 3, .ori 1 2 3, .xori 1 2 3, .movi 1 5], issuable i (tHints [0xFC3FFFFF]) = true) ∧
    issuable (.movi 1 5) (tHints [0xFC200000, 0xFC000000]) = true ∧
    sourcesReady { cs := [2], dc := some 1 } (tRegs []) = true ∧ sourcesReady { dc := some 1 } (tRegs []) = true ∧
    sourcesReady { cs := [2, 1], dc := some 1 } (tRegs []) = true ∧ takes (tRegs []) 1 (-1) = true := by decide +kernel


/-! ### Capabilities, floating point, vectors -/

/-- A tagged capability over [base, base + len) of scale 2^g, with its address at the base. -/
def tCap (perms base len g : Nat) : TCap := { val := mkCap perms g 0 (len / 2 ^ g) base, tag := true }

/-- Registers from capabilities. -/
def tCaps (rs : List (Nat × TCap)) : State :=
  tState { st := .running, regs := rs.map fun (r, v) => (r, { val := v.val, tag := v.tag }) }

/-- R346 on a length that needs no granule, and R347 on an address outside the bounds. -/
theorem test_capabilities :
    tAfter (.cbnd 6 5 7) (tCaps [(5, tCap 3 0x2000 0x1000 0), (7, dataCap 0x40)])
      (fun t => ((t.me.read 6).tag, capBounds (t.me.read 6).val)) = some (true, (0x2000, 0x2040)) ∧
    tAfter (.cinci 6 5 0x1000) (tCaps [(5, tCap 3 0x2000 0x1000 0)])
      (fun t => ((t.me.read 6).tag, capBounds (t.me.read 6).val, (t.me.read 6).data)) = some (true, (0x2000, 0x3000), 0x3000) ∧
    tAfter (.cinci 6 5 0x1001) (tCaps [(5, tCap 3 0x2000 0x1000 0)])
      (fun t => ((t.me.read 6).tag, (t.me.read 6).data)) = some (false, 0x3001) := by decide +kernel

/-- Each case of CBND: untagged, outside, no granule, and exact. -/
theorem test_meets_CapabilityNarrowing :
    let s := tCaps [(5, tCap 3 0x2000 0x1000 0), (6, tCap 3 0x2001 0x2000000 0), (7, dataCap 0x1000), (8, dataCap 0x1001), (9, dataCap 0x1000001)]
    (∀ i ∈ [Instr.cbnd 1 5 7, .cbnd 1 5 8, .cbnd 1 10 7, .cbnd 1 6 9, .cperm 1 5 7], issuable i s = true) ∧
    (∀ cs ∈ [[(5 : Reg), 7], [5, 8], [10, 7], [6, 9]], sourcesReady { cs := cs, dc := some 1 } s = true) ∧
    (s.me.read 10).tag = false ∧ (s.me.read 5).tag = true ∧ s.me.settled = true ∧
    capAddr (s.me.read 5).val = 0x2000 ∧ capBounds (s.me.read 5).val = (0x2000, 0x3000) ∧ takes s 1 0x2000 = true := by
  decide +kernel

/-- The granule 2^0 encodes 0x1000 bytes at 0x2000. -/
theorem test_meets_CapabilityNarrowing_exact :
    1 ≤ 0x1000 ∧ 0x1000 ≤ (2 ^ 24 - 1) * 2 ^ 0 ∧ 0x2000 % 2 ^ 0 = 0 ∧ (0x2000 + 0x1000) % 2 ^ 0 = 0 := by decide

/-- No granule encodes 0x1000001 bytes from an odd address. -/
theorem test_meets_CapabilityNarrowing_granule :
    ∀ g ≤ 24, ¬(1 ≤ 0x1000001 ∧ 0x1000001 ≤ (2 ^ 24 - 1) * 2 ^ g ∧ 0x2001 % 2 ^ g = 0 ∧ (0x2001 + 0x1000001) % 2 ^ g = 0) := by decide +kernel

theorem test_meets_CapabilityWords :
    let s := tCaps [(5, tCap 3 0x2000 0x1000 0), (7, dataCap 0x1000)]
    (∀ i ∈ [Instr.cinc 1 5 7, .cseta 1 5 7, .cinci 1 5 (-1), .cget 1 5 .top, .ctest 1 5 5], issuable i s = true) ∧
    sourcesReady { cs := [5, 7], dc := some 1 } s = true ∧ sourcesReady { cs := [5], dc := some 1 } s = true ∧
    takes s 1 0x3000 = true ∧ takes s 1 0x1FFF = true := by decide +kernel

/-- A state whose carrel has FPC and two registers. -/
def tFpc (fpc : BitVec 13) (x y : Word) : State := tState { tRun [(4, x), (5, y)] with fpc := fpc }

/-- R356 and R357: 1 + 2^−24 under RNE, and the largest FP32 number added to itself; R358 gives its examples. -/
theorem test_scalar_float :
    tAfter (.fadd 3 4 5 .fp32) (tFpc 0 0x3F800000 0x33800000) (fun t => (t.me.read 3).data) = some 0x3F800000 ∧
    tAfter (.fadd 3 4 5 .fp32) (tFpc 0 0x7F7FFFFF 0x7F7FFFFF) (fun t => (t.me.read 3).data) = some 0x7F800000 ∧
    tAfter (.fcvt 3 4 .e4m3OfF .fp32) (tFpc 0 0x43FA0000 0) (fun t => (t.me.read 3).data) = some 0x7E ∧
    tAfter (.fcvt 3 4 .i32OfF .fp32) (tFpc 0 0x4F32D05E 0) (fun t => (t.me.read 3).data) = some 0x7FFFFFFF ∧
    tAfter (.fcvt 3 4 .fOfI32 .fp64) (tFpc 0 0xFFFFFFFF 0) (fun t => (t.me.read 3).data) = some 0xBFF0000000000000 := by decide +kernel

/-- Both cases of a scalar word: no enabled flag, and an enabled inexact result; and operands of each special kind. -/
theorem test_meets_ScalarFloat :
    let s := tFpc 0 0x3F800000 0x33800000
    let u := tFpc 0x1F80 0x3F800000 0x33800000
    (∀ i ∈ [Instr.fadd 3 4 5 .fp32, .fsub 3 4 5 .fp32, .fmul 3 4 5 .fp64, .fdiv 3 4 5 .fp32, .fsqrt 3 4 .fp32, .fmin 3 4 5 .fp32,
      .fmax 3 4 5 .fp64, .ffma 3 4 5 .fp32, .fcmp 3 4 5 .fp32 .un, .fcvt 3 4 .i64OfF .fp32], issuable i s = true ∧ issuable i u = true) ∧
    sourcesReady { cs := [4, 5], dc := some 3 } s = true ∧ sourcesReady { cs := [4, 5, 3], dc := some 3 } s = true ∧
    fpTrap s.me.fpc (fmt32.apply (fpcRm s.me.fpc) .add 0x3F800000 0x33800000 0).2 = none ∧
    (fpTrap u.me.fpc (fmt32.apply (fpcRm u.me.fpc) .add 0x3F800000 0x33800000 0).2).isSome = true ∧
    u.me.settled = true ∧ destGate u 3 none = .go ∧ takes s 3 0x3F800000 = true ∧
    (fmt32.decode 0x7FC00000).isNan = true ∧ (fmt32.decode 0x7F800001).isSig = true ∧ fmt32.decode 0x7F800000 = .inf false ∧
    fmt32.decode 0xFF800000 = .inf true ∧ fmt32.decode 0 = .num false 0 (-149) ∧ fmt32.decode 0xBF800000 = .num true 0x800000 (-23) ∧
    fmt32.decode 0x3F800000 = .num false 0x800000 (-23) := by decide +kernel

/-- R252: the least subnormal, the largest number, and the NaN; each clause at its ends. -/
theorem test_meets_E4M3Values :
    decode43 0x01 = .num false 1 (-9) ∧ decode43 0x88 = .num true 8 (-9) ∧ decode43 0x7E = .num false 14 5 ∧
    decode43 0x7F = .nan false ∧ decode43 0x78 = .num false 8 5 := by decide +kernel

/-- A state with two vectors and a mask. -/
def tVecs (x y : VWord) (m : Word) : State :=
  tState { st := .running, vregs := [(1, { val := x }), (2, { val := y }), (3, { val := 7 })], masks := [(1, { val := m })] }

/-- R400 on elements that wrap, with one element not governed. -/
theorem test_vector_add :
    tAfter (.vadd 3 1 2 1 .e8) (tVecs 0xFF01 0x0102 1) (fun t => (t.me.vreg 3).val) = some 3 ∧
    tAfter (.vsra 3 1 2 0 .e16) (tVecs 0x8000 0x11 0) (fun t => (t.me.vreg 3).val) = some 0xC000 := by decide +kernel

theorem test_meets_VectorInteger :
    let s := tVecs 1 2 5
    (∀ i ∈ [Instr.vadd 3 1 2 1 .e8, .vsub 3 1 2 1 .e16, .vmul 3 1 2 1 .e32, .vmin 3 1 2 1 .e64, .vmax 3 1 2 0 .e8, .vminu 3 1 2 1 .e8,
      .vmaxu 3 1 2 1 .e8, .vand 3 1 2 1 .e8, .vor 3 1 2 1 .e8, .vxor 3 1 2 1 .e8, .vshl 3 1 2 1 .e8, .vshr 3 1 2 1 .e8, .vsra 3 1 2 1 .e8,
      .vperm 3 1 2 1 .e8, .viota 3 1 .e8, .vmov 3 1 1 .e64], issuable i s = true) ∧
    sourcesReady { vs := [1, 2], ms := [1], dv := some 3 } s = true ∧ sourcesReady { vs := [1], ms := [1], dv := some 3 } s = true ∧
    sourcesReady { ms := [1], dv := some 3 } s = true := by decide +kernel

/-- Every word of the group, an index at the last element and one past it. -/
theorem test_meets_VectorTransfersAndMasks :
    let s := tState { tRun [(4, 63), (5, 64)] with masks := [(1, { val := 5 })] }
    (∀ i ∈ [Instr.vbcast 1 4 .e8, .vsel 1 2 3 1 .e8, .vins 1 4 5 .e8, .vext 3 1 4 .e8, .vred 3 1 .xor .e8, .mtoc 3 1 .e16, .mcnt 3 1 .e16,
      .ctom 1 4 .e16, .mop 1 2 3 .andn, .vcmp 1 2 3 1 .e8 .lt], issuable i s = true) ∧
    sourcesReady { cs := [4], dv := some 1 } s = true ∧ sourcesReady { vs := [2, 3], ms := [1], dv := some 1 } s = true ∧
    sourcesReady { cs := [4, 5], vs := [1], dv := some 1 } s = true ∧ sourcesReady { cs := [4], vs := [1], dc := some 3 } s = true ∧
    sourcesReady { vs := [1], dc := some 3 } s = true ∧ sourcesReady { ms := [1], dc := some 3 } s = true ∧
    sourcesReady { cs := [4] } s = true ∧ sourcesReady { ms := [2, 3] } s = true ∧ sourcesReady { vs := [2, 3], ms := [1, 1] } s = true ∧
    512 / ewBits .e8 ≤ (operand s [4, 5] 1).toNat ∧ (operand s [4] 0).toNat < 512 / ewBits .e8 ∧ takes s 3 5 = true ∧
    s.me.settled = true := by decide +kernel

/-- No flag enabled, and an enabled division by zero in element 1; a conversion in its last part. -/
theorem test_meets_VectorFloat :
    let s := tVecs 0x3F80000000000000 0 5
    let u := tState { s.me with fpc := 0x1F80 }
    (∀ i ∈ [Instr.vfadd 3 1 2 0 .fp32, .vfsub 3 1 2 0 .fp32, .vfmul 3 1 2 0 .fp32, .vfma 3 1 2 0 .fp32, .vfmin 3 1 2 0 .fp32,
      .vfmax 3 1 2 0 .fp32, .vfdiv 3 1 2 0 .fp32, .vfsqrt 3 1 0 .bf16, .vfcmp 1 1 2 0 .fp64 .le, .vcvt 3 1 .f32OfE4m3 0 3],
      issuable i s = true ∧ issuable i u = true) ∧
    sourcesReady { vs := [1, 2], ms := [0], dv := some 3 } s = true ∧ sourcesReady { vs := [1, 2, 3], ms := [0], dv := some 3 } s = true ∧
    sourcesReady { vs := [1], ms := [0], dv := some 3 } u = true ∧ sourcesReady { vs := [1, 2], ms := [0, 1] } u = true ∧
    fpTrap s.me.fpc (fmt32.apply .rne .div 0x3F800000 0 0).2 = none ∧
    (fpTrap u.me.fpc (fmt32.apply .rne .div 0x3F800000 0 0).2).isSome = true ∧ u.me.settled = true ∧
    (3 : BitVec 2).toNat < VcvtCode.f32OfE4m3.ratio := by decide +kernel


/-! ### Control and traps -/

/-- R334 and R338: −1 word back; R81 widens a displacement; R342 puts the link into c30. -/
theorem test_branches :
    tAfter (.bc .lt 1 2 (-1)) (tState { tRun [(1, -1)] with pc := 0x100 }) (fun t => t.me.pc) = some 0xFC ∧
    tAfter (.bc .ltu 1 2 (-1)) (tState { tRun [(1, -1)] with pc := 0x100 }) (fun t => t.me.pc) = some 0x104 ∧
    tAfter (.bc .ne 1 0 0) (tState { tRun [(1, 1)] with hints := [0xFD000001], pc := 0x100 }) (fun t => t.me.pc) = some 0x1100 ∧
    tAfter (.callr 12) (tState { tRun [(12, 0x2000)] with pc := 0x100 }) (fun t => (t.me.pc, (t.me.read 30).data)) =
      some (0x2000, 0x104) := by decide +kernel

theorem test_meets_Branches :
    (∀ i ∈ [Instr.b 1, .bc .eq 1 2 3, .bm .all 1 2 3], issuable i (tRegs []) = true) ∧
    (∀ i ∈ [Instr.bc .eq 1 2 3, .bm .all 1 2 3], issuable i (tHints [0xFD000001]) = true) ∧
    sourcesReady { cs := [1, 2] } (tRegs []) = true ∧ sourcesReady { ms := [1, 2] } (tRegs []) = true := by decide +kernel

/-- Targets that are good, misaligned and too high. -/
theorem test_meets_CallsAndJumps :
    let s := tRegs [(12, 0x2000), (13, 0x2002), (14, 0x1000000000000), (30, 0x2000)]
    (∀ i ∈ [Instr.call 1, .jr 12, .jr 13, .jr 14, .callr 12, .callr 13, .callr 14, .ret], issuable i s = true) ∧
    (∀ cs ∈ [[(12 : Reg)], [13], [14], [30], []], sourcesReady { cs := cs } s = true ∧ sourcesReady { cs := cs, dc := some 30 } s = true) ∧
    takes s 30 4 = true ∧ (deadRegs s.myCore.cregs.deadmask).any s.me.pendingReg = false ∧ s.me.settled = true ∧
    (operand s [12] 0).extractLsb' 0 2 = 0 ∧ (operand s [12] 0).extractLsb' 48 16 = 0 ∧ (operand s [13] 0).extractLsb' 0 2 ≠ 0 ∧
    (operand s [14] 0).extractLsb' 0 2 = 0 ∧ (operand s [14] 0).extractLsb' 48 16 ≠ 0 ∧
    (operand (tRegs [(30, 1)]) [30] 0).extractLsb' 0 2 ≠ 0 ∧ issuable .ret (tRegs [(30, 1)]) = true ∧
    (operand (tRegs [(30, -4)]) [30] 0).extractLsb' 48 16 ≠ 0 := by decide +kernel

/-- A carrel with a bound stream register c48, an outstanding load of c5, an absent c33 and an erroneous c34. -/
def tMarks : Carrel :=
  { st := .running, streams := [(48, { base := {}, extents := [4], strides := [8], size := 8, write := true, sign := false, total := 4 })],
    loads := [{ id := 1, dest := .reg 5 .d false, addr := 0, size := 8 }],
    regs := [(33, { present := false }), (34, { err := some ⟨0x40, false⟩ }), (35, { err := some ⟨0x80, true⟩ })] }

/-- Each case of a source: waited for, absent, erroneous, and readable. -/
theorem test_meets_DeadRegistersAndSources :
    let s := tState tMarks
    (∀ i ∈ [Instr.add 1 5 2 false, .add 1 33 2 false, .add 1 34 2 false, .add 1 2 35 false, .add 1 2 3 false],
      issuable i s = true ∧ isSync i = false) ∧
    (s.me.pendingReg 5 = true ∧ s.me.pendingReg 33 = false ∧ s.me.pendingReg 1 = false) ∧ [(33 : Reg), 2].filter s.me.absent ≠ [] ∧
    [(34 : Reg), 35, 2].filter s.me.absent = [] ∧ s.me.marked 34 = some ⟨0x40, false⟩ ∧ s.me.marked 2 = none ∧
    s.me.marked 35 = some ⟨0x80, true⟩ ∧ (tState { tMarks with loads := [] }).me.settled = true ∧
    s.me.stream 2 = none ∧ eccFails s.me { cs := [2, 3], dc := some 1 } = false ∧ s.me.stream 48 ≠ none ∧ s.me.stream 30 = none ∧
    (0x40000000 : Word).getLsbD (30 : Reg).toNat = true ∧ (0x40000000 : Word).getLsbD (31 : Reg).toNat = false := by decide +kernel

/-- ADD is such a word. -/
theorem test_meets_sources_word (s : State) : ∃ f, exec (.add 1 2 3 false) s = dataWord (.add 1 2 3 false) 1 [2, 3] s f := by
  refine ⟨fun v => sext64 64 (lowOf 64 v 0 + lowOf 64 v 1), ?_⟩
  unfold exec execAdd aluWord; rfl

/-- R80 and R82: one hint, two, and a third. -/
theorem test_meets_HintWords :
    (tHints []).me.issues = true ∧ (tHints []).me.hints.length ≠ 2 ∧ (tHints [0xFD400000]).me.hints.length ≠ 2 ∧
    (tHints [0xFD400000, 0xFD800000]).me.issues = true ∧ (tHints [0xFD400000, 0xFD800000]).me.hints.length = 2 ∧
    (tHints [0xFD400000, 0xFD800000]).me.settled = true := by decide +kernel

/-- R119: a TRAP after one hint at level 0. -/
theorem test_trap_entry :
    tAfter (.trap 0x2A5) (tState { tRun [] with pc := 0x104, hints := [0xFD400000] }) (fun t => (t.me.epc, t.me.cause, t.me.tval, t.me.lv)) =
      some (0x100, 0x765, 0x2A5, 1) := by decide +kernel

theorem test_meets_TrapEntry :
    ((tRegs []).carrel 0 0).lv = 0 ∧ ((tState { tRun [] with lv := 1, st := .runtime }).carrel 0 0).lv = 1 ∧
    ((tState { tRun [] with lv := 2 }).carrel 0 0).lv = 2 ∧ 0x041 < 1024 ∧ ((tHints [0xFD400000]).carrel 0 0).hints.length < 4 := by
  decide +kernel

/-- A Runtime carrel at level 1 with a cause. -/
def tRuntime (cause : BitVec 12) : State := tState { tRun [] with st := .runtime, lv := 1, cause := cause, epc := 0x200, entry := 3 }

/-- R120 and R126: a return to the trapped group, and the end of an activation that cannot go on. -/
theorem test_eret :
    tAfter .eret (tRuntime 0x041) (fun t => (t.me.pc, t.me.lv, t.me.st)) = some (0x200, 0, .running) ∧
    tAfter .eret (tRuntime 0x2C1) (fun t => t.me.st) = some .free := by decide +kernel

theorem test_meets_EretReturns :
    issuable .eret (tRuntime 0x041) = true ∧ issuable .eret (tRuntime 0x2C1) = true ∧ (tRuntime 0x2C1).me.settled = true ∧
    causeIsAbortive (tRuntime 0x041).me.cause = false ∧ causeIsAbortive (tRuntime 0x2C1).me.cause = true ∧
    isControl (tRuntime 0x2C1).cur.1 = false ∧ (tRuntime 0x2C1).me.pair = false := by decide +kernel

theorem test_meets_ExceptionWords :
    let low : List Instr := [.sysr 1 .cause, .sysr 1 .epc, .sysr 1 .tval, .sysr 1 .tvec, .sysw 2 .status, .sysw 2 .cause,
      .sysw 2 .epc, .sysw 2 .tval, .sysw 2 .deferr, .syswRttw 2, .syswTwin 2, .syswScpbase 2, .eret, .rtinv 2]
    let high : List Instr := [.sysw 2 .tvec, .sysw 2 .ctxid, .halt]
    (∀ i ∈ low ++ high, illegalNow (tRegs []) i = none ∧ (isSync i && isTwin (tRegs [])) = false) ∧ (tRegs []).me.lv = 0 ∧
    (∀ i ∈ high, illegalNow (tRuntime 0x041) i = none ∧ (isSync i && isTwin (tRuntime 0x041)) = false) ∧ (tRuntime 0x041).me.lv.toNat < 2 ∧
    (tRegs []).me.issues = true ∧ (tRuntime 0x041).me.issues = true ∧ isPrimary (tRegs []) = false ∧ isPrimary (tRuntime 0x041) = false ∧
    (tRegs []).me.settled = true ∧ (tRuntime 0x041).me.settled = true ∧ issuable (.trap 0xFFF) (tRegs []) = true := by decide +kernel


/-! ### System registers, places and scopes -/

/-- Core 0 in Runtime at a level, with registers. -/
def tLevel (lv : BitVec 2) (rs : List (Nat × Word)) : State := tState { tRun rs with st := .runtime, lv := lv }

/-- R67, R69 and R62: what SYSW leaves to be read. -/
theorem test_system_registers :
    tAfter (.sysw 2 .deadmask) (tRegs [(2, -1)]) (fun t => t.myCore.cregs.deadmask) = some 0x0FFFFFFF9FFFFC00 ∧
    tAfter (.sysw 2 .epc) (tLevel 1 [(2, -1)]) (fun t => t.me.epc) = some 0xFFFFFFFFFFFC ∧
    tAfter (.sysw 2 .fpc) (tRegs [(2, -1)]) (fun t => t.me.fpc) = some 0x1FFF ∧
    tAfter (.sysr 1 .status) (tLevel 1 []) (fun t => (t.me.read 1).data) = some 1 := by decide +kernel

theorem test_meets_SystemRegisters :
    (∀ n ∈ [SysReg.status, .deadmask, .fpc, .ltmo, .btmo, .ctxid, .coord, .epoch, .time, .deferr, .twin, .scpbase, .caplist],
      issuable (.sysr 1 n) (tRegs []) = true) ∧
    (∀ n ∈ [SysReg.cause, .epc, .tval, .tvec], issuable (.sysr 1 n) (tLevel 1 []) = true) ∧
    (∀ n ∈ [SysReg.deadmask, .fpc, .ltmo, .btmo], n.writable = true ∧ issuable (.sysw 2 n) (tRegs []) = true) ∧
    (∀ n ∈ [SysReg.status, .cause, .epc, .tval, .deferr], n.writable = true ∧ issuable (.sysw 2 n) (tLevel 1 []) = true) ∧
    (∀ n ∈ [SysReg.tvec, .ctxid], n.writable = true ∧ issuable (.sysw 2 n) (tLevel 2 []) = true) ∧
    (tLevel 2 []).me.settled = true ∧ sourcesReady { cs := [2] } (tLevel 2 []) = true ∧ sourcesReady { dc := some 1 } (tRegs []) = true ∧
    takes (tRegs []) 1 5 = true ∧ (tRegs []).myCore.sysOld = [] := by decide +kernel

/-- The same with a value that was in a register before another carrel wrote it in this cycle. -/
def tWritten (j : Nat) (n : SysReg) (w : Word) : State :=
  let s := tLevel 1 []
  let c : Carrel := { tRun [(2, 0x77)] with st := .runtime, lv := 1 }
  let k : Core := { s.core 0 with sysOld := [(n.code, (j, w))], carrels := [(3, c)], ctxRegs := [(1, { ltmo := 9 })], pol := true }
  { s with cur := (0, 3), cores := [(0, k)] }

theorem test_meets_SystemRegisters_written :
    (∀ n ∈ [SysReg.status, .ltmo], fget (tWritten 5 n 4).myCore.sysOld n.code = some (5, 4) ∧ (tWritten 5 n 4).cur.2 = 3 ∧
      issuable (.sysr 1 n) (tWritten 5 n 4) = true ∧ issuable (.sysw 2 n) (tWritten 5 n 4) = true ∧
      sourcesReady { cs := [2] } (tWritten 5 n 4) = true ∧ sourcesReady { dc := some 1 } (tWritten 5 n 4) = true ∧
      takes (tWritten 5 n 4) 1 4 = true ∧ (tWritten 5 n 4).me.settled = true) := by decide +kernel

/-- R397: in one cycle a carrel reads the value from before another's write, and a write after a higher carrel's takes effect
while one after a lower carrel's does not; in the cycle after it reads the new one. -/
theorem test_same_cycle_writes :
    tAfter (.sysr 1 .ltmo) (tWritten 5 .ltmo 4) (fun t => (t.me.read 1).data) = some 4 ∧
    tAfter (.sysr 1 .ltmo) (tick (tWritten 5 .ltmo 4)) (fun t => (t.me.read 1).data) = some 9 ∧
    tAfter (.sysr 1 .status) (tWritten 5 .status 4) (fun t => (t.me.read 1).data) = some 0x61 ∧
    tAfter (.sysw 2 .ltmo) (tWritten 5 .ltmo 4) (fun t => t.myCore.cregs.ltmo) = some 0x77 ∧
    tAfter (.sysw 2 .ltmo) (tWritten 2 .ltmo 4) (fun t => t.myCore.cregs.ltmo) = some 9 ∧
    (tWritten 5 .status 0x10).myCore.selPol = true ∧ (tWritten 5 .status 0).myCore.selPol = false := by decide +kernel

theorem test_meets_DeadmaskLayout :
    issuable (.sysw 2 .deadmask) (tRegs [(2, -1)]) = true ∧ sourcesReady { cs := [2] } (tRegs [(2, -1)]) = true ∧
    (tRegs [(2, -1)]).me.settled = true ∧ (tRegs [(2, -1)]).myCore.sysOld = [] := by decide +kernel

/-- The same with c10 in DEADMASK and addresses in c5 and c30. -/
def tDying : State :=
  let s := tRegs [(5, 0x40), (10, 7), (30, 0x40)]
  { s with cores := [(0, { s.core 0 with ctxRegs := [(1, { deadmask := 0x400 })] })] }

theorem test_meets_DeadmaskLayout_dies :
    let s := tDying
    s.myCore.cregs.deadmask.getLsbD (10 : Reg).toNat = true ∧ s.me.stream 10 = none ∧ (deadRegs s.myCore.cregs.deadmask).any s.me.pendingReg = false ∧
    (∀ i ∈ [Instr.call 5, .callr 5, .ret], issuable i s = true) ∧ sourcesReady { dc := some 30 } s = true ∧
    sourcesReady { cs := [5], dc := some 30 } s = true ∧ sourcesReady { cs := [30] } s = true ∧ takes s 30 4 = true ∧
    (operand s [5] 0).extractLsb' 0 2 = 0 ∧ (operand s [5] 0).extractLsb' 48 16 = 0 ∧ (operand s [30] 0) = 0x40 := by decide +kernel

/-- R63 at a RET: c10 is dead and c5 is not. -/
theorem test_ret_kills :
    tAfter .ret tDying (fun t => ((t.me.read 10).data, (t.me.read 5).data, t.me.pc)) = some (0, 0x40, 0x40) := by decide +kernel

/-- Core 0 at level 1 in a cluster whose engine allots two tiles and one accumulator to its context, with a word in c2. -/
def tAllot (w : Word) : State :=
  { tLevel 1 [(2, w)] with clusters := [(0, { engine := { allots := [(1, ⟨4, 2, 1, 1⟩)] } })] }

/-- A window inside the allotment, one whose third tile is outside, and one whose second accumulator is. -/
theorem test_meets_ContextWrites_twin :
    (∀ s ∈ [tAllot 0x90024, tAllot 0x90034, tAllot 0x110024], issuable (.syswTwin 2) s = true ∧ sourcesReady { cs := [2] } s = true ∧
      isPrimary s = false ∧ s.me.settled = true) ∧ operand (tAllot 0x90024) [2] 0 = 0x90024 ∧
    allotOf (tAllot 0) 0 = ⟨4, 2, 1, 1⟩ ∧
    ((0x90024 : Word).extractLsb' 0 4).toNat = 4 ∧ ((0x90024 : Word).extractLsb' 4 5).toNat = 2 ∧
    ((0x90024 : Word).extractLsb' 16 3).toNat = 1 ∧ ((0x90024 : Word).extractLsb' 19 4).toNat = 1 ∧
    ((0x90034 : Word).extractLsb' 4 5).toNat = 3 ∧ ((0x110024 : Word).extractLsb' 19 4).toNat = 2 := by decide +kernel

/-- A capability over the range-table image of one delegated entry, whose bytes have arrived. -/
def tRttw : State :=
  let img : List Byte := natBytes 8 0 ++ natBytes 8 16 ++ natBytes 8 3 ++ natBytes 8 0x2F
  { tState { st := .runtime, lv := 1, regs := [(2, { val := (tCap (permR ||| permSYS) 0x40 0x100 0).val, tag := true })],
             bufs := [{ addr := 0x40, data := img.map fun b => (b, false), err := none }] } with
    mem := [(0x1008, 16), (0x1010, 2), (0x1018, 0x2F)] }

theorem test_meets_ContextWrites_rttw :
    let s := tRttw
    let cap := src (readSources s.me [2]) 0
    issuable (.syswRttw 2) s = true ∧ sourcesReady { cs := [2] } s = true ∧ s.me.settled = true ∧ homeBusy s 0x1010 16 = false ∧
    capCheck s 0 cap (capAddr cap.val) 32 (permR ||| permSYS) = none ∧ spaceOf (capAddr cap.val) = 0 ∧
    (match arrived s (capAddr cap.val) 32 with
     | some (t, bs) =>
       let img := rtOfBytes (bs.map (·.1))
       let e := rtEntry t t.myCtx 0
       e.vgran == img.vgran && e.len == img.len && e.kind == 2 && img.kind == 2 && img.valid && t.me.settled && t.myCtx.rtCount == 1
     | none => false) = true ∧
    issuable (.syswScpbase 2) s = true := by decide +kernel

/-- An entry of the context in the TLB of the core, with no access in flight through it and with one. -/
def tTlb (ls : List Outst) : State :=
  let e : RtEntry := { vgran := 0, len := 16, pgran := 2, home := 0, typ := 0, kind := 0, x := true, w := true, rd := true, v := true, reserved := false }
  { cores := [(0, { ctx := 1, bay := some tBay, tlb := [⟨1, e⟩], carrels := [(0, { tRun [(2, 0x40)] with st := .runtime, lv := 1 }),
      (1, { st := .running, loads := ls })] })], ctxs := tCtxs, mem := tTable }

theorem test_meets_RtinvRemoves :
    let ls : List Outst := [{ id := 1, dest := .reg 5 .d false, addr := 0x40, size := 8, locs := [.mem 0x2040] }]
    (∀ s ∈ [tTlb [], tTlb ls], issuable (.rtinv 2) s = true ∧ sourcesReady { cs := [2] } s = true ∧ s.me.settled = true ∧ s.me.rtinv = []) ∧
    (∀ n ∈ [1, 9], let s := (tTlb ls).modMe fun c => { c with rtinv := [(0, n)] }
      issuable (.rtinv 2) s = true ∧ sourcesReady { cs := [2] } s = true ∧ s.me.rtinv ≠ [] ∧ s.me.rtinv.any (stillOut s) = (n == 1)) ∧
    inFlight (tTlb []) 1 (inEntries (rtinvEntries (tTlb []) 1 0x40)) = [] ∧
    inFlight (tTlb ls) 1 (inEntries (rtinvEntries (tTlb ls) 1 0x40)) ≠ [] := by decide +kernel

/-- c2 names core 0, and c3 a core in no open bay. -/
theorem test_meets_Locq :
    let s := tRegs [(2, 0x0FFF0000), (3, 0x0FFF0545), (4, 0x0FFF1000)]
    (∀ i ∈ [Instr.locqEpoch 1, .locqWhere 1 2, .locqWhere 1 0, .locqWhere 1 3, .locqHops 1 2, .locqHops 1 3], issuable i s = true) ∧
    (∀ cs ∈ [[], [(2 : Reg)], [3], [0]], sourcesReady { cs := cs, dc := some 1 } s = true) ∧ takes s 1 5 = true ∧
    (operand s [2] 0).extractLsb' 28 36 = 0 ∧ (operand s [2] 0).extractLsb' 12 4 = 0 ∧ s.isOwnDev ((operand s [2] 0).extractLsb' 16 12).toNat = true ∧
    (operand s [3] 0).extractLsb' 0 12 = 0x545 ∧ inOpenBay s 1 0 = true ∧ inOpenBay s 1 0x545 = false ∧
    (operand s [4] 0).extractLsb' 12 4 ≠ 0 ∧ s.me.settled = true ∧ locqTarget s 2 0x0FFF0000 = some 0 ∧ s.cur.1 < 4096 := by
  decide +kernel

/-- R371's example of WHERE: core 0x545 is on cluster (2, 4) of die 1, at (12, 2) of the torus, with EPOCH 3. -/
theorem test_locq :
    torusX (0x545 / 16) = 12 ∧ torusY (0x545 / 16) = 2 ∧ 0x545 / 1024 = 1 ∧ 0x545 / 16 % 64 / 8 = 2 ∧ 0x545 / 16 % 8 = 4 := by decide

/-- An entry of SCPBASE with EN, a capability over a bitmap that has arrived, and a scope that the activation has read. -/
def tScope : State :=
  let c : Carrel := { st := .running, scopes := [(9, ⟨true, 2, [0, 1]⟩)], bufs := [⟨0x400, List.replicate 512 (0xFF, false), none⟩] }
  let c := (c.write 2 (tCap permR 0x400 0x200 0)).write 3 (tCap permR 0x401 0x200 0)
  { tState c with cores := [(0, { ctx := 1, bay := some tBay, ctxRegs := [(1, { scpbase := 0x8000000000004000 })], carrels := [(0, c)] })] }

theorem test_meets_ScopeTable :
    let s := tScope
    (∀ i ∈ [Instr.scpget 1 5, .scpget 1 6, .scpget 1 9, .scpget 1 31, .scpset 2 7, .scpset 3 31], issuable i s = true) ∧
    sourcesReady { dc := some 1 } s = true ∧ sourcesReady { cs := [2] } s = true ∧ takes s 1 0 = true ∧ fget s.me.scopes 6 = none ∧
    s.myCtx.scopeSet.contains 6 = false ∧ (fget s.me.scopes 9).isSome = true ∧ isPrimary s = false ∧ s.me.settled = true ∧
    capAddr (src (readSources s.me [3]) 0).val % 64 ≠ 0 ∧ capAddr (src (readSources s.me [2]) 0).val = 0x400 ∧
    capCheck s 0 (src (readSources s.me [2]) 0) 0x400 512 permR = none ∧
    (match arrived s 0x400 512 with
     | some (t, _) => (match translate t 0 1 (scopeSlot t.myCore.cregs.scpbase 7) .vecW 0 with
       | (u, .ok p _) => hasDram (p * 4096 + scopeSlot t.myCore.cregs.scpbase 7 % 4096) && !(homeBusy u (p * 4096 + scopeSlot t.myCore.cregs.scpbase 7 % 4096) 512) && u.me.settled
       | _ => false)
     | none => false) = true := by decide +kernel


/-! ### Memory -/

/-- Range-table entries of context 1: granules 0 to 15, a cistern of 4-byte cells at granule 0x20, one of 8-byte cells at granule 0x30. -/
def tMemTable : List Host.Cell :=
  tTable ++ [(0x1020, 0x20), (0x1028, 1), (0x1030, 0x30), (0x1038, 0x17), (0x1039, 1),
             (0x1040, 0x30), (0x1048, 1), (0x1050, 0x40), (0x1058, 0x17), (0x1059, 2)]

/-- Every permission of R106. -/
def tAll : Nat := 0x3FF

/-- A global address in region 0 of core 0 of this module, of another core, of module 5, and of the host. -/
def tScr (off : Nat) : Nat := 0x2FFF000000000000 + off
def tPeer (off : Nat) : Nat := 0x2005000000000000 + off
def tHost (off : Nat) : Nat := 0x3000000000000000 + off

/-- Core 0 with capabilities: c2 plain memory, c3 its scratchpad, c4 and c5 cistern cells, c6 a peer, c7 misaligned, c8 untagged,
c12 the host; c9 to c11 hold data. Both fences are open. -/
def tCarrel : Carrel :=
  let c : Carrel := { st := .running }
  let c := ((c.write 2 (tCap tAll 0x1000 0x1000 0)).write 3 (tCap tAll (tScr 0x40) 0x100 0)).write 4 (tCap tAll 0x20000 0x100 0)
  let c := ((c.write 5 (tCap tAll 0x30000 0x100 0)).write 6 (tCap tAll (tPeer 0x40) 0x100 0)).write 7 (tCap tAll 0x1001 0x100 0)
  let c := ((c.write 8 (dataCap 0x1000)).write 9 (dataCap 5)).write 10 (dataCap 16)
  (c.write 11 (dataCap (-1))).write 12 (tCap tAll (tHost 0x40) 0x100 0)

/-- The first bytes of a pinned-scratch folio. -/
def tFolio : Folio := { st := .pinned, scr := true, start := 0, fin := 128, base := 0, key := 0, data := List.replicate 128 (0, false) }

def tMemOf (c : Carrel) : State :=
  { cores := [(0, { ctx := 1, bay := some tBay, regions := [(0, 0x1000)], l1 := { folios := [tFolio] }, carrels := [(0, c)] })],
    ctxs := [(1, { rtBase := 0x1000, rtCount := 3 })], mem := tMemTable,
    hub := { fences := [(0xC000000000000000, 0xFFF), (0xA000000000000000, 0xFFFFFFFFFFFFF)] } }

def tMem : State := tMemOf tCarrel

/-- The places of a word's access, and whether the access can go on. -/
def tPlaces (s : State) (addr n : Nat) (acc : Acc_) (f : State → Places → Bool) : Bool :=
  match places s s.cur.1 s.myCore.ctx addr n acc with
  | (t, .ok p) => f t p
  | _ => false

/-- R368: LD.B of a byte of 0xFF sign-extends; R165: the store stays in the outbox; R164: a load sees it. -/
theorem test_store_then_load :
    tAfter (.st 11 3 .b 0) tMem (fun t => (t.me.outbox.map (·.eff), scrByte t 0 0 0x40)) =
      some ([.store [(.scr 0 0 0x40, 0xFF)] false], (0, false), false) ∧
    ((tNext (.st 11 3 .b 0) tMem).bind (tNext (.ld 1 3 .b 0))).map (fun t => (t.me.read 1).data) = some (-1) := by decide +kernel

theorem test_meets_LoadWord :
    let s := tMem
    let l := fun (u : State) (p : Places) => { plainAccess u (.reg 1 .d true) 0x1000 8 with elems := [elemOf p.window (opScope s 4).2 0 0x1000 p.locs] }
    (∀ i ∈ [Instr.ld 1 2 .d 0, .ld 1 7 .w 0, .ld 1 8 .w 0, .ld 1 4 .w 0, .ld 1 4 .d 0, .ld 1 5 .q 0, .ld 1 3 .q 0], issuable i s = true) ∧
    (∀ cs ∈ [[(2 : Reg)], [7], [8], [4], [5], [3]], sourcesReady { cs := cs, dc := some 1 } s = true) ∧ s.me.stream 1 = none ∧
    s.me.settled = true ∧ capAddr (src (readSources s.me [7]) 0).val % 4 ≠ 0 ∧
    capCheck s 0 (src (readSources s.me [8]) 0) 0x1000 4 permR = some 0x081 ∧
    capCheck s 0 (src (readSources s.me [2]) 0) 0x1000 8 permR = none ∧
    tPlaces s 0x1000 8 .read (fun t p => cellOf p == none && loadGoes (opScope t 4).1 (l (opScope t 4).1 p) &&
      siphStalls (opScope t 4).1 0 [(0x1000, 8)] == .go) = true ∧
    tPlaces s 0x20000 4 .read (fun t p => cellOf p == some (0x30000, 1) && hasDram 0x30000 &&
      !(loadHeld (opScope t 4).1 ((List.range 4).map fun j => .mem (0x30000 + j))) &&
      !(viewCell (opScope t 4).1 0 0 0x30000 1 4 {}).2.2) = true ∧
    (match places s 0 1 0x40000 4 .read with | (_, .error (c, v)) => c == 0x0C1 && v == 0x40000 | _ => false) = true := by decide +kernel

theorem test_meets_LoadWord_takes : takesAny tMem 1 := fun v => by
  have h : tMem.me.stream 1 = none := by decide +kernel
  simp only [destGate, h]

theorem test_meets_LoadedValue :
    let s := tMem
    let u := (opScope s 4).1
    tPlaces s (tScr 0x40) 8 .read (fun t p => t == s && p.window == [] && cellOf p == none &&
      (let e := elemOf p.window (opScope s 4).2 0 (tScr 0x40) p.locs
       loadGoes u { plainAccess u (.reg 1 .d true) (tScr 0x40) 8 with elems := [e] } &&
       p.locs.map (fwdByte (baseNow u.numbered 0 e.reach) (pendingFor u.numbered 0 0 u.numbered.myCore.nextId)) ==
         List.replicate 8 (some ((0, false), false)) &&
       heal u.numbered 0 { id := 0, dest := .none, addr := 0, size := 8, elems := [e] } == u.numbered)) = true ∧
    siphStalls u 0 [(tScr 0x40, 8)] = .go ∧ capCheck s 0 (src (readSources s.me [3]) 0) (tScr 0x40) 8 permR = none := by decide +kernel

/-- The core with a mask that governs two elements, and one that governs none. -/
def tVecMem : State := tMemOf { tCarrel with masks := [(1, { val := 3 })], vregs := [(2, { val := 0 })] }

theorem test_meets_VectorAccesses :
    let s := tVecMem
    (∀ i ∈ [Instr.vld 1 3 1 0, .vld 1 3 2 0, .vld 1 7 1 0, .vlds 1 3 10 .e32 1, .vlds 1 3 9 .e32 1, .vlds 1 3 10 .e32 2, .vgath 1 3 2 .e32 1, .vgath 1 7 2 .e32 1,
      .vst 1 3 1 0, .vst 1 3 2 0, .vst 1 7 1 0, .vsts 1 3 10 .e8 1, .vsts 1 3 9 .e32 1, .vscat 1 3 2 .e64 1, .vscat 1 7 2 .e32 1], issuable i s = true) ∧
    (∀ cs ∈ [[(3 : Reg)], [3, 10], [3, 9], [7]], (∀ ms ∈ [[(1 : MReg)], [2]], sourcesReady { cs := cs, ms := ms, dv := some 1 } s = true ∧
      sourcesReady { cs := cs, vs := [2], ms := ms, dv := some 1 } s = true ∧ sourcesReady { cs := cs, vs := [1], ms := ms } s = true ∧
      sourcesReady { cs := cs, vs := [1, 2], ms := ms } s = true)) ∧
    (List.range 16).filter (s.me.mask 1).getLsbD = [0, 1] ∧ (List.range 16).filter (s.me.mask 2).getLsbD = [] ∧
    (lane 32 (s.me.vreg 2).val 0).toInt = 0 ∧ (lane 32 (s.me.vreg 2).val 1).toInt = 0 := by decide +kernel

/-- VLD and VST of two words of the scratchpad: the checks, the places and the room. -/
theorem test_meets_VectorAccesses_words :
    let s := tVecMem
    let es : List VElem := [⟨0, tScr 0x40, 4⟩, ⟨4, tScr 0x44, 4⟩]
    capAll s (src (readSources s.me [3]) 0) permR false es = none ∧ capAll s (src (readSources s.me [3]) 0) permW true es = none ∧
    (match placeAll s .vecR (sortElems (pairElems es)) with
     | (t, ps, none) => t == s && siphStalls t 0 [(tScr 0x40, 8)] == .go &&
       loadGoes t { plainAccess t (.vec 1) (tScr 0x40) 64 with
         elems := (pairElems es).map fun e => elemOf (winOf ps) (opScope t 4).2 e.dst e.addr (placesFor ps e) }
     | _ => false) = true ∧
    (match placeAll s .vecW (sortElems es) with
     | (t, ps, none) => t == s && hasRoom t (es.map fun e => (e.addr, e.size)) && siphStalls t 0 (es.map fun e => (e.addr, e.size)) == .go &&
       badLoc ((es.flatMap fun e => (placesFor ps e).zip (natBytes e.size 0)).map (·.1)) == none
     | _ => false) = true ∧
    pairElems es = [⟨0, tScr 0x40, 8⟩] ∧
    (capAll s (src (readSources s.me [8]) 0) permR false es).isSome = true := by decide +kernel

/-- A tagged capability for ST.Q without TGS in the address's capability, and c7 misaligned; the same core with a join that a
plain store cannot pass. -/
theorem test_meets_StoreWord :
    let s := tMem
    (∀ i ∈ [Instr.st 9 2 .d 0, .st 9 3 .q 0, .st 9 7 .w 0, .st 9 8 .w 0, .st 9 4 .w 0, .st 9 4 .d 0, .st 9 6 .d 0, .st 2 6 .q 0], issuable i s = true) ∧
    (∀ cs ∈ [[(2 : Reg), 9], [3, 9], [7, 9], [8, 9], [4, 9], [6, 9], [6, 2]], sourcesReady { cs := cs } s = true) ∧ s.me.settled = true ∧
    capCheck s 0 (src (readSources s.me [8, 9]) 0) 0x1000 4 permW = some 0x081 ∧
    tPlaces s 0x1000 8 .write (fun t p => cellOf p == none && badLoc p.locs == none && hasRoom (opScope t 4).1 [(0x1000, 8)]) = true ∧
    tPlaces s (tPeer 0x40) 8 .write (fun t p => cellOf p == none && p.locs.head? == some (.peer (tPeer 0x40)) && hasRoom (opScope t 4).1 [(tPeer 0x40, 8)]) = true ∧
    tPlaces s 0x20000 4 .write (fun t p => cellOf p == some (0x30000, 1) &&
      (let (z, old, bad) := viewCell (opScope t 4).1 0 0 0x30000 1 4 {}
       !bad && geq 1 5 old && hasRoom z [(0x20000, 4)])) = true ∧
    (∀ t ∈ [tMemOf { tCarrel with outbox := [{ eff := .join 0x30000 1 4 9 }] }],
      tPlaces t 0x20000 4 .write (fun t p => cellOf p == some (0x30000, 1) &&
        (let (_, old, bad) := viewCell (opScope t 4).1 0 0 0x30000 1 4 {}
         !bad && !(geq 1 5 old))) = true) := by decide +kernel

/-- An outbox with room, and a full one whose core can commit it. -/
def tFull : State := tMemOf { tCarrel with outbox := List.replicate 64 { eff := .marker } }

theorem test_meets_OutboxFrame :
    hasRoom tMem = true ∧ tMem.me.outbox.length < 64 ∧ hasRoom tFull = true ∧ 64 ≤ tFull.me.outbox.length ∧ tFull.me.pair = false := by
  decide +kernel

theorem test_meets_AtomicsAndFences :
    let s := tMem
    (∀ i ∈ [Instr.amo 1 3 9 .rlx false .add, .amo 1 7 9 .acq true .swap, .amo 1 8 9 .rlx true .swap, .amo 1 12 9 .rlx true .and,
      .amoNoReturn 3 9 .rel false .add, .amoNoReturn 2 9 .rlx true .add, .amoNoReturn 12 9 .rlx true .or, .cas 1 3 9 .sc false, .cas 1 2 9 .rlx true,
      .fence 4 true .sc, .fence 4 false .acq], issuable i s = true) ∧
    (∀ cs ∈ [[(3 : Reg), 9], [7, 9], [8, 9], [12, 9], [2, 9], [3, 9, 1], [2, 9, 1]],
      sourcesReady { cs := cs, dc := some 1 } s = true ∧ sourcesReady { cs := cs } s = true) ∧ sourcesReady {} s = true ∧
    s.me.settled = true ∧ isPrimary s = false ∧ capCheck s 0 (src (readSources s.me [8, 9]) 0) 0x1000 4 (permR ||| permW) = some 0x081 ∧
    capCheck s 0 (src (readSources s.me [12, 9]) 0) (tHost 0x40) 4 (permR ||| permW) = none ∧
    capCheck s 0 (src (readSources s.me [3, 9]) 0) (tScr 0x40) 8 (permR ||| permW) = none ∧
    tPlaces s (tScr 0x40) 8 .rw (fun t q => t == s && q.locs == (List.range 8).map (fun j => Loc.scr 0 0 (0x40 + j)) && badLoc q.locs == none &&
      !(loadHeld t q.locs)) = true ∧ (opScope s 4).1 = s ∧ siphStalls s 0 [(tScr 0x40, 8)] = .go ∧
    outstanding s.myCore + 1 ≤ 256 ∧ commits s = true ∧ hasRoom s [(tScr 0x40, 8)] = true ∧ s.myCore.queue = [] ∧
    s.me.outbox = [] ∧ s.me.stream 1 = none ∧
    ((List.range 8).map fun j => baseNow s 0 .caches (.scr 0 0 (0x40 + j))) = List.replicate 8 (some ((0, false), false)) := by
  decide +kernel

/-- R331: AMO.ADD of 5 to a doubleword of the scratchpad gives the old 0 and leaves 5 (R149). -/
theorem test_amo :
    tAfter (.amo 1 3 9 .rlx false .add) tMem (fun t => ((t.me.read 1).data, (scrByte t 0 0 0x40).1, t.me.nr)) = some (0, (5, false), true) := by
  decide +kernel

/-! ### Ranges, cisterns, messages, presence, handler tables -/

/-- One granule of c2 is plain memory without cached bytes; 257 granules are too many for PREF; a window of module 5 that no fence
allows is outside the egress fence. -/
def tRange : State :=
  let c := ((tCarrel.write 13 (dataCap 0)).write 14 (tCap tAll 0 0x1000000 1)).write 15 (dataCap 0x100001)
  tMemOf (c.write 16 (tCap tAll 0x1009000000000040 0x100 0))

theorem test_meets_RangeWords :
    let s := { tRange with hub := {} }
    (∀ x ∈ [Instr.pref 2 10, .wbr 2 10, .invr 2 10, .wbri 2 10, .pref 2 13, .wbr 8 10, .pref 14 15, .pref 16 10, .invr 16 10], issuable x s = true) ∧
    (∀ cs ∈ [[(2 : Reg), 10], [2, 13], [8, 10], [14, 15], [16, 10]], sourcesReady { cs := cs } s = true) ∧ s.me.settled = true ∧
    (operand s [2, 13] 1).toNat = 0 ∧ (operand s [2, 10] 1).toNat = 16 ∧ capCheck s 0 (src (readSources s.me [8, 10]) 0) 0x1000 16 permR = some 0x081 ∧
    (∀ p ∈ [permR, permW], capCheck s 0 (src (readSources s.me [2, 10]) 0) 0x1000 16 p = none) ∧
    capCheck s 0 (src (readSources s.me [14, 15]) 0) 0 0x100001 permR = none ∧ 256 < (0 + 0x100001 - 1) / 4096 - 0 / 4096 + 1 ∧
    egressOf s 0x1000 16 = none ∧ (egressOf s 0x1009000000000040 16).isSome = true ∧
    (∀ acc ∈ [Acc_.read, .write], (match granParts s 0x1000 acc (acc == .read) (extentOf s 0x1000 16) with
      | (t, .ok ps) => ps.map (fun p => (p.pa, p.cistern)) == [(0x3000, false)] && t.me.settled && !(queueWrites t 0x1000 16 ps) &&
          decide (outstanding t.myCore + ps.length ≤ requestMax)
      | _ => false) = true) ∧
    outstanding s.myCore + ((0x1000 + 16 - 1) / 4096 - 0x1000 / 4096 + 1) ≤ 256 ∧ s.myCore.queue = [] := by decide +kernel

/-- PREF, WBR, INVR and WBRI of a mapped extent complete. -/
theorem test_range_words :
    ([Instr.pref 2 10, .wbr 2 10, .invr 2 10, .wbri 2 10].all fun i => (tAfter i tRange (·.me.pc)) == some 4) = true := by decide +kernel

theorem test_meets_CisternWords :
    let s := tRange
    (∀ x ∈ [Instr.ljoin 4 9 true, .ljoin 5 9 false, .ljoin 7 9 false, .ljoin 8 9 false, .ljoin 3 9 false, .ljoin 12 9 true, .ljoin 2 9 true,
      .lwait 1 4 9 false, .lwait 1 4 13 true, .lwait 1 3 9 false, .lwait 1 12 9 true], issuable x s = true) ∧
    (∀ cs ∈ [[(4 : Reg), 9], [5, 9], [7, 9], [8, 9], [3, 9], [12, 9], [2, 9], [4, 13]], sourcesReady { cs := cs, dc := some 1 } s = true ∧
      sourcesReady { cs := cs } s = true) ∧ s.me.settled = true ∧ s.me.stream 1 = none ∧
    (∀ acc ∈ [Acc_.joinR, .joinW], (match places s 0 1 0x1000 4 acc with | (_, .error (c, _)) => c == 0x0C3 | _ => false) = true ∧
      tPlaces s 0x20000 4 acc (fun t p => (p.ent.map (·.typ)) == some 1 && p.locs.head? == some (.mem 0x30000) && hasDram 0x30000 &&
        hasRoom (opScope t 4).1 && !(loadHeld t ((List.range 4).map fun j => .mem (0x30000 + j))) &&
        (let (_, v, bad) := viewCell t 0 0 0x30000 1 4 {}
         !bad && geq 1 v 0 && !(geq 1 v 5))) = true) ∧
    capCheck s 0 (src (readSources s.me [4, 9]) 0) 0x20000 4 permLAT = none ∧ capCheck s 0 (src (readSources s.me [4, 9]) 0) 0x20000 4 permR = none ∧
    tPlaces (tMemOf (tCarrel.write 5 (tCap tAll 0x30004 0x100 0))) 0x30004 4 .joinW (fun _ p => (p.ent.map fun e => 0x30004 % cellSize e.typ) == some 4) = true := by
  decide +kernel

/-- A cell of module 5, which the fences allow: c6 holds a space-1 address there. -/
theorem test_meets_CisternWords_peer :
    let s := tMemOf (tCarrel.write 6 (tCap tAll 0x1005000000020000 0x100 0))
    (∀ x ∈ [Instr.ljoin 6 9 true, .lwait 1 6 9 false], issuable x s = true) ∧ sourcesReady { cs := [6, 9] } s = true ∧
    sourcesReady { cs := [6, 9], dc := some 1 } s = true ∧ s.me.stream 1 = none ∧
    (∀ p ∈ [permLAT, permR], capCheck s 0 (src (readSources s.me [6, 9]) 0) 0x1005000000020000 4 p = none) ∧
    (∀ acc ∈ [Acc_.joinR, .joinW], tPlaces s 0x1005000000020000 4 acc (fun t p => hasRoom (opScope t 4).1 && !(loadHeld t []) &&
      (match p.locs.head? with | some (.peer _) => true | _ => false)) = true) := by decide +kernel

/-- c2 names core 0, c3 a reserved bit, c4 a core in no open bay, c5 module 9, which no fence allows, c6 module 5; c10 and c11 hold
capabilities. -/
def tDest (lost : Bool) : State :=
  let c := ((((({ st := .running } : Carrel).write 2 (dataCap 0x0FFF0000)).write 3 (dataCap 0x10000000)).write 4 (dataCap 0x0FFF0545)).write 5
    (dataCap 0x00090000)).write 6 (dataCap 0x00050000)
  let c := ((c.write 10 (tCap tAll 0 1 0)).write 11 (tCap 0 0 1 0)).write 12 (tCap tAll 0 1 0)
  { cores := [(0, { ctx := 1, bay := some tBay, lost := lost, carrels := [(0, (((c.write 13 (tCap tAll 0 1 0)).write 14 (tCap tAll 0 1 0))))] })],
    ctxs := tCtxs, mem := tTable, hub := { fences := [(0xC000000000000005, 5)] } }

theorem test_meets_SendAndRput :
    let s := tDest false
    (∀ x ∈ [Instr.send 10 2 1 2, .send 0 2 1 0, .send 10 3 1 1, .send 10 2 63 1, .send 10 4 1 1, .send 10 5 1 1, .send 10 6 1 1, .send 10 2 1 5,
      .rput 10 2 1 31, .rput 10 3 1 0, .rput 9 6 1 3], issuable x s = true) ∧ issuable (.send 10 2 1 1) (tDest true) = true ∧
    (∀ cs ∈ [[(2 : Reg)], [2, 10], [2, 10, 11], [2, 10, 11, 12, 13, 14], [3, 10], [4, 10], [5, 10], [6, 10], [6, 9]],
      sourcesReady { cs := cs } s = true) ∧ sourcesReady { cs := [2, 10] } (tDest true) = true ∧
    goodDest s (operand s [2] 0) 1 = true ∧ goodDest s (operand s [6] 0) 1 = true ∧ (operand s [3] 0).extractLsb' 28 36 ≠ 0 ∧
    inOpenBay s 1 0x545 = false ∧ unbacked (tDest true) 0 = true ∧ inOpenBay (tDest true) 1 0 = true ∧ s.isOwnDev 9 = false ∧ devAllowed s 9 = false ∧
    s.me.settled = true ∧ hasRoom s = true ∧ (tDest true).me.settled = true := by decide +kernel

/-- c33 absent; c34 bound as a stream; a word that reads c33; a carrel parked on it, and the same with the bit set. -/
def tAbsent (st : CState) (present : Bool) : State :=
  tState { st := st, park := if st = .parked then some { why := .presence [33], pops := [33] } else none,
           regs := [(33, { val := 7, present := present })],
           streams := [(34, { base := tCap tAll 0 64 0, extents := [1], strides := [8], size := 3, write := false, sign := false, total := 1 })] }

theorem test_meets_PresenceClear :
    let s := tAbsent .running false
    (∀ k ∈ [(1 : BitVec 5), 2].map (fun k => Instr.pclr k), issuable k s = true) ∧ sourcesReady {} s = true ∧ s.me.stream 33 = none ∧ s.me.stream 34 ≠ none ∧
    s.me.settled = true ∧ issuable (.addi 1 33 0) s = true ∧ (s.me.creg 33).present = false ∧ (s.me.creg 33).dead = false ∧
    s.me.pendingReg 33 = false ∧ s.me.pendingReg 1 = false ∧ s.me.late { cs := [33], dc := some 1 } = false ∧ isSync (.addi 1 33 0) = false ∧
    (let p := tAbsent .parked false
     (p.carrel 0 0).st = .parked ∧ (p.core 0).live = true ∧ (p.carrel 0 0).park = some { why := .presence [33], pops := [33] } ∧
     (p.carrel 0 0).stream 33 = none ∧ ((p.carrel 0 0).creg 33).dead = false ∧ ((p.carrel 0 0).creg 33).present = false) ∧
    (let p := tAbsent .parked true
     (p.carrel 0 0).st = .parked ∧ (p.core 0).live = true ∧ ((p.carrel 0 0).creg 33).present = true) := by decide +kernel

/-- PCLR in the cycle in which a remote write of the register has landed leaves the bit set (R380). -/
theorem test_pclr_landed :
    (match exec (.pclr 1) (tState { st := .running, landed := [33], regs := [(33, { val := 7 })] }) with
     | .next t => (t.me.creg 33).present
     | _ => false) = true := by decide +kernel

/-- ADDI is a data word, which the second clause of PresenceClear speaks of. -/
theorem test_meets_PresenceClear_word (s : State) : ∃ f, exec (.addi 1 33 0) s = dataWord (.addi 1 33 0) 1 [33] s f := by
  unfold exec execAddi
  exact ⟨_, rfl⟩

theorem test_meets_TagControls :
    let s := tRegs [(2, 0xF), (3, 0x10), (4, 2), (5, 0x1000000000000), (6, 0x100), (7, 0x100000000000000), (8, 0x10000000000)]
    (∀ x ∈ [Instr.tagctlEn 1, .tagctlDis 1, .tagctlPrio 2 1, .tagctlPrio 3 1, .tagctlAddr 4 1, .tagctlAddr 5 1, .tagctlAddr 6 1, .tagctlMode 2 1,
      .tagctlMode 3 1, .tagctlGate 0 7 1, .tagctlGate 0 8 1, .tagctlGate 3 6 63, .tagctlCap 3 2 1, .tagctlStat 1 63], issuable x s = true) ∧
    (∀ cs ∈ [[], [(2 : Reg)], [3], [4], [5], [6], [7], [8]], sourcesReady { cs := cs } s = true) ∧ sourcesReady { dc := some 1 } s = true ∧
    hasRoom s = true ∧ s.me.settled = true ∧ takes s 1 0 = true ∧ s.me.stream 1 = none ∧
    (operand s [3] 0).extractLsb' 4 60 ≠ 0 ∧ (operand s [2] 0).extractLsb' 4 60 = 0 ∧ (operand s [4] 0).extractLsb' 0 2 ≠ 0 ∧
    (operand s [5] 0).extractLsb' 0 2 = 0 ∧ (operand s [5] 0).extractLsb' 48 16 ≠ 0 ∧ (operand s [6] 0).extractLsb' 0 2 = 0 ∧
    (operand s [6] 0).extractLsb' 48 16 = 0 ∧ (operand s [7] 0).extractLsb' 56 7 ≠ 0 ∧ (operand s [8] 0).extractLsb' 40 10 ≠ 0 ∧
    (operand s [6] 0).extractLsb' 56 7 = 0 ∧ (operand s [6] 0).extractLsb' 40 10 = 0 ∧
    (({ tags := [(1, { inst := true })] } : Core).tagOf 1).inst = true ∧ (({} : Core).tagOf 1).inst = false := by decide +kernel

/-! ### Streams, siphons, barriers, the matrix engine -/

/-- Bytes that a word has waited for. -/
def tBuf (addr : Nat) (bs : List Byte) : Buf := ⟨BitVec.ofNat 64 addr, bs.map (·, false), none⟩

/-- The pattern record of a read stream of two doublewords, and one of 2^32 elements. -/
def tRecord (a b : Nat) : List Byte := natBytes 4 a ++ natBytes 4 b ++ natBytes 4 1 ++ natBytes 4 3 ++ natBytes 8 8 ++ List.replicate 40 0

theorem test_meets_StreamWords :
    let s := tMemOf { tCarrel with bufs := [tBuf 0x1000 (tRecord 2 1)] }
    let u := tMemOf { tCarrel with bufs := [tBuf 0x1000 (tRecord 0x10000 0x10000)] }
    (∀ x ∈ [Instr.sbind 0 9 2, .sbind 0 9 7, .sbind 0 9 8, .sunbind 0, .sstat 1 0], issuable x s = true ∧ issuable x u = true) ∧
    (∀ cs ∈ [[(9 : Reg), 2], [9, 7], [9, 8]], sourcesReady { cs := cs } s = true) ∧ sourcesReady {} s = true ∧ sourcesReady { dc := some 1 } s = true ∧
    unbindWaits s.me 48 = false ∧ s.me.settled = true ∧ takes s 1 0 = true ∧ capAddr (src (readSources s.me [9, 7]) 1).val % 64 ≠ 0 ∧
    capCheck s 0 (src (readSources s.me [9, 8]) 1) 0x1000 64 permR = some 0x081 ∧ capCheck s 0 (src (readSources s.me [9, 2]) 1) 0x1000 64 permR = none ∧
    (arrived s 0x1000 64).map (fun (_, bs) => bs.map (·.1)) = some (tRecord 2 1) ∧
    (arrived u 0x1000 64).map (fun (_, bs) => bs.map (·.1)) = some (tRecord 0x10000 0x10000) := by decide +kernel

/-- R384: the record binds c48 to two doublewords; SSTAT then says that it is valid and that two remain. -/
theorem test_sbind :
    let s := tMemOf { tCarrel with bufs := [tBuf 0x1000 (tRecord 2 1)] }
    ((tNext (.sbind 0 9 2) s).bind (tNext (.sstat 1 0))).map (fun t => (t.me.read 1).data) = some 0x8000000000000002 := by decide +kernel


/-- The descriptor of a copy of two elements (R184), with the control word. -/
def tSiphDesc (esz : Nat) : List Byte :=
  let ext := natBytes 4 2 ++ natBytes 4 1 ++ natBytes 4 1 ++ natBytes 4 1 ++ natBytes 4 1
  ext ++ List.replicate 20 0 ++ natBytes 8 4 ++ List.replicate 32 0 ++ natBytes 8 4 ++ List.replicate 32 0 ++ natBytes 8 esz

/-- The descriptor of a gather of no rows, by tiles 0 and 1. -/
def tGathDesc (from_ until_ ta : Nat) : List Byte :=
  natBytes 4 from_ ++ natBytes 4 until_ ++ List.replicate 40 0 ++ natBytes 8 (ta + 16) ++ List.replicate 72 0

/-- The core with a window of two tiles, whose descriptors are FP16 pairs, and a descriptor's bytes at 0x1000. -/
def tSiph (d : List Byte) : State :=
  let c : Carrel := (tCarrel.write 13 (tCap (tAll - permX) 0x1000 0x1000 0)).write 14 (tCap (tAll - permX) 0x1001 0x1000 0)
  let c : Carrel := c.write 15 (tCap tAll 0x1800 0x100 0)
  let s := tMemOf { c with bufs := [tBuf 0x1000 d, tBuf 0x1800 (natBytes 4 0)] }
  { s with cores := [(0, { s.core 0 with ctxRegs := [(1, { tcnt := 2, acnt := 1, td := [(0, 0x7F7F02), (1, 0x7F7F02)] })] })] }

theorem test_meets_SiphonWords :
    let s := tSiph (tSiphDesc 2)
    (∀ x ∈ [Instr.siph 13 2 3 0, .siph 2 2 3 0, .siph 14 2 3 0, .siph 8 2 3 0, .sgath 13 2 15 1, .sgath 2 2 15 1, .scfg 9 63, .swmr 1 .status 0,
      .swmr 1 .dlo 0, .swmr 1 .fault 0], issuable x s = true) ∧
    (∀ cs ∈ [[(2 : Reg), 3, 13], [2, 3, 2], [2, 3, 14], [2, 3, 8], [2, 15, 13], [2, 15, 2], [9]], sourcesReady { cs := cs } s = true) ∧
    sourcesReady { dc := some 1 } s = true ∧ takes s 1 0 = true ∧ hasRoom s = true ∧ s.me.settled = true ∧
    (let cap := src (readSources s.me [2, 3, 13]) 2
     capCheck s 0 cap 0x1000 128 (permR ||| permENG) = none ∧ hasPerms (capPerms cap.val) permX = false) ∧
    (let cap := src (readSources s.me [2, 3, 2]) 2
     capCheck s 0 cap 0x1000 128 (permR ||| permENG) = none ∧ hasPerms (capPerms cap.val) permX = true) ∧
    (match arrived s 0x1000 128 with
     | some (t, bs) => match siphBuild t 0 (siphOfDesc bs (src (readSources s.me [2, 3, 13]) 0) (src (readSources s.me [2, 3, 13]) 1) 0x1000) false with
       | .ok _ => hasRoom t
       | _ => false
     | none => false) = true ∧
    (match arrived (tSiph (tSiphDesc 5)) 0x1000 128 with
     | some (t, bs) => match siphBuild t 0 (siphOfDesc bs (src (readSources s.me [2, 3, 13]) 0) (src (readSources s.me [2, 3, 13]) 1) 0x1000) false with
       | .error (c, _) => c == 0x1C1
       | _ => false
     | none => false) = true := by decide +kernel

/-- SGATH: a tile outside the window, rows that descend, and a command that can be built. -/
theorem test_meets_SiphonWords_gather :
    (match arrived (tSiph (tGathDesc 0 0 2)) 0x1000 128 with | some (t, _) => decide (t.myCore.cregs.tcnt ≤ 2) | none => false) = true ∧
    (match arrived (tSiph (tGathDesc 1 0 0)) 0x1000 128 with | some (t, bs) => decide (leNat ((bs.take 4).map (·.1)) = 1 ∧ t.myCore.cregs.tcnt = 2) | none => false) = true ∧
    (let s := tSiph (tGathDesc 0 0 0)
     let vs := readSources s.me [2, 15, 13]
     match arrived s 0x1000 128 with
     | some (t, _) => capCheck t 0 (src vs 1) 0x1800 4 permR == none && (arrived t 0x1800 4).isSome
     | none => false) = true := by decide +kernel

/-- A barrier object of one word at the start of the region of core 0, its sixteen bytes given. -/
def tBarrier (w : Nat) : State :=
  let s := tMemOf (tCarrel.write 13 (dataCap 0x403FFF))
  { s with cores := [(0, { s.core 0 with l1 := { folios := [{ tFolio with
      data := List.replicate 64 (0, false) ++ (natBytes 16 w).map (·, false) ++ List.replicate 48 (0, false) }] } })] }

/-- EXPECTED and PENDING 2, GEN 0; and the same broken; and PENDING at its least, which an arrival breaks. -/
def tBarWord : Nat := 2 * 2 ^ 4 + 2 * 2 ^ 18

theorem test_meets_BarrierWords :
    let s := tBarrier tBarWord
    (∀ x ∈ [Instr.barm 3 9, .barm 7 9, .barm 8 9, .barm 2 9, .barm 3 11, .barm 3 13, .barb 3 9, .barr 1 3, .barr 1 7, .barr 1 2, .bwait 1 3 9, .bwait 1 3 14,
      .bwait 1 2 9], issuable x s = true) ∧
    (∀ cs ∈ [[(3 : Reg), 9], [7, 9], [8, 9], [2, 9], [3, 11], [3, 13], [3, 14], [3], [7], [2]],
      sourcesReady { cs := cs, dc := some 1 } s = true ∧ sourcesReady { cs := cs } s = true) ∧ s.me.stream 1 = none ∧
    s.me.settled = true ∧ s.me.barr = none ∧ isPrimary s = false ∧ canDrain s 0 0 = true ∧ comparing s.me = false ∧ s.myCore.queue = [] ∧
    s.me.outbox = [] ∧ hasRoom s = true ∧
    tPlaces s (tScr 0x40) 16 .rw (fun t p => t == s && p.locs.head? == some (.scr 0 0 0x40)) = true ∧
    (∀ p ∈ [permR ||| permENG, permR ||| permW ||| permENG], capCheck s 0 (src (readSources s.me [3]) 0) (tScr 0x40) 16 p = none ∧
      capCheck s 0 (src (readSources s.me [2]) 0) 0x1000 16 p = none ∧ capCheck s 0 (src (readSources s.me [8]) 0) 0x1000 16 p = some 0x081) ∧
    localScratch s 0 (tScr 0x40) = true ∧ 8191 < ((operand s [3, 11] 1).extractLsb' 0 14).toNat ∧ ((operand s [3, 9] 1).extractLsb' 22 5).toNat = 0 ∧
    ((operand s [3, 9] 1).extractLsb' 0 14).toNat = 5 ∧ spaceOf 0x1000 ≠ 2 := by decide +kernel

/-- BARR and BWAIT: a sound object, and a broken one. -/
theorem test_meets_BarrierWords_objects :
    (∀ s ∈ [tBarrier tBarWord], let u := commitPoint s 0 0
      barPoisoned s 0 0 0x40 = false ∧ barObject u 0 0 0x40 = tBarWord ∧ barBroken tBarWord = false ∧ barBroken (barArrive tBarWord).1 = false ∧
      tBarWord % 16 = (operand s [3, 14] 1).toNat % 16 ∧ tBarWord % 16 ≠ (operand s [3, 9] 1).toNat % 16) ∧
    (∀ s ∈ [tBarrier (tBarWord + 2 ^ 112)], let u := commitPoint s 0 0
      barPoisoned s 0 0 0x40 = false ∧ barBroken (barObject u 0 0 0x40) = true) ∧
    (∀ s ∈ [tBarrier (2 ^ 31)], let u := commitPoint s 0 0
      s.me.settled = true ∧ barPoisoned u 0 0 0x40 = false ∧ barBroken (barObject u 0 0 0x40) = false ∧
      barBroken (barArrive (barObject u 0 0 0x40)).1 = true) ∧
    ((tRegs [(2, 0x03FFFFFF)]).me.read 2).data.extractLsb' 0 14 = 0x3FFF ∧ (0x1403000 : Word).extractLsb' 22 5 = 5 ∧
    ((0x1401000 : Word).extractLsb' 0 14).toNat ≤ 8191 := by decide +kernel

/-- R198: two arrivals of an object with EXPECTED 2 move it to the next generation. -/
theorem test_barrier :
    barPending (barArrive tBarWord).1 = 1 ∧ barGen (barArrive (barArrive tBarWord).1).1 = 1 ∧ barPending (barArrive (barArrive tBarWord).1).1 = 2 ∧
    barBroken (barCount (barArrive tBarWord).1 false true 1).1 = true := by decide +kernel

/-- Each case of BarrierObjects at its ends: PENDING 2, PENDING 1 with EXPECTED 1 and 8,191, a count below 0 and one to 2^40. -/
theorem test_meets_BarrierObjects :
    (∀ w ∈ [tBarWord, 2 ^ 18 + 2 ^ 4, 2 ^ 18 + 8191 * 2 ^ 4, tBarWord + 2 ^ 112, tBarWord + (2 ^ 40 - 1) * 2 ^ 32], w < 2 ^ 128) ∧
    ((BitVec.ofNat 128 tBarWord).extractLsb' 18 14).toInt = 2 ∧ barBroken tBarWord = false ∧
    (∀ w ∈ [2 ^ 18 + 2 ^ 4, 2 ^ 18 + 8191 * 2 ^ 4], barBroken w = false ∧ ((BitVec.ofNat 128 w).extractLsb' 18 14).toInt = 1 ∧
      ((BitVec.ofNat 128 w).extractLsb' 32 40).toNat = 0 ∧ ((BitVec.ofNat 128 w).extractLsb' 72 40).toNat = 0 ∧
      0 < ((BitVec.ofNat 128 w).extractLsb' 4 14).toNat ∧ ((BitVec.ofNat 128 w).extractLsb' 4 14).toNat ≤ 8191) ∧
    barBroken (tBarWord + 2 ^ 112) = true ∧ ((BitVec.ofNat 128 tBarWord).extractLsb' 32 40).toNat < 1 ∧
    2 ^ 40 ≤ ((BitVec.ofNat 128 (tBarWord + (2 ^ 40 - 1) * 2 ^ 32)).extractLsb' 32 40).toNat + 1 := by decide +kernel

/-- The core with a window of two tiles and one accumulator, tile descriptors, and the recorded swizzles of its engine's tiles. -/
def tMat (td0 td1 : Word) (sw0 sw1 : Nat) (bufs : List Buf) : State :=
  let s := tMemOf { tCarrel.write 13 (dataCap 0x1000) with bufs := bufs }
  { s with
    cores := [(0, { s.core 0 with ctxRegs := [(1, { tbase := 4, tcnt := 2, abase := 1, acnt := 1, td := [(0, td0), (1, td1)] })] })],
    clusters := [(0, { engine := { tiles := [(4, { swz := sw0 }), (5, { swz := sw1 })] } })] }

theorem test_meets_MatrixWords :
    let s := tMat 0x7F7F02 0x7F7F02 0 0 [tBuf 0x1000 (natBytes 16 0x7F7F02)]
    (∀ x ∈ [Instr.tdset 0 2, .tdset 15 2, .tdset 1 7, .tdget 1 0, .tdget 1 2, .tdgetSt 1 1, .tdgetSt 1 15, .tdgetAcc 1 0, .tdgetAcc 1 1, .mma 0 0 1 false, .mma 0 2 1 true,
      .mma 0 0 2 false, .mma 1 0 1 false, .macst 0 2 13 .f32, .macst 1 2 13 .f32, .macst 0 8 13 .i32], issuable x s = true) ∧
    (∀ cs ∈ [[(2 : Reg)], [7], [2, 13], [8, 13]], sourcesReady { cs := cs } s = true) ∧ sourcesReady {} s = true ∧
    sourcesReady { dc := some 1 } s = true ∧ takes s 1 0 = true ∧ s.me.stream 1 = none ∧ s.me.settled = true ∧ isPrimary s = false ∧ hasRoom s = true ∧
    s.myCore.cregs.tcnt = 2 ∧ s.myCore.cregs.acnt = 1 ∧ tileStall s 0 [4, 5] = .go ∧ tileStall s 0 [] = .go ∧
    capCheck s 0 (src (readSources s.me [2]) 0) 0x1000 16 permR = none ∧
    (arrived s 0x1000 16).map (fun (t, bs) => (leNat ((bs.take 8).map (·.1)), leNat (((bs.drop 8).take 8).map (·.1)), t.me.settled)) =
      some (0x7F7F02, 0, true) ∧
    (∀ f ∈ [true, false], tdLegal f 0x7F7F02 = true ∧ tdPair f 0x7F7F02 0x7F7F02 = true ∧ tdPair f 0x7F7F02 0x7F7F01 = false ∧ tdLegal f 0x7F7F0F = false) ∧
    macstFault s 0 .f32 (src (readSources s.me [2, 13]) 0) 0x1000 ≠ none ∧
    macstFault s 0 .f32 (tCap tAll 0x1000 0x10000 0) 512 = none := by decide +kernel

/-- The tiles' recorded swizzles differ from the first, then from the second descriptor's. -/
theorem test_meets_MatrixWords_swizzle :
    let s := tMat 0x7F7F02 0x7F7F02 1 0 []
    let u := tMat 0x7F7F02 0x7F7F02 0 1 []
    issuable (.mma 0 0 1 false) s = true ∧ issuable (.mma 0 0 1 false) u = true ∧ ((s.cluster 0).engine.tile 4).swz = 1 := by
  decide +kernel

/-- An engine performs MACZ on an accumulator that holds something. -/
def tMacz : State :=
  let s := tMat 0 0 0 0 []
  { s with clusters := [(0, { engine := { accs := [(1, { elems := [(0, 7)], aov := true })], running := some ⟨.macz 1 .f64, 0, 1, 0⟩ } })] }

theorem test_meets_AccumulatorClear :
    let s := tMat 0 0 0 0 []
    issuable (.macz 0 .i32) s = true ∧ issuable (.macz 1 .i32) s = true ∧ sourcesReady {} s = true ∧ hasRoom s = true ∧ s.me.settled = true ∧
    (tMacz.engine 0).running = some ⟨.macz 1 .f64, 0, 1, 0⟩ := by decide +kernel

/-- R263 on that engine. -/
theorem test_macz :
    tAfter (.engineCommandComplete 0) tMacz (fun t => let a := (t.engine 0).acc 1; (fgetD a.elems 0 0, a.aov, a.kind)) = some (0, false, .f64) := by
  decide +kernel

/-! ### Dispatch, the ends of activations, limits -/

/-- Tag 3 installed at 0x400 with one message of two words, accepted before. -/
def tHandler : HTag := { inst := true, en := true, haddr := 0x400, pend := 1, prio := 2, eprio := 2, seq := 6, caps := [(0, tCap 3 0 64 0)] }

def tMsg : InboxEnt := { id := 1, tag := 3, seq := 5, score := 7, sdev := 0xFFF, words := [.data 11, .data 12] }

def tReady (h : HTag) (i : InboxEnt) : State :=
  { cores := [(0, { ctx := 1, bay := some tBay, tags := [(3, h)], inbox := [i] })], ctxs := tCtxs, mem := tTable }

/-- R40 and R41: the registers of a new activation. -/
theorem test_dispatch :
    tAfter (.dispatch 0) (tReady tHandler tMsg) (fun t => let c := t.carrel 0 0; ((c.read 1).data, (c.read 2).data, (c.read 9).data, (c.read 60).tag, c.pc)) =
      some (11, 12, 0x0FFF000500070003, true, 0x400) := by decide +kernel

theorem test_meets_DispatchStarts :
    let s := tReady tHandler tMsg
    let k := s.core 0
    k.live = true ∧ reshelving s 0 = none ∧ k.dispatched = none ∧ (∀ u < 64, agingDue k u = false) ∧ runnable k 3 = true ∧
    (∀ u < 64, runnable k u = true → u ≠ 3 → before k 3 u = true) ∧ (k.carrel 0).st = .free ∧ (k.carrel 0).freedAt ≠ some s.cycle ∧
    k.inbox[0]? = some tMsg ∧ tMsg.pending = true ∧ tMsg.again = false ∧ heldRputs k 3 = [] ∧
    (let u := tReady { tHandler with wait := 65537 } tMsg
     runnable (u.core 0) 3 = true ∧ ((u.core 0).tagOf 3).eprio < min 15 (((u.core 0).tagOf 3).prio + (65537 - 1) / 65536)) ∧
    (let c := (tState { tRun [] with yield := 1 }).carrel 0 0
     c.issues = true ∧ c.yield = 1) := by decide +kernel

/-- A core whose carrel is in a state, with an entry of its outbox and a park. -/
def tEnd (st : CState) (p : Option Park) : State :=
  let s := tReady { tHandler with act := 1, pend := 0 } { tMsg with started := true }
  { s with cores := [(0, { s.core 0 with carrels := [(0, { st := st, park := p, tag := 3, entry := 1, outbox := [{ eff := .marker, id := 1 }] })] })] }

theorem test_meets_ActivationEnds :
    issuable .end_ (tRegs []) = true ∧ issuable (.idle 2) (tRegs [(2, 5)]) = true ∧ sourcesReady { cs := [2] } (tRegs [(2, 5)]) = true ∧
    (let s := tEnd .ending none
     let c := s.carrel 0 0
     c.st = .ending ∧ (s.core 0).frozen = false ∧ c.streams = [] ∧ canDrain s 0 0 = true ∧ c.pair = false ∧ (s.core 0).twin = none ∧
     (s.core 0).twinOf = none) ∧
    ((tEnd .halted none).carrel 0 0).st = .halted ∧ ((tEnd .halted none).carrel 0 0).pair = false ∧
    (let p : Park := { why := .presence [33] }
     ((tEnd .parked (some p)).carrel 0 0).park = some { p with why := .presence [33] } ∧ ((tEnd .parked (some p)).carrel 0 0).pair = false) ∧
    (∀ s ∈ [tEnd .parked (some { why := .idle 5, cycles := 5 }), tEnd .parked (some { why := .idle 5, cycles := 4, woken := true }),
       tEnd .parked (some { why := .idle 0, cycles := 9 })], (s.carrel 0 0).st = .parked ∧ (s.core 0).live = true) := by decide +kernel

/-- HALT issues on a control core. -/
theorem test_meets_ActivationEnds_halt :
    issuable .halt { cur := (4096, 0), cores := [(4096, { carrels := [(0, { st := .runtime, lv := 2 })] })] } = true := by decide +kernel

/-- A core whose carrel is parked on a barrier object or a cell, with limits. -/
def tWait (ltmo btmo : Word) (why : ParkWhy) (n : Nat) : State :=
  let s := tMemOf { st := .parked, park := some { why := why, cycles := n } }
  { s with cores := [(0, { s.core 0 with ctxRegs := [(1, { ltmo := ltmo, btmo := btmo })] })] }

def tBwaitRec : BWaitRec := { d := 1, addr := BitVec.ofNat 64 (tScr 0x40), gen := 0 }
def tLwaitRec (d : Reg) : LWaitRec :=
  { d := d, addr := 0x20000, pa := 0x30000, typ := 1, size := 4, x := 5, nal2 := false, stream := false, keep := false, req := none }

theorem test_meets_WaitLimits :
    (let s := tRegs [(2, -1)]
     issuable (.sysw 2 .btmo) s = true ∧ issuable (.sysw 2 .ltmo) s = true ∧ sourcesReady { cs := [2] } s = true ∧ s.me.settled = true ∧
     issuable (.sysr 1 .btmo) s = true ∧ sourcesReady { dc := some 1 } s = true ∧ takes s 1 0 = true ∧ s.myCore.sysOld = []) ∧
    (∀ s ∈ [tWait 0 0 (.bwait tBwaitRec) 9, tWait 0 10 (.bwait tBwaitRec) 9, tWait 0 9 (.bwait tBwaitRec) 9],
      (s.carrel 0 0).st = .parked ∧ (s.core 0).live = true ∧ (s.carrel 0 0).settled = true ∧ (s.carrel 0 0).pair = false ∧ (s.carrel 0 0).lv = 0) ∧
    ((tWait 0 10 (.bwait tBwaitRec) 9).core 0).cregs.btmo = 10 ∧ ((tWait 0 9 (.bwait tBwaitRec) 9).core 0).cregs.btmo = 9 ∧
    (∀ d ∈ [Park.mk (.lwait (tLwaitRec 1)) 9 false [], ⟨.lwait (tLwaitRec 0), 9, false, []⟩],
      let s := tWait 9 0 d.why 9
      (s.carrel 0 0).st = .parked ∧ ((s.core 0).cregs.ltmo).toNat = 9 ∧
      (let (t, v, bad) := lwaitView s 0 0 (tLwaitRec 1)
       !bad && !(geq 1 v 5) && (t.carrel 0 0).settled && (t.carrel 0 0).park == (s.carrel 0 0).park && (t.carrel 0 0).stream 1 == none) = true) := by
  decide +kernel

/-- R212: the limit of 9 ends the wait with the view 0 and bit 127 set. -/
theorem test_ltmo :
    tAfter (.lwaitTimeout 0 0) (tWait 9 0 (.lwait (tLwaitRec 1)) 9) (fun t => ((t.carrel 0 0).read 1).val) = some (2 ^ 127) ∧
    tAfter (.bwaitTimeout 0 0) (tWait 0 9 (.bwait tBwaitRec) 9) (fun t => (t.carrel 0 0).cause) = some 0x283 := by decide +kernel

/-! ### Messages, entries, stream elements -/

/-- A network interface with a message in a state, and a router of cluster 0 with a flit that has arrived. -/
def tNet (m : OutMsg) (f : Flit) (h : HTag) (inbox : List InboxEnt) (c : Carrel) : State :=
  { cores := [(0, { ctx := 1, bay := some tBay, out := [m], tags := [(3, h)], inbox := inbox, carrels := [(0, c)] })], ctxs := tCtxs, mem := tTable,
    clusters := [(0, { arrived := [f] })] }

def tOut : OutMsg := { dest := 0x0FFF0000, tag := 3, body := .msg [.data 5] 0, ctx := 1 }
def tFlit (b : FlitBody) : Flit := { dst := 0, src := 0, at_ := 0, ctx := 1, tag := 3, body := b }

theorem test_meets_MessageEvents :
    let s := tNet tOut (tFlit (.msg (.msg [.data 5] 0) 0)) tHandler [] {}
    (s.core 0).out[0]? = some tOut ∧ firstOfStream s (s.core 0).out 0 tOut = true ∧ s.isOwnDev (destDev tOut.dest) = true ∧
    tOut.inFlight = false ∧ tOut.refused = false ∧ firstOfStream s [{ tOut with refused := true, again := true }] 0 { tOut with refused := true, again := true } = true ∧
    duplicate s (tFlit (.msg (.msg [.data 5] 0) 0)) = false ∧
    duplicate (s.modCore 0 fun k => { k with seen := [((1 * 4096 + 0xFFF) * 4096 * 128 + 3, 0)] }) (tFlit (.msg (.msg [.data 5] 0) 0)) = true ∧
    (s.cluster 0).arrived[0]? = some (tFlit (.msg (.msg [.data 5] 0) 0)) ∧ holdFlit s (tFlit (.msg (.msg [.data 5] 0) 0)) = none ∧
    inBayOf s 1 0 = true ∧ unbacked s 0 = false ∧ (tFlit (.msg (.msg [.data 5] 0) 0)).fromPeer = false ∧ ((s.core 0).tagOf 3).inst = true ∧
    ((s.core 0).tagOf 3).pend < 255 ∧ (s.core 0).inbox.length < 512 ∧ (s.core 0).twin = none ∧
    ((tNet tOut (tFlit (.msg (.msg [.data 5] 0) 0)) {} [] {}).core 0).tagOf 3 = {} ∧
    (((tNet tOut (tFlit (.msg (.msg [.data 5] 0) 0)) { tHandler with pend := 255 } [] {}).core 0).tagOf 3).pend = 255 := by decide +kernel

theorem test_meets_MessageEvents_rput :
    let f := tFlit (.msg (.rput 31 (.data 7)) 0)
    let s := tNet tOut f tHandler [] { tRun [] with tag := 3 }
    let u := tNet tOut f tHandler [] {}
    (∀ t ∈ [s, u], (t.cluster 0).arrived[0]? = some f ∧ holdFlit t f = none ∧ inBayOf t 1 0 = true ∧ unbacked t 0 = false ∧ duplicate t f = false ∧
      ((t.core 0).tagOf 3).inst = true ∧ rputBound (t.core 0) 3 31 = false ∧ (t.core 0).twin = none) ∧
    f.fromPeer = false ∧ rputCarrel (s.core 0) 3 = some 0 ∧ (63 : Reg) ∉ (s.carrel 0 0).wrote ∧
    (63 : Reg) ∈ ((s.modCarrel 0 0 fun c => { c with wrote := [63] }).carrel 0 0).wrote ∧ rputCarrel (u.core 0) 3 = none ∧ (u.core 0).inbox.length < 512 := by decide +kernel

theorem test_meets_MessageEvents_ack :
    ∀ b ∈ [true, false], let s := tNet { tOut with inFlight := true } (tFlit (.ack 0 0 3 b none)) tHandler [] {}
      (s.cluster 0).arrived[0]? = some (tFlit (.ack 0 0 3 b none)) ∧ (s.core 0).out[0]? = some { tOut with inFlight := true } ∧
      destCore tOut.dest = 0 ∧ s.isOwnDev (destDev tOut.dest) = true := by decide +kernel

/-- R29: an acceptance. -/
theorem test_acceptance :
    tAfter (.messageArrival 0 0) (tNet tOut (tFlit (.msg (.msg [.data 5] 0) 0)) tHandler [] {})
      (fun t => (((t.core 0).tagOf 3).pend, ((t.core 0).tagOf 3).seq, (t.core 0).inbox.map (·.seq))) = some (2, 7, [6]) := by decide +kernel

/-- The core of tMem with one commit-queue entry. -/
def tQueue (e : Entry) : State :=
  let s := tBarrier tBarWord
  { s with cores := [(0, { s.core 0 with queue := [e] })] }

/-- An entry of every kind is due. -/
theorem test_meets_EntryEvents :
    (∀ e ∈ ([{ eff := .marker, id := 1 },
      { eff := .store (((List.range 2).map fun j => Loc.scr 0 0 (0x40 + j)).zip [1, 2]) false, id := 1 },
      { eff := .store (((List.range 2).map fun j => Loc.mem (0x3000 + j)).zip [1, 2]) false, id := 1, through := true, window := [3] },
      { eff := .send 0x0FFF0000 3 [.data 1], id := 1 }, { eff := .tagctl 3 .en, id := 1 }, { eff := .engine (.macz 1 .f32), id := 1 },
      { eff := .barm (BitVec.ofNat 64 (tScr 0x40)) (.scr 0 0 0x40) 5, id := 1 },
      { eff := .barb (BitVec.ofNat 64 (tScr 0x40)) (.scr 0 0 0x40) 5, id := 1 },
      { eff := .join 0x30000 1 4 7, id := 1 }, { eff := .scfg 3 3, id := 1 }] : List Entry),
      let s := tQueue e
      (s.core 0).queue[0]? = some e ∧ e.sent = none ∧ eligible s 0 0 e = true ∧ e.ecc = false ∧ ((s.core 0).queue.take 0) = []) ∧
    (let s := tQueue { eff := .marker }
     memWf s.mem = true ∧ s.memTags = [] ∧ s.memPoison = [] ∧ (s.engine 0).queue.length < 64 ∧ barPoisoned s 0 0 0x40 = false ∧
     placeOf s 0 (tScr 0x40) = .scr 0 0 0x40 ∧ ((s.core 0).chan 3).cmd = none ∧ 0x3000 % 4096 + 2 ≤ 4096) := by decide +kernel

/-- The siphon and the gather of the descriptors above, as their words build them, are due at a free channel. -/
theorem test_meets_EntryEvents_commands :
    (match siphBuild (tSiph (tSiphDesc 2)) 0 (siphOfDesc ((tSiphDesc 2).map (·, false)) (tCap tAll 0x1000 0x1000 0) (tCap tAll 0x1800 0x100 0) 0) false with
     | .ok c => c.tile == none && !(ctlBarv c.ctl.toNat) && c.count != 0 &&
         (let e : Entry := { eff := .siph 0 c, id := 1 }
          let s := tQueue e
          e.sent == none && eligible s 0 0 e && !e.ecc && ((s.core 0).chan 0).cmd == none)
     | _ => false) = true ∧
    (let c : GathCmd := { raw := tGathDesc 0 0 0, rows := [0], feat := {}, csr := {}, desc := 0, ta := 0, tb := 1, tda := 0, tdb := 0, follow := none }
     let e : Entry := { eff := .sgath 0 c, id := 1 }
     let s := tQueue e
     e.sent = none ∧ eligible s 0 0 e = true ∧ ((s.core 0).chan 0).cmd = none ∧ tileNamed s 0 0 = false ∧ tileNamed s 0 1 = false ∧
     (leNat ((c.raw.drop 0x30).take 8)).testBit 8 = false) := by decide +kernel

/-- A BARR whose entries are gone. -/
theorem test_meets_EntryEvents_barr :
    let b : BarrWait := { addr := BitVec.ofNat 64 (tScr 0x40), d := 1, entries := [], req := none, result := none }
    let s := tBarrier tBarWord
    let u := s.modCarrel 0 0 fun c => { c with barr := some b }
    (u.carrel 0 0).barr = some b ∧ placeOf u 0 b.addr.toNat = .scr 0 0 0x40 ∧ barPoisoned u 0 0 0x40 = false := by decide +kernel

/-- c48 bound to a read stream at an address, c49 to a write stream with one element appended. -/
def tStream (base : TCap) : State :=
  let rd : Stream := { base := base, extents := [2, 1, 1], strides := [8, 0, 0], size := 4, write := false, sign := true, total := 2 }
  let wr : Stream := { rd with base := tCap tAll (tScr 0x40) 0x100 0, write := true, next := 1, buffer := [(0, 7)] }
  tMemOf { tCarrel with streams := [(48, rd), (49, wr)] }

theorem test_meets_StreamEvents :
    (∀ s ∈ [tStream (tCap tAll 0x1001 0x100 0), tStream (dataCap 0x1000), tStream (tCap tAll (tScr 0x40) 0x100 0),
      tStream (tCap tAll 0x20000 0x100 0)], (streamAt s 0 0 48).isSome = true ∧ (streamAt s 0 0 49).isSome = true) ∧
    (match streamAt (tStream (tCap tAll (tScr 0x40) 0x100 0)) 0 0 48 with
     | some st => let u := tStream (tCap tAll (tScr 0x40) 0x100 0)
       !st.write && decide (st.next < st.total) && decide (st.ready.length < 16) && streamAddr st 0 == tScr 0x40 && u.cur == (0, 0) &&
       capCheck u 0 st.base (tScr 0x40) 4 permR == none && siphStall u 0 (tScr 0x40) 4 == .go &&
       tPlaces u (tScr 0x40) 4 .read (fun t p => cellOf p == none && (match issueLoad (pushElem t 0 0 48 (.pending (t.core 0).nextId))
              { id := 0, dest := .stream 48 4 true, addr := BitVec.ofNat 64 (tScr 0x40), size := 4,
                elems := [elemOf p.window ⟨4, 4, []⟩ 0 (tScr 0x40) p.locs] } with | .done _ => true | _ => false))
     | none => false) = true ∧
    (match streamAt (tStream (tCap tAll 0x20000 0x100 0)) 0 0 48 with
     | some st => let u := tStream (tCap tAll 0x20000 0x100 0)
       streamAddr st 0 == 0x20000 && capCheck u 0 st.base 0x20000 4 permR == none &&
       tPlaces u 0x20000 4 .read (fun t p => cellOf p == some (0x30000, 1) && siphStall t 0 0x20000 4 == .go && hasDram 0x30000 &&
         !(loadHeld t ((List.range 4).map fun j => .mem (0x30000 + j))) && !(viewCell t 0 0 0x30000 1 4 {}).2.2)
     | none => false) = true ∧
    (match streamAt (tStream (dataCap 0)) 0 0 49 with
     | some st => let u := tStream (dataCap 0)
       st.write && st.buffer == [(0, 7)] && streamAddr st 0 == tScr 0x40 && decide ((u.carrel 0 0).outbox.length < 64) &&
       tPlaces u (tScr 0x40) 4 .write (fun t p => cellOf p == none && badLoc p.locs == none && (t.carrel 0 0).outbox == [])
     | none => false) = true := by decide +kernel

/-- R353: with the last element of an Ending carrel its bindings go. -/
theorem test_stream_end :
    [CState.running, .ending].map (fun st => tAfter (.streamConvert 0 0 49) ((tStream (dataCap 0)).modCarrel 0 0 fun c => { c with st := st })
      (fun t => ((t.carrel 0 0).outbox.length, (t.carrel 0 0).streams.length))) = [some (1, 2), some (1, 0)] := by decide +kernel

/-! ### The catalogue, loads, the network -/

def tCatMsg (k : CatKind) : CatMsg := { kind := k, cluster := 0, die := 0, pa := 0x3000, len := 64, lo := 0x3000, hi := 0x4000, req := 1 }

/-- Die 0 and cluster 0 with a catalogue message. -/
def tCat (m : CatMsg) (es : List CatEntry) (rs : List CatReq) : State :=
  { tMem with dies := [(0, { inbox := [m], entries := es })],
              clusters := [(0, { arrived := [{ dst := 0, src := 0, at_ := 0, body := .cat m }], reqs := rs })] }

theorem test_meets_CatalogueEvents :
    (∀ k ∈ [CatKind.gets, .geto, .uncr, .uncw, .evn, .iack, .fack, .dack], homeTake (tCat (tCatMsg k) [] []) 0 0 k = some (tCatMsg k)) ∧
    (∀ k ∈ [CatKind.eack, .inv, .fetch, .disc, .data, .grant], clusterTake (tCat (tCatMsg k) [] []) 0 0 k = some (tCatMsg k)) ∧
    (let s := tCat (tCatMsg .gets) [] []
     (s.die 0).entries = [] ∧ (s.die 0).filter = [] ∧ (s.cluster 0).reqs.find? (fun q => q.id == 1) = none ∧ (tCatMsg .gets).atomic = false) ∧
    (∀ u ∈ [CatUser.access 0 0 1, .entry 0 1],
      let q : CatReq := { id := 1, user := u, msg := tCatMsg .gets }
      (((tCat (tCatMsg .data) [] [q]).cluster 0).reqs.find? fun q => q.id == 1) = some q) ∧
    (0x3000 : Nat) / 65536 = (0x3000 + 64 - 1) / 65536 := by decide +kernel

/-- Entries: one whose discovery has had its last answer, one that waits for more, an idle one, and two quiet siblings. -/
theorem test_meets_CatalogueEvents_entries :
    (∀ w ∈ [[0], [0, 1]],
      let e : CatEntry := { size := 6, tract := 0xC0, wait := w, disc := true, cur := some (tCatMsg .gets) }
      let s := tCat (tCatMsg .dack) [e] []
      ((entryOf (countAnswer (homeDrop s 0 0) 0 (tCatMsg .dack) id) 0 0x3000).map fun x => (x.disc, x.wait)) = some (true, w.drop 1)) ∧
    (let e : CatEntry := { size := 10, tract := 0 }
     let s := tCat (tCatMsg .gets) [e] []
     leastRecent ((s.die 0).entries.filter fun e => e.cur.isNone && !e.isShared) = some e) ∧
    (let a : CatEntry := { size := 0, tract := 0, ptrs := [(1, true)] }
     let b : CatEntry := { size := 0, tract := 1, ptrs := [(1, false)] }
     let s := { tCat (tCatMsg .gets) [a, b] [] with cycle := 2 ^ 20 }
     (s.die 0).entries.find? (fun e => e.lo == 0) = some a ∧
     (s.die 0).entries.find? (fun e => e.lo == 0 + 2 ^ (a.size + 6) && e.size == a.size) = some b ∧ a.size < 10 ∧
     0 % (2 * 2 ^ (a.size + 6)) = 0 ∧ a.quietFor s.cycle = 2 ^ 20 ∧ b.quietFor s.cycle = 2 ^ 20 ∧ sameHolders a b = true) := by
  decide +kernel

/-- A GETO that meets a holder, the last IACK of its round, the last FACK of a read, and a GRANT for entries with and without stores left. -/
theorem test_meets_CatalogueEvents_rounds :
    (let e : CatEntry := { size := 10, tract := 0, ptrs := [(3, true)] }
     let s := tCat (tCatMsg .geto) [e] []
     homeTake s 0 0 .geto = some (tCatMsg .geto) ∧ (s.die 0).entries = [e] ∧ e.lo ≤ 0x3000 ∧ 0x3000 + 64 ≤ e.hi) ∧
    (∀ k ∈ [(CatKind.iack, CatKind.geto), (.fack, .gets)],
      let m : CatMsg := { tCatMsg k.1 with cluster := 3 }
      let q := tCatMsg k.2
      let e : CatEntry := { size := 10, tract := 0, ptrs := [(3, true)], cur := some q, wait := [3] }
      let s := tCat m [e] []
      homeTake s 0 0 k.1 = some m ∧ (s.die 0).entries = [e] ∧ e.lo ≤ q.pa ∧ q.pa + q.len ≤ e.hi) ∧
    (∀ eff ∈ [Effect.store [] false, .store [(.mem 0x3000, 1)] false],
      let q : CatReq := { id := 1, user := .entry 0 7, msg := tCatMsg .geto }
      let e : Entry := { eff := eff, addr := 0, major := 0, id := 7, sent := some 1 }
      let t := tCat (tCatMsg .grant) [] [q]
      let s := { t with cores := [(0, { t.core 0 with queue := [e] })] }
      clusterTake s 0 0 .grant = some (tCatMsg .grant) ∧ ((s.cluster 0).reqs.find? fun q => q.id == 1) = some q ∧
      (s.core 0).queue.find? (fun e => e.id == 7) = some e) := by decide +kernel

/-- R157: the first GETS of a tract makes a Private entry for the requester and answers with the bytes. -/
theorem test_gets :
    tAfter (.catalogueGets 0 0) (tCat (tCatMsg .gets) [] []) (fun t => (t.die 0).entries.map fun e => (e.isShared, e.ptrs, e.lo, e.hi)) =
      some [(false, [(0, false)], 0, 65536)] := by decide +kernel

/-- A load of two bytes of the scratchpad that can be read. -/
def tElem : LElem := elemOf [] ⟨4, 4, []⟩ 0 (tScr 0x40) [.scr 0 0 0x40, .scr 0 0 0x41]
def tLoad : Outst := { id := 1, dest := .reg 1 .h false, addr := BitVec.ofNat 64 (tScr 0x40), size := 2, elems := [tElem] }

def tLoading : State := tMemOf { tCarrel with loads := [tLoad] }

theorem test_meets_MemoryEvents :
    let s := tLoading
    (s.carrel 0 0).loads[0]? = some tLoad ∧ heal s 0 tLoad = s ∧ tLoad.op = .load ∧ tLoad.got = [] ∧ tLoad.errs = [] ∧ respErr s tElem = none ∧
    ((captureElem (fun p => match baseNow s 0 tElem.reach p with
          | some b => some b
          | none => respBase s tElem p) (pendingFor s 0 0 tLoad.id) tElem).map fun g => g.all fun b => !b.poison) = some true := by decide +kernel

/-- A filling folio of the L1F whose first byte the L2F holds. -/
theorem test_meets_MemoryEvents_fill :
    let f : Folio := { st := .filling, scr := false, start := 0, fin := 32, wmk := 0, base := 0, key := 3, data := List.replicate 32 (0, false) }
    let s := { tMem with cores := [(0, { tMem.core 0 with l1 := { folios := [f] } })],
                         clusters := [(0, { l2 := { folios := [{ f with st := .clean, wmk := 32 }] } })] }
    ((s.core 0).l1.folios.filter fun f => f.st == .filling)[0]? = some f ∧ (fillBytes (s.cluster 0).l2 1 f []).1.wmk ≠ f.wmk := by
  decide +kernel

/-- Requests with and without an answer, and past FABLIM; a scratchpad access that has arrived; ports. -/
def tReqs (n : Nat) : State :=
  let s := tMem
  { s with
    reqs := [{ id := 1, user := .access 0 0 1, addr := 0, start := 0, outside := true }],
    clusters := [(0, { arrived := [tFlit (.space2 (.read 8) 0 0x40 1), { (tFlit (.space2 (.write [1] false) 0 0x40 1)) with seq := 5 }] })],
    hub := { s.hub with time := BitVec.ofNat 64 n, routes := [(9, 1), (10, 2)], ports := [(1, { replay := [⟨7, [], []⟩] }), (2, { fails := 16 })] } }

/-- A peer's read of space 2, in a context that the module does not know. -/
def tPeerReq : PeerReq := { sdev := 7, score := 5, ctx := 9, tag := 0, dcore := 0, addr := BitVec.ofNat 64 (tScr 0x40), op := .read 8 }

/-- An answer for a peer, on the lane of answers. -/
def tLinkMsg : LinkMsg := { dev := 9, dcore := 5, score := 0, tag := 0, ctx := 9, lane := 33, addr := 0, body := .resp (.ok [1, 2] false) }

theorem test_meets_NetworkEvents :
    let s := tReqs 99999
    let q : Req := { id := 1, user := .access 0 0 1, addr := 0, start := 0, outside := true }
    s.reqs.find? (fun x => x.id == 1) = some q ∧ s.hub.time.toNat < q.start + s.hub.fablim.toNat * 1000 ∧
    q.start + (tReqs 100000).hub.fablim.toNat * 1000 ≤ (tReqs 100000).hub.time.toNat ∧
    (s.cluster 0).arrived[0]? = some (tFlit (.space2 (.read 8) 0 0x40 1)) ∧ holdSpace2 s (tFlit (.space2 (.read 8) 0 0x40 1)) = none ∧
    duplicate s (tFlit (.space2 (.read 8) 0 0x40 1)) = false ∧ fget s.ctxs tPeerReq.ctx = none ∧ (s.port 1).replay = [⟨7, [], []⟩] ∧ (s.port 1).down = false ∧ (s.port 2).down = false ∧ 16 ≤ (s.port 2).fails ∧
    (s.port 2).replay = [] ∧ (s.port 2).queue = [] ∧ (s.port 0).down = false ∧ (s.port 0).queue = [] ∧
    (s.port 0).replay.length < 64 ∧ (s.port 0).canClaim 33 = true ∧ (tLinkMsg.bytes s.hub.devid).length ≤ 240 ∧
    leNat ((List.replicate 256 (0 : Byte)).take 2) = (acknowledge (s.port 0) (leNat (((List.replicate 256 (0 : Byte)).drop 2).take 2))).expected := by
  decide +kernel

/-- The message's stream may use port 0 only. -/
theorem test_meets_NetworkEvents_port : portOf (tReqs 99999) tLinkMsg = some 0 := by
  have h : boundPort (tReqs 99999) tLinkMsg = none := by decide +kernel
  have g : usablePorts (tReqs 99999) tLinkMsg.dev = [0] := by decide +kernel
  simp [portOf, h, g, Nat.mod_one]

theorem test_crc_zeros (n : Nat) : crc64 (List.replicate n 0) = 0 := by
  induction n with
  | zero => rfl
  | succ n ih =>
    have h : crcByte 0 0 = 0 := by decide +kernel
    rw [crc64, List.replicate_succ, List.foldl_cons, h]
    exact ih

/-- R306: the CRC of zeros is zero, so a flit of zeros is sound, and one with another CRC is not. -/
theorem test_link_sound : linkSound (List.replicate 256 0) 0 = true ∧ linkSound (List.replicate 255 0 ++ [1]) 0 = false := by
  have h : (List.replicate 256 (0 : Byte)).take 248 = List.replicate 248 0 := by decide +kernel
  have g : (List.replicate 255 (0 : Byte) ++ [1]).take 248 = List.replicate 248 0 := by decide +kernel
  simp only [linkSound, h, g, test_crc_zeros]
  decide +kernel

/-! ### Siphons, engines and pumps at work -/

/-- A command of one byte from c2's capability whose only element is padded, into tile 0. -/
def tCmd : SiphCmd :=
  { ext := [1, 1, 1, 1, 1], start := [-1, 0, 0, 0, 0], sstr := [1, 0, 0, 0, 0], dstr := [1, 0, 0, 0, 0], ctl := 0x150010,
    src := tCap tAll 0x1000 0x1000 0, dst := {}, desc := 0x1000, dlo := 0, span := 1, tot := 1, tile := some 0, follow := none, node := none }

def tGath : GathCmd :=
  { raw := tGathDesc 0 0 0, rows := [0], feat := {}, csr := {}, desc := 0, ta := 0, tb := 1, tda := 0, tdb := 0, follow := none }

/-- Core 0 with a channel at work. -/
def tChan (x : Channel) : State := { tMem with cores := [(0, { tMem.core 0 with chans := [(5, x)] })] }

theorem test_meets_UnitEvents_channels :
    (∀ c ∈ [ChanCmd.siph tCmd, .gath tGath],
      let s := tChan { cmd := some c, last := some c, v := true, ctx := 1 }
      (s.chan 0 5).cmd = some c ∧ walks (s.chan 0 5) = true ∧ chanFrozen s 0 = false ∧ (s.chan 0 5).inflight = [] ∧ hipriFirst s 0 5 = false ∧ barWaits s 0 5 = false ∧
      (let u := tChan { cmd := some c, last := some c, v := true, ctx := 1, written := true }
       (u.chan 0 5).written = true ∧ (u.chan 0 5).failed = none ∧ barWaits u 0 5 = false) ∧
      (let u := tChan { cmd := some c, last := some c, v := true, ctx := 1, failed := some 0x1000 }
       (u.chan 0 5).cmd = some c ∧ (u.chan 0 5).failed = some 0x1000 ∧ (u.chan 0 5).quiet = false ∧ nodeOf c = none ∧ c.follow = none)) ∧
    ctlBarv tCmd.ctl.toNat = false ∧ tCmd.scales = 0 ∧ tCmd.units = 1 ∧ tCmd.unitSrc 0 = none ∧ tCmd.unitSize 0 = 1 := by decide +kernel

/-- R189: the pad byte. -/
theorem test_pad :
    tAfter (.siphElementWrite 0 5) (tChan { cmd := some (.siph tCmd), last := some (.siph tCmd), v := true, ctx := 1 })
      (fun t => fget ((t.engine 0).tile 0).bytes 0) = some (some 0x54) := by decide +kernel

/-- An INT8 command on tiles 0 and 1 and accumulator 0, which may migrate. -/
def tMma : MmaCmd := ⟨0, 1, 0, 0x7F7F02, 0x7F7F02, true, 0, 1, 0, false⟩
def tMmaCmd : EngCmd := ⟨.mma tMma, 0, 1, 0x100⟩

/-- A MACST of accumulator 0 to 0x1000 with rows of 512 bytes. -/
def tMacst (n : Nat) : MacstCmd := ⟨0, 0, .i32, tCap tAll 0x1000 0x10000 0, 512, n⟩
def tMacstCmd (n : Nat) : EngCmd := ⟨.macst (tMacst n), 0, 1, 0x100⟩

def tEngine (q : List EngCmd) (running : Option EngCmd) (kind : AccKind) (m : Option Migrant) : State :=
  let t : Tile := { bytes := [(0, 2)] }
  let u : Tile := { bytes := [(0, 3)] }
  { tMem with clusters := [(0, { engine := { queue := q, running := running, migrant := m, accs := [(0, { kind := kind })], tiles := [(0, t), (1, u)] } })] }

theorem test_meets_UnitEvents_engines :
    (∀ kind ∈ [AccKind.i32, .f32], let s := tEngine [tMmaCmd] none kind none
      (s.engine 0).queue = [tMmaCmd] ∧ (s.engine 0).running = none ∧ (s.engine 0).migrant = none ∧ headReady s 0 tMmaCmd = true ∧
      startCheck (s.engine 0) tMmaCmd = if kind = .i32 then none else some (0x203, 0)) ∧
    (let s := tEngine [] (some tMmaCmd) .i32 none
     (s.engine 0).running = some tMmaCmd ∧ ((s.engine 0).acc tMma.acc).kind = .i32 ∧ tdFmt tMma.tda.toNat = 2) ∧
    macstElems (tMacst 0) = 16384 ∧ bitAt (tMacst 0).ctl.toNat 34 = false ∧ macstBar (tMacst 0) = none ∧
    (let s := tEngine [] (some (tMacstCmd 0)) .i32 none
     (match places s 0 1 (macstAddr (tMacst 0) 0) (macstSize (tMacst 0)) .siphW with
      | (t, .ok p) => p.locs.head? == some (.mem 0x3000) && badLoc p.locs == none && !(homeHolds t p)
      | _ => false) = true) ∧
    (let s := tEngine [] (some (tMacstCmd 0)) .i32 none
     (match places s 0 1 (macstAddr ⟨0, 0, .i32, tCap tAll 0x40000 0x10000 0, 512, 0⟩ 0) (macstSize (tMacst 0)) .siphW with
      | (_, .error c) => c.1 == 0x0C1
      | _ => false) = true) ∧
    (let g : Migrant := ⟨tMmaCmd, 7, { swz := 0 }, {}, { kind := .i32 }, false⟩
     mmaStart tMma g.ta g.tb g.acc = none ∧ mmaStart tMma { g.ta with swz := 1 } g.tb g.acc = some (0x201, 0)) := by decide +kernel

/-- Seventeen commands on other accumulators stand ahead, and the neighbour is idle. -/
theorem test_meets_UnitEvents_migration :
    let s := tEngine (List.replicate 17 ⟨.macz 1 .f32, 0, 1, 0⟩ ++ [tMmaCmd]) none .i32 none
    (s.engine 0).queue[17]? = some tMmaCmd ∧ mayMigrate s 0 17 tMma = true := by decide +kernel

/-- R266 on a product of two elements: 2 · 3. -/
theorem test_mma :
    tAfter (.engineCommandComplete 0) (tEngine [] (some { tMmaCmd with op := .mma { tMma with tda := 0x000002, tdb := 0x000002 } }) .i32 none)
      (fun t => ((t.engine 0).running, fgetD ((t.engine 0).acc 0).elems 0 0)) = some (none, 6) := by decide +kernel

/-- A range whose participants may begin a round, blocks, and a push. -/
def tPump (now : Nat) (b : PumpBlock) : State :=
  let r : Range := { ctx := 1, vgran := 0x20, len := 1, pgran := 0x30, home := 0, typ := 1, sched := 0, interval := 100, peers := [] }
  { tMem with ranges := [r], hub := { time := BitVec.ofNat 64 now }, blocks := [b],
              pushes := [{ cluster := 0, pa := 0x30000, size := 4, typ := 1, val := 5, merge := 9 }] }

def tBlock (merged : Bool) (peer : Option Nat) : PumpBlock :=
  { id := 1, range := 0, src := if peer.isSome then 4 else 0, dst := 1, peer := peer, block := 0x30000, data := List.replicate 256 0, merged := merged }

theorem test_meets_UnitEvents_pumps :
    (∀ n ∈ [99, 100], let u := liftHolds (tPump n (tBlock false none))
      u.ranges.length = 1 ∧ (match u.ranges[0]? with
        | some r => layerOf u r 0 == (4, 0) && partReady u r 0 == (n == 100)
        | none => false) = true) ∧
    (let s := tPump 100 (tBlock false none)
     pushAt s 0 0 = some { cluster := 0, pa := 0x30000, size := 4, typ := 1, val := 5, merge := 9 } ∧ s.blocks[0]? = some (tBlock false none) ∧
     comesIn (tBlock false none) = true ∧ blockBusy s (tBlock false none) = false) ∧
    (let b : PumpBlock := { tBlock false (some 7) with src := modulePart, req := some 1 }
     let s := tPump 100 b
     s.blocks[0]? = some b ∧ b.req = some 1 ∧ (tBlock true none).req = none) ∧
    (let s := { tPump 100 (tBlock false none) with ranges := [⟨1, 0x20, 1, 0x30, 0, 1, 0, 100, [], [(1, { round := 1 }), (3, { round := 1 })]⟩] }
     let u := liftHolds s
     (match u.ranges[0]? with
      | some r => (partners r.sched 4 0 (r.part 0).round).all fun j => decide ((r.part 0).round < (r.part j).round)
      | none => false) = true) := by decide +kernel

theorem test_meets_UnitEvents_range :
    let i : RangeInit := { ctx := 1, entry := 0, vgran := 0x50, len := 1, pgran := 0x60, typ := 1, rd := true, wr := true, sched := 2, interval := 0, peers := [] }
    cellSize i.typ ≠ 0 ∧ i.len ≠ 0 ∧ i.pgran % 2 ^ 26 + i.len ≤ dramBytes / 4096 ∧ i.sched ≤ 2 ∧ i.pgran < 2 ^ 28 ∧ i.peers = [] ∧
    (fget tMem.ctxs i.ctx).isSome = true ∧ i.entry < (tMem.ctx i.ctx).rtCount := by decide +kernel

/-! ### The host, reliability, pairs, partitions -/

/-- Cluster 0 with the health word of physical core 0 and a reshelving. -/
def tHealth (w : Word) (r : Option Reshelve) (now : Nat) : State :=
  { cores := [(0, { ctx := 1, bay := some tBay })], ctxs := tCtxs, mem := tTable, hub := { time := BitVec.ofNat 64 now },
    clusters := [(0, { health := [(0, w)], reshelve := r })] }

def tShelve (p : ReshelvePhase) : Reshelve := { slot := 0, phys := 0, spare := 16, phase := p, cycles := 9, expired := false, limit := 9 }

theorem test_meets_HostEvents_reliability :
    leakOf ((tHealth 0x0500000300000000 none 3000).health 0 0) = 3 ∧ fgetD ((tHealth 0x0500000300000000 none 3000).cluster 0).leaks 0 0 = 0 ∧
    (tHealth 0 none 3000).hub.time.toNat = 3000 ∧ leakOf ((tHealth 0 none 0).health 0 0) = 0 ∧
    (let s := tHealth 0 none 0
     slotBacked s 0 0 = some 0 ∧ (s.cluster 0).reshelve = none ∧ clusterAway s 0 = false ∧ disOf (s.health 0 0) = false ∧ spareOf s 0 ≠ 0x1F ∧
     s.hasFeature 5 = true ∧ slotBacked s 0 16 = none) ∧
    (let s := tHealth 1 none 0
     slotBacked s 0 0 = some 0 ∧ disOf (s.health 0 0) = true ∧ reshelvingAt s 0 0 .copied = false ∧
     (let u := { s with hub := { s.hub with partitions := [⟨1, false, true, [(0, {})], [], []⟩] } }
      clusterAway u 0 = true ∧ slotBacked u 0 0 = some 0 ∧ reshelvingAt u 0 0 .copied = false) ∧
     reshelvingAt (tHealth 0 (some (tShelve .copied)) 0) 0 0 .copied = true) ∧
    (let s := tHealth 0 (some (tShelve .evacuate)) 0
     (s.cluster 0).reshelve = some (tShelve .evacuate) ∧ evacuated s ((tShelve .evacuate).core 0) = true ∧
     evacuated { s with cores := [(0, { s.core 0 with carrels := [(0, { st := .running })] })] } 0 = false) ∧
    (let s := tHealth 0 (some (tShelve .copied)) 0
     (s.cluster 0).reshelve = some (tShelve .copied) ∧ (s.cluster 0).held = [] ∧ (s.cluster 0).waiting = []) := by decide +kernel

/-- R289: the map entry of slot 0 goes to the spare, which is then used up. -/
theorem test_reshelve :
    tAfter (.reshelveMapRelease 0) (tHealth 0 (some (tShelve .copied)) 0) (fun t => (physOf t 0, spareOf t 0, physOf t 1)) = some (16, 31, 1) := by
  decide +kernel

theorem test_meets_HostEvents_host :
    (let s := tMem
     bar2Ok s 0x3000 2 = true ∧ bar2Ok s 0x3000 1 = true ∧ hasDram (bar2Pa s 0x3000) = true ∧ s.rangeOfPa (bar2Pa s 0x3000) = none ∧
     memWf s.mem = true ∧ s.memTags = [] ∧ s.memPoison = []) ∧
    (∀ n ∈ [2, 5], let s := { tMem with hub := { bstat := bstatWord n 0 0 } }
      2 ≤ stageOf s.hub.bstat ∧ stageOf s.hub.bstat ≤ 5 ∧ s.hub.boot = none) ∧
    (stageOf (bstatWord 2 0 0) = 2 ∧ stageOf (bstatWord 4 0 0) = 4 ∧ bar0Accepts 0x410 8 = true ∧ bar0Accepts 0x414 4 = true) ∧
    (3 : Nat) ≠ 4 ∧ (3 : Nat) ≠ 8 ∧ 4 % 8 ≠ 0 ∧ (0 : Word).getLsbD 1 = false ∧
    (let i : CtxInit := { ctx := 2, colour := 1, tvec := 0, rtBase := 0x1000, rtCount := 1, windows := [], caplist := 0 }
     i.ctx < 65536 ∧ fget tMem.ctxs i.ctx = none ∧ 1 ≤ i.rtCount ∧ i.rtCount ≤ 4096 ∧ i.windows.length ≤ 16) ∧
    (let s := { tMem with clusters := [(0, { engine := { allots := [(7, ⟨0, 4, 0, 2⟩)] } })] }
     4 + 12 ≤ 16 ∧ 2 + 6 ≤ 8 ∧ ((s.engine 0).allots.all fun (c, a) => c = 1 || (apart 4 12 a.tlb a.tln && apart 2 6 a.alb a.aln)) = true) := by
  decide +kernel

/-- R320: reset with a valid slot 1 only, then a policy that fails; the resident OS starts. -/
theorem test_reset_boot :
    ((tNext (.moduleReset ⟨false, true, false, 7, [], []⟩) tMem).bind (tNext .bootStageAdvance)).map
      (fun t => (stageOf t.hub.bstat, bootErr t.hub.bstat, t.hub.devid, t.hub.locked, (t.carrel 4111 0).lv)) =
      some (2, 2, 0, true, 2) := by decide +kernel

/-- R317: a write of the upper half of HARG leaves the lower, and the host reads the register so. -/
theorem test_bar0_half :
    (tAfter (.registerWrite (.bar0 0x414 4) 0x11223344) { tMem with hub := { tMem.hub with harg := 0x5566778899AABBCC } }
      (fun t => (t.hub.harg, (tAfter (.bar0InvalidAccess 0x410 4 false) t (·.outs))))) =
      some (0x1122334499AABBCC, some [.hostData [0xCC, 0xBB, 0xAA, 0x99] false]) := by decide +kernel

/-- A primary on core 0 and its twin on core 1, each at a commit point of the same activation. -/
def tPair (a b : List Entry) : State :=
  let c : Carrel := { st := .running, tag := 3, aseq := 5, pair := true, cmpWait := true }
  { cores := [(0, { ctx := 1, bay := some tBay, twin := some 1, carrels := [(0, { c with outbox := a })] }),
              (1, { ctx := 1, bay := some tBay, twinOf := some 0, carrels := [(0, { c with outbox := b })] })], ctxs := tCtxs, mem := tTable }

theorem test_meets_HostEvents_pairs :
    let e : Entry := { eff := .store [(.scr 0 0 0x40, 1)] false }
    (∀ s ∈ [tPair [] [], tPair [e] []], (s.core 0).twin.isSome = true ∧ partner s 0 0 = some (1, 0) ∧ atCompare (s.carrel 0 0) = some .commit ∧
      atCompare (s.carrel 1 0) = some .commit) ∧ outboxHash [e] ≠ outboxHash [] := by decide +kernel

/-- A twin at TDGET, whose primary has left its record. -/
def tSync : State :=
  let c : Carrel := { st := .running, tag := 3, aseq := 5, pair := true }
  let t : State :=
    { cores := [(0, { ctx := 1, bay := some tBay, twin := some 1, carrels := [(0, { c with sync := [{ result := some (1, dataCap 7) }] })] }),
                (1, { ctx := 1, bay := some tBay, twinOf := some 0, carrels := [(0, c)] })], ctxs := tCtxs, mem := tTable }
  t.writeMem 0x2000 ((natBytes 4 (encode (.tdget 1 0)).toNat).map fun b => (b, false))

theorem test_meets_HostEvents_sync :
    let s := tSync
    (s.carrel 1 0).issues = true ∧ (s.core 1).live = true ∧ (s.carrel 1 0).pair = true ∧ (s.core 1).twinOf.isSome = true ∧ partner s 1 0 = some (0, 0) ∧
    (match fetch { s with cur := (1, 0) } with
     | .word i t => i == .tdget 1 0 && isSync i && (t.carrel 0 0).sync[(t.carrel 1 0).synced]? == some { result := some (1, dataCap 7) } &&
         twinReady t 1 0 i { result := some (1, dataCap 7) }
     | _ => false) = true := by decide +kernel

/-- Context 1 with its partition being switched out, and out. -/
def tPart (ps : List Partition) : State :=
  { cores := [(0, { ctx := 1, bay := some tBay })], ctxs := tCtxs, mem := tTable, hub := { partitions := ps } }

theorem test_meets_HostEvents_partitions :
    (let s := tPart []
     partitionCores s 1 = [0] ∧ (s.hub.partitions.any fun q => q.ctx == 1) = false ∧
     ((partitionCores s 1).any fun c => (s.cluster (clusterOf c)).reshelve.isSome) = false) ∧
    (let s := tPart [⟨1, true, false, [], [], []⟩]
     (s.hub.partitions.any fun q => q.ctx == 1 && q.stopping) = true ∧ partitionDrained s 1 = true ∧
     partitionDrained { s with cores := [(0, { s.core 0 with stopped := true, queue := [{ eff := .marker }] })] } 1 = false) ∧
    (let q : Partition := ⟨1, false, true, [(0, { ctx := 1, bay := some tBay })], [], []⟩
     let s := { tPart [q] with cores := [] }
     s.hub.partitions.find? (fun q => q.ctx == 1) = some q ∧ coresFree s [0] = true ∧ colourFree s 1 3 = true ∧
     (restoreCore s 1 0 { ctx := 1, bay := some tBay }).isSome = true) := by decide +kernel

/-! ### Task graphs -/

/-- A record's words: kind and counts, then words 3 to 7. -/
def tWords (kind : Nat) (ws : List Word) : List Word := [BitVec.ofNat 64 kind, 0, 0] ++ ws ++ List.replicate 8 0

/-- A KERNEL record for one bay with core 16, the list at offset 192. -/
def tKernel : List Word := tWords 0 [0, 0x0000000100000000 + 192, 0, 0, 0]

/-- An image with one node (R225). -/
def tImage (ws : List Word) : List Byte :=
  natBytes 4 0x5A470001 ++ natBytes 2 1 ++ natBytes 2 0 ++ natBytes 4 200 ++ List.replicate 52 0 ++
    ws.flatMap (fun w => natBytes 8 w.toNat) ++ natBytes 8 16

/-- Graph 5 of context 1 in a live instance whose node is in a state. -/
def tGraph (ws : List Word) (n : Node) : State :=
  let g : Graph := { id := 5, ctx := 1, image := tImage ws }
  let i : Inst := { id := 0, graph := 5, queue := 0, irq := false, nodes := [{ n with words := ws }] }
  { tMem with hub := { tMem.hub with graphs := [g], insts := [i] } }

theorem test_meets_GraphEvents_hcmd :
    (∀ op ∈ [1, 2, 3, 4, 0, 5], hcmdOp (BitVec.ofNat 64 (op + 5 * 4096)) = op ∧ hcmdGraph (BitVec.ofNat 64 (op + 5 * 4096)) = 5 ∧
      hcmdNode (BitVec.ofNat 64 (op + 5 * 4096)) = 0) ∧
    (let s := tGraph tKernel { words := [], st := .done, holding := true }
     (s.hub.graph 5).isSome = true ∧ (s.hub.graph 5).map (·.unloaded) = some false ∧ (s.hub.graph 6) = none ∧
     (heldNode s (BitVec.ofNat 64 (3 + 5 * 4096))).isSome = true ∧
     heldNode (tGraph tKernel { words := [], st := .done }) (BitVec.ofNat 64 (3 + 5 * 4096)) = none ∧
     isHead s 1 false = false ∧ isHead { s with cycle := 1, hub := { s.hub with hcmds := [⟨1, false, 0⟩] } } 1 false = true ∧
     isHead { s with hub := { s.hub with hcmds := [⟨1, false, 0⟩] } } 1 false = false ∧
     isHead { s with hub := { s.hub with hcmds := [⟨3, true, 0⟩] } } 3 true = true) := by decide +kernel

/-- R232: of two writes of one cycle the host's is performed first. -/
theorem test_host_first :
    ((tNext (.registerWrite .hcmd 3) tMem).bind (tNext (.registerWrite (.bar0 0x400 8) 4))).map (fun t => t.hub.hcmds.map (·.word)) = some [4, 3] := by
  decide +kernel

/-- The image lies in memory at the address of HARG. -/
def tLoadable : State := ({ tMem with hub := { tMem.hub with harg := 0x5000, hctx := 1 } } : State).writeMem 0x5000 ((tImage tKernel).map fun b => (b, false))

theorem test_meets_GraphEvents_load :
    let s := tLoadable
    (s.hub.graph 5).isNone = true ∧ physRead s 0x5000 64 = some ((tImage tKernel).take 64) ∧ physRead s 0x5000 200 = some (tImage tKernel) ∧
    imageField ((tImage tKernel).take 64) 8 4 = 200 ∧ headerOk ((tImage tKernel).take 64) 200 = true ∧ imageOk (tImage tKernel) = true ∧
    ((List.range (imageNodes (tImage tKernel))).all fun i => !(imageNode (tImage tKernel) i).paired) = true := by decide +kernel

theorem test_meets_GraphEvents_triggers :
    (let s := tGraph tKernel { words := [], st := .ready }
     (match testTrigger s 0 8 6 with | .error r => r == 1 | _ => false) = true ∧ (match testTrigger s 0 8 5 with | .ok _ => true | _ => false) = true ∧
     (5 : Word).extractLsb' 12 52 = 0 ∧ (6 : Word).extractLsb' 12 52 = 0 ∧ s.hub.graph ((6 : Word).extractLsb' 0 12).toNat = none ∧
     (s.hub.graph ((5 : Word).extractLsb' 0 12).toNat).map (·.unloaded) = some false) ∧
    (∀ ser ∈ [true, false], let x : Trigger := { id := 1, graph := 5, irq := false, ser := ser, patches := [] }
     let s := tGraph tKernel { words := [], st := .ready }
     let u := { s with hub := { s.hub with queues := [(0, { queue := [x] })] } }
     (u.hub.tqueue 0).queue = [x] ∧ u.hub.insts.length < 64 ∧ (u.hub.graph x.graph).isSome = true ∧
     (u.hub.insts.any fun i => i.queue == 0 && i.graph == 5) = true) := by decide +kernel

/-- A KERNEL node: without a list, with a list that R228 refuses, on a lost core, on a busy core and on a free one. -/
theorem test_meets_GraphEvents_kernel :
    (readyNode (tGraph tKernel { words := [], st := .ready }) 0 0 0).isSome = true ∧
    bayList (tImage tKernel) { words := tWords 0 [0, 192, 0, 0, 0] } = none ∧
    (match bayList (tImage tKernel) { words := tKernel } with
     | some bs => let s := tGraph tKernel { words := [], st := .ready }
       let n : Node := { words := tKernel }
       bayListOk bs && decide (n.ltag ≤ 62) && decide (n.nparam ≤ 8) && n.regOff == 0 && !(shelfBad s (kernelCores bs n)) && coresFree s (kernelCores bs n) &&
       !(earlierKernel s n) && earlierKernel s { n with readyAt := 1 } && shelfBad { s with clusters := [(1, { shelf := some (-1) })] } (kernelCores bs n) &&
       !(coresFree { s with cores := [(16, { ctx := 1, bay := some tBay })] } (kernelCores bs n))
     | none => false) = true ∧
    bayListOk [bayEnt 0x1000] = false := by decide +kernel

theorem test_meets_GraphEvents_finish :
    let l : Launch := { id := 0, inst := 0, node := 0, ctx := 1, cores := [0], twins := [] }
    let s := { tMem with hub := { launches := [l] } }
    s.hub.launches[0]? = some l ∧ launchIdle { s with cores := [(0, { ctx := 1, bay := some tBay })] } l = true ∧ launchAway s l = false ∧
    launchAway { s with hub := { s.hub with partitions := [⟨1, false, true, [(0, {})], [], []⟩] } } l = true ∧
    launchIdle { s with cores := [(0, { ctx := 1, bay := some tBay, queue := [{ eff := .marker }] })] } l = false := by decide +kernel

/-- A SIPH node on core 0 whose descriptor lies at 0x1080, and one whose descriptor is misaligned. -/
theorem test_meets_GraphEvents_siph :
    let ws := tWords 1 [0x1080, 0x1000, 0x1800, 0x0000010000000100, 0]
    let bad := tWords 1 [0x1081, 0x1000, 0x1800, 0x0000010000000100, 0]
    let s := (tGraph ws { words := [], st := .ready }).writeMem 0x3080 ((tSiphDesc 2).map fun b => (b, false))
    let u := tGraph bad { words := [], st := .ready }
    (readyNode s 0 0 1).isSome = true ∧ (readyNode u 0 0 1).isSome = true ∧ (s.core 0).queue.length < queueMax ∧
    (siphNodeCmd (startNode s 0 0) 0 0 1 0 { words := ws }).isSome = true ∧ siphNodeCmd (startNode u 0 0) 0 0 1 0 { words := bad } = none := by
  decide +kernel

/-- A BARRIER node at the object of tBarrier, for the generations 0 and 1; a broken object; an address that is none. -/
def tBarNode (w : Nat) (st : NodeState) (addr gen : Nat) : State :=
  { tBarrier w with hub := (tGraph (tWords 2 [BitVec.ofNat 64 addr, BitVec.ofNat 64 gen, 0, 0, 0]) { words := [], st := st }).hub }

theorem test_meets_GraphEvents_barrier :
    (∀ st ∈ [NodeState.ready, .running], (match nodeAt (tBarNode tBarWord st (tScr 0x40) 0) 0 0 with
      | some (_, g, n) => n.kind == 2 && n.st == st && g.ctx == 1 && n.word 3 != 0 && n.moved == none
      | none => false) = true) ∧
    (let look := fun (w addr gen : Nat) => (nodeAt (tBarNode w .running addr gen) 0 0).map fun (_, g, n) => barLook (tBarNode w .running addr gen) g.ctx n
     look tBarWord (tScr 0x40) 0 = some .wait ∧ look tBarWord (tScr 0x40) 1 = some .moved ∧ look (tBarWord + 2 ^ 112) (tScr 0x40) 0 = some .broken ∧
     look tBarWord 0x1000 0 = some .invalid) ∧
    (let s := tBarNode tBarWord .running (tScr 0x40) 0
     coreAway s 0 = false ∧
     coreAway { s with hub := { s.hub with partitions := [⟨1, false, true, [(0, {})], [], []⟩] } } 0 = true) := by decide +kernel

/-- NOTIFY-HOST nodes for the vectors 15, 16, 62 and 63, with and without an address. -/
theorem test_meets_GraphEvents_notify :
    (∀ v ∈ [15, 16, 62, 63], ∀ a ∈ [0, 0x4000], let s := tGraph (tWords 3 [BitVec.ofNat 64 v, BitVec.ofNat 64 a, 0, 0, 0]) { words := [], st := .ready }
      (readyNode s 0 0 3).isSome = true ∧ (nodeAt (startNode s 0 0) 0 0).map (fun (_, _, n) => (n.kind, n.word 3, n.word 4, n.st)) = some (3, v, a, .running) ∧
      hostAllowed (startNode s 0 0) 0x4000 32 = true) ∧
    (let s := tGraph (tWords 3 [16, 0x4000, 0, 0, 0]) { words := [], st := .running }
     let q : Req := { id := 1, user := .notify 0 0, addr := 0x4000, start := 5, outside := true }
     let u := { s with reqs := [q] }
     notifyReq u 0 0 = some q ∧ u.hub.time.toNat < q.start + 1000 * u.hub.fablim.toNat ∧
     ({ u with reqs := [{ q with resp := some .error }] } : State).reqs.any (·.resp.isSome) = true) := by decide +kernel

/-- R230: a BARRIER node that names no object completes at once, and with it its instance. -/
theorem test_barrier_node :
    tAfter (.barrierNodeStart 0 0) (tGraph (tWords 2 [0, 0, 0, 0, 0]) { words := [], st := .ready }) (fun t => (t.hub.insts.length, (t.hub.tqueue 0).done)) =
      some (0, 1) := by decide +kernel

/-! ### The machine -/

theorem test_meets_DecodeEncode :
    ∀ i ∈ [Instr.add 63 62 61 true, .amo 1 63 62 .sc true .maxu, .vcvt 31 30 .f64OfF32 7 1, .send 60 1 62 4, .hintDisp 0x3FFFFF],
      i.hasWord = true ∧ i.wellFormed = true := by decide

theorem test_meets_EncodeDecode : ∀ i ∈ [Instr.add 10 10 1 false, .ret], decodeWord (encode i) = .ok i := by decide +kernel

/-- Carrel 0 at a word, its choice next; the second carrel is Free; the third stands on a granule that nothing maps. -/
def tStep (w j : Nat) : State :=
  let s := State.reset.withFetchWord 32 w
  { s with cur := (0, j),
           cores := [(0, { s.core 0 with carrels := [(0, { st := .running }), (2, { st := .running, pc := 0x100000 })] })] }

theorem test_meets_StepRunsWord :
    (∀ w ∈ [0x04A28100, 0], let s := tStep w 0
      let u := { s.modCore 0 (·.issuer s.cycle false 0) with cur := (0, 0) }
      s.agenda = [.slots 0] ∧ u.me.issues = true ∧ u.myCore.live = true ∧ u.me.gap = 0 ∧ u.me.owes = false ∧
      (match translate u 0 u.myCore.ctx u.me.pc.toNat .exec 0 with
       | (t, .ok p _) => hasDram (p * 4096) && leNat ((coherentRead t (p * 4096) 4).map (·.1.1)) == w
       | _ => false) = true) ∧
    (match decodeWord 0x04A28100, decodeWord 0 with | .ok _, .error _ => true | _, _ => false) = true ∧
    (let u := { (tStep 0 2).modCore 0 (·.issuer 0 false 2) with cur := (0, 2) }
     u.me.issues = true ∧ u.myCore.live = true ∧ u.me.gap = 0 ∧
     (match translate u 0 u.myCore.ctx u.me.pc.toNat .exec 0 with
      | (_, .fail c) => c == 0x0C1
      | _ => false) = true) := by decide +kernel

/-- The slots' choices: none, slot A's alone, slot B's alone, both; a core whose slots have chosen; events; a cycle's end. -/
theorem test_meets_StepRunsWord_slots :
    pickB { State.reset with agenda := [] } 0 = none ∧ pickA { State.reset with agenda := [] } 0 none = none ∧
    pickB (tStep 0x04A28100 0) 0 = none ∧ pickA (tStep 0x04A28100 0) 0 none = some 0 ∧
    (let w := (encode (.vadd 1 2 3 0 .e8)).toNat
     let two := fun (s : State) => (pickB s 0, match slotIssue (s.modCore 0 fun k => { k with slotted := true }) 0 0 true with
       | .next x => pickA x 0 (some 0)
       | _ => none)
     two (State.reset.withFetchWord 32 w) = (some 0, none) ∧ two (tStep w 0) = (some 0, some 2)) ∧
    (((State.reset.withFetchWord 32 0).core 0).slotted = false) ∧
    (((State.reset.withFetchWord 32 0).modCore 0 fun k => { k with slotted := true }).core 0).slotted = true ∧
    Instr.timeTick.isEvent = true ∧ (Instr.add 1 1 1 false).isEvent = false ∧
    (State.reset.cores.all fun (_, k) => k.slotted) = true ∧ State.reset.agenda = [] := by decide +kernel

/-- R328 and R70: a step runs ADD c10, c10, c1 and goes on at the next word. -/
theorem test_step :
    (match step (State.reset.withFetchWord 32 0x04A28100) with
     | .next t => t.me.pc == 4 && t.agenda == []
     | _ => false) = true := by decide +kernel

theorem test_meets_StepKeepsMemory :
    memWf State.reset.mem = true ∧ memWf (State.reset.withFetchWord 32 0x04A28100).mem = true ∧
    (match step (State.reset.withFetchWord 32 0x04A28100) with | .next _ => true | _ => false) = true := by decide +kernel

/-- With an empty agenda a cycle passes. -/
theorem test_tick : (match step State.reset with | .next t => t.cycle == 1 | _ => false) = true := by decide +kernel


end Sys2Proof.Tests
end

namespace Sys2Proof.Proofs

open Sys2Proof Sys2Proof.Machine

/-! ### What reset leaves: the parts that nothing has touched

A part of the module that no map lists is at its default, so each part of the reset state is one. -/

@[simp] theorem core_reset (c : Nat) : State.reset.core c = {} := rfl
@[simp] theorem carrel_reset (c i : Nat) : State.reset.carrel c i = {} := rfl
@[simp] theorem cluster_reset (k : Nat) : State.reset.cluster k = {} := rfl
@[simp] theorem die_reset (d : Nat) : State.reset.die d = {} := rfl

/-- Log entry 2: nothing has written the memory yet, so each byte is the empty one, untagged. -/
theorem memByte_reset (a : Nat) : State.reset.memByte a = (0, false) := rfl

/-- Log entry 3: a register that nothing has written is untagged zero, whether it is a plain one or one of the window that
starts out absent. -/
theorem read_fresh {c : Carrel} (hregs : c.regs = []) (r : Reg) : c.read r = {} := by
  by_cases hr : r = 0
  · rw [hr, read_zero]
  · have hcreg : c.creg r = cregInit r := by rw [Carrel.creg, hregs]; rfl
    rw [read_of_ne c hr, hcreg]; rfl

/-! ### The shelf map of a cluster that nobody has written (R293) -/

/-- Field `i` of the five-bit fields of a fresh shelf map names physical core `i`. -/
theorem bitsAt_shelfOf_slot {k : Cluster} (hk : k.shelf = none) {i : Nat} (hi : i < 16) :
    bitsAt (shelfOf k) (5 * i) 5 = i := by
  have hfields : ∀ j < 16, bitsAt (shelfOf {}) (5 * j) 5 = j := by decide
  have hmap : shelfOf k = shelfOf {} := by rw [shelfOf, hk]; rfl
  rw [hmap]; exact hfields i hi

/-- The spare field of a fresh shelf map names physical core 16. -/
theorem bitsAt_shelfOf_spare {k : Cluster} (hk : k.shelf = none) : bitsAt (shelfOf k) 80 5 = 16 := by
  rw [shelfOf, hk]; decide

theorem spareOf_fresh {s : State} {k : Nat} (hk : (s.cluster k).shelf = none) : spareOf s k = 16 :=
  bitsAt_shelfOf_spare hk

/-- Slot `i` of a cluster with a fresh shelf map stands on physical core `i`. -/
theorem physOf_fresh {s : State} {k i : Nat} (hk : (s.cluster k).shelf = none) (hi : i < 16) :
    physOf s (16 * k + i) = i := by
  have hcluster : clusterOf (16 * k + i) = k := by simp only [clusterOf]; omega
  have hslot : slotOf (16 * k + i) = i := by simp only [slotOf]; omega
  rw [physOf, hcluster, hslot]; exact bitsAt_shelfOf_slot hk hi

/-! ### A step in which only the cycle passes -/

/-- With no flit under way no router has anything to send on. -/
theorem routeAll_of_no_flits {s : State} (hflits : s.flits = []) : routeAll s = s := by
  rw [routeAll, hflits]; rfl

/-- With no flit and no touched cluster the torus has nothing to make ready for the next cycle. -/
theorem routersFree_of_untouched {s : State} (hflits : s.flits = []) (hclusters : s.clusters = []) :
    routersFree s = s := by
  rw [routersFree, hflits, hclusters, List.map_nil, List.map_nil, ← hflits, ← hclusters]

/-- A cycle passes for a module in which no core has been touched: no slot has a choice to make. -/
theorem cyclePasses_of_no_cores {s : State} (hcores : s.cores = []) :
    cyclePasses s = .next (tick (routersFree (routeAll s))) := by
  rw [cyclePasses, hcores]; rfl

theorem step_of_untouched {s : State} (hagenda : s.agenda = []) (hcores : s.cores = []) (hflits : s.flits = [])
    (hclusters : s.clusters = []) : step s = .next (tick s) := by
  have hcycle : step s = cyclePasses s := by rw [step, hagenda]
  rw [hcycle, cyclePasses_of_no_cores hcores, routeAll_of_no_flits hflits, routersFree_of_untouched hflits hclusters]

/-- Settles O59: each part of the reset state is at its default, and the lemmas on untouched parts say what that reads as. -/
theorem resetState : Obligations.ResetState := by
  unfold Obligations.ResetState
  refine ⟨reset_memOk, rfl, rfl, rfl, rfl, memByte_reset, fun c i => ?cores, fun k => ?clusters, fun d => ?dies,
    step_of_untouched rfl rfl rfl rfl⟩
  case cores =>
    rw [core_reset, carrel_reset]
    exact ⟨rfl, rfl, rfl, rfl, rfl, rfl, rfl, rfl, read_fresh rfl⟩
  case clusters =>
    have hshelf : (State.reset.cluster k).shelf = none := by rw [cluster_reset]
    exact ⟨by rw [cluster_reset], spareOf_fresh hshelf, fun i hi => physOf_fresh hshelf hi⟩
  case dies =>
    rw [die_reset]
    exact ⟨rfl, rfl⟩

end Sys2Proof.Proofs

namespace Sys2Proof.Proofs

open Sys2Proof Sys2Proof.Machine

/-! ### The two ends of a word that asks for something: its data result, or a cause of its own -/

/-- A word whose operation leaves the data result `r` in `d` gives `r`. -/
theorem givesData_of_done {i : Instr} {d : Reg} {cs : List Reg} {s : State} {r : Word} {body : State → List TCap → WordRes}
    (hexec : exec i s = runWord i { cs := cs, dc := some d } s body) (hplain : isSync i = false)
    (hbody : body s (readSources s.me cs) = .done (s.putData d r)) : GivesData i d cs s r := by
  intro hissue hready htakes
  have hdest : ∀ d', some d = some d' → destGate s d' ((WordRes.done (s.putData d r)).element s d') = .go := by
    rintro _ ⟨⟩
    exact destGate_put s d (dataCap r) (by simpa [dataCap, TCap.data] using htakes)
  rw [hexec, runWord_done hissue hready hbody hdest, recordSync_plain hplain]

/-- What a word with ready sources comes to when its operation raises a cause that R121 puts before the check of the result's
stream element. -/
theorem runOps_trap {o : OpSpec} {s : State} {body : State → List TCap → WordRes} {c : Nat} {v : Word}
    (hready : sourcesReady o s = true) (hsends : o.sends = false) (hbody : body s (readSources s.me o.cs) = .trap c v)
    (hrank : causeRank c < 4) : runOps o s body = .trap c v := by
  simp only [sourcesReady, Bool.and_eq_true, Bool.not_eq_true', beq_iff_eq] at hready
  obtain ⟨hgate, hecc⟩ := hready
  have hown : ∀ dest, ownCauses o s .go (.trap c v) dest = [none, some (.trap c v), none] := fun dest => by
    simp [ownCauses, hsends, WordRes.rank, hrank, Gate.cause]
  simp [runOps, hgate, hecc, hbody, hown, firstCause, WordRes.rank]

/-- A word whose operation raises such a cause traps with it. -/
theorem runWord_trap {i : Instr} {o : OpSpec} {s : State} {body : State → List TCap → WordRes} {c : Nat} {v : Word}
    (hissue : issuable i s = true) (hready : sourcesReady o s = true) (hsends : o.sends = false) (hplain : isSync i = false)
    (hbody : body s (readSources s.me o.cs) = .trap c v) (hrank : causeRank c < 4) (hsettled : s.me.settled = true) :
    runWord i o s body = .next (takeTrap s s.cur.1 s.cur.2 c v) := by
  simp only [issuable, Bool.and_eq_true, Bool.not_eq_true', Option.isNone_iff_eq_none] at hissue
  obtain ⟨⟨hissues, hclass⟩, -⟩ := hissue
  have hres : wordRes i o s body = .trap c v := by rw [wordRes, hclass]; exact runOps_trap hready hsends hbody hrank
  simp [runWord, hissues, hplain, hres, complete, recordSync_plain, raise, hsettled, trapMe]

/-! ### Fields of a word -/

/-- A field of a register value, taken as bits or as a number. -/
theorem toNat_extractLsb'_eq_bitsAt (v : Word) (lo n : Nat) : (v.extractLsb' lo n).toNat = bitsAt v.toNat lo n := by
  rw [BitVec.extractLsb'_toNat, Nat.shiftRight_eq_div_pow, bitsAt]

/-- Concatenation places the high part above the low one. -/
theorem toNat_append_eq_add {m n : Nat} (x : BitVec m) (y : BitVec n) : (x ++ y).toNat = x.toNat * 2 ^ n + y.toNat := by
  rw [BitVec.toNat_append, ← Nat.shiftLeft_add_eq_or_of_lt y.isLt, Nat.shiftLeft_eq]

/-! ### LOCQ (R295 to R297) -/

/-- Word `v` names core `v[11:0]` as a destination of this module that lies in an open bay of the context (R54, R295). -/
def namesOpenCore (s : State) (v : Word) : Prop :=
  v.extractLsb' 28 36 = 0 ∧ v.extractLsb' 12 4 = 0 ∧ s.isOwnDev (v.extractLsb' 16 12).toNat = true ∧
    inOpenBay s s.myCore.ctx (v.extractLsb' 0 12).toNat = true

/-- The same in the fields by which the model checks a destination. -/
theorem namesOpenCore_iff (s : State) (v : Word) : namesOpenCore s v ↔
    bitsAt v.toNat 28 36 = 0 ∧ bitsAt v.toNat 12 4 = 0 ∧ s.isOwnDev (destDev v.toNat) = true ∧
      inOpenBay s s.myCore.ctx (destCore v.toNat) = true := by
  simp only [namesOpenCore, ← BitVec.toNat_inj, toNat_extractLsb'_eq_bitsAt, destDev, destCore, BitVec.ofNat_eq_ofNat,
    BitVec.toNat_zero]

theorem locqTarget_zero (s : State) (v : Word) : locqTarget s 0 v = some s.cur.1 := if_pos rfl

theorem locqTarget_of_named {s : State} {a : Reg} {v : Word} (ha : a ≠ 0) (hnamed : namesOpenCore s v) :
    locqTarget s a v = some (v.extractLsb' 0 12).toNat := by
  obtain ⟨hhigh, hreserved, hdev, hbay⟩ := (namesOpenCore_iff s v).1 hnamed
  have hcore : (v.extractLsb' 0 12).toNat = destCore v.toNat := toNat_extractLsb'_eq_bitsAt v 0 12
  rw [locqTarget, if_neg ha, hcore]
  simp [hhigh, hreserved, hdev, hbay]

theorem locqTarget_of_not_named {s : State} {a : Reg} {v : Word} (ha : a ≠ 0) (hnot : ¬namesOpenCore s v) :
    locqTarget s a v = none := by
  rw [namesOpenCore_iff] at hnot
  rw [locqTarget, if_neg ha]
  refine if_pos ?_
  simpa [imp_iff_not_or, or_assoc] using hnot

/-- The fields of LOCQ.WHERE (R296). -/
theorem whereWord_eq (s : State) (c : Nat) : whereWord s c =
    s.hub.epoch ++ BitVec.ofBool (unbacked s c) ++ (0 : BitVec 7) ++ BitVec.ofNat 4 (torusY (c / 16)) ++
      BitVec.ofNat 4 (torusX (c / 16)) ++ BitVec.ofNat 2 (c / 1024) ++ BitVec.ofNat 3 (c / 16 % 64 / 8) ++
      BitVec.ofNat 3 (c / 16 % 8) ++ (0 : BitVec 3) ++ (if unbacked s c then 0x1F else BitVec.ofNat 5 (physOf s c)) := by
  have hphys : (if unbacked s c then 0x1F#5 else BitVec.ofNat 5 (physOf s c)).toNat =
      if unbacked s c then 0x1F else physOf s c % 32 := by split <;> simp
  have hdie : c / 16 / 64 = c / 1024 := Nat.div_div_eq_div_mul c 16 64
  have hepoch := s.hub.epoch.isLt
  have hlost := Bool.toNat_lt (unbacked s c)
  have hpslot : (if unbacked s c then 0x1F else physOf s c % 32) < 32 := by split <;> omega
  refine BitVec.eq_of_toNat_eq ?_
  simp only [whereWord, clusterOf, toNat_append_eq_add, BitVec.ofNat_eq_ofNat, hphys, hdie, BitVec.toNat_ofNat,
    BitVec.toNat_ofBool]
  generalize (if unbacked s c then 0x1F else physOf s c % 32) = pslot at hpslot
  omega

/-- The fields of LOCQ.EPOCH (R297). -/
theorem epochWord_eq (moved : Bool) (epoch : BitVec 32) :
    BitVec.ofNat 64 (moved.toNat * 2 ^ 32 + epoch.toNat) = (0 : BitVec 31) ++ BitVec.ofBool moved ++ epoch := by
  have hepoch := epoch.isLt
  have hmoved := Bool.toNat_lt moved
  refine BitVec.eq_of_toNat_eq ?_
  simp only [toNat_append_eq_add, BitVec.ofNat_eq_ofNat, BitVec.toNat_ofNat,
    BitVec.toNat_ofBool]
  omega

theorem locqEpoch_gives (s : State) (d : Reg) :
    GivesData (.locqEpoch d) d [] s ((0 : BitVec 31) ++ BitVec.ofBool s.me.moved ++ s.hub.epoch) := by
  rw [← epochWord_eq]
  exact givesData_of_done rfl rfl rfl

/-- LOCQ.WHERE on a destination that passes its checks gives the place of the core. -/
theorem locqWhere_gives {s : State} {d a : Reg} {c : Nat} (htarget : locqTarget s a (operand s [a] 0) = some c) :
    GivesData (.locqWhere d a) d [a] s (whereWord s c) := by
  refine givesData_of_done (show exec (.locqWhere d a) s = execLocqWhere d a s from rfl) rfl ?_
  rw [operand] at htarget
  rw [htarget]

/-- LOCQ.WHERE and LOCQ.HOPS turn a destination away that fails its checks (R295). -/
theorem locq_traps {s : State} {d a : Reg} {i : Instr} (hi : i = .locqWhere d a ∨ i = .locqHops d a)
    (htarget : locqTarget s a (operand s [a] 0) = none) (hissue : issuable i s = true)
    (hready : sourcesReady { cs := [a], dc := some d } s = true) : Traps i s 0x242 (operand s [a] 0) := by
  have hrank : causeRank 0x242 < 4 := by decide
  intro hsettled
  rw [operand] at htarget
  obtain rfl | rfl := hi
  · refine (show exec (.locqWhere d a) s = execLocqWhere d a s from rfl).trans ?_
    exact runWord_trap hissue hready rfl rfl (by rw [htarget]; rfl) hrank hsettled
  · refine (show exec (.locqHops d a) s = execLocqHops d a s from rfl).trans ?_
    exact runWord_trap hissue hready rfl rfl (by rw [htarget]; rfl) hrank hsettled

/-- Settles O24: the checks of R295 choose between the place of a core and the trap, and the fields of the two results are those
of R296 and R297. -/
theorem locqPlaces : Obligations.LocqPlaces := by
  unfold Obligations.LocqPlaces
  intro s d a
  refine ⟨locqEpoch_gives s d, fun hcore _ => ?place, fun ha hnot i hi hissue hready => ?away⟩
  case place =>
    rw [← whereWord_eq]
    refine locqWhere_gives ?_
    by_cases ha : a = 0
    · rw [ha, locqTarget_zero, if_pos rfl]
    · rw [if_neg ha]
      exact locqTarget_of_named ha (hcore.resolve_left ha)
  case away => exact locq_traps hi (locqTarget_of_not_named ha hnot) hissue hready

end Sys2Proof.Proofs

namespace Sys2Proof.Proofs

open Sys2Proof Sys2Proof.Machine

/-! ### What system registers hold, in their fields (R46, R67, R68, R256) -/

theorem statusWord_eq (k : Core) (c : Carrel) (i : Nat) : statusWord k c i =
    (0 : BitVec 52) ++ BitVec.ofNat 2 c.rply ++ BitVec.ofBool c.pair ++ BitVec.ofBool c.nr ++ BitVec.ofNat 3 i ++
      BitVec.ofBool k.pol ++ c.plv ++ c.lv := by
  have hpair := Bool.toNat_lt c.pair
  have hnr := Bool.toNat_lt c.nr
  have hpol := Bool.toNat_lt k.pol
  have hplv := c.plv.isLt
  have hlv := c.lv.isLt
  refine BitVec.eq_of_toNat_eq ?_
  simp only [statusWord, toNat_append_eq_add, BitVec.ofNat_eq_ofNat, BitVec.toNat_ofNat, BitVec.toNat_ofBool]
  omega

theorem coordWord_of_bay {k : Core} {b : Bay} (hbay : k.bay = some b) : coordWord k =
    (0 : BitVec 14) ++ BitVec.ofNat 2 (b.nwing - 1) ++ (0 : BitVec 2) ++ BitVec.ofNat 6 (b.nbay - 1) ++
      (0 : BitVec 4) ++ BitVec.ofNat 4 (b.bayn - 1) ++ (0 : BitVec 8) ++ BitVec.ofNat 4 b.stage ++ (0 : BitVec 2) ++
      BitVec.ofNat 2 b.wing ++ (0 : BitVec 2) ++ BitVec.ofNat 6 b.bay ++ (0 : BitVec 4) ++ BitVec.ofNat 4 b.cib := by
  refine BitVec.eq_of_toNat_eq ?_
  simp only [coordWord, hbay, toNat_append_eq_add, BitVec.ofNat_eq_ofNat, BitVec.toNat_ofNat]
  omega

theorem twinWord_eq (s : State) (c : Nat) : twinWord s c =
    (0 : BitVec 15) ++ BitVec.ofNat 4 (allotOf s c).aln ++ BitVec.ofNat 3 (allotOf s c).alb ++ (0 : BitVec 1) ++
      BitVec.ofNat 5 (allotOf s c).tln ++ BitVec.ofNat 4 (allotOf s c).tlb ++ (0 : BitVec 9) ++
      BitVec.ofNat 4 (s.core c).cregs.acnt ++ BitVec.ofNat 3 (s.core c).cregs.abase ++ (0 : BitVec 7) ++
      BitVec.ofNat 5 (s.core c).cregs.tcnt ++ BitVec.ofNat 4 (s.core c).cregs.tbase := by
  refine BitVec.eq_of_toNat_eq ?_
  simp only [twinWord, toNat_append_eq_add, BitVec.ofNat_eq_ofNat, BitVec.toNat_ofNat]
  omega

theorem ctxidWord_eq (colour ctx : Nat) : BitVec.ofNat 64 (colour % 256 * 2 ^ 16 + ctx % 65536) =
    (0 : BitVec 40) ++ BitVec.ofNat 8 colour ++ BitVec.ofNat 16 ctx := by
  refine BitVec.eq_of_toNat_eq ?_
  simp only [toNat_append_eq_add, BitVec.ofNat_eq_ofNat, BitVec.toNat_ofNat]
  omega

/-- STATUS with another POL differs in bit 4 alone (R68). -/
theorem statusWord_pol (k : Core) (c : Carrel) (i : Nat) (p : Bool) : statusWord { k with pol := p } c i =
    (statusWord k c i).extractLsb' 5 59 ++ BitVec.ofBool p ++ (statusWord k c i).extractLsb' 0 4 := by
  have hp := Bool.toNat_lt p
  have hpol := Bool.toNat_lt k.pol
  have hplv := c.plv.isLt
  have hlv := c.lv.isLt
  have hpair := Bool.toNat_lt c.pair
  have hnr := Bool.toNat_lt c.nr
  refine BitVec.eq_of_toNat_eq ?_
  simp only [statusWord, toNat_append_eq_add, BitVec.toNat_ofNat, BitVec.toNat_ofBool, toNat_extractLsb'_eq_bitsAt, bitsAt]
  omega

theorem sysNow_eq_sysHolds (s : State) (n : SysReg) : sysNow s s.cur.1 s.cur.2 n = sysHolds s n := by
  cases n with
  | status => exact statusWord_eq ..
  | ctxid => exact ctxidWord_eq ..
  | twin => exact twinWord_eq ..
  | coord =>
    have hnow : sysNow s s.cur.1 s.cur.2 .coord = coordWord s.myCore := rfl
    cases hbay : s.myCore.bay with
    | none => simp only [hnow, coordWord, sysHolds, hbay]
    | some b => rw [hnow, coordWord_of_bay hbay]; simp only [sysHolds, hbay]
  | _ => rfl

/-- A carrel reads what a register holds unless another carrel of the core has written it in this cycle (R397). -/
theorem sysRead_of_unwritten {s : State} {n : SysReg} (h : unwritten s n) : sysRead s s.cur.1 s.cur.2 n = sysHolds s n := by
  have hold : ∀ p, fget (s.core s.cur.1).sysOld n.code = some p → p.1 = s.cur.2 := fun p hp => h p.1 p.2 hp
  rw [← sysNow_eq_sysHolds, sysRead]
  split
  · rfl
  · next j w hp => rw [if_pos (hold _ hp)]

/-- Of a register that another carrel has written in this cycle the old value is read, of STATUS that of POL (R68, R397). -/
theorem sysRead_of_written {s : State} {n : SysReg} {j : Nat} {w : Word} (hw : fget s.myCore.sysOld n.code = some (j, w))
    (hj : j ≠ s.cur.2) : sysRead s s.cur.1 s.cur.2 n = if n = .status
      then (sysHolds s n).extractLsb' 5 59 ++ BitVec.ofBool (w.getLsbD 4) ++ (sysHolds s n).extractLsb' 0 4 else w := by
  rw [State.myCore] at hw
  rw [sysRead, hw]
  dsimp only
  rw [if_neg hj]
  split
  · next hn => subst hn; rw [← sysNow_eq_sysHolds, statusWord_pol]; rfl
  · rfl

/-! ### The writes of system registers (R68, R397) -/

theorem sysNote_of_shared {s : State} {n : SysReg} (h : sysShared n = true) (t : State) :
    sysNote s s.cur.1 s.cur.2 n t = sharedWrite s n t := by
  rw [sysNote, h, sharedWrite, ← sysNow_eq_sysHolds]; rfl

theorem sysNote_of_own {s : State} {n : SysReg} (h : sysShared n = false) (t : State) : sysNote s s.cur.1 s.cur.2 n t = t := by
  rw [sysNote, h]; rfl

/-- A word address of 48 bits: its two low bits are cleared (R6, R118). -/
theorem wordAddress_eq (w : Word) : (w &&& 0x0000FFFFFFFFFFFC).setWidth 48 = w.extractLsb' 2 46 ++ (0 : BitVec 2) := by
  have hmask : ∀ i < 48, (0x0000FFFFFFFFFFFC : Word).getLsbD i = decide (2 ≤ i) := by decide
  refine BitVec.eq_of_getLsbD_eq fun i hi => ?_
  simp only [BitVec.getLsbD_setWidth, BitVec.getLsbD_and, hmask i hi, BitVec.getLsbD_append, BitVec.getLsbD_extractLsb', hi]
  by_cases h2 : i < 2
  · simp [h2]
  · have hin : i - 2 < 46 := by omega
    simp [h2, Nat.add_sub_cancel' (Nat.not_lt.1 h2), hin, Nat.not_lt.1 h2]

theorem limitBits_eq (w : Word) : w &&& limitBits = (w.extractLsb' 0 40).setWidth 64 := by
  have hmask : ∀ i < 64, limitBits.getLsbD i = decide (i < 40) := by decide
  refine BitVec.eq_of_getLsbD_eq fun i hi => ?_
  simp only [BitVec.getLsbD_and, BitVec.getLsbD_setWidth, BitVec.getLsbD_extractLsb', hmask i hi, hi, decide_true, Bool.true_and,
    Nat.zero_add, Bool.and_comm]

/-- SYSW completes with its register written (R69). -/
theorem sysw_completes {s : State} {a : Reg} {n : SysReg} (hissue : issuable (.sysw a n) s = true)
    (hready : sourcesReady { cs := [a] } s = true) (hsettled : s.me.settled = true) : exec (.sysw a n) s =
      .next (finished (.sysw a n) { cs := [a] } s (sysWrite s s.cur.1 s.cur.2 n (operand s [a] 0))) := by
  refine (show exec (.sysw a n) s = execSysw a n s from rfl).trans ?_
  exact runWord_done hissue hready (by simp only [afterLoads, hsettled]; rfl) (fun _ h => nomatch h)

/-- Settles O20: a read gives what a register holds, in the layouts above, or what it held before another carrel's write of the
cycle; a write is SYSW's completion with the writable fields of the register replaced, noted where the carrels share it. -/
theorem systemRegisters : Obligations.SystemRegisters := by
  unfold Obligations.SystemRegisters
  refine ⟨fun s d n _ => ⟨fun h => ?fresh, fun j w hw hj => ?old⟩, ?write⟩
  case fresh =>
    rw [← sysRead_of_unwritten h]
    exact givesData_of_done rfl rfl rfl
  case old =>
    rw [← sysRead_of_written hw hj]
    exact givesData_of_done rfl rfl rfl
  case write =>
    intro s a n w c x cregs o i hwritable hissue hready hsettled
    refine (sysw_completes hissue hready hsettled).trans ?_
    refine congrArg (fun t => Host.Outcome.next (finished i o s t)) ?_
    cases n with
    | status => exact sysNote_of_shared (n := .status) rfl _
    | cause =>
      have hfield := BitVec.setWidth_eq_extractLsb' (x := w) (show 12 ≤ 64 by decide)
      simp only [sysWrite, sysNote_of_own (n := .cause) rfl, sysPut]; rw [← hfield]; rfl
    | epc => simp only [sysWrite, sysNote_of_own (n := .epc) rfl, sysPut, wordAddress_eq]; rfl
    | tval => exact sysNote_of_own (n := .tval) rfl _
    | tvec => simp only [sysWrite, sysNote_of_shared (n := .tvec) rfl, sysPut, wordAddress_eq]; rfl
    | deadmask => exact sysNote_of_shared (n := .deadmask) rfl _
    | fpc =>
      have hfield := BitVec.setWidth_eq_extractLsb' (x := w) (show 13 ≤ 64 by decide)
      simp only [sysWrite, sysNote_of_own (n := .fpc) rfl, sysPut]; rw [← hfield]; rfl
    | ltmo => simp only [sysWrite, sysNote_of_shared (n := .ltmo) rfl, sysPut, limitBits_eq]; rfl
    | btmo => simp only [sysWrite, sysNote_of_shared (n := .btmo) rfl, sysPut, limitBits_eq]; rfl
    | ctxid => simp only [sysWrite, sysNote_of_shared (n := .ctxid) rfl, sysPut, ← toNat_extractLsb'_eq_bitsAt]; rfl
    | deferr => exact sysNote_of_own (n := .deferr) rfl _
    | _ => simp [SysReg.writable] at hwritable

end Sys2Proof.Proofs

namespace Sys2Proof.Proofs

open Sys2Proof Sys2Proof.Machine

/-! ### The ends of a word that may send: a cause of its own, or one entry in the outbox -/

/-- What a word with ready sources comes to when its operation raises a cause that R121 puts before uncorrectable errors, whether
or not its sequence checks a destination first (R378). -/
theorem runOps_cause {o : OpSpec} {s : State} {body : State → List TCap → WordRes} {r : WordRes} {n : Nat}
    (hready : sourcesReady o s = true) (hbody : body s (readSources s.me o.cs) = r) (hcause : r.rank = some n) (hrank : n < 4) :
    runOps o s body = r := by
  simp only [sourcesReady, Bool.and_eq_true, Bool.not_eq_true', beq_iff_eq] at hready
  obtain ⟨hgate, hecc⟩ := hready
  have hown : ∀ dest, firstCause ((ownCauses o s .go r dest ++ [none]).filterMap id) = some r := fun dest => by
    have hdest : (if r.rank.any (· < 4) then none else dest.cause) = none := by simp [hcause, hrank]
    rw [ownCauses, hdest]
    split
    · split <;> simp [Gate.cause, firstCause, hcause]
    · simp [Gate.cause, firstCause, hcause]
  simp only [runOps, hgate, hecc, hbody, Bool.false_eq_true, if_false, hown]

/-- A word that issues comes to what its operation makes of its sources. -/
theorem runWord_of_issuable {i : Instr} {o : OpSpec} {s : State} {body : State → List TCap → WordRes}
    (hissue : issuable i s = true) : runWord i o s body = complete i o s (runOps o s body) := by
  simp only [issuable, Bool.and_eq_true, Bool.not_eq_true', Option.isNone_iff_eq_none] at hissue
  obtain ⟨⟨hissues, hclass⟩, htwin⟩ := hissue
  rw [runWord, hissues, htwin, wordRes, hclass]; rfl

/-- A word that is turned away before it has done more than to log a violation traps in the state with the log (R323). -/
theorem runWord_trapWith {i : Instr} {o : OpSpec} {s u : State} {body : State → List TCap → WordRes} {c : Nat} {v : Word}
    (hissue : issuable i s = true) (hready : sourcesReady o s = true) (hplain : isSync i = false)
    (hbody : body s (readSources s.me o.cs) = .trapWith u c v) (hrank : causeRank c < 4) (hsettled : s.me.settled = true) :
    runWord i o s body = .next (takeTrap u u.cur.1 u.cur.2 c v) := by
  rw [runWord_of_issuable hissue, runOps_cause hready hbody rfl hrank, complete, recordSync_plain hplain, raise, if_pos hsettled]
  rfl

/-- A word that may send, and raises a cause after its destination has passed, traps in the state as it was. -/
theorem runWord_trap_of_sends {i : Instr} {o : OpSpec} {s : State} {body : State → List TCap → WordRes} {c : Nat} {v : Word}
    (hissue : issuable i s = true) (hready : sourcesReady o s = true) (hplain : isSync i = false)
    (hbody : body s (readSources s.me o.cs) = .trap c v) (hrank : causeRank c < 4) (hsettled : s.me.settled = true) :
    runWord i o s body = .next (takeTrap s s.cur.1 s.cur.2 c v) := by
  rw [runWord_of_issuable hissue, runOps_cause hready hbody rfl hrank, complete, recordSync_plain hplain, raise, if_pos hsettled]
  rfl

/-- An outbox with room takes the entry, after an overflow commit where it is full (R165). -/
theorem putOut_of_hasRoom {s : State} (hroom : hasRoom s = true) (e : Entry) : putOut s [e] = .done (placed s e) := by
  by_cases hfull : s.me.outbox.length < outboxMax
  · have hfits : s.me.outbox.length + 1 ≤ outboxMax := hfull
    simp [putOut, placed, hfits, hfull]
  · have hfits : ¬ s.me.outbox.length + 1 ≤ outboxMax := hfull
    simp only [hasRoom, hfull, decide_false, Bool.false_or, Bool.and_eq_true, commits, Bool.not_eq_true'] at hroom
    obtain ⟨⟨⟨hdrain, hecc⟩, hcompare⟩, -⟩ := hroom
    simp [putOut, placed, hfits, hfull, tryCommit, hdrain, hecc, hcompare]

/-- A word whose operation is to place one entry completes with the entry placed. -/
theorem runWord_placed {i : Instr} {o : OpSpec} {s : State} {body : State → List TCap → WordRes} {e : Entry}
    (hissue : issuable i s = true) (hready : sourcesReady o s = true) (hplain : isSync i = false) (hdest : o.dc = none)
    (hroom : hasRoom s = true) (hbody : body s (readSources s.me o.cs) = putOut s [e]) :
    runWord i o s body = .next (completed (placed s e) o.cs) := by
  rw [runWord_done hissue hready (hbody.trans (putOut_of_hasRoom hroom e)) (by simp [hdest]), recordSync_plain hplain]

/-! ### The destination of SEND and RPUT (R54, R378) -/

/-- The reserved bits of a destination are clear and its tag is not the one of notices (R54, R28). -/
def plainDest (v : Word) (tag : Nat) : Prop := v.extractLsb' 28 36 = 0 ∧ v.extractLsb' 12 4 = 0 ∧ tag ≠ 63

theorem plainDest_iff (v : Word) (tag : Nat) : plainDest v tag ↔
    ¬ (bitsAt v.toNat 32 32 ≠ 0 ∨ bitsAt v.toNat 28 4 ≠ 0 ∨ bitsAt v.toNat 12 4 ≠ 0 ∨ tag = 63) := by
  simp only [plainDest, ← BitVec.toNat_inj, toNat_extractLsb'_eq_bitsAt, bitsAt, BitVec.ofNat_eq_ofNat, BitVec.toNat_zero]
  omega

theorem destDev_eq (v : Word) : destDev v.toNat = (v.extractLsb' 16 12).toNat := (toNat_extractLsb'_eq_bitsAt ..).symm
theorem destCore_eq (v : Word) : destCore v.toNat = (v.extractLsb' 0 12).toNat := (toNat_extractLsb'_eq_bitsAt ..).symm

/-- The checks of a destination in the order of R378. -/
theorem checkDest_of_not_plain {v : Word} {tag : Nat} (h : ¬ plainDest v tag) (s : State) :
    checkDest s v tag = .error (s, 0x242, v) := by
  rw [plainDest_iff, not_not] at h
  simp only [checkDest, Bool.or_eq_true, decide_eq_true_eq, or_assoc]
  exact if_pos h

theorem checkDest_of_plain {v : Word} {tag : Nat} (h : plainDest v tag) (s : State) : checkDest s v tag =
    if s.isOwnDev (v.extractLsb' 16 12).toNat then
      if !(inOpenBay s s.myCore.ctx (v.extractLsb' 0 12).toNat) then .error (s, 0x242, v) else
      if unbacked s (v.extractLsb' 0 12).toNat then .error (s, 0x301, BitVec.ofNat 64 (v.extractLsb' 0 12).toNat) else .ok ()
    else if !(devAllowed s (v.extractLsb' 16 12).toNat) then .error (egCore s s.myCore.ctx s.cur.1 true v.toNat, 0x384, v)
    else .ok () := by
  rw [plainDest_iff] at h
  rw [checkDest, ← destDev_eq, ← destCore_eq]
  simp only [Bool.or_eq_true, decide_eq_true_eq, or_assoc]
  exact if_neg h

theorem checkDest_of_goodDest {s : State} {v : Word} {tag : Nat} (h : goodDest s v tag = true) : checkDest s v tag = .ok () := by
  simp only [goodDest, Bool.and_eq_true, beq_iff_eq, bne_iff_ne] at h
  obtain ⟨⟨⟨hhigh, hreserved⟩, htag⟩, hdest⟩ := h
  rw [checkDest_of_plain ⟨hhigh, hreserved, htag⟩]
  split at hdest
  · next hown =>
    simp only [Bool.and_eq_true, Bool.not_eq_true'] at hdest
    obtain ⟨hbay, hbacked⟩ := hdest
    rw [if_pos hown, hbay, hbacked]; rfl
  · next hown => rw [if_neg hown, hdest]; rfl

/-- The violation that is logged is counted, and no core changes (R324). -/
theorem egCore_hub_egcnt (s : State) (ctx core : Nat) (typ : Bool) (addr : Nat) :
    (egCore s ctx core typ addr).hub.egcnt = s.hub.egcnt + 1 := by
  rw [egCore]; split <;> rfl

theorem egCore_cores (s : State) (ctx core : Nat) (typ : Bool) (addr : Nat) : (egCore s ctx core typ addr).cores = s.cores := by
  rw [egCore]; split <;> rfl

/-- What R378 asks of a word that sends to destination `v`: the refusals, in their order. -/
def RefusesDest (i : Instr) (s : State) (v : Word) (t : BitVec 6) : Prop :=
  (v.extractLsb' 28 36 ≠ 0 ∨ v.extractLsb' 12 4 ≠ 0 ∨ t = 63 → Traps i s 0x242 v) ∧
  (v.extractLsb' 28 36 = 0 → v.extractLsb' 12 4 = 0 → t ≠ 63 →
    (s.isOwnDev (v.extractLsb' 16 12).toNat = true → inOpenBay s s.myCore.ctx (v.extractLsb' 0 12).toNat = false →
      Traps i s 0x242 v) ∧
    (s.isOwnDev (v.extractLsb' 16 12).toNat = true → inOpenBay s s.myCore.ctx (v.extractLsb' 0 12).toNat = true →
      unbacked s (v.extractLsb' 0 12).toNat = true → Traps i s 0x301 (BitVec.ofNat 64 (v.extractLsb' 0 12).toNat)) ∧
    (s.isOwnDev (v.extractLsb' 16 12).toNat = false → devAllowed s (v.extractLsb' 16 12).toNat = false → s.me.settled = true →
      ∃ u, exec i s = .next (takeTrap u u.cur.1 u.cur.2 0x384 v) ∧ u.hub.egcnt = s.hub.egcnt + 1 ∧ u.cores = s.cores))

theorem plainDest_toNat {v : Word} {t : BitVec 6} :
    plainDest v t.toNat ↔ v.extractLsb' 28 36 = 0 ∧ v.extractLsb' 12 4 = 0 ∧ t ≠ 63 := by
  rw [plainDest, ne_eq t, ← BitVec.toNat_inj (x := t)]; rfl

/-- The operation of a word that sends: the causes of its destination, then `k`. -/
def afterDest (s : State) (v : Word) (tag : Nat) (k : WordRes) : WordRes :=
  match checkDest s v tag with
  | .error (u, c, x) => .trapWith u c x
  | .ok _ => k

theorem afterDest_of_error {s u : State} {v x : Word} {tag c : Nat} (h : checkDest s v tag = .error (u, c, x)) (k : WordRes) :
    afterDest s v tag k = .trapWith u c x := by rw [afterDest, h]

theorem afterDest_of_goodDest {s : State} {v : Word} {tag : Nat} (h : goodDest s v tag = true) (k : WordRes) :
    afterDest s v tag k = k := by rw [afterDest, checkDest_of_goodDest h]

/-- A word that begins by checking its destination is turned away as the check says. -/
theorem refusesDest_of_afterDest {i : Instr} {o : OpSpec} {s : State} {v : Word} {t : BitVec 6} {k : WordRes}
    {body : State → List TCap → WordRes} (hexec : exec i s = runWord i o s body) (hissue : issuable i s = true)
    (hready : sourcesReady o s = true) (hplain : isSync i = false)
    (hbody : body s (readSources s.me o.cs) = afterDest s v t.toNat k) : RefusesDest i s v t := by
  have traps : ∀ {u c x}, checkDest s v t.toNat = .error (u, c, x) → causeRank c < 4 → s.me.settled = true →
      exec i s = .next (takeTrap u u.cur.1 u.cur.2 c x) := fun hcheck hrank hsettled =>
    hexec.trans (runWord_trapWith hissue hready hplain (hbody.trans (afterDest_of_error hcheck k)) hrank hsettled)
  refine ⟨fun hbad => ?reserved, fun hhigh hreserved htag => ⟨fun hown hbay => ?closed, fun hown hbay hlost => ?lost,
    fun hpeer hfence => ?fenced⟩⟩
  case reserved =>
    have hnot : ¬ plainDest v t.toNat := by rw [plainDest_toNat]; tauto
    exact traps (checkDest_of_not_plain hnot s) (by decide)
  all_goals have hcheck := checkDest_of_plain (plainDest_toNat.2 ⟨hhigh, hreserved, htag⟩) s
  case closed => exact traps (hcheck.trans (by rw [if_pos hown, hbay]; rfl)) (by decide)
  case lost => exact traps (hcheck.trans (by rw [if_pos hown, hbay, hlost]; rfl)) (by decide)
  case fenced =>
    intro hsettled
    exact ⟨_, traps (hcheck.trans (by simp only [hpeer, hfence]; rfl)) (by decide) hsettled, egCore_hub_egcnt .., egCore_cores ..⟩

/-! ### SEND and RPUT (R377 to R379) -/

/-- The payload of SEND as captured from its sources, of which the first is the destination (R42). -/
def sendWords (vs : List TCap) : List PWord := (vs.drop 1).map payWord

/-- The entry of a word that sends: it releases at the scope of its destination (R166). -/
def sendEntry (s : State) (i : Instr) (eff : Effect) (v : Word) : Entry :=
  { mkEntry s i eff v with release := some (msgScope s v.toNat) }

/-- The operation of SEND. -/
def sendBody (d a : Reg) (t : BitVec 6) (n : BitVec 5) (s : State) (vs : List TCap) : WordRes :=
  let v := (src vs 0).data
  let ws := sendWords vs
  afterDest s v t.toNat
    (if 64 < (ws.map payBytes).sum then .trap 0x102 (BitVec.ofNat 64 (ws.map payBytes).sum)
      else putOut s [sendEntry s (.send d a t n) (.send v.toNat t.toNat ws) v])

theorem exec_send (d a : Reg) (t : BitVec 6) (n : BitVec 5) (s : State) : exec (.send d a t n) s =
    runWord (.send d a t n) { cs := a :: payRegs d n.toNat, sends := true } s (sendBody d a t n) := rfl

/-- The operation of RPUT. -/
def rputBody (d a : Reg) (t : BitVec 6) (k : BitVec 5) (s : State) (vs : List TCap) : WordRes :=
  let v := (src vs 0).data
  afterDest s v t.toNat
    (putOut s [sendEntry s (.rput d a t k) (.rput v.toNat t.toNat k.toNat (payWord (src vs 1))) v])

theorem exec_rput (d a : Reg) (t : BitVec 6) (k : BitVec 5) (s : State) : exec (.rput d a t k) s =
    runWord (.rput d a t k) { cs := [a, d], sends := true } s (rputBody d a t k) := rfl

section
variable {s : State} {d a : Reg} {t : BitVec 6} {n k : BitVec 5}

theorem send_tooLong (hissue : issuable (.send d a t n) s = true) (hready : sourcesReady { cs := a :: payRegs d n.toNat } s = true)
    (hgood : goodDest s (operand s [a] 0) t.toNat = true)
    (hlong : 64 < ((sendWords (readSources s.me (a :: payRegs d n.toNat))).map payBytes).sum) :
    Traps (.send d a t n) s 0x102
      (BitVec.ofNat 64 ((sendWords (readSources s.me (a :: payRegs d n.toNat))).map payBytes).sum) := by
  intro hsettled
  refine (exec_send ..).trans (runWord_trap_of_sends hissue hready rfl ?_ (by decide) hsettled)
  exact (afterDest_of_goodDest hgood _).trans (if_pos hlong)

theorem send_places (hissue : issuable (.send d a t n) s = true) (hready : sourcesReady { cs := a :: payRegs d n.toNat } s = true)
    (hgood : goodDest s (operand s [a] 0) t.toNat = true)
    (hfits : ((sendWords (readSources s.me (a :: payRegs d n.toNat))).map payBytes).sum ≤ 64) (hroom : hasRoom s = true) :
    exec (.send d a t n) s = .next (completed (placed s (sendEntry s (.send d a t n)
      (.send (operand s [a] 0).toNat t.toNat (sendWords (readSources s.me (a :: payRegs d n.toNat)))) (operand s [a] 0)))
      (a :: payRegs d n.toNat)) := by
  refine (exec_send ..).trans (runWord_placed hissue hready rfl rfl hroom ?_)
  exact (afterDest_of_goodDest hgood _).trans (if_neg (Nat.not_lt.2 hfits))

theorem rput_places (hissue : issuable (.rput d a t k) s = true) (hready : sourcesReady { cs := [a, d] } s = true)
    (hgood : goodDest s (operand s [a] 0) t.toNat = true) (hroom : hasRoom s = true) :
    exec (.rput d a t k) s = .next (completed (placed s (sendEntry s (.rput d a t k)
      (.rput (operand s [a] 0).toNat t.toNat k.toNat (payWord (src (readSources s.me [a, d]) 1))) (operand s [a] 0))) [a, d]) :=
  (exec_rput ..).trans (runWord_placed hissue hready rfl rfl hroom (afterDest_of_goodDest hgood _))

end

/-- Settles O35: SEND and RPUT begin with the same destination check, which turns them away as R378 says, and with a good
destination place one entry with the captured payload. -/
theorem sendAndRput : Obligations.SendAndRput := by
  unfold Obligations.SendAndRput
  intro s d a t n k regs v capture bytes sc dev core refused
  have hscope : msgScope s v.toNat = sc := by rw [msgScope, destDev_eq]
  have hcapture : payWord = capture := by funext x; simp only [payWord, Bool.not_eq_true', capture]
  have hbytes : payBytes = bytes := by funext p; cases p <;> rfl
  refine ⟨?send, ?rput⟩
  case send =>
    intro i ws hissue hready
    have hws : sendWords (readSources s.me (a :: regs)) = ws := by rw [sendWords, hcapture]
    rw [← hws, ← hbytes, ← hscope]
    exact ⟨refusesDest_of_afterDest (exec_send ..) hissue hready rfl rfl, send_tooLong hissue hready, send_places hissue hready⟩
  case rput =>
    intro i hissue hready
    rw [← hcapture, ← hscope]
    exact ⟨refusesDest_of_afterDest (exec_rput ..) hissue hready rfl rfl, rput_places hissue hready⟩

/-! ### TAGCTL (R381, R382) -/

theorem bitsAt_eq_zero_iff (v : Word) (lo n : Nat) : bitsAt v.toNat lo n = 0 ↔ v.extractLsb' lo n = 0 := by
  rw [← toNat_extractLsb'_eq_bitsAt, ← BitVec.toNat_inj, BitVec.ofNat_eq_ofNat, BitVec.toNat_zero]

theorem bitAt_eq_getLsbD (v : Word) (i : Nat) : bitAt v.toNat i = v.getLsbD i := by
  rw [bitAt, bitsAt, BitVec.getLsbD, Nat.testBit_eq_decide_div_mod_eq]; rfl

section
variable {s : State} {i : Instr} {cs : List Reg} {body : State → List TCap → WordRes}

/-- A TAGCTL whose operand passes places its entry. -/
theorem tagctl_places {k : BitVec 6} {op : TagOp} (hexec : exec i s = runWord i { cs := cs } s body) (hplain : isSync i = false)
    (hready : issuable i s = true ∧ sourcesReady { cs := cs } s = true) (hroom : hasRoom s = true)
    (hbody : body s (readSources s.me cs) = tagctl i k op s) :
    exec i s = .next (completed (placed s (mkEntry s i (.tagctl k.toNat op) (k.setWidth 64))) cs) := by
  rw [← BitVec.ofNat_toNat]
  exact hexec.trans (runWord_placed hready.1 hready.2 hplain rfl hroom hbody)

/-- A TAGCTL whose operand does not pass traps on it. -/
theorem tagctl_traps {c : Nat} {v : Word} (hexec : exec i s = runWord i { cs := cs } s body) (hplain : isSync i = false)
    (hready : issuable i s = true ∧ sourcesReady { cs := cs } s = true)
    (hbody : body s (readSources s.me cs) = .trap c v) (hrank : causeRank c < 4) : Traps i s c v := fun hsettled =>
  hexec.trans (runWord_trap hready.1 hready.2 rfl hplain hbody hrank hsettled)

end

/-- Control word 1 in its fields (R25). -/
theorem controlWord1_eq (h : HTag) : controlWord1 h =
    BitVec.ofNat 8 h.pend ++ BitVec.ofNat 4 h.eprio ++ BitVec.ofNat 4 h.act ++ BitVec.ofNat 16 h.seq ++ (0 : BitVec 32) := by
  refine BitVec.eq_of_toNat_eq ?_
  simp only [controlWord1, toNat_append_eq_add, BitVec.ofNat_eq_ofNat, BitVec.toNat_ofNat]
  omega

theorem tagOf_laterTag (k : Core) (t u : Nat) (x : HTag) : (k.laterTag t x).tagOf u = if t = u then x else k.tagOf u :=
  fgetD_fset ..

/-- What a TAGCTL operation makes of an entry of the table (R381). -/
def TagOp.apply (x : HTag) : TagOp → HTag
  | .en => { x with en := true }
  | .dis => { x with en := false }
  | .prio p => { x with prio := p % 16, eprio := eprioOf (p % 16) x.wait }
  | .addr p => { x with haddr := p }
  | .mode p m => { x with par := p, pmax := m }
  | .gate j w => { x with gates := fset x.gates j w }
  | .cap j w => { x with caps := fset x.caps j w }

theorem applyTagctl_of_not_inst {k : Core} {t : Nat} (h : (k.tagOf t).inst = false) (op : TagOp) : applyTagctl k t op = k :=
  if_pos (by rw [h]; rfl)

theorem applyTagctl_of_inst {k : Core} {t : Nat} (h : (k.tagOf t).inst = true) (op : TagOp) :
    applyTagctl k t op = k.laterTag t (TagOp.apply (k.tagOf t) op) :=
  (if_neg (by rw [h]; decide)).trans (by cases op <;> rfl)

/-- Settles O37: each TAGCTL is a check of its operand and one outbox entry, STAT is control word 1, and the entry's effect is
`TagOp.apply` on an installed table entry. -/
theorem tagControls : Obligations.TagControls := by
  unfold Obligations.TagControls
  intro s d a k g v h places ready
  refine ⟨?en, ?dis, ?prio, ?addr, ?mode, ?gate, ?cap, ?stat, ?effect⟩
  case en => exact fun hroom hready => tagctl_places rfl rfl hready hroom rfl
  case dis => exact fun hroom hready => tagctl_places rfl rfl hready hroom rfl
  case prio =>
    refine fun hready => ⟨fun hbad => ?_, fun hgood hroom => ?_⟩
    · rw [ne_eq, ← bitsAt_eq_zero_iff] at hbad
      exact tagctl_traps rfl rfl hready (if_pos hbad) (by decide)
    · rw [← bitsAt_eq_zero_iff] at hgood
      exact tagctl_places rfl rfl hready hroom (if_neg (not_not.2 hgood))
  case addr =>
    refine fun hready => ⟨fun hodd => ?_, fun haligned hbad => ?_, fun haligned hgood hroom => ?_⟩
    · rw [ne_eq, ← bitsAt_eq_zero_iff] at hodd
      exact tagctl_traps rfl rfl hready (if_pos hodd) (by decide)
    · rw [← bitsAt_eq_zero_iff] at haligned
      rw [ne_eq, ← bitsAt_eq_zero_iff] at hbad
      exact tagctl_traps rfl rfl hready ((if_neg (not_not.2 haligned)).trans (if_pos hbad)) (by decide)
    · rw [← bitsAt_eq_zero_iff] at haligned hgood
      exact tagctl_places rfl rfl hready hroom ((if_neg (not_not.2 haligned)).trans (if_neg (not_not.2 hgood)))
  case mode =>
    refine fun hready => ⟨fun hbad => ?_, fun hgood hroom => ?_⟩
    · rw [ne_eq, ← bitsAt_eq_zero_iff] at hbad
      exact tagctl_traps rfl rfl hready (if_pos hbad) (by decide)
    · rw [← bitsAt_eq_zero_iff] at hgood
      rw [← bitAt_eq_getLsbD, toNat_extractLsb'_eq_bitsAt]
      exact tagctl_places rfl rfl hready hroom (if_neg (not_not.2 hgood))
  case gate =>
    refine fun hready => ⟨fun hbad => ?_, fun hgood hgood' hroom => ?_⟩
    · simp only [ne_eq, ← bitsAt_eq_zero_iff] at hbad
      have hreserved : (bitsAt v.toNat 56 7 ≠ 0 || bitsAt v.toNat 40 10 ≠ 0) = true := by simpa using hbad
      exact tagctl_traps rfl rfl hready (if_pos hreserved) (by decide)
    · rw [← bitsAt_eq_zero_iff] at hgood hgood'
      have hclear : ¬ (bitsAt v.toNat 56 7 ≠ 0 || bitsAt v.toNat 40 10 ≠ 0) = true := by simp [hgood, hgood']
      exact tagctl_places rfl rfl hready hroom (if_neg hclear)
  case cap => exact fun hready hroom => tagctl_places rfl rfl hready hroom rfl
  case stat =>
    rw [← controlWord1_eq]
    exact givesData_of_done rfl rfl rfl
  case effect =>
    refine fun c t op => ⟨fun hnot => applyTagctl_of_not_inst hnot op, fun hinst => ?_⟩
    rw [applyTagctl_of_inst hinst]
    refine ⟨fun u hu => (tagOf_laterTag ..).trans (if_neg (Ne.symm hu)), ((tagOf_laterTag ..).trans (if_pos rfl)).trans ?_⟩
    cases op <;> rfl

end Sys2Proof.Proofs

namespace Sys2Proof.Proofs

open Sys2Proof Sys2Proof.Machine

/-! ### Selection (R33 to R36) -/

theorem findIdx_eq_findIdx? {α : Type} (p : α → Bool) (xs : List α) : findIdx p xs = xs.findIdx? p := by
  induction xs with
  | nil => rfl
  | cons x xs ih => rw [findIdx, List.findIdx?_cons, ih]

theorem oldest_isSome_iff (k : Core) (t : Nat) : (oldest k t).isSome = true ↔ ∃ e ∈ k.inbox, e.tag = t ∧ e.pending = true := by
  rw [oldest, findIdx_eq_findIdx?, List.findIdx?_isSome]
  simp only [List.any_eq_true, Bool.and_eq_true, beq_iff_eq]

/-- The first element that passes is the one that no earlier one does. -/
theorem findIdx_eq_some {α : Type} {p : α → Bool} {xs : List α} {n : Nat} {x : α} (hx : xs[n]? = some x) (hp : p x = true)
    (hfirst : ∀ m < n, ∀ y, xs[m]? = some y → ¬ p y = true) : findIdx p xs = some n := by
  obtain ⟨hn, rfl⟩ := List.getElem?_eq_some_iff.1 hx
  rw [findIdx_eq_findIdx?, List.findIdx?_eq_some_iff_getElem]
  exact ⟨hn, hp, fun m hm => hfirst m hm _ (List.getElem?_eq_getElem (by omega))⟩

theorem runnable_iff (k : Core) (t : Nat) : runnable k t = true ↔ (k.selTag t).en = true ∧ (k.selTag t).inst = true ∧
    0 < (k.selTag t).pend ∧ (∃ e ∈ k.inbox, e.tag = t ∧ e.pending = true) ∧ (∃ b, k.bay = some b ∧ b.isOpen = true) ∧
    (if (k.selTag t).par then (k.selTag t).act ≤ (k.selTag t).pmax else (k.selTag t).act = 0) ∧
    ∀ g < 4, gatePair k (fgetD (k.selTag t).gates g 0) = true := by
  have hopen : (k.bay.map (·.isOpen)).getD false = true ↔ ∃ b, k.bay = some b ∧ b.isOpen = true := by
    cases k.bay <;> simp
  have hact : (if (k.selTag t).par = true then decide ((k.selTag t).act ≤ (k.selTag t).pmax) else (k.selTag t).act == 0) = true ↔
      if (k.selTag t).par = true then (k.selTag t).act ≤ (k.selTag t).pmax else (k.selTag t).act = 0 := by
    split <;> simp
  simp only [runnable, Bool.and_eq_true, decide_eq_true_eq, oldest_isSome_iff, hopen, hact, gateOk, List.all_eq_true,
    List.mem_range, and_assoc]

/-- Of two tags at most one goes before the other (R36). -/
theorem not_before_of_before {k : Core} {t u : Nat} (h : before k t u = true) : before k u t = false := by
  simp only [before, Bool.or_eq_true, Bool.and_eq_true, decide_eq_true_eq, beq_iff_eq] at h
  simp only [before, Bool.or_eq_false_iff, Bool.and_eq_false_iff, decide_eq_false_iff_not, beq_eq_false_iff_ne]
  omega

/-- One step of the choice among the runnable tags (R36). -/
def better (k : Core) (o : Option Nat) (t : Nat) : Option Nat :=
  match o with
  | none => some t
  | some u => if before k t u then some t else some u

theorem chooseTag_eq_foldl (k : Core) : chooseTag k = (runnableTags k).foldl (better k) none := rfl

/-- A choice is made among the candidates. -/
theorem mem_of_foldl_better {k : Core} {l : List Nat} {u : Nat} : ∀ {o : Option Nat}, l.foldl (better k) o = some u →
    o = some u ∨ u ∈ l := by
  induction l with
  | nil => exact fun h => .inl h
  | cons x xs ih =>
    intro o h
    have hstep : better k o x = some x ∨ better k o x = o := by
      cases o with
      | none => exact .inl rfl
      | some v => exact (ite_eq_or_eq ..)
    rcases ih h with hu | hu
    · rcases hstep with hx | ho
      · rw [hx, Option.some_inj] at hu
        exact .inr (hu ▸ List.mem_cons_self)
      · exact .inl (ho ▸ hu)
    · exact .inr (List.mem_cons_of_mem _ hu)

/-- A tag that goes before the one chosen so far is chosen. -/
theorem better_of_before {k : Core} {t : Nat} {o : Option Nat} (hfirst : ∀ u, o = some u → u ≠ t → before k t u = true) :
    better k o t = some t := by
  cases o with
  | none => rfl
  | some u =>
    by_cases hu : u = t
    · rw [better, hu, ite_self]
    · exact if_pos (hfirst u rfl hu)

/-- A tag that goes before every candidate stays chosen. -/
theorem foldl_better_of_before {k : Core} {t : Nat} {l : List Nat} (hfirst : ∀ u ∈ l, u ≠ t → before k t u = true) :
    l.foldl (better k) (some t) = some t := by
  induction l with
  | nil => rfl
  | cons x xs ih =>
    have hstep : better k (some t) x = some t := by
      by_cases hx : x = t
      · rw [better, hx, ite_self]
      · rw [better, not_before_of_before (hfirst x List.mem_cons_self hx)]; rfl
    rw [List.foldl_cons, hstep]
    exact ih fun u hu => hfirst u (List.mem_cons_of_mem _ hu)

theorem chooseTag_eq {k : Core} {t : Nat} (ht : t < 64) (hrun : runnable k t = true)
    (hfirst : ∀ u < 64, runnable k u = true → u ≠ t → before k t u = true) : chooseTag k = some t := by
  have hmem : ∀ u, u ∈ runnableTags k ↔ u < 64 ∧ runnable k u = true := fun u => by
    rw [runnableTags, List.mem_filter, List.mem_range]
  have hbefore : ∀ u ∈ runnableTags k, u ≠ t → before k t u = true := fun u hu =>
    hfirst u ((hmem u).1 hu).1 ((hmem u).1 hu).2
  obtain ⟨earlier, later, hsplit⟩ := List.append_of_mem ((hmem t).2 ⟨ht, hrun⟩)
  rw [hsplit] at hbefore
  have hchosen : better k (earlier.foldl (better k) none) t = some t := better_of_before fun u hu =>
    hbefore u (List.mem_append_left _ ((mem_of_foldl_better hu).resolve_left (by simp)))
  rw [chooseTag_eq_foldl, hsplit, List.foldl_append, List.foldl_cons, hchosen]
  exact foldl_better_of_before fun u hu => hbefore u (List.mem_append_right _ (List.mem_cons_of_mem _ hu))

theorem freeCarrel_eq {k : Core} {cyc i : Nat} (hi : i < 8) (hfree : (k.carrel i).st = .free)
    (hready : (k.carrel i).freedAt ≠ some cyc)
    (hlowest : ∀ j < i, (k.carrel j).st ≠ .free ∨ (k.carrel j).freedAt = some cyc) : freeCarrel k cyc = some i := by
  rw [freeCarrel, List.find?_range_eq_some]
  refine ⟨?_, by simpa using hi, fun j hj => ?_⟩
  · simp [hfree, hready]
  · rcases hlowest j hj with h | h <;> simp [h]

/-! ### Dispatch (R36 to R43) -/

theorem exec_dispatch_eq {s : State} {core t i n : Nat} {e : InboxEnt} (hlive : (s.core core).live = true)
    (hshelf : reshelving s core = none) (hfresh : (s.core core).dispatched = none)
    (haged : ∀ u < 64, agingDue (s.core core) u = false)
    (htag : chooseTag (s.core core) = some t) (hcarrel : freeCarrel (s.core core) s.cycle = some i)
    (hold : oldest (s.core core) t = some n) (hentry : (s.core core).inbox[n]? = some e) (hagain : e.again = false) :
    exec (.dispatch core) s = .next (s.setCore core (startActivation (s.core core) s.cycle t i e)) := by
  have hdue : (List.range 64).any (agingDue (s.core core)) = false := by simpa using haged
  refine (show exec (.dispatch core) s = execDispatch core s from rfl).trans ?_
  simp [execDispatch, hlive, hshelf, hfresh, hdue, htag, hcarrel, hold, hentry, dispatchTo, hagain]

/-- The value that a register has at the dispatch of a message (R40 to R43); none where it is the register's own initial one. -/
def dispatchVal (h : HTag) (e : InboxEnt) (r : Nat) : Option TCap :=
  if r = 0 then none
  else if r ≤ 8 then (e.words[r - 1]?).map pwordCap
  else if r = 9 then some (dataCap (activationInfo e.kind e.sdev e.seq e.score e.tag))
  else if 60 ≤ r ∧ r < 64 then some (fgetD h.caps (r - 60) {})
  else none

theorem dispatchVal_payload (h : HTag) (e : InboxEnt) {j : Nat} (hj : j < 8) :
    dispatchVal h e (j + 1) = (e.words[j]?).map pwordCap := by
  rw [dispatchVal, if_neg (by omega), if_pos (by omega), Nat.add_sub_cancel]

theorem dispatchVal_bundle (h : HTag) (e : InboxEnt) {j : Nat} (hj : j < 4) :
    dispatchVal h e (60 + j) = some (fgetD h.caps j {}) := by
  rw [dispatchVal, if_neg (by omega), if_neg (by omega), if_neg (by omega), if_pos (by omega), Nat.add_sub_cancel_left]

theorem dispatchVal_of_other {h : HTag} {e : InboxEnt} {j : Nat} (hlow : 9 < j) (hhigh : j < 60) : dispatchVal h e j = none := by
  rw [dispatchVal, if_neg (by omega), if_neg (by omega), if_neg (by omega), if_neg (by omega)]

/-- A register that holds a value and is otherwise as a write leaves it. -/
def plainReg (v : TCap) : CReg := { val := v.val, tag := v.tag }

theorem fget_append {α : Type} (m n : FMap α) (k : Nat) : fget (m ++ n) k = (fget m k).or (fget n k) := by
  induction m with
  | nil => rfl
  | cons p m ih =>
    obtain ⟨j, v⟩ := p
    by_cases h : j = k
    · simp [fget, h]
    · simp [fget, h, ih]

theorem fget_numbered {α β : Type} (f : α → β) (xs : List α) (m k : Nat) :
    fget ((xs.zipIdx m).map fun (x, n) => (n + 1, f x)) k = if k ≤ m then none else (xs[k - m - 1]?).map f := by
  induction xs generalizing m with
  | nil => simp [fget]
  | cons x xs ih =>
    have hrest := ih (m + 1)
    simp only [List.zipIdx_cons, List.map_cons, fget, hrest]
    by_cases hk : m + 1 = k
    · subst hk; simp
    · by_cases hle : k ≤ m
      · simp [hk, hle, show k ≤ m + 1 by omega]
      · obtain ⟨d, rfl⟩ : ∃ d, k = m + 2 + d := ⟨k - m - 2, by omega⟩
        have hhere : m + 2 + d - m - 1 = d + 1 := by omega
        have hnext : m + 2 + d - (m + 1) - 1 = d := by omega
        simp [hk, hle, hhere, hnext, show ¬ m + 2 + d ≤ m + 1 by omega]

theorem fget_bundle {α : Type} (f : Nat → α) (k : Nat) :
    fget ((List.range 4).map fun g => (60 + g, f g)) k = if 60 ≤ k ∧ k < 64 then some (f (k - 60)) else none := by
  have hlist : (List.range 4).map (fun g => (60 + g, f g)) = [(60, f 0), (61, f 1), (62, f 2), (63, f 3)] := rfl
  rw [hlist]
  by_cases hk : 60 ≤ k ∧ k < 64
  · obtain ⟨hlow, hhigh⟩ := hk
    interval_cases k <;> rfl
  · rw [if_neg hk]
    simp [fget, show ¬ 60 = k by omega, show ¬ 61 = k by omega, show ¬ 62 = k by omega, show ¬ 63 = k by omega]

theorem fget_dispatchRegs (h : HTag) (e : InboxEnt) (r : Nat) :
    fget (dispatchRegs h e) r = (dispatchVal h e r).map plainReg := by
  have hpay := fget_numbered (fun w => plainReg (pwordCap w)) (e.words.take 8) 0 r
  have hbundle := fget_bundle (fun g => plainReg (fgetD h.caps g {})) r
  have hregs : dispatchRegs h e = (((e.words.take 8).zipIdx).map fun (w, n) => (n + 1, plainReg (pwordCap w))) ++
    ((9, plainReg (dataCap (activationInfo e.kind e.sdev e.seq e.score e.tag))) ::
      (List.range 4).map fun g => (60 + g, plainReg (fgetD h.caps g {}))) := rfl
  rw [hregs, fget_append, hpay, fget, hbundle, dispatchVal]
  rcases (by omega : r = 0 ∨ 1 ≤ r ∧ r ≤ 8 ∨ r = 9 ∨ 10 ≤ r) with rfl | ⟨hlow, hhigh⟩ | rfl | hhigh
  · simp
  · obtain ⟨n, rfl⟩ : ∃ n, r = n + 1 := ⟨r - 1, by omega⟩
    simp [show n < 8 by omega, show ¬ 9 = n + 1 by omega, show ¬ 59 ≤ n by omega, Function.comp_def]
  · simp
  · have hpast : (e.words.take 8)[r - 0 - 1]? = none := List.getElem?_eq_none (by simp; omega)
    rw [hpast, if_neg (show ¬ r ≤ 0 by omega), if_neg (show ¬ 9 = r by omega), if_neg (show ¬ r = 0 by omega),
      if_neg (show ¬ r ≤ 8 by omega), if_neg (show ¬ r = 9 by omega)]
    split <;> rfl

/-- c9 in its fields (R41). -/
theorem activationInfo_eq (kind sdev aseq score tag : Nat) : activationInfo kind sdev aseq score tag =
    BitVec.ofNat 4 kind ++ BitVec.ofNat 12 sdev ++ BitVec.ofNat 16 aseq ++ (0 : BitVec 4) ++ BitVec.ofNat 12 score ++
      (0 : BitVec 10) ++ BitVec.ofNat 6 tag := by
  refine BitVec.eq_of_toNat_eq ?_
  simp only [activationInfo, toNat_append_eq_add, BitVec.ofNat_eq_ofNat, BitVec.toNat_ofNat]
  omega

section
variable {c : Carrel} {h : HTag} {e : InboxEnt} (hregs : c.regs = dispatchRegs h e)
include hregs

theorem creg_of_dispatchRegs (r : Reg) : c.creg r = ((dispatchVal h e r.toNat).map plainReg).getD (cregInit r) := by
  rw [Carrel.creg, hregs, fgetD, fget_dispatchRegs]

/-- The registers hold the payload, c9 and the bundle, and every other is untagged zero. -/
theorem read_of_dispatchRegs (r : Reg) : c.read r = (dispatchVal h e r.toNat).getD {} := by
  by_cases hr : r = 0
  · subst hr; rfl
  · rw [read_of_ne c hr, creg_of_dispatchRegs hregs]
    cases dispatchVal h e r.toNat <;> rfl

/-- The registers of the window are absent, and they alone (R43). -/
theorem absent_of_dispatchRegs (hstreams : c.streams = []) (r : Reg) : c.absent r = (32 ≤ r.toNat && r.toNat ≤ 59) := by
  have hstream : c.stream r = none := by rw [Carrel.stream, hstreams]; rfl
  by_cases hr : r = 0
  · subst hr; rfl
  · have hnonzero : decide (r ≠ 0) = true := decide_eq_true hr
    rw [Carrel.absent, hnonzero, hstream, creg_of_dispatchRegs hregs]
    cases hval : dispatchVal h e r.toNat with
    | none => simp [cregInit]
    | some v =>
      have hwindow : (decide (32 ≤ r.toNat) && decide (r.toNat ≤ 59)) = false := by
        by_contra hin
        simp only [Bool.not_eq_false, Bool.and_eq_true, decide_eq_true_eq] at hin
        rw [dispatchVal_of_other (by omega) (by omega)] at hval
        cases hval
      rw [hwindow]; rfl

end

section
variable {k : Core} {cyc t i : Nat} {e : InboxEnt}

/-- The carrel of a dispatch before any remote write is applied. -/
def started (k : Core) (cyc t i : Nat) (e : InboxEnt) : Carrel :=
  carrelInit (k.carrel i) (k.selTag t) e k.nextId cyc (k.twin.isSome || k.twinOf.isSome)

/-- A first dispatch with no remote write in advance sets the carrel and touches no other (R36, R40). -/
theorem carrel_startActivation (hagain : e.again = false) (hrputs : e.rputs = []) (hheld : heldRputs k t = []) (j : Nat) :
    (startActivation k cyc t i e).carrel j =
      if i = j then started k cyc t i e else k.carrel j := by
  have hentry : (if e.again then { e with rply := min 2 (e.rply + 1) } else e) = e := by rw [hagain]; rfl
  have hcarrel : (startActivation k cyc t i e).carrel j = if i = j then
      ((if e.again then { e with rply := min 2 (e.rply + 1) } else e).rputs ++ heldRputs k t).foldl (fun c p => c.rput p.1 p.2)
        (carrelInit (k.carrel i) (k.selTag t) (if e.again then { e with rply := min 2 (e.rply + 1) } else e) k.nextId cyc
          (k.twin.isSome || k.twinOf.isSome))
      else k.carrel j := carrel_setCarrel ..
  rw [hcarrel, hentry, hrputs, hheld]; rfl

theorem tagOf_startActivation (u : Nat) : (startActivation k cyc t i e).tagOf u =
    if t = u then { k.tagOf t with pend := (k.tagOf t).pend - 1, act := (k.tagOf t).act + 1, wait := 0, eprio := (k.tagOf t).prio }
    else k.tagOf u :=
  fgetD_fset ..

end

/-! ### Aging and the end of a YIELD period (R37, R363) -/

theorem tagOf_age (k : Core) (t u : Nat) : (k.age t).tagOf u =
    if t = u then { k.tagOf t with eprio := (k.tagOf t).eprio + 1 } else k.tagOf u :=
  fgetD_fset ..

/-- Settles O44: under the premises the choices of tag, carrel and message are the ones named, so that DISPATCH is the start of the
activation, whose registers are read off its register list. -/
theorem dispatchStarts : Obligations.DispatchStarts := by
  unfold Obligations.DispatchStarts
  refine ⟨runnable_iff, ?starts, ?ages, ?yields⟩
  case starts =>
    intro s core t i n e k h hlive hshelf hfresh haged ht hrun hfirst hi hfree hready hlowest hentry htag hpending holdest hagain
      hrputs hheld
    have hold : oldest k t = some n := findIdx_eq_some hentry (by simp [htag, hpending]) fun m hm x hx => by
      simpa using holdest m hm x hx
    refine ⟨_, exec_dispatch_eq hlive hshelf hfresh haged (chooseTag_eq ht hrun hfirst) (freeCarrel_eq hi hfree hready hlowest) hold
      hentry hagain, ?_⟩
    have hcore : (s.setCore core (startActivation k s.cycle t i e)).core core = startActivation k s.cycle t i e :=
      (core_setCore ..).trans (if_pos rfl)
    have hcarrel := fun j => carrel_startActivation (cyc := s.cycle) (i := i) hagain hrputs hheld j
    have hme : (s.setCore core (startActivation k s.cycle t i e)).carrel core i = started k s.cycle t i e := by
      rw [State.carrel, hcore, hcarrel, if_pos rfl]
    have hread : ∀ j < 64, (started k s.cycle t i e).read (BitVec.ofNat 6 j) = (dispatchVal (k.selTag t) e j).getD {} :=
      fun j hj => (read_of_dispatchRegs rfl _).trans (by rw [BitVec.toNat_ofNat, Nat.mod_eq_of_lt hj])
    rw [hme, hcore, tagOf_startActivation, if_pos rfl]
    refine ⟨rfl, rfl, rfl, rfl, rfl, rfl, rfl, rfl, rfl, rfl, htag, rfl, fun j hj => ?payload, ?info, fun j hj => ?bundle,
      fun j hlow hhigh => ?rest, absent_of_dispatchRegs rfl rfl, rfl, rfl, rfl, rfl, fun u hu => ?tags, rfl, rfl,
      fun j hj => ?carrels, fun d hd => ?cores, rfl, rfl⟩
    case payload => rw [hread _ (by omega), dispatchVal_payload _ _ hj]
    case info => rw [← activationInfo_eq]; exact hread 9 (by omega)
    case bundle => rw [hread _ (by omega), dispatchVal_bundle _ _ hj]; rfl
    case rest => rw [hread _ (by omega), dispatchVal_of_other hlow hhigh]; rfl
    case tags => exact (tagOf_startActivation u).trans (if_neg (Ne.symm hu))
    case carrels => rw [State.carrel, hcore, hcarrel, if_neg (Ne.symm hj)]; rfl
    case cores => exact (core_setCore ..).trans (if_neg (Ne.symm hd))
  case ages =>
    intro s core t h hbehind
    have hdue : agingDue (s.core core) t = true := decide_eq_true hbehind
    have hcore : (s.setCore core ((s.core core).age t)).core core = (s.core core).age t := (core_setCore ..).trans (if_pos rfl)
    refine ⟨s.setCore core ((s.core core).age t), if_pos hdue, ?_⟩
    rw [hcore, tagOf_age, if_pos rfl]
    exact ⟨rfl, fun u hu => (tagOf_age ..).trans (if_neg (Ne.symm hu)), rfl, rfl⟩
  case yields =>
    intro s core i c hissues hyield
    have hover : (c.issues && decide (c.yield = 1)) = true := by simp [hissues, hyield]
    exact if_pos hover

end Sys2Proof.Proofs

namespace Sys2Proof.Proofs

open Sys2Proof Sys2Proof.Machine

/-! ### An acknowledgement that carries the mark of a held access (R302) -/

/-- An acknowledgement with the mark of a held space-2 access marks requests and ends no message: every core is left as it was. -/
theorem exec_streamAck_of_heldMark {s : State} {cluster idx core dest : Nat} {f : Flit} {refused : Bool} {notice : Option Nat}
    (harrived : (s.cluster cluster).arrived[idx]? = some f) (hbody : f.body = .ack core dest heldMark refused notice) :
    ∃ t, exec (.streamAck cluster idx) s = .next t ∧ t.cores = s.cores := by
  refine ⟨markHeld (s.modCluster cluster fun k => { k with arrived := dropAt k.arrived idx }) core dest f.seq, ?_, rfl⟩
  refine (show exec (.streamAck cluster idx) s = execStreamAck cluster idx s from rfl).trans ?_
  simp only [execStreamAck, harrived, hbody, if_true]

theorem dropAt_eq_eraseIdx {α : Type} (xs : List α) (n : Nat) : dropAt xs n = xs.eraseIdx n := by
  induction xs generalizing n with
  | nil => rfl
  | cons x xs ih => cases n with
    | zero => rfl
    | succ n => rw [dropAt, ih, List.eraseIdx_cons_succ]

theorem getElem?_modAt_self {α : Type} {xs : List α} {n : Nat} {x : α} (hx : xs[n]? = some x) (f : α → α) :
    (modAt xs n f)[n]? = some (f x) := by
  induction xs generalizing n with
  | nil => simp at hx
  | cons y ys ih => cases n with
    | zero =>
      obtain rfl : y = x := by simpa using hx
      rfl
    | succ n => simpa [modAt] using ih (by simpa using hx)

/-- With any other tag the acknowledgement ends the earliest message of the stream that is in flight, or has it sent again (R29,
R302). -/
theorem exec_streamAck_of_tag {s : State} {cluster idx core dest tag n : Nat} {f : Flit} {m : OutMsg} {refused : Bool}
    (harrived : (s.cluster cluster).arrived[idx]? = some f) (hbody : f.body = .ack core dest tag refused none)
    (htag : tag ≠ heldMark)
    (hmsg : findIdx (fun x => x.inFlight && (x.tag == tag && destCore x.dest == dest && s.isOwnDev (destDev x.dest)))
      (s.core core).out = some n) (hm : (s.core core).out[n]? = some m) : ∃ t, exec (.streamAck cluster idx) s = .next t ∧
        (refused = false → (t.core core).out = (s.core core).out.eraseIdx n) ∧
        (refused = true → ∃ m', (t.core core).out[n]? = some m' ∧ m'.refused = true ∧ m'.inFlight = false) := by
  refine ⟨messageOver (s.modCluster cluster fun k => { k with arrived := dropAt k.arrived idx }) core
    (fun x => x.tag == tag && destCore x.dest == dest && s.isOwnDev (destDev x.dest)) refused none, ?_, ?_⟩
  · refine (show exec (.streamAck cluster idx) s = execStreamAck cluster idx s from rfl).trans ?_
    simp only [execStreamAck, harrived, hbody, htag, if_false]
  · have hover : findIdx (fun x => x.inFlight && (x.tag == tag && destCore x.dest == dest && s.isOwnDev (destDev x.dest)))
        ((s.modCluster cluster fun k => { k with arrived := dropAt k.arrived idx }).core core).out = some n := hmsg
    rw [messageOver, hover]
    cases refused with
    | false =>
      refine ⟨fun _ => ?_, fun h => nomatch h⟩
      exact (congrArg Core.out ((core_setCore ..).trans (if_pos rfl))).trans (dropAt_eq_eraseIdx ..)
    | true =>
      refine ⟨(fun h => nomatch h), fun _ =>
        ⟨{ m with inFlight := false, refused := true, again := true, req := none }, ?_, rfl, rfl⟩⟩
      exact (congrArg (fun k : Core => k.out[n]?) ((core_setCore ..).trans (if_pos rfl))).trans (getElem?_modAt_self hm _)

/-- A message with the tag 64, which is the mark of a held access and the number of no handler tag. -/
def markedMsg : OutMsg := { dest := 0xFFF * 2 ^ 16, tag := heldMark, body := .msg [] 0, inFlight := true }

/-- The acknowledgement of that message. -/
def markedAck : Flit := { dst := 0, src := 0, at_ := 0, body := .ack 0 0 heldMark false none }

/-- Core 0 has sent the message, and its acknowledgement has arrived. -/
def markedState : State := { cores := [(0, { out := [markedMsg] })], clusters := [(0, { arrived := [markedAck] })] }

/-- Refutes O47: its last clause leaves the tag of the acknowledgement free, and for tag 64, the mark by which the model tells the
acknowledgement of a held space-2 access apart, STREAM_ACK leaves the message where it is. The tag of SEND and RPUT has 6 bits
(R28) and never is the mark: what the clause lacks is the premise of `exec_streamAck_of_tag`, that the tag is not the mark. -/
theorem not_messageEvents : ¬ Obligations.MessageEvents := by
  unfold Obligations.MessageEvents
  intro h
  obtain ⟨-, -, -, hacks⟩ := h markedState 0 0 0
  have hends := hacks markedAck 0 heldMark false rfl rfl 0 markedMsg rfl rfl rfl (by decide) (by decide)
    fun j hj => absurd hj (Nat.not_lt_zero j)
  obtain ⟨t, hnext, hgone, -⟩ := hends
  obtain ⟨u, hstays, hcores⟩ := exec_streamAck_of_heldMark (s := markedState) (cluster := 0) (idx := 0) (f := markedAck) rfl rfl
  obtain rfl : t = u := by rw [hstays] at hnext; injection hnext with hnext; exact hnext.symm
  have hout : (t.core 0).out = [markedMsg] := by rw [State.core, hcores]; rfl
  rw [hout] at hgone
  exact absurd (hgone rfl) (by decide)

end Sys2Proof.Proofs

namespace Sys2Proof.Proofs

open Sys2Proof Sys2Proof.Machine

/-! ### HCMD (R232, R240) -/

section
variable {s : State} {w : Word} {host : Bool}

theorem exec_hcmd_of_not_head {i : Instr}
    (hi : i ∈ [Instr.graphLoad w host, .graphUnload w host, .nodeRelease w host, .nodeCancel w host, .hcmdInvalid w host])
    (hhead : isHead s w host = false) : exec i s = .next s := by
  simp only [List.mem_cons, List.not_mem_nil, or_false] at hi
  rcases hi with rfl | rfl | rfl | rfl | rfl <;> exact congrArg Host.Outcome.next (if_neg (by simp [hhead]))

theorem exec_graphLoad_of_head (hop : hcmdOp w = 1) (hhead : isHead s w false = true) :
    exec (.graphLoad w false) s = .next (loadGraph s (hcmdGraph w)) :=
  congrArg Host.Outcome.next (if_pos (by simp [hop, hhead]))

theorem exec_graphUnload_of_head (hop : hcmdOp w = 2) (hhead : isHead s w false = true) :
    exec (.graphUnload w false) s = .next (unloadGraph s (hcmdGraph w)) :=
  congrArg Host.Outcome.next (if_pos (by simp [hop, hhead]))

theorem exec_nodeRelease_of_head (hop : hcmdOp w = 3) (hhead : isHead s w host = true) :
    exec (.nodeRelease w host) s = .next (releaseNode s w) :=
  congrArg Host.Outcome.next (if_pos (by simp [hop, hhead]))

theorem exec_nodeCancel_of_head (hop : hcmdOp w = 4) (hhead : isHead s w host = true) :
    exec (.nodeCancel w host) s = .next (cancelNode s w) :=
  congrArg Host.Outcome.next (if_pos (by simp [hop, hhead]))

theorem exec_hcmdInvalid_of_head (hhead : isHead s w host = true)
    (hop : hcmdOp w = 0 ∨ 4 < hcmdOp w ∨ (host = true ∧ hcmdOp w ≤ 2)) :
    exec (.hcmdInvalid w host) s = .next (setHstat s 1) :=
  congrArg Host.Outcome.next (if_pos (by simpa [hhead, or_assoc] using hop))

end

/-- The shape that RELEASE and CANCEL share: the node named is held, and `act` is done with it (R240). -/
def onHeld (s : State) (w : Word) (act : State → Inst → Graph → Node → State) : State :=
  if (s.hub.graph (hcmdGraph w)).isNone then setHstat s 2 else
  match heldNode s w with
  | none => setHstat s 3
  | some (i, g, n) => setHstat (act (s.modNode i.id (hcmdNode w) fun n => { n with holding := false }) i g n) 0

theorem releaseNode_eq (s : State) (w : Word) : releaseNode s w = onHeld s w fun t i g n => freeSuccs t i.id g n := rfl

theorem cancelNode_eq (s : State) (w : Word) : cancelNode s w = onHeld s w cancelFrom := rfl

/-- RELEASE or CANCEL, by the operation of the word. -/
theorem exec_of_release_or_cancel {s : State} {w : Word} {host : Bool} (hop : hcmdOp w = 3 ∨ hcmdOp w = 4)
    (hhead : isHead s w host = true) : exec (if hcmdOp w = 3 then Instr.nodeRelease w host else .nodeCancel w host) s =
      .next (onHeld s w fun t i g n => if hcmdOp w = 3 then freeSuccs t i.id g n else cancelFrom t i g n) := by
  rcases hop with hop | hop
  · simp only [hop, if_true, exec_nodeRelease_of_head hop hhead, releaseNode_eq]
  · have hne : ¬ hcmdOp w = 3 := by omega
    simp only [hne, if_false, exec_nodeCancel_of_head hop hhead, cancelNode_eq]

section
variable {s : State} {w : Word} (act : State → Inst → Graph → Node → State)

theorem onHeld_of_unknown (hnone : s.hub.graph (hcmdGraph w) = none) : onHeld s w act = setHstat s 2 :=
  if_pos (by rw [hnone]; rfl)

theorem onHeld_of_not_held (hknown : (s.hub.graph (hcmdGraph w)).isSome = true) (hheld : heldNode s w = none) :
    onHeld s w act = setHstat s 3 := by
  rw [onHeld, Option.isNone_eq_false_iff.2 hknown, hheld]; rfl

theorem onHeld_of_held {i : Inst} {g : Graph} {n : Node} (hknown : (s.hub.graph (hcmdGraph w)).isSome = true)
    (hheld : heldNode s w = some (i, g, n)) :
    onHeld s w act = setHstat (act (s.modNode i.id (hcmdNode w) fun n => { n with holding := false }) i g n) 0 := by
  rw [onHeld, Option.isNone_eq_false_iff.2 hknown, hheld]; rfl

end

/-- An image that passes every check of LOAD is known from then on (R232). -/
theorem loadGraph_of_valid {s : State} {id : Nat} {hd img : List Byte} (hfree : (s.hub.graph id).isNone = true)
    (hheader : physRead s s.hub.harg.toNat 64 = some hd) (himage : physRead s s.hub.harg.toNat (imageField hd 8 4) = some img)
    (hheaderOk : headerOk hd (imageField hd 8 4) = true) (himageOk : imageOk img = true)
    (hunpaired : ((List.range (imageNodes img)).all fun i => !(imageNode img i).paired) = true)
    (hroom : (s.hub.graphs.map fun g => g.image.length).sum + imageField hd 8 4 ≤ imageMax) :
    loadGraph s id = setHstat (s.modHub fun h =>
      { h with graphs := s.hub.graphs ++ [{ id := id, ctx := (s.hub.hctx.extractLsb' 0 16).toNat, image := img }] }) 0 := by
  have hnone : (s.hub.graph id).isSome = false := by simpa using hfree
  have hpaired : ((List.range (imageNodes img)).any fun i => (imageNode img i).paired) = false := by
    simpa using hunpaired
  rw [toNat_extractLsb'_eq_bitsAt]
  simp only [loadGraph, hnone, hheader, hheaderOk, himage, himageOk, hpaired, Nat.not_lt.2 hroom, Bool.false_eq_true, if_false,
    Bool.not_true, Bool.and_false, Bool.or_self]
  rfl

/-- A graph of which the hub knows that it is not unloaded stays (R232). -/
theorem mem_dropGraphs {h : Hub} {g : Graph} (hmem : g ∈ h.graphs) (hloaded : g.unloaded = false) : g ∈ (dropGraphs h).graphs := by
  rw [dropGraphs, List.mem_filter]
  exact ⟨hmem, by rw [hloaded]; rfl⟩

theorem mem_of_mem_dropGraphs {h : Hub} {g : Graph} (hmem : g ∈ (dropGraphs h).graphs) : g ∈ h.graphs := by
  rw [dropGraphs] at hmem
  exact (List.mem_filter.1 hmem).1

/-- The graph with number `id` marked unloaded. -/
def markUnloaded (id : Nat) (x : Graph) : Graph := if x.id = id then { x with unloaded := true } else x

theorem unloadGraph_of_known {s : State} {id : Nat} {g : Graph} (hg : s.hub.graph id = some g) (hloaded : g.unloaded = false) :
    unloadGraph s id = setHstat (s.modHub fun h => dropGraphs { h with graphs := h.graphs.map (markUnloaded g.id) }) 0 := by
  rw [unloadGraph, hg]
  dsimp only
  rw [hloaded]; rfl

theorem unloaded_of_mem_markUnloaded {gs : List Graph} {id : Nat} {x : Graph} (hmem : x ∈ gs.map (markUnloaded id))
    (hid : x.id = id) : x.unloaded = true := by
  obtain ⟨y, -, rfl⟩ := List.mem_map.1 hmem
  by_cases hy : y.id = id
  · rw [markUnloaded, if_pos hy]
  · rw [markUnloaded, if_neg hy] at hid
    exact absurd hid hy

theorem mem_markUnloaded_of_ne {gs : List Graph} {id : Nat} {x : Graph} (hmem : x ∈ gs) (hid : x.id ≠ id) :
    x ∈ gs.map (markUnloaded id) :=
  List.mem_map.2 ⟨x, hmem, if_neg hid⟩

/-! ### Triggers (R233, R234) -/

theorem tqueue_fset (h : Hub) (q p : Nat) (x : TQueue) :
    ({ h with queues := fset h.queues q x } : Hub).tqueue p = if q = p then x else h.tqueue p := fgetD_fset ..

/-- A trigger write of either size is tested (R233). -/
theorem trigger_tested {q size : Nat} (hq : q < 16) (hsize : size = 4 ∨ size = 8) :
    ¬ (16 ≤ q || !(decide (size = 4) || decide (size = 8))) = true := by
  rcases hsize with rfl | rfl <;> simp [hq]

theorem exec_triggerWrite_of_error {s : State} {q size r : Nat} {w : Word} (hq : q < 16) (hsize : size = 4 ∨ size = 8)
    (htest : testTrigger s q size w.toNat = .error r) : exec (.triggerWrite q size w) s = .next (s.modHub fun h =>
      { h with queues := fset h.queues q { h.tqueue q with reason := r, rej := ((h.tqueue q).rej + 1) % 65536 } }) := by
  refine Eq.trans (if_neg (trigger_tested hq hsize)) ?_
  rw [htest]

/-- The trigger that an accepted write makes, numbered `id` (R233). -/
def trigOf (id : Nat) (w : Word) (ps : List (Nat × Nat × Word)) : Trigger :=
  { id := id, graph := (w.extractLsb' 0 12).toNat, irq := w.getLsbD 54, ser := w.getLsbD 53, patches := ps }

theorem exec_triggerWrite_of_ok {s : State} {q size : Nat} {w : Word} {ps : List (Nat × Nat × Word)} (hq : q < 16)
    (hsize : size = 4 ∨ size = 8) (htest : testTrigger s q size w.toNat = .ok ps) :
    exec (.triggerWrite q size w) s = .next (s.modHub fun h =>
      { h with queues := fset h.queues q { h.tqueue q with
                 queue := (h.tqueue q).queue ++ [trigOf h.nextInst w ps],
                 acc := ((h.tqueue q).acc + 1) % 65536 },
               nextInst := (h.nextInst + 1) % 65536 }) := by
  refine Eq.trans (if_neg (trigger_tested hq hsize)) ?_
  simp only [htest, trigOf, toNat_extractLsb'_eq_bitsAt, trigGraph]

section
variable {s : State} {q : Nat} {w : Word}

/-- A word with nothing but a graph number passes the first test, and asks for no patches. -/
theorem trigger_plain (hplain : w.extractLsb' 12 52 = 0) :
    (!(bitAt w.toNat 52)) = true ∧
      (8 ≠ 8 || bitsAt w.toNat 55 9 ≠ 0 || (!(bitAt w.toNat 52) && trigPlist w.toNat ≠ 0)) = false := by
  have hfield : bitsAt w.toNat 12 52 = 0 := by
    rw [← toNat_extractLsb'_eq_bitsAt, hplain]; rfl
  have hw := w.isLt
  have hsmall : w.toNat < 4096 := by rw [bitsAt] at hfield; omega
  have h52 : bitAt w.toNat 52 = false := by rw [bitAt, bitsAt, Nat.div_eq_of_lt (by omega)]; rfl
  have h55 : bitsAt w.toNat 55 9 = 0 := by rw [bitsAt, Nat.div_eq_of_lt (by omega)]; rfl
  have hlist : trigPlist w.toNat = 0 := by rw [trigPlist, bitsAt, Nat.div_eq_of_lt (by omega)]; rfl
  simp [h52, h55, hlist]

theorem testTrigger_of_unknown (hplain : w.extractLsb' 12 52 = 0) (hgraph : s.hub.graph (w.extractLsb' 0 12).toNat = none) :
    testTrigger s q 8 w.toNat = .error 1 := by
  rw [toNat_extractLsb'_eq_bitsAt] at hgraph
  rw [testTrigger, (trigger_plain hplain).2, trigGraph, hgraph]; rfl

theorem testTrigger_of_known {g : Graph} (hplain : w.extractLsb' 12 52 = 0)
    (hgraph : s.hub.graph (w.extractLsb' 0 12).toNat = some g) (hloaded : g.unloaded = false) :
    testTrigger s q 8 w.toNat = if 32 ≤ (s.hub.tqueue q).queue.length then .error 4 else .ok [] := by
  rw [toNat_extractLsb'_eq_bitsAt] at hgraph
  rw [testTrigger, (trigger_plain hplain).2, trigGraph, hgraph]
  simp only [hloaded, (trigger_plain hplain).1, Bool.false_eq_true, if_false, if_true]

end

/-! ### Instances (R234, R236) -/

/-- The first nodes become ready with no effect on a queue, on how many graphs run, on memory or on a core (R236). -/
theorem readyFirst_frame (s : State) (inst n : Nat) : (readyFirst s inst n).hub.queues = s.hub.queues ∧
    (readyFirst s inst n).hub.insts.length = s.hub.insts.length ∧ (readyFirst s inst n).mem = s.mem ∧
    (readyFirst s inst n).cores = s.cores := by
  rw [readyFirst]
  generalize List.range n = l
  induction l generalizing s with
  | nil => exact ⟨rfl, rfl, rfl, rfl⟩
  | cons i l ih =>
    obtain ⟨hqueues, hinsts, hmem, hcores⟩ := ih (({ s with nextReq := s.nextReq + 1 } : State).modNode inst i fun x =>
      if x.npred = 0 then { x with st := .ready, readyAt := s.nextReq } else x)
    exact ⟨hqueues, hinsts.trans (List.length_map ..), hmem, hcores⟩

section
variable {s : State} {q : Nat} {x : Trigger} {rest : List Trigger} {g : Graph}

/-- A SER trigger waits while a run of its graph from the same queue is live (R234). -/
theorem exec_instanceStart_of_held (hqueue : (s.hub.tqueue q).queue = x :: rest) (hser : x.ser = true)
    (hlive : ∃ i ∈ s.hub.insts, i.queue = q ∧ i.graph = x.graph) : exec (.instanceStart q) s = .next s := by
  have hheld : (x.ser && s.hub.insts.any fun i => i.queue == q && i.graph == x.graph) = true := by
    simpa [hser] using hlive
  refine (show exec (.instanceStart q) s = execInstanceStart q s from rfl).trans ?_
  simp [execInstanceStart, hqueue, hheld]

/-- The run of a graph that a trigger starts, with its patched records (R234, R235). -/
def instOf (g : Graph) (x : Trigger) (q : Nat) : Inst :=
  { id := x.id, graph := x.graph, queue := q, irq := x.irq,
    nodes := (patched g.image x.patches).map fun n => { n with left := n.npred, hub := hubOf g.image n } }

/-- The oldest trigger of a queue starts a run of its graph (R234). -/
theorem exec_instanceStart (hqueue : (s.hub.tqueue q).queue = x :: rest) (hroom : s.hub.insts.length < 64)
    (hgraph : s.hub.graph x.graph = some g) (hfree : x.ser = false ∨ ∀ i ∈ s.hub.insts, i.queue ≠ q ∨ i.graph ≠ x.graph) :
    exec (.instanceStart q) s = .next (readyFirst (s.modHub fun h =>
      { h with insts := h.insts ++ [instOf g x q], queues := fset h.queues q { s.hub.tqueue q with queue := rest } }) x.id
      (instOf g x q).nodes.length) := by
  have hheld : (x.ser && s.hub.insts.any fun i => i.queue == q && i.graph == x.graph) = false := by
    simp only [Bool.and_eq_false_iff, List.any_eq_false, Bool.and_eq_true, beq_iff_eq, not_and_or]
    exact hfree
  refine (show exec (.instanceStart q) s = execInstanceStart q s from rfl).trans ?_
  simp only [execInstanceStart, hqueue, hheld, hgraph, Nat.not_le.2 hroom, decide_false, Bool.or_self, Bool.false_eq_true, if_false,
    instOf]

end

/-! ### KERNEL nodes and launches (R228, R237, R50) -/

section
variable {s : State} {inst node : Nat} {i : Inst} {g : Graph} {n : Node} (hready : readyNode s inst node 0 = some (i, g, n))
include hready

theorem exec_kernelReserve_of_no_list (hbays : bayList g.image n = none) :
    exec (.kernelReserve inst node) s = .next (completeNode (startNode s inst node) inst node 4 2 0 0 0) := by
  refine (show exec (.kernelReserve inst node) s = execKernelReserve inst node s from rfl).trans ?_
  simp only [execKernelReserve, hready, hbays]

variable {bs : List BayEnt} (hbays : bayList g.image n = some bs)
include hbays

/-- A record that patches have made invalid (the model's, log entry 93). -/
theorem exec_kernelReserve_of_invalid (hbad : bayListOk bs = false ∨ 62 < n.ltag ∨ 8 < n.nparam) :
    exec (.kernelReserve inst node) s = .next (completeNode (startNode s inst node) inst node 4 2 0 0 0) := by
  have hinvalid : (!(bayListOk bs) || 62 < n.ltag || 8 < n.nparam || (n.regOff ≠ 0 && g.image.length < n.regOff + 64)) = true := by
    rcases hbad with h | h | h <;> simp [h]
  refine (show exec (.kernelReserve inst node) s = execKernelReserve inst node s from rfl).trans ?_
  simp only [execKernelReserve, hready, hbays, hinvalid, if_true]

/-- A valid record: the node fails where a core can have no launch, waits for its cores and for earlier nodes, else opens its
launch (R237). -/
theorem exec_kernelReserve_of_valid (hlist : bayListOk bs = true) (htag : n.ltag ≤ 62) (hparams : n.nparam ≤ 8)
    (hregions : n.regOff = 0 ∨ n.regOff + 64 ≤ g.image.length) : exec (.kernelReserve inst node) s = .next
      (if shelfBad s (kernelCores bs n) then completeNode (startNode s inst node) inst node 1 2 0 0 0
        else if !(coresFree s (kernelCores bs n)) || earlierKernel s n then s else reserveKernel s inst node g n bs) := by
  have hvalid : (!(bayListOk bs) || 62 < n.ltag || 8 < n.nparam || (n.regOff ≠ 0 && g.image.length < n.regOff + 64)) = false := by
    have hoff : ¬ n.regOff = 0 → n.regOff + 64 ≤ g.image.length := hregions.resolve_left
    simpa [hlist, htag, hparams] using hoff
  refine (show exec (.kernelReserve inst node) s = execKernelReserve inst node s from rfl).trans ?_
  simp only [execKernelReserve, hready, hbays, hvalid, Bool.false_eq_true, if_false]
  split
  · rfl
  · split <;> rfl

end

theorem exec_launchFinish {s : State} {idx : Nat} {l : Launch} (hlaunch : s.hub.launches[idx]? = some l) :
    exec (.launchFinish idx) s = .next (if launchIdle s l && !(launchAway s l) then finishLaunch s l else s) := by
  refine (show exec (.launchFinish idx) s = execLaunchFinish idx s from rfl).trans ?_
  rw [execLaunchFinish, hlaunch]

/-! ### SIPH nodes (R229) -/

section
variable {s : State} {inst node : Nat} {i : Inst} {g : Graph} {n : Node} (hready : readyNode s inst node 1 = some (i, g, n))
include hready

theorem exec_siphNodeStart_of_some {c : SiphCmd}
    (hcmd : siphNodeCmd (startNode s inst node) inst node g.ctx (bitsAt (n.word 7) 0 12) n = some c) :
    exec (.siphNodeStart inst node) s =
      .next (queueSiph (startNode s inst node) (bitsAt (n.word 7) 0 12) (bitsAt (n.word 7) 12 6) g.ctx c) := by
  refine (show exec (.siphNodeStart inst node) s = execSiphNodeStart inst node s from rfl).trans ?_
  simp only [execSiphNodeStart, hready, hcmd]

theorem exec_siphNodeStart_of_none
    (hcmd : siphNodeCmd (startNode s inst node) inst node g.ctx (bitsAt (n.word 7) 0 12) n = none) :
    exec (.siphNodeStart inst node) s = .next (completeNode (startNode s inst node) inst node 4 2 0 0 0) := by
  refine (show exec (.siphNodeStart inst node) s = execSiphNodeStart inst node s from rfl).trans ?_
  simp only [execSiphNodeStart, hready, hcmd]

end

/-- The entry of a SIPH node's command, numbered `id` (R229). -/
def siphEntry (id ch ctx : Nat) (c : SiphCmd) : Entry :=
  { eff := .siph ch c, addr := c.desc, release := some ⟨4, 4, []⟩, major := 0x24, ctx := ctx, drain := id, id := id }

/-- The command of a SIPH node is the last entry of its core's commit queue (R229, R236). -/
theorem queue_queueSiph (s : State) (core ch ctx : Nat) (c : SiphCmd) : ((queueSiph s core ch ctx c).core core).queue =
    (s.core core).queue ++ [siphEntry (s.core core).nextId ch ctx c] := by
  rw [queueSiph, State.modCore, core_setCore, if_pos rfl]; rfl

/-! ### BARRIER nodes (R230) -/

/-- The state in which a BARRIER node reads its object: its poisoned sectors are put right from the twin copy where there is an
object (R149). -/
def healed (ctx : Nat) (n : Node) (t : State) : State :=
  if barLook t ctx n = .invalid then t else healRegion t (scrCoreOf (n.word 3)) (scrRegionOf (n.word 3)) (scrOffOf (n.word 3)) 16

theorem barrierNode_of_zero {n : Node} (hzero : n.word 3 = 0) (s : State) (inst node : Nat) (g : Graph) (first : Bool) :
    barrierNode s inst node g n first = completeNode s inst node 0 0 0 0 0 := if_pos hzero

section
variable {s : State} {inst node : Nat} {g : Graph} {n : Node} (hobject : n.word 3 ≠ 0)
include hobject

theorem barrierNode_of_wait (hlook : barLook (healed g.ctx n s) g.ctx n = .wait) (first : Bool) :
    barrierNode s inst node g n first = healed g.ctx n s := by
  refine Eq.trans (if_neg hobject) ?_
  simp only [healed] at hlook ⊢
  simp only [hlook]

theorem barrierNode_of_moved (hlook : barLook (healed g.ctx n s) g.ctx n = .moved) (first : Bool) :
    barrierNode s inst node g n first = completeNode (healed g.ctx n s) inst node 0 0 0 0 0 := by
  refine Eq.trans (if_neg hobject) ?_
  simp only [healed] at hlook ⊢
  simp only [hlook]

theorem barrierNode_of_broken (hlook : barLook (healed g.ctx n s) g.ctx n = .broken) (first : Bool) :
    barrierNode s inst node g n first = completeNode (healed g.ctx n s) inst node 2 2 0 0 0 := by
  refine Eq.trans (if_neg hobject) ?_
  simp only [healed] at hlook ⊢
  simp only [hlook]

theorem barrierNode_of_invalid (hlook : barLook s g.ctx n = .invalid) :
    barrierNode s inst node g n true = completeNode s inst node 4 2 0 0 0 := by
  refine Eq.trans (if_neg hobject) ?_
  simp only [hlook, if_true]

end

section
variable {s : State} {inst node : Nat} {i : Inst} {g : Graph} {n : Node} (hnode : nodeAt s inst node = some (i, g, n))
  (hkind : n.kind = 2)
include hnode hkind

theorem exec_barrierNodeStart_of_ready (hst : n.st = .ready) :
    exec (.barrierNodeStart inst node) s = .next (barrierNode (startNode s inst node) inst node g n true) := by
  refine (show exec (.barrierNodeStart inst node) s = execBarrierNodeStart inst node s from rfl).trans ?_
  simp [execBarrierNodeStart, hnode, hkind, hst]

theorem exec_barrierNodeStart_of_running (hst : n.st = .running) :
    exec (.barrierNodeStart inst node) s = .next (barrierEnd s inst node g n) := by
  refine (show exec (.barrierNodeStart inst node) s = execBarrierNodeStart inst node s from rfl).trans ?_
  simp [execBarrierNodeStart, hnode, hkind, hst]

end

/-- A waiting node whose object is not saved with its partition looks at it again (R230, R313). -/
theorem barrierEnd_of_back {s : State} {n : Node} (hmoved : n.moved = none) (hback : coreAway s (scrCoreOf (n.word 3)) = false)
    (inst node : Nat) (g : Graph) : barrierEnd s inst node g n = barrierNode s inst node g n false := by
  rw [barrierEnd, hmoved]
  exact if_neg (by rw [hback]; decide)

/-! ### NOTIFY-HOST nodes (R231) -/

theorem length_natBytes (n x : Nat) : (natBytes n x).length = n := by
  induction n generalizing x with
  | zero => rfl
  | succ n ih => rw [natBytes, List.length_cons, ih]

theorem length_recordBytes (inst node status verdict tstart tend acts repl corr : Nat) :
    (recordBytes inst node status verdict tstart tend acts repl corr).length = 32 := by
  simp only [recordBytes, List.length_append, length_natBytes]

section
variable {s : State} {inst node : Nat} {i x : Inst} {g h : Graph} {n m : Node} (hready : readyNode s inst node 3 = some (i, g, n))
  (hnode : nodeAt (startNode s inst node) inst node = some (x, h, m))
include hready hnode

/-- A node whose vector is none of 16 to 62 fails (R231). -/
theorem exec_notifyHostNodeStart_of_vector (hvector : bitsAt (m.word 3) 0 16 < 16 ∨ 62 < bitsAt (m.word 3) 0 16) :
    exec (.notifyHostNodeStart inst node) s = .next (endNotify (startNode s inst node) inst node m false) := by
  have hbad : (bitsAt (m.word 3) 0 16 < 16 || 62 < bitsAt (m.word 3) 0 16) = true := by simpa using hvector
  refine (show exec (.notifyHostNodeStart inst node) s = execNotifyHostNodeStart inst node s from rfl).trans ?_
  simp only [execNotifyHostNodeStart, hready, hnode, hbad, if_true]

variable (hlow : 16 ≤ bitsAt (m.word 3) 0 16) (hhigh : bitsAt (m.word 3) 0 16 ≤ 62)
include hlow hhigh

theorem exec_notifyHostNodeStart_of_no_record (hzero : m.word 4 = 0) :
    exec (.notifyHostNodeStart inst node) s = .next (endNotify (startNode s inst node) inst node m true) := by
  have hgood : ¬ (bitsAt (m.word 3) 0 16 < 16 || 62 < bitsAt (m.word 3) 0 16) = true := by simp; omega
  refine (show exec (.notifyHostNodeStart inst node) s = execNotifyHostNodeStart inst node s from rfl).trans ?_
  simp only [execNotifyHostNodeStart, hready, hnode, hgood, hzero, if_true]; rfl

/-- The record is written and read back (R231). -/
theorem exec_notifyHostNodeStart_of_record (haddr : m.word 4 ≠ 0)
    (hallowed : hostAllowed (startNode s inst node) (m.word 4) 32 = true) : exec (.notifyHostNodeStart inst node) s =
      .next (((newReq (startNode s inst node) (.notify inst node) (BitVec.ofNat 64 (m.word 4)) true).1.emit
        (.hostWrite (m.word 4) (recordBytes inst node 0 0 (m.start.getD 0) (m.start.getD 0) 0 0 0))).emit
        (.hostRead (m.word 4) 32)) := by
  have hgood : ¬ (bitsAt (m.word 3) 0 16 < 16 || 62 < bitsAt (m.word 3) 0 16) = true := by simp; omega
  refine (show exec (.notifyHostNodeStart inst node) s = execNotifyHostNodeStart inst node s from rfl).trans ?_
  simp only [execNotifyHostNodeStart, hready, hnode, hgood, haddr, hallowed]; rfl

end

theorem exec_notifyHostReadback {s : State} {inst node : Nat} {i : Inst} {g : Graph} {n : Node} {q : Req}
    (hnode : nodeAt s inst node = some (i, g, n)) (hkind : n.kind = 3) (hst : n.st = .running)
    (hreq : notifyReq s inst node = some q) (ok : Bool) : exec (.notifyHostReadback inst node ok) s =
      .next (endNotify (dropReq s q.id) inst node n
        (ok && q.resp.isNone && s.hub.time.toNat < q.start + s.hub.fablim.toNat * 1000)) := by
  refine (show exec (.notifyHostReadback inst node ok) s = execNotifyHostReadback inst node ok s from rfl).trans ?_
  simp [execNotifyHostReadback, hnode, hreq, hkind, hst]

/-! ### The statement -/

/-- Settles O54: each event is the equation above that its premises select. -/
theorem graphEvents : Obligations.GraphEvents := by
  unfold Obligations.GraphEvents
  intro s
  refine ⟨fun w host i => exec_hcmd_of_not_head, ?load, ?unload, ?release, fun w host => exec_hcmdInvalid_of_head,
    fun off v => rfl, ?trigger, ?start, ?kernel, ?finish, ?siph, ?barrier, ?notify, ?readback⟩
  case load =>
    refine fun w hop hhead => ⟨fun hknown => ?_, fun hd img hfree hheader himage hheaderOk himageOk hunpaired hroom => ?_⟩
    · rw [exec_graphLoad_of_head hop hhead, loadGraph, if_pos hknown]
    · refine ⟨_, exec_graphLoad_of_head hop hhead, ?_⟩
      rw [loadGraph_of_valid hfree hheader himage hheaderOk himageOk hunpaired hroom]
      exact ⟨rfl, rfl, rfl, rfl⟩
  case unload =>
    refine fun w hop hhead => ⟨fun hnone => ?_, fun g hg hloaded => ?_⟩
    · rw [exec_graphUnload_of_head hop hhead, unloadGraph, hnone]
    · refine ⟨_, exec_graphUnload_of_head hop hhead, ?_⟩
      rw [unloadGraph_of_known hg hloaded]
      exact ⟨rfl, fun x hx => unloaded_of_mem_markUnloaded (mem_of_mem_dropGraphs hx),
        fun x hx hid hunloaded => mem_dropGraphs (mem_markUnloaded_of_ne hx hid) hunloaded, rfl, rfl⟩
  case release =>
    intro w host hop hhead i
    have hi := exec_of_release_or_cancel hop hhead
    refine ⟨fun hnone => ?_, fun hknown hheld => ?_, fun x g n hknown hheld => ?_⟩
    · exact hi.trans (congrArg _ (onHeld_of_unknown _ hnone))
    · exact hi.trans (congrArg _ (onHeld_of_not_held _ hknown hheld))
    · exact hi.trans (congrArg _ (onHeld_of_held _ hknown hheld))
  case trigger =>
    intro q size w hq hsize x
    refine ⟨fun r htest => ?_, fun ps htest => ?_, rfl, testTrigger_of_unknown, fun g => testTrigger_of_known⟩
    · refine ⟨_, exec_triggerWrite_of_error hq hsize htest, ?_⟩
      exact ⟨(tqueue_fset ..).trans (if_pos rfl), fun p hp => (tqueue_fset ..).trans (if_neg (Ne.symm hp)), rfl⟩
    · refine ⟨_, trigOf s.hub.nextInst w ps, exec_triggerWrite_of_ok hq hsize htest, ?_⟩
      exact ⟨(tqueue_fset ..).trans (if_pos rfl), rfl, rfl, rfl, rfl, rfl⟩
  case start =>
    refine fun q x rest g hqueue hroom hgraph => ⟨fun hfree => ?_, exec_instanceStart_of_held hqueue⟩
    refine ⟨_, exec_instanceStart hqueue hroom hgraph hfree, ?_⟩
    obtain ⟨hqueues, hinsts, hmem, hcores⟩ := readyFirst_frame (s.modHub fun h =>
      { h with insts := h.insts ++ [instOf g x q], queues := fset h.queues q { s.hub.tqueue q with queue := rest } }) x.id
      (instOf g x q).nodes.length
    refine ⟨?_, hinsts.trans (List.length_append ..), hmem, hcores⟩
    rw [Hub.tqueue, hqueues]
    exact congrArg TQueue.queue (fgetD_fset_same ..)
  case kernel =>
    intro inst node i g n hready end_
    refine ⟨exec_kernelReserve_of_no_list hready, fun bs hbays =>
      ⟨exec_kernelReserve_of_invalid hready hbays, fun hlist htag hparams hregions => ?_⟩⟩
    have hres := exec_kernelReserve_of_valid hready hbays hlist htag hparams hregions
    refine ⟨fun hbad => ?_, fun hgood => ⟨fun hbusy => ?_, fun hlater => ?_, fun hfree hfirst => ?_⟩⟩
    · exact hres.trans (congrArg _ (if_pos hbad))
    all_goals rw [if_neg (by rw [hgood]; decide)] at hres
    · exact hres.trans (congrArg _ (if_pos (by rw [hbusy]; rfl)))
    · exact hres.trans (congrArg _ (if_pos (by rw [hlater, Bool.or_true])))
    · exact hres.trans (congrArg _ (if_neg (by rw [hfree, hfirst]; decide)))
  case finish =>
    refine fun idx l hlaunch => ⟨fun hidle haway => ?_, fun hwait => ?_⟩
    · rw [exec_launchFinish hlaunch, hidle, haway]; rfl
    · have hnot : ¬ (launchIdle s l && !(launchAway s l)) = true := by rcases hwait with h | h <;> simp [h]
      rw [exec_launchFinish hlaunch, if_neg hnot]
  case siph =>
    refine fun inst node i g n hready => ⟨fun c hcmd => ?_, exec_siphNodeStart_of_none hready⟩
    exact ⟨_, _, exec_siphNodeStart_of_some hready hcmd, queue_queueSiph .., rfl, rfl, rfl⟩
  case barrier =>
    intro inst node i g n hnode hkind a healed'
    have hheal : healed' = healed g.ctx n := rfl
    rw [hheal]
    refine ⟨fun hst hzero => ?_, fun hst hobject hlook => ?_, fun hst hobject hlook => ?_, fun hst hobject =>
      ⟨fun hmoved => ?_, fun hmoved => ?_, fun hmoved haway => ?_, fun hmoved hback => ⟨fun hlook => ?_, fun hlook => ?_⟩⟩⟩
    · rw [exec_barrierNodeStart_of_ready hnode hkind hst, barrierNode_of_zero hzero]
    · rw [exec_barrierNodeStart_of_ready hnode hkind hst, barrierNode_of_wait hobject hlook]
    · rw [exec_barrierNodeStart_of_ready hnode hkind hst, barrierNode_of_invalid hobject hlook]
    · rw [exec_barrierNodeStart_of_running hnode hkind hst, barrierEnd, hmoved]
    · rw [exec_barrierNodeStart_of_running hnode hkind hst, barrierEnd, hmoved]
    · rw [exec_barrierNodeStart_of_running hnode hkind hst, barrierEnd, hmoved]; exact congrArg _ (if_pos haway)
    · rw [exec_barrierNodeStart_of_running hnode hkind hst, barrierEnd_of_back hmoved hback, barrierNode_of_moved hobject hlook]
    · rw [exec_barrierNodeStart_of_running hnode hkind hst, barrierEnd_of_back hmoved hback, barrierNode_of_broken hobject hlook]
  case notify =>
    refine fun inst node i g n x h m hready hnode => ⟨exec_notifyHostNodeStart_of_vector hready hnode, fun hlow hhigh =>
      ⟨exec_notifyHostNodeStart_of_no_record hready hnode hlow hhigh, fun haddr hallowed => ?_⟩⟩
    exact ⟨_, _, exec_notifyHostNodeStart_of_record hready hnode hlow hhigh haddr hallowed,
      List.append_assoc s.outs [_] [_], length_recordBytes .., rfl⟩
  case readback =>
    intro inst node ok i g n q hnode hkind hst hreq
    rw [exec_notifyHostReadback hnode hkind hst hreq, Nat.mul_comm s.hub.fablim.toNat]
    refine ⟨fun hopen hearly => ?_, fun hover => ?_⟩
    · rw [hopen, decide_eq_true hearly, Option.isNone_none, Bool.and_true, Bool.and_true]
    · have hfails : (ok && q.resp.isNone && decide (s.hub.time.toNat < q.start + 1000 * s.hub.fablim.toNat)) = false := by
        rcases hover with h | h
        · simp [Option.isNone_eq_false_iff.2 h]
        · simp [Nat.not_lt.2 h]
      rw [hfails]

end Sys2Proof.Proofs

namespace Sys2Proof.Proofs

open Sys2Proof Sys2Proof.Machine Sys2Proof.Laws

/-! ### Codes and fields of an instruction word, read back -/

@[simp] theorem ExtCode.ofCode_eq_some {n : Nat} {c : ExtCode} : ExtCode.ofCode n = some c ↔ n = c.code :=
  ⟨fun h => by unfold ExtCode.ofCode at h; split at h <;> cases h <;> rfl, fun h => h ▸ Laws.ExtCode.ofCode_code c⟩
@[simp] theorem Cond.ofCode_eq_some {n : Nat} {c : Cond} : Cond.ofCode n = some c ↔ n = c.code :=
  ⟨fun h => by unfold Cond.ofCode at h; split at h <;> cases h <;> rfl, fun h => h ▸ Laws.Cond.ofCode_code c⟩
@[simp] theorem CapField.ofCode_eq_some {n : Nat} {c : CapField} : CapField.ofCode n = some c ↔ n = c.code :=
  ⟨fun h => by unfold CapField.ofCode at h; split at h <;> cases h <;> rfl, fun h => h ▸ Laws.CapField.ofCode_code c⟩
@[simp] theorem LdWidth.ofCode_eq_some {n : Nat} {c : LdWidth} : LdWidth.ofCode n = some c ↔ n = c.code :=
  ⟨fun h => by unfold LdWidth.ofCode at h; split at h <;> cases h <;> rfl, fun h => h ▸ Laws.LdWidth.ofCode_code c⟩
@[simp] theorem StWidth.ofCode_eq_some {n : Nat} {c : StWidth} : StWidth.ofCode n = some c ↔ n = c.code :=
  ⟨fun h => by unfold StWidth.ofCode at h; split at h <;> cases h <;> rfl, fun h => h ▸ Laws.StWidth.ofCode_code c⟩
@[simp] theorem ElemWidth.ofCode_eq_some {n : Nat} {c : ElemWidth} : ElemWidth.ofCode n = some c ↔ n = c.code :=
  ⟨fun h => by unfold ElemWidth.ofCode at h; split at h <;> cases h <;> rfl, fun h => h ▸ Laws.ElemWidth.ofCode_code c⟩
@[simp] theorem WideElem.ofCode_eq_some {n : Nat} {c : WideElem} : WideElem.ofCode n = some c ↔ n = c.code :=
  ⟨fun h => by unfold WideElem.ofCode at h; split at h <;> cases h <;> rfl, fun h => h ▸ Laws.WideElem.ofCode_code c⟩
@[simp] theorem Order.ofCode_eq_some {n : Nat} {c : Order} : Order.ofCode n = some c ↔ n = c.code :=
  ⟨fun h => by unfold Order.ofCode at h; split at h <;> cases h <;> rfl, fun h => h ▸ Laws.Order.ofCode_code c⟩
@[simp] theorem AmoOp.ofCode_eq_some {n : Nat} {c : AmoOp} : AmoOp.ofCode n = some c ↔ n = c.code :=
  ⟨fun h => by unfold AmoOp.ofCode at h; split at h <;> cases h <;> rfl, fun h => h ▸ Laws.AmoOp.ofCode_code c⟩
@[simp] theorem FpFmt.ofCode_eq_some {n : Nat} {c : FpFmt} : FpFmt.ofCode n = some c ↔ n = c.code :=
  ⟨fun h => by unfold FpFmt.ofCode at h; split at h <;> cases h <;> rfl, fun h => h ▸ Laws.FpFmt.ofCode_code c⟩
@[simp] theorem VfFmt.ofCode_eq_some {n : Nat} {c : VfFmt} : VfFmt.ofCode n = some c ↔ n = c.code :=
  ⟨fun h => by unfold VfFmt.ofCode at h; split at h <;> cases h <;> rfl, fun h => h ▸ Laws.VfFmt.ofCode_code c⟩
@[simp] theorem FcmpOp.ofCode_eq_some {n : Nat} {c : FcmpOp} : FcmpOp.ofCode n = some c ↔ n = c.code :=
  ⟨fun h => by unfold FcmpOp.ofCode at h; split at h <;> cases h <;> rfl, fun h => h ▸ Laws.FcmpOp.ofCode_code c⟩
@[simp] theorem FcvtCode.ofCode_eq_some {n : Nat} {c : FcvtCode} : FcvtCode.ofCode n = some c ↔ n = c.code :=
  ⟨fun h => by unfold FcvtCode.ofCode at h; split at h <;> cases h <;> rfl, fun h => h ▸ Laws.FcvtCode.ofCode_code c⟩
@[simp] theorem VcvtCode.ofCode_eq_some {n : Nat} {c : VcvtCode} : VcvtCode.ofCode n = some c ↔ n = c.code :=
  ⟨fun h => by unfold VcvtCode.ofCode at h; split at h <;> cases h <;> rfl, fun h => h ▸ Laws.VcvtCode.ofCode_code c⟩
@[simp] theorem RedOp.ofCode_eq_some {n : Nat} {c : RedOp} : RedOp.ofCode n = some c ↔ n = c.code :=
  ⟨fun h => by unfold RedOp.ofCode at h; split at h <;> cases h <;> rfl, fun h => h ▸ Laws.RedOp.ofCode_code c⟩
@[simp] theorem MaskOp.ofCode_eq_some {n : Nat} {c : MaskOp} : MaskOp.ofCode n = some c ↔ n = c.code :=
  ⟨fun h => by unfold MaskOp.ofCode at h; split at h <;> cases h <;> rfl, fun h => h ▸ Laws.MaskOp.ofCode_code c⟩
@[simp] theorem MaskCond.ofCode_eq_some {n : Nat} {c : MaskCond} : MaskCond.ofCode n = some c ↔ n = c.code :=
  ⟨fun h => by unfold MaskCond.ofCode at h; split at h <;> cases h <;> rfl, fun h => h ▸ Laws.MaskCond.ofCode_code c⟩
@[simp] theorem SwmrSel.ofCode_eq_some {n : Nat} {c : SwmrSel} : SwmrSel.ofCode n = some c ↔ n = c.code :=
  ⟨fun h => by unfold SwmrSel.ofCode at h; split at h <;> cases h <;> rfl, fun h => h ▸ Laws.SwmrSel.ofCode_code c⟩
@[simp] theorem AccKind.ofCode_eq_some {n : Nat} {c : AccKind} : AccKind.ofCode n = some c ↔ n = c.code :=
  ⟨fun h => by unfold AccKind.ofCode at h; split at h <;> cases h <;> rfl, fun h => h ▸ Laws.AccKind.ofCode_code c⟩
@[simp] theorem SysReg.ofCode_eq_some {n : Nat} {c : SysReg} : SysReg.ofCode n = some c ↔ n = c.code :=
  ⟨fun h => by unfold SysReg.ofCode at h; split at h <;> cases h <;> rfl, fun h => h ▸ Laws.SysReg.ofCode_code c⟩
@[simp] theorem CachePol.ofCode_eq_some {n : Nat} {c : CachePol} : CachePol.ofCode n = some c ↔ n = c.code :=
  ⟨fun h => by unfold CachePol.ofCode at h; split at h <;> cases h <;> rfl, fun h => h ▸ Laws.CachePol.ofCode_code c⟩

@[simp] theorem toNat_bits (x : Insn) (lo n : Nat) : (bits x lo n).toNat = fld x lo n := by
  simp [bits, fld]

@[simp] theorem b2n_bit (x : Insn) (lo : Nat) : b2n (bit x lo) = fld x lo 1 := by
  have hlt : fld x lo 1 < 2 := Nat.mod_lt _ (by decide)
  have hcases : fld x lo 1 = 0 ∨ fld x lo 1 = 1 := by omega
  obtain h | h := hcases <;> simp [b2n, bit, h]

/-- The fields of the widths `ns` that lie in `x` from bit `lo` up, put together again. -/
def tiled (x : Insn) : Nat → List Nat → Nat
  | _, [] => 0
  | lo, n :: ns => fld x lo n + 2 ^ n * tiled x (lo + n) ns

theorem tiled_eq_fld (x : Insn) (ns : List Nat) : ∀ lo, tiled x lo ns = fld x lo ns.sum := by
  induction ns with
  | nil => intro lo; simp [tiled, fld, Nat.mod_one]
  | cons n ns ih =>
    intro lo
    rw [tiled, ih, List.sum_cons, fld, fld, fld, Nat.pow_add, ← Nat.div_div_eq_div_mul, Nat.pow_add]
    exact (Nat.mod_mul ..).symm

/-- A word is its fields put together, in every layout of 32 bits. -/
theorem toNat_eq_tiled (x : Insn) (layouts : List (List Nat)) (h : ∀ ns ∈ layouts, ns.sum = 32) :
    ∀ ns ∈ layouts, x.toNat = tiled x 0 ns := by
  intro ns hns
  rw [tiled_eq_fld, h ns hns, fld, Nat.pow_zero, Nat.div_one, Nat.mod_eq_of_lt x.isLt]

/-! ### Every row of the decoder reads all the bits of its word (R73 to R82)

Each row's fields, with the ones it fixes, tile the word, and the encoder puts the same fields in the same places. -/

/-- What a row of the decoder answers for `x`, if it answers, is an instruction whose word is `x`. -/
def Encodes (x : Insn) (o : Option Instr) : Prop := ∀ i, o = some i → encodeNat i = x.toNat ∧ i.hasWord = true

@[simp] theorem encodes_none (x : Insn) : Encodes x none := fun _ h => nomatch h

@[simp] theorem encodes_some {x : Insn} {i : Instr} : Encodes x (some i) ↔ encodeNat i = x.toNat ∧ i.hasWord = true := by
  simp [Encodes]

@[simp] theorem encodes_map {α : Type} {x : Insn} {o : Option α} {f : α → Instr} :
    Encodes x (o.map f) ↔ ∀ c, o = some c → Encodes x (some (f c)) := by
  cases o <;> simp [Encodes]

@[simp] theorem encodes_bind {α : Type} {x : Insn} {o : Option α} {f : α → Option Instr} :
    Encodes x (o.bind f) ↔ ∀ c, o = some c → Encodes x (f c) := by
  cases o <;> simp [Encodes]

theorem encodes_ite {x : Insn} {c : Prop} [Decidable c] {a b : Option Instr} (hthen : c → Encodes x a) (helse : Encodes x b) :
    Encodes x (if c then a else b) := by
  split
  · next hc => exact hthen hc
  · exact helse

theorem encodes_decodeMajor01 {x : Insn} (hmajor : fld x 26 6 = 0x01) : Encodes x (decodeMajor01 x) := by
  have hfields := toNat_eq_tiled x [[7, 1, 6, 6, 6, 6], [8, 6, 6, 6, 6], [4, 3, 1, 6, 6, 6, 6]] (by decide)
  simp only [List.forall_mem_cons, tiled, Nat.reduceAdd] at hfields
  unfold decodeMajor01
  repeat' refine encodes_ite (fun hrow => ?_) ?_
  all_goals simp
  all_goals delta encodeNat Instr.hasWord Instr.isEvent
  all_goals simp
  all_goals omega

theorem encodes_decodeMajor02 {x : Insn} (hmajor : fld x 26 6 = 0x02) : Encodes x (decodeMajor02 x) := by
  have hfields := toNat_eq_tiled x [[14, 6, 6, 6]] (by decide)
  simp only [List.forall_mem_cons, tiled, Nat.reduceAdd] at hfields
  unfold decodeMajor02
  simp
  delta encodeNat Instr.hasWord Instr.isEvent
  simp
  omega

theorem encodes_decodeMajor03 {x : Insn} (hmajor : fld x 26 6 = 0x03) : Encodes x (decodeMajor03 x) := by
  have hfields := toNat_eq_tiled x [[14, 6, 6, 6]] (by decide)
  simp only [List.forall_mem_cons, tiled, Nat.reduceAdd] at hfields
  unfold decodeMajor03
  simp
  delta encodeNat Instr.hasWord Instr.isEvent
  simp
  omega

theorem encodes_decodeMajor04 {x : Insn} (hmajor : fld x 26 6 = 0x04) : Encodes x (decodeMajor04 x) := by
  have hfields := toNat_eq_tiled x [[14, 6, 6, 6]] (by decide)
  simp only [List.forall_mem_cons, tiled, Nat.reduceAdd] at hfields
  unfold decodeMajor04
  simp
  delta encodeNat Instr.hasWord Instr.isEvent
  simp
  omega

theorem encodes_decodeMajor05 {x : Insn} (hmajor : fld x 26 6 = 0x05) : Encodes x (decodeMajor05 x) := by
  have hfields := toNat_eq_tiled x [[14, 6, 6, 6]] (by decide)
  simp only [List.forall_mem_cons, tiled, Nat.reduceAdd] at hfields
  unfold decodeMajor05
  simp
  delta encodeNat Instr.hasWord Instr.isEvent
  simp
  omega

theorem encodes_decodeMajor06 {x : Insn} (hmajor : fld x 26 6 = 0x06) : Encodes x (decodeMajor06 x) := by
  have hfields := toNat_eq_tiled x [[6, 8, 6, 6, 6]] (by decide)
  simp only [List.forall_mem_cons, tiled, Nat.reduceAdd] at hfields
  unfold decodeMajor06
  repeat' refine encodes_ite (fun hrow => ?_) ?_
  all_goals simp
  all_goals delta encodeNat Instr.hasWord Instr.isEvent
  all_goals simp
  all_goals omega

theorem encodes_decodeMajor07 {x : Insn} (hmajor : fld x 26 6 = 0x07) : Encodes x (decodeMajor07 x) := by
  have hfields := toNat_eq_tiled x [[10, 4, 6, 6, 6]] (by decide)
  simp only [List.forall_mem_cons, tiled, Nat.reduceAdd] at hfields
  unfold decodeMajor07
  simp
  delta encodeNat Instr.hasWord Instr.isEvent
  simp
  omega

theorem encodes_decodeMajor08 {x : Insn} (hmajor : fld x 26 6 = 0x08) : Encodes x (decodeMajor08 x) := by
  have hfields := toNat_eq_tiled x [[20, 6, 6]] (by decide)
  simp only [List.forall_mem_cons, tiled, Nat.reduceAdd] at hfields
  unfold decodeMajor08
  simp
  delta encodeNat Instr.hasWord Instr.isEvent
  simp
  omega

theorem encodes_decodeMajor09 {x : Insn} (hmajor : fld x 26 6 = 0x09) : Encodes x (decodeMajor09 x) := by
  have hfields := toNat_eq_tiled x [[2, 6, 6, 6, 6, 6]] (by decide)
  simp only [List.forall_mem_cons, tiled, Nat.reduceAdd] at hfields
  unfold decodeMajor09
  repeat' refine encodes_ite (fun hrow => ?_) ?_
  all_goals simp
  all_goals delta encodeNat Instr.hasWord Instr.isEvent
  all_goals simp
  all_goals omega

theorem encodes_decodeMajor0A {x : Insn} (hmajor : fld x 26 6 = 0x0A) : Encodes x (decodeMajor0A x) := by
  have hfields := toNat_eq_tiled x [[8, 6, 6, 6, 6]] (by decide)
  simp only [List.forall_mem_cons, tiled, Nat.reduceAdd] at hfields
  unfold decodeMajor0A
  repeat' refine encodes_ite (fun hrow => ?_) ?_
  all_goals simp
  all_goals delta encodeNat Instr.hasWord Instr.isEvent
  all_goals simp
  all_goals omega

theorem encodes_decodeMajor0B {x : Insn} (hmajor : fld x 26 6 = 0x0B) : Encodes x (decodeMajor0B x) := by
  have hfields := toNat_eq_tiled x [[14, 6, 6, 6]] (by decide)
  simp only [List.forall_mem_cons, tiled, Nat.reduceAdd] at hfields
  unfold decodeMajor0B
  simp
  delta encodeNat Instr.hasWord Instr.isEvent
  simp
  omega

theorem encodes_decodeMajor0C {x : Insn} (hmajor : fld x 26 6 = 0x0C) : Encodes x (decodeMajor0C x) := by
  have hfields := toNat_eq_tiled x [[11, 3, 6, 6, 6]] (by decide)
  simp only [List.forall_mem_cons, tiled, Nat.reduceAdd] at hfields
  unfold decodeMajor0C
  simp
  delta encodeNat Instr.hasWord Instr.isEvent
  simp
  omega

theorem encodes_decodeMajor0D {x : Insn} (hmajor : fld x 26 6 = 0x0D) : Encodes x (decodeMajor0D x) := by
  have hfields := toNat_eq_tiled x [[11, 3, 6, 6, 6]] (by decide)
  simp only [List.forall_mem_cons, tiled, Nat.reduceAdd] at hfields
  unfold decodeMajor0D
  simp
  delta encodeNat Instr.hasWord Instr.isEvent
  simp
  omega

theorem encodes_decodeMajor0E {x : Insn} (hmajor : fld x 26 6 = 0x0E) : Encodes x (decodeMajor0E x) := by
  have hfields := toNat_eq_tiled x [[12, 3, 6, 5, 6]] (by decide)
  simp only [List.forall_mem_cons, tiled, Nat.reduceAdd] at hfields
  unfold decodeMajor0E
  simp
  delta encodeNat Instr.hasWord Instr.isEvent
  simp
  omega

theorem encodes_decodeMajor0F {x : Insn} (hmajor : fld x 26 6 = 0x0F) : Encodes x (decodeMajor0F x) := by
  have hfields := toNat_eq_tiled x [[12, 3, 6, 5, 6]] (by decide)
  simp only [List.forall_mem_cons, tiled, Nat.reduceAdd] at hfields
  unfold decodeMajor0F
  simp
  delta encodeNat Instr.hasWord Instr.isEvent
  simp
  omega

theorem encodes_decodeMajor10 {x : Insn} (hmajor : fld x 26 6 = 0x10) : Encodes x (decodeMajor10 x) := by
  have hfields := toNat_eq_tiled x [[2, 3, 1, 2, 6, 6, 5, 1, 6]] (by decide)
  simp only [List.forall_mem_cons, tiled, Nat.reduceAdd] at hfields
  unfold decodeMajor10
  repeat' refine encodes_ite (fun hrow => ?_) ?_
  all_goals simp
  all_goals delta encodeNat Instr.hasWord Instr.isEvent
  all_goals simp
  all_goals omega

theorem encodes_decodeMajor11 {x : Insn} (hmajor : fld x 26 6 = 0x11) : Encodes x (decodeMajor11 x) := by
  have hfields := toNat_eq_tiled x [[2, 3, 1, 2, 5, 1, 6, 5, 1, 6]] (by decide)
  simp only [List.forall_mem_cons, tiled, Nat.reduceAdd] at hfields
  unfold decodeMajor11
  repeat' refine encodes_ite (fun hrow => ?_) ?_
  all_goals simp
  all_goals delta encodeNat Instr.hasWord Instr.isEvent
  all_goals simp
  all_goals omega

theorem encodes_decodeMajor12 {x : Insn} (hmajor : fld x 26 6 = 0x12) : Encodes x (decodeMajor12 x) := by
  have hfields := toNat_eq_tiled x [[4, 1, 3, 6, 6, 6, 6]] (by decide)
  simp only [List.forall_mem_cons, tiled, Nat.reduceAdd] at hfields
  unfold decodeMajor12
  simp
  delta encodeNat Instr.hasWord Instr.isEvent
  simp
  omega

theorem encodes_decodeMajor13 {x : Insn} (hmajor : fld x 26 6 = 0x13) : Encodes x (decodeMajor13 x) := by
  have hfields := toNat_eq_tiled x [[4, 1, 3, 6, 6, 6, 6]] (by decide)
  simp only [List.forall_mem_cons, tiled, Nat.reduceAdd] at hfields
  unfold decodeMajor13
  repeat' refine encodes_ite (fun hrow => ?_) ?_
  all_goals simp
  all_goals delta encodeNat Instr.hasWord Instr.isEvent
  all_goals simp
  all_goals omega

theorem encodes_decodeMajor14 {x : Insn} (hmajor : fld x 26 6 = 0x14) : Encodes x (decodeMajor14 x) := by
  have hfields := toNat_eq_tiled x [[3, 1, 4, 5, 13, 6]] (by decide)
  simp only [List.forall_mem_cons, tiled, Nat.reduceAdd] at hfields
  unfold decodeMajor14
  repeat' refine encodes_ite (fun hrow => ?_) ?_
  all_goals simp
  all_goals delta encodeNat Instr.hasWord Instr.isEvent
  all_goals simp
  all_goals omega

theorem encodes_decodeMajor15 {x : Insn} (hmajor : fld x 26 6 = 0x15) : Encodes x (decodeMajor15 x) := by
  have hfields := toNat_eq_tiled x [[8, 6, 6, 6, 6]] (by decide)
  simp only [List.forall_mem_cons, tiled, Nat.reduceAdd] at hfields
  unfold decodeMajor15
  repeat' refine encodes_ite (fun hrow => ?_) ?_
  all_goals simp
  all_goals delta encodeNat Instr.hasWord Instr.isEvent
  all_goals simp
  all_goals omega

theorem encodes_decodeMajor16 {x : Insn} (hmajor : fld x 26 6 = 0x16) : Encodes x (decodeMajor16 x) := by
  have hfields := toNat_eq_tiled x [[7, 1, 6, 6, 6, 6]] (by decide)
  simp only [List.forall_mem_cons, tiled, Nat.reduceAdd] at hfields
  unfold decodeMajor16
  repeat' refine encodes_ite (fun hrow => ?_) ?_
  all_goals simp
  all_goals delta encodeNat Instr.hasWord Instr.isEvent
  all_goals simp
  all_goals omega

theorem encodes_decodeMajor17 {x : Insn} (hmajor : fld x 26 6 = 0x17) : Encodes x (decodeMajor17 x) := by
  have hfields := toNat_eq_tiled x [[6, 2, 6, 6, 6, 6], [2, 4, 2, 6, 6, 6, 6]] (by decide)
  simp only [List.forall_mem_cons, tiled, Nat.reduceAdd] at hfields
  unfold decodeMajor17
  repeat' refine encodes_ite (fun hrow => ?_) ?_
  all_goals simp
  all_goals delta encodeNat Instr.hasWord Instr.isEvent
  all_goals simp
  all_goals omega

theorem encodes_decodeMajor18 {x : Insn} (hmajor : fld x 26 6 = 0x18) : Encodes x (decodeMajor18 x) := by
  have hfields := toNat_eq_tiled x [[6, 2, 3, 5, 5, 5, 6], [4, 2, 2, 3, 5, 5, 3, 2, 6]] (by decide)
  simp only [List.forall_mem_cons, tiled, Nat.reduceAdd] at hfields
  unfold decodeMajor18
  repeat' refine encodes_ite (fun hrow => ?_) ?_
  all_goals simp
  all_goals delta encodeNat Instr.hasWord Instr.isEvent
  all_goals simp
  all_goals omega

theorem encodes_decodeMajor19 {x : Insn} (hmajor : fld x 26 6 = 0x19) : Encodes x (decodeMajor19 x) := by
  have hfields := toNat_eq_tiled x [[6, 2, 3, 5, 5, 5, 6], [2, 4, 2, 3, 5, 5, 3, 2, 6]] (by decide)
  simp only [List.forall_mem_cons, tiled, Nat.reduceAdd] at hfields
  unfold decodeMajor19
  repeat' refine encodes_ite (fun hrow => ?_) ?_
  all_goals simp
  all_goals delta encodeNat Instr.hasWord Instr.isEvent
  all_goals simp
  all_goals omega

theorem encodes_decodeMajor1A {x : Insn} (hmajor : fld x 26 6 = 0x1A) : Encodes x (decodeMajor1A x) := by
  have hfields := toNat_eq_tiled x [[6, 2, 6, 6, 5, 1, 6], [6, 2, 6, 5, 1, 6, 6], [6, 2, 3, 3, 5, 1, 6, 6], [6, 2, 6, 3, 3, 6, 6], [6, 2, 6, 6, 3, 3, 6]] (by decide)
  simp only [List.forall_mem_cons, tiled, Nat.reduceAdd] at hfields
  unfold decodeMajor1A
  repeat' refine encodes_ite (fun hrow => ?_) ?_
  all_goals simp
  all_goals delta encodeNat Instr.hasWord Instr.isEvent
  all_goals simp
  all_goals omega

theorem encodes_decodeMajor1B {x : Insn} (hmajor : fld x 26 6 = 0x1B) : Encodes x (decodeMajor1B x) := by
  have hfields := toNat_eq_tiled x [[6, 2, 3, 5, 5, 5, 6], [6, 2, 3, 10, 5, 6], [6, 2, 3, 3, 2, 3, 2, 3, 2, 6]] (by decide)
  simp only [List.forall_mem_cons, tiled, Nat.reduceAdd] at hfields
  unfold decodeMajor1B
  repeat' refine encodes_ite (fun hrow => ?_) ?_
  all_goals simp
  all_goals delta encodeNat Instr.hasWord Instr.isEvent
  all_goals simp
  all_goals omega

theorem encodes_decodeMajor1C {x : Insn} (hmajor : fld x 26 6 = 0x1C) : Encodes x (decodeMajor1C x) := by
  have hfields := toNat_eq_tiled x [[26, 6]] (by decide)
  simp only [List.forall_mem_cons, tiled, Nat.reduceAdd] at hfields
  unfold decodeMajor1C
  simp
  delta encodeNat Instr.hasWord Instr.isEvent
  simp
  omega

theorem encodes_decodeMajor1D {x : Insn} (hmajor : fld x 26 6 = 0x1D) : Encodes x (decodeMajor1D x) := by
  have hfields := toNat_eq_tiled x [[10, 6, 6, 4, 6]] (by decide)
  simp only [List.forall_mem_cons, tiled, Nat.reduceAdd] at hfields
  unfold decodeMajor1D
  simp
  delta encodeNat Instr.hasWord Instr.isEvent
  simp
  omega

theorem encodes_decodeMajor1E {x : Insn} (hmajor : fld x 26 6 = 0x1E) : Encodes x (decodeMajor1E x) := by
  have hfields := toNat_eq_tiled x [[10, 3, 3, 3, 3, 4, 6]] (by decide)
  simp only [List.forall_mem_cons, tiled, Nat.reduceAdd] at hfields
  unfold decodeMajor1E
  repeat' refine encodes_ite (fun hrow => ?_) ?_
  all_goals simp
  all_goals delta encodeNat Instr.hasWord Instr.isEvent
  all_goals simp
  all_goals omega

theorem encodes_decodeMajor1F {x : Insn} (hmajor : fld x 26 6 = 0x1F) : Encodes x (decodeMajor1F x) := by
  have hfields := toNat_eq_tiled x [[26, 6]] (by decide)
  simp only [List.forall_mem_cons, tiled, Nat.reduceAdd] at hfields
  unfold decodeMajor1F
  simp
  delta encodeNat Instr.hasWord Instr.isEvent
  simp
  omega

theorem encodes_decodeMajor20 {x : Insn} (hmajor : fld x 26 6 = 0x20) : Encodes x (decodeMajor20 x) := by
  have hfields := toNat_eq_tiled x [[14, 6, 6, 6], [26, 6]] (by decide)
  simp only [List.forall_mem_cons, tiled, Nat.reduceAdd] at hfields
  unfold decodeMajor20
  repeat' refine encodes_ite (fun hrow => ?_) ?_
  all_goals simp
  all_goals delta encodeNat Instr.hasWord Instr.isEvent
  all_goals simp
  all_goals omega

theorem encodes_decodeMajor21 {x : Insn} (hmajor : fld x 26 6 = 0x21) : Encodes x (decodeMajor21 x) := by
  have hfields := toNat_eq_tiled x [[26, 6]] (by decide)
  simp only [List.forall_mem_cons, tiled, Nat.reduceAdd] at hfields
  unfold decodeMajor21
  repeat' refine encodes_ite (fun hrow => ?_) ?_
  all_goals simp
  all_goals delta encodeNat Instr.hasWord Instr.isEvent
  all_goals simp
  all_goals omega

theorem encodes_decodeMajor22 {x : Insn} (hmajor : fld x 26 6 = 0x22) : Encodes x (decodeMajor22 x) := by
  have hfields := toNat_eq_tiled x [[5, 3, 6, 6, 6, 6], [5, 21, 6], [8, 6, 12, 6], [8, 6, 6, 6, 6], [8, 6, 6, 2, 4, 6]] (by decide)
  simp only [List.forall_mem_cons, tiled, Nat.reduceAdd] at hfields
  unfold decodeMajor22
  repeat' refine encodes_ite (fun hrow => ?_) ?_
  all_goals simp
  all_goals delta encodeNat Instr.hasWord Instr.isEvent
  all_goals simp
  all_goals omega

theorem encodes_decodeMajor23 {x : Insn} (hmajor : fld x 26 6 = 0x23) : Encodes x (decodeMajor23 x) := by
  have hfields := toNat_eq_tiled x [[8, 6, 6, 3, 3, 6], [20, 3, 3, 6], [14, 3, 3, 6, 6]] (by decide)
  simp only [List.forall_mem_cons, tiled, Nat.reduceAdd] at hfields
  unfold decodeMajor23
  repeat' refine encodes_ite (fun hrow => ?_) ?_
  all_goals simp
  all_goals delta encodeNat Instr.hasWord Instr.isEvent
  all_goals simp
  all_goals omega

theorem encodes_decodeMajor24 {x : Insn} (hmajor : fld x 26 6 = 0x24) : Encodes x (decodeMajor24 x) := by
  have hfields := toNat_eq_tiled x [[6, 2, 6, 6, 6, 6], [6, 8, 6, 6, 6]] (by decide)
  simp only [List.forall_mem_cons, tiled, Nat.reduceAdd] at hfields
  unfold decodeMajor24
  repeat' refine encodes_ite (fun hrow => ?_) ?_
  all_goals simp
  all_goals delta encodeNat Instr.hasWord Instr.isEvent
  all_goals simp
  all_goals omega

theorem encodes_decodeMajor25 {x : Insn} (hmajor : fld x 26 6 = 0x25) : Encodes x (decodeMajor25 x) := by
  have hfields := toNat_eq_tiled x [[8, 6, 6, 6, 6], [14, 6, 6, 6]] (by decide)
  simp only [List.forall_mem_cons, tiled, Nat.reduceAdd] at hfields
  unfold decodeMajor25
  repeat' refine encodes_ite (fun hrow => ?_) ?_
  all_goals simp
  all_goals delta encodeNat Instr.hasWord Instr.isEvent
  all_goals simp
  all_goals omega

theorem encodes_decodeMajor26 {x : Insn} (hmajor : fld x 26 6 = 0x26) : Encodes x (decodeMajor26 x) := by
  have hfields := toNat_eq_tiled x [[14, 6, 4, 2, 6], [8, 4, 8, 6, 6], [8, 3, 9, 6, 6], [4, 1, 3, 4, 2, 4, 2, 3, 3, 6], [2, 18, 3, 3, 6], [2, 6, 6, 6, 3, 3, 6]] (by decide)
  simp only [List.forall_mem_cons, tiled, Nat.reduceAdd] at hfields
  unfold decodeMajor26
  repeat' refine encodes_ite (fun hrow => ?_) ?_
  all_goals simp
  all_goals delta encodeNat Instr.hasWord Instr.isEvent
  all_goals simp
  all_goals omega

theorem encodes_decodeMajor27 {x : Insn} (hmajor : fld x 26 6 = 0x27) : Encodes x (decodeMajor27 x) := by
  have hfields := toNat_eq_tiled x [[14, 6, 6, 6], [20, 6, 6]] (by decide)
  simp only [List.forall_mem_cons, tiled, Nat.reduceAdd] at hfields
  unfold decodeMajor27
  repeat' refine encodes_ite (fun hrow => ?_) ?_
  all_goals simp
  all_goals delta encodeNat Instr.hasWord Instr.isEvent
  all_goals simp
  all_goals omega

theorem encodes_decodeMajor28 {x : Insn} (hmajor : fld x 26 6 = 0x28) : Encodes x (decodeMajor28 x) := by
  have hfields := toNat_eq_tiled x [[8, 6, 6, 6, 6]] (by decide)
  simp only [List.forall_mem_cons, tiled, Nat.reduceAdd] at hfields
  unfold decodeMajor28
  repeat' refine encodes_ite (fun hrow => ?_) ?_
  all_goals simp
  all_goals delta encodeNat Instr.hasWord Instr.isEvent
  all_goals simp
  all_goals omega

theorem encodes_decodeMajor29 {x : Insn} (hmajor : fld x 26 6 = 0x29) : Encodes x (decodeMajor29 x) := by
  have hfields := toNat_eq_tiled x [[8, 6, 6, 6, 6], [14, 6, 6, 6], [8, 12, 6, 6], [26, 6]] (by decide)
  simp only [List.forall_mem_cons, tiled, Nat.reduceAdd] at hfields
  unfold decodeMajor29
  repeat' refine encodes_ite (fun hrow => ?_) ?_
  all_goals simp
  all_goals delta encodeNat Instr.hasWord Instr.isEvent
  all_goals simp
  all_goals omega

theorem encodes_decodeMajor3F {x : Insn} (hmajor : fld x 26 6 = 0x3F) : Encodes x (decodeMajor3F x) := by
  have hfields := toNat_eq_tiled x [[22, 4, 6], [5, 21, 6], [16, 10, 6], [2, 24, 6], [26, 6]] (by decide)
  simp only [List.forall_mem_cons, tiled, Nat.reduceAdd] at hfields
  unfold decodeMajor3F
  repeat' refine encodes_ite (fun hrow => ?_) ?_
  all_goals simp
  all_goals delta encodeNat Instr.hasWord Instr.isEvent
  all_goals simp
  all_goals omega

/-- The answer of a row, as `decodeFields` passes it on. -/
theorem encodes_of_ok {x : Insn} {o : Option Instr} {i : Instr} {r : Option Instr → Except DecodeError Instr} (ho : Encodes x o)
    (h : r o = .ok i) (hnone : r none = .error .illegalField) (hsome : ∀ j, r (some j) = .ok j) :
    encodeNat i = x.toNat ∧ i.hasWord = true := by
  cases o with
  | none => rw [hnone] at h; cases h
  | some j => rw [hsome] at h; cases h; exact ho i rfl

theorem encodeNat_of_decodeFields {w : Insn} {i : Instr} (h : decodeFields w = .ok i) :
    encodeNat i = w.toNat ∧ i.hasWord = true := by
  unfold decodeFields at h
  extract_lets r at h
  have hnone : r none = .error .illegalField := rfl
  have hsome : ∀ j, r (some j) = .ok j := fun _ => rfl
  split at h
  · exact encodes_of_ok (encodes_decodeMajor01 ‹_›) h hnone hsome
  · exact encodes_of_ok (encodes_decodeMajor02 ‹_›) h hnone hsome
  · exact encodes_of_ok (encodes_decodeMajor03 ‹_›) h hnone hsome
  · exact encodes_of_ok (encodes_decodeMajor04 ‹_›) h hnone hsome
  · exact encodes_of_ok (encodes_decodeMajor05 ‹_›) h hnone hsome
  · exact encodes_of_ok (encodes_decodeMajor06 ‹_›) h hnone hsome
  · exact encodes_of_ok (encodes_decodeMajor07 ‹_›) h hnone hsome
  · exact encodes_of_ok (encodes_decodeMajor08 ‹_›) h hnone hsome
  · exact encodes_of_ok (encodes_decodeMajor09 ‹_›) h hnone hsome
  · exact encodes_of_ok (encodes_decodeMajor0A ‹_›) h hnone hsome
  · exact encodes_of_ok (encodes_decodeMajor0B ‹_›) h hnone hsome
  · exact encodes_of_ok (encodes_decodeMajor0C ‹_›) h hnone hsome
  · exact encodes_of_ok (encodes_decodeMajor0D ‹_›) h hnone hsome
  · exact encodes_of_ok (encodes_decodeMajor0E ‹_›) h hnone hsome
  · exact encodes_of_ok (encodes_decodeMajor0F ‹_›) h hnone hsome
  · exact encodes_of_ok (encodes_decodeMajor10 ‹_›) h hnone hsome
  · exact encodes_of_ok (encodes_decodeMajor11 ‹_›) h hnone hsome
  · exact encodes_of_ok (encodes_decodeMajor12 ‹_›) h hnone hsome
  · exact encodes_of_ok (encodes_decodeMajor13 ‹_›) h hnone hsome
  · exact encodes_of_ok (encodes_decodeMajor14 ‹_›) h hnone hsome
  · exact encodes_of_ok (encodes_decodeMajor15 ‹_›) h hnone hsome
  · exact encodes_of_ok (encodes_decodeMajor16 ‹_›) h hnone hsome
  · exact encodes_of_ok (encodes_decodeMajor17 ‹_›) h hnone hsome
  · exact encodes_of_ok (encodes_decodeMajor18 ‹_›) h hnone hsome
  · exact encodes_of_ok (encodes_decodeMajor19 ‹_›) h hnone hsome
  · exact encodes_of_ok (encodes_decodeMajor1A ‹_›) h hnone hsome
  · exact encodes_of_ok (encodes_decodeMajor1B ‹_›) h hnone hsome
  · exact encodes_of_ok (encodes_decodeMajor1C ‹_›) h hnone hsome
  · exact encodes_of_ok (encodes_decodeMajor1D ‹_›) h hnone hsome
  · exact encodes_of_ok (encodes_decodeMajor1E ‹_›) h hnone hsome
  · exact encodes_of_ok (encodes_decodeMajor1F ‹_›) h hnone hsome
  · exact encodes_of_ok (encodes_decodeMajor20 ‹_›) h hnone hsome
  · exact encodes_of_ok (encodes_decodeMajor21 ‹_›) h hnone hsome
  · exact encodes_of_ok (encodes_decodeMajor22 ‹_›) h hnone hsome
  · exact encodes_of_ok (encodes_decodeMajor23 ‹_›) h hnone hsome
  · exact encodes_of_ok (encodes_decodeMajor24 ‹_›) h hnone hsome
  · exact encodes_of_ok (encodes_decodeMajor25 ‹_›) h hnone hsome
  · exact encodes_of_ok (encodes_decodeMajor26 ‹_›) h hnone hsome
  · exact encodes_of_ok (encodes_decodeMajor27 ‹_›) h hnone hsome
  · exact encodes_of_ok (encodes_decodeMajor28 ‹_›) h hnone hsome
  · exact encodes_of_ok (encodes_decodeMajor29 ‹_›) h hnone hsome
  · split at h
    · cases h
    · exact encodes_of_ok (encodes_decodeMajor3F ‹_›) h hnone hsome
  · cases h

/-! ### The rows that are more specific than another one have the same words as it -/

theorem encodeNat_amo_zero (a b : Reg) (o : Order) (w : Bool) (p : AmoOp) :
    encodeNat (.amoNoReturn a b o w p) = encodeNat (.amo 0 a b o w p) := by
  delta encodeNat
  simp

theorem encodeNat_sysw_rttw (a : Reg) : encodeNat (.syswRttw a) = encodeNat (.sysw a .rttw) := by
  delta encodeNat
  simp only [SysReg.code]
  omega

theorem encodeNat_sysw_twin (a : Reg) : encodeNat (.syswTwin a) = encodeNat (.sysw a .twin) := by
  delta encodeNat
  simp only [SysReg.code]
  omega

theorem encodeNat_sysw_scpbase (a : Reg) : encodeNat (.syswScpbase a) = encodeNat (.sysw a .scpbase) := by
  delta encodeNat
  simp only [SysReg.code]
  omega

/-! ### The decoder and the encoder agree (R71 to R85) -/

/-- An instruction with the same word as the one that the fields of `w` give has the word `w`. -/
theorem encode_of_decodeFields {w : Insn} {i j : Instr} (hfields : decodeFields w = .ok j) (hsame : encodeNat i = encodeNat j) :
    encode i = w := by
  obtain ⟨hword, -⟩ := encodeNat_of_decodeFields hfields
  rw [encode, hsame, hword, BitVec.ofNat_toNat, BitVec.setWidth_eq]

/-- Settles O57: each row of the decoder reads the whole word, and the rows that `decodeWord` makes more specific keep it. -/
theorem encodeDecode : Obligations.EncodeDecode := by
  unfold Obligations.EncodeDecode
  intro w i h
  unfold decodeWord at h
  split at h
  · cases h
  · next d a b o ww p hfields =>
    split at h
    · next hd => subst hd; cases h; exact ⟨encode_of_decodeFields hfields (encodeNat_amo_zero a b o ww p), rfl, rfl⟩
    · next hd => cases h; exact ⟨encode_of_decodeFields hfields rfl, decide_eq_true hd, rfl⟩
  · next a hfields => cases h; exact ⟨encode_of_decodeFields hfields (encodeNat_sysw_rttw a), rfl, rfl⟩
  · next a hfields => cases h; exact ⟨encode_of_decodeFields hfields (encodeNat_sysw_twin a), rfl, rfl⟩
  · next a hfields => cases h; exact ⟨encode_of_decodeFields hfields (encodeNat_sysw_scpbase a), rfl, rfl⟩
  · next j _ _ _ _ hfields =>
    split at h
    · next hwf =>
      cases h
      obtain ⟨-, hhas⟩ := encodeNat_of_decodeFields hfields
      exact ⟨encode_of_decodeFields hfields rfl, hwf, hhas⟩
    · cases h

/-- Settles O56, row by row of the encoder; an event has no word. -/
theorem decodeEncode : Obligations.DecodeEncode := by
  unfold Obligations.DecodeEncode
  intro i
  change RoundTrip.Statement i
  cases i with
  | add d a b w => exact RoundTrip.add d a b w
  | sub d a b w => exact RoundTrip.sub d a b w
  | and_ d a b w => exact RoundTrip.and_ d a b w
  | or_ d a b w => exact RoundTrip.or_ d a b w
  | xor_ d a b w => exact RoundTrip.xor_ d a b w
  | shl d a b w => exact RoundTrip.shl d a b w
  | shr d a b w => exact RoundTrip.shr d a b w
  | sra d a b w => exact RoundTrip.sra d a b w
  | mul d a b w => exact RoundTrip.mul d a b w
  | mulh d a b w => exact RoundTrip.mulh d a b w
  | mulhu d a b w => exact RoundTrip.mulhu d a b w
  | div d a b w => exact RoundTrip.div d a b w
  | divu d a b w => exact RoundTrip.divu d a b w
  | rem d a b w => exact RoundTrip.rem d a b w
  | remu d a b w => exact RoundTrip.remu d a b w
  | min d a b w => exact RoundTrip.min d a b w
  | max d a b w => exact RoundTrip.max d a b w
  | minu d a b w => exact RoundTrip.minu d a b w
  | maxu d a b w => exact RoundTrip.maxu d a b w
  | clz d a w => exact RoundTrip.clz d a w
  | popc d a w => exact RoundTrip.popc d a w
  | sel d a b => exact RoundTrip.sel d a b
  | sext d a c => exact RoundTrip.sext d a c
  | zext d a c => exact RoundTrip.zext d a c
  | cmp d a b w c => exact RoundTrip.cmp d a b w c
  | addi d a i => exact RoundTrip.addi d a i
  | andi d a i => exact RoundTrip.andi d a i
  | ori d a i => exact RoundTrip.ori d a i
  | xori d a i => exact RoundTrip.xori d a i
  | shli d a k => exact RoundTrip.shli d a k
  | shri d a k => exact RoundTrip.shri d a k
  | srai d a k => exact RoundTrip.srai d a k
  | cmpi d a c i => exact RoundTrip.cmpi d a c i
  | movi d i => exact RoundTrip.movi d i
  | bfxU d a p l => exact RoundTrip.bfxU d a p l
  | bfxS d a p l => exact RoundTrip.bfxS d a p l
  | bfi d a p l => exact RoundTrip.bfi d a p l
  | cbnd d a b => exact RoundTrip.cbnd d a b
  | cperm d a b => exact RoundTrip.cperm d a b
  | cinc d a b => exact RoundTrip.cinc d a b
  | cget d a s => exact RoundTrip.cget d a s
  | ctest d a b => exact RoundTrip.ctest d a b
  | cseta d a b => exact RoundTrip.cseta d a b
  | cinci d a i => exact RoundTrip.cinci d a i
  | ld d a w o => exact RoundTrip.ld d a w o
  | st s a w o => exact RoundTrip.st s a w o
  | vld v a m o => exact RoundTrip.vld v a m o
  | vst v a m o => exact RoundTrip.vst v a m o
  | vlds d a b w m => exact RoundTrip.vlds d a b w m
  | vsts d a b w m => exact RoundTrip.vsts d a b w m
  | vgath d a b w m => exact RoundTrip.vgath d a b w m
  | vscat d a b w m => exact RoundTrip.vscat d a b w m
  | amo d a b o w p => exact RoundTrip.amo d a b o w p
  | amoNoReturn a b o w p => exact RoundTrip.amoNoReturn a b o w p
  | cas d a b o w => exact RoundTrip.cas d a b o w
  | fence s c o => exact RoundTrip.fence s c o
  | pref a b => exact RoundTrip.pref a b
  | wbr a b => exact RoundTrip.wbr a b
  | invr a b => exact RoundTrip.invr a b
  | wbri a b => exact RoundTrip.wbri a b
  | ljoin a b r => exact RoundTrip.ljoin a b r
  | lwait d a b q => exact RoundTrip.lwait d a b q
  | fadd d a b f => exact RoundTrip.fadd d a b f
  | fsub d a b f => exact RoundTrip.fsub d a b f
  | fmul d a b f => exact RoundTrip.fmul d a b f
  | fdiv d a b f => exact RoundTrip.fdiv d a b f
  | fsqrt d a f => exact RoundTrip.fsqrt d a f
  | fmin d a b f => exact RoundTrip.fmin d a b f
  | fmax d a b f => exact RoundTrip.fmax d a b f
  | ffma d a b f => exact RoundTrip.ffma d a b f
  | fcmp d a b f c => exact RoundTrip.fcmp d a b f c
  | fcvt d a c f => exact RoundTrip.fcvt d a c f
  | vadd v a b m w => exact RoundTrip.vadd v a b m w
  | vsub v a b m w => exact RoundTrip.vsub v a b m w
  | vmul v a b m w => exact RoundTrip.vmul v a b m w
  | vmin v a b m w => exact RoundTrip.vmin v a b m w
  | vmax v a b m w => exact RoundTrip.vmax v a b m w
  | vminu v a b m w => exact RoundTrip.vminu v a b m w
  | vmaxu v a b m w => exact RoundTrip.vmaxu v a b m w
  | vand v a b m w => exact RoundTrip.vand v a b m w
  | vor v a b m w => exact RoundTrip.vor v a b m w
  | vxor v a b m w => exact RoundTrip.vxor v a b m w
  | vshl v a b m w => exact RoundTrip.vshl v a b m w
  | vshr v a b m w => exact RoundTrip.vshr v a b m w
  | vsra v a b m w => exact RoundTrip.vsra v a b m w
  | vcmp d a b m w c => exact RoundTrip.vcmp d a b m w c
  | vfadd v a b m f => exact RoundTrip.vfadd v a b m f
  | vfsub v a b m f => exact RoundTrip.vfsub v a b m f
  | vfmul v a b m f => exact RoundTrip.vfmul v a b m f
  | vfma v a b m f => exact RoundTrip.vfma v a b m f
  | vfmin v a b m f => exact RoundTrip.vfmin v a b m f
  | vfmax v a b m f => exact RoundTrip.vfmax v a b m f
  | vfdiv v a b m f => exact RoundTrip.vfdiv v a b m f
  | vfsqrt v a m f => exact RoundTrip.vfsqrt v a m f
  | vfcmp d a b m f c => exact RoundTrip.vfcmp d a b m f c
  | vbcast d a w => exact RoundTrip.vbcast d a w
  | vins d a b w => exact RoundTrip.vins d a b w
  | vext d a b w => exact RoundTrip.vext d a b w
  | vred d a o w => exact RoundTrip.vred d a o w
  | mtoc d a w => exact RoundTrip.mtoc d a w
  | ctom d a w => exact RoundTrip.ctom d a w
  | mcnt d a w => exact RoundTrip.mcnt d a w
  | vsel v a b m w => exact RoundTrip.vsel v a b m w
  | vperm v a b m w => exact RoundTrip.vperm v a b m w
  | viota v m w => exact RoundTrip.viota v m w
  | vcvt v a c m p => exact RoundTrip.vcvt v a c m p
  | vmov v a m w => exact RoundTrip.vmov v a m w
  | mop d a b o => exact RoundTrip.mop d a b o
  | b d => exact RoundTrip.b d
  | bc c a b d => exact RoundTrip.bc c a b d
  | bm c a b d => exact RoundTrip.bm c a b d
  | call d => exact RoundTrip.call d
  | jr a => exact RoundTrip.jr a
  | callr a => exact RoundTrip.callr a
  | ret => exact RoundTrip.ret
  | end_ => exact RoundTrip.end_
  | send d a t n => exact RoundTrip.send d a t n
  | rput d a t i => exact RoundTrip.rput d a t i
  | pclr i => exact RoundTrip.pclr i
  | tagctlEn k => exact RoundTrip.tagctlEn k
  | tagctlDis k => exact RoundTrip.tagctlDis k
  | tagctlPrio a k => exact RoundTrip.tagctlPrio a k
  | tagctlAddr a k => exact RoundTrip.tagctlAddr a k
  | tagctlMode a k => exact RoundTrip.tagctlMode a k
  | tagctlGate g a k => exact RoundTrip.tagctlGate g a k
  | tagctlCap g a k => exact RoundTrip.tagctlCap g a k
  | tagctlStat d k => exact RoundTrip.tagctlStat d k
  | sbind s a b => exact RoundTrip.sbind s a b
  | sunbind s => exact RoundTrip.sunbind s
  | sstat d s => exact RoundTrip.sstat d s
  | siph d a b h => exact RoundTrip.siph d a b h
  | sgath d a b h => exact RoundTrip.sgath d a b h
  | scfg a h => exact RoundTrip.scfg a h
  | swmr d s h => exact RoundTrip.swmr d s h
  | barm a b => exact RoundTrip.barm a b
  | barb a b => exact RoundTrip.barb a b
  | barr d a => exact RoundTrip.barr d a
  | bwait d a b => exact RoundTrip.bwait d a b
  | tdset t a => exact RoundTrip.tdset t a
  | tdget d t => exact RoundTrip.tdget d t
  | tdgetSt d t => exact RoundTrip.tdgetSt d t
  | tdgetAcc d t => exact RoundTrip.tdgetAcc d t
  | mma c a b i => exact RoundTrip.mma c a b i
  | macz c k => exact RoundTrip.macz c k
  | macst c a b k => exact RoundTrip.macst c a b k
  | locqWhere d a => exact RoundTrip.locqWhere d a
  | locqEpoch d => exact RoundTrip.locqEpoch d
  | locqHops d a => exact RoundTrip.locqHops d a
  | scpset a i => exact RoundTrip.scpset a i
  | scpget d i => exact RoundTrip.scpget d i
  | sysr d n => exact RoundTrip.sysr d n
  | sysw a n => exact RoundTrip.sysw a n
  | syswRttw a => exact RoundTrip.syswRttw a
  | syswTwin a => exact RoundTrip.syswTwin a
  | syswScpbase a => exact RoundTrip.syswScpbase a
  | trap c => exact RoundTrip.trap c
  | eret => exact RoundTrip.eret
  | rtinv a => exact RoundTrip.rtinv a
  | idle a => exact RoundTrip.idle a
  | halt => exact RoundTrip.halt
  | hintImm p => exact RoundTrip.hintImm p
  | hintScope s => exact RoundTrip.hintScope s
  | hintYield n => exact RoundTrip.hintYield n
  | hintCache p => exact RoundTrip.hintCache p
  | hintDisp p => exact RoundTrip.hintDisp p
  | hintPrio => exact RoundTrip.hintPrio
  | hintNop => exact RoundTrip.hintNop
  | _ => exact fun hword => Bool.noConfusion hword

/-- Settles O55: the words that decode are the encodings of what they stand for, and each of the others leaves its row. -/
theorem decodeWords : Obligations.DecodeWords := by
  unfold Obligations.DecodeWords
  exact ⟨rt_add 10 10 1 false, rt_sub 5 6 7 true, rt_addi 1 2 (-1), rt_ld 4 5 .d 1, rt_st 4 5 .q (-1), rt_vld 1 2 3 (-1),
    rt_bc .lt 1 2 (-1), rt_call (-1), rt_vfma 2 3 4 1 .bf16, rt_vadd 2 3 4 0 .e32, rt_hintScope 5, rfl, rfl, rfl, rfl, rfl⟩

end Sys2Proof.Proofs

namespace Sys2Proof.Proofs

open Sys2Proof Sys2Proof.Machine

/-! ### Numbers of a word's operation as bit vectors (R7, R329) -/

theorem signedOf_eq_toInt (n x : Nat) : signedOf n x = (BitVec.ofNat n x).toInt := by
  rw [signedOf, BitVec.toInt_eq_toNat_cond, BitVec.toNat_ofNat]
  cases n with
  | zero => simp [Nat.mod_one]
  | succ n =>
    have hhalf : x % 2 ^ (n + 1) < 2 ^ (n + 1 - 1) ↔ 2 * (x % 2 ^ (n + 1)) < 2 ^ (n + 1) := by
      rw [Nat.add_sub_cancel, Nat.pow_succ]; omega
    simp only [hhalf]

/-- Sext of R7 is the sign extension of the low bits. -/
theorem sext64_eq_signExtend (n x : Nat) : sext64 n x = (BitVec.ofNat n x).signExtend 64 := by
  rw [sext64, signedOf_eq_toInt, BitVec.signExtend]

/-- Zext of R7 of all 64 bits. -/
theorem zext64_eq_ofNat (x : Nat) : zext64 64 x = BitVec.ofNat 64 x := by
  rw [zext64, ← BitVec.toNat_inj]; simp

theorem ofNat_append (m p : Nat) {n : Nat} (y : BitVec n) : BitVec.ofNat m p ++ y = BitVec.ofNat (m + n) (p * 2 ^ n + y.toNat) := by
  have hlow : (p * 2 ^ n + y.toNat) % 2 ^ n = y.toNat := by rw [Nat.mul_add_mod_self_right, Nat.mod_eq_of_lt y.isLt]
  have hhigh : (p * 2 ^ n + y.toNat) / 2 ^ n = p := by
    rw [Nat.mul_comm, Nat.mul_add_div (Nat.two_pow_pos n), Nat.div_eq_of_lt y.isLt, Nat.add_zero]
  refine BitVec.eq_of_toNat_eq ?_
  rw [toNat_append_eq_add, BitVec.toNat_ofNat, BitVec.toNat_ofNat, Nat.pow_add, Nat.mul_comm (2 ^ m), Nat.mod_mul, hlow, hhigh]
  ring

/-! ### Immediates (R81) -/

theorem immOf_of_nil {hs : List Insn} (h : hintsOf 0 hs = []) (i : BitVec 14) : immOf hs i = i.signExtend 64 := by
  rw [immOf, h]
  simp [sext64_eq_signExtend]

theorem immOf_of_cons {hs : List Insn} {p : Nat} {ps : List Nat} (h : hintsOf 0 hs = p :: ps) (i : BitVec 14) :
    immOf hs i = (BitVec.ofNat 22 p ++ i).signExtend 64 := by
  rw [immOf, h]
  simp only [sext64_eq_signExtend, ofNat_append]

/-- The payload of a hint has 22 bits (R80). -/
theorem lt_of_mem_hintsOf {k p : Nat} {hs : List Insn} (h : p ∈ hintsOf k hs) : p < 2 ^ 22 := by
  obtain ⟨w, -, rfl⟩ := List.mem_map.1 h
  exact Nat.mod_lt _ (by decide)

theorem moviValue_of_nil {hs : List Insn} (h : hintsOf 0 hs = []) (j : BitVec 20) : moviValue hs j = j.signExtend 64 := by
  rw [moviValue, h]
  simp [sext64_eq_signExtend]

theorem moviValue_of_one {hs : List Insn} {p : Nat} (h : hintsOf 0 hs = [p]) (j : BitVec 20) :
    moviValue hs j = (BitVec.ofNat 22 p ++ j).signExtend 64 := by
  rw [moviValue, h]
  simp only [sext64_eq_signExtend, ofNat_append]

theorem moviValue_of_two {hs : List Insn} {p q : Nat} {ps : List Nat} (h : hintsOf 0 hs = p :: q :: ps) (j : BitVec 20) :
    moviValue hs j = BitVec.ofNat 22 p ++ BitVec.ofNat 22 q ++ j := by
  have hq : q < 2 ^ 22 := lt_of_mem_hintsOf (k := 0) (hs := hs) (by simp [h])
  have hj := j.isLt
  rw [moviValue, h]
  refine BitVec.eq_of_toNat_eq ?_
  simp only [toNat_append_eq_add, BitVec.toNat_ofNat]
  omega

/-! ### Shifts and bit fields (R339, R391) -/

@[simp] theorem lowOf_64 (v : List Word) (k : Nat) : lowOf 64 v k = (v.getD k 0).toNat :=
  Nat.mod_eq_of_lt (v.getD k 0).isLt

theorem shli_eq (v : List Word) (k : Nat) : zext64 64 (lowOf 64 v 0 * 2 ^ k) = v.getD 0 0 <<< k := by
  rw [zext64_eq_ofNat, lowOf_64, ← BitVec.toNat_inj, BitVec.toNat_shiftLeft, BitVec.toNat_ofNat,
    Nat.shiftLeft_eq]

theorem shri_eq (v : List Word) (k : Nat) : zext64 64 (lowOf 64 v 0 / 2 ^ k) = v.getD 0 0 >>> k := by
  rw [zext64_eq_ofNat, lowOf_64, ← Nat.shiftRight_eq_div_pow, ← BitVec.toNat_ushiftRight, BitVec.ofNat_toNat,
    BitVec.setWidth_eq]

theorem wrapInt_eq_toNat (n : Nat) (z : Int) : wrapInt n z = (BitVec.ofInt n z).toNat := by
  rw [wrapInt, BitVec.toNat_ofInt]

theorem srai_eq (v : List Word) (k : Nat) : zext64 64 (sraBits 64 (lowOf 64 v 0) k) = (v.getD 0 0).sshiftRight k := by
  rw [zext64_eq_ofNat, sraBits, wrapInt_eq_toNat, BitVec.ofNat_toNat, BitVec.setWidth_eq, signedOf_eq_toInt, lowOf_64,
    BitVec.ofNat_toNat, BitVec.setWidth_eq, BitVec.sshiftRight, Int.shiftRight_eq_div_pow]

theorem ofNat_bitsAt (x : Word) (lo n : Nat) : BitVec.ofNat n (bitsAt x.toNat lo n) = x.extractLsb' lo n := by
  rw [← toNat_extractLsb'_eq_bitsAt, BitVec.ofNat_toNat, BitVec.setWidth_eq]

theorem bfxS_eq (v : List Word) (lo n : Nat) :
    sext64 n (bitsAt (lowOf 64 v 0) lo n) = ((v.getD 0 0).extractLsb' lo n).signExtend 64 := by
  rw [sext64_eq_signExtend, lowOf_64, ofNat_bitsAt]

theorem bfxU_eq (v : List Word) (lo n : Nat) :
    zext64 64 (bitsAt (lowOf 64 v 0) lo n) = ((v.getD 0 0).extractLsb' lo n).setWidth 64 := by
  rw [zext64_eq_ofNat, lowOf_64, ← toNat_extractLsb'_eq_bitsAt, BitVec.ofNat_toNat]

/-- Replacing a field leaves what lies above and below it. -/
theorem putBits_eq (w lo n v : Nat) :
    putBits w lo n v = 2 ^ lo * (2 ^ n * (w / 2 ^ lo / 2 ^ n) + v % 2 ^ n) + w % 2 ^ lo := by
  have hw := Nat.div_add_mod w (2 ^ lo)
  have hfield := Nat.div_add_mod (w / 2 ^ lo) (2 ^ n)
  rw [putBits, bitsAt]
  generalize w / 2 ^ lo % 2 ^ n = f at *
  generalize w / 2 ^ lo / 2 ^ n = h at *
  generalize w % 2 ^ lo = l at *
  rw [← hfield] at hw
  rw [← hw]
  have e : 2 ^ lo * (2 ^ n * h + f) + l = 2 ^ lo * (2 ^ n * h) + l + f * 2 ^ lo := by ring
  rw [e, Nat.add_sub_cancel]
  ring

theorem testBit_putBits (w lo n v j : Nat) : (putBits w lo n v).testBit j =
    if lo ≤ j ∧ j < lo + n then v.testBit (j - lo) else w.testBit j := by
  rw [putBits_eq, Nat.testBit_two_pow_mul_add _ (Nat.mod_lt _ (by positivity)), 
    Nat.testBit_two_pow_mul_add _ (Nat.mod_lt _ (by positivity))]
  rw [Nat.testBit_mod_two_pow, Nat.testBit_mod_two_pow, Nat.testBit_div_two_pow, Nat.testBit_div_two_pow]
  by_cases h1 : j < lo
  · simp [h1, Nat.not_le.2 h1]
  · by_cases h2 : j < lo + n
    · have h3 : j - lo < n := by omega
      simp [h1, h2, h3, Nat.not_lt.1 h1]
    · have h3 : ¬ j - lo < n := by omega
      have h4 : j - lo - n + n + lo = j := by omega
      simp [h1, h2, h3, h4]

theorem bfi_eq (v : List Word) {p l : Nat} (hl : l < 64) :
    zext64 64 (putBits (lowOf 64 v 1) p (l + 1) (lowOf 64 v 0)) =
      (v.getD 1 0 &&& ~~~((BitVec.allOnes 64 >>> (63 - l)) <<< p)) |||
        ((v.getD 0 0 <<< p) &&& ((BitVec.allOnes 64 >>> (63 - l)) <<< p)) := by
  rw [zext64_eq_ofNat, lowOf_64, lowOf_64]
  generalize v.getD 0 0 = x, v.getD 1 0 = y
  refine BitVec.eq_of_getLsbD_eq fun j hj => ?_
  have hmask : ((BitVec.allOnes 64 >>> (63 - l)) <<< p).getLsbD j = decide (p ≤ j ∧ j < p + (l + 1)) := by
    simp only [BitVec.getLsbD_shiftLeft, BitVec.getLsbD_ushiftRight, BitVec.getLsbD_allOnes, hj]
    by_cases hlow : j < p
    · simp [hlow, Nat.not_le.2 hlow]
    · simp only [hlow, decide_false, Bool.not_false, Nat.not_lt.1 hlow, true_and]
      exact decide_eq_decide.2 (by omega)
  rw [BitVec.getLsbD_ofNat, testBit_putBits, BitVec.getLsbD_or, BitVec.getLsbD_and, BitVec.getLsbD_and, BitVec.getLsbD_not, hmask,
    BitVec.getLsbD_shiftLeft]
  by_cases hin : p ≤ j ∧ j < p + (l + 1)
  · simp [hin, hj, Nat.not_lt.2 hin.1, BitVec.getLsbD]
  · simp [hin, hj, BitVec.getLsbD]

/-! ### The words as data words -/

section
variable (s : State) (d a : Reg) (p l : BitVec 6)

theorem exec_addi (i : BitVec 14) : exec (.addi d a i) s =
    dataWord (.addi d a i) d [a] s fun v => v.getD 0 0 + immOf s.me.hints i := rfl
theorem exec_andi (i : BitVec 14) : exec (.andi d a i) s =
    dataWord (.andi d a i) d [a] s fun v => v.getD 0 0 &&& immOf s.me.hints i := rfl
theorem exec_ori (i : BitVec 14) : exec (.ori d a i) s =
    dataWord (.ori d a i) d [a] s fun v => v.getD 0 0 ||| immOf s.me.hints i := rfl
theorem exec_xori (i : BitVec 14) : exec (.xori d a i) s =
    dataWord (.xori d a i) d [a] s fun v => v.getD 0 0 ^^^ immOf s.me.hints i := rfl
theorem exec_movi (j : BitVec 20) : exec (.movi d j) s = dataWord (.movi d j) d [] s fun _ => moviValue s.me.hints j := rfl
theorem exec_bfxU : exec (.bfxU d a p l) s =
    dataWord (.bfxU d a p l) d [a] s fun v => zext64 64 (bitsAt (lowOf 64 v 0) p.toNat (l.toNat + 1)) := rfl
theorem exec_bfxS : exec (.bfxS d a p l) s =
    dataWord (.bfxS d a p l) d [a] s fun v => sext64 (l.toNat + 1) (bitsAt (lowOf 64 v 0) p.toNat (l.toNat + 1)) := rfl
theorem exec_bfi : exec (.bfi d a p l) s =
    dataWord (.bfi d a p l) d [a, d] s fun v => zext64 64 (putBits (lowOf 64 v 1) p.toNat (l.toNat + 1) (lowOf 64 v 0)) := rfl
theorem exec_shli : exec (.shli d a p) s = dataWord (.shli d a p) d [a] s fun v => zext64 64 (lowOf 64 v 0 * 2 ^ p.toNat) := rfl
theorem exec_shri : exec (.shri d a p) s = dataWord (.shri d a p) d [a] s fun v => zext64 64 (lowOf 64 v 0 / 2 ^ p.toNat) := rfl
theorem exec_srai : exec (.srai d a p) s =
    dataWord (.srai d a p) d [a] s fun v => zext64 64 (sraBits 64 (lowOf 64 v 0) p.toNat) := rfl

end

/-- A word that computes `f` of its sources gives what that value is. -/
theorem givesData_of_dataWord_eq {i : Instr} {d : Reg} {cs : List Reg} {s : State} {f : List Word → Word} {r : Word}
    (hexec : exec i s = dataWord i d cs s f) (hplain : isSync i = false)
    (hvalue : f ((readSources s.me cs).map TCap.data) = r) : GivesData i d cs s r :=
  hvalue ▸ givesData_dataWord hexec hplain

/-- Settles O4: each word is a data word, and the lemmas above say what its operation on numbers is on bit vectors. -/
theorem immediatesAndFields : Obligations.ImmediatesAndFields := by
  unfold Obligations.ImmediatesAndFields
  refine ⟨fun s d a i j => ?imm, fun s d a p l => ?field⟩
  case imm =>
    intro x imm
    have himm : immOf s.me.hints i = imm := by
      cases h : hintsOf 0 s.me.hints with
      | nil => simp only [imm, h, immOf_of_nil h]
      | cons p ps => simp only [imm, h, immOf_of_cons h]
    refine ⟨givesData_of_dataWord_eq (exec_addi s d a i) rfl (congrArg (x + ·) himm),
      givesData_of_dataWord_eq (exec_andi s d a i) rfl (congrArg (x &&& ·) himm),
      givesData_of_dataWord_eq (exec_ori s d a i) rfl (congrArg (x ||| ·) himm),
      givesData_of_dataWord_eq (exec_xori s d a i) rfl (congrArg (x ^^^ ·) himm),
      givesData_of_dataWord_eq (exec_movi s d j) rfl ?_⟩
    match h : hintsOf 0 s.me.hints with
    | [] => exact moviValue_of_nil h j
    | [p] => exact moviValue_of_one h j
    | p :: q :: ps => exact moviValue_of_two h j
  case field =>
    intro x mask
    exact ⟨fun _ => ⟨givesData_of_dataWord_eq (exec_bfxU s d a p l) rfl (bfxU_eq ..),
        givesData_of_dataWord_eq (exec_bfxS s d a p l) rfl (bfxS_eq ..),
        givesData_of_dataWord_eq (exec_bfi s d a p l) rfl (bfi_eq _ l.isLt)⟩,
      givesData_of_dataWord_eq (exec_shli s d a p) rfl (shli_eq ..),
      givesData_of_dataWord_eq (exec_shri s d a p) rfl (shri_eq ..),
      givesData_of_dataWord_eq (exec_srai s d a p) rfl (srai_eq ..)⟩

end Sys2Proof.Proofs

namespace Sys2Proof.Proofs

open Sys2Proof Sys2Proof.Machine

/-! ### A word that transfers control -/

/-- What a word with ready sources comes to when its operation raises no cause and its destination takes the result. -/
theorem runOps_of_no_cause {o : OpSpec} {s : State} {body : State → List TCap → WordRes} {r : WordRes}
    (hready : sourcesReady o s = true) (hbody : body s (readSources s.me o.cs) = r) (hrank : r.rank = none)
    (hdest : ∀ d, o.dc = some d → destGate s d (r.element s d) = .go) : runOps o s body = r := by
  simp only [sourcesReady, Bool.and_eq_true, Bool.not_eq_true', beq_iff_eq] at hready
  obtain ⟨hgate, hecc⟩ := hready
  have hgo : (o.dc.map fun d => destGate s d (r.element s d)).getD .go = .go := by
    cases hdc : o.dc with
    | none => rfl
    | some d => exact hdest d hdc
  have hown : firstCause ((ownCauses o s .go r .go ++ [none]).filterMap id) = none := by
    cases hsends : o.sends
    · simp [ownCauses, hsends, Gate.cause, firstCause, hrank]
    · have haway : r.turnsAway = false ∨ r.turnsAway = true := by cases r.turnsAway <;> simp
      obtain haway | haway := haway <;> simp [ownCauses, hsends, Gate.cause, firstCause, hrank, haway]
      split <;> simp [firstCause, hrank]
  simp only [runOps, hgate, hecc, hbody, hgo, Bool.false_eq_true, if_false, hown, reduceCtorEq]

/-- A word without sources has nothing to wait for. -/
theorem sourcesReady_nothing (s : State) : sourcesReady {} s = true := by
  simp [sourcesReady, gate, eccFails, Carrel.late, streamGate]

theorem runWord_jump {i : Instr} {o : OpSpec} {s t : State} {pc : Va} {body : State → List TCap → WordRes}
    (hissue : issuable i s = true) (hready : sourcesReady o s = true) (hbody : body s (readSources s.me o.cs) = .jump t pc)
    (hdest : ∀ d, o.dc = some d → destGate s d ((WordRes.jump t pc).element s d) = .go) :
    runWord i o s body = .next (jumped t o.cs pc) := by
  rw [runWord_of_issuable hissue, runOps_of_no_cause hready hbody rfl hdest]; rfl

/-- A word that neither writes a register nor is synchronised completes in the state that its operation leaves. -/
theorem runWord_done_plain {i : Instr} {o : OpSpec} {s t : State} {body : State → List TCap → WordRes}
    (hissue : issuable i s = true) (hready : sourcesReady o s = true) (hbody : body s (readSources s.me o.cs) = .done t)
    (hplain : isSync i = false) (hdest : o.dc = none) : runWord i o s body = .next (completed t o.cs) := by
  rw [runWord_done hissue hready hbody (fun d hd => by rw [hdest] at hd; cases hd), recordSync_plain hplain]

/-! ### Targets and conditions (R74, R78, R334) -/

theorem branchTo_eq (pc : Va) (z : Int) : branchTo pc z = pc + 4 * BitVec.ofInt 48 z := by
  rw [branchTo, BitVec.ofInt_add, BitVec.ofInt_mul, BitVec.ofInt_natCast, BitVec.ofNat_toNat, BitVec.setWidth_eq]
  rfl

theorem signedOf_toNat {n : Nat} (x : BitVec n) : signedOf n x.toNat = x.toInt := by
  rw [signedOf_eq_toInt, BitVec.ofNat_toNat, BitVec.setWidth_eq]

theorem dispOf_of_nil {hs : List Insn} (h : hintsOf 4 hs = []) (e : BitVec 10) : dispOf hs e = e.toInt := by
  rw [dispOf, h]
  exact signedOf_toNat e

theorem dispOf_of_cons {hs : List Insn} {p : Nat} {ps : List Nat} (h : hintsOf 4 hs = p :: ps) (e : BitVec 10) :
    dispOf hs e = (BitVec.ofNat 22 p ++ e).toInt := by
  rw [dispOf, h, ofNat_append, ← signedOf_eq_toInt]

theorem condHolds_eq_condOf (c : Cond) (x y : Word) : condHolds c 64 x.toNat y.toNat = condOf c x y := by
  cases c <;> simp only [condHolds, condOf, signedOf_toNat, BitVec.slt, BitVec.sle, BitVec.ult, BitVec.ule]
  case eq => rw [Bool.eq_iff_iff]; simp [BitVec.toNat_inj]
  case ne => rw [Bool.eq_iff_iff]; simp [BitVec.toNat_inj]

theorem exec_b (d : BitVec 26) (s : State) : exec (.b d) s =
    runWord (.b d) {} s fun s _ => .jump s (branchTo s.me.pc (signedOf 26 d.toNat)) := rfl

theorem exec_bc (c : Cond) (a b : Reg) (e : BitVec 10) (s : State) : exec (.bc c a b e) s =
    runWord (.bc c a b e) { cs := [a, b] } s fun s vs =>
      if condHolds c 64 (src vs 0).data.toNat (src vs 1).data.toNat then .jump s (branchTo s.me.pc (dispOf s.me.hints e))
      else .done s := rfl

theorem exec_bm (q : MaskCond) (x y : MReg) (e : BitVec 10) (s : State) : exec (.bm q x y e) s =
    runWord (.bm q x y e) { ms := [x, y] } s fun s _ =>
      if maskCond q (s.me.mask x &&& s.me.mask y) (s.me.mask y) then .jump s (branchTo s.me.pc (dispOf s.me.hints e))
      else .done s := rfl

/-- A conditional branch goes to its target or to the next word. -/
theorem runWord_branch {i : Instr} {o : OpSpec} {s : State} {pc : Va} {taken : Bool} {body : State → List TCap → WordRes}
    (hissue : issuable i s = true) (hready : sourcesReady o s = true)
    (hbody : body s (readSources s.me o.cs) = if taken then .jump s pc else .done s) (hplain : isSync i = false)
    (hdest : o.dc = none) : runWord i o s body = .next (if taken then jumped s o.cs pc else completed s o.cs) := by
  cases taken with
  | true => exact runWord_jump hissue hready hbody (fun d hd => by rw [hdest] at hd; cases hd)
  | false => exact runWord_done_plain hissue hready hbody hplain hdest

/-- Settles O13: the target is the word's address and the displacement, signed as R7 gives it, and the condition is that of R74 or R78. -/
theorem branches : Obligations.Branches := by
  unfold Obligations.Branches
  intro s a b x y c q d e disp
  have htarget : branchTo s.me.pc (dispOf s.me.hints e) = s.me.pc + 4 * disp := by
    rw [branchTo_eq]
    cases h : hintsOf 4 s.me.hints with
    | nil => simp only [disp, h, dispOf_of_nil h]; rfl
    | cons p ps => simp only [disp, h, dispOf_of_cons h]; rfl
  refine ⟨fun hissue => ?b, fun hissue hready => ?bc, fun hissue hready => ?bm⟩
  case b =>
    rw [exec_b, runWord_jump (o := {}) hissue (sourcesReady_nothing s) rfl (fun _ hd => by cases hd), branchTo_eq, signedOf_toNat]
    rfl
  case bc =>
    rw [exec_bc, runWord_branch (o := { cs := [a, b] }) hissue hready rfl rfl rfl, htarget, condHolds_eq_condOf]
    rfl
  case bm =>
    rw [exec_bm, runWord_branch (o := { ms := [x, y] }) hissue hready rfl rfl rfl, htarget]
    cases q <;> rfl

end Sys2Proof.Proofs

namespace Sys2Proof.Proofs

open Sys2Proof Sys2Proof.Machine

/-! ### Hint words (R80 to R83) -/

theorem exec_of_isHint {i : Instr} (h : Instr.isHint i = true) (s : State) : exec i s = hintWord i s := by
  cases i with
  | hintImm p => rfl
  | hintScope i => rfl
  | hintYield n => rfl
  | hintCache p => rfl
  | hintDisp p => rfl
  | hintPrio => rfl
  | hintNop => rfl
  | _ => exact Bool.noConfusion h

theorem hintWord_joins {i : Instr} {s : State} (hissues : s.me.issues = true) (hroom : s.me.hints.length ≠ 2) :
    hintWord i s = .next (s.setMe { s.me with hints := s.me.hints ++ [encode i], pc := s.me.pc + 4 }) := by
  rw [hintWord, hissues, if_neg hroom]; rfl

theorem hintWord_traps {i : Instr} {s : State} (hissues : s.me.issues = true) (hfull : s.me.hints.length = 2)
    (hsettled : s.me.settled = true) : hintWord i s = .next (takeTrap s s.cur.1 s.cur.2 0x044 ((encode i).setWidth 64)) := by
  rw [hintWord, hissues, if_pos hfull, raise, if_pos hsettled]; rfl

/-- Settles O16: every word of the list is a hint, and a hint joins its group or is the third. -/
theorem hintWords : Obligations.HintWords := by
  unfold Obligations.HintWords
  intro s p i n q w hw hissues
  have hhint : ∀ w ∈ [Instr.hintImm p, .hintScope i, .hintYield n, .hintCache q, .hintDisp p, .hintPrio, .hintNop],
      Instr.isHint w = true := by
    simp only [List.forall_mem_cons, List.not_mem_nil, false_imp_iff, implies_true, and_true]
    exact ⟨rfl, rfl, rfl, rfl, rfl, rfl, rfl⟩
  have hexec : exec w s = hintWord w s := exec_of_isHint (hhint w hw) s
  exact ⟨fun hroom => hexec.trans (hintWord_joins hissues hroom),
    fun hfull hsettled => hexec.trans (hintWord_traps hissues hfull hsettled)⟩

end Sys2Proof.Proofs

namespace Sys2Proof.Proofs

open Sys2Proof Sys2Proof.Machine

/-! ### The executing carrel, changed twice -/

theorem fset_fset {α : Type} (m : FMap α) (k : Nat) (v w : α) : fset (fset m k v) k w = fset m k w := by
  induction m with
  | nil => simp [fset]
  | cons p m ih =>
    obtain ⟨j, u⟩ := p
    by_cases h : j = k
    · simp [fset, h]
    · simp [fset, h, ih]

theorem fget_fdel {α : Type} (m : FMap α) (k j : Nat) : fget (fdel m k) j = if k = j then none else fget m j := by
  induction m with
  | nil => simp [fdel, fget]
  | cons p m ih =>
    obtain ⟨i, v⟩ := p
    by_cases hk : i = k
    · subst hk
      rw [fdel, if_pos rfl, ih, fget]
      split <;> rfl
    · rw [fdel, if_neg hk, fget, fget, ih]
      by_cases hj : i = j
      · rw [if_pos hj, if_pos hj, if_neg fun e => hk (hj.trans e.symm)]
      · rw [if_neg hj, if_neg hj]

@[simp] theorem setMe_setMe (s : State) (x y : Carrel) : (s.setMe x).setMe y = s.setMe y := by
  simp [State.setMe, State.setCarrel, State.setCore, State.core, Core.setCarrel, fset_fset]

theorem modMe_setMe (s : State) (x : Carrel) (f : Carrel → Carrel) : (s.setMe x).modMe f = s.setMe (f x) := by
  simp [State.modMe]

/-! ### Elements taken from streams (R197) -/

theorem pop_frame (c : Carrel) (r : Reg) : c.pop r = { c with streams := (c.pop r).streams } := by
  unfold Carrel.pop; split <;> rfl

theorem pop_of_unbound {c : Carrel} {r : Reg} (h : c.stream r = none) : c.pop r = c := by
  simp [Carrel.pop, h]

theorem stream_pop_of_ne (c : Carrel) {r q : Reg} (h : q ≠ r) : (c.pop r).stream q = c.stream q := by
  have hn : r.toNat ≠ q.toNat := fun e => h (BitVec.eq_of_toNat_eq e.symm)
  unfold Carrel.pop
  split
  · simp [Carrel.stream, fget_fset, hn]
  · rfl

theorem foldl_pop_frame (cs : List Reg) : ∀ c : Carrel, cs.foldl Carrel.pop c = { c with streams := (cs.foldl Carrel.pop c).streams } := by
  induction cs with
  | nil => intro c; rfl
  | cons r cs ih => intro c; rw [List.foldl_cons, ih, pop_frame]

theorem foldl_pop_of_unbound (cs : List Reg) {c : Carrel} (h : ∀ r ∈ cs, c.stream r = none) : cs.foldl Carrel.pop c = c := by
  induction cs with
  | nil => rfl
  | cons r cs ih =>
    rw [List.foldl_cons, pop_of_unbound (h r List.mem_cons_self)]
    exact ih fun q hq => h q (List.mem_cons_of_mem _ hq)

theorem stream_foldl_pop_of_not_mem {q : Reg} (cs : List Reg) : ∀ {c : Carrel}, q ∉ cs → (cs.foldl Carrel.pop c).stream q = c.stream q := by
  induction cs with
  | nil => intro c _; rfl
  | cons r cs ih =>
    intro c hq
    rw [List.mem_cons, not_or] at hq
    obtain ⟨hr, hcs⟩ := hq
    rw [List.foldl_cons, ih hcs, stream_pop_of_ne c hr]

/-- The elements of a word's sources are taken in the executing carrel alone. -/
theorem popAll_setMe (s : State) (cs : List Reg) (c : Carrel) : popAll (s.setMe c) cs = s.setMe (cs.foldl Carrel.pop c) := by
  unfold popAll
  split
  · exact modMe_setMe s c _
  · next h =>
    have hunbound : ∀ r ∈ cs, c.stream r = none := by simpa using h
    rw [foldl_pop_of_unbound cs hunbound]

/-- A carrel whose word is done, at the next word (R70). -/
def nextWordOf (c : Carrel) : Carrel := { c.completed with pc := c.pc + 4 }

/-- The end of a word in the executing carrel. -/
theorem completed_setMe (s : State) (cs : List Reg) (c : Carrel) :
    completed (s.setMe c) cs = s.setMe (nextWordOf (cs.foldl Carrel.pop c)) := by
  rw [completed, popAll_setMe, State.retire, modMe_setMe, nextWordOf]

/-! ### The write of a result (R55, R60, R197, R246) -/

theorem put_frame (c : Carrel) (r : Reg) (v : TCap) : c.put r v =
    { c with regs := (c.put r v).regs, streams := (c.put r v).streams, wrote := (c.put r v).wrote, lat := (c.put r v).lat } := by
  unfold Carrel.put
  split
  · rfl
  · unfold Carrel.write; split <;> rfl

theorem put_of_bound {c : Carrel} {r : Reg} {st : Stream} (h : c.stream r = some st) (v : TCap) :
    (c.put r v).regs = c.regs ∧ (c.put r v).lat = c.lat ∧ (c.put r v).wrote = c.wrote := by
  simp [Carrel.put, h]

theorem creg_put_of_ne (c : Carrel) {r q : Reg} (v : TCap) (h : q ≠ r) : (c.put r v).creg q = c.creg q := by
  unfold Carrel.put
  split
  · rfl
  · rw [creg_write, if_neg fun e => h e.1.symm]

theorem lat_put_of_ne (c : Carrel) {r : Reg} {n : Nat} (v : TCap) (h : n ≠ r.toNat) : fget (c.put r v).lat n = fget c.lat n := by
  unfold Carrel.put
  split
  · rfl
  · unfold Carrel.write
    split
    · rfl
    · rw [fget_fdel, if_neg h.symm]

theorem wrote_put (c : Carrel) (r : Reg) (v : TCap) :
    (c.put r v).wrote = if c.stream r = none ∧ 32 ≤ r.toNat then r :: c.wrote else c.wrote := by
  cases hst : c.stream r with
  | some st => simp [put_of_bound hst]
  | none =>
    rw [put_plain c r v hst]
    by_cases hr : r = 0
    · subst hr; simp [Carrel.write]
    · rw [write_of_ne c v hr]; simp [inRputWindow]

theorem streams_put_of_unbound {c : Carrel} {r : Reg} (h : c.stream r = none) (v : TCap) : (c.put r v).streams = c.streams := by
  rw [put_plain c r v h]; unfold Carrel.write; split <;> rfl

theorem stream_put_of_unbound {c : Carrel} {r : Reg} (h : c.stream r = none) (v : TCap) (q : Reg) :
    (c.put r v).stream q = c.stream q := by
  rw [put_plain c r v h, write_stream]

/-- Settles O5: the executing carrel after the word is the one with the result written, its sources' elements taken and the word
done, and each of the three changes only what its frame says. -/
theorem resultFrame : Obligations.ResultFrame := by
  unfold Obligations.ResultFrame
  intro s d r cs t
  have ht : t = s.setMe (nextWordOf (cs.foldl Carrel.pop (s.me.put d r))) := completed_setMe s cs (s.me.put d r)
  have hme : t.me = nextWordOf (cs.foldl Carrel.pop (s.me.put d r)) := by rw [ht, me_setMe]
  have hframe := foldl_pop_frame cs (s.me.put d r)
  have hregs : t.me.regs = (s.me.put d r).regs := by rw [hme, hframe]; rfl
  have hlat : t.me.lat = (s.me.put d r).lat := by rw [hme, hframe]; rfl
  have hwrote : t.me.wrote = (s.me.put d r).wrote := by rw [hme, hframe]; rfl
  have hstreams : t.me.streams = (cs.foldl Carrel.pop (s.me.put d r)).streams := by rw [hme]; rfl
  have hcreg : ∀ q, t.me.creg q = (s.me.put d r).creg q := fun q => by rw [Carrel.creg, hregs]; rfl
  refine ⟨?outside, ?inside, ?lat, ?wrote, ?others, ?takes, ?bound, ?element, ?unbound⟩
  case outside => rw [hme, ht]
  case inside => rw [hme, hframe, put_frame]; rfl
  case lat => intro n hn; rw [hlat, lat_put_of_ne _ _ hn]
  case wrote => rw [hwrote, wrote_put]
  case others => intro q hq; rw [hcreg, creg_put_of_ne _ _ hq]
  case takes =>
    intro hst
    have hread : t.me.read d = (s.me.put d r).read d := by rw [Carrel.read, Carrel.read, hcreg]
    rw [hread, put_plain _ _ _ hst, read_write]
    by_cases hd : d = 0
    · rw [if_neg fun h => h.2 hd, if_pos hd, hd, read_zero]
    · rw [if_pos ⟨rfl, hd⟩, if_neg hd]
  case bound =>
    intro hst
    obtain ⟨st, hst⟩ := Option.ne_none_iff_exists'.1 hst
    obtain ⟨hr, hl, -⟩ := put_of_bound hst r
    exact ⟨hregs.trans hr, hlat.trans hl⟩
  case element =>
    intro st hst hd
    have hstream : t.me.stream d = (cs.foldl Carrel.pop (s.me.put d r)).stream d := by rw [Carrel.stream, hstreams]; rfl
    rw [hstream, stream_foldl_pop_of_not_mem cs hd, stream_put _ _ _ _ hst]
  case unbound =>
    intro h
    have hd : s.me.stream d = none := h d (.inr rfl)
    have hsources : ∀ q ∈ cs, (s.me.put d r).stream q = none := fun q hq => by
      rw [stream_put_of_unbound hd]; exact h q (.inl hq)
    rw [hstreams, foldl_pop_of_unbound cs hsources, streams_put_of_unbound hd]

end Sys2Proof.Proofs

namespace Sys2Proof.Proofs

open Sys2Proof Sys2Proof.Machine

/-! ### Dead registers (R62, R63) -/

theorem mem_deadRegs (mask : Word) (r : Reg) : r ∈ deadRegs mask ↔ mask.getLsbD r.toNat = true := by
  simp only [deadRegs, List.mem_map, List.mem_filter, List.mem_range]
  constructor
  · rintro ⟨n, ⟨hn, hbit⟩, rfl⟩
    rwa [BitVec.toNat_ofNat, Nat.mod_eq_of_lt hn]
  · intro hbit
    exact ⟨r.toNat, ⟨r.isLt, hbit⟩, by simp⟩

theorem kill_frame (c : Carrel) (r : Reg) : c.kill r = { c with regs := (c.kill r).regs } := by
  unfold Carrel.kill; split <;> rfl

/-- A register's record after its death (R63, R123). -/
def died (x : CReg) : CReg := { x with dead := true, err := none }

@[simp] theorem died_died (x : CReg) : died (died x) = died x := rfl

theorem creg_kill (c : Carrel) (r q : Reg) : (c.kill r).creg q =
    if q = r ∧ c.stream q = none then died (c.creg q) else c.creg q := by
  unfold Carrel.kill
  by_cases hq : q = r
  · subst hq
    cases hst : c.stream q <;> simp [Carrel.creg, died]
  · have hn : r.toNat ≠ q.toNat := fun e => hq (BitVec.eq_of_toNat_eq e.symm)
    cases hst : c.stream r <;> simp [Carrel.creg, fgetD_fset, hn, hq]

theorem killAll_frame (rs : List Reg) : ∀ c : Carrel, c.killAll rs = { c with regs := (c.killAll rs).regs } := by
  induction rs with
  | nil => intro c; rfl
  | cons r rs ih =>
    intro c
    have hcons : c.killAll (r :: rs) = (c.kill r).killAll rs := rfl
    rw [hcons, ih, kill_frame]

theorem stream_killAll (c : Carrel) (rs : List Reg) (q : Reg) : (c.killAll rs).stream q = c.stream q := by
  rw [killAll_frame]; rfl

/-- The dead marking reaches the registers of the list that are no bound stream registers, once or more often (R63, R197). -/
theorem creg_killAll (rs : List Reg) (q : Reg) : ∀ c : Carrel, (c.killAll rs).creg q =
    if q ∈ rs ∧ c.stream q = none then died (c.creg q) else c.creg q := by
  induction rs with
  | nil => intro c; simp [Carrel.killAll]
  | cons r rs ih =>
    intro c
    have hcons : c.killAll (r :: rs) = (c.kill r).killAll rs := rfl
    have hstream : (c.kill r).stream q = c.stream q := by rw [kill_frame]; rfl
    rw [hcons, ih, hstream, creg_kill]
    by_cases hst : c.stream q = none
    · by_cases hr : q = r
      · subst hr; simp [hst]
      · simp [hst, hr]
    · simp [hst]

/-- A dead register reads untagged zero, waits for nothing and meets no mark (R63). -/
theorem read_of_dead {c : Carrel} {r : Reg} (h : (c.creg r).dead = true) : c.read r = {} := by
  simp [Carrel.read, h]

theorem absent_of_dead {c : Carrel} {r : Reg} (h : (c.creg r).dead = true) : c.absent r = false := by
  simp [Carrel.absent, h]

theorem marked_of_dead {c : Carrel} {r : Reg} (h : (c.creg r).dead = true) : c.marked r = none := by
  simp [Carrel.marked, h]

/-- A register that has been written is there (R43). -/
theorem absent_write (c : Carrel) {r : Reg} (v : TCap) (h : r ≠ 0) : (c.write r v).absent r = false := by
  have hcreg : (c.write r v).creg r = { val := v.val, tag := v.tag } := by rw [creg_write, if_pos ⟨rfl, h⟩]
  simp [Carrel.absent, hcreg]

/-! ### What holds a word back before its operation (R43, R58, R123, R164, R246) -/

/-- The word stalls: a source is not there yet, or an access that will write one of its registers is outstanding. -/
def heldBack (c : Carrel) (o : OpSpec) : Bool :=
  c.late o || o.cs.any c.pendingReg || o.vs.any c.pendingVec || (o.dc.map c.pendingReg).getD false || (o.dv.map c.pendingVec).getD false

section
variable {c : Carrel} {o : OpSpec}

theorem gate_of_heldBack (h : heldBack c o = true) : gate c o = .stall := if_pos h

theorem gate_of_absent (h : heldBack c o = false) (haway : o.cs.filter c.absent ≠ []) : gate c o = .park (o.cs.filter c.absent) := by
  have hstall : ¬ heldBack c o = true := by simp [h]
  exact (if_neg hstall).trans (if_pos haway)

theorem gate_of_marked {m : ErrMark} (h : heldBack c o = false) (haway : o.cs.filter c.absent = [])
    (hmark : o.cs.findSome? c.marked = some m) : gate c o = .marked m := by
  have hstall : ¬ heldBack c o = true := by simp [h]
  refine (if_neg hstall).trans ((if_neg (not_not.2 haway)).trans ?_)
  rw [hmark]

theorem gate_of_clear (h : heldBack c o = false) (haway : o.cs.filter c.absent = []) (hmark : o.cs.findSome? c.marked = none)
    (hvs : o.vs = []) : gate c o = streamGate c o.cs := by
  have hstall : ¬ heldBack c o = true := by simp [h]
  refine (if_neg hstall).trans ((if_neg (not_not.2 haway)).trans ?_)
  rw [hmark, hvs]; rfl

end

theorem streamGate_of_unbound {cs : List Reg} {c : Carrel} (h : ∀ r ∈ cs, c.stream r = none) : streamGate c cs = .go := by
  induction cs with
  | nil => rfl
  | cons r cs ih =>
    rw [streamGate, h r List.mem_cons_self]
    exact ih fun q hq => h q (List.mem_cons_of_mem _ hq)

section
variable {i : Instr} {o : OpSpec} {s : State} {body : State → List TCap → WordRes}

theorem runWord_stall (hissue : issuable i s = true) (hgate : gate s.me o = .stall) : runWord i o s body = .next s := by
  rw [runWord_of_issuable hissue, runOps, hgate]; rfl

theorem runWord_park {rs : List Reg} (hissue : issuable i s = true) (hgate : gate s.me o = .park rs) : runWord i o s body =
    .next (s.setMe { s.me with st := .parked, park := some { why := .presence rs, pops := o.cs } }) := by
  rw [runWord_of_issuable hissue, runOps, hgate]; rfl

theorem runWord_marked {m : ErrMark} (hissue : issuable i s = true) (hplain : isSync i = false) (hgate : gate s.me o = .marked m)
    (hsettled : s.me.settled = true) : runWord i o s body =
    .next (takeTrap (s.setMe { s.me with deferr := m.addr }) s.cur.1 s.cur.2 (if m.poison then 0x382 else 0x381) m.addr) := by
  rw [runWord_of_issuable hissue, runOps, hgate]
  simp only [markTrap, complete, recordSync_plain hplain, raise, hsettled, if_true, trapMe]
  rfl

end

/-- Settles O15: the record of each register after the dead marking says what its reads give, and the cases of the gate, in their
order, what a word comes to before its operation. -/
theorem deadRegistersAndSources : Obligations.DeadRegistersAndSources := by
  unfold Obligations.DeadRegistersAndSources
  refine ⟨fun c mask r q v => ?dead, fun s i a b d f => ?sources⟩
  case dead =>
    intro k
    have hcreg : ∀ q, k.creg q = if mask.getLsbD q.toNat = true ∧ c.stream q = none then died (c.creg q) else c.creg q :=
      fun q => by simp only [k, creg_killAll, mem_deadRegs]
    have hframe : k = { c with regs := k.regs } := killAll_frame _ c
    refine ⟨fun hst hbit => ?dies, fun hbit => ?spared, fun hst => ?bound, by rw [hframe], by rw [hframe], by rw [hframe],
      by rw [hframe], fun hr => ⟨?revived, absent_write k v hr⟩, fun hq => ?others, rfl⟩
    case dies =>
      have hdead : (k.creg r).dead = true := by rw [hcreg, if_pos ⟨hbit, hst⟩]; rfl
      exact ⟨read_of_dead hdead, absent_of_dead hdead, marked_of_dead hdead⟩
    case spared =>
      have hsame : k.creg r = c.creg r := by rw [hcreg, if_neg (by simp [hbit])]
      exact ⟨hsame, by rw [Carrel.read, Carrel.read, hsame]⟩
    case bound => rw [hcreg, if_neg fun h => hst h.2]
    case revived => rw [read_write, if_pos ⟨rfl, hr⟩]
    case others => rw [read_write, if_neg fun h => hq h.1.symm]
  case sources =>
    intro o waits away hissue hplain hexec
    have hwaits : heldBack s.me o = waits := by simp [heldBack, waits, o, Bool.or_assoc]
    have hrun : exec i s = runWord i o s fun s vs => .done (s.putData d (f (vs.map TCap.data))) := hexec
    rw [hrun]
    refine ⟨fun h => runWord_stall hissue (gate_of_heldBack (hwaits.trans h)),
      fun h haway => runWord_park hissue (gate_of_absent (hwaits.trans h) haway), fun m h haway hmark hsettled => ?marked,
      fun h haway ha hb hsa hsb hecc => ?goes⟩
    case marked =>
      have hfirst : o.cs.findSome? s.me.marked = some m := by
        obtain ha | ⟨ha, hb⟩ := hmark <;> simp [o, *]
      exact runWord_marked hissue hplain (gate_of_marked (hwaits.trans h) haway hfirst) hsettled
    case goes =>
      have hunbound : ∀ r ∈ o.cs, s.me.stream r = none := by simp [o, hsa, hsb]
      have hgate : gate s.me o = .go :=
        (gate_of_clear (hwaits.trans h) haway (by simp [o, ha, hb]) rfl).trans (streamGate_of_unbound hunbound)
      have hsources : readSources s.me [a, b] = [s.me.read a, s.me.read b] := by
        simp [readSources, pop_of_unbound hsa, Carrel.source, hsa, hsb]
      exact ⟨by simp [sourcesReady, hgate, hecc], by simp [operand, hsources, src], by simp [operand, hsources, src]⟩

end Sys2Proof.Proofs

namespace Sys2Proof.Proofs

open Sys2Proof Sys2Proof.Machine

/-! ### Presence (R58, R61, R380) -/

/-- The register of the window that PCLR names. -/
def windowReg (k : BitVec 5) : Reg := BitVec.ofNat 6 (32 + k.toNat)

theorem toNat_windowReg (k : BitVec 5) : (windowReg k).toNat = 32 + k.toNat := by
  have hk := k.isLt
  rw [windowReg, BitVec.toNat_ofNat]
  omega

theorem windowReg_ne_zero (k : BitVec 5) : windowReg k ≠ 0 := by
  intro h
  have hzero : (windowReg k).toNat = 0 := by rw [h]; rfl
  rw [toNat_windowReg] at hzero
  omega

/-- The presence bit of a register is clear (R58). -/
theorem absent_iff {c : Carrel} {r : Reg} (hr : r ≠ 0) (hst : c.stream r = none) (hdead : (c.creg r).dead = false) :
    c.absent r = !(c.creg r).present := by
  rw [Carrel.absent, decide_eq_true hr, hst, hdead]
  simp

/-- What PCLR leaves of the executing carrel's registers: a write of the cycle comes after the clear (R380). -/
def clearPresence (c : Carrel) (r : Reg) : Carrel :=
  if c.writtenNow r then c else { c with regs := fset c.regs r.toNat { c.creg r with present := false } }

theorem exec_pclr (k : BitVec 5) (s : State) : exec (.pclr k) s = runWord (.pclr k) {} s fun s _ =>
    if (s.me.stream (windowReg k)).isSome then .trap 0x1C5 (BitVec.ofNat 64 (32 + k.toNat))
    else if s.me.writtenNow (windowReg k) then .done s
    else .done (s.modMe fun c =>
      { c with regs := fset c.regs (windowReg k).toNat { c.creg (windowReg k) with present := false } }) := rfl

theorem completed_nothing (s : State) : completed s [] = s.setMe (nextWordOf s.me) := rfl

theorem pclr_clears {k : BitVec 5} {s : State} (hissue : issuable (.pclr k) s = true)
    (hst : s.me.stream (windowReg k) = none) :
    exec (.pclr k) s = .next (s.setMe (nextWordOf (clearPresence s.me (windowReg k)))) := by
  have hunbound : ¬ (s.me.stream (windowReg k)).isSome = true := by simp [hst]
  rw [exec_pclr]
  by_cases hw : s.me.writtenNow (windowReg k) = true
  · rw [runWord_done_plain hissue (sourcesReady_nothing s) ((if_neg hunbound).trans (if_pos hw)) rfl rfl, completed_nothing,
      clearPresence, if_pos hw]
  · rw [runWord_done_plain hissue (sourcesReady_nothing s) ((if_neg hunbound).trans (if_neg hw)) rfl rfl, completed_nothing,
      clearPresence, if_neg hw, State.modMe, setMe_setMe, me_setMe]

theorem creg_clearPresence (c : Carrel) (r q : Reg) : (clearPresence c r).creg q =
    if q = r ∧ c.writtenNow r = false then { c.creg q with present := false } else c.creg q := by
  unfold clearPresence
  by_cases hw : c.writtenNow r = true
  · simp [hw]
  · by_cases hq : q = r
    · subst hq; simp [hw, Carrel.creg]
    · have hn : r.toNat ≠ q.toNat := fun e => hq (BitVec.eq_of_toNat_eq e.symm)
      simp [hw, hq, Carrel.creg, fgetD_fset, hn]

theorem clearPresence_frame (c : Carrel) (r : Reg) : clearPresence c r = { c with regs := (clearPresence c r).regs } := by
  unfold clearPresence; split <;> rfl

/-- WAIT_RESUME of a carrel that waits for registers. -/
theorem exec_waitResume_of_presence {s : State} {c j : Nat} {rs pops : List Reg} (hst : (s.carrel c j).st = .parked)
    (hlive : (s.core c).live = true) (hpark : (s.carrel c j).park = some { why := .presence rs, pops := pops }) :
    exec (.waitResume c j) s = .next (if rs.any (s.carrel c j).absent then s else s.modCarrel c j Carrel.awake) := by
  have hparked : parkedAt s c j = some { why := .presence rs, pops := pops } := by simp [parkedAt, hst, hlive, hpark]
  refine (show exec (.waitResume c j) s = execWaitResume c j s from rfl).trans ?_
  rw [execWaitResume, hparked]; rfl

@[simp] theorem carrel_modCarrel_same (s : State) (c i : Nat) (f : Carrel → Carrel) :
    (s.modCarrel c i f).carrel c i = f (s.carrel c i) := by
  simp [State.modCarrel, State.setCarrel, State.carrel]

/-- Settles O36: PCLR's effect on each register's record, the gate of a word that reads an absent register, and the end of
its wait. -/
theorem presenceClear : Obligations.PresenceClear := by
  unfold Obligations.PresenceClear
  intro s k r
  have hwindow : r = windowReg k := rfl
  clear_value r
  subst hwindow
  have hr := windowReg_ne_zero k
  refine ⟨fun hissue hready => ⟨fun hst => ?clears, fun hst hsettled => ?bound⟩,
    fun i d f hexec hissue hpresent hdead hst hreg hdest hlate hplain => ?waits,
    fun c j pops hparked hlive hpark hst hdead => ?resumes, fun c v => ?written⟩
  case clears =>
    have hframe := clearPresence_frame s.me (windowReg k)
    have hcreg : ∀ q, (nextWordOf (clearPresence s.me (windowReg k))).creg q = (clearPresence s.me (windowReg k)).creg q :=
      fun _ => rfl
    refine ⟨_, pclr_clears hissue hst, ?_⟩
    rw [me_setMe, hcreg, creg_clearPresence]
    refine ⟨?present, ?val, ?tag, fun q hq => ?others, by rw [hframe]; rfl, by rw [hframe]; rfl, by rw [hframe]; rfl, rfl,
      fun c i h => carrel_modMe s (fun _ => nextWordOf (clearPresence s.me (windowReg k))) c i h⟩
    case present =>
      change _ = ((s.me.creg (windowReg k)).present && s.me.writtenNow (windowReg k))
      cases s.me.writtenNow (windowReg k) <;> simp
    case val => split <;> rfl
    case tag => split <;> rfl
    case others => rw [hcreg, creg_clearPresence, if_neg fun h => hq h.1]
  case bound =>
    have hsome : (s.me.stream (windowReg k)).isSome = true := Option.isSome_iff_ne_none.2 hst
    have hvalue : BitVec.ofNat 64 (32 + k.toNat) = (windowReg k).setWidth 64 := by
      rw [← toNat_windowReg, BitVec.ofNat_toNat]
    rw [exec_pclr, ← hvalue]
    exact runWord_trap hissue hready rfl rfl (if_pos hsome) (by decide) hsettled
  case waits =>
    have hheld : heldBack s.me { cs := [windowReg k], dc := some d } = false := by simp [heldBack, hlate, hreg, hdest]
    have haway : [windowReg k].filter s.me.absent = [windowReg k] := by simp [absent_iff hr hst hdead, hpresent]
    have hgate : gate s.me { cs := [windowReg k], dc := some d } = .park [windowReg k] := by
      rw [gate_of_absent hheld (by simp [haway])]
      exact congrArg Gate.park haway
    exact hexec.trans (runWord_park hissue hgate)
  case resumes =>
    have habsent := absent_iff hr hst hdead
    rw [exec_waitResume_of_presence hparked hlive hpark]
    refine ⟨fun hp => by simp [habsent, hp], fun hp => ⟨s.modCarrel c j Carrel.awake, by simp [habsent, hp], ?_⟩⟩
    rw [carrel_modCarrel_same]
    exact ⟨rfl, rfl, rfl, rfl⟩
  case written => rw [creg_write, if_pos ⟨rfl, hr⟩]

end Sys2Proof.Proofs

namespace Sys2Proof.Proofs

open Sys2Proof Sys2Proof.Machine

/-! ### The context registers under changes of the executing carrel -/

theorem cregs_modMe (s : State) (f : Carrel → Carrel) : (s.modMe f).myCore.cregs = s.myCore.cregs := by
  simp [State.modMe, State.setMe, State.setCarrel, State.myCore, Core.setCarrel, Core.cregs, State.core, State.setCore]

theorem cregs_popAll (s : State) (cs : List Reg) : (popAll s cs).myCore.cregs = s.myCore.cregs := by
  unfold popAll
  split
  · exact cregs_modMe s _
  · rfl

theorem cregs_completed (s : State) (cs : List Reg) : (completed s cs).myCore.cregs = s.myCore.cregs :=
  (cregs_modMe _ _).trans (cregs_popAll s cs)

theorem cregs_finished (i : Instr) (o : OpSpec) (s t : State) : (finished i o s t).myCore.cregs = t.myCore.cregs := by
  unfold finished recordSync
  split
  · exact (cregs_modMe _ _).trans (cregs_completed t o.cs)
  · exact cregs_completed t o.cs

/-! ### DEADMASK as a system register (R62, R397) -/

theorem getLsbD_deadmaskBits {i : Nat} (hi : i < 64) :
    deadmaskBits.getLsbD i = ((10 ≤ i && i ≤ 28) || (31 ≤ i && i ≤ 59)) := by
  have hbits : ∀ i < 64, deadmaskBits.getLsbD i = ((10 ≤ i && i ≤ 28) || (31 ≤ i && i ≤ 59)) := by decide
  exact hbits i hi

/-- A write of DEADMASK stands when no other carrel of the core has written it in this cycle. -/
theorem deadmask_sysWrite {s : State} (h : unwritten s .deadmask) (w : Word) :
    (sysWrite s s.cur.1 s.cur.2 .deadmask w).myCore.cregs.deadmask = w &&& deadmaskBits := by
  have hput : ∀ old, ((sysPut s s.cur.1 s.cur.2 .deadmask w).modCore s.cur.1 fun k =>
      { k with sysOld := fset k.sysOld SysReg.deadmask.code (s.cur.2, old) }).myCore.cregs.deadmask = w &&& deadmaskBits := by
    intro old
    simp [sysPut, State.modCore, State.myCore, Core.cregs, Core.setCregs]
  have hold : ∀ j old, fget (s.core s.cur.1).sysOld SysReg.deadmask.code = some (j, old) → ¬ j < s.cur.2 := by
    intro j old hj
    have hown : j = s.cur.2 := h j old hj
    omega
  rw [sysWrite, sysNote, if_neg (by decide)]
  split
  · exact hput _
  · next j old hj => rw [if_neg (hold j old hj)]; exact hput old

/-! ### The registers that a call or a return kills (R63, R341, R342) -/

@[simp] theorem me_popAll (s : State) (cs : List Reg) : (popAll s cs).me = cs.foldl Carrel.pop s.me := by
  unfold popAll
  split
  · exact me_modMe s _
  · next h =>
    have hunbound : ∀ r ∈ cs, s.me.stream r = none := by simpa using h
    rw [foldl_pop_of_unbound cs hunbound]

theorem creg_jumped (s : State) (cs : List Reg) (pc : Va) (q : Reg) : (jumped s cs pc).me.creg q = s.me.creg q := by
  rw [jumped, State.retireTo, me_modMe, me_popAll, foldl_pop_frame]; rfl

/-- The dead marking asked for by the state's DEADMASK, on the executing carrel. -/
theorem me_killMe (s : State) : (killMe s).me = s.me.killAll (deadRegs s.myCore.cregs.deadmask) := me_modMe s _

theorem stream_put_of_ne (c : Carrel) {r q : Reg} (v : TCap) (h : q ≠ r) : (c.put r v).stream q = c.stream q := by
  have hn : r.toNat ≠ q.toNat := fun e => h (BitVec.eq_of_toNat_eq e.symm)
  unfold Carrel.put
  split
  · simp [Carrel.stream, fget_fset, hn]
  · exact write_stream c r q v

theorem stream_put_eq_none {c : Carrel} {q : Reg} (h : c.stream q = none) (r : Reg) (v : TCap) : (c.put r v).stream q = none := by
  by_cases hq : q = r
  · subst hq; rw [stream_put_of_unbound h, h]
  · rw [stream_put_of_ne c v hq, h]

/-- A result that goes with a jump passes its destination's gate when `takes` does: the dead marking leaves streams alone (R197). -/
theorem destGate_jump_killMe {s : State} {d : Reg} {w : Word} (htakes : takes s d w = true) (pc : Va) :
    destGate s d ((WordRes.jump (killMe (s.put d (dataCap w))) pc).element s d) = .go := by
  have hgo : destGate s d (some w) = .go := by simpa [takes] using htakes
  cases hst : s.me.stream d with
  | none => simp [destGate, hst]
  | some st =>
    have hstream : (killMe (s.put d (dataCap w))).me.stream d =
        some { st with buffer := st.buffer ++ [(st.next, (dataCap w).data)], next := st.next + 1 } := by
      rw [me_killMe, stream_killAll, me_put, stream_put _ _ _ st hst]
    generalize killMe (s.put d (dataCap w)) = t at hstream ⊢
    have helem : (WordRes.jump t pc).element s d = some w := by
      simp [WordRes.element, hstream, hst, Carrel.left, dataCap, TCap.data]
    rw [helem, hgo]

/-- After the dead marking a register of DEADMASK that is no bound stream register reads as a dead one does. -/
theorem jumped_killMe_dies {s t : State} {r : Reg} (hcregs : t.myCore.cregs = s.myCore.cregs)
    (hbit : s.myCore.cregs.deadmask.getLsbD r.toNat = true) (hst : t.me.stream r = none) (cs : List Reg) (pc : Va) :
    (jumped (killMe t) cs pc).me.read r = {} ∧ (jumped (killMe t) cs pc).me.absent r = false := by
  have hdead : ((jumped (killMe t) cs pc).me.creg r).dead = true := by
    rw [creg_jumped, me_killMe, hcregs, creg_killAll, if_pos ⟨(mem_deadRegs _ r).2 hbit, hst⟩]; rfl
  exact ⟨read_of_dead hdead, absent_of_dead hdead⟩

theorem jumpTo_of_target {s : State} {t : Word} (hlow : t.extractLsb' 0 2 = 0) (hhigh : t.extractLsb' 48 16 = 0)
    (hwaits : killWaits s = false) (link : Bool) : jumpTo s t link true =
      .jump (killMe (if link then s.put 30 (linkOf s.me.pc) else s)) (t.setWidth 48) := by
  have ht := t.isLt
  have haligned : t.toNat % 4 = 0 := by
    have h := (bitsAt_eq_zero_iff t 0 2).2 hlow
    simpa [bitsAt] using h
  have hlocal : t.toNat / 2 ^ 48 = 0 := by
    have h := (bitsAt_eq_zero_iff t 48 16).2 hhigh
    rw [bitsAt] at h
    omega
  rw [jumpTo, haligned, hlocal, hwaits]
  simp

theorem exec_call (d : BitVec 26) (s : State) : exec (.call d) s = runWord (.call d) { dc := some 30 } s fun s _ =>
    if killWaits s then .stall
    else .jump (killMe (s.put 30 (linkOf s.me.pc))) (branchTo s.me.pc (signedOf 26 d.toNat)) := rfl

theorem exec_callr (a : Reg) (s : State) : exec (.callr a) s =
    runWord (.callr a) { cs := [a], dc := some 30 } s fun s vs => jumpTo s (src vs 0).data true true := rfl

theorem exec_ret (s : State) : exec .ret s = runWord .ret { cs := [30] } s fun s vs => jumpTo s (src vs 0).data false true := rfl

section
variable {s : State} {a : Reg} {d : BitVec 26}

theorem call_jumps (hissue : issuable (.call d) s = true) (hready : sourcesReady { dc := some 30 } s = true)
    (htakes : takes s 30 (s.me.pc.setWidth 64 + 4) = true) (hwaits : killWaits s = false) : exec (.call d) s =
      .next (jumped (killMe (s.put 30 (linkOf s.me.pc))) [] (branchTo s.me.pc (signedOf 26 d.toNat))) := by
  rw [exec_call]
  refine runWord_jump hissue hready (by rw [hwaits]; rfl) ?_
  rintro _ ⟨⟩
  exact destGate_jump_killMe htakes _

theorem callr_jumps (hissue : issuable (.callr a) s = true) (hready : sourcesReady { cs := [a], dc := some 30 } s = true)
    (htakes : takes s 30 (s.me.pc.setWidth 64 + 4) = true) (hlow : (operand s [a] 0).extractLsb' 0 2 = 0)
    (hhigh : (operand s [a] 0).extractLsb' 48 16 = 0) (hwaits : killWaits s = false) : exec (.callr a) s =
      .next (jumped (killMe (s.put 30 (linkOf s.me.pc))) [a] ((operand s [a] 0).setWidth 48)) := by
  rw [exec_callr]
  refine runWord_jump hissue hready (jumpTo_of_target hlow hhigh hwaits true) ?_
  rintro _ ⟨⟩
  exact destGate_jump_killMe htakes _

theorem ret_jumps (hissue : issuable .ret s = true) (hready : sourcesReady { cs := [30] } s = true)
    (hlow : (operand s [30] 0).extractLsb' 0 2 = 0) (hhigh : (operand s [30] 0).extractLsb' 48 16 = 0)
    (hwaits : killWaits s = false) : exec .ret s = .next (jumped (killMe s) [30] ((operand s [30] 0).setWidth 48)) := by
  rw [exec_ret]
  exact runWord_jump hissue hready (jumpTo_of_target hlow hhigh hwaits false) (fun _ h => nomatch h)

end

/-- Settles O21: the bits that a write of DEADMASK leaves, the read of what the register holds, and for CALL, CALLR and RET the
jump after the dead marking. -/
theorem deadmaskLayout : Obligations.DeadmaskLayout := by
  unfold Obligations.DeadmaskLayout
  refine ⟨fun s a hissue hready hsettled hfresh => ?write, fun s d hfresh => ?read, fun c => rfl, ?deaths⟩
  case write =>
    refine ⟨_, sysw_completes hissue hready hsettled, fun i hi => ?_⟩
    rw [cregs_finished, deadmask_sysWrite hfresh, BitVec.getLsbD_and, getLsbD_deadmaskBits hi]
  case read =>
    change GivesData _ d [] s (sysHolds s .deadmask)
    rw [← sysRead_of_unwritten hfresh]
    exact givesData_of_done rfl rfl rfl
  case deaths =>
    intro s a r d m link target dies hbit hst hwaits
    have hlinked : ∀ cs pc, (jumped (killMe (s.put 30 (linkOf s.me.pc))) cs pc).me.read r = {} ∧
        (jumped (killMe (s.put 30 (linkOf s.me.pc))) cs pc).me.absent r = false :=
      jumped_killMe_dies (cregs_modMe s _) hbit (by rw [me_put]; exact stream_put_eq_none hst 30 _)
    exact ⟨fun hissue hready htakes => ⟨_, call_jumps hissue hready htakes hwaits, hlinked [] _⟩,
      fun hissue hready htakes ⟨hlow, hhigh⟩ => ⟨_, callr_jumps hissue hready htakes hlow hhigh hwaits, hlinked [a] _⟩,
      fun hissue hready ⟨hlow, hhigh⟩ =>
        ⟨_, ret_jumps hissue hready hlow hhigh hwaits, jumped_killMe_dies rfl hbit hst [30] _⟩⟩

end Sys2Proof.Proofs

namespace Sys2Proof.Proofs

open Sys2Proof Sys2Proof.Machine

/-! ### A load that does not see an entry of its own number (R164) -/

/-- What poison makes of an access depends on its elements alone. -/
theorem heal_of_elems_eq {q l : Outst} (h : q.elems = l.elems) (s : State) (core : Nat) : heal s core q = heal s core l := by
  rw [heal, heal, healScr, healScr, h]

/-- The places of an access are found in a state, as a test that computes. -/
def foundAs (s : State) (p : Places) : State × Except (Nat × Nat) Places → Bool
  | (t, .ok q) => t == s && q == p
  | _ => false

theorem eq_of_foundAs {s : State} {p : Places} {r : State × Except (Nat × Nat) Places} (h : foundAs s p r = true) :
    r = (s, .ok p) := by
  obtain ⟨t, e | q⟩ := r
  · exact absurd h Bool.false_ne_true
  · obtain ⟨ht, hq⟩ := Bool.and_eq_true .. ▸ h
    rw [beq_iff_eq.1 ht, beq_iff_eq.1 hq]

/-- The executing carrel is the same in a state that differs in its first-level caches and outside its cores. -/
theorem me_eq_of_cores {y r : State} (hcur : y.cur = r.cur) (hcores : ∀ c, y.core c = { r.core c with l1 := (y.core c).l1 }) :
    y.me = r.me := by
  rw [State.me, State.carrel, hcores, hcur]
  rfl

/-- The global address of byte 0x40 of region 0 of core 0 of this module (R100). -/
def lateAddr : Nat := 0x2FFF000000000040

/-- A store of 0xFF to that byte, with the number that the core gives out next. -/
def lateStore : Entry := { id := 1, eff := .store [(.scr 0 0 0x40, 0xFF)] false }

/-- A Running carrel with that store in its outbox; c3 is a capability to 256 bytes at the address, with every permission. -/
def lateCarrel : Carrel :=
  { st := .running, regs := [(3, { val := mkCap 0x3FF 0 0 0x100 lateAddr, tag := true })], outbox := [lateStore] }

/-- The first bytes of region 0, pinned in the core's first-level cache, all zero. -/
def lateFolio : Folio :=
  { st := .pinned, scr := true, start := 0, fin := 128, base := 0, key := 0, data := List.replicate 128 (0, false) }

/-- Core 0 with that carrel and that region. -/
def lateState : State :=
  { cores := [(0, { regions := [(0, 0x1000)], l1 := { folios := [lateFolio] }, carrels := [(0, lateCarrel)] })] }

/-- LD.B of that byte. -/
def lateLoad : Instr := .ld 1 3 .b 0

/-- The place of that byte. -/
def latePlaces : Places := { locs := [.scr 0 0 0x40] }

/-- The element that the load reads. -/
def lateElem : LElem := elemOf [] (opScope lateState 4).2 0 lateAddr latePlaces.locs

/-- The byte that the store would leave there. -/
def lateBytes : List TByte := [(0xFF, false)]

/-- The access that the load makes. -/
def lateAccess : Outst := { plainAccess lateState (.reg 1 .b true) lateAddr 1 with elems := [lateElem] }

theorem opScope_lateState : (opScope lateState 4).1 = lateState := by decide +kernel

theorem places_lateState :
    places lateState lateState.cur.1 lateState.myCore.ctx lateAddr 1 .read = (lateState, .ok latePlaces) :=
  eq_of_foundAs (by decide +kernel)

/-- The load reads zero from the scratchpad: it sees the stores of smaller numbers than its own (R164). -/
theorem lateLoad_reads : ∀ t, exec lateLoad lateState = .next t → (t.me.read 1).data = 0 := by
  have h : (match exec lateLoad lateState with | .next t => (t.me.read 1).data == 0 | _ => false) = true := by decide +kernel
  intro t ht
  rw [ht] at h
  exact beq_iff_eq.1 h

/-- What the statement says the load reads: the core has counted on, and its next number is above the store's. -/
theorem readsNow_lateStore : readsNow lateState.numbered lateElem.reach latePlaces.locs lateBytes := by
  rw [readsNow]
  decide +kernel

/-- Refutes O28: `readsNow` takes the entries below the core's next number after the load has taken its own, so that an outbox entry
which has the load's number itself counts as an earlier store, while the load, as R164 has it, sees smaller numbers only. A
run gives every entry a smaller number than the core's next one: what the statement lacks is the premise that this is so. -/
theorem not_loadedValue : ¬ Obligations.LoadedValue := by
  unfold Obligations.LoadedValue
  intro h
  have hissue : issuable lateLoad lateState = true := by decide +kernel
  have hready : sourcesReady { cs := [3], dc := some 1 } lateState = true := by decide +kernel
  have hstream : lateState.me.stream 1 = none := by decide +kernel
  have htakes : takesAny lateState 1 := fun v => by simp only [destGate, hstream]
  have haddr : effAddr (src (readSources lateState.me [3]) 0) ((0 : BitVec 11).toInt * (1 : Nat)) = lateAddr := by decide +kernel
  have hcheck : capCheck lateState lateState.cur.1 (src (readSources lateState.me [3]) 0) lateAddr 1 permR = none := by
    decide +kernel
  have htgl : hasPerms (capPerms (src (readSources lateState.me [3]) 0).val) permTGL = true := by decide +kernel
  have hgoes : loadGoes lateState lateAccess = true := by decide +kernel
  have hsiph : siphStalls lateState lateState.cur.1 [(lateAddr, 1)] = .go := by decide +kernel
  have hheal : heal lateState.numbered lateState.cur.1 lateAccess = lateState.numbered := by decide +kernel
  have hnum : lateState.numbered.me.stream 1 = none := by decide +kernel
  have hload := h lateState 1 3 .b 0
  simp only [ldBytes, haddr, htgl] at hload
  obtain ⟨y, -, -, -, -, hcur, -, hcores, hnext⟩ := by
    have := hload hissue hready htakes (Nat.mod_one _) hcheck lateState latePlaces places_lateState rfl
    rw [opScope_lateState] at this
    exact this hsiph hgoes (fun q hq => (heal_of_elems_eq hq _ _).trans hheal) _ readsNow_lateStore
  have hread := lateLoad_reads _ hnext
  have hme : y.me = lateState.numbered.me := me_eq_of_cores hcur hcores
  obtain ⟨-, -, -, -, -, htaken, -⟩ := resultFrame y 1 (dataCap ((BitVec.ofNat 8 (leNat (lateBytes.map (·.1)))).signExtend 64)) [3]
  rw [htaken (by rw [hme, hnum])] at hread
  exact absurd hread (by decide)

end Sys2Proof.Proofs

namespace Sys2Proof.Proofs

open Sys2Proof Sys2Proof.Machine

/-! ### The choice of a slot (R243 to R245) -/

/-- A fold that keeps what it has or takes the next element comes to its start or to an element. -/
theorem mem_of_foldl_eq_some {f : Option Nat → Nat → Option Nat} (hf : ∀ o i, f o i = o ∨ f o i = some i) {cs : List Nat}
    {o : Option Nat} {i : Nat} (h : cs.foldl f o = some i) : o = some i ∨ i ∈ cs := by
  induction cs generalizing o with
  | nil => exact .inl h
  | cons c cs ih =>
    obtain hstart | hmem := ih h
    · obtain hkept | htaken := hf o c
      · exact .inl (hkept ▸ hstart)
      · rw [htaken, Option.some_inj] at hstart
        exact .inr (hstart ▸ List.mem_cons_self)
    · exact .inr (List.mem_cons_of_mem _ hmem)

theorem mem_of_pick {k : Core} {cyc last i : Nat} {at_ : Option Nat} {cs : List Nat} (h : pick k cyc last at_ cs = some i) :
    i ∈ cs := by
  rw [pick] at h
  split at h
  · exact List.contains_iff_mem.1 (List.find?_some h :)
  split at h
  · next hlast =>
    rw [Option.some_inj] at h
    exact h ▸ List.contains_iff_mem.1 (Bool.and_eq_true .. ▸ hlast).2
  · refine (mem_of_foldl_eq_some (fun o j => ?_) h).resolve_left (by simp)
    cases o with
    | none => exact .inr rfl
    | some l => exact (ite_eq_or_eq ..).symm

theorem mem_of_mem_topTier {s : State} {core i : Nat} {cs : List Nat} (h : i ∈ topTier s core cs) : i ∈ cs :=
  List.mem_of_mem_filter h

theorem candidate_of_pickB {s : State} {core i : Nat} (h : pickB s core = some i) : candidate s core i = true := by
  have hmem := List.of_mem_filter (mem_of_mem_topTier (mem_of_pick h))
  exact (Bool.and_eq_true .. ▸ hmem).1

theorem candidate_of_pickA {s : State} {core i : Nat} {b : Option Nat} (h : pickA s core b = some i) :
    candidate s core i = true ∧ b ≠ some i := by
  have hmem := List.of_mem_filter (mem_of_mem_topTier (mem_of_pick h))
  obtain ⟨hother, hcand⟩ := Bool.and_eq_true .. ▸ hmem
  exact ⟨hcand, bne_iff_ne.1 hother⟩

/-! ### The step of a core's slots -/

section
variable {s x : State} {core i : Nat} {b : Option Nat}

theorem slotStep_of_slotted (h : (s.core core).slotted = true) : slotStep s core = .next s := if_pos h

/-- Slot A's part of the step, on the state that slot B's word leaves. -/
def slotAStep (s : State) (core : Nat) (b : Option Nat) : Host.Outcome State Fault Refusal :=
  let t := missPrio s core ((leftToA s core b).filter fun i => pickA s core b != some i)
  match pickA s core b with
  | some i => slotIssue t core i false
  | none => .next t

theorem slotStep_of_pickB_none (h : (s.core core).slotted = false) (hb : pickB s core = none) :
    slotStep s core = slotAStep (s.modCore core fun k => { k with slotted := true }) core none := by
  rw [slotStep, if_neg (by rw [h]; exact Bool.false_ne_true), hb]
  rfl

theorem slotStep_of_pickB_some (h : (s.core core).slotted = false) (hb : pickB s core = some i)
    (hx : slotIssue (s.modCore core fun k => { k with slotted := true }) core i true = .next x) :
    slotStep s core = slotAStep x core (some i) := by
  rw [slotStep, if_neg (by rw [h]; exact Bool.false_ne_true), hb]
  simp only [hx]
  rfl

/-- What slot A chooses issues, and every other ready instruction with PRIO loses its place. -/
theorem slotAStep_cases (s : State) (core : Nat) (b : Option Nat) :
    let m := missPrio s core ((leftToA s core b).filter fun i => pickA s core b != some i)
    (pickA s core b = none → slotAStep s core b = .next m) ∧
    (∀ i, pickA s core b = some i → slotAStep s core b = slotIssue m core i false) := by
  refine ⟨fun h => ?_, fun i h => ?_⟩
  · simp only [slotAStep, h]
  · simp only [slotAStep, h]

theorem step_slots {rest : List Choice} (h : s.agenda = .slots core :: rest) : step s = slotStep { s with agenda := rest } core := by
  rw [step, h]

theorem step_event {rest : List Choice} {i : Instr} (h : s.agenda = .event i :: rest) :
    step s = if i.isEvent then exec i { s with agenda := rest } else .next { s with agenda := rest } := by
  rw [step, h]

/-! ### A cycle in which every core's slots have chosen -/

theorem slotsOf_of_slotted {cs : List Nat} (h : ∀ c ∈ cs, (s.core c).slotted = true) : slotsOf s cs = .next s := by
  induction cs with
  | nil => rfl
  | cons c cs ih =>
    rw [slotsOf, slotStep_of_slotted (h c List.mem_cons_self)]
    exact ih fun d hd => h d (List.mem_cons_of_mem _ hd)

/-- What a map gives for one of its keys is one of its entries. -/
theorem fgetD_mem {α : Type} {m : FMap α} {k : Nat} (h : k ∈ m.map (·.1)) (d : α) : (k, fgetD m k d) ∈ m := by
  induction m with
  | nil => exact absurd h List.not_mem_nil
  | cons p m ih =>
    obtain ⟨j, v⟩ := p
    by_cases hj : j = k
    · subst hj
      simp [fgetD, fget]
    · have hk : k ∈ m.map (·.1) := (List.mem_cons.1 h).resolve_left fun e => hj e.symm
      rw [fgetD, fget, if_neg hj]
      exact List.mem_cons_of_mem _ (ih hk)

theorem cyclePasses_of_slotted (h : (s.cores.all fun (_, k) => k.slotted) = true) :
    cyclePasses s = .next (tick (routersFree (routeAll s))) := by
  have hslotted : ∀ c ∈ s.cores.map (·.1), (s.core c).slotted = true :=
    fun c hc => List.all_eq_true.1 h (c, s.core c) (fgetD_mem hc {})
  rw [cyclePasses, slotsOf_of_slotted hslotted]

theorem step_nothing (h : s.agenda = []) : step s = cyclePasses s := by
  rw [step, h]

end

/-! ### The issue of a word (R70, R85, R111, R363) -/

@[simp] theorem length_coherentRead (s : State) (pa n : Nat) : (coherentRead s pa n).length = n := by
  induction n generalizing pa with
  | zero => rfl
  | succ n ih => rw [coherentRead, List.length_cons, ih]

theorem decodeInsn_of_ok {w : Insn} {i : Instr} (h : decodeWord w = .ok i) : decodeInsn w = i := by
  rw [decodeInsn, h]

theorem decodeInsn_of_error {w : Insn} {x : DecodeError} (h : decodeWord w = .error x) : decodeInsn w = .illegalInstruction w := by
  rw [decodeInsn, h]

section
variable {s t : State}

theorem fetch_word {p : Nat} {e : RtEntry} (h : translate s s.cur.1 s.myCore.ctx s.me.pc.toNat .exec (s.cur.1 / 1024) = (t, .ok p e))
    (hdram : hasDram (p * 4096 + s.me.pc.toNat % 4096) = true) :
    fetch s = .word (decodeInsn (wordAt t (p * 4096 + s.me.pc.toNat % 4096))) t := by
  rw [fetch]
  simp only [h, hdram, if_true]

theorem fetch_fail {cause : Nat}
    (h : translate s s.cur.1 s.myCore.ctx s.me.pc.toNat .exec (s.cur.1 / 1024) = (t, .fail cause)) :
    fetch s = .trap cause (s.me.pc.setWidth 64) t := by
  rw [fetch]
  simp only [h]

theorem issueHere_of_owes (hi : s.me.issues = true) (hl : s.myCore.live = true) (hg : s.me.gap = 0) (ho : s.me.owes = true) :
    issueHere s = .next (payMe s) := by
  rw [issueHere, hi, hl, hg, if_neg (by decide), if_pos ho]

section
variable (hi : s.me.issues = true) (hl : s.myCore.live = true) (hg : s.me.gap = 0) (ho : s.me.owes = false)
include hi hl hg ho

theorem issueHere_of_word {i : Instr} (hf : fetch s = .word i t) (hd : Instr.divides i = false ∨ t.myCore.divBusy = 0) :
    issueHere s = exec i t := by
  have hfree : (Instr.divides i && t.myCore.divBusy ≠ 0) = false := by
    rw [Bool.and_eq_false_iff, decide_eq_false_iff_not, not_not]
    exact hd
  rw [issueHere, hi, hl, hg, ho, if_neg (by decide), if_neg Bool.false_ne_true, hf]
  simp only [hfree, Bool.false_eq_true, if_false]

theorem issueHere_of_trap {cause : Nat} {v : Word} (hf : fetch s = .trap cause v t) :
    issueHere s = raise t (trapMe t cause v) := by
  rw [issueHere, hi, hl, hg, ho, if_neg (by decide), if_neg Bool.false_ne_true, hf]

end

/-! ### A slot's chosen carrel -/

/-- The state in which a slot's chosen carrel issues. -/
def issuing (s : State) (core i : Nat) (b : Bool) : State := { s.modCore core (·.issuer s.cycle b i) with cur := (core, i) }

/-- What the word and its issue leave: a word that completed notes what its result waits for. -/
def noted (i : Instr) (pc : Va) : Host.Outcome State Fault Refusal → Host.Outcome State Fault Refusal
  | .next x => .next (timed i pc x)
  | o => o

variable {core j : Nat} {b : Bool}

theorem slotIssue_of_word {i : Instr} {u : State} (hu : u = issuing s core j b) (hf : fetch u = .word i t) :
    slotIssue s core j b = noted i u.me.pc (issueHere u) := by
  subst hu
  have hword : nextWord (s.modCore core (·.issuer s.cycle b j)) core j = some i := by
    rw [nextWord, ← issuing, hf]
  have hissue : issueAt (s.modCore core (·.issuer s.cycle b j)) core j = issueHere (issuing s core j b) := rfl
  rw [slotIssue]
  simp only [hword, hissue]
  cases issueHere (issuing s core j b) <;> rfl

theorem slotIssue_of_trap {u x : State} {cause : Nat} {v : Word} (hu : u = issuing s core j b) (hf : fetch u = .trap cause v t)
    (hx : issueHere u = .next x) : slotIssue s core j b = .next x := by
  subst hu
  have hword : nextWord (s.modCore core (·.issuer s.cycle b j)) core j = none := by
    rw [nextWord, ← issuing, hf]
  have hissue : issueAt (s.modCore core (·.issuer s.cycle b j)) core j = .next x := hx
  rw [slotIssue]
  simp only [hword, hissue]

end

/-- Settles O58: the step of the slots takes slot B's choice, then slot A's; the step of an event and of an empty agenda is that of
its choice; and a chosen carrel that can issue executes what `fetch` finds, which is what the statement spells out. -/
theorem stepRunsWord : Obligations.StepRunsWord := by
  unfold Obligations.StepRunsWord
  refine ⟨?slots, fun s rest i h => step_event h, fun s h hs => (step_nothing h).trans (cyclePasses_of_slotted hs), ?issue⟩
  case slots =>
    intro s c rest h
    refine ⟨fun hs => (step_slots h).trans (slotStep_of_slotted hs), fun i hi => candidate_of_pickB hi,
      fun x b i hi => candidate_of_pickA hi, fun hs => ⟨fun hb => ?_, fun i x hb hx => ?_⟩⟩
    · rw [step_slots h, slotStep_of_pickB_none hs hb]
      exact slotAStep_cases ..
    · rw [step_slots h, slotStep_of_pickB_some hs hb hx]
      exact slotAStep_cases ..
  case issue =>
    intro s c j b u
    refine ⟨issueHere_of_owes, fun hi hl hg ho => ⟨fun t p e ht hdram => ?word, fun t cause ht => ?fail⟩⟩
    case word =>
      have hfetch := fetch_word ht hdram
      refine ⟨by rw [List.length_map, length_coherentRead], fun i hw hd => ?decoded, fun x hw => ?illegal⟩
      case decoded =>
        rw [wordAt, decodeInsn_of_ok hw] at hfetch
        rw [slotIssue_of_word (u := u) rfl hfetch, issueHere_of_word hi hl hg ho hfetch hd]
        cases exec i t <;> rfl
      case illegal =>
        rw [wordAt, decodeInsn_of_error hw] at hfetch
        rw [slotIssue_of_word (u := u) rfl hfetch, issueHere_of_word hi hl hg ho hfetch (.inl rfl)]
        cases exec (.illegalInstruction _) t <;> rfl
    case fail =>
      have hfetch := fetch_fail ht
      exact slotIssue_of_trap rfl hfetch (issueHere_of_trap hi hl hg ho hfetch)

end Sys2Proof.Proofs

namespace Sys2Proof.Proofs

open Sys2Proof Sys2Proof.Machine

/-! ### The canonical form of memory (R105, R145) in what an operation answers

One predicate for each type in which an operation gives back a state; then the form through the folds and options that operations are
built with. -/

def optOk : Option State → Prop
  | some t => t.memOk
  | none => True

def optFstOk {α : Type} : Option (State × α) → Prop
  | some p => p.1.memOk
  | none => True

/-- The state that a word's operation leaves, if it leaves one. -/
def wordOk : WordRes → Prop
  | .done t | .jump t _ | .trapWith t _ _ | .hold t | .park t _ | .exit t => t.memOk
  | .trap .. | .stall | .consume _ | .fault _ => True

/-- The next state, if there is one. -/
def outOk : Host.Outcome State Fault Refusal → Prop
  | .next t => t.memOk
  | _ => True

def fetchOk : FetchRes → Prop
  | .word _ t | .trap _ _ t => t.memOk
  | .fault _ => True

def arrivalOk : Arrival → Prop
  | .taken t | .held t | .dropped t => t.memOk
  | .refused | .notice _ => True

def optArrivalOk : Option Arrival → Prop
  | some a => arrivalOk a
  | none => True

def readOk : SiphRead → Prop
  | .bytes t _ | .wait t | .fail t => t.memOk

def writeOk : SiphWrite → Prop
  | .performed t | .sent t | .fail t => t.memOk

def errorOk {α β : Type} : Except (State × α) β → Prop
  | .error p => p.1.memOk
  | .ok _ => True

/-- A state with the memory of another one, whatever the rest of it is. -/
theorem memOk_mk {s : State} (h : s.memOk) (agenda cur cycle cores clusters dies ctxs flits reqs nextReq ranges blocks pushes merges hub
    outs) :
    (State.mk agenda cur cycle cores clusters dies ctxs s.mem s.memTags s.memPoison flits reqs nextReq ranges blocks pushes merges hub
      outs).memOk := h

theorem memOk_ite {c : Prop} [Decidable c] {s t : State} (hs : s.memOk) (ht : t.memOk) : (if c then s else t).memOk := by
  split
  · exact hs
  · exact ht

/-- A fold keeps what each of its steps keeps. -/
theorem foldl_keeps {α β : Type} {P : β → Prop} {f : β → α → β} (hf : ∀ b a, P b → P (f b a)) (l : List α) {b : β} (h : P b) :
    P (l.foldl f b) := by
  induction l generalizing b with
  | nil => exact h
  | cons a l ih => exact ih (hf b a h)

theorem memOk_foldl {α : Type} {f : State → α → State} (hf : ∀ s a, s.memOk → (f s a).memOk) (l : List α) {s : State} (h : s.memOk) :
    (l.foldl f s).memOk := foldl_keeps hf l h

theorem memOk_foldl_fst {α β : Type} {f : State × β → α → State × β} (hf : ∀ p a, p.1.memOk → (f p a).1.memOk) (l : List α)
    {p : State × β} (h : p.1.memOk) : (l.foldl f p).1.memOk :=
  foldl_keeps (P := fun p : State × β => p.1.memOk) hf l h

theorem optOk_foldl {α : Type} {f : Option State → α → Option State} (hf : ∀ o a, optOk o → optOk (f o a)) (l : List α)
    {o : Option State} (h : optOk o) : optOk (l.foldl f o) := foldl_keeps hf l h

theorem optFstOk_foldl {α β : Type} {f : Option (State × β) → α → Option (State × β)} (l : List α)
    (hf : ∀ o, ∀ a ∈ l, optFstOk o → optFstOk (f o a)) {o : Option (State × β)} (h : optFstOk o) : optFstOk (l.foldl f o) := by
  induction l generalizing o with
  | nil => exact h
  | cons a l ih => exact ih (fun o b hb => hf o b (List.mem_cons_of_mem _ hb)) (hf o a (List.mem_cons_self ..) h)

theorem optOk_bind {o : Option State} (h : optOk o) {f : State → Option State} (hf : ∀ s, s.memOk → optOk (f s)) : optOk (o.bind f) := by
  cases o with
  | none => trivial
  | some s => exact hf s h

theorem optOk_map {o : Option State} (h : optOk o) {f : State → State} (hf : ∀ s, s.memOk → (f s).memOk) : optOk (o.map f) := by
  cases o with
  | none => trivial
  | some s => exact hf s h

theorem optOk_map_of_forall {α : Type} {o : Option α} {f : α → State} (hf : ∀ a, (f a).memOk) : optOk (o.map f) := by
  cases o with
  | none => trivial
  | some a => exact hf a

theorem optFstOk_map_of_forall {α β : Type} {o : Option α} {f : α → State × β} (hf : ∀ a, (f a).1.memOk) : optFstOk (o.map f) := by
  cases o with
  | none => trivial
  | some a => exact hf a

theorem optOk_map_fst {α : Type} {o : Option (State × α)} (h : optFstOk o) {f : State × α → State} (hf : ∀ p, p.1.memOk → (f p).memOk) :
    optOk (o.map f) := by
  cases o with
  | none => trivial
  | some p => exact hf p h

theorem optFstOk_map {α : Type} {o : Option State} (h : optOk o) {f : State → State × α} (hf : ∀ s, s.memOk → (f s).1.memOk) :
    optFstOk (o.map f) := by
  cases o with
  | none => trivial
  | some s => exact hf s h

theorem optOk_findSome? {α : Type} {f : α → Option State} (hf : ∀ a, optOk (f a)) (l : List α) : optOk (l.findSome? f) := by
  induction l with
  | nil => trivial
  | cons a l ih =>
    rw [List.findSome?_cons]
    have := hf a
    grind [optOk]

theorem memOk_getD {o : Option State} (ho : optOk o) {s : State} (h : s.memOk) : (o.getD s).memOk := by
  cases o with
  | none => exact h
  | some t => exact ho

end Sys2Proof.Proofs

namespace Sys2Proof.Proofs

open Sys2Proof Sys2Proof.Machine

-- One proof after another: side by side, the proofs of this section take more memory than the check has.
set_option Elab.async false

/-! ### The parts of the state, traps, the end of a word, the outbox (Ops) -/

theorem memOk_setCore {s : State} (h : s.memOk) (c : Nat) (x : Core) : (s.setCore c x).memOk := h
theorem memOk_modCore {s : State} (h : s.memOk) (c : Nat) (f : Core → Core) : (s.modCore c f).memOk := h
theorem memOk_setCluster {s : State} (h : s.memOk) (k : Nat) (x : Cluster) : (s.setCluster k x).memOk := h
theorem memOk_modCluster {s : State} (h : s.memOk) (k : Nat) (f : Cluster → Cluster) : (s.modCluster k f).memOk := h
theorem memOk_setDie {s : State} (h : s.memOk) (d : Nat) (x : Die) : (s.setDie d x).memOk := h
theorem memOk_modDie {s : State} (h : s.memOk) (d : Nat) (f : Die → Die) : (s.modDie d f).memOk := h
theorem memOk_setCtx {s : State} (h : s.memOk) (c : Nat) (x : Ctx) : (s.setCtx c x).memOk := h
theorem memOk_setCarrel {s : State} (h : s.memOk) (c i : Nat) (x : Carrel) : (s.setCarrel c i x).memOk := h
theorem memOk_modCarrel {s : State} (h : s.memOk) (c i : Nat) (f : Carrel → Carrel) : (s.modCarrel c i f).memOk := h
theorem memOk_modMe {s : State} (h : s.memOk) (f : Carrel → Carrel) : (s.modMe f).memOk := h
theorem memOk_modMyCore {s : State} (h : s.memOk) (f : Core → Core) : (s.modMyCore f).memOk := h
theorem memOk_modHub {s : State} (h : s.memOk) (f : Hub → Hub) : (s.modHub f).memOk := h
theorem memOk_emit {s : State} (h : s.memOk) (o : Output) : (s.emit o).memOk := h
theorem memOk_tellOs {s : State} (h : s.memOk) (o : Output) : (s.tellOs o).memOk := h
theorem memOk_takeIrq {s : State} (h : s.memOk) (core : Nat) : (s.takeIrq core).memOk := h
theorem memOk_put {s : State} (h : s.memOk) (r : Reg) (v : TCap) : (s.put r v).memOk := h
theorem memOk_putData {s : State} (h : s.memOk) (r : Reg) (w : Word) : (s.putData r w).memOk := h
theorem memOk_doubleTrap {s : State} (h : s.memOk) (c i code : Nat) (tval : Word) : (doubleTrap s c i code tval).memOk := h

theorem memOk_takeTrap {s : State} (h : s.memOk) (c i code : Nat) (tval : Word) : (takeTrap s c i code tval).memOk := by
  unfold takeTrap
  grind [memOk_doubleTrap, memOk_setCarrel]

theorem memOk_modLaunch {s : State} (h : s.memOk) (l : Option Nat) (f : Launch → Launch) : (s.modLaunch l f).memOk := by
  unfold State.modLaunch
  grind [memOk_modHub]

theorem memOk_taint {s : State} (h : s.memOk) (c : Nat) : (s.taint c).memOk := memOk_modLaunch h ..
theorem memOk_abandon {s : State} (h : s.memOk) (c i : Nat) : (abandon s c i).memOk := memOk_taint h ..
theorem memOk_retire {s : State} (h : s.memOk) : s.retire.memOk := h
theorem memOk_retireTo {s : State} (h : s.memOk) (pc : Va) : (s.retireTo pc).memOk := h

theorem memOk_drainOutbox {s : State} (h : s.memOk) (c i : Nat) : (drainOutbox s c i).memOk := by
  unfold drainOutbox
  grind [memOk_setCore]

theorem memOk_commitPoint {s : State} (h : s.memOk) (c i : Nat) : (commitPoint s c i).memOk := h
theorem memOk_putEntry {s : State} (h : s.memOk) (c i : Nat) (e : Entry) : (putEntry s c i e).memOk := h

/-! ### Restarts and consumed errors (Activation) -/

theorem memOk_restart {s : State} (h : s.memOk) (c i n : Nat) : (restart s c i n).memOk := by
  unfold restart
  grind [memOk_setCore]

theorem memOk_countReplay {s : State} (h : s.memOk) (c : Nat) : (s.countReplay c).memOk := memOk_modLaunch h ..

theorem memOk_consumeError {s : State} (h : s.memOk) (c i : Nat) (x : Word) : (consumeError s c i x).memOk := by
  unfold consumeError
  grind [memOk_countReplay, memOk_restart, memOk_takeTrap]

/-! ### The health registers and their triggers (Health) -/

theorem memOk_setHealth {s : State} (h : s.memOk) (k p w : Nat) : (s.setHealth k p w).memOk := h

theorem memOk_honour {s : State} (h : s.memOk) (k p : Nat) : (honour s k p).memOk := by
  unfold honour
  grind [memOk_modCluster, memOk_tellOs]

theorem memOk_trigger {s : State} (h : s.memOk) (k p : Nat) : (trigger s k p).memOk := by
  unfold trigger
  grind [memOk_honour, memOk_modCluster]

theorem memOk_countError {s : State} (h : s.memOk) (k p : Nat) : (countError s k p).memOk := by
  unfold countError
  grind [memOk_setHealth, memOk_trigger]

theorem memOk_countCluster {s : State} (h : s.memOk) (k : Nat) : (countCluster s k).memOk := h
theorem memOk_countAt {s : State} (h : s.memOk) (core : Nat) : (countAt s core).memOk := memOk_countError h ..

/-! ### Messages to homes, ways and runs, eviction, fills, writes (Coherence) -/

theorem memOk_sendToHome {s : State} (h : s.memOk) (m : CatMsg) : (sendToHome s m).memOk := h
theorem memOk_sendToCluster {s : State} (h : s.memOk) (m : CatMsg) : (sendToCluster s m).memOk := h

theorem memOk_modFlying {s : State} (h : s.memOk) (g : CatMsg → CatMsg) : (s.modFlying g).memOk := by
  unfold State.modFlying
  grind [memOk_mk]

theorem memOk_modCache {s : State} (h : s.memOk) (r : CacheRef) (f : Cache → Cache) : (s.modCache r f).memOk := by
  unfold State.modCache
  grind [memOk_modCluster, memOk_modCore]

theorem memOk_refreshMask {s : State} (h : s.memOk) (k key : Nat) : (refreshMask s k key).memOk := by
  unfold refreshMask
  grind [memOk_modCache]

theorem memOk_makeRun {ev : State → Folio → State} (hev : ∀ s f, s.memOk → (ev s f).memOk) (r : CacheRef) (n : Nat) (keep : List Folio)
    (fuel : Nat) {s : State} (h : s.memOk) : optFstOk (makeRun ev r n keep fuel s) := by
  induction fuel generalizing s with
  | zero => exact optFstOk_map_of_forall fun _ => h
  | succ fuel ih =>
    unfold makeRun
    grind [optFstOk]

theorem memOk_mergeStep {ev : State → Folio → State} (hev : ∀ s f, s.memOk → (ev s f).memOk) {s : State} (h : s.memOk) (r : CacheRef)
    (key : Nat) : optOk (mergeStep ev s r key) := by
  refine optOk_findSome? (fun p => optOk_map ?_ fun t ht => ?_) _
  · split
    · exact memOk_modCache h _ _
    · exact optOk_map_fst (memOk_makeRun hev _ _ _ _ h) fun p hp => memOk_modCache hp _ _
  · cases r with
    | l1 _ => exact ht
    | l2 k => exact memOk_refreshMask ht k _

theorem memOk_freeWays {ev : State → Folio → State} (hev : ∀ s f, s.memOk → (ev s f).memOk) {s : State} (h : s.memOk) (r : CacheRef)
    (key n fuel : Nat) : optOk (freeWays ev r key n fuel s) := by
  fun_induction freeWays <;> grind [optOk, memOk_mergeStep]

theorem memOk_makeWay {ev : State → Folio → State} (hev : ∀ s f, s.memOk → (ev s f).memOk) {s : State} (h : s.memOk) (r : CacheRef)
    (key : Nat) : optOk (makeWay ev s r key) := by
  unfold makeWay
  grind [optOk, memOk_freeWays, optOk_map_of_forall]

theorem memOk_newFolio {ev : State → Folio → State} (hev : ∀ s f, s.memOk → (ev s f).memOk) {s : State} (h : s.memOk) (r : CacheRef)
    (f : Folio) (lru : Bool) : optOk (newFolio ev s r f lru) := by
  have hway := memOk_makeWay hev h r f.key
  unfold newFolio
  split
  · trivial
  · next t e =>
    rw [e] at hway
    exact optOk_map_fst (memOk_makeRun hev _ _ _ _ hway) fun p hp => memOk_modCache hp _ _

theorem memOk_cutFolios {ev : State → Folio → State} (hev : ∀ s f, s.memOk → (ev s f).memOk) {lost : State → Folio → List Folio → State}
    (hlost : ∀ s f fs, s.memOk → (lost s f fs).memOk) {s : State} (h : s.memOk) (r : CacheRef) (key lo hi : Nat) (win : Bool)
    (n : Nat) : (cutFolios ev lost r key lo hi win n s).memOk := by
  fun_induction cutFolios <;> grind [optOk, memOk_mergeStep, memOk_modCache]

theorem memOk_evictL1 {s : State} (h : s.memOk) (c : Nat) (f : Folio) : (evictL1 s c f).memOk := h

theorem memOk_removeL1 {s : State} (h : s.memOk) (c key lo hi : Nat) (win : Bool) : (removeL1 s c key lo hi win).memOk := by
  unfold removeL1
  grind [memOk_cutFolios, memOk_evictL1, memOk_modCache, memOk_refreshMask]

theorem memOk_removeFromL1s {s : State} (h : s.memOk) (k key lo hi : Nat) (win : Bool) : (removeFromL1s s k key lo hi win).memOk := by
  unfold removeFromL1s
  grind [memOk_foldl, memOk_removeL1]

theorem memOk_taintWriters {s : State} (h : s.memOk) (f : Folio) (ws : List Nat) : (taintWriters s f ws).memOk := by
  unfold taintWriters
  grind [memOk_modHub]

theorem memOk_writeBack {s : State} (h : s.memOk) (k : Nat) (f : Folio) (lo hi : Nat) : (writeBack s k f lo hi).memOk := by
  unfold writeBack
  grind [memOk_poisonWords, memOk_storeMem, memOk_taintWriters]

theorem memOk_sendEvn {s : State} (h : s.memOk) (k : Nat) (f : Folio) : (sendEvn s k f).memOk := by
  unfold sendEvn
  grind [memOk_foldl, memOk_modCluster, memOk_sendToHome, memOk_taintWriters, memOk_writeBack]

theorem memOk_leaveMasks {s : State} (h : s.memOk) (k key : Nat) : (leaveMasks s k key).memOk := by
  unfold leaveMasks
  grind [memOk_modDie]

theorem memOk_dropL2 {s : State} (h : s.memOk) (k : Nat) (f : Folio) : (dropL2 s k f).memOk := by
  unfold dropL2
  grind [memOk_leaveMasks, memOk_modCache, memOk_removeFromL1s]

theorem memOk_evictL2 {s : State} (h : s.memOk) (k : Nat) (f : Folio) : (evictL2 s k f).memOk := by
  unfold evictL2
  grind [memOk_dropL2, memOk_sendEvn]

theorem memOk_loseL2 {s : State} (h : s.memOk) (k : Nat) (f : Folio) (parts : List Folio) : (loseL2 s k f parts).memOk := by
  unfold loseL2
  grind [memOk_foldl, memOk_dropL2, memOk_sendEvn]

theorem memOk_removeL2 {s : State} (h : s.memOk) (k key lo hi : Nat) (win tell : Bool) : (removeL2 s k key lo hi win tell).1.memOk := by
  unfold removeL2
  grind [memOk_cutFolios, memOk_evictL2, memOk_leaveMasks, memOk_loseL2, memOk_modCache, memOk_removeFromL1s]

theorem memOk_copyBack {s : State} (h : s.memOk) (k key lo hi : Nat) (win : Bool) : (copyBack s k key lo hi win).memOk := by
  unfold copyBack
  grind [memOk_foldl, memOk_writeBack]

theorem memOk_cleanDirty {s : State} (h : s.memOk) (k key : Nat) (win stay : Bool)
    (hi n fuel : Nat) : (cleanDirty k key win stay hi n fuel s).memOk := by
  fun_induction cleanDirty <;> grind [optOk, memOk_evictL2, memOk_loseL2, memOk_mergeStep, memOk_modCache, memOk_removeFromL1s,
    memOk_writeBack]

theorem memOk_newL2 {s : State} (h : s.memOk) (k key lo hi : Nat) (st : FState) (data : List TByte)
    (p : Policy) : optOk (newL2 s k key lo hi st data p) := by
  unfold newL2
  grind [optOk_map, memOk_evictL2, memOk_newFolio, memOk_refreshMask]

theorem memOk_newL1 {s : State} (h : s.memOk) (c key lo hi : Nat) (p : Policy) : optOk (newL1 s c key lo hi p) := by
  unfold newL1
  grind [memOk_evictL1, memOk_newFolio]

theorem memOk_joinMask {s : State} (h : s.memOk) (die k pa len : Nat) : (joinMask s die k pa len).memOk := by
  unfold joinMask
  grind [memOk_modDie]

theorem memOk_stainWords {s : State} (h : s.memOk) (k key lo hi : Nat) (ws : List Nat) : (stainWords s k key lo hi ws).memOk := by
  unfold stainWords
  grind [memOk_modCache]

theorem memOk_fillL2 {s : State} (h : s.memOk) (k key lo hi : Nat) (p : Policy)
    (cistern : Bool) : (fillL2 s k key lo hi p cistern).1.memOk := by
  unfold fillL2
  grind [optOk, memOk_joinMask, memOk_newL2, memOk_sendToHome, memOk_stainWords]

theorem memOk_fillGaps {s : State} (h : s.memOk) (k key : Nat) (gaps : List (Nat × Nat)) (p : Policy)
    (cistern : Bool) : (fillGaps s k key gaps p cistern).1.memOk := by
  unfold fillGaps
  grind [memOk_foldl_fst, memOk_fillL2]

theorem memOk_fillL1Gaps {s : State} (h : s.memOk) (core key : Nat) (gaps : List (Nat × Nat))
    (p : Policy) : (fillL1Gaps s core key gaps p).1.memOk := by
  unfold fillL1Gaps
  grind [optOk, memOk_foldl_fst, memOk_newL1, memOk_refreshMask]

theorem memOk_startFill {s : State} (h : s.memOk) (core key lo hi : Nat) (p : Policy)
    (nal1 cistern : Bool) : (startFill s core key lo hi p nal1 cistern).1.memOk := by
  unfold startFill
  grind [memOk_fillGaps, memOk_fillL1Gaps, memOk_modCache]

theorem memOk_finishFill {s : State} (h : s.memOk) {remove : State → Nat → Nat → Bool → State}
    (hremove : ∀ s a b e, s.memOk → (remove s a b e).memOk) (r : CacheRef) (f : Folio) : (finishFill s r f remove).memOk := by
  unfold finishFill
  grind [memOk_foldl, memOk_modCache]

theorem memOk_updateL1s {s : State} (h : s.memOk) (k key : Nat) (bytes : List (Nat × TByte))
    (lo hi : Nat) : (updateL1s s k key bytes lo hi).memOk := by
  unfold updateL1s
  grind [memOk_foldl, memOk_modCache]

theorem memOk_dirtyClean {s : State} (h : s.memOk) (k key lo hi : Nat) (own : Option (Nat × Nat))
    (n : Nat) : (dirtyClean k key lo hi own n s).memOk := by
  fun_induction dirtyClean <;> grind [optOk, memOk_foldl, memOk_evictL2, memOk_mergeStep, memOk_modCache, memOk_removeFromL1s,
    memOk_sendEvn]

theorem memOk_writeHeld {s : State} (h : s.memOk) (k key lo : Nat) (bs : List TByte) (p : Policy) : (writeHeld s k key lo bs p).memOk := by
  unfold writeHeld
  grind [memOk_dirtyClean, memOk_modCache, memOk_refreshMask, memOk_updateL1s]

theorem memOk_addDirty {s : State} (h : s.memOk) (k key lo : Nat) (bs : List TByte) (p : Policy) : optOk (addDirty s k key lo bs p) := by
  unfold addDirty
  grind [optOk, memOk_modCache, memOk_newL2, memOk_refreshMask]

theorem memOk_staleReads {s : State} (h : s.memOk) (k pa len : Nat) : (staleReads s k pa len).memOk := by
  unfold staleReads
  grind [memOk_mk]

theorem memOk_placeWrite {s : State} (h : s.memOk) (k key lo : Nat) (bs : List TByte)
    (p : Policy) : optOk (placeWrite s k key lo bs p) := by
  unfold placeWrite
  grind [optOk, optOk_foldl, optOk_bind, memOk_addDirty, memOk_staleReads, memOk_writeHeld]

theorem memOk_purge {s : State} (h : s.memOk) (pa len : Nat) : (purge s pa len).memOk := by
  unfold purge
  grind [memOk_foldl, memOk_removeL2]

theorem memOk_overtake {s : State} (h : s.memOk) (pa len : Nat) : (overtake s pa len).memOk := by
  unfold overtake
  grind [memOk_modFlying]

theorem memOk_discover {s : State} (h : s.memOk) (pa len : Nat) : (discover s pa len).memOk := by
  unfold discover
  grind [memOk_setDie]

theorem memOk_noteAccess {s : State} (h : s.memOk) (pa len : Nat) (own : Bool) : (noteAccess s pa len own).memOk := by
  unfold noteAccess
  grind [memOk_discover, memOk_modDie]

theorem memOk_coherentWrite {s : State} (h : s.memOk) (pa : Nat) (bs : List TByte) : (coherentWrite s pa bs).memOk := by
  unfold coherentWrite
  grind [memOk_noteAccess, memOk_overtake, memOk_purge, memOk_storeMem]

theorem memOk_coherentFetch {s : State} (h : s.memOk) (pa len : Nat) : (coherentFetch s pa len).memOk := by
  unfold coherentFetch
  grind [memOk_foldl, memOk_cleanDirty, memOk_noteAccess]

theorem memOk_scrPut {s : State} (h : s.memOk) (core region off : Nat) (bs : List TByte) : (scrPut s core region off bs).memOk := by
  unfold scrPut
  grind [memOk_foldl, memOk_modCluster, memOk_modCore]

theorem memOk_scrWrite {s : State} (h : s.memOk) (core region off : Nat) (bs : List TByte) : (scrWrite s core region off bs).memOk :=
  memOk_scrPut h ..

theorem memOk_repairScr {s : State} (h : s.memOk) (core region off : Nat) : (repairScr s core region off).memOk := by
  unfold repairScr
  grind [memOk_countAt, memOk_modCore]

theorem memOk_healRegion {s : State} (h : s.memOk) (core region off n : Nat) : (healRegion s core region off n).memOk := by
  unfold healRegion
  grind [memOk_foldl, memOk_repairScr]

theorem memOk_healPlaces {s : State} (h : s.memOk) (core : Nat) (ls : List Loc) : (healPlaces s core ls).memOk := by
  unfold healPlaces
  grind [memOk_foldl, memOk_healRegion]

/-! ### Translation and places (Translate) -/

theorem memOk_egLog {s : State} (h : s.memOk) (ctx srck : Nat) (typ : Bool) (req addr : Nat) : (egLog s ctx srck typ req addr).memOk :=
  h

theorem memOk_egCore {s : State} (h : s.memOk) (ctx core : Nat) (typ : Bool) (addr : Nat) : (egCore s ctx core typ addr).memOk := by
  unfold egCore
  grind [memOk_egLog]

theorem memOk_rtLookup {s : State} (h : s.memOk) (core ctx g : Nat) : (rtLookup s core ctx g).1.memOk := by
  unfold rtLookup
  grind [memOk_modCluster, memOk_modCore]

theorem memOk_translate {s : State} (h : s.memOk) (core ctx va : Nat) (acc : Acc_) (die : Nat) :
    (Machine.translate s core ctx va acc die).1.memOk := by
  unfold Machine.translate
  grind [memOk_rtLookup]

theorem memOk_placesVa {s : State} (h : s.memOk) (core ctx addr : Nat) (acc : Acc_)
    (l : List (Nat × Nat × Nat)) : (placesVa s core ctx addr acc l).1.memOk := by
  fun_induction placesVa <;> grind [memOk_translate]

theorem memOk_places {s : State} (h : s.memOk) (core ctx addr size : Nat) (acc : Acc_) : (places s core ctx addr size acc).1.memOk := by
  unfold places
  grind [memOk_egCore, memOk_placesVa]

/-! ### The view of a cell (View) -/

theorem memOk_healCell {s : State} (h : s.memOk) (k pa : Nat) : (healCell s k pa).memOk := by
  unfold healCell
  grind [memOk_countCluster, memOk_evictL2]

theorem memOk_cellBase {s : State} (h : s.memOk) (core pa size : Nat) (h : CacheHint) : (cellBase s core pa size h).1.memOk := by
  unfold cellBase
  grind [memOk_healCell, memOk_modCache, memOk_startFill]

theorem memOk_viewCell {s : State} (h : s.memOk) (core carrel pa typ size : Nat)
    (h : CacheHint) : (viewCell s core carrel pa typ size h).1.memOk := by
  unfold viewCell
  grind [memOk_cellBase]

/-! ### A word from its sources to its end (Operands) -/

theorem memOk_scopeReading {s : State} (h : s.memOk) (c i id : Nat) : (scopeReading s c i id).1.memOk := by
  unfold scopeReading
  grind [memOk_modCarrel, memOk_translate]

theorem memOk_scopeOf {s : State} (h : s.memOk) (c i id : Nat) : (scopeOf s c i id).1.memOk := by
  unfold scopeOf
  grind [memOk_scopeReading]

theorem memOk_parkMe {s : State} (h : s.memOk) (why : ParkWhy) (pops : List Reg) : (parkMe s why pops).memOk := h

theorem memOk_popAll {s : State} (h : s.memOk) (rs : List Reg) : (popAll s rs).memOk := by
  unfold popAll
  grind [memOk_modMe]

theorem memOk_trapMe {s : State} (h : s.memOk) (cause : Nat) (tval : Word) : (trapMe s cause tval).memOk := memOk_takeTrap h ..

theorem memOk_raise {s : State} (h : s.memOk) {t : State} (ht : t.memOk) : outOk (raise s t) := by
  unfold raise
  grind [outOk]

theorem memOk_recordSync {t : State} (ht : t.memOk) (i : Instr) (s : State) (r : SyncRec) : (recordSync i s t r).memOk := by
  unfold recordSync
  grind [memOk_modMe]

theorem memOk_complete {s : State} (h : s.memOk) {r : WordRes} (hr : wordOk r) (i : Instr) (o : OpSpec) : outOk (complete i o s r) := by
  unfold complete
  grind [wordOk, outOk, memOk_recordSync, memOk_popAll, memOk_retire, memOk_retireTo, memOk_raise, memOk_trapMe, memOk_parkMe,
    memOk_consumeError]

theorem memOk_markTrap {s : State} (h : s.memOk) (m : ErrMark) : wordOk (markTrap s m) := by
  unfold markTrap
  grind [wordOk, memOk_modMe]

theorem wordOk_firstCause {rs : List WordRes} (hrs : ∀ r ∈ rs, wordOk r) {x : WordRes} (hx : firstCause rs = some x) : wordOk x := by
  induction rs generalizing x with
  | nil => cases hx
  | cons r rs ih => grind [firstCause]

theorem wordOk_cause {g : Gate} {r : WordRes} (h : g.cause = some r) : wordOk r := by
  cases g <;> cases h <;> trivial

theorem wordOk_ownCauses {o : OpSpec} {s : State} {g d : Gate} {r x : WordRes} (hr : wordOk r) (hx : some x ∈ ownCauses o s g r d) :
    wordOk x := by
  unfold ownCauses at hx
  grind [wordOk_cause]

theorem memOk_runOps {s : State} (h : s.memOk) {body : State → List TCap → WordRes} (hbody : ∀ vs, wordOk (body s vs)) (o : OpSpec) :
    wordOk (runOps o s body) := by
  have hown := fun g d x => @wordOk_ownCauses o s g d (body s (readSources s.me o.cs)) x (hbody _)
  unfold runOps
  split
  · trivial
  · exact h
  · exact memOk_markTrap h _
  · dsimp only
    split
    · next e =>
      refine wordOk_firstCause (fun r hr => ?_) e
      simp only [List.mem_filterMap, List.mem_append, List.mem_singleton, id] at hr
      obtain ⟨x, hr | hr, rfl⟩ := hr
      · exact hown _ _ _ hr
      · grind [wordOk]
    · split
      · trivial
      · exact hbody _

theorem memOk_wordRes {s : State} (h : s.memOk) {body : State → List TCap → WordRes} (hbody : ∀ vs, wordOk (body s vs)) (i : Instr)
    (o : OpSpec) : wordOk (wordRes i o s body) := by
  unfold wordRes
  grind [wordOk, memOk_runOps]

theorem memOk_twinWait {s : State} (h : s.memOk) (i : Instr) : (twinWait i s).memOk := by
  unfold twinWait
  grind [memOk_modMe]

theorem memOk_runWord {s : State} (h : s.memOk) {body : State → List TCap → WordRes} (hbody : ∀ vs, wordOk (body s vs)) (i : Instr)
    (o : OpSpec) : outOk (runWord i o s body) := by
  unfold runWord
  grind [outOk, memOk_twinWait, memOk_complete, memOk_wordRes]

theorem memOk_dataWord {s : State} (h : s.memOk) (i : Instr) (d : Reg) (cs : List Reg)
    (f : List Word → Word) : outOk (dataWord i d cs s f) := by
  unfold dataWord
  grind [wordOk, memOk_putData, memOk_runWord]

/-! ### Integer words (Alu) -/

theorem memOk_aluWord {s : State} (h : s.memOk) (i : Instr) (d a b : Reg) (w : Bool)
    (f : Nat → Nat → Nat → Nat) : outOk (aluWord i d a b w s f) := memOk_dataWord h ..

theorem memOk_immWord {s : State} (h : s.memOk) (i : Instr) (d a : Reg) (imm : BitVec 14)
    (f : Word → Word → Word) : outOk (immWord i d a imm s f) := memOk_dataWord h ..

theorem memOk_execSel {s : State} (h : s.memOk) (d a b : Reg) : outOk (execSel d a b s) := by
  unfold execSel
  grind [memOk_dataWord]

/-! ### Outbox entries and commit points (Access) -/

theorem memOk_opScope {s : State} (h : s.memOk) (default : Nat) : (opScope s default).1.memOk := by
  unfold opScope
  grind [memOk_scopeOf]

theorem memOk_tryCommit {s : State} (h : s.memOk) {k : State → WordRes} (hk : ∀ s, s.memOk → wordOk (k s)) : wordOk (tryCommit s k) := by
  unfold tryCommit
  grind [wordOk, memOk_commitPoint, memOk_modMe]

theorem memOk_putOut {s : State} (h : s.memOk) (es : List Entry) : wordOk (putOut s es) := by
  unfold putOut
  grind [wordOk, memOk_foldl, memOk_putEntry, memOk_tryCommit]

theorem memOk_putOutWhen {s : State} (h : s.memOk) {ok : State → Bool} (e : Entry) : wordOk (putOutWhen s ok e) := by
  unfold putOutWhen
  grind [wordOk, memOk_putEntry, memOk_tryCommit]

/-! ### Loads (Loads) -/

theorem memOk_newReq {s : State} (h : s.memOk) (user : ReqUser) (addr : Word) (outside : Bool) : (newReq s user addr outside).1.memOk :=
  h

theorem memOk_takeSeq {s : State} (h : s.memOk) (core stream : Nat) : (takeSeq s core stream).1.memOk := h

theorem memOk_sendReq {s : State} (h : s.memOk) (r : Nat) (f : Flit) : (sendReq s r f).memOk := by
  unfold sendReq
  grind [memOk_mk]

theorem memOk_sendOp {s : State} (h : s.memOk) (core : Nat) (user : ReqUser) (l : Loc)
    (op : PeerOp) : (sendOp s core user l op).1.memOk := by
  unfold sendOp
  grind [memOk_emit, memOk_newReq, memOk_sendReq, memOk_takeSeq]

theorem memOk_healByte {s : State} (h : s.memOk) (core pa : Nat) : (healByte s core pa).memOk := by
  unfold healByte
  grind [memOk_countAt, memOk_countCluster, memOk_evictL1, memOk_evictL2, memOk_fillGaps, memOk_fillL1Gaps]

theorem memOk_healScr {s : State} (h : s.memOk) (core : Nat) (l : Outst) : (healScr s core l).memOk := memOk_healPlaces h ..

theorem memOk_heal {s : State} (h : s.memOk) (core : Nat) (l : Outst) : (heal s core l).memOk := by
  unfold heal
  grind [memOk_foldl, memOk_healByte, memOk_healScr]

theorem memOk_sendUncr {s : State} (h : s.memOk) (core carrel id pa len : Nat) : (sendUncr s core carrel id pa len).memOk := h

theorem memOk_askElem {s : State} (h : s.memOk) (core carrel : Nat) (l : Outst) (e : LElem)
    (need : List Loc) : (askElem s core carrel l e need).1.memOk := by
  unfold askElem
  grind [memOk_sendOp]

theorem memOk_startElem {s : State} (h : s.memOk) (core carrel : Nat) (l : Outst) (first waits : Bool)
    (e : LElem) : (startElem s core carrel l first waits e).1.memOk := by
  unfold startElem
  grind [memOk_askElem, memOk_sendUncr, memOk_startFill]

theorem memOk_touchRead {s : State} (h : s.memOk) (core : Nat) (l : Outst) (read : List LElem) : (touchRead s core l read).memOk := by
  unfold touchRead
  grind [memOk_foldl, memOk_modCache]

theorem memOk_pursue {s : State} (h : s.memOk) (core carrel : Nat) (l : Outst)
    (first : Bool) : (pursue s core carrel l first).1.memOk := by
  unfold pursue
  grind [memOk_foldl_fst, memOk_heal, memOk_startElem, memOk_touchRead]

theorem memOk_rollback {s : State} (h : s.memOk) (core carrel : Nat) (l : Outst) : (rollback s core carrel l).memOk := by
  unfold rollback
  grind [memOk_modCarrel]

theorem memOk_finishLoad {s : State} (h : s.memOk) (core carrel : Nat) (l : Outst) : (finishLoad s core carrel l).memOk := by
  unfold finishLoad
  grind [memOk_mk, memOk_consumeError, memOk_modCarrel, memOk_rollback]

theorem memOk_issueLoad {s : State} (h : s.memOk) (l : Outst) : wordOk (issueLoad s l) := by
  unfold issueLoad
  grind [wordOk, memOk_modMe, memOk_pursue, memOk_setCore]

/-! ### Vector integer words (VecInt) -/

theorem memOk_vecWord {s : State} (h : s.memOk) (i : Instr) (v : VReg) (vs : List VReg) (m : MReg) (w : Nat)
    (f : List VWord → List Nat) : outOk (vecWord i v vs m w s f) := by
  unfold vecWord
  grind [wordOk, memOk_modMe, memOk_runWord]

theorem memOk_vec2 {s : State} (h : s.memOk) (i : Instr) (v a b : VReg) (m : MReg) (w : ElemWidth)
    (f : Nat → Nat → Nat → Nat) : outOk (vec2 i v a b m w s f) := memOk_vecWord h ..

theorem memOk_execVminu {s : State} (h : s.memOk) (v a b : VReg) (m : MReg) (w : ElemWidth) : outOk (execVminu v a b m w s) := by
  unfold execVminu
  grind [memOk_vec2]

theorem memOk_execVmaxu {s : State} (h : s.memOk) (v a b : VReg) (m : MReg) (w : ElemWidth) : outOk (execVmaxu v a b m w s) := by
  unfold execVmaxu
  grind [memOk_vec2]

theorem memOk_execVcmp {s : State} (h : s.memOk) (d : MReg) (a b : VReg) (m : MReg) (w : ElemWidth)
    (c : Cond) : outOk (execVcmp d a b m w c s) := by
  unfold execVcmp
  grind [wordOk, memOk_modMe, memOk_runWord]

theorem memOk_execMtoc {s : State} (h : s.memOk) (d : Reg) (a : MReg) (w : ElemWidth) : outOk (execMtoc d a w s) := by
  unfold execMtoc
  grind [wordOk, memOk_putData, memOk_runWord]

theorem memOk_execCtom {s : State} (h : s.memOk) (d : MReg) (a : Reg) (w : ElemWidth) : outOk (execCtom d a w s) := by
  unfold execCtom
  grind [wordOk, memOk_modMe, memOk_runWord]

theorem memOk_execMcnt {s : State} (h : s.memOk) (d : Reg) (a : MReg) (w : ElemWidth) : outOk (execMcnt d a w s) := by
  unfold execMcnt
  grind [wordOk, memOk_putData, memOk_runWord]

theorem memOk_execMop {s : State} (h : s.memOk) (d a b : MReg) (o : MaskOp) : outOk (execMop d a b o s) := by
  unfold execMop
  grind [wordOk, memOk_modMe, memOk_runWord]

theorem memOk_execVbcast {s : State} (h : s.memOk) (d : VReg) (a : Reg) (w : ElemWidth) : outOk (execVbcast d a w s) := by
  unfold execVbcast
  grind [wordOk, memOk_modMe, memOk_runWord]

theorem memOk_execVins {s : State} (h : s.memOk) (d : VReg) (a b : Reg) (w : ElemWidth) : outOk (execVins d a b w s) := by
  unfold execVins
  grind [wordOk, memOk_modMe, memOk_runWord]

theorem memOk_execVext {s : State} (h : s.memOk) (d : Reg) (a : VReg) (b : Reg) (w : ElemWidth) : outOk (execVext d a b w s) := by
  unfold execVext
  grind [wordOk, memOk_putData, memOk_runWord]

theorem memOk_execVred {s : State} (h : s.memOk) (d : Reg) (a : VReg) (o : RedOp) (w : ElemWidth) : outOk (execVred d a o w s) := by
  unfold execVred
  grind [wordOk, memOk_putData, memOk_runWord]

theorem memOk_execVsel {s : State} (h : s.memOk) (v a b : VReg) (m : MReg) (w : ElemWidth) : outOk (execVsel v a b m w s) := by
  unfold execVsel
  grind [wordOk, memOk_modMe, memOk_runWord]

/-! ### LD, ST and the vector accesses (MemOps) -/

theorem memOk_afterStall {k : WordRes} (hk : wordOk k) (s : State) (touch : List (Nat × Nat)) : wordOk (afterStall s touch k) := by
  unfold afterStall
  grind [wordOk]

theorem memOk_storeOut {s : State} (h : s.memOk) (touch : List (Nat × Nat)) (e : Entry) : wordOk (storeOut s touch e) :=
  memOk_putOutWhen h ..

theorem memOk_loadCell {s : State} (h : s.memOk) (d : Reg) (w : LdWidth) (addr pa typ : Nat) : wordOk (loadCell s d w addr pa typ) := by
  unfold loadCell
  grind [wordOk, memOk_afterStall, memOk_put, memOk_viewCell]

theorem memOk_execLd {s : State} (h : s.memOk) (d a : Reg) (w : LdWidth) (o : BitVec 11) : outOk (execLd d a w o s) := by
  unfold execLd
  grind [wordOk, memOk_afterStall, memOk_issueLoad, memOk_loadCell, memOk_opScope, memOk_places, memOk_runWord]

theorem memOk_storeCell {s : State} (h : s.memOk) (i : Instr) (n addr pa typ v : Nat) : wordOk (storeCell s i n addr pa typ v) := by
  unfold storeCell
  grind [wordOk, memOk_afterStall, memOk_storeOut, memOk_viewCell]

theorem memOk_execSt {s : State} (h : s.memOk) (r a : Reg) (w : StWidth) (o : BitVec 11) : outOk (execSt r a w o s) := by
  unfold execSt
  grind [wordOk, memOk_afterStall, memOk_opScope, memOk_places, memOk_runWord, memOk_storeCell, memOk_storeOut]

theorem memOk_placeEach {s : State} (h : s.memOk) (acc : Acc_) (l : List VElem) : (placeEach s acc l).1.memOk := by
  fun_induction placeEach <;> grind [memOk_places]

theorem memOk_remoteFail {s : State} (h : s.memOk) (acc : Acc_) (es : List VElem) : optFstOk (remoteFail s acc es) := by
  unfold remoteFail
  grind [optFstOk, optFstOk_foldl, memOk_places]

theorem memOk_placeAll {s : State} (h : s.memOk) (acc : Acc_) (es : List VElem) : (placeAll s acc es).1.memOk := by
  unfold placeAll
  grind [optFstOk, memOk_placeEach, memOk_remoteFail]

theorem memOk_leftFills {s : State} (h : s.memOk) (ps : List (VElem × Places)) : (leftFills s ps).memOk := by
  unfold leftFills
  grind [memOk_foldl, memOk_opScope, memOk_startFill]

theorem memOk_vecLoad {s : State} (h : s.memOk) (v : VReg) (cap : TCap) (noHost joint : Bool)
    (checks elems_ : List VElem) : wordOk (vecLoad s v cap noHost joint checks elems_) := by
  unfold vecLoad
  grind [wordOk, memOk_afterStall, memOk_issueLoad, memOk_leftFills, memOk_opScope, memOk_placeAll]

theorem memOk_vecStore {s : State} (h : s.memOk) (i : Instr) (cap : TCap) (noHost : Bool) (addr : Nat) (data : VWord) (unit : Nat)
    (es : List VElem) : wordOk (vecStore s i cap noHost addr data unit es) := by
  unfold vecStore
  grind [wordOk, memOk_afterStall, memOk_opScope, memOk_placeAll, memOk_storeOut]

theorem memOk_execVld {s : State} (h : s.memOk) (v : VReg) (a : Reg) (m : MReg) (o : BitVec 12) : outOk (execVld v a m o s) := by
  unfold execVld
  grind [wordOk, memOk_runWord, memOk_vecLoad]

theorem memOk_execVst {s : State} (h : s.memOk) (v : VReg) (a : Reg) (m : MReg) (o : BitVec 12) : outOk (execVst v a m o s) := by
  unfold execVst
  grind [wordOk, memOk_runWord, memOk_vecStore]

theorem memOk_gatherLoad {s : State} (h : s.memOk) (v : VReg) (cap : TCap) (noHost : Bool)
    (es : List VElem) : wordOk (gatherLoad s v cap noHost es) := by
  unfold gatherLoad
  grind [wordOk, memOk_vecLoad]

theorem memOk_scatterStore {s : State} (h : s.memOk) (i : Instr) (cap : TCap) (noHost : Bool) (data : VWord) (z : Nat)
    (es : List VElem) : wordOk (scatterStore s i cap noHost data z es) := by
  unfold scatterStore
  grind [wordOk, memOk_vecStore]

theorem memOk_execVlds {s : State} (h : s.memOk) (d : VReg) (a b : Reg) (w : ElemWidth) (m : MReg) : outOk (execVlds d a b w m s) := by
  unfold execVlds
  grind [memOk_gatherLoad, memOk_runWord]

theorem memOk_execVsts {s : State} (h : s.memOk) (d : VReg) (a b : Reg) (w : ElemWidth) (m : MReg) : outOk (execVsts d a b w m s) := by
  unfold execVsts
  grind [memOk_runWord, memOk_scatterStore]

theorem memOk_execVgath {s : State} (h : s.memOk) (d : VReg) (a : Reg) (b : VReg) (w : WideElem)
    (m : MReg) : outOk (execVgath d a b w m s) := by
  unfold execVgath
  grind [memOk_gatherLoad, memOk_runWord]

theorem memOk_execVscat {s : State} (h : s.memOk) (d : VReg) (a : Reg) (b : VReg) (w : WideElem)
    (m : MReg) : outOk (execVscat d a b w m s) := by
  unfold execVscat
  grind [memOk_runWord, memOk_scatterStore]

/-! ### Atomic accesses (Atomic) -/

theorem memOk_atomicL2 {s : State} (h : s.memOk) (core pa : Nat) (bs : List (TByte × Bool)) (l : Outst) (own : Option (Nat × Nat)) :
    optFstOk (atomicL2 s core pa bs l own) := by
  unfold atomicL2
  split
  · exact h
  · split
    · exact h
    · exact optFstOk_map (memOk_placeWrite h _ _ _ _ _) fun _ ht => ht

theorem memOk_atomicMem {s : State} (h : s.memOk) (pa : Nat) (bs : List (TByte × Bool)) (l : Outst) : (atomicMem s pa bs l).1.memOk := by
  unfold atomicMem
  grind [memOk_storeMem]

theorem memOk_atomicScr {s : State} (h : s.memOk) (core region off : Nat) (l : Outst) : (atomicScr s core region off l).1.memOk := by
  unfold atomicScr
  grind [memOk_healRegion, memOk_scrWrite]

theorem memOk_flushOwn {s : State} (h : s.memOk) (k pa len : Nat) : (flushOwn s k pa len).memOk := by
  unfold flushOwn
  grind [memOk_foldl, memOk_copyBack, memOk_removeL2]

theorem memOk_sendCatReq {s : State} (h : s.memOk) (k : Nat) (user : CatUser) (m : CatMsg) : (sendCatReq s k user m).memOk := h

theorem memOk_stepAtomic {s : State} (h : s.memOk) (core carrel : Nat) (l : Outst) : (stepAtomic s core carrel l).1.memOk := by
  unfold stepAtomic
  grind [optFstOk, memOk_atomicL2, memOk_atomicMem, memOk_atomicScr, memOk_flushOwn, memOk_sendCatReq, memOk_sendOp]

theorem memOk_atomicChecks {s : State} (h : s.memOk) {k : State → Places → ScopeRef → WordRes}
    (hk : ∀ s p r, s.memOk → wordOk (k s p r)) (cap : TCap) (size : Nat) (hostOk : Bool) : wordOk (atomicChecks s cap size hostOk k) := by
  unfold atomicChecks
  grind [wordOk, memOk_afterStall, memOk_opScope, memOk_places]

theorem memOk_issueAtomic {s : State} (h : s.memOk) (op : AccOp) (d : Reg) (addr size : Nat) (p : Places) (sc : ScopeRef)
    (o : Order) : wordOk (issueAtomic s op d addr size p sc o) := by
  unfold issueAtomic
  grind [wordOk, memOk_finishLoad, memOk_modMe, memOk_setCore, memOk_stepAtomic, memOk_tryCommit]

theorem memOk_execAmo {s : State} (h : s.memOk) (d a b : Reg) (o : Order) (w : Bool) (p : AmoOp) : outOk (execAmo d a b o w p s) := by
  unfold execAmo
  grind [memOk_atomicChecks, memOk_issueAtomic, memOk_runWord]

theorem memOk_execAmoNoReturn {s : State} (h : s.memOk) (a b : Reg) (o : Order) (w : Bool)
    (p : AmoOp) : outOk (execAmoNoReturn a b o w p s) := by
  unfold execAmoNoReturn
  grind [memOk_atomicChecks, memOk_runWord, memOk_storeOut]

theorem memOk_execCas {s : State} (h : s.memOk) (d a b : Reg) (o : Order) (w : Bool) : outOk (execCas d a b o w s) := by
  unfold execCas
  grind [memOk_atomicChecks, memOk_issueAtomic, memOk_runWord]

theorem memOk_execFence {s : State} (h : s.memOk) (i : BitVec 5) (c : Bool) (o : Order) : outOk (execFence i c o s) := by
  unfold execFence
  grind [wordOk, memOk_modMe, memOk_opScope, memOk_putOut, memOk_runWord, memOk_tryCommit]

/-! ### The messaging words (Msg) -/

theorem memOk_postMsg {s : State} (h : s.memOk) (core : Nat) (m : OutMsg) : (postMsg s core m).memOk := h

theorem memOk_postNotice {s : State} (h : s.memOk) (core cause field : Nat) (c2 : Word)
    (pc : Va) : (postNotice s core cause field c2 pc).memOk := h

theorem memOk_checkDest {s : State} (h : s.memOk) (v : Word) (tag : Nat) : errorOk (checkDest s v tag) := by
  unfold checkDest
  grind [errorOk, memOk_egCore]

theorem memOk_execSend {s : State} (h : s.memOk) (d a : Reg) (t : BitVec 6) (n : BitVec 5) : outOk (execSend d a t n s) := by
  unfold execSend
  grind [wordOk, errorOk, memOk_checkDest, memOk_putOut, memOk_runWord]

theorem memOk_execRput {s : State} (h : s.memOk) (d a : Reg) (t : BitVec 6) (i : BitVec 5) : outOk (execRput d a t i s) := by
  unfold execRput
  grind [wordOk, errorOk, memOk_checkDest, memOk_putOut, memOk_runWord]

theorem memOk_execPclr {s : State} (h : s.memOk) (i : BitVec 5) : outOk (execPclr i s) := by
  unfold execPclr
  grind [wordOk, memOk_modMe, memOk_runWord]

theorem memOk_tagctl {s : State} (h : s.memOk) (i : Instr) (k : BitVec 6) (op : TagOp) : wordOk (tagctl i k op s) := memOk_putOut h ..

theorem memOk_execTagctlEn {s : State} (h : s.memOk) (k : BitVec 6) : outOk (execTagctlEn k s) := by
  unfold execTagctlEn
  grind [memOk_runWord, memOk_tagctl]

theorem memOk_execTagctlDis {s : State} (h : s.memOk) (k : BitVec 6) : outOk (execTagctlDis k s) := by
  unfold execTagctlDis
  grind [memOk_runWord, memOk_tagctl]

theorem memOk_execTagctlPrio {s : State} (h : s.memOk) (a : Reg) (k : BitVec 6) : outOk (execTagctlPrio a k s) := by
  unfold execTagctlPrio
  grind [wordOk, memOk_runWord, memOk_tagctl]

theorem memOk_execTagctlAddr {s : State} (h : s.memOk) (a : Reg) (k : BitVec 6) : outOk (execTagctlAddr a k s) := by
  unfold execTagctlAddr
  grind [wordOk, memOk_runWord, memOk_tagctl]

theorem memOk_execTagctlMode {s : State} (h : s.memOk) (a : Reg) (k : BitVec 6) : outOk (execTagctlMode a k s) := by
  unfold execTagctlMode
  grind [wordOk, memOk_runWord, memOk_tagctl]

theorem memOk_execTagctlGate {s : State} (h : s.memOk) (g : BitVec 2) (a : Reg) (k : BitVec 6) : outOk (execTagctlGate g a k s) := by
  unfold execTagctlGate
  grind [wordOk, memOk_runWord, memOk_tagctl]

theorem memOk_execTagctlCap {s : State} (h : s.memOk) (g : BitVec 2) (a : Reg) (k : BitVec 6) : outOk (execTagctlCap g a k s) := by
  unfold execTagctlCap
  grind [memOk_runWord, memOk_tagctl]

theorem memOk_execTagctlStat {s : State} (h : s.memOk) (d : Reg) (k : BitVec 6) : outOk (execTagctlStat d k s) := by
  unfold execTagctlStat
  grind [wordOk, memOk_putData, memOk_runWord]

/-! ### The range words (RangeOps) -/

theorem memOk_granParts {s : State} (h : s.memOk) (addr : Nat) (acc : Acc_) (stop : Bool)
    (l : List (Nat × Nat × Nat)) : (granParts s addr acc stop l).1.memOk := by
  fun_induction granParts <;> grind [memOk_translate]

theorem memOk_egressOf {s : State} (h : s.memOk) (addr len : Nat) : optOk (egressOf s addr len) := by
  unfold egressOf
  grind [optOk, memOk_egCore]

theorem memOk_rangeWord {s : State} (h : s.memOk) {work : State → Nat → Nat → List GranPart → WordRes}
    (hwork : ∀ s a n ps, s.memOk → wordOk (work s a n ps)) (i : Instr) (a b : Reg) (pref : Bool) (perm : Nat) (acc : Acc_) :
    outOk (rangeWord i a b pref perm acc s work) := by
  unfold rangeWord
  grind [wordOk, optOk, memOk_egressOf, memOk_granParts, memOk_runWord]

theorem memOk_writeBackPart {s : State} (h : s.memOk) (k : Nat) (p : GranPart) : (writeBackPart s k p).memOk := memOk_cleanDirty h ..
theorem memOk_copyBackPart {s : State} (h : s.memOk) (k : Nat) (p : GranPart) : (copyBackPart s k p).memOk := memOk_copyBack h ..

theorem memOk_removePart {s : State} (h : s.memOk) (k : Nat) (p : GranPart) : (removePart s k p).memOk := by
  unfold removePart
  grind [memOk_foldl, memOk_removeL2, memOk_sendToHome]

theorem memOk_prefPart {s : State} (h : s.memOk) (core : Nat) (h : CacheHint) (p : GranPart) : (prefPart s core h p).1.memOk := by
  unfold prefPart
  grind [memOk_startFill]

theorem memOk_watchFill {s : State} (h : s.memOk) (nal1 : Bool) (p : GranPart) : (watchFill s nal1 p).memOk := h

theorem memOk_execPref {s : State} (h : s.memOk) (a b : Reg) : outOk (execPref a b s) :=
  memOk_rangeWord h (fun s _ _ ps hs => by
    dsimp only
    split
    · trivial
    · exact memOk_foldl (fun t p ht => by grind [memOk_prefPart, memOk_watchFill]) ps hs) ..

theorem memOk_execWbr {s : State} (h : s.memOk) (a b : Reg) : outOk (execWbr a b s) :=
  memOk_rangeWord h (fun s _ _ ps hs => by
    split
    · trivial
    · exact memOk_foldl (fun t p ht => memOk_writeBackPart ht _ p) ps hs) ..

theorem memOk_execInvr {s : State} (h : s.memOk) (a b : Reg) : outOk (execInvr a b s) :=
  memOk_rangeWord h (fun s _ _ ps hs => by
    split
    · trivial
    · exact memOk_foldl (fun t p ht => memOk_removePart ht _ p) ps hs) ..

theorem memOk_execWbri {s : State} (h : s.memOk) (a b : Reg) : outOk (execWbri a b s) :=
  memOk_rangeWord h (fun s _ _ ps hs => by
    split
    · trivial
    · exact memOk_foldl (fun t p ht => memOk_removePart (memOk_copyBackPart ht _ p) _ p) ps hs) ..

/-! ### LJOIN and LWAIT (Cistern) -/

theorem memOk_cellChecks {s : State} (h : s.memOk) {here : State → Nat → Nat → WordRes} {there : State → Bool → WordRes}
    (hhere : ∀ s pa typ, s.memOk → wordOk (here s pa typ)) (hthere : ∀ s b, s.memOk → wordOk (there s b)) (cap : TCap) (perm : Nat)
    (acc : Acc_) : wordOk (cellChecks s cap perm acc here there) := by
  have hp := memOk_places h s.cur.1 s.myCore.ctx (capAddr cap.val) 4 acc
  unfold cellChecks
  dsimp only
  split
  · trivial
  · split
    · trivial
    · split
      · trivial
      · split
        · trivial
        · split
          · next e =>
            rw [e] at hp
            exact hp
          · next t p e =>
            rw [e] at hp
            split
            · split
              · trivial
              · split
                · trivial
                · split
                  · trivial
                  · exact hhere _ _ _ hp
            · exact hthere _ _ hp

theorem memOk_execLjoin {s : State} (h : s.memOk) (a b : Reg) (r : Bool) : outOk (execLjoin a b r s) := by
  unfold execLjoin
  grind [memOk_cellChecks, memOk_opScope, memOk_putOut, memOk_runWord]

theorem memOk_execLwait {s : State} (h : s.memOk) (d a b : Reg) (q : Bool) : outOk (execLwait d a b q s) := by
  unfold execLwait
  grind [wordOk, memOk_cellChecks, memOk_put, memOk_runWord, memOk_sendOp, memOk_viewCell]

/-! ### Reads at issue (Descriptor) -/

theorem memOk_readBuf {s : State} (h : s.memOk) {k : State → List TByte → WordRes} (hk : ∀ s bs, s.memOk → wordOk (k s bs))
    (n addr size : Nat) : wordOk (readBuf n s addr size k) := by
  have hp := memOk_places h s.cur.1 s.myCore.ctx addr size .vecR
  unfold readBuf
  dsimp only
  split
  · next e => rw [e] at hp; exact hp
  · next t p e =>
    rw [e] at hp
    split
    · split
      · exact memOk_markTrap hp _
      · exact hk _ _ hp
    · split
      · exact hp
      · refine memOk_afterStall ?_ _ _
        have hload := fun l => memOk_issueLoad (memOk_opScope hp 4) l
        split
        · next e =>
          have hu := e ▸ hload _
          split
          · split
            · exact memOk_markTrap hu _
            · exact hk _ _ hu
          · exact hu
        · exact hload _

/-! ### System registers (Sys) -/

theorem memOk_execSysr {s : State} (h : s.memOk) (d : Reg) (n : SysReg) : outOk (execSysr d n s) := by
  unfold execSysr
  grind [wordOk, memOk_putData, memOk_runWord]

theorem memOk_sysNote {s : State} (h : s.memOk) {t : State} (ht : t.memOk) (c i : Nat) (n : SysReg) : (sysNote s c i n t).memOk := by
  unfold sysNote
  grind [memOk_modCore]

theorem memOk_sysPut {s : State} (h : s.memOk) (c i : Nat) (n : SysReg) (w : Word) : (sysPut s c i n w).memOk := by
  unfold sysPut
  grind [memOk_modCarrel, memOk_modCore, memOk_setCtx]

theorem memOk_sysWrite {s : State} (h : s.memOk) (c i : Nat) (n : SysReg) (w : Word) : (sysWrite s c i n w).memOk := by
  unfold sysWrite
  grind [memOk_sysNote, memOk_sysPut]

theorem memOk_afterLoads {k : WordRes} (hk : wordOk k) (s : State) : wordOk (afterLoads s k) := by
  unfold afterLoads
  grind [wordOk]

theorem memOk_execSysw {s : State} (h : s.memOk) (a : Reg) (n : SysReg) : outOk (execSysw a n s) := by
  unfold execSysw
  grind [wordOk, memOk_afterLoads, memOk_runWord, memOk_sysWrite]

theorem memOk_execSyswScpbase {s : State} (h : s.memOk) (a : Reg) : outOk (execSyswScpbase a s) := by
  unfold execSyswScpbase
  grind [wordOk, memOk_afterLoads, memOk_runWord, memOk_sysWrite]

theorem memOk_execSyswTwin {s : State} (h : s.memOk) (a : Reg) : outOk (execSyswTwin a s) := by
  unfold execSyswTwin
  grind [wordOk, memOk_afterLoads, memOk_runWord, memOk_sysWrite]

theorem memOk_execSyswRttw {s : State} (h : s.memOk) (a : Reg) : outOk (execSyswRttw a s) := by
  refine memOk_runWord h (fun vs => ?_) _ _
  dsimp only
  split
  · trivial
  · split
    · trivial
    · refine memOk_readBuf h (fun s bs hs => ?_) _ _ _
      split
      · trivial
      · split
        · trivial
        · split
          · trivial
          · refine memOk_afterLoads ?_ _
            exact memOk_coherentWrite hs _ _

theorem memOk_execEret {s : State} (h : s.memOk) : outOk (execEret s) := by
  unfold execEret
  grind [wordOk, memOk_abandon, memOk_afterLoads, memOk_modMe, memOk_runWord]

theorem memOk_rtinvRemove {s : State} (h : s.memOk) (ctx va : Nat) : (rtinvRemove s ctx va).memOk := h

theorem memOk_execRtinv {s : State} (h : s.memOk) (a : Reg) : outOk (execRtinv a s) := by
  unfold execRtinv
  grind [wordOk, memOk_afterLoads, memOk_modMe, memOk_rtinvRemove, memOk_runWord]

theorem memOk_execIdle {s : State} (h : s.memOk) (a : Reg) : outOk (execIdle a s) := by
  unfold execIdle
  grind [wordOk, memOk_runWord]

theorem memOk_execHalt {s : State} (h : s.memOk) : outOk (execHalt s) := by
  unfold execHalt
  grind [wordOk, memOk_runWord, memOk_takeIrq]

/-! ### Stream words (Stream) -/

theorem memOk_execSbind {s : State} (h : s.memOk) (q : SReg) (a b : Reg) : outOk (execSbind q a b s) := by
  unfold execSbind
  grind [wordOk, memOk_modMe, memOk_popAll, memOk_readBuf, memOk_retire, memOk_runWord]

theorem memOk_execSunbind {s : State} (h : s.memOk) (q : SReg) : outOk (execSunbind q s) := by
  unfold execSunbind
  grind [wordOk, memOk_modMe, memOk_runWord]

theorem memOk_execSstat {s : State} (h : s.memOk) (d : Reg) (q : SReg) : outOk (execSstat d q s) := by
  unfold execSstat
  grind [wordOk, memOk_putData, memOk_runWord]

/-! ### Barrier objects and words (Barrier) -/

theorem memOk_coreScope {s : State} (h : s.memOk) (core id : Nat) : (coreScope s core id).1.memOk := by
  unfold coreScope
  grind [memOk_translate]

theorem memOk_barNotices {s : State} (h : s.memOk) (core region off who img : Nat) : (barNotices s core region off who img).memOk := by
  unfold barNotices
  grind [memOk_foldl, memOk_coreScope, memOk_postMsg]

theorem memOk_onTwin {s : State} (h : s.memOk) {f : State → Nat → State} (hf : ∀ s a, s.memOk → (f s a).memOk)
    (core : Nat) : (onTwin s core f).memOk := by
  unfold onTwin
  grind

theorem memOk_barUpdate {s : State} (h : s.memOk) (core region off who : Nat) (copy : Bool)
    (f : Nat → Nat × List Nat) : (barUpdate s core region off who copy f).memOk := by
  unfold barUpdate
  grind [memOk_foldl, memOk_barNotices, memOk_onTwin, memOk_scrWrite]

theorem memOk_barArrival {s : State} (h : s.memOk) (core region off who : Nat)
    (copy : Bool) : (barArrival s core region off who copy).1.memOk := by
  unfold barArrival
  grind [memOk_barUpdate]

theorem memOk_barChecks {s : State} (h : s.memOk) {k : State → Loc → Word → WordRes} (hk : ∀ s l w, s.memOk → wordOk (k s l w))
    (cap : TCap) (perm : Nat) (own : Bool) (bad : Option Nat) : wordOk (barChecks s cap perm own bad k) := by
  unfold barChecks
  grind [wordOk, memOk_places]

theorem memOk_execBarm {s : State} (h : s.memOk) (a b : Reg) : outOk (execBarm a b s) := by
  unfold execBarm
  grind [memOk_barChecks, memOk_putOut, memOk_runWord]

theorem memOk_execBarb {s : State} (h : s.memOk) (a b : Reg) : outOk (execBarb a b s) := by
  unfold execBarb
  grind [memOk_barChecks, memOk_putOut, memOk_runWord]

theorem memOk_execBarr {s : State} (h : s.memOk) (d a : Reg) : outOk (execBarr d a s) := by
  unfold execBarr
  grind [wordOk, memOk_barArrival, memOk_barChecks, memOk_consumeError, memOk_healRegion, memOk_modMe, memOk_put, memOk_runWord,
    memOk_tryCommit]

theorem memOk_execBwait {s : State} (h : s.memOk) (d a b : Reg) : outOk (execBwait d a b s) := by
  unfold execBwait
  grind [wordOk, memOk_barChecks, memOk_healRegion, memOk_put, memOk_runWord]

/-! ### Capability words (CapOps) -/

theorem memOk_capWord {s : State} (h : s.memOk) (i : Instr) (d : Reg) (cs : List Reg)
    (f : List TCap → TCap) : outOk (capWord i d cs s f) := by
  unfold capWord
  grind [wordOk, memOk_put, memOk_runWord]

theorem memOk_execCbnd {s : State} (h : s.memOk) (d a b : Reg) : outOk (execCbnd d a b s) := by
  unfold execCbnd
  grind [wordOk, memOk_put, memOk_runWord]

/-! ### Control words (Control) -/

theorem memOk_killMe {s : State} (h : s.memOk) : (killMe s).memOk := h

theorem memOk_jumpTo {s : State} (h : s.memOk) (t : Word) (link dead : Bool) : wordOk (jumpTo s t link dead) := by
  unfold jumpTo
  grind [wordOk, memOk_killMe, memOk_put]

theorem memOk_execB {s : State} (h : s.memOk) (d : BitVec 26) : outOk (execB d s) := by
  unfold execB
  grind [wordOk, memOk_runWord]

theorem memOk_execBc {s : State} (h : s.memOk) (c : Cond) (a b : Reg) (d : BitVec 10) : outOk (execBc c a b d s) := by
  unfold execBc
  grind [wordOk, memOk_runWord]

theorem memOk_execBm {s : State} (h : s.memOk) (c : MaskCond) (a b : MReg) (d : BitVec 10) : outOk (execBm c a b d s) := by
  unfold execBm
  grind [wordOk, memOk_runWord]

theorem memOk_execCall {s : State} (h : s.memOk) (d : BitVec 26) : outOk (execCall d s) := by
  unfold execCall
  grind [wordOk, memOk_killMe, memOk_put, memOk_runWord]

theorem memOk_execJr {s : State} (h : s.memOk) (a : Reg) : outOk (execJr a s) := by
  unfold execJr
  grind [memOk_jumpTo, memOk_runWord]

theorem memOk_execCallr {s : State} (h : s.memOk) (a : Reg) : outOk (execCallr a s) := by
  unfold execCallr
  grind [memOk_jumpTo, memOk_runWord]

theorem memOk_execRet {s : State} (h : s.memOk) : outOk (execRet s) := by
  unfold execRet
  grind [memOk_jumpTo, memOk_runWord]

theorem memOk_execEnd {s : State} (h : s.memOk) : outOk (execEnd s) := by
  unfold execEnd
  grind [wordOk, memOk_modMe, memOk_runWord]

theorem memOk_execTrap {s : State} (h : s.memOk) (c : BitVec 12) : outOk (execTrap c s) := by
  unfold execTrap
  grind [wordOk, memOk_runWord]

theorem memOk_hintWord {s : State} (h : s.memOk) (i : Instr) : outOk (hintWord i s) := by
  unfold hintWord
  grind [outOk, memOk_modMe, memOk_raise, memOk_trapMe]

theorem memOk_execIllegalInstruction {s : State} (h : s.memOk) (w : Insn) : outOk (execIllegalInstruction w s) := by
  unfold execIllegalInstruction
  grind [outOk, memOk_raise, memOk_trapMe]

/-! ### Matrix words (Matrix) -/

theorem memOk_modEngine {s : State} (h : s.memOk) (k : Nat) (f : Engine → Engine) : (s.modEngine k f).memOk := h

theorem memOk_execTdset {s : State} (h : s.memOk) (t : BitVec 4) (a : Reg) : outOk (execTdset t a s) := by
  unfold execTdset
  grind [wordOk, memOk_afterLoads, memOk_modMyCore, memOk_readBuf, memOk_runWord]

theorem memOk_execTdget {s : State} (h : s.memOk) (d : Reg) (t : BitVec 4) : outOk (execTdget d t s) := by
  unfold execTdget
  grind [wordOk, memOk_putData, memOk_runWord]

theorem memOk_execTdgetSt {s : State} (h : s.memOk) (d : Reg) (t : BitVec 4) : outOk (execTdgetSt d t s) := by
  unfold execTdgetSt
  grind [wordOk, memOk_putData, memOk_runWord]

theorem memOk_execTdgetAcc {s : State} (h : s.memOk) (d : Reg) (t : BitVec 3) : outOk (execTdgetAcc d t s) := by
  unfold execTdgetAcc
  grind [wordOk, memOk_putData, memOk_runWord]

theorem memOk_engineEntry {s : State} (h : s.memOk) (i : Instr) (op : EngOp) (addr : Word) : wordOk (engineEntry s i op addr) :=
  memOk_putOut h ..

theorem memOk_execMma {s : State} (h : s.memOk) (c : BitVec 3) (a b : BitVec 4) (i : Bool) : outOk (execMma c a b i s) := by
  unfold execMma
  grind [wordOk, memOk_putOutWhen, memOk_runWord]

theorem memOk_execMacz {s : State} (h : s.memOk) (c : BitVec 3) (k : AccKind) : outOk (execMacz c k s) := by
  unfold execMacz
  grind [wordOk, memOk_engineEntry, memOk_runWord]

theorem memOk_execMacst {s : State} (h : s.memOk) (c : BitVec 3) (a b : Reg) (k : AccKind) : outOk (execMacst c a b k s) := by
  unfold execMacst
  grind [wordOk, memOk_engineEntry, memOk_runWord]

/-! ### Siphon words (Siphon) -/

theorem memOk_readDesc {s : State} (h : s.memOk) {k : State → List TByte → WordRes} (hk : ∀ s bs, s.memOk → wordOk (k s bs))
    (cap : TCap) : wordOk (readDesc s cap k) := by
  unfold readDesc
  grind [wordOk, memOk_readBuf]

theorem memOk_execSiph {s : State} (h : s.memOk) (d a b : Reg) (h : BitVec 6) : outOk (execSiph d a b h s) := by
  unfold execSiph
  grind [wordOk, memOk_putOut, memOk_readDesc, memOk_runWord]

theorem memOk_execSgath {s : State} (h : s.memOk) (d a b : Reg) (n : BitVec 6) : outOk (execSgath d a b n s) := by
  refine memOk_runWord h (fun vs => memOk_readDesc h (fun s bs hs => ?_) _) _ _
  dsimp only
  split
  · trivial
  · trivial
  · split
    · trivial
    · split
      · trivial
      · refine memOk_readBuf hs (fun s ps hs => ?_) _ _ _
        split
        · trivial
        · exact memOk_putOut hs _

theorem memOk_execScfg {s : State} (h : s.memOk) (a : Reg) (h : BitVec 6) : outOk (execScfg a h s) := by
  unfold execScfg
  grind [memOk_putOut, memOk_runWord]

theorem memOk_execSwmr {s : State} (h : s.memOk) (d : Reg) (sel : SwmrSel) (h : BitVec 6) : outOk (execSwmr d sel h s) := by
  unfold execSwmr
  grind [wordOk, memOk_putData, memOk_runWord]

/-! ### SCPSET and SCPGET (Scope) -/

theorem memOk_execScpset {s : State} (h : s.memOk) (a : Reg) (i : BitVec 6) : outOk (execScpset a i s) := by
  unfold execScpset
  grind [wordOk, memOk_afterLoads, memOk_coherentWrite, memOk_readBuf, memOk_runWord, memOk_setCtx, memOk_translate]

theorem memOk_execScpget {s : State} (h : s.memOk) (d : Reg) (i : BitVec 6) : outOk (execScpget d i s) := by
  unfold execScpget
  grind [wordOk, memOk_putData, memOk_runWord, memOk_scopeReading]

/-! ### LOCQ (Locq) -/

theorem memOk_execLocqWhere {s : State} (h : s.memOk) (d a : Reg) : outOk (execLocqWhere d a s) := by
  unfold execLocqWhere
  grind [wordOk, memOk_putData, memOk_runWord]

theorem memOk_execLocqEpoch {s : State} (h : s.memOk) (d : Reg) : outOk (execLocqEpoch d s) := by
  unfold execLocqEpoch
  grind [wordOk, memOk_putData, memOk_runWord]

theorem memOk_execLocqHops {s : State} (h : s.memOk) (d a : Reg) : outOk (execLocqHops d a s) := by
  unfold execLocqHops
  grind [wordOk, memOk_putData, memOk_runWord]

/-! ### Fetch (Fetch) -/

theorem memOk_fetch {s : State} (h : s.memOk) : fetchOk (fetch s) := by
  unfold fetch
  grind [fetchOk, memOk_translate]

/-! ### The passing of a cycle (Select) -/

theorem memOk_tick {s : State} (h : s.memOk) : (tick s).memOk := h

/-! ### The life of an activation (EvDispatch) -/

theorem memOk_dispatchTo {s : State} (h : s.memOk) (core t i : Nat) (e : InboxEnt) : (dispatchTo s core t i e).memOk := by
  unfold dispatchTo
  grind [memOk_countReplay, memOk_setCore, memOk_takeTrap]

theorem memOk_execDispatch {s : State} (h : s.memOk) (core : Nat) : outOk (execDispatch core s) := by
  unfold execDispatch
  grind [outOk, memOk_dispatchTo]

theorem memOk_execEprioAging {s : State} (h : s.memOk) (core tag : Nat) : outOk (execEprioAging core tag s) := by
  unfold execEprioAging
  grind [outOk, memOk_setCore]

theorem memOk_execYieldPeriodExpiry {s : State} (h : s.memOk) (core carrel : Nat) : outOk (execYieldPeriodExpiry core carrel s) := by
  unfold execYieldPeriodExpiry
  grind [outOk, memOk_setCarrel]

theorem memOk_execOutboxHandoff {s : State} (h : s.memOk) (core carrel : Nat) : outOk (execOutboxHandoff core carrel s) := by
  unfold execOutboxHandoff
  grind [outOk, memOk_consumeError, memOk_drainOutbox, memOk_modCore, memOk_modLaunch, memOk_setCarrel]

theorem memOk_execHaltedCarrelRelease {s : State} (h : s.memOk) (core carrel : Nat) : outOk (execHaltedCarrelRelease core carrel s) := by
  unfold execHaltedCarrelRelease
  grind [outOk, memOk_abandon]

theorem memOk_execActivationRemoval {s : State} (h : s.memOk) (core carrel : Nat) : outOk (execActivationRemoval core carrel s) := by
  unfold execActivationRemoval
  grind [outOk, memOk_modCore]

/-! ### Commit-queue entries (Commit) -/

theorem memOk_dropEntry {s : State} (h : s.memOk) (core id : Nat) : (dropEntry s core id).memOk := h

theorem memOk_modEntry {s : State} (h : s.memOk) (core id : Nat) (f : Entry → Entry) : (modEntry s core id f).memOk := by
  unfold modEntry
  grind [memOk_modCore]

theorem memOk_runDone {s : State} (h : s.memOk) (core id : Nat) : (runDone s core id).memOk := by
  unfold runDone
  grind [memOk_dropEntry, memOk_modEntry]

theorem memOk_writeThrough {s : State} (h : s.memOk) (k pa : Nat) (bs : List TByte) : (writeThrough s k pa bs).memOk := by
  unfold writeThrough
  grind [memOk_modCluster, memOk_storeMem, memOk_updateL1s]

theorem memOk_writeDivided {s : State} (h : s.memOk) (k pa : Nat) (bs : List TByte) (p : Policy) : (writeDivided s k pa bs p).memOk := by
  unfold writeDivided
  grind [memOk_foldl, memOk_staleReads, memOk_storeMem, memOk_writeHeld]

theorem memOk_writeWindow {s : State} (h : s.memOk) (core pa : Nat) (bs : List TByte)
    (e : Entry) : (writeWindow s core pa bs e).memOk := by
  unfold writeWindow
  grind [optOk, memOk_placeWrite, memOk_writeDivided]

theorem memOk_sendFor {s : State} (h : s.memOk) (core : Nat) (e : Entry) (m : CatMsg) : (sendFor s core e m).memOk := h

theorem memOk_writeRun {s : State} (h : s.memOk) (core pa : Nat) (bs : List TByte) (e : Entry) : (writeRun s core pa bs e).memOk := by
  unfold writeRun
  grind [optOk, memOk_placeWrite, memOk_runDone, memOk_sendFor]

theorem memOk_amoRun {s : State} (h : s.memOk) (core pa : Nat) (op : AmoOp) (size : Nat) (v : Word)
    (e : Entry) : (amoRun s core pa op size v e).memOk := by
  unfold amoRun
  grind [optOk, memOk_flushOwn, memOk_placeWrite, memOk_runDone, memOk_sendFor, memOk_storeMem]

theorem memOk_amoScr {s : State} (h : s.memOk) (core region off : Nat) (op : AmoOp) (size : Nat)
    (v : Word) : (amoScr s core region off op size v).memOk := by
  unfold amoScr
  grind [memOk_healRegion, memOk_scrWrite]

theorem memOk_sendEntry {s : State} (h : s.memOk) (core : Nat) (e : Entry) (l : Loc) (op : PeerOp) :
    (Machine.sendEntry s core e l op).memOk := by
  unfold Machine.sendEntry
  grind [memOk_modEntry, memOk_sendOp]

theorem memOk_performRun {s : State} (h : s.memOk) (core : Nat) (e : Entry) (cells : List (Loc × Byte))
    (tag : Bool) : (performRun s core e cells tag).memOk := by
  unfold performRun
  grind [memOk_dropEntry, memOk_runDone, memOk_scrWrite, memOk_sendEntry, memOk_writeRun, memOk_writeThrough, memOk_writeWindow]

/-! ### The ends of waits (EvWait) -/

theorem memOk_completeParked {s : State} (h : s.memOk) (core carrel : Nat)
    (f : Carrel → Carrel) : (completeParked s core carrel f).memOk := by
  unfold completeParked
  grind [memOk_modCarrel]

theorem memOk_trapParked {s : State} (h : s.memOk) (core carrel cause : Nat)
    (tval : Word) : (trapParked s core carrel cause tval).memOk := by
  unfold trapParked
  grind [memOk_modCarrel, memOk_takeTrap]

theorem memOk_consumeParked {s : State} (h : s.memOk) (core carrel : Nat) (x : Word) : (consumeParked s core carrel x).memOk := by
  unfold consumeParked
  grind [memOk_consumeError, memOk_modCarrel]

theorem memOk_recordParked {s : State} (h : s.memOk) (core carrel : Nat) (r : SyncRec) : (recordParked s core carrel r).memOk := by
  unfold recordParked
  grind [memOk_modCarrel]

theorem memOk_lwaitView {s : State} (h : s.memOk) (core carrel : Nat) (w : LWaitRec) : (lwaitView s core carrel w).1.memOk :=
  memOk_viewCell h ..

theorem memOk_dropReq {s : State} (h : s.memOk) (r : Nat) : (dropReq s r).memOk := h

theorem memOk_resumeLwait {s : State} (h : s.memOk) (core carrel : Nat) (w : LWaitRec) : (resumeLwait s core carrel w).memOk := by
  unfold resumeLwait
  grind [memOk_completeParked, memOk_consumeParked, memOk_dropReq, memOk_lwaitView]

theorem memOk_resumeBwait {s : State} (h : s.memOk) (core carrel : Nat) (w : BWaitRec) : (resumeBwait s core carrel w).memOk := by
  unfold resumeBwait
  grind [memOk_completeParked, memOk_recordParked, memOk_trapParked]

theorem memOk_resume {s : State} (h : s.memOk) (core carrel : Nat) (p : Park) : (resume s core carrel p).memOk := by
  unfold resume
  grind [memOk_completeParked, memOk_modCarrel, memOk_resumeBwait, memOk_resumeLwait, memOk_takeIrq]

theorem memOk_execWaitResume {s : State} (h : s.memOk) (core carrel : Nat) : outOk (execWaitResume core carrel s) := by
  unfold execWaitResume
  grind [outOk, memOk_resume]

theorem memOk_execBwaitTimeout {s : State} (h : s.memOk) (core carrel : Nat) : outOk (execBwaitTimeout core carrel s) := by
  unfold execBwaitTimeout
  grind [outOk, memOk_recordParked, memOk_trapParked]

theorem memOk_lateLwait {s : State} (h : s.memOk) (core carrel : Nat) (w : LWaitRec) : (lateLwait s core carrel w).memOk := by
  unfold lateLwait
  grind [memOk_completeParked, memOk_consumeParked, memOk_dropReq, memOk_lwaitView, memOk_resumeLwait, memOk_trapParked]

theorem memOk_execLwaitTimeout {s : State} (h : s.memOk) (core carrel : Nat) : outOk (execLwaitTimeout core carrel s) := by
  unfold execLwaitTimeout
  grind [outOk, memOk_lateLwait]

theorem memOk_execIdleTimeout {s : State} (h : s.memOk) (core carrel : Nat) : outOk (execIdleTimeout core carrel s) := by
  unfold execIdleTimeout
  grind [outOk, memOk_completeParked]

/-! ### Links (Link) -/

theorem memOk_setPort {s : State} (h : s.memOk) (p : Nat) (x : Port) : (s.setPort p x).memOk := h

theorem memOk_sendFlit {s : State} (h : s.memOk) (port : Nat) (force : Bool) : optOk (sendFlit s port force) := by
  unfold sendFlit
  grind [optOk, memOk_emit, memOk_setPort]

theorem memOk_drainPort {s : State} (h : s.memOk) (port n : Nat) : (drainPort port n s).memOk := by
  fun_induction drainPort <;> grind [optOk, memOk_sendFlit]

theorem memOk_sendLink {s : State} (h : s.memOk) (m : LinkMsg) : optOk (sendLink s m) :=
  optOk_map_of_forall fun p => memOk_drainPort (memOk_setPort h p _) p 4

theorem memOk_replyPeer {s : State} (h : s.memOk) (b : Back) (r : RemoteResp) : (replyPeer s b r).memOk := by
  unfold replyPeer
  grind [memOk_getD, memOk_sendLink]

/-! ### The torus (Network) -/

theorem memOk_inject {s : State} (h : s.memOk) (f : Flit) : (inject s f).memOk := h

theorem memOk_markSeen {s : State} (h : s.memOk) (f : Flit) : (markSeen s f).memOk := by
  unfold markSeen
  grind [memOk_modCore]

theorem memOk_tellSender {s : State} (h : s.memOk) (f : Flit) (refused : Bool)
    (notice : Option Nat) : (tellSender s f refused notice).memOk := by
  unfold tellSender
  grind [memOk_inject, memOk_markSeen]

theorem memOk_reply {s : State} (h : s.memOk) (f : Flit) (req : Nat) (r : RemoteResp) : (reply s f req r).memOk := by
  unfold reply
  grind [memOk_inject, memOk_markSeen]

theorem memOk_entryAnswer {s : State} (h : s.memOk) (core id : Nat) (addr : Word)
    (r : RemoteResp) : (entryAnswer s core id addr r).memOk := by
  unfold entryAnswer
  grind [memOk_postNotice, memOk_runDone]

theorem memOk_messageOver {s : State} (h : s.memOk) (core : Nat) (p : OutMsg → Bool) (refused : Bool)
    (notice : Option Nat) : (messageOver s core p refused notice).memOk := by
  unfold messageOver
  grind [memOk_modCore, memOk_postNotice]

theorem memOk_siphNotice {s : State} (h : s.memOk) (core ch cause : Nat) (c2 : Word) : (siphNotice s core ch cause c2).memOk := by
  unfold siphNotice
  grind [memOk_postNotice]

theorem memOk_barUnusable {s : State} (h : s.memOk) (core ch : Nat) : (barUnusable s core ch).memOk := memOk_siphNotice h ..

theorem memOk_siphBroke {s : State} (h : s.memOk) (core ch : Nat) (addr : Word) : (siphBroke s core ch addr).memOk := by
  unfold siphBroke
  grind [memOk_postNotice]

theorem memOk_siphBarAnswer {s : State} (h : s.memOk) (core ch : Nat) (addr : Word)
    (r : RemoteResp) : (siphBarAnswer s core ch addr r).memOk := by
  unfold siphBarAnswer
  grind [memOk_barUnusable, memOk_siphBroke]

theorem memOk_answer {s : State} (h : s.memOk) (id : Nat) (r : RemoteResp) : (answer s id r).memOk := by
  unfold answer
  grind [memOk_mk, memOk_dropReq, memOk_entryAnswer, memOk_messageOver, memOk_modCore, memOk_siphBarAnswer]

theorem memOk_unreachable {s : State} (h : s.memOk) (id : Nat) : (unreachable s id).memOk := by
  unfold unreachable
  grind [memOk_answer]

theorem memOk_linkOut {s : State} (h : s.memOk) (m : LinkMsg) : (linkOut s m).memOk := by
  unfold linkOut
  grind [memOk_getD, memOk_sendLink, memOk_unreachable]

theorem memOk_leave {s : State} (h : s.memOk) (f : Flit) (addr : Word) (op : PeerOp) (req : Nat) : (leave s f addr op req).memOk := by
  unfold leave
  grind [memOk_linkOut, memOk_replyPeer]

theorem memOk_takeCat {s : State} (h : s.memOk) (f : Flit) (m : CatMsg) : optOk (takeCat s f m) := by
  unfold takeCat
  grind [optOk, memOk_modDie, memOk_setCluster]

theorem memOk_eject {s : State} (h : s.memOk) (f : Flit) : optOk (eject s f) := by
  unfold eject
  grind [optOk, memOk_answer, memOk_leave, memOk_modCluster, memOk_takeCat]

theorem memOk_ejectAll {s : State} (h : s.memOk) (l : List Flit) : (ejectAll s l).1.memOk := by
  fun_induction ejectAll <;> grind [optOk, memOk_eject]

theorem memOk_injectOne {s : State} (h : s.memOk) (k : Nat) (free : List Nat) : (injectOne s k free).memOk := by
  unfold injectOne
  grind [optOk, memOk_mk, memOk_eject]

theorem memOk_routeStep {s : State} (h : s.memOk) (k : Nat) : (routeStep s k).memOk := by
  unfold routeStep
  grind [memOk_mk, memOk_ejectAll, memOk_injectOne, memOk_modCluster]

theorem memOk_routeAll {s : State} (h : s.memOk) : (routeAll s).memOk := by
  unfold routeAll
  grind [memOk_foldl, memOk_routeStep]

theorem memOk_routersFree {s : State} (h : s.memOk) : (routersFree s).memOk := h

/-! ### Messages on their way (EvMsg) -/

theorem memOk_sendMsg {s : State} (h : s.memOk) (core idx : Nat) (m : OutMsg) : (sendMsg s core idx m).memOk := by
  unfold sendMsg
  grind [memOk_inject, memOk_modCore, memOk_newReq, memOk_sendReq, memOk_takeSeq]

theorem memOk_execMessageInject {s : State} (h : s.memOk) (core idx : Nat) : outOk (execMessageInject core idx s) := by
  unfold execMessageInject
  grind [outOk, memOk_sendMsg]

theorem memOk_execMessageRetry {s : State} (h : s.memOk) (core idx : Nat) : outOk (execMessageRetry core idx s) := by
  unfold execMessageRetry
  grind [outOk, memOk_inject, memOk_sendMsg, memOk_setCore]

theorem memOk_holdFlit {s : State} (h : s.memOk) (f : Flit) : optArrivalOk (holdFlit s f) := by
  unfold holdFlit
  grind [optArrivalOk, arrivalOk, memOk_modCluster, memOk_modHub]

theorem memOk_lostNotice {s : State} (h : s.memOk) (core : Nat) (ws : List PWord) : (lostNotice s core ws).memOk := by
  unfold lostNotice
  grind [memOk_taint, memOk_tellOs]

theorem memOk_offerMsg {s : State} (h : s.memOk) (f : Flit) (score : Nat) (ws : List PWord)
    (kind : Nat) : arrivalOk (offerMsg s f score ws kind) := by
  unfold offerMsg
  grind [arrivalOk, memOk_foldl, memOk_lostNotice, memOk_modCore]

theorem memOk_offerRput {s : State} (h : s.memOk) (f : Flit) (index : Nat) (w : PWord) : arrivalOk (offerRput s f index w) := by
  unfold offerRput
  grind [arrivalOk, memOk_foldl, memOk_modCore]

theorem memOk_settle {s : State} (h : s.memOk) {a : Arrival} (ha : arrivalOk a) (cluster idx : Nat) (f : Flit) :
    (settle s cluster idx f a).memOk := by
  unfold settle
  grind [arrivalOk, memOk_modCluster, memOk_tellSender]

theorem memOk_offer {s : State} (h : s.memOk) (f : Flit) : arrivalOk (offer s f) := by
  unfold offer
  grind [arrivalOk, memOk_offerMsg, memOk_offerRput]

theorem memOk_getD_arrival {o : Option Arrival} (ho : optArrivalOk o) {a : Arrival} (ha : arrivalOk a) : arrivalOk (o.getD a) := by
  cases o with
  | none => exact ha
  | some _ => exact ho

theorem memOk_arrive {s : State} (h : s.memOk) (cluster idx : Nat) (f : Flit) : (arrive s cluster idx f).memOk := by
  refine memOk_settle h ?_ cluster idx f
  split
  · exact h
  · exact memOk_getD_arrival (memOk_holdFlit h f) (memOk_offer h f)

theorem memOk_release {s : State} (h : s.memOk) (f : Flit) : optOk (release s f) := by
  have ha := memOk_getD_arrival (memOk_holdFlit h f) (memOk_offer h f)
  unfold release
  grind [arrivalOk, optOk, memOk_postNotice, memOk_tellSender]

theorem memOk_execMessageArrival {s : State} (h : s.memOk) (cluster idx : Nat) : outOk (execMessageArrival cluster idx s) := by
  unfold execMessageArrival
  grind [outOk, memOk_arrive]

theorem memOk_execRputArrival {s : State} (h : s.memOk) (cluster idx : Nat) : outOk (execRputArrival cluster idx s) := by
  unfold execRputArrival
  grind [outOk, memOk_arrive]

theorem memOk_markHeld {s : State} (h : s.memOk) (core dest seq : Nat) : (markHeld s core dest seq).memOk := by
  unfold markHeld
  grind [memOk_mk]

theorem memOk_execStreamAck {s : State} (h : s.memOk) (cluster idx : Nat) : outOk (execStreamAck cluster idx s) := by
  unfold execStreamAck
  grind [outOk, memOk_markHeld, memOk_messageOver, memOk_modCluster]

/-! ### COMMIT_ENTRY_PERFORM (EvCommit) -/

theorem memOk_postEntry {s : State} (h : s.memOk) (core : Nat) (e : Entry) (dest tag : Nat)
    (b : MsgBody) : (postEntry s core e dest tag b).memOk := h

theorem memOk_entryEcc {s : State} (h : s.memOk) (core : Nat) (e : Entry) : (entryEcc s core e).memOk := by
  unfold entryEcc
  grind [memOk_consumeError, memOk_dropEntry, memOk_modCarrel, memOk_setCarrel, memOk_taint]

theorem memOk_performEntry {s : State} (h : s.memOk) (core : Nat) (e : Entry) : (performEntry s core e).memOk := by
  unfold performEntry
  grind [memOk_amoRun, memOk_amoScr, memOk_dropEntry, memOk_modCore, memOk_performRun, memOk_postEntry, memOk_runDone, memOk_sendEntry]

theorem memOk_execCommitEntryPerform {s : State} (h : s.memOk) (core idx : Nat) : outOk (execCommitEntryPerform core idx s) := by
  unfold execCommitEntryPerform
  grind [outOk, memOk_entryEcc, memOk_performEntry]

/-! ### Loads that return, fills, soft errors (EvMemory) -/

theorem memOk_putLoad {s : State} (h : s.memOk) (core carrel : Nat) (l : Outst) : (putLoad s core carrel l).memOk := by
  unfold putLoad
  grind [memOk_modCarrel]

theorem memOk_endLoad {s : State} (h : s.memOk) (core carrel : Nat) (l : Outst) : (endLoad s core carrel l).memOk := by
  unfold endLoad
  grind [memOk_finishLoad, memOk_putLoad]

theorem memOk_trapAtomic {s : State} (h : s.memOk) (core carrel : Nat) (l : Outst) (x : Word) : (trapAtomic s core carrel l x).memOk := by
  unfold trapAtomic
  grind [memOk_modCarrel, memOk_rollback, memOk_takeTrap]

theorem memOk_advanceLoad {s : State} (h : s.memOk) (core carrel : Nat) (l : Outst) : (advanceLoad s core carrel l).memOk := by
  unfold advanceLoad
  grind [memOk_endLoad, memOk_modCarrel, memOk_pursue, memOk_stepAtomic, memOk_trapAtomic]

theorem memOk_execLoadComplete {s : State} (h : s.memOk) (core carrel idx : Nat) : outOk (execLoadComplete core carrel idx s) := by
  unfold execLoadComplete
  grind [outOk, memOk_advanceLoad]

theorem memOk_refillL2 {s : State} (h : s.memOk) (core : Nat) (f : Folio) : (refillL2 s core f).memOk := memOk_fillGaps h ..

theorem memOk_execFillDataReturn {s : State} (h : s.memOk) (core idx count : Nat) : outOk (execFillDataReturn core idx count s) := by
  unfold execFillDataReturn
  grind [outOk, memOk_finishFill, memOk_modCache, memOk_refillL2, memOk_removeL1]

theorem memOk_execSoftErrorDetected {s : State} (h : s.memOk) (target : SoftTarget) : outOk (execSoftErrorDetected target s) := by
  unfold execSoftErrorDetected
  grind [outOk, memOk_modCarrel, memOk_modCluster, memOk_modCore, memOk_poisonWords]

theorem memOk_scrSpoil {s : State} (h : s.memOk) (core region off : Nat) (bad : List Nat) : (scrSpoil s core region off bad).memOk := by
  unfold scrSpoil
  grind [memOk_foldl, memOk_modCluster, memOk_modCore]

theorem memOk_serveScr {s : State} (h : s.memOk) (c region off who : Nat) (op : PeerOp) : (serveScr s c region off who op).1.memOk := by
  unfold serveScr
  cases op <;> grind [memOk_barArrival, memOk_barUpdate, memOk_healRegion, memOk_onTwin, memOk_scrSpoil, memOk_scrWrite]

theorem memOk_answerScr {s : State} (h : s.memOk) (ctx c region off who : Nat)
    (op : PeerOp) : (answerScr s ctx c region off who op).1.memOk := by
  unfold answerScr
  grind [memOk_serveScr]

theorem memOk_holdSpace2 {s : State} (h : s.memOk) (f : Flit) : optArrivalOk (holdSpace2 s f) := by
  unfold holdSpace2
  grind [optArrivalOk, memOk_holdFlit]

theorem memOk_ackHeld {s : State} (h : s.memOk) (f : Flit) (op : PeerOp) : (ackHeld s f op).memOk := by
  unfold ackHeld
  grind [memOk_inject, memOk_markSeen]

theorem memOk_releaseSpace2 {s : State} (h : s.memOk) (f : Flit) (op : PeerOp)
    (region off req : Nat) : optOk (releaseSpace2 s f op region off req) := by
  unfold releaseSpace2
  grind [optOk, optArrivalOk, arrivalOk, memOk_answerScr, memOk_holdSpace2, memOk_reply]

theorem memOk_execSpace2AccessArrival {s : State} (h : s.memOk) (cluster idx : Nat) : outOk (execSpace2AccessArrival cluster idx s) := by
  unfold execSpace2AccessArrival
  grind [outOk, optArrivalOk, arrivalOk, memOk_ackHeld, memOk_answerScr, memOk_holdSpace2, memOk_modCluster, memOk_modCore, memOk_reply]

theorem memOk_execRemoteResponse {s : State} (h : s.memOk) (id : Nat) (resp : RemoteResp) : outOk (execRemoteResponse id resp s) := by
  unfold execRemoteResponse
  grind [outOk, memOk_answer]

theorem memOk_execFablimTimeout {s : State} (h : s.memOk) (id : Nat) : outOk (execFablimTimeout id s) := by
  unfold execFablimTimeout
  grind [outOk, memOk_unreachable]

/-! ### The homes (Catalogue) -/

theorem memOk_sendAll {s : State} (h : s.memOk) (ks : List Nat) (f : Nat → CatMsg) : (sendAll s ks f).memOk := by
  unfold sendAll
  grind [memOk_foldl, memOk_sendToCluster]

theorem memOk_startRound {s : State} (h : s.memOk) (die : Nat) (e : CatEntry) (m : CatMsg) : (startRound s die e m).memOk := by
  unfold startRound
  grind [memOk_modDie, memOk_sendAll]

theorem memOk_startDisc {s : State} (h : s.memOk) (die : Nat) (e : CatEntry) (m : CatMsg) : (startDisc s die e m).memOk := by
  unfold startDisc
  grind [memOk_modDie, memOk_sendAll]

theorem memOk_placeGranted {s : State} (h : s.memOk) (m : CatMsg) (pa : Nat) (bs : List TByte)
    (p : Policy) : (placeGranted s m pa bs p).memOk := by
  unfold placeGranted
  grind [optOk, memOk_overtake, memOk_placeWrite, memOk_writeDivided]

theorem memOk_storeGranted {s : State} (h : s.memOk) (m : CatMsg) (core : Nat) (e : Entry) (cells : List (Loc × Byte))
    (tag : Bool) : (storeGranted s m core e cells tag).memOk := by
  unfold storeGranted
  grind [memOk_modEntry, memOk_placeGranted]

theorem memOk_amoGranted {s : State} (h : s.memOk) (m : CatMsg) (core : Nat) (e : Entry) (pa : Nat) (op : AmoOp) (size : Nat)
    (v : Word) : (amoGranted s m core e pa op size v).memOk := by
  unfold amoGranted
  grind [optOk, memOk_flushOwn, memOk_modEntry, memOk_overtake, memOk_placeWrite, memOk_stainWords, memOk_storeMem]

theorem memOk_atomicGranted {s : State} (h : s.memOk) (m : CatMsg) (core carrel : Nat) (l : Outst) :
    (atomicGranted s m core carrel l).memOk := by
  unfold atomicGranted
  grind [optFstOk, memOk_atomicL2, memOk_atomicMem, memOk_flushOwn, memOk_overtake, memOk_putLoad]

theorem memOk_makeWrite {s : State} (h : s.memOk) (m : CatMsg) : (makeWrite s m).memOk := by
  unfold makeWrite
  split
  · exact h
  · split
    · split
      · exact memOk_atomicGranted h m _ _ _
      · exact h
    · split
      · split
        · exact memOk_amoGranted h m _ _ _ _ _ _
        · exact memOk_storeGranted h m _ _ _ _
        · exact h
      · exact h
    · exact h

theorem memOk_finishRequest {s : State} (h : s.memOk) (die : Nat) (m : CatMsg) : (finishRequest s die m).memOk := by
  unfold finishRequest
  grind [memOk_foldl, memOk_makeWrite, memOk_sendToCluster, memOk_setDie]

theorem memOk_tryFinish {s : State} (h : s.memOk) (die : Nat) (m : CatMsg) : (tryFinish s die m).memOk := by
  unfold tryFinish
  grind [memOk_finishRequest]

theorem memOk_serveRequest {s : State} (h : s.memOk) (die : Nat) (m : CatMsg) : (serveRequest s die m).memOk := by
  unfold serveRequest
  grind [memOk_foldl, memOk_setDie, memOk_startDisc, memOk_startRound, memOk_tryFinish]

theorem memOk_homeDrop {s : State} (h : s.memOk) (die idx : Nat) : (homeDrop s die idx).memOk := h
theorem memOk_clusterDrop {s : State} (h : s.memOk) (k idx : Nat) : (clusterDrop s k idx).memOk := h

/-! ### Catalogue messages (EvCatalogue) -/

theorem memOk_takeRequest {s : State} (h : s.memOk) (die idx : Nat) (kind : CatKind) : outOk (takeRequest s die idx kind) := by
  unfold takeRequest
  grind [outOk, memOk_homeDrop, memOk_serveRequest]

theorem memOk_writeNotice {s : State} (h : s.memOk) (die : Nat) (m : CatMsg) : (writeNotice s die m).memOk := by
  unfold writeNotice
  grind [memOk_foldl, memOk_poisonWords, memOk_storeMem]

theorem memOk_execCatalogueEvn {s : State} (h : s.memOk) (die idx : Nat) : outOk (execCatalogueEvn die idx s) := by
  unfold execCatalogueEvn
  grind [outOk, memOk_homeDrop, memOk_modDie, memOk_sendToCluster, memOk_writeNotice]

theorem memOk_countAnswer {s : State} (h : s.memOk) (die : Nat) (m : CatMsg)
    (f : CatEntry → CatEntry) : (countAnswer s die m f).memOk := by
  unfold countAnswer
  grind [memOk_modDie]

theorem memOk_dropRecalled {s : State} (h : s.memOk) (die tract : Nat) : (dropRecalled s die tract).memOk := h

theorem memOk_afterAnswer {s : State} (h : s.memOk) (die pa : Nat) : (afterAnswer s die pa).memOk := by
  unfold afterAnswer
  grind [memOk_dropRecalled, memOk_tryFinish]

theorem memOk_execCatalogueIack {s : State} (h : s.memOk) (die idx : Nat) : outOk (execCatalogueIack die idx s) := by
  unfold execCatalogueIack
  grind [outOk, memOk_afterAnswer, memOk_countAnswer, memOk_homeDrop]

theorem memOk_execCatalogueFack {s : State} (h : s.memOk) (die idx : Nat) : outOk (execCatalogueFack die idx s) := by
  unfold execCatalogueFack
  grind [outOk, memOk_afterAnswer, memOk_countAnswer, memOk_homeDrop]

theorem memOk_rebuild {s : State} (h : s.memOk) (die : Nat) (e : CatEntry) : (rebuild s die e).memOk := by
  unfold rebuild
  grind [memOk_modDie, memOk_startRound, memOk_tryFinish]

theorem memOk_execCatalogueDack {s : State} (h : s.memOk) (die idx : Nat) : outOk (execCatalogueDack die idx s) := by
  unfold execCatalogueDack
  grind [outOk, memOk_countAnswer, memOk_homeDrop, memOk_rebuild]

theorem memOk_execCatalogueReplacement {s : State} (h : s.memOk) (die : Nat) : outOk (execCatalogueReplacement die s) := by
  unfold execCatalogueReplacement
  grind [outOk, memOk_modDie, memOk_sendAll, memOk_setDie]

theorem memOk_execTractMerge {s : State} (h : s.memOk) (die base : Nat) : outOk (execTractMerge die base s) := by
  unfold execTractMerge
  grind [outOk, memOk_setDie]

theorem memOk_execCatalogueEack {s : State} (h : s.memOk) (cluster idx : Nat) : outOk (execCatalogueEack cluster idx s) := by
  unfold execCatalogueEack
  grind [outOk, memOk_clusterDrop, memOk_modCluster]

theorem memOk_writeBackExtent {s : State} (h : s.memOk) (k pa len : Nat) : (writeBackExtent s k pa len).memOk := by
  unfold writeBackExtent
  grind [memOk_foldl, memOk_cleanDirty]

theorem memOk_copyBackExtent {s : State} (h : s.memOk) (k pa len : Nat) : (copyBackExtent s k pa len).memOk := by
  unfold copyBackExtent
  grind [memOk_foldl, memOk_copyBack]

theorem memOk_removeExtent {s : State} (h : s.memOk) (k pa len : Nat) : (removeExtent s k pa len).1.memOk := by
  unfold removeExtent
  grind [memOk_foldl_fst, memOk_removeL2]

theorem memOk_execCatalogueInv {s : State} (h : s.memOk) (cluster idx : Nat) : outOk (execCatalogueInv cluster idx s) := by
  unfold execCatalogueInv
  grind [outOk, memOk_clusterDrop, memOk_copyBackExtent, memOk_removeExtent, memOk_sendToHome]

theorem memOk_execCatalogueFetch {s : State} (h : s.memOk) (cluster idx : Nat) : outOk (execCatalogueFetch cluster idx s) := by
  unfold execCatalogueFetch
  grind [outOk, memOk_clusterDrop, memOk_sendToHome, memOk_writeBackExtent]

theorem memOk_execCatalogueDisc {s : State} (h : s.memOk) (cluster idx : Nat) : outOk (execCatalogueDisc cluster idx s) := by
  unfold execCatalogueDisc
  grind [outOk, memOk_clusterDrop, memOk_sendToHome]

theorem memOk_feedLoads {s : State} (h : s.memOk) (k : Nat) (m : CatMsg) : (feedLoads s k m).memOk := by
  unfold feedLoads
  grind [memOk_foldl, memOk_putLoad]

theorem memOk_dropFilled {s : State} (h : s.memOk) (k key a b : Nat) (tell : Bool) : (dropFilled k key s a b tell).memOk := by
  unfold dropFilled
  grind [memOk_removeL2, memOk_sendToHome]

theorem memOk_fillFolio {s : State} (h : s.memOk) (k : Nat) (m : CatMsg) : (fillFolio s k m).memOk := by
  unfold fillFolio
  grind [memOk_dropFilled, memOk_finishFill, memOk_modCache, memOk_stainWords]

theorem memOk_feedUncached {s : State} (h : s.memOk) (m : CatMsg) (c i id : Nat) : (feedUncached s m c i id).memOk := by
  unfold feedUncached
  grind [memOk_putLoad]

theorem memOk_execCatalogueData {s : State} (h : s.memOk) (cluster idx : Nat) : outOk (execCatalogueData cluster idx s) := by
  unfold execCatalogueData
  grind [outOk, memOk_clusterDrop, memOk_feedLoads, memOk_feedUncached, memOk_fillFolio, memOk_modCluster]

theorem memOk_useGrant {s : State} (h : s.memOk) (q : CatReq) : (useGrant s q).memOk := by
  unfold useGrant
  grind [memOk_dropEntry, memOk_endLoad, memOk_modEntry, memOk_putLoad]

theorem memOk_execCatalogueGrant {s : State} (h : s.memOk) (cluster idx : Nat) : outOk (execCatalogueGrant cluster idx s) := by
  unfold execCatalogueGrant
  grind [outOk, memOk_clusterDrop, memOk_modCluster, memOk_useGrant]

/-! ### Replicas of cistern ranges (Pump) -/

theorem memOk_modRange {s : State} (h : s.memOk) (i : Nat) (f : Range → Range) : (s.modRange i f).memOk := h

theorem memOk_markDirty {s : State} (h : s.memOk) (ri die pa : Nat) : (markDirty s ri die pa).memOk := by
  unfold markDirty
  grind [memOk_modRange]

theorem memOk_answerWaits {s : State} (h : s.memOk) (pa size : Nat) : (answerWaits s pa size).memOk := by
  unfold answerWaits
  grind [memOk_foldl, memOk_modHub, memOk_replyPeer]

theorem memOk_mergeDone {s : State} (h : s.memOk) (u : MergeUser) : (mergeDone s u).memOk := by
  unfold mergeDone
  grind [memOk_mk, memOk_dropEntry, memOk_replyPeer]

theorem memOk_endMerge {s : State} (h : s.memOk) (m : Nat) : (endMerge s m).memOk := by
  unfold endMerge
  grind [memOk_mk, memOk_mergeDone]

theorem memOk_mergeCell {s : State} (h : s.memOk) (pa typ size v : Nat) (skip : Option Nat)
    (u : MergeUser) : (mergeCell s pa typ size v skip u).memOk := by
  unfold mergeCell
  grind [memOk_mk, memOk_answerWaits, memOk_endMerge, memOk_markDirty, memOk_tellOs, memOk_writeMem]

theorem memOk_joinL2 {s : State} (h : s.memOk) (k pa typ size v : Nat) : (joinL2 s k pa typ size v).memOk := by
  unfold joinL2
  grind [memOk_modCluster]

theorem memOk_liftHolds {s : State} (h : s.memOk) : (liftHolds s).memOk := h

theorem memOk_holdBlock {s : State} (h : s.memOk) (ri die pa cover : Nat) : (holdBlock s ri die pa cover).memOk := by
  unfold holdBlock
  grind [memOk_mk, memOk_modRange]

theorem memOk_sendBlock {s : State} (h : s.memOk) (ri part : Nat) (b : Nat × Nat) : (sendBlock s ri part b).memOk := by
  unfold sendBlock
  grind [memOk_mk, memOk_foldl, memOk_egLog, memOk_linkOut, memOk_newReq]

theorem memOk_clearMark {s : State} (h : s.memOk) (b : PumpBlock) : (clearMark s b).memOk := by
  unfold clearMark
  grind [memOk_modRange]

theorem memOk_beginRound {s : State} (h : s.memOk) (ri part : Nat) : (beginRound s ri part).memOk := by
  unfold beginRound
  grind [memOk_foldl, memOk_modRange, memOk_sendBlock]

theorem memOk_tryEnd {s : State} (h : s.memOk) (ri part : Nat) : (tryEnd s ri part).memOk := by
  unfold tryEnd
  grind [memOk_modRange]

theorem memOk_endRounds {s : State} (h : s.memOk) (ri : Nat) : (endRounds s ri).memOk := by
  unfold endRounds
  grind [memOk_foldl, memOk_tryEnd]

/-! ### Joins, pushes and rounds (EvCistern) -/

theorem memOk_mergeEntry {s : State} (h : s.memOk) (core : Nat) (e : Entry) (pa typ size : Nat)
    (v : Word) : (mergeEntry s core e pa typ size v).memOk := by
  unfold mergeEntry
  grind [memOk_holdBlock, memOk_joinL2, memOk_mergeCell, memOk_modEntry]

theorem memOk_execCisternMerge {s : State} (h : s.memOk) (core idx : Nat) : outOk (execCisternMerge core idx s) := by
  unfold execCisternMerge
  grind [outOk, memOk_entryEcc, memOk_mergeEntry]

theorem memOk_execReplicaPush {s : State} (h : s.memOk) (cluster idx : Nat) : outOk (execReplicaPush cluster idx s) := by
  unfold execReplicaPush
  grind [outOk, memOk_mk, memOk_foldl, memOk_endMerge, memOk_endRounds, memOk_joinL2]

theorem memOk_execPumpRoundStart {s : State} (h : s.memOk) (part range : Nat) : outOk (execPumpRoundStart part range s) := by
  unfold execPumpRoundStart
  grind [outOk, memOk_foldl, memOk_beginRound, memOk_endRounds, memOk_liftHolds]

theorem memOk_receiveBlock {s : State} (h : s.memOk) (b : PumpBlock) : (receiveBlock s b).memOk := by
  unfold receiveBlock
  grind [memOk_mk, memOk_foldl, memOk_endMerge, memOk_endRounds, memOk_mergeCell]

theorem memOk_execPumpBlockReceive {s : State} (h : s.memOk) (idx : Nat) : outOk (execPumpBlockReceive idx s) := by
  unfold execPumpBlockReceive
  grind [outOk, memOk_receiveBlock]

theorem memOk_acknowledged {s : State} (h : s.memOk) (b : PumpBlock) : optOk (acknowledged s b) := by
  have hdrop := memOk_dropReq h
  unfold acknowledged
  split
  · refine optOk_map_of_forall fun r => ?_
    split
    · exact memOk_clearMark (hdrop _) b
    · exact hdrop _
  · split
    · exact memOk_replyPeer h _ _
    · trivial
  · split
    · exact memOk_clearMark h b
    · trivial

theorem memOk_execPumpBlockAck {s : State} (h : s.memOk) (idx : Nat) : outOk (execPumpBlockAck idx s) := by
  unfold execPumpBlockAck
  grind [optOk, outOk, memOk_mk, memOk_acknowledged, memOk_endRounds, memOk_liftHolds]

theorem memOk_execCisternRangeCreation {s : State} (h : s.memOk) (init : RangeInit) : outOk (execCisternRangeCreation init s) := by
  unfold execCisternRangeCreation
  grind [outOk, memOk_mk, memOk_foldl, memOk_coherentWrite, memOk_purge, memOk_storeMem]

/-! ### Routers, links and peers (EvNetwork) -/

theorem memOk_execTimeTick {s : State} (h : s.memOk) : outOk (execTimeTick s) := by
  unfold execTimeTick
  grind [outOk, memOk_mk, memOk_modHub]

theorem memOk_fetchPieces {s : State} (h : s.memOk) (ps : List (Nat × Nat × RtEntry)) : (fetchPieces s ps).memOk := by
  unfold fetchPieces
  grind [memOk_foldl, memOk_coherentFetch]

theorem memOk_writePieces {s : State} (h : s.memOk) (l : List (Nat × Nat × RtEntry)) (ls : List TByte) : (writePieces s l ls).memOk := by
  fun_induction writePieces <;> grind [memOk_coherentWrite]

theorem memOk_peerAtomic {s : State} (h : s.memOk) (x : Ctx) (addr size : Nat) (a : AccOp)
    (give : Bool) : (peerAtomic s x addr size a give).1.memOk := by
  unfold peerAtomic
  grind [memOk_fetchPieces, memOk_writePieces]

theorem memOk_holdFor {s : State} (h : s.memOk) (pa : Nat) (rel : Option Nat) : (holdFor s pa rel).memOk := by
  unfold holdFor
  grind [memOk_holdBlock]

theorem memOk_takePart {s : State} (h : s.memOk) (back : Back) (addr : Nat) (d : List Byte) : (takePart s back addr d).1.memOk := by
  unfold takePart
  grind [memOk_mk]

theorem memOk_servePeer {s : State} (h : s.memOk) (back : Back) (x : Ctx) (addr : Nat)
    (op : PeerOp) : (servePeer s back x addr op).1.memOk := by
  unfold servePeer
  grind [memOk_fetchPieces, memOk_holdFor, memOk_mergeCell, memOk_modHub, memOk_peerAtomic, memOk_poisonWords, memOk_takePart,
    memOk_writePieces]

theorem memOk_hubInject {s : State} (h : s.memOk) (r : PeerReq) (body : FlitBody) (kind : Nat) : (hubInject s r body kind).memOk := by
  unfold hubInject
  grind [memOk_inject, memOk_modHub]

theorem memOk_takeAnswer {s : State} (h : s.memOk) (r : PeerReq) (id : Nat) (resp : RemoteResp) : (takeAnswer s r id resp).memOk := by
  unfold takeAnswer
  grind [memOk_answer, memOk_hubInject]

theorem memOk_peerRequest {s : State} (h : s.memOk) (r : PeerReq) : (peerRequest s r).memOk := by
  unfold peerRequest
  grind [memOk_hubInject, memOk_replyPeer, memOk_servePeer, memOk_takeAnswer]

theorem memOk_execPeerRequestArrival {s : State} (h : s.memOk) (req : PeerReq) : outOk (execPeerRequestArrival req s) := by
  unfold execPeerRequestArrival
  grind [outOk, memOk_peerRequest]

theorem memOk_sendAfter {s : State} (h : s.memOk) (port : Nat) (ack : Bool) : (sendAfter s port ack).memOk := by
  unfold sendAfter
  grind [memOk_getD, memOk_drainPort, memOk_sendFlit]

theorem memOk_takeFlit {s : State} (h : s.memOk) (port : Nat) (p : Port) (flit : List Byte)
    (msgs : List PeerReq) : (takeFlit s port p flit msgs).memOk := by
  unfold takeFlit
  grind [memOk_foldl, memOk_peerRequest, memOk_sendAfter, memOk_setPort]

theorem memOk_execLinkFlitReceive {s : State} (h : s.memOk) (port : Nat) (flit : List Byte)
    (msgs : List PeerReq) : outOk (execLinkFlitReceive port flit msgs s) := by
  unfold execLinkFlitReceive
  grind [outOk, memOk_sendAfter, memOk_setPort, memOk_takeFlit]

theorem memOk_execLinkReplay {s : State} (h : s.memOk) (port : Nat) : outOk (execLinkReplay port s) := by
  unfold execLinkReplay
  grind [outOk, memOk_foldl, memOk_emit, memOk_setPort]

theorem memOk_execPortDown {s : State} (h : s.memOk) (port : Nat) : outOk (execPortDown port s) := by
  unfold execPortDown
  grind [outOk, memOk_foldl, memOk_linkOut, memOk_setPort]

/-! ### Drained barrier entries (EvBarrier) -/

theorem memOk_barEntry {s : State} (h : s.memOk) {here : Nat → Nat → State} (hhere : ∀ a b, (here a b).memOk) (core : Nat) (e : Entry)
    (l : Loc) (op : PeerOp) : (barEntry s core e l op here).memOk := by
  unfold barEntry
  grind [memOk_sendEntry]

theorem memOk_countHere {s : State} (h : s.memOk) (core region off : Nat) (addr : Word) (pc : Va) (w : Word)
    (copy : Bool) : (countHere s core region off addr pc w copy).memOk := by
  unfold countHere
  grind [memOk_barUpdate, memOk_postNotice]

theorem memOk_execBarmApply {s : State} (h : s.memOk) (core idx : Nat) : outOk (execBarmApply core idx s) := by
  unfold execBarmApply
  grind [outOk, memOk_barEntry, memOk_barUpdate, memOk_dropEntry, memOk_entryEcc, memOk_healRegion]

theorem memOk_execBarbApply {s : State} (h : s.memOk) (core idx : Nat) : outOk (execBarbApply core idx s) := by
  unfold execBarbApply
  grind [outOk, memOk_barEntry, memOk_countHere, memOk_dropEntry, memOk_entryEcc, memOk_healRegion]

theorem memOk_arriveBarr {s : State} (h : s.memOk) (core carrel : Nat) (b : BarrWait) : (arriveBarr s core carrel b).memOk := by
  unfold arriveBarr
  grind [memOk_barArrival, memOk_consumeError, memOk_dropReq, memOk_healRegion, memOk_modCarrel, memOk_sendOp]

theorem memOk_execBarrUpdate {s : State} (h : s.memOk) (core carrel : Nat) : outOk (execBarrUpdate core carrel s) := by
  unfold execBarrUpdate
  grind [outOk, memOk_arriveBarr]

/-! ### The dispatch hub (Graph) -/

theorem memOk_modNode {s : State} (h : s.memOk) (inst node : Nat) (f : Node → Node) : (s.modNode inst node f).memOk := by
  unfold State.modNode
  grind [memOk_modHub]

theorem memOk_sendMsix {s : State} (h : s.memOk) (v : Nat) : (sendMsix s v).memOk := by
  unfold sendMsix
  grind [memOk_emit, memOk_modHub]

theorem memOk_hubWrite {s : State} (h : s.memOk) (ctx va : Nat) (bs : List Byte) : optOk (hubWrite s ctx va bs) :=
  optOk_map_of_forall fun ps => memOk_writePieces h ps _

theorem memOk_freeSucc {s : State} (h : s.memOk) (inst node : Nat) : (freeSucc s inst node).memOk := by
  unfold freeSucc
  grind [memOk_mk, memOk_modNode]

theorem memOk_freeSuccs {s : State} (h : s.memOk) (inst : Nat) (g : Graph) (n : Node) : (freeSuccs s inst g n).memOk := by
  unfold freeSuccs
  grind [memOk_foldl, memOk_freeSucc]

theorem memOk_endInst {s : State} (h : s.memOk) (inst : Nat) : (endInst s inst).memOk := by
  unfold endInst
  grind [memOk_modHub, memOk_sendMsix]

theorem memOk_writeRecord {s : State} (h : s.memOk) (i : Inst) (g : Graph) (node : Nat) (n : Node)
    (status verdict acts repl corr tend : Nat) : (writeRecord s i g node n status verdict acts repl corr tend).1.memOk := by
  unfold writeRecord
  grind [optOk, optOk_bind, memOk_hubWrite, memOk_tellOs]

theorem memOk_completeAt {s : State} (h : s.memOk)
    (inst node status verdict acts repl corr tend : Nat) : (completeAt s inst node status verdict acts repl corr tend).memOk := by
  unfold completeAt
  grind [memOk_endInst, memOk_freeSuccs, memOk_modNode, memOk_writeRecord]

theorem memOk_completeNode {s : State} (h : s.memOk)
    (inst node status verdict acts repl corr : Nat) : (completeNode s inst node status verdict acts repl corr).memOk :=
  memOk_completeAt h ..

/-! ### The siphon at work (EvSiphon) -/

theorem memOk_setChan {s : State} (h : s.memOk) (core ch : Nat) (x : Channel) : (s.setChan core ch x).memOk := h
theorem memOk_modChan {s : State} (h : s.memOk) (core ch : Nat) (f : Channel → Channel) : (s.modChan core ch f).memOk := h

theorem memOk_countOwn {s : State} (h : s.memOk) (core ch region off : Nat) (w : Word)
    (auto : Bool) : (countOwn s core ch region off w auto).memOk := by
  unfold countOwn
  grind [memOk_barUnusable, memOk_barUpdate, memOk_healRegion, memOk_siphBroke]

theorem memOk_countChan {s : State} (h : s.memOk) (core ch : Nat) (home : Option Nat) (region off : Nat) (w : Word) (auto : Bool) :
    (countChan s core ch home region off w auto).memOk := by
  have hown := memOk_countOwn h core ch region off w auto
  cases home with
  | none => exact memOk_ite h hown
  | some a =>
    refine memOk_ite h (memOk_ite hown ?_)
    -- the kernel must not compute with the address
    extract_lets addr
    clear_value addr
    have hp := memOk_places h core (s.chan core ch).ctx addr 16 .rw
    split
    · next e =>
      rw [e] at hp
      exact memOk_barUnusable hp core ch
    · next e =>
      rw [e] at hp
      exact memOk_sendOp hp core _ _ _

theorem memOk_countCmd {s : State} (h : s.memOk) (core ch : Nat) (c : ChanCmd) (sub auto : Bool)
    (n : Nat) : (countCmd s core ch c sub auto n).memOk := by
  unfold countCmd
  grind [memOk_countChan]

theorem memOk_endNode {s : State} (h : s.memOk) (c : ChanCmd) (status verdict : Nat) : (endNode s c status verdict).memOk := by
  unfold endNode
  grind [memOk_completeNode]

theorem memOk_endChan {s : State} (h : s.memOk) (core ch : Nat) (x : Channel) : (s.endChan core ch x).memOk := h

theorem memOk_doneChan {s : State} (h : s.memOk) (core ch : Nat) (c : ChanCmd) : (doneChan s core ch c).memOk := by
  unfold doneChan
  grind [memOk_endChan, memOk_endNode, memOk_siphNotice]

theorem memOk_tryDone {s : State} (h : s.memOk) (core ch : Nat) (c : ChanCmd) : (tryDone s core ch c).memOk := by
  unfold tryDone
  grind [memOk_doneChan, memOk_modEngine, memOk_postNotice, memOk_setChan]

theorem memOk_modTile {s : State} (h : s.memOk) (k t : Nat) (f : Tile → Tile) : (s.modTile k t f).memOk := h

theorem memOk_acceptTiles {s : State} (h : s.memOk) (core : Nat) (c : ChanCmd) : (acceptTiles s core c).memOk := by
  unfold acceptTiles
  grind [memOk_modTile]

theorem memOk_acceptCmd {s : State} (h : s.memOk) (core ch : Nat) (e : Entry) (c : ChanCmd) : (acceptCmd s core ch e c).memOk := by
  unfold acceptCmd
  grind [memOk_mk, memOk_acceptTiles, memOk_countCmd, memOk_dropEntry, memOk_modChan, memOk_setChan, memOk_tryDone]

theorem memOk_eccCommand {s : State} (h : s.memOk) (core : Nat) (e : Entry) (c : ChanCmd) : (eccCommand s core e c).memOk := by
  unfold eccCommand
  grind [memOk_dropEntry, memOk_endNode, memOk_entryEcc]

theorem memOk_acceptAt {s : State} (h : s.memOk) (core idx : Nat)
    (pick : Effect → Option (Nat × ChanCmd)) : (acceptAt s core idx pick).memOk := by
  unfold acceptAt
  grind [memOk_acceptCmd, memOk_eccCommand]

theorem memOk_execSiphAccept {s : State} (h : s.memOk) (core idx : Nat) : outOk (execSiphAccept core idx s) := by
  unfold execSiphAccept
  grind [outOk, memOk_acceptAt]

theorem memOk_execSgathAccept {s : State} (h : s.memOk) (core idx : Nat) : outOk (execSgathAccept core idx s) := by
  unfold execSgathAccept
  grind [outOk, memOk_acceptAt]

theorem memOk_execScfgApply {s : State} (h : s.memOk) (core idx : Nat) : outOk (execScfgApply core idx s) := by
  unfold execScfgApply
  grind [outOk, memOk_dropEntry, memOk_entryEcc, memOk_modChan]

theorem memOk_siphPlaces {s : State} (h : s.memOk) (core ctx addr size : Nat)
    (acc : Acc_) : (siphPlaces s core ctx addr size acc).1.memOk := by
  unfold siphPlaces
  grind [memOk_egLog, memOk_places]

theorem memOk_siphRead {s : State} (h : s.memOk) (core ch n addr size : Nat) : readOk (siphRead s core ch n addr size) := by
  unfold siphRead
  grind [readOk, memOk_dropReq, memOk_healPlaces, memOk_sendOp, memOk_setChan, memOk_siphPlaces]

theorem memOk_spoilMem {s : State} (h : s.memOk) (core : Nat) (pas : List Nat) : (spoilMem s core pas).memOk := by
  unfold spoilMem
  grind [memOk_poisonWords, memOk_taint]

theorem memOk_spoilCopies {s : State} (h : s.memOk) (k : Nat) (pas : List Nat) : (spoilCopies s k pas).memOk := by
  unfold spoilCopies
  grind [memOk_foldl, memOk_modCache]

theorem memOk_siphWrite {s : State} (h : s.memOk) (core ch n addr : Nat) (bs : List (TByte × Bool)) :
    writeOk (siphWrite s core ch n addr bs) := by
  have hp := memOk_siphPlaces h core (s.chan core ch).ctx addr bs.length .siphW
  have hput : ∀ (t : State) (w : Bool) pa d, t.memOk →
      (if w = true then writeThrough t (clusterOf core) pa d else coherentWrite t pa d).memOk := by
    intro t w pa d ht
    split
    · exact memOk_writeThrough ht _ pa d
    · exact memOk_coherentWrite ht pa d
  unfold siphWrite
  dsimp only
  split
  · next e =>
    rw [e] at hp
    exact hp
  · next t p e =>
    rw [e] at hp
    have ht : t.memOk := hp
    split
    · exact ht
    · refine memOk_spoilMem (memOk_spoilCopies ?_ _ _) core _
      split
      · exact hput _ _ _ _ (hput _ _ _ _ ht)
      · exact hput _ _ _ _ ht
    · split
      · exact memOk_onTwin (memOk_scrSpoil (memOk_scrWrite ht _ _ _ _) _ _ _ _)
          (fun t c ht => memOk_scrSpoil (memOk_scrWrite ht _ _ _ _) _ _ _ _) core
      · have htaint := memOk_taint ht core
        grind [writeOk, memOk_emit, memOk_setChan, memOk_sendOp]

theorem memOk_unitPerformed {s : State} (h : s.memOk) (core ch : Nat) (c : SiphCmd) (n : Nat) : (unitPerformed s core ch c n).memOk := by
  unfold unitPerformed
  grind [memOk_countCmd, memOk_modChan]

theorem memOk_failChan {s : State} (h : s.memOk) (core ch addr : Nat) : (failChan s core ch addr).memOk := h

theorem memOk_writeUnit {s : State} (h : s.memOk) (core ch : Nat) (c : SiphCmd) (n : Nat)
    (bs : List (TByte × Bool)) : (writeUnit s core ch c n bs).memOk := by
  unfold writeUnit
  grind [writeOk, memOk_failChan, memOk_modChan, memOk_modTile, memOk_siphWrite, memOk_unitPerformed]

theorem memOk_nextUnit {s : State} (h : s.memOk) (core ch : Nat) (c : SiphCmd) : (nextUnit s core ch c).memOk := by
  unfold nextUnit
  grind [readOk, memOk_failChan, memOk_siphRead, memOk_writeUnit]

theorem memOk_collectWrites {s : State} (h : s.memOk) (core ch : Nat) (c : SiphCmd) : (collectWrites s core ch c).memOk := by
  unfold collectWrites
  grind [memOk_foldl, memOk_dropReq, memOk_failChan, memOk_modChan, memOk_unitPerformed]

theorem memOk_gathFinish {s : State} (h : s.memOk) (core ch : Nat) (c : GathCmd) : (gathFinish s core ch c).memOk := by
  unfold gathFinish
  grind [memOk_countCmd, memOk_failChan, memOk_modChan, memOk_modTile, memOk_onTwin, memOk_scrWrite]

theorem memOk_nextGath {s : State} (h : s.memOk) (core ch : Nat) (c : GathCmd) : (nextGath s core ch c).memOk := by
  unfold nextGath
  grind [readOk, memOk_failChan, memOk_gathFinish, memOk_modChan, memOk_siphRead]

theorem memOk_execSiphElementWrite {s : State} (h : s.memOk) (core ch : Nat) : outOk (execSiphElementWrite core ch s) := by
  unfold execSiphElementWrite
  grind [outOk, memOk_collectWrites, memOk_nextGath, memOk_nextUnit]

theorem memOk_execSiphDone {s : State} (h : s.memOk) (core ch : Nat) : outOk (execSiphDone core ch s) := by
  unfold execSiphDone
  grind [outOk, memOk_tryDone]

theorem memOk_execSiphFault {s : State} (h : s.memOk) (core ch : Nat) : outOk (execSiphFault core ch s) := by
  unfold execSiphFault
  grind [outOk, memOk_mk, memOk_endChan, memOk_endNode, memOk_siphNotice]

/-! ### The matrix engine at work (EvEngine) -/

theorem memOk_execEngineQueueEntry {s : State} (h : s.memOk) (core idx : Nat) : outOk (execEngineQueueEntry core idx s) := by
  unfold execEngineQueueEntry
  grind [outOk, memOk_dropEntry, memOk_entryEcc, memOk_modEngine]

theorem memOk_engineNotice {s : State} (h : s.memOk) (c : EngCmd) (cause n : Nat) : (engineNotice s c cause n).memOk := h

theorem memOk_macstCount {s : State} (h : s.memOk) (c : EngCmd) (m : MacstCmd) (sub auto : Bool)
    (n : Nat) : (macstCount s c m sub auto n).memOk := by
  unfold macstCount
  grind [memOk_countHere, memOk_healRegion]

theorem memOk_execEngineCommandStart {s : State} (h : s.memOk) (cluster : Nat) : outOk (execEngineCommandStart cluster s) := by
  unfold execEngineCommandStart
  grind [outOk, memOk_engineNotice, memOk_macstCount, memOk_modEngine]

theorem memOk_setAcc {s : State} (h : s.memOk) (k a : Nat) (x : Acc) : (s.setAcc k a x).memOk := h
theorem memOk_idleEngine {s : State} (h : s.memOk) (k : Nat) : (idleEngine s k).memOk := h

theorem memOk_finishCmd {s : State} (h : s.memOk) (k : Nat) (c : EngCmd) : (finishCmd s k c).memOk := by
  unfold finishCmd
  grind [memOk_idleEngine, memOk_postNotice, memOk_setAcc]

theorem memOk_execEngineCommandComplete {s : State} (h : s.memOk) (cluster : Nat) : outOk (execEngineCommandComplete cluster s) := by
  unfold execEngineCommandComplete
  grind [outOk, memOk_finishCmd]

theorem memOk_macstPut {s : State} (h : s.memOk) (c : EngCmd) (pa : Nat) (bs : List TByte)
    (window bad : Bool) : (macstPut s c pa bs window bad).memOk := by
  unfold macstPut
  grind [memOk_coherentWrite, memOk_poisonWords, memOk_taint, memOk_writeThrough]

theorem memOk_macstPlaces {s : State} (h : s.memOk) (c : EngCmd) (a z : Nat) : (macstPlaces s c a z).1.memOk := by
  unfold macstPlaces
  grind [memOk_egLog, memOk_places]

theorem memOk_macstStep {s : State} (h : s.memOk) (k : Nat) (c : EngCmd) (m : MacstCmd) : (macstStep s k c m).memOk := by
  unfold macstStep
  grind [memOk_idleEngine, memOk_macstCount, memOk_macstPlaces, memOk_macstPut, memOk_modEngine, memOk_postNotice, memOk_setAcc]

theorem memOk_execMacstWrite {s : State} (h : s.memOk) (cluster : Nat) : outOk (execMacstWrite cluster s) := by
  unfold execMacstWrite
  grind [outOk, memOk_macstStep]

theorem memOk_execMigration {s : State} (h : s.memOk) (cluster idx : Nat) : outOk (execMigration cluster idx s) := by
  unfold execMigration
  grind [outOk, memOk_modEngine]

theorem memOk_migrantLeaves {s : State} (h : s.memOk) (k : Nat) (g : Migrant) : (migrantLeaves s k g).memOk := h

theorem memOk_execMigratedMmaStart {s : State} (h : s.memOk) (cluster : Nat) : outOk (execMigratedMmaStart cluster s) := by
  unfold execMigratedMmaStart
  grind [outOk, memOk_engineNotice, memOk_migrantLeaves, memOk_modEngine]

theorem memOk_execMigrationReturn {s : State} (h : s.memOk) (cluster : Nat) : outOk (execMigrationReturn cluster s) := by
  unfold execMigrationReturn
  grind [outOk, memOk_migrantLeaves, memOk_setAcc]

/-! ### Stream elements (EvStream) -/

theorem memOk_pushElem {s : State} (h : s.memOk) (core carrel : Nat) (r : Reg) (x : StreamElem) : (pushElem s core carrel r x).memOk := by
  unfold pushElem
  grind [memOk_modCarrel]

theorem memOk_elementLoad {s : State} (h : s.memOk) (core carrel : Nat) (r : Reg) (st : Stream) (a : Nat)
    (p : Places) : outOk (elementLoad s core carrel r st a p) := by
  unfold elementLoad
  grind [wordOk, outOk, memOk_issueLoad, memOk_pushElem]

theorem memOk_elementCell {s : State} (h : s.memOk) (core carrel : Nat) (r : Reg) (st : Stream)
    (a pa typ : Nat) : outOk (elementCell s core carrel r st a pa typ) := by
  unfold elementCell
  grind [outOk, memOk_pushElem, memOk_viewCell]

theorem memOk_fetchElement {s : State} (h : s.memOk) (core carrel : Nat) (r : Reg)
    (st : Stream) : outOk (fetchElement s core carrel r st) := by
  unfold fetchElement
  grind [outOk, memOk_elementCell, memOk_elementLoad, memOk_places, memOk_pushElem]

theorem memOk_execStreamFetch {s : State} (h : s.memOk) (core carrel reg : Nat) : outOk (execStreamFetch core carrel reg s) := by
  unfold execStreamFetch
  grind [outOk, memOk_mk, memOk_fetchElement]

theorem memOk_convertElement {s : State} (h : s.memOk) (core carrel : Nat) (st : Stream) (n : Nat)
    (v : Word) : optOk (convertElement s core carrel st n v) := by
  unfold convertElement
  grind [optOk, memOk_places, memOk_putEntry]

theorem memOk_convertCommit {s : State} (h : s.memOk) (core carrel : Nat) : optOk (convertCommit s core carrel) := by
  unfold convertCommit
  grind [optOk, memOk_commitPoint, memOk_setCarrel]

theorem memOk_execStreamConvert {s : State} (h : s.memOk) (core carrel reg : Nat) : outOk (execStreamConvert core carrel reg s) := by
  have hcommit : optOk (convertCommit { s with cur := (core, carrel) } core carrel) :=
    memOk_convertCommit (s := { s with cur := (core, carrel) }) h core carrel
  unfold execStreamConvert
  dsimp only
  split
  · split
    · exact h
    · split
      · exact memOk_consumeError (memOk_setCarrel h _ _ _) _ _ _
      · split
        · exact h
        · next e =>
          rw [e] at hcommit
          split
          · exact hcommit
          · have helem := memOk_convertElement hcommit core carrel
            grind [outOk, optOk, memOk_modCarrel]
  · exact h

/-! ### Launches (Launch) -/

theorem memOk_pinL1 {s : State} (h : s.memOk) (c key len : Nat) : optOk (pinL1 s c key len) := by
  unfold pinL1
  split
  · trivial
  · have hs := fun fs => memOk_foldl (fun s f hs => memOk_evictL1 hs c f) fs h
    refine optOk_map ?_ fun t ht => memOk_modCore ht c _
    split
    · exact hs _
    · exact optOk_map_of_forall fun f => memOk_evictL1 (hs _) c f

theorem memOk_pinL2 {s : State} (h : s.memOk) (k key len : Nat) : optOk (pinL2 s k key len) := by
  unfold pinL2
  split
  · trivial
  · have hs := fun fs => memOk_foldl (fun s f hs => memOk_evictL2 hs k f) fs h
    refine optOk_map ?_ fun t ht => memOk_modCluster ht k _
    split
    · exact hs _
    · exact optOk_map_of_forall fun f => memOk_evictL2 (hs _) k f

theorem memOk_pinRegions {s : State} (h : s.memOk) (c : Nat) (sizes : List Nat) : optOk (pinRegions s c sizes) := by
  unfold pinRegions
  dsimp only
  split
  · trivial
  · refine optOk_bind (optOk_foldl (fun o p ho => ?_) _ (o := some s) h) fun t ht => ?_
    · obtain ⟨r, g, n⟩ := p
      exact optOk_bind (optOk_bind ho fun t ht => memOk_pinL1 ht _ _ _) fun t ht => memOk_pinL2 ht _ _ _
    · split
      · exact memOk_modCore ht c _
      · trivial

theorem memOk_unpinRegions {s : State} (h : s.memOk) (c : Nat) : (unpinRegions s c).memOk := h

theorem memOk_openCore {s : State} (h : s.memOk) (c as_ ctx : Nat) (bay : Bay)
    (table : List TByte) : (openCore s c as_ ctx bay table).memOk := h

theorem memOk_launchMessage {s : State} (h : s.memOk) (c ctx ltag : Nat) (ps : List Word) : (launchMessage s c ctx ltag ps).memOk := h

theorem memOk_openLaunch {s : State} (h : s.memOk) (inst node ctx : Nat) (n : Node) (bs : List BayEnt) (sizes : List Nat)
    (table : List TByte) : optOk (openLaunch s inst node ctx n bs sizes table) := by
  have hpin : ∀ o (p : Nat × Nat × BayEnt × Nat), optOk o → optOk (o.bind fun s => pinRegions s p.1 sizes) :=
    fun o p ho => optOk_bind ho fun t ht => memOk_pinRegions ht _ _
  refine optOk_map (optOk_foldl hpin _ (o := some s) h) fun t ht => ?_
  refine memOk_foldl (fun s p hs => memOk_launchMessage hs _ _ _ _) _ (memOk_modHub ?_ _)
  have hopen := memOk_foldl
    (f := fun t (p : Nat × Nat × BayEnt × Nat) => openCore t p.1 p.2.1 ctx (bayOf s.hub.nextLaunch bs p.2.2.1 p.2.2.2) table)
    (fun s p hs => memOk_openCore hs _ _ _ _ _) (launchCores bs n.paired) ht
  split
  · exact memOk_foldl (fun s c hs => memOk_modCore (memOk_modCore hs _ _) _ _) _ hopen
  · exact hopen

theorem memOk_closeCore {s : State} (h : s.memOk) (c : Nat) : (closeCore s c).memOk := h

/-! ### Task graphs (EvGraph) -/

theorem memOk_setHstat {s : State} (h : s.memOk) (r : Nat) : (setHstat s r).memOk := h

theorem memOk_loadGraph {s : State} (h : s.memOk) (id : Nat) : (loadGraph s id).memOk := by
  unfold loadGraph
  grind [memOk_modHub, memOk_setHstat]

theorem memOk_execGraphLoad {s : State} (h : s.memOk) (w : Word) (host : Bool) : outOk (execGraphLoad w host s) := by
  unfold execGraphLoad
  grind [outOk, memOk_loadGraph]

theorem memOk_unloadGraph {s : State} (h : s.memOk) (id : Nat) : (unloadGraph s id).memOk := by
  unfold unloadGraph
  grind [memOk_modHub, memOk_setHstat]

theorem memOk_execGraphUnload {s : State} (h : s.memOk) (w : Word) (host : Bool) : outOk (execGraphUnload w host s) := by
  unfold execGraphUnload
  grind [outOk, memOk_unloadGraph]

theorem memOk_releaseNode {s : State} (h : s.memOk) (w : Word) : (releaseNode s w).memOk := by
  unfold releaseNode
  grind [memOk_freeSuccs, memOk_modNode, memOk_setHstat]

theorem memOk_execNodeRelease {s : State} (h : s.memOk) (w : Word) (host : Bool) : outOk (execNodeRelease w host s) := by
  unfold execNodeRelease
  grind [outOk, memOk_releaseNode]

theorem memOk_cancelFrom {s : State} (h : s.memOk) (i : Inst) (g : Graph) (n : Node) : (cancelFrom s i g n).memOk := by
  unfold cancelFrom
  grind [memOk_foldl, memOk_completeNode]

theorem memOk_cancelNode {s : State} (h : s.memOk) (w : Word) : (cancelNode s w).memOk := by
  unfold cancelNode
  grind [memOk_cancelFrom, memOk_modNode, memOk_setHstat]

theorem memOk_execNodeCancel {s : State} (h : s.memOk) (w : Word) (host : Bool) : outOk (execNodeCancel w host s) := by
  unfold execNodeCancel
  grind [outOk, memOk_cancelNode]

theorem memOk_execHcmdInvalid {s : State} (h : s.memOk) (w : Word) (host : Bool) : outOk (execHcmdInvalid w host s) := by
  unfold execHcmdInvalid
  grind [outOk, memOk_setHstat]

theorem memOk_execTriggerWrite {s : State} (h : s.memOk) (q size : Nat) (w : Word) : outOk (execTriggerWrite q size w s) := by
  unfold execTriggerWrite
  grind [outOk, memOk_modHub]

theorem memOk_readyFirst {s : State} (h : s.memOk) (inst n : Nat) : (readyFirst s inst n).memOk := by
  unfold readyFirst
  grind [memOk_mk, memOk_foldl, memOk_modNode]

theorem memOk_execInstanceStart {s : State} (h : s.memOk) (q : Nat) : outOk (execInstanceStart q s) := by
  unfold execInstanceStart
  grind [outOk, memOk_modHub, memOk_readyFirst]

theorem memOk_startNode {s : State} (h : s.memOk) (inst node : Nat) : (startNode s inst node).memOk := h

theorem memOk_reserveKernel {s : State} (h : s.memOk) (inst node : Nat) (g : Graph) (n : Node)
    (bs : List BayEnt) : (reserveKernel s inst node g n bs).memOk := by
  unfold reserveKernel
  grind [optOk, memOk_completeNode, memOk_openLaunch, memOk_startNode]

theorem memOk_execKernelReserve {s : State} (h : s.memOk) (inst node : Nat) : outOk (execKernelReserve inst node s) := by
  unfold execKernelReserve
  grind [outOk, memOk_completeNode, memOk_reserveKernel, memOk_startNode]

theorem memOk_barrierNode {s : State} (h : s.memOk) (inst node : Nat) (g : Graph) (n : Node)
    (first : Bool) : (barrierNode s inst node g n first).memOk := by
  unfold barrierNode
  grind [memOk_completeNode, memOk_healRegion]

theorem memOk_barrierEnd {s : State} (h : s.memOk) (inst node : Nat) (g : Graph) (n : Node) : (barrierEnd s inst node g n).memOk := by
  unfold barrierEnd
  grind [memOk_barrierNode, memOk_completeNode]

theorem memOk_execBarrierNodeStart {s : State} (h : s.memOk) (inst node : Nat) : outOk (execBarrierNodeStart inst node s) := by
  unfold execBarrierNodeStart
  grind [outOk, memOk_barrierEnd, memOk_barrierNode, memOk_startNode]

theorem memOk_failBarriers {s : State} (h : s.memOk) (core : Nat) : (failBarriers s core).memOk := by
  unfold failBarriers
  grind [memOk_foldl, memOk_completeNode]

theorem memOk_finishLaunch {s : State} (h : s.memOk) (l : Launch) : (finishLaunch s l).memOk := by
  unfold finishLaunch
  grind [memOk_foldl, memOk_closeCore, memOk_completeNode, memOk_failBarriers, memOk_modHub]

theorem memOk_execLaunchFinish {s : State} (h : s.memOk) (idx : Nat) : outOk (execLaunchFinish idx s) := by
  unfold execLaunchFinish
  grind [outOk, memOk_finishLaunch]

theorem memOk_queueSiph {s : State} (h : s.memOk) (core ch ctx : Nat) (c : SiphCmd) : (queueSiph s core ch ctx c).memOk := h

theorem memOk_execSiphNodeStart {s : State} (h : s.memOk) (inst node : Nat) : outOk (execSiphNodeStart inst node s) := by
  unfold execSiphNodeStart
  grind [outOk, memOk_completeNode, memOk_queueSiph, memOk_startNode]

theorem memOk_endNotify {s : State} (h : s.memOk) (inst node : Nat) (n : Node) (ok : Bool) : (endNotify s inst node n ok).memOk := by
  unfold endNotify
  grind [memOk_completeAt, memOk_sendMsix]

theorem memOk_execNotifyHostNodeStart {s : State} (h : s.memOk) (inst node : Nat) : outOk (execNotifyHostNodeStart inst node s) := by
  unfold execNotifyHostNodeStart
  grind [outOk, memOk_egLog, memOk_emit, memOk_endNotify, memOk_newReq, memOk_startNode]

theorem memOk_execNotifyHostReadback {s : State} (h : s.memOk) (inst node : Nat)
    (ok : Bool) : outOk (execNotifyHostReadback inst node ok s) := by
  unfold execNotifyHostReadback
  grind [outOk, memOk_dropReq, memOk_endNotify]

/-! ### Reliability and reshelving (EvReliability) -/

theorem memOk_execCorrectedError {s : State} (h : s.memOk) (cluster phys : Nat)
    (user : Option Nat) : outOk (execCorrectedError cluster phys user s) := by
  unfold execCorrectedError
  grind [outOk, memOk_countCluster, memOk_countError, memOk_modLaunch]

theorem memOk_execHealthLeak {s : State} (h : s.memOk) (cluster phys : Nat) : outOk (execHealthLeak cluster phys s) := by
  unfold execHealthLeak
  grind [outOk, memOk_modCluster, memOk_setHealth]

theorem memOk_writeHealth {s : State} (h : s.memOk) (k p : Nat) (w : Word) : (writeHealth s k p w).memOk := by
  unfold writeHealth
  grind [memOk_modCluster, memOk_setHealth, memOk_trigger]

theorem memOk_abortCarrel {s : State} (h : s.memOk) (c i : Nat) : (abortCarrel s c i).memOk := by
  unfold abortCarrel
  grind [memOk_modCore]

theorem memOk_withPartner {f : State → Nat → Nat → State} (hf : ∀ s a b, s.memOk → (f s a b).memOk) {s : State} (h : s.memOk)
    (c i : Nat) : (withPartner f s c i).memOk := by
  unfold withPartner
  grind

theorem memOk_abortAll {s : State} (h : s.memOk) (c : Nat) (p : Carrel → Bool) : (abortAll s c p).memOk := by
  unfold abortAll
  grind [memOk_foldl, memOk_abortCarrel, memOk_withPartner]

theorem memOk_execEvacLimitExpiry {s : State} (h : s.memOk) (cluster : Nat) : outOk (execEvacLimitExpiry cluster s) := by
  unfold execEvacLimitExpiry
  grind [outOk, memOk_abortAll, memOk_modCluster]

theorem memOk_abandonAll {s : State} (h : s.memOk) (c : Nat) : (abandonAll s c).memOk := by
  unfold abandonAll
  grind [memOk_foldl, memOk_abandon, memOk_withPartner]

theorem memOk_setShelf {s : State} (h : s.memOk) (k w : Nat) : (setShelf s k w).memOk := h

theorem memOk_loseSlot {s : State} (h : s.memOk) (k i p : Nat) : (loseSlot s k i p).memOk := by
  unfold loseSlot
  grind [memOk_foldl, memOk_abandonAll, memOk_modCore, memOk_setShelf, memOk_taint]

theorem memOk_flushCore {s : State} (h : s.memOk) (c : Nat) : (flushCore s c).memOk := by
  unfold flushCore
  grind [memOk_abandonAll, memOk_abortAll]

theorem memOk_failSlot {s : State} (h : s.memOk) (k i p : Nat) : (failSlot s k i p).memOk := by
  unfold failSlot
  grind [memOk_flushCore, memOk_honour, memOk_loseSlot]

theorem memOk_serveList {s : State} (h : s.memOk) (k : Nat) (l : List (Nat × Bool)) : (serveList s k l).memOk := by
  fun_induction serveList <;> grind [memOk_failSlot, memOk_honour, memOk_modCluster]

theorem memOk_serveWaiting {s : State} (h : s.memOk) (k : Nat) : (serveWaiting s k).memOk := by
  unfold serveWaiting
  grind [memOk_modCluster, memOk_serveList]

theorem memOk_execCoreFailure {s : State} (h : s.memOk) (cluster phys : Nat) : outOk (execCoreFailure cluster phys s) := by
  unfold execCoreFailure
  grind [outOk, memOk_failSlot, memOk_modCluster]

theorem memOk_dropLwaits {s : State} (h : s.memOk) (core : Nat) : (dropLwaits s core).memOk := by
  unfold dropLwaits
  grind [memOk_mk]

theorem memOk_execReshelveCopy {s : State} (h : s.memOk) (cluster : Nat) : outOk (execReshelveCopy cluster s) := by
  unfold execReshelveCopy
  grind [outOk, memOk_dropLwaits, memOk_modCluster, memOk_modCore]

theorem memOk_releaseFlit {s : State} (h : s.memOk) (f : Flit) : optOk (releaseFlit s f) := by
  unfold releaseFlit
  grind [memOk_release, memOk_releaseSpace2]

theorem memOk_releaseAll {s : State} (h : s.memOk) (l : List Flit) : (releaseAll s l).1.memOk := by
  fun_induction releaseAll <;> grind [optOk, memOk_releaseFlit]

theorem memOk_releaseSlot {s : State} (h : s.memOk) (k : Nat) (r : Reshelve) : (releaseSlot s k r).memOk := by
  unfold releaseSlot
  grind [memOk_modCluster, memOk_releaseAll, memOk_serveWaiting]

theorem memOk_execReshelveMapRelease {s : State} (h : s.memOk) (cluster : Nat) : outOk (execReshelveMapRelease cluster s) := by
  unfold execReshelveMapRelease
  grind [outOk, memOk_modCore, memOk_releaseSlot, memOk_setShelf]

/-! ### Partitions (EvPartition) -/

theorem memOk_modPartition {s : State} (h : s.memOk) (ctx : Nat) (f : Partition → Partition) : (s.modPartition ctx f).memOk := by
  unfold State.modPartition
  grind [memOk_modHub]

theorem memOk_execPartitionSwitchOut {s : State} (h : s.memOk) (ctx : Nat) : outOk (execPartitionSwitchOut ctx s) := by
  unfold execPartitionSwitchOut
  grind [outOk, memOk_foldl, memOk_modCore, memOk_modHub]

theorem memOk_dropTranslations {s : State} (h : s.memOk) (ctx : Nat) : (dropTranslations s ctx).memOk := h

theorem memOk_healRegions {s : State} (h : s.memOk) (c : Nat) : (healRegions s c).memOk := by
  unfold healRegions
  grind [memOk_foldl, memOk_healRegion]

theorem memOk_execPartitionDrainDone {s : State} (h : s.memOk) (ctx : Nat) : outOk (execPartitionDrainDone ctx s) := by
  unfold execPartitionDrainDone
  grind [outOk, memOk_foldl, memOk_dropLwaits, memOk_dropTranslations, memOk_healRegions, memOk_modCore, memOk_modPartition,
    memOk_unpinRegions]

theorem memOk_pourScratch {s : State} (h : s.memOk) (c : Nat) (saved : Cache) : (pourScratch s c saved).memOk := by
  unfold pourScratch
  grind [memOk_foldl, memOk_modCluster, memOk_modCore]

theorem memOk_restoreCore {s : State} (h : s.memOk) (ctx c : Nat) (old : Core) : optOk (restoreCore s ctx c old) := by
  unfold restoreCore
  grind [optOk_map, memOk_pinRegions, memOk_pourScratch, memOk_setCore]

theorem memOk_restoreTiles {s : State} (h : s.memOk) (x : Nat × FMap Tile × FMap Acc) : (restoreTiles s x).memOk := by
  unfold restoreTiles
  grind [memOk_modCluster]

theorem memOk_deliverHeld {s : State} (h : s.memOk) (ctx : Nat) : (deliverHeld s ctx).memOk := by
  unfold deliverHeld
  grind [memOk_modHub, memOk_releaseAll]

theorem memOk_execPartitionSwitchIn {s : State} (h : s.memOk) (ctx colour : Nat) : outOk (execPartitionSwitchIn ctx colour s) := by
  unfold execPartitionSwitchIn
  grind [optOk, outOk, memOk_foldl, optOk_foldl, optOk_bind, memOk_deliverHeld, memOk_modPartition, memOk_restoreCore,
    memOk_restoreTiles, memOk_serveWaiting, memOk_setCtx]

/-! ### The host (EvHost) -/

theorem memOk_startResident {s : State} (h : s.memOk) : (startResident s).memOk := by
  unfold startResident
  grind [memOk_foldl, memOk_setCarrel, memOk_setCtx]

theorem memOk_execModuleReset (boot : BootInput) (s : State) : outOk (execModuleReset boot s) :=
  reset_memOk

theorem memOk_execBootStageAdvance {s : State} (h : s.memOk) : outOk (execBootStageAdvance s) := by
  unfold execBootStageAdvance
  grind [outOk, memOk_modHub, memOk_startResident]

theorem memOk_bootError {s : State} (h : s.memOk) (w : Word) : (bootError s w).memOk := by
  unfold bootError
  grind [memOk_modHub]

theorem memOk_execBar2Read {s : State} (h : s.memOk) (off count : Nat) : outOk (execBar2Read off count s) := by
  unfold execBar2Read
  grind [outOk, memOk_emit]

theorem memOk_bar2Put {s : State} (h : s.memOk) (pa : Nat) (bs : List Byte) : (bar2Put s pa bs).memOk := by
  unfold bar2Put
  grind [memOk_foldl, memOk_storeMem]

theorem memOk_execBar2Write {s : State} (h : s.memOk) (off : Nat) (data : List Byte) : outOk (execBar2Write off data s) := by
  unfold execBar2Write
  grind [outOk, memOk_bar2Put]

theorem memOk_execBar0InvalidAccess {s : State} (h : s.memOk) (off size : Nat)
    (write : Bool) : outOk (execBar0InvalidAccess off size write s) := by
  unfold execBar0InvalidAccess
  grind [outOk, memOk_emit]

theorem memOk_sendPending {s : State} (h : s.memOk) (v : Nat) : (sendPending s v).memOk := by
  unfold sendPending
  grind [memOk_emit, memOk_modHub]

theorem memOk_writeMsix {s : State} (h : s.memOk) (i : Nat) (w : Word) : (writeMsix s i w).memOk := by
  unfold writeMsix
  grind [memOk_modHub, memOk_sendPending]

theorem memOk_pushHcmd {s : State} (h : s.memOk) (host : Bool) (w : Word) : (pushHcmd s host w).memOk := h

theorem memOk_writeBar0 {s : State} (h : s.memOk) (off : Nat) (w : Word) : (writeBar0 s off w).memOk := by
  unfold writeBar0
  grind [memOk_modHub, memOk_pushHcmd, memOk_writeMsix]

theorem memOk_writeBar0Part {s : State} (h : s.memOk) (off size : Nat) (w : Word) : (writeBar0Part s off size w).memOk := by
  unfold writeBar0Part
  grind [memOk_writeBar0]

theorem memOk_execRegisterWrite {s : State} (h : s.memOk) (r : HubReg) (w : Word) : outOk (execRegisterWrite r w s) := by
  unfold execRegisterWrite
  grind [outOk, memOk_bootError, memOk_modHub, memOk_pushHcmd, memOk_sendMsix, memOk_writeBar0Part, memOk_writeHealth]

theorem memOk_execContextCreation {s : State} (h : s.memOk) (init : CtxInit) : outOk (execContextCreation init s) := by
  unfold execContextCreation
  grind [outOk, memOk_mk, memOk_modHub, memOk_setCtx]

theorem memOk_execEngineAllotment {s : State} (h : s.memOk)
    (cluster ctx tlb tln alb aln : Nat) : outOk (execEngineAllotment cluster ctx tlb tln alb aln s) := by
  unfold execEngineAllotment
  grind [outOk, memOk_modCluster]

/-! ### Paired dispatch (EvPair) -/

theorem memOk_pairDiffers {s : State} (h : s.memOk) (core carrel d j : Nat) : (pairDiffers s core carrel d j).memOk := by
  unfold pairDiffers
  grind [memOk_abandon, memOk_countReplay, memOk_modCarrel, memOk_restart, memOk_takeTrap]

theorem memOk_comparePair {s : State} (h : s.memOk) (core carrel d j : Nat) : (comparePair s core carrel d j).memOk := by
  unfold comparePair
  grind [memOk_modCarrel, memOk_pairDiffers]

theorem memOk_execPairCompare {s : State} (h : s.memOk) (core carrel : Nat) : outOk (execPairCompare core carrel s) := by
  unfold execPairCompare
  grind [outOk, memOk_comparePair]

theorem memOk_twinAtomic {s : State} (h : s.memOk) (core carrel : Nat) (i : Instr)
    (r : SyncRec) : (twinAtomic s core carrel i r).memOk := by
  unfold twinAtomic
  grind [memOk_scrWrite]

theorem memOk_twinEffect {s : State} (h : s.memOk) (core carrel : Nat) (i : Instr)
    (r : SyncRec) : (twinEffect s core carrel i r).memOk := by
  unfold twinEffect
  grind [memOk_barUpdate, memOk_healRegion, memOk_modCore, memOk_sysNote, memOk_sysWrite, memOk_twinAtomic]

theorem memOk_takeSync {s : State} (h : s.memOk) (core carrel : Nat) (i : Instr) (r : SyncRec) : (takeSync s core carrel i r).memOk := by
  unfold takeSync
  grind [memOk_mk, memOk_commitPoint, memOk_consumeError, memOk_modMe, memOk_popAll, memOk_put, memOk_retire, memOk_setCarrel,
    memOk_takeTrap, memOk_twinEffect]

theorem memOk_twinSync {s : State} (h : s.memOk) (core carrel p j : Nat) (i : Instr) : (twinSync s core carrel p j i).memOk := by
  unfold twinSync
  grind [memOk_pairDiffers, memOk_takeSync]

theorem memOk_execTwinSyncWord {s : State} (h : s.memOk) (core carrel : Nat) : outOk (execTwinSyncWord core carrel s) := by
  unfold execTwinSyncWord
  grind [outOk, fetchOk, memOk_mk, memOk_fetch, memOk_twinSync]

/-! ### Floating-point words (FpOps) -/

theorem memOk_fpWord {s : State} (h : s.memOk) (i : Instr) (d : Reg) (cs : List Reg)
    (f : Rm → List Word → Word × FFlags) : outOk (fpWord i d cs s f) := by
  unfold fpWord
  grind [wordOk, memOk_modMe, memOk_putData, memOk_runWord]

theorem memOk_fpArith {s : State} (h : s.memOk) (i : Instr) (d : Reg) (cs : List Reg) (f : FpFmt)
    (o : FpOp) : outOk (fpArith i d cs f o s) := memOk_fpWord h ..

theorem memOk_execFcmp {s : State} (h : s.memOk) (d a b : Reg) (f : FpFmt) (c : FcmpOp) : outOk (execFcmp d a b f c s) := by
  unfold execFcmp
  grind [memOk_fpWord]

/-! ### Vector floating-point words (VecFp) -/

theorem memOk_fpFinish {s : State} (h : s.memOk) {next : State → State} (hnext : ∀ s, s.memOk → (next s).memOk)
    (fs : List (Nat × FFlags)) : wordOk (fpFinish s fs next) := by
  unfold fpFinish
  grind [wordOk, memOk_modMe]

theorem memOk_vecFp {s : State} (h : s.memOk) (i : Instr) (v : VReg) (vs : List VReg) (m : MReg) (f : VfFmt)
    (o : FpOp) : outOk (vecFp i v vs m f o s) := by
  unfold vecFp
  grind [memOk_fpFinish, memOk_modMe, memOk_runWord]

theorem memOk_execVfcmp {s : State} (h : s.memOk) (d : MReg) (a b : VReg) (m : MReg) (f : VfFmt)
    (c : FcmpOp) : outOk (execVfcmp d a b m f c s) := by
  unfold execVfcmp
  grind [memOk_fpFinish, memOk_modMe, memOk_runWord]

theorem memOk_execVcvt {s : State} (h : s.memOk) (v a : VReg) (c : VcvtCode) (m : MReg) (p : BitVec 2) : outOk (execVcvt v a c m p s) := by
  unfold execVcvt
  grind [memOk_fpFinish, memOk_modMe, memOk_runWord]

/-! ### Every instruction (Dispatch) -/

theorem memOk_exec {s : State} (h : s.memOk) (i : Instr) : outOk (exec i s) := by
  unfold exec
  cases i with
  | add | sub | and_ | or_ | xor_ | shl | shr | sra | mul | mulh | mulhu | div | divu | rem | remu | min | max | minu | maxu =>
    exact memOk_aluWord h ..
  | clz | popc | sext | zext | cmp | shli | shri | srai | cmpi | movi | bfxU | bfxS | bfi => exact memOk_dataWord h ..
  | sel => exact memOk_execSel h ..
  | addi | andi | ori | xori => exact memOk_immWord h ..
  | cbnd => exact memOk_execCbnd h ..
  | cperm | cinc | cget | ctest | cseta | cinci => exact memOk_capWord h ..
  | ld => exact memOk_execLd h ..
  | st => exact memOk_execSt h ..
  | vld => exact memOk_execVld h ..
  | vst => exact memOk_execVst h ..
  | vlds => exact memOk_execVlds h ..
  | vsts => exact memOk_execVsts h ..
  | vgath => exact memOk_execVgath h ..
  | vscat => exact memOk_execVscat h ..
  | amo => exact memOk_execAmo h ..
  | amoNoReturn => exact memOk_execAmoNoReturn h ..
  | cas => exact memOk_execCas h ..
  | fence => exact memOk_execFence h ..
  | pref => exact memOk_execPref h ..
  | wbr => exact memOk_execWbr h ..
  | invr => exact memOk_execInvr h ..
  | wbri => exact memOk_execWbri h ..
  | ljoin => exact memOk_execLjoin h ..
  | lwait => exact memOk_execLwait h ..
  | fadd | fsub | fmul | fdiv | fsqrt | fmin | fmax | ffma => exact memOk_fpArith h ..
  | fcmp => exact memOk_execFcmp h ..
  | fcvt => exact memOk_fpWord h ..
  | vadd | vsub | vmul | vmin | vmax | vand | vor | vxor | vshl | vshr | vsra => exact memOk_vec2 h ..
  | vminu => exact memOk_execVminu h ..
  | vmaxu => exact memOk_execVmaxu h ..
  | vcmp => exact memOk_execVcmp h ..
  | vfadd | vfsub | vfmul | vfma | vfmin | vfmax | vfdiv | vfsqrt => exact memOk_vecFp h ..
  | vfcmp => exact memOk_execVfcmp h ..
  | vbcast => exact memOk_execVbcast h ..
  | vins => exact memOk_execVins h ..
  | vext => exact memOk_execVext h ..
  | vred => exact memOk_execVred h ..
  | mtoc => exact memOk_execMtoc h ..
  | ctom => exact memOk_execCtom h ..
  | mcnt => exact memOk_execMcnt h ..
  | vsel => exact memOk_execVsel h ..
  | vperm | viota | vmov => exact memOk_vecWord h ..
  | vcvt => exact memOk_execVcvt h ..
  | mop => exact memOk_execMop h ..
  | b => exact memOk_execB h ..
  | bc => exact memOk_execBc h ..
  | bm => exact memOk_execBm h ..
  | call => exact memOk_execCall h ..
  | jr => exact memOk_execJr h ..
  | callr => exact memOk_execCallr h ..
  | ret => exact memOk_execRet h ..
  | end_ => exact memOk_execEnd h ..
  | send => exact memOk_execSend h ..
  | rput => exact memOk_execRput h ..
  | pclr => exact memOk_execPclr h ..
  | tagctlEn => exact memOk_execTagctlEn h ..
  | tagctlDis => exact memOk_execTagctlDis h ..
  | tagctlPrio => exact memOk_execTagctlPrio h ..
  | tagctlAddr => exact memOk_execTagctlAddr h ..
  | tagctlMode => exact memOk_execTagctlMode h ..
  | tagctlGate => exact memOk_execTagctlGate h ..
  | tagctlCap => exact memOk_execTagctlCap h ..
  | tagctlStat => exact memOk_execTagctlStat h ..
  | sbind => exact memOk_execSbind h ..
  | sunbind => exact memOk_execSunbind h ..
  | sstat => exact memOk_execSstat h ..
  | siph => exact memOk_execSiph h ..
  | sgath => exact memOk_execSgath h ..
  | scfg => exact memOk_execScfg h ..
  | swmr => exact memOk_execSwmr h ..
  | barm => exact memOk_execBarm h ..
  | barb => exact memOk_execBarb h ..
  | barr => exact memOk_execBarr h ..
  | bwait => exact memOk_execBwait h ..
  | tdset => exact memOk_execTdset h ..
  | tdget => exact memOk_execTdget h ..
  | tdgetSt => exact memOk_execTdgetSt h ..
  | tdgetAcc => exact memOk_execTdgetAcc h ..
  | mma => exact memOk_execMma h ..
  | macz => exact memOk_execMacz h ..
  | macst => exact memOk_execMacst h ..
  | locqWhere => exact memOk_execLocqWhere h ..
  | locqEpoch => exact memOk_execLocqEpoch h ..
  | locqHops => exact memOk_execLocqHops h ..
  | scpset => exact memOk_execScpset h ..
  | scpget => exact memOk_execScpget h ..
  | sysr => exact memOk_execSysr h ..
  | sysw => exact memOk_execSysw h ..
  | syswRttw => exact memOk_execSyswRttw h ..
  | syswTwin => exact memOk_execSyswTwin h ..
  | syswScpbase => exact memOk_execSyswScpbase h ..
  | trap => exact memOk_execTrap h ..
  | eret => exact memOk_execEret h ..
  | rtinv => exact memOk_execRtinv h ..
  | idle => exact memOk_execIdle h ..
  | halt => exact memOk_execHalt h ..
  | hintImm | hintScope | hintYield | hintCache | hintDisp | hintPrio | hintNop => exact memOk_hintWord h ..
  | illegalInstruction => exact memOk_execIllegalInstruction h ..
  | haltedCarrelRelease => exact memOk_execHaltedCarrelRelease h ..
  | messageArrival => exact memOk_execMessageArrival h ..
  | rputArrival => exact memOk_execRputArrival h ..
  | dispatch => exact memOk_execDispatch h ..
  | eprioAging => exact memOk_execEprioAging h ..
  | yieldPeriodExpiry => exact memOk_execYieldPeriodExpiry h ..
  | outboxHandoff => exact memOk_execOutboxHandoff h ..
  | commitEntryPerform => exact memOk_execCommitEntryPerform h ..
  | messageInject => exact memOk_execMessageInject h ..
  | streamAck => exact memOk_execStreamAck h ..
  | loadComplete => exact memOk_execLoadComplete h ..
  | waitResume => exact memOk_execWaitResume h ..
  | fillDataReturn => exact memOk_execFillDataReturn h ..
  | softErrorDetected => exact memOk_execSoftErrorDetected h ..
  | correctedError => exact memOk_execCorrectedError h ..
  | healthLeak => exact memOk_execHealthLeak h ..
  | healthRqWrite => exact memOk_trigger h ..
  | evacLimitExpiry => exact memOk_execEvacLimitExpiry h ..
  | reshelveCopy => exact memOk_execReshelveCopy h ..
  | reshelveMapRelease => exact memOk_execReshelveMapRelease h ..
  | coreFailure => exact memOk_execCoreFailure h ..
  | catalogueGets | catalogueGeto | catalogueUncr | catalogueUncw => exact memOk_takeRequest h ..
  | catalogueEvn => exact memOk_execCatalogueEvn h ..
  | catalogueEack => exact memOk_execCatalogueEack h ..
  | catalogueInv => exact memOk_execCatalogueInv h ..
  | catalogueIack => exact memOk_execCatalogueIack h ..
  | catalogueFetch => exact memOk_execCatalogueFetch h ..
  | catalogueFack => exact memOk_execCatalogueFack h ..
  | catalogueDisc => exact memOk_execCatalogueDisc h ..
  | catalogueDack => exact memOk_execCatalogueDack h ..
  | catalogueData => exact memOk_execCatalogueData h ..
  | catalogueGrant => exact memOk_execCatalogueGrant h ..
  | catalogueReplacement => exact memOk_execCatalogueReplacement h ..
  | tractMerge => exact memOk_execTractMerge h ..
  | space2AccessArrival => exact memOk_execSpace2AccessArrival h ..
  | peerRequestArrival => exact memOk_execPeerRequestArrival h ..
  | remoteResponse => exact memOk_execRemoteResponse h ..
  | fablimTimeout => exact memOk_execFablimTimeout h ..
  | flitRoute => exact memOk_routeStep h ..
  | linkFlitReceive => exact memOk_execLinkFlitReceive h ..
  | linkReplay => exact memOk_execLinkReplay h ..
  | portDown => exact memOk_execPortDown h ..
  | siphAccept => exact memOk_execSiphAccept h ..
  | siphElementWrite => exact memOk_execSiphElementWrite h ..
  | siphDone => exact memOk_execSiphDone h ..
  | siphFault => exact memOk_execSiphFault h ..
  | sgathAccept => exact memOk_execSgathAccept h ..
  | scfgApply => exact memOk_execScfgApply h ..
  | streamFetch => exact memOk_execStreamFetch h ..
  | streamConvert => exact memOk_execStreamConvert h ..
  | barmApply => exact memOk_execBarmApply h ..
  | barbApply => exact memOk_execBarbApply h ..
  | barrUpdate => exact memOk_execBarrUpdate h ..
  | bwaitTimeout => exact memOk_execBwaitTimeout h ..
  | lwaitTimeout => exact memOk_execLwaitTimeout h ..
  | idleTimeout => exact memOk_execIdleTimeout h ..
  | cisternMerge => exact memOk_execCisternMerge h ..
  | replicaPush => exact memOk_execReplicaPush h ..
  | pumpRoundStart => exact memOk_execPumpRoundStart h ..
  | pumpBlockReceive => exact memOk_execPumpBlockReceive h ..
  | pumpBlockAck => exact memOk_execPumpBlockAck h ..
  | engineQueueEntry => exact memOk_execEngineQueueEntry h ..
  | engineCommandStart => exact memOk_execEngineCommandStart h ..
  | engineCommandComplete => exact memOk_execEngineCommandComplete h ..
  | macstWrite => exact memOk_execMacstWrite h ..
  | migration => exact memOk_execMigration h ..
  | migratedMmaStart => exact memOk_execMigratedMmaStart h ..
  | migrationReturn => exact memOk_execMigrationReturn h ..
  | pairCompare => exact memOk_execPairCompare h ..
  | twinSyncWord => exact memOk_execTwinSyncWord h ..
  | graphLoad => exact memOk_execGraphLoad h ..
  | graphUnload => exact memOk_execGraphUnload h ..
  | nodeRelease => exact memOk_execNodeRelease h ..
  | nodeCancel => exact memOk_execNodeCancel h ..
  | hcmdInvalid => exact memOk_execHcmdInvalid h ..
  | hcmdPartialWrite | w2baseWrite | shelfMapWrite => exact h
  | triggerWrite => exact memOk_execTriggerWrite h ..
  | instanceStart => exact memOk_execInstanceStart h ..
  | kernelReserve => exact memOk_execKernelReserve h ..
  | launchFinish => exact memOk_execLaunchFinish h ..
  | siphNodeStart => exact memOk_execSiphNodeStart h ..
  | barrierNodeStart => exact memOk_execBarrierNodeStart h ..
  | notifyHostNodeStart => exact memOk_execNotifyHostNodeStart h ..
  | notifyHostReadback => exact memOk_execNotifyHostReadback h ..
  | partitionSwitchOut => exact memOk_execPartitionSwitchOut h ..
  | partitionDrainDone => exact memOk_execPartitionDrainDone h ..
  | partitionSwitchIn => exact memOk_execPartitionSwitchIn h ..
  | moduleReset => exact memOk_execModuleReset ..
  | bootStageAdvance => exact memOk_execBootStageAdvance h ..
  | bar2Read => exact memOk_execBar2Read h ..
  | bar2Write => exact memOk_execBar2Write h ..
  | bar0InvalidAccess => exact memOk_execBar0InvalidAccess h ..
  | registerWrite => exact memOk_execRegisterWrite h ..
  | timeTick => exact memOk_execTimeTick h ..
  | messageRetry => exact memOk_execMessageRetry h ..
  | contextCreation => exact memOk_execContextCreation h ..
  | cisternRangeCreation => exact memOk_execCisternRangeCreation h ..
  | engineAllotment => exact memOk_execEngineAllotment h ..
  | activationRemoval => exact memOk_execActivationRemoval h ..

/-! ### Issue (Slots) -/

theorem memOk_payMe {s : State} (h : s.memOk) : (payMe s).memOk := by
  unfold payMe
  grind [memOk_consumeError, memOk_modMe]

theorem memOk_issueHere {s : State} (h : s.memOk) : outOk (issueHere s) := by
  unfold issueHere
  grind [outOk, fetchOk, memOk_exec, memOk_fetch, memOk_payMe, memOk_raise, memOk_trapMe]

theorem memOk_issueAt {s : State} (h : s.memOk) (core carrel : Nat) : outOk (issueAt s core carrel) := memOk_issueHere h ..

theorem memOk_missPrio {s : State} (h : s.memOk) (core : Nat) (cs : List Nat) : (missPrio s core cs).memOk := by
  unfold missPrio
  grind [memOk_foldl, memOk_modCarrel]

theorem memOk_timed {s : State} (h : s.memOk) (i : Instr) (pc : Va) : (timed i pc s).memOk := by
  unfold timed
  grind [memOk_modMe, memOk_modMyCore]

theorem memOk_slotIssue {s : State} (h : s.memOk) (core i : Nat) (b : Bool) : outOk (slotIssue s core i b) := by
  unfold slotIssue
  grind [outOk, memOk_issueAt, memOk_modCore, memOk_timed]

theorem memOk_slotStep {s : State} (h : s.memOk) (core : Nat) : outOk (slotStep s core) := by
  unfold slotStep
  grind [outOk, memOk_missPrio, memOk_modCore, memOk_slotIssue]

theorem memOk_slotsOf {s : State} (h : s.memOk) (l : List Nat) : outOk (slotsOf s l) := by
  fun_induction slotsOf <;> grind [outOk, memOk_slotStep]

theorem memOk_cyclePasses {s : State} (h : s.memOk) : outOk (cyclePasses s) := by
  unfold cyclePasses
  grind [outOk, memOk_routeAll, memOk_routersFree, memOk_slotsOf, memOk_tick]

/-! ### The step (Step) -/

theorem memOk_step {s : State} (h : s.memOk) : outOk (step s) := by
  unfold step
  grind [outOk, memOk_mk, memOk_cyclePasses, memOk_exec, memOk_slotStep]

/-- Settles O60: every operation of the model keeps the form, so every instruction and every step does. -/
theorem stepKeepsMemory : Obligations.StepKeepsMemory := by
  refine ⟨reset_memOk, fun s t h hstep => ?_⟩
  have hout := memOk_step h
  rw [hstep] at hout
  exact hout

end Sys2Proof.Proofs

namespace Sys2Proof.Proofs

open Sys2Proof Sys2Proof.Machine

/-! ### The end of a synchronised word (R284) -/

/-- A word whose operation is done completes as a synchronised word does. -/
theorem runWord_finished {i : Instr} {o : OpSpec} {s t : State} {body : State → List TCap → WordRes} (hissue : issuable i s = true)
    (hready : sourcesReady o s = true) (hdest : o.dc = none) (hbody : body s (readSources s.me o.cs) = .done t) :
    runWord i o s body = .next (finished i o s t) :=
  runWord_done hissue hready hbody (by simp [hdest])

/-- On a carrel that is not the primary of a pair a word leaves no record. -/
theorem recordSync_of_not_primary {s : State} (h : isPrimary s = false) (i : Instr) (t : State) (r : SyncRec) : recordSync i s t r = t := by
  simp [recordSync, h]

/-- A word that is not the primary's traps with a cause of its own that R121 puts before uncorrectable errors. -/
theorem runWord_trap_of_not_primary {i : Instr} {o : OpSpec} {s : State} {body : State → List TCap → WordRes} {c : Nat} {v : Word}
    (hissue : issuable i s = true) (hready : sourcesReady o s = true) (hprimary : isPrimary s = false)
    (hbody : body s (readSources s.me o.cs) = .trap c v) (hrank : causeRank c < 4) (hsettled : s.me.settled = true) :
    runWord i o s body = .next (takeTrap s s.cur.1 s.cur.2 c v) := by
  rw [runWord_of_issuable hissue, runOps_cause hready hbody rfl hrank, complete, recordSync_of_not_primary hprimary, raise,
    if_pos hsettled]
  rfl

/-! ### SYSW TWIN (R256) -/

theorem exec_syswTwin (a : Reg) (s : State) : exec (.syswTwin a) s = runWord (.syswTwin a) { cs := [a] } s fun s vs =>
    let w := (src vs 0).data
    match windowFault (allotOf s s.cur.1) w.toNat with
    | some n => .trap 0x202 (BitVec.ofNat 64 n)
    | none => afterLoads s (.done (sysWrite s s.cur.1 s.cur.2 .twin w)) := rfl

/-- The first number of [base, base + n) that lies outside [lo, lo + len). -/
theorem find?_outside_eq_none {base n lo len : Nat} (h : ∀ j < n, lo ≤ base + j ∧ base + j < lo + len) :
    (((List.range n).map (base + ·)).find? fun x => x < lo || lo + len ≤ x) = none := by
  simp only [List.find?_eq_none, List.mem_map, List.mem_range]
  rintro _ ⟨j, hj, rfl⟩
  have := h j hj
  simp
  omega

theorem find?_outside_eq_some {base n lo len m : Nat} (hm : m < n) (hout : ¬(lo ≤ base + m ∧ base + m < lo + len))
    (hin : ∀ j < m, lo ≤ base + j ∧ base + j < lo + len) :
    (((List.range n).map (base + ·)).find? fun x => x < lo || lo + len ≤ x) = some (base + m) := by
  rw [List.find?_map, List.find?_range_eq_some.2 ⟨?_, List.mem_range.2 hm, fun j hj => ?_⟩, Option.map_some]
  · simp
    omega
  · have := hin j hj
    simp
    omega

/-- The tile or the accumulator with a number lies inside an allotment. -/
def tileInside (al : Allot) (n : Nat) : Prop := al.tlb ≤ n ∧ n < al.tlb + al.tln
def accInside (al : Allot) (n : Nat) : Prop := al.alb ≤ n ∧ n < al.alb + al.aln

section
variable {al : Allot} {w : Word}

theorem windowFault_eq_none (ht : ∀ j < (w.extractLsb' 4 5).toNat, tileInside al ((w.extractLsb' 0 4).toNat + j))
    (ha : ∀ j < (w.extractLsb' 19 4).toNat, accInside al ((w.extractLsb' 16 3).toNat + j)) : windowFault al w.toNat = none := by
  simp only [toNat_extractLsb'_eq_bitsAt] at ht ha
  simp only [windowFault, find?_outside_eq_none ht, find?_outside_eq_none ha]

theorem windowFault_of_tile {n : Nat} (hn : n < (w.extractLsb' 4 5).toNat) (hout : ¬tileInside al ((w.extractLsb' 0 4).toNat + n))
    (hin : ∀ j < n, tileInside al ((w.extractLsb' 0 4).toNat + j)) :
    windowFault al w.toNat = some ((w.extractLsb' 0 4).toNat + n) := by
  simp only [toNat_extractLsb'_eq_bitsAt] at hn hout hin ⊢
  simp only [windowFault, find?_outside_eq_some hn hout hin]

theorem windowFault_of_acc {n : Nat} (ht : ∀ j < (w.extractLsb' 4 5).toNat, tileInside al ((w.extractLsb' 0 4).toNat + j))
    (hn : n < (w.extractLsb' 19 4).toNat) (hout : ¬accInside al ((w.extractLsb' 16 3).toNat + n))
    (hin : ∀ j < n, accInside al ((w.extractLsb' 16 3).toNat + j)) :
    windowFault al w.toNat = some ((w.extractLsb' 16 3).toNat + n) := by
  simp only [toNat_extractLsb'_eq_bitsAt] at ht hn hout hin ⊢
  simp only [windowFault, find?_outside_eq_none ht, find?_outside_eq_some hn hout hin]

end

section
variable {s : State} {a : Reg} (hissue : issuable (.syswTwin a) s = true) (hready : sourcesReady { cs := [a] } s = true)
include hissue hready

theorem twin_finishes (hwin : windowFault (allotOf s s.cur.1) (operand s [a] 0).toNat = none) (hsettled : s.me.settled = true) :
    exec (.syswTwin a) s = .next (finished (.syswTwin a) { cs := [a] } s (sysWrite s s.cur.1 s.cur.2 .twin (operand s [a] 0))) := by
  refine (exec_syswTwin a s).trans (runWord_finished hissue hready rfl ?_)
  unfold operand at hwin
  simp only [hwin, afterLoads, hsettled, if_true]
  rfl

theorem twin_traps {n : Nat} (hprimary : isPrimary s = false)
    (hwin : windowFault (allotOf s s.cur.1) (operand s [a] 0).toNat = some n) :
    Traps (.syswTwin a) s 0x202 (BitVec.ofNat 64 n) := by
  refine fun hsettled => (exec_syswTwin a s).trans (runWord_trap_of_not_primary hissue hready hprimary ?_ (by decide) hsettled)
  unfold operand at hwin
  simp only [hwin]

end

theorem sysWrite_twin (s : State) (w : Word) : sysWrite s s.cur.1 s.cur.2 .twin w =
    sharedWrite s .twin (s.modCore s.cur.1 fun k => k.setCregs { k.cregs with
      tbase := (w.extractLsb' 0 4).toNat, tcnt := (w.extractLsb' 4 5).toNat, abase := (w.extractLsb' 16 3).toNat,
      acnt := (w.extractLsb' 19 4).toNat }) := by
  simp only [sysWrite, sysNote_of_shared (n := .twin) rfl, sysPut, toNat_extractLsb'_eq_bitsAt]

/-! ### SYSW SCPBASE (R387) -/

theorem exec_syswScpbase (a : Reg) (s : State) : exec (.syswScpbase a) s = runWord (.syswScpbase a) { cs := [a] } s fun s vs =>
    afterLoads s (.done (sysWrite s s.cur.1 s.cur.2 .scpbase (src vs 0).data)) := rfl

/-- A write of the context registers stays in the core's context. -/
theorem ctx_modCore_setCregs (s : State) (c : Nat) (x : Core → CtxRegs) :
    ((s.modCore c fun k => k.setCregs (x k)).core c).ctx = (s.core c).ctx := by
  simp [State.modCore, Core.setCregs]

/-- The model's test for a change of BASE, or EN cleared, as R387 states it. -/
theorem unsetsScopes_iff (old new : Word) :
    (bitsAt old.toNat 14 34 ≠ bitsAt new.toNat 14 34 || (old.getLsbD 63 && !(new.getLsbD 63))) = true ↔
      old.extractLsb' 14 34 ≠ new.extractLsb' 14 34 ∨ (old.getLsbD 63 = true ∧ new.getLsbD 63 = false) := by
  rw [← toNat_extractLsb'_eq_bitsAt, ← toNat_extractLsb'_eq_bitsAt, Bool.or_eq_true, decide_eq_true_eq, Ne, BitVec.toNat_inj,
    Bool.and_eq_true, Bool.not_eq_true']

theorem sysWrite_scpbase (s : State) (w : Word) :
    let old := s.myCore.cregs.scpbase
    let new := w &&& scpbaseBits
    let t := s.modCore s.cur.1 fun k => k.setCregs { k.cregs with scpbase := new }
    sysWrite s s.cur.1 s.cur.2 .scpbase w = sharedWrite s .scpbase
      (if old.extractLsb' 14 34 ≠ new.extractLsb' 14 34 ∨ (old.getLsbD 63 = true ∧ new.getLsbD 63 = false)
       then t.setCtx s.myCore.ctx { s.myCtx with scopeSet := [] } else t) := by
  intro old new t
  rw [sysWrite, sysNote_of_shared (n := .scpbase) rfl]
  refine congrArg (sharedWrite s .scpbase) ?_
  simp only [sysPut, ctx_modCore_setCregs]
  refine ite_congr (propext (unsetsScopes_iff old new)) (fun _ => rfl) fun _ => rfl

/-! ### SYSW RTTW (R113) -/

/-- What `readBuf` gives once the bytes have arrived. -/
theorem readBuf_of_arrived {s t : State} {n addr size : Nat} {bs : List TByte} (h : arrived s addr size = some (t, bs))
    (k : State → List TByte → WordRes) : readBuf n s addr size k = k t bs := by
  unfold arrived at h
  unfold readBuf
  split at h
  next u p hplaces =>
    split at h
    next b hbuf =>
      split at h <;> cases h
      next herr => simp only [hplaces, hbuf, herr]
    next => cases h
  next => cases h

/-- The entry with a place in the context's table is the one that an image names by its VGRAN and LEN (R113). -/
def imageNames (s : State) (img : RtEntry) (j : Nat) : Bool :=
  (rtEntry s s.myCtx j).vgran == img.vgran && (rtEntry s s.myCtx j).len == img.len

theorem imageNames_iff {s : State} {img : RtEntry} {j : Nat} : imageNames s img j = true ↔
    (rtEntry s s.myCtx j).vgran = img.vgran ∧ (rtEntry s s.myCtx j).len = img.len := by
  simp [imageNames]

/-- SYSW RTTW with its image at hand (R113). -/
def rttwWrite (s : State) (bs : List TByte) : WordRes :=
  let img := rtOfBytes (bs.map (·.1))
  let va : Word := BitVec.ofNat 64 (img.vgran * 4096)
  match (List.range s.myCtx.rtCount).find? (imageNames s img) with
  | none => .trap 0x0C1 va
  | some j =>
    if (rtEntry s s.myCtx j).kind ≠ 2 || img.kind ≠ 2 || !img.valid then .trap 0x0C3 va
    else if homeBusy s (s.myCtx.rtBase + 32 * j + 16) 16 then .stall
    else afterLoads s (.done (coherentWrite s (s.myCtx.rtBase + 32 * j + 16) ((bs.drop 16).map fun b => (b.1, false))))

theorem rttwWrite_done {s : State} {bs : List TByte} {img : RtEntry} {j : Nat} (himage : rtOfBytes (bs.map (·.1)) = img)
    (hj : j < s.myCtx.rtCount) (hnamed : imageNames s img j = true) (hfirst : ∀ m < j, imageNames s img m = false)
    (hkind : (rtEntry s s.myCtx j).kind = 2) (himg : img.kind = 2) (hvalid : img.valid = true)
    (hbusy : homeBusy s (s.myCtx.rtBase + 32 * j + 16) 16 = false) (hsettled : s.me.settled = true) :
    rttwWrite s bs = .done (coherentWrite s (s.myCtx.rtBase + 32 * j + 16) ((bs.drop 16).map fun b => (b.1, false))) := by
  have hfind : (List.range s.myCtx.rtCount).find? (imageNames s img) = some j :=
    List.find?_range_eq_some.2 ⟨hnamed, List.mem_range.2 hj, fun m hm => by simp [hfirst m hm]⟩
  simp [rttwWrite, himage, hfind, hkind, himg, hvalid, hbusy, afterLoads, hsettled]

theorem exec_syswRttw (a : Reg) (s : State) : exec (.syswRttw a) s = runWord (.syswRttw a) { cs := [a] } s fun s vs =>
    let cap := src vs 0
    let addr := capAddr cap.val
    let x : Word := BitVec.ofNat 64 addr
    match capCheck s s.cur.1 cap addr 32 (permR ||| permSYS) with
    | some c => .trap c x
    | none =>
      if !(spaceOf addr = 0 || (spaceOf addr = 1 && s.isOwnDev (devOf addr))) then .trap 0x085 x else
      readBuf 0 s addr 32 (rttwWrite · ·) := rfl

/-- Settles O22: SYSW TWIN finishes or traps by `windowFault`, SCPBASE is a write of its register that may unset the scopes, and
RTTW, once its image is there, writes the second half of the entry that it finds. -/
theorem contextWrites : Obligations.ContextWrites := by
  unfold Obligations.ContextWrites
  intro s a w c o al base cnt abase acnt tileIn accIn
  refine ⟨fun hissue hready hprimary => ⟨fun htile hacc hsettled => ?_, fun n hn hout hin => ?_, fun n htile hn hout hin => ?_⟩,
    fun hissue hready hsettled => ?_, ?_⟩
  · rw [twin_finishes hissue hready (windowFault_eq_none htile hacc) hsettled, sysWrite_twin]
  · exact twin_traps hissue hready hprimary (windowFault_of_tile hn hout hin)
  · exact twin_traps hissue hready hprimary (windowFault_of_acc htile hn hout hin)
  · refine (exec_syswScpbase a s).trans (runWord_finished hissue hready rfl ?_)
    rw [afterLoads, if_pos hsettled, sysWrite_scpbase]
    rfl
  · intro hissue hready _ cap addr hcap hspace t bs harrived img j hj hvgran hlen hfirst hkind himg hvalid hbusy hsettled
    refine (exec_syswRttw a s).trans (runWord_finished hissue hready rfl ?_)
    have hlocal : (!(spaceOf addr = 0 || (spaceOf addr = 1 && s.isOwnDev (devOf addr)))) = false := by grind
    simp only [← show cap = src (readSources s.me [a]) 0 from rfl, ← show addr = capAddr cap.val from rfl,
      ← show c = s.cur.1 from rfl, hcap, hlocal, Bool.false_eq_true, if_false, readBuf_of_arrived harrived,
      rttwWrite_done rfl hj (imageNames_iff.2 ⟨hvgran, hlen⟩)
        (fun m hm => Bool.eq_false_iff.2 fun h => hfirst m hm (imageNames_iff.1 h)) hkind himg hvalid hbusy hsettled]

end Sys2Proof.Proofs

namespace Sys2Proof.Proofs

open Sys2Proof Sys2Proof.Machine

/-! ### A word that waits while what it started goes on -/

theorem runWord_hold {i : Instr} {o : OpSpec} {s t : State} {body : State → List TCap → WordRes} (hissue : issuable i s = true)
    (hready : sourcesReady o s = true) (hdest : o.dc = none) (hbody : body s (readSources s.me o.cs) = .hold t) :
    runWord i o s body = .next t := by
  rw [runWord_of_issuable hissue, runOps_of_no_cause hready hbody rfl (by simp [hdest])]
  rfl

/-! ### RTINV (R114, R383) -/

/-- The wait of RTINV: the accesses that are still out are kept, and the word goes on when there are none. -/
def rtinvEnd (t : State) (ws : List (Nat × Nat)) : WordRes :=
  let u := t.modMe fun c => { c with rtinv := ws }
  if ws.isEmpty then .done u else .hold u

/-- RTINV of an address: the wait goes on, or the entries go and the wait begins. -/
def rtinvStep (s : State) (va : Nat) : WordRes :=
  if !s.me.rtinv.isEmpty then rtinvEnd s (if s.me.rtinv.any (stillOut s) then s.me.rtinv else []) else
  afterLoads s <|
    rtinvEnd (rtinvRemove s s.myCore.ctx va) (inFlight s s.myCore.ctx (inEntries (rtinvEntries s s.myCore.ctx va)))

theorem exec_rtinv (a : Reg) (s : State) :
    exec (.rtinv a) s = runWord (.rtinv a) { cs := [a] } s fun s vs => rtinvStep s (src vs 0).data.toNat := rfl

theorem rtinvStep_of_waiting {s : State} (h : s.me.rtinv ≠ []) (va : Nat) :
    rtinvStep s va = rtinvEnd s (if s.me.rtinv.any (stillOut s) then s.me.rtinv else []) := by
  simp [rtinvStep, h]

theorem rtinvStep_of_first {s : State} (h : s.me.rtinv = []) (hsettled : s.me.settled = true) (va : Nat) :
    rtinvStep s va =
      rtinvEnd (rtinvRemove s s.myCore.ctx va) (inFlight s s.myCore.ctx (inEntries (rtinvEntries s s.myCore.ctx va))) := by
  simp [rtinvStep, h, afterLoads, hsettled]

section
variable {s t : State} {a : Reg} {ws : List (Nat × Nat)} (hissue : issuable (.rtinv a) s = true)
  (hready : sourcesReady { cs := [a] } s = true) (hstep : rtinvStep s (operand s [a] 0).toNat = rtinvEnd t ws)
include hissue hready hstep

theorem rtinv_completes (hws : ws = []) : exec (.rtinv a) s = .next (completed (t.modMe fun c => { c with rtinv := [] }) [a]) := by
  subst hws
  exact (exec_rtinv a s).trans (runWord_done_plain hissue hready hstep rfl rfl)

theorem rtinv_waits (hws : ws ≠ []) : exec (.rtinv a) s = .next (t.modMe fun c => { c with rtinv := ws }) := by
  refine (exec_rtinv a s).trans (runWord_hold hissue hready rfl (hstep.trans ?_))
  simp [rtinvEnd, hws]

end

theorem rtinvHits_iff (ctx va : Nat) (t : TlbEnt) :
    rtinvHits ctx va t = true ↔ t.ctx = ctx ∧ t.ent.holds (va % 2 ^ 48 / 4096) = true := by
  simp [rtinvHits]

section
variable (s : State) (ctx va : Nat)

theorem rtinvRemove_tlb : ∀ p ∈ (rtinvRemove s ctx va).cores, ∀ t ∈ p.2.tlb, ¬rtinvHits ctx va t = true := by
  simp only [rtinvRemove, List.mem_map]
  rintro _ ⟨p, -, rfl⟩ t ht
  simpa using (List.mem_filter.1 ht).2

theorem rtinvRemove_rtc : ∀ p ∈ (rtinvRemove s ctx va).clusters, ∀ t ∈ p.2.rtc, ¬rtinvHits ctx va t = true := by
  simp only [rtinvRemove, List.mem_map]
  rintro _ ⟨p, -, rfl⟩ t ht
  simpa using (List.mem_filter.1 ht).2

theorem rtinvRemove_keeps : ∀ p ∈ s.cores, ∀ t ∈ p.2.tlb, ¬rtinvHits ctx va t = true →
    ∃ q ∈ (rtinvRemove s ctx va).cores, q.1 = p.1 ∧ t ∈ q.2.tlb := by
  intro p hp t ht hmiss
  refine ⟨_, List.mem_map_of_mem hp, rfl, List.mem_filter.2 ⟨ht, ?_⟩⟩
  simpa using hmiss

end

/-- Settles O23: RTINV is the removal and then the wait of `rtinvEnd`, and the removal is a filter of every core's and cluster's
entries. -/
theorem rtinvRemoves : Obligations.RtinvRemoves := by
  unfold Obligations.RtinvRemoves
  intro s a va ctx u hit left
  refine ⟨fun hissue hready hwaiting => ?_, fun hissue hready hsettled hfirst => ?_⟩
  · have hstep := rtinvStep_of_waiting hwaiting va
    refine ⟨fun hout => ?_, fun hout => ?_⟩ <;> rw [hout] at hstep
    · exact rtinv_waits hissue hready hstep hwaiting
    · exact rtinv_completes hissue hready hstep rfl
  · have hstep := rtinvStep_of_first hfirst hsettled va
    have hhit : ∀ t, hit t ↔ rtinvHits ctx va t = true := fun t => (rtinvHits_iff ctx va t).symm
    simp only [hhit]
    exact ⟨rtinv_completes hissue hready hstep, rtinv_waits hissue hready hstep, rtinvRemove_tlb s ctx va, rtinvRemove_rtc s ctx va,
      rtinvRemove_keeps s ctx va, rfl⟩

end Sys2Proof.Proofs

namespace Sys2Proof.Proofs

open Sys2Proof Sys2Proof.Machine

/-! ### The causes of the checks of an access, in the order of R121 -/

/-- A capability check raises a cause of the capabilities (R107). -/
theorem causeRank_capCheck {s : State} {core : Nat} {cap : TCap} {addr size perm c : Nat}
    (h : capCheck s core cap addr size perm = some c) : causeRank c < 4 := by
  have hcodes : c = 0x081 ∨ c = 0x083 ∨ c = 0x082 ∨ c = 0x085 := by
    unfold capCheck at h
    grind
  obtain rfl | rfl | rfl | rfl := hcodes <;> decide

theorem causeRank_rtCheck {e : Option RtEntry} {g : Nat} {acc : Acc_} {c : Nat} (h : rtCheck e g acc = some c) : causeRank c < 4 := by
  have hcodes : c = 0x0C1 ∨ c = 0x0C2 ∨ c = 0x0C3 ∨ c = 0x0C4 := by
    unfold rtCheck at h
    grind
  obtain rfl | rfl | rfl | rfl := hcodes <;> decide

theorem causeRank_translate {s t : State} {core ctx va die c : Nat} {acc : Acc_}
    (h : Machine.translate s core ctx va acc die = (t, .fail c)) : causeRank c < 4 := by
  unfold Machine.translate at h
  dsimp only at h
  split at h <;> cases h
  case h_1 hcheck => exact causeRank_rtCheck hcheck
  case h_2 => decide

theorem causeRank_placesVa {core ctx addr : Nat} {acc : Acc_} {gs : List (Nat × Nat × Nat)} {s t : State} {c v : Nat}
    (h : placesVa s core ctx addr acc gs = (t, .error (c, v))) : causeRank c < 4 := by
  induction gs generalizing s with
  | nil => cases h
  | cons g gs ih =>
    unfold placesVa at h
    split at h
    next hfail => cases h; exact causeRank_translate hfail
    next =>
      split at h
      next hrest => cases h; exact ih hrest
      next => cases h

/-- What turns away an access ranks below the checks of its data (R121). -/
theorem causeRank_places {s t : State} {core ctx addr size c v : Nat} {acc : Acc_}
    (h : places s core ctx addr size acc = (t, .error (c, v))) : causeRank c < 4 := by
  have hcodes : (∃ gs, placesVa s core ctx addr acc gs = (t, .error (c, v))) ∨
      c = 0x384 ∨ c = 0x0C1 ∨ c = 0x242 ∨ c = 0x301 ∨ c = 0x085 := by
    unfold places at h
    grind
  obtain ⟨gs, hva⟩ | hcode := hcodes
  · exact causeRank_placesVa hva
  · obtain rfl | rfl | rfl | rfl | rfl := hcode <;> decide

/-! ### What an access reaches -/

/-- An access does one thing with a cistern cell and another with everything else (R207). -/
theorem match_cellOf (p : Places) (cell : Nat → Nat → WordRes) (plain : WordRes) :
    (match p.ent, p.locs with
      | some e, .mem pa :: _ => if e.kind = 1 then cell pa e.typ else plain
      | _, _ => plain) =
    match cellOf p with
      | some (pa, typ) => cell pa typ
      | none => plain := by
  split
  next hent hlocs =>
    simp only [cellOf, hent, hlocs]
    split <;> rfl
  next hother =>
    simp [cellOf]

theorem afterStall_of_go {s : State} {touch : List (Nat × Nat)} (h : siphStalls s s.cur.1 touch = .go) (k : WordRes) :
    afterStall s touch k = k := by
  simp [afterStall, h]

theorem badLoc_mem {pa : Nat} (h : hasDram pa = true) : badLoc [.mem pa] = none := by
  simp [badLoc, h]

/-! ### LD (R367 to R369) -/

/-- A load that can issue issues. -/
theorem issueLoad_of_loadGoes {s : State} {l : Outst} (hbuffer : l.dest ≠ .buffer) (h : loadGoes s l = true) :
    ∃ r, issueLoad s l = .done r := by
  simp only [loadGoes, Bool.and_eq_true, Bool.not_eq_true', decide_eq_true_eq, Option.isNone_iff_eq_none] at h
  obtain ⟨⟨⟨hheld, hroom⟩, hbad⟩, hclean⟩ := h
  have hcount : (l.dest == .buffer) = false := beq_eq_false_iff_ne.2 hbuffer
  unfold issueLoad at hclean ⊢
  simp only [hheld, hcount, Bool.false_eq_true, if_false, Nat.not_lt.2 hroom, hbad] at hclean ⊢
  split
  next hempty =>
    split
    next hpoison => simp [hempty, hpoison] at hclean
    next => exact ⟨_, rfl⟩
  next => exact ⟨_, rfl⟩

/-- The bytes of LD once its places are known. -/
def ldPlain (t : State) (sc : ScopeRef) (d : Reg) (wd : LdWidth) (cap : TCap) (addr : Nat) (p : Places) : WordRes :=
  afterStall t [(addr, ldBytes wd)] <|
    issueLoad t { plainAccess t (.reg d wd (hasPerms (capPerms cap.val) permTGL)) addr (ldBytes wd) with
      elems := [elemOf p.window sc 0 addr p.locs] }

/-- LD of an address that its checks pass. -/
def ldPlaced (s : State) (d : Reg) (wd : LdWidth) (cap : TCap) (addr : Nat) : WordRes :=
  match places s s.cur.1 s.myCore.ctx addr (ldBytes wd) .read with
  | (t, .error (c, v)) => .trapWith t c (BitVec.ofNat 64 v)
  | (t, .ok p) =>
    match cellOf p with
    | some (pa, typ) => loadCell (opScope t 4).1 d wd addr pa typ
    | none => ldPlain (opScope t 4).1 (opScope t 4).2 d wd cap addr p

/-- LD of an address. -/
def ldStep (s : State) (d : Reg) (wd : LdWidth) (cap : TCap) (addr : Nat) : WordRes :=
  if addr % ldBytes wd ≠ 0 then .trap 0x101 (BitVec.ofNat 64 addr) else
  match capCheck s s.cur.1 cap addr (ldBytes wd) permR with
  | some c => .trap c (BitVec.ofNat 64 addr)
  | none => ldPlaced s d wd cap addr

theorem exec_ld (d a : Reg) (wd : LdWidth) (o : BitVec 11) (s : State) :
    exec (.ld d a wd o) s = runWord (.ld d a wd o) { cs := [a], dc := some d } s fun s vs =>
      ldStep s d wd (src vs 0) (effAddr (src vs 0) (o.toInt * ldBytes wd)) := by
  have hbody : exec (.ld d a wd o) s = execLd d a wd o s := rfl
  rw [hbody, execLd]
  congr 1
  funext s vs
  simp only [ldStep, ldPlaced, signedOf_toNat, ← match_cellOf]
  rfl

section
variable {s t : State} {d : Reg} {wd : LdWidth} {cap : TCap} {addr : Nat} {p : Places}

theorem ldStep_of_misaligned (h : addr % ldBytes wd ≠ 0) : ldStep s d wd cap addr = .trap 0x101 (BitVec.ofNat 64 addr) := by
  simp [ldStep, h]

theorem ldStep_of_capCheck {c : Nat} (haligned : addr % ldBytes wd = 0)
    (hcheck : capCheck s s.cur.1 cap addr (ldBytes wd) permR = some c) :
    ldStep s d wd cap addr = .trap c (BitVec.ofNat 64 addr) := by
  simp [ldStep, haligned, hcheck]

theorem ldStep_of_checked (haligned : addr % ldBytes wd = 0) (hcheck : capCheck s s.cur.1 cap addr (ldBytes wd) permR = none) :
    ldStep s d wd cap addr = ldPlaced s d wd cap addr := by
  simp [ldStep, haligned, hcheck]

theorem ldPlaced_of_error {c v : Nat} (hplaces : places s s.cur.1 s.myCore.ctx addr (ldBytes wd) .read = (t, .error (c, v))) :
    ldPlaced s d wd cap addr = .trapWith t c (BitVec.ofNat 64 v) := by
  simp [ldPlaced, hplaces]

theorem ldPlaced_of_cell {pa typ : Nat} (hplaces : places s s.cur.1 s.myCore.ctx addr (ldBytes wd) .read = (t, .ok p))
    (hcell : cellOf p = some (pa, typ)) : ldPlaced s d wd cap addr = loadCell (opScope t 4).1 d wd addr pa typ := by
  simp [ldPlaced, hplaces, hcell]

theorem ldPlaced_of_plain (hplaces : places s s.cur.1 s.myCore.ctx addr (ldBytes wd) .read = (t, .ok p)) (hcell : cellOf p = none) :
    ldPlaced s d wd cap addr = ldPlain (opScope t 4).1 (opScope t 4).2 d wd cap addr p := by
  simp [ldPlaced, hplaces, hcell]

/-- The value of a load of a view (R7, R207): sign-extended by LD.W alone. -/
def viewValue (wd : LdWidth) (v : Nat) : TCap :=
  dataCap (match wd with
    | .w => (BitVec.ofNat 32 v).signExtend 64
    | _ => BitVec.ofNat 64 (v % 2 ^ (8 * ldBytes wd)))

theorem loadCell_of_size {typ : Nat} (pa : Nat) (h : ldBytes wd ≠ cellSize typ ∨ wd = .q) :
    loadCell s d wd addr pa typ = .trap 0x182 (BitVec.ofNat 64 addr) := by
  have hbad : (ldBytes wd ≠ cellSize typ || wd == .q) = true := by simpa using h
  simp only [loadCell, hbad, if_true]

theorem loadCell_of_view {pa typ v : Nat} {z : State} (hsize : ldBytes wd = cellSize typ) (hquad : wd ≠ .q)
    (hfree : siphStalls s s.cur.1 [(addr, ldBytes wd)] = .go) (hdram : hasDram pa = true)
    (hheld : loadHeld s ((List.range (ldBytes wd)).map fun j => .mem (pa + j)) = false)
    (hview : viewCell s s.cur.1 s.cur.2 pa typ (ldBytes wd) (cacheHint s.me.hints) = (z, v, false)) :
    loadCell s d wd addr pa typ = .done (z.put d (viewValue wd v)) := by
  have hgood : (ldBytes wd ≠ cellSize typ || wd == .q) = false := by simpa [hsize] using hquad
  simp only [loadCell, hgood, Bool.false_eq_true, if_false, afterStall_of_go hfree, badLoc_mem hdram, hheld, hview, viewValue]
  cases wd <;> simp [sext64_eq_signExtend, zext64]

variable {a : Reg} {o : BitVec 11} (hissue : issuable (.ld d a wd o) s = true)
  (hready : sourcesReady { cs := [a], dc := some d } s = true)
include hissue hready

theorem ld_traps {c : Nat} {v : Word}
    (hstep : ldStep s d wd (src (readSources s.me [a]) 0)
      (effAddr (src (readSources s.me [a]) 0) (o.toInt * ldBytes wd)) = .trap c v) (hrank : causeRank c < 4) :
    Traps (.ld d a wd o) s c v :=
  fun hsettled => (exec_ld d a wd o s).trans (runWord_trap hissue hready rfl rfl hstep hrank hsettled)

theorem ld_completes (htakes : takesAny s d)
    (hstep : ldStep s d wd (src (readSources s.me [a]) 0)
      (effAddr (src (readSources s.me [a]) 0) (o.toInt * ldBytes wd)) = .done t) :
    exec (.ld d a wd o) s = .next (completed t [a]) := by
  have hdest : ∀ d', some d = some d' → destGate s d' ((WordRes.done t).element s d') = .go := by
    rintro _ ⟨⟩
    exact htakes _
  rw [exec_ld, runWord_done hissue hready hstep hdest, recordSync_plain rfl]

end

/-- Settles O27: `ldStep` goes through the checks of LD in their order, and what it comes to is the end of the word. -/
theorem loadWord : Obligations.LoadWord := by
  unfold Obligations.LoadWord
  intro s d a wd o cap n addr x i hissue hready
  refine ⟨fun hmis => ld_traps hissue hready (ldStep_of_misaligned hmis) (by decide),
    fun haligned c hcheck => ld_traps hissue hready (ldStep_of_capCheck haligned hcheck) (causeRank_capCheck hcheck),
    fun haligned hcheck htakes => ?_⟩
  have hstep := ldStep_of_checked (d := d) haligned hcheck
  refine ⟨fun t c v hplaces hsettled => ?_, fun t p hplaces => ?_⟩
  · exact (exec_ld d a wd o s).trans (runWord_trapWith hissue hready rfl (hstep.trans (ldPlaced_of_error hplaces))
      (causeRank_places hplaces) hsettled)
  · refine ⟨?_, fun pa typ hcell => ?_⟩
    · intro hcell hfree l hgoes
      have hdest : l.dest ≠ .buffer := fun h => Dest.noConfusion h
      obtain ⟨r, hr⟩ := issueLoad_of_loadGoes hdest hgoes
      refine ⟨r, hr, ld_completes hissue hready htakes ?_⟩
      rw [hstep, ldPlaced_of_plain hplaces hcell, ldPlain, afterStall_of_go hfree]
      exact hr
    · have hplaced := hstep.trans (ldPlaced_of_cell hplaces hcell)
      refine ⟨fun hsize => ld_traps hissue hready (hplaced.trans (loadCell_of_size pa hsize)) (by decide),
        fun hfree hsize hquad hdram hheld z v hview => ?_⟩
      have := ld_completes hissue hready htakes (hplaced.trans (loadCell_of_view hsize hquad hfree hdram hheld hview))
      rw [this]
      cases wd <;> rfl


/-! ### A store's entry (R165) -/

theorem cur_commitPoint (s : State) (c i : Nat) : (commitPoint s c i).cur = s.cur := rfl

/-- An outbox with room takes the entry of a store. -/
theorem storeOut_of_hasRoom {s : State} {touch : List (Nat × Nat)} (hroom : hasRoom s touch = true) (e : Entry) :
    storeOut s touch e = .done (placed s e) := by
  by_cases hfull : s.me.outbox.length < outboxMax
  · have hfits : s.me.outbox.length + 1 ≤ outboxMax := hfull
    simp only [storeOut, putOutWhen, placed, hfits, hfull, if_true]
  · have hfits : ¬ s.me.outbox.length + 1 ≤ outboxMax := hfull
    simp only [hasRoom, hfull, decide_false, Bool.false_or, Bool.and_eq_true, commits, Bool.not_eq_true', beq_iff_eq] at hroom
    obtain ⟨⟨⟨hdrain, hecc⟩, hcompare⟩, hstall⟩ := hroom
    simp [storeOut, putOutWhen, placed, hfits, hfull, tryCommit, hdrain, hecc, hcompare, cur_commitPoint, hstall]

/-! ### The bytes of a peer -/

theorem locs_placesVa {core ctx addr : Nat} {acc : Acc_} {gs : List (Nat × Nat × Nat)} {s t : State} {p : Places}
    (h : placesVa s core ctx addr acc gs = (t, .ok p)) : ∀ l ∈ p.locs, ∃ pa, l = .mem pa := by
  induction gs generalizing s p with
  | nil => cases h; simp
  | cons g gs ih =>
    unfold placesVa at h
    split at h
    next => cases h
    next =>
      split at h
      next => cases h
      next hrest =>
        cases h
        intro l hl
        rcases List.mem_append.1 hl with hhere | hlater
        · obtain ⟨n, -, rfl⟩ := List.mem_map.1 hhere
          exact ⟨_, rfl⟩
        · exact ih hrest l hlater

/-- The bytes of an access are of one kind: of the module's memory, or of something that has no DRAM to lack (R100). -/
theorem locs_places {s t : State} {core ctx addr size : Nat} {acc : Acc_} {p : Places}
    (h : places s core ctx addr size acc = (t, .ok p)) :
    (∀ l ∈ p.locs, ∃ pa, l = .mem pa) ∨ ∀ l ∈ p.locs, ∀ pa, l ≠ .mem pa := by
  unfold places at h
  dsimp only at h
  split at h
  · exact .inl (locs_placesVa h)
  · split_ifs at h
    · exact .inl (locs_placesVa h)
    · cases h
    · cases h
      exact .inr (by simp)
  · split_ifs at h <;> cases h
    all_goals exact .inr (by simp)
  · split_ifs at h <;> cases h
    exact .inr (by simp)
  · cases h

theorem badLoc_of_no_mem {ls : List Loc} (h : ∀ l ∈ ls, ∀ pa, l ≠ .mem pa) : badLoc ls = none := by
  induction ls with
  | nil => rfl
  | cons l ls ih =>
    obtain ⟨hl, hls⟩ := List.forall_mem_cons.1 h
    cases l with
    | mem pa => exact absurd rfl (hl pa)
    | _ => exact ih hls

/-- An access that reaches a peer's byte lacks no DRAM. -/
theorem badLoc_of_peer {s t : State} {core ctx addr size ga : Nat} {acc : Acc_} {p : Places} {ls : List Loc}
    (h : places s core ctx addr size acc = (t, .ok p)) (hpeer : p.locs = .peer ga :: ls) : badLoc p.locs = none := by
  rcases locs_places h with hmem | hother
  · obtain ⟨pa, hpa⟩ := hmem (.peer ga) (by simp [hpeer])
    cases hpa
  · exact badLoc_of_no_mem hother

/-! ### ST (R392 to R394) -/

/-- An entry of ST goes into the outbox, under the watermark rule (R190), once its bytes have DRAM behind them. -/
def stPut (t : State) (i : Instr) (sc : ScopeRef) (n addr : Nat) (p : Places) (eff : Effect) : WordRes :=
  afterStall t [(addr, n)] <|
    match badLoc p.locs with
    | some y => .fault (.noDram y)
    | none => storeOut t [(addr, n)] (storeEntry t i eff addr p.window sc)

/-- The effect of a store of bytes (R392 to R394). -/
def stBytesEff (wd : StWidth) (v : TCap) (p : Places) : Effect :=
  .store (cellsOf p.locs (natBytes (stBytes wd) v.val.toNat)) (wd == .q && v.tag)

/-- ST of what is no cistern cell: toward a peer's first space it travels as a store that may reach a cell (R211). -/
def stPlain (t : State) (i : Instr) (sc : ScopeRef) (wd : StWidth) (cap v : TCap) (addr : Nat) (p : Places) : WordRes :=
  match p.locs with
  | .peer _ :: _ =>
    if spaceOf addr = 1 && wd != .q then
      stPut t i sc (stBytes wd) addr p (.peer (BitVec.ofNat 64 addr) (.cellStore (natBytes (stBytes wd) v.val.toNat)
        (addr % 8 == 0 && (capCheck t t.cur.1 cap addr 8 permW).isNone)))
    else stPut t i sc (stBytes wd) addr p (stBytesEff wd v p)
  | _ => stPut t i sc (stBytes wd) addr p (stBytesEff wd v p)

/-- The permissions that ST asks for: a tagged ST.Q needs TGS as well (R106). -/
def stPerm (wd : StWidth) (v : TCap) : Nat := if wd == .q && v.tag then permW ||| permTGS else permW

/-- ST of an address that its checks pass. -/
def stPlaced (s : State) (i : Instr) (wd : StWidth) (cap v : TCap) (addr : Nat) : WordRes :=
  match places s s.cur.1 s.myCore.ctx addr (stBytes wd) .write with
  | (t, .error (c, y)) => .trapWith t c (BitVec.ofNat 64 y)
  | (t, .ok p) =>
    match cellOf p with
    | some (pa, typ) => storeCell (opScope t 4).1 i (stBytes wd) addr pa typ (v.val.toNat % 2 ^ (8 * stBytes wd))
    | none => stPlain (opScope t 4).1 i (opScope t 4).2 wd cap v addr p

/-- ST of an address. -/
def stStep (s : State) (i : Instr) (wd : StWidth) (cap v : TCap) (addr : Nat) : WordRes :=
  if addr % stBytes wd ≠ 0 then .trap 0x101 (BitVec.ofNat 64 addr) else
  match capCheck s s.cur.1 cap addr (stBytes wd) (stPerm wd v) with
  | some c => .trap c (BitVec.ofNat 64 addr)
  | none => stPlaced s i wd cap v addr

/-- The places of a store, and what it does with them: a cell's join, a peer's message, or the store of its bytes. -/
theorem match_cellOf_peer (p : Places) (cell : Nat → Nat → WordRes) (peer plain : WordRes) :
    (match p.ent, p.locs with
      | some e, .mem pa :: _ => if e.kind = 1 then cell pa e.typ else plain
      | _, .peer _ :: _ => peer
      | _, _ => plain) =
    match cellOf p with
      | some (pa, typ) => cell pa typ
      | none => match p.locs with
        | .peer _ :: _ => peer
        | _ => plain := by
  rcases hlocs : p.locs with _ | ⟨l, ls⟩
  · simp [cellOf, hlocs]
  · cases l with
    | mem pa =>
      cases hent : p.ent with
      | none => simp [cellOf, hlocs, hent]
      | some e =>
        simp only [cellOf, hlocs, hent]
        split <;> rfl
    | _ => simp [cellOf, hlocs]

theorem exec_st (r a : Reg) (wd : StWidth) (o : BitVec 11) (s : State) :
    exec (.st r a wd o) s = runWord (.st r a wd o) { cs := [a, r] } s fun s vs =>
      stStep s (.st r a wd o) wd (src vs 0) (src vs 1) (effAddr (src vs 0) (o.toInt * stBytes wd)) := by
  have hbody : exec (.st r a wd o) s = execSt r a wd o s := rfl
  rw [hbody, execSt]
  congr 1
  funext s vs
  simp only [stStep, stPlaced, stPerm, stPlain, signedOf_toNat, ← match_cellOf_peer]
  rfl

section
variable {s t : State} {i : Instr} {r : Reg} {wd : StWidth} {cap v : TCap} {addr : Nat} {p : Places} {sc : ScopeRef}

theorem stStep_of_misaligned (h : addr % stBytes wd ≠ 0) : stStep s i wd cap v addr = .trap 0x101 (BitVec.ofNat 64 addr) := by
  simp [stStep, h]

theorem stStep_of_capCheck {c : Nat} (haligned : addr % stBytes wd = 0)
    (hcheck : capCheck s s.cur.1 cap addr (stBytes wd) (stPerm wd v) = some c) :
    stStep s i wd cap v addr = .trap c (BitVec.ofNat 64 addr) := by
  simp [stStep, haligned, hcheck]

theorem stStep_of_checked (haligned : addr % stBytes wd = 0)
    (hcheck : capCheck s s.cur.1 cap addr (stBytes wd) (stPerm wd v) = none) : stStep s i wd cap v addr = stPlaced s i wd cap v addr := by
  simp [stStep, haligned, hcheck]

theorem stPlaced_of_cell {pa typ : Nat} (hplaces : places s s.cur.1 s.myCore.ctx addr (stBytes wd) .write = (t, .ok p))
    (hcell : cellOf p = some (pa, typ)) : stPlaced s i wd cap v addr =
      storeCell (opScope t 4).1 i (stBytes wd) addr pa typ (v.val.toNat % 2 ^ (8 * stBytes wd)) := by
  simp [stPlaced, hplaces, hcell]

theorem stPlaced_of_plain (hplaces : places s s.cur.1 s.myCore.ctx addr (stBytes wd) .write = (t, .ok p)) (hcell : cellOf p = none) :
    stPlaced s i wd cap v addr = stPlain (opScope t 4).1 i (opScope t 4).2 wd cap v addr p := by
  simp [stPlaced, hplaces, hcell]

theorem stPlain_of_no_peer (hpeer : ∀ ga ls, p.locs ≠ .peer ga :: ls) :
    stPlain t i sc wd cap v addr p = stPut t i sc (stBytes wd) addr p (stBytesEff wd v p) := by
  unfold stPlain
  split
  next ga ls h => exact absurd h (hpeer ga ls)
  next => rfl

theorem stPlain_of_peer {ga : Nat} {ls : List Loc} (hpeer : p.locs = .peer ga :: ls) :
    ∃ eff, stPlain t i sc wd cap v addr p = stPut t i sc (stBytes wd) addr p eff ∧
      (spaceOf addr ≠ 1 ∨ wd = .q → eff = stBytesEff wd v p) := by
  unfold stPlain
  rw [hpeer]
  dsimp only
  split
  next hcell => exact ⟨_, rfl, fun h => by simp at hcell; tauto⟩
  next => exact ⟨_, rfl, fun _ => rfl⟩

theorem stPut_of_hasRoom {n : Nat} (hfree : siphStalls t t.cur.1 [(addr, n)] = .go) (hbad : badLoc p.locs = none)
    (hroom : hasRoom t [(addr, n)] = true) (eff : Effect) :
    stPut t i sc n addr p eff = .done (placed t (storeEntry t i eff addr p.window sc)) := by
  rw [stPut, afterStall_of_go hfree, hbad]
  exact storeOut_of_hasRoom hroom _

theorem storeCell_of_size {n typ : Nat} (pa x : Nat) (h : n ≠ cellSize typ) :
    storeCell s i n addr pa typ x = .trap 0x182 (BitVec.ofNat 64 addr) := by
  simp [storeCell, h]

section
variable {n pa typ x old : Nat} {z : State} (hsize : n = cellSize typ) (hdram : hasDram pa = true)
  (hview : viewCell s s.cur.1 s.cur.2 pa typ n (cacheHint s.me.hints) = (z, old, false))
include hsize hdram hview

theorem storeCell_of_below (hbelow : geq typ x old = false) :
    storeCell s i n addr pa typ x = .trap 0x181 (BitVec.ofNat 64 addr) := by
  simp [storeCell, badLoc_mem hdram, ← hsize, hview, hbelow]

theorem storeCell_of_reaches (hreaches : geq typ x old = true) (hfree : siphStalls z z.cur.1 [(addr, n)] = .go)
    (hroom : hasRoom z [(addr, n)] = true) : storeCell s i n addr pa typ x =
      .done (placed z (mkEntry z i (.join pa typ n (BitVec.ofNat 64 x)) (BitVec.ofNat 64 addr))) := by
  simp [storeCell, badLoc_mem hdram, ← hsize, hview, hreaches, afterStall_of_go hfree, storeOut_of_hasRoom hroom]

end

variable {a : Reg} {o : BitVec 11} (hissue : issuable (.st r a wd o) s = true) (hready : sourcesReady { cs := [a, r] } s = true)
include hissue hready

theorem st_traps {c : Nat} {x : Word}
    (hstep : stStep s (.st r a wd o) wd (src (readSources s.me [a, r]) 0) (src (readSources s.me [a, r]) 1)
      (effAddr (src (readSources s.me [a, r]) 0) (o.toInt * stBytes wd)) = .trap c x) (hrank : causeRank c < 4) :
    Traps (.st r a wd o) s c x :=
  fun hsettled => (exec_st r a wd o s).trans (runWord_trap hissue hready rfl rfl hstep hrank hsettled)

theorem st_completes
    (hstep : stStep s (.st r a wd o) wd (src (readSources s.me [a, r]) 0) (src (readSources s.me [a, r]) 1)
      (effAddr (src (readSources s.me [a, r]) 0) (o.toInt * stBytes wd)) = .done t) :
    exec (.st r a wd o) s = .next (completed t [a, r]) :=
  (exec_st r a wd o s).trans (runWord_done_plain hissue hready hstep rfl rfl)

end

/-- Settles O30: `stStep` goes through the checks of ST in their order, and what it comes to is the end of the word. -/
theorem storeWord : Obligations.StoreWord := by
  unfold Obligations.StoreWord
  intro s r a wd o cap v n addr x i tag perm hissue hready
  refine ⟨fun hmis => st_traps hissue hready (stStep_of_misaligned hmis) (by decide),
    fun haligned c hcheck => st_traps hissue hready (stStep_of_capCheck haligned hcheck) (causeRank_capCheck hcheck),
    fun haligned hcheck t p hplaces => ?_⟩
  have hstep := stStep_of_checked (i := i) haligned hcheck
  refine ⟨fun hcell hfree hbad hpeer hroom => ?_, fun ga ls hcell hfree hpeer hroom => ?_, fun pa typ hcell => ?_⟩
  · have hplain := hstep.trans (stPlaced_of_plain hplaces hcell)
    exact st_completes hissue hready
      (hplain.trans ((stPlain_of_no_peer hpeer).trans (stPut_of_hasRoom hfree hbad hroom _)))
  · have hplain := hstep.trans (stPlaced_of_plain hplaces hcell)
    obtain ⟨eff, hput, heff⟩ := stPlain_of_peer hpeer
    exact ⟨_, st_completes hissue hready
      (hplain.trans (hput.trans (stPut_of_hasRoom hfree (badLoc_of_peer hplaces hpeer) hroom eff))), rfl, heff⟩
  · have hplaced := hstep.trans (stPlaced_of_cell hplaces hcell)
    refine ⟨fun hsize => st_traps hissue hready (hplaced.trans (storeCell_of_size pa _ hsize)) (by decide),
      fun hsize hdram z old hview => ⟨fun hbelow => ?_, fun hreaches hfree hroom => ?_⟩⟩
    · exact st_traps hissue hready (hplaced.trans (storeCell_of_below hsize hdram hview hbelow)) (by decide)
    · exact st_completes hissue hready (hplaced.trans (storeCell_of_reaches hsize hdram hview hreaches hfree hroom))


/-! ### The elements of a vector access (R108, R411, R415, R418) -/

theorem causeRank_capAll {s : State} {cap : TCap} {perm c a : Nat} {noHost : Bool} {es : List VElem}
    (h : capAll s cap perm noHost es = some (c, a)) : causeRank c < 4 := by
  induction es with
  | nil => cases h
  | cons e es ih =>
    unfold capAll at h
    split at h
    next hcheck => cases h; exact causeRank_capCheck hcheck
    next =>
      split at h
      · cases h; decide
      · exact ih h

/-- The misaligned elements among elements of one size. -/
theorem misaligned_of_size {z : Nat} {es : List VElem} (h : ∀ e ∈ es, e.size = z) :
    misaligned es = (es.find? fun e => e.addr % z ≠ 0).map (·.addr) := by
  rw [misaligned]
  rw [List.find?_congr fun e he => by rw [h e he]]

theorem misaligned_of_aligned {z : Nat} {es : List VElem} (h : ∀ e ∈ es, e.size = z) (haligned : ∀ e ∈ es, e.addr % z = 0) :
    misaligned es = none := by
  rw [misaligned_of_size h, Option.map_eq_none_iff, List.find?_eq_none]
  simpa using haligned

/-- The index of element `k` of a gather or scatter (R411). -/
theorem signedOf_bitsAt_lane (n k : Nat) (v : VWord) : signedOf n (bitsAt v.toNat (n * k) n) = (lane n v k).toInt := by
  rw [← signedOf_toNat, lane, BitVec.extractLsb'_toNat, Nat.shiftRight_eq_div_pow, Nat.mul_comm n k, bitsAt]

/-! ### Vector loads -/

section
variable {i : Instr} {o : OpSpec} {s : State} {v : VReg} {cap : TCap} {noHost joint : Bool} {checks es : List VElem}
  {body : State → List TCap → WordRes}

/-- A word that loads elements has their checks, and their load's end. -/
theorem loadsElems_of_vecLoad (hissue : issuable i s = true) (hready : sourcesReady o s = true) (hsends : o.sends = false)
    (hdest : o.dc = none) (hplain : isSync i = false) (hexec : exec i s = runWord i o s body)
    (hbody : body s (readSources s.me o.cs) = vecLoad s v cap noHost joint checks es) :
    LoadsElems i o.cs s v cap noHost joint checks es := by
  refine ⟨fun c a hcap hsettled => ?_, fun hcap t ps hplaces => ?_⟩
  · refine hexec.trans (runWord_trap hissue hready hsends hplain ?_ (causeRank_capAll hcap) hsettled)
    rw [hbody, vecLoad, hcap]
  · intro u l hfree hgoes
    have hbuffer : l.dest ≠ .buffer := fun h => Dest.noConfusion h
    obtain ⟨r, hr⟩ := issueLoad_of_loadGoes hbuffer hgoes
    refine ⟨r, hr, hexec.trans (runWord_done_plain hissue hready ?_ hplain hdest)⟩
    rw [hbody, vecLoad, hcap]
    simp only [hplaces]
    rw [afterStall_of_go hfree]
    exact hr


theorem vecWord_traps (hissue : issuable i s = true) (hready : sourcesReady o s = true) (hsends : o.sends = false)
    (hplain : isSync i = false) (hexec : exec i s = runWord i o s body) {a : Nat}
    (hbody : body s (readSources s.me o.cs) = .trap 0x101 (BitVec.ofNat 64 a)) : Traps i s 0x101 (BitVec.ofNat 64 a) :=
  fun hsettled => hexec.trans (runWord_trap hissue hready hsends hplain hbody (by decide) hsettled)

/-- A word that stores elements has their checks, and places their entry (R412). -/
theorem storesElems_of_vecStore {addr unit : Nat} {data : VWord} (hissue : issuable i s = true) (hready : sourcesReady o s = true)
    (hsends : o.sends = false) (hdest : o.dc = none) (hplain : isSync i = false) (hexec : exec i s = runWord i o s body)
    (hbody : body s (readSources s.me o.cs) = vecStore s i cap noHost addr data unit es) :
    StoresElems i o.cs s cap noHost addr data unit es := by
  refine ⟨fun c a hcap hsettled => ?_, fun hcap t ps hplaces => ?_⟩
  · refine hexec.trans (runWord_trap hissue hready hsends hplain ?_ (causeRank_capAll hcap) hsettled)
    rw [hbody, vecStore, hcap]
  · intro u cells touch hfree hbad hroom
    refine hexec.trans (runWord_done_plain hissue hready ?_ hplain hdest)
    rw [hbody, vecStore, hcap]
    simp only [hplaces]
    rw [afterStall_of_go hfree]
    simp only [cellsOf]
    rw [hbad]
    exact storeOut_of_hasRoom hroom _

end

/-! ### The elements that a gathering or scattering word names -/

theorem strideElems_size (m : Word) (cap : TCap) (stride : Word) (z : Nat) : ∀ e ∈ strideElems m cap stride z, e.size = z := by
  intro e he
  obtain ⟨k, -, rfl⟩ := List.mem_map.1 he
  rfl

theorem indexElems_size (m : Word) (cap : TCap) (idx : VWord) (z : Nat) : ∀ e ∈ indexElems m cap idx z, e.size = z := by
  intro e he
  obtain ⟨k, -, rfl⟩ := List.mem_map.1 he
  rfl

/-- The index of element `k`, signed (R411). -/
def indexOf (f : WideElem) (idx : VWord) (k : Nat) : Int :=
  if wideBytes f = 4 then (lane 32 idx k).toInt else (lane 64 idx k).toInt

theorem indexElems_eq (m : Word) (cap : TCap) (idx : VWord) (f : WideElem) :
    indexElems m cap idx (wideBytes f) = ((List.range (64 / wideBytes f)).filter m.getLsbD).map fun k =>
      ⟨wideBytes f * k, effAddr cap (indexOf f idx k * wideBytes f), wideBytes f⟩ := by
  cases f <;> simp [indexElems, indexOf, wideBytes, ← signedOf_bitsAt_lane]

/-- A word with a misaligned element traps at the first of them (R108). -/
theorem misaligned_eq_some {z : Nat} {es : List VElem} {e : VElem} (hsize : ∀ e ∈ es, e.size = z)
    (hfind : es.find? (fun e => e.addr % z ≠ 0) = some e) : misaligned es = some e.addr := by
  rw [misaligned_of_size hsize, hfind]; rfl

section
variable {i : Instr} {o : OpSpec} {s : State} {v : VReg} {cap : TCap} {noHost : Bool} {es : List VElem} {z : Nat}
  {body : State → List TCap → WordRes} (hissue : issuable i s = true) (hready : sourcesReady o s = true) (hsends : o.sends = false)
  (hdest : o.dc = none) (hplain : isSync i = false) (hexec : exec i s = runWord i o s body) (hsize : ∀ e ∈ es, e.size = z)
include hissue hready hsends hdest hplain hexec hsize

/-- What a word that gathers its elements does: the first misaligned element, no element, and elements. -/
theorem gathers_of_gatherLoad (hbody : body s (readSources s.me o.cs) = gatherLoad s v cap noHost es) :
    (∀ e, es.find? (fun e => e.addr % z ≠ 0) = some e → Traps i s 0x101 (BitVec.ofNat 64 e.addr)) ∧
    (es = [] → exec i s = .next (completed s o.cs)) ∧
    ((∀ e ∈ es, e.addr % z = 0) → es ≠ [] → LoadsElems i o.cs s v cap noHost false es es) := by
  refine ⟨fun e hfind => ?_, fun hnone => ?_, fun haligned hsome => ?_⟩
  · refine vecWord_traps hissue hready hsends hplain hexec (hbody.trans ?_)
    rw [gatherLoad, misaligned_eq_some hsize hfind]
  · refine hexec.trans (runWord_done_plain hissue hready (hbody.trans ?_) hplain hdest)
    subst hnone
    rfl
  · refine loadsElems_of_vecLoad hissue hready hsends hdest hplain hexec (hbody.trans ?_)
    rw [gatherLoad, misaligned_of_aligned hsize haligned]
    simp [hsome]

/-- What a word that scatters its elements does: the first misaligned element, and the entry. -/
theorem scatters_of_scatterStore {data : VWord} (hbody : body s (readSources s.me o.cs) = scatterStore s i cap noHost data z es) :
    (∀ e, es.find? (fun e => e.addr % z ≠ 0) = some e → Traps i s 0x101 (BitVec.ofNat 64 e.addr)) ∧
    ((∀ e ∈ es, e.addr % z = 0) → StoresElems i o.cs s cap noHost (capAddr cap.val) data z es) := by
  refine ⟨fun e hfind => ?_, fun haligned => ?_⟩
  · refine vecWord_traps hissue hready hsends hplain hexec (hbody.trans ?_)
    rw [scatterStore, misaligned_eq_some hsize hfind]
  · refine storesElems_of_vecStore hissue hready hsends hdest hplain hexec (hbody.trans ?_)
    rw [scatterStore, misaligned_of_aligned hsize haligned]

end

/-! ### The words (R410 to R418) -/

section
variable (s : State) (v b : VReg) (a c : Reg) (m : MReg)

/-- VLD of an address. -/
def vldStep (s : State) (v : VReg) (m : MReg) (cap : TCap) (addr : Nat) : WordRes :=
  let es := wordElems (s.me.mask m) addr
  if addr % 4 ≠ 0 then .trap 0x101 (BitVec.ofNat 64 addr) else
  if es.isEmpty then .done s else vecLoad s v cap false true es (pairElems es)

/-- VST to an address. -/
def vstStep (s : State) (i : Instr) (v : VReg) (m : MReg) (cap : TCap) (addr : Nat) : WordRes :=
  let es := wordElems (s.me.mask m) addr
  if addr % 4 ≠ 0 then .trap 0x101 (BitVec.ofNat 64 addr) else
  if es.isEmpty then .done s else vecStore s i cap false addr (s.me.vreg v).val 0 es

theorem exec_vld (o : BitVec 12) : exec (.vld v a m o) s = runWord (.vld v a m o) { cs := [a], ms := [m], dv := some v } s
    fun s vs => vldStep s v m (src vs 0) (effAddr (src vs 0) (o.toInt * 64)) := by
  simp only [← signedOf_toNat]
  rfl

theorem exec_vst (o : BitVec 12) : exec (.vst v a m o) s = runWord (.vst v a m o) { cs := [a], vs := [v], ms := [m] } s
    fun s vs => vstStep s (.vst v a m o) v m (src vs 0) (effAddr (src vs 0) (o.toInt * 64)) := by
  simp only [← signedOf_toNat]
  rfl

theorem exec_vlds (w : ElemWidth) :
    exec (.vlds v a c w m) s = runWord (.vlds v a c w m) { cs := [a, c], ms := [m], dv := some v } s fun s vs =>
      gatherLoad s v (src vs 0) false (strideElems (s.me.mask m) (src vs 0) (src vs 1).data (ewBits w / 8)) := rfl

theorem exec_vsts (w : ElemWidth) :
    exec (.vsts v a c w m) s = runWord (.vsts v a c w m) { cs := [a, c], vs := [v], ms := [m] } s fun s vs =>
      scatterStore s (.vsts v a c w m) (src vs 0) false (s.me.vreg v).val (ewBits w / 8)
        (strideElems (s.me.mask m) (src vs 0) (src vs 1).data (ewBits w / 8)) := rfl

theorem exec_vgath (f : WideElem) :
    exec (.vgath v a b f m) s = runWord (.vgath v a b f m) { cs := [a], vs := [b], ms := [m], dv := some v } s fun s vs =>
      gatherLoad s v (src vs 0) true (indexElems (s.me.mask m) (src vs 0) (s.me.vreg b).val (wideBytes f)) := rfl

theorem exec_vscat (f : WideElem) :
    exec (.vscat v a b f m) s = runWord (.vscat v a b f m) { cs := [a], vs := [v, b], ms := [m] } s fun s vs =>
      scatterStore s (.vscat v a b f m) (src vs 0) true (s.me.vreg v).val (wideBytes f)
        (indexElems (s.me.mask m) (src vs 0) (s.me.vreg b).val (wideBytes f)) := rfl

end

section
variable {s : State} {v : VReg} {m : MReg} {cap : TCap} {addr : Nat} {i : Instr}

theorem vldStep_of_misaligned (h : addr % 4 ≠ 0) : vldStep s v m cap addr = .trap 0x101 (BitVec.ofNat 64 addr) := by
  simp [vldStep, h]

theorem vldStep_of_none (haligned : addr % 4 = 0) (h : wordElems (s.me.mask m) addr = []) : vldStep s v m cap addr = .done s := by
  simp [vldStep, haligned, h]

theorem vldStep_of_some (haligned : addr % 4 = 0) (h : wordElems (s.me.mask m) addr ≠ []) : vldStep s v m cap addr =
    vecLoad s v cap false true (wordElems (s.me.mask m) addr) (pairElems (wordElems (s.me.mask m) addr)) := by
  simp [vldStep, haligned, h]

theorem vstStep_of_misaligned (h : addr % 4 ≠ 0) : vstStep s i v m cap addr = .trap 0x101 (BitVec.ofNat 64 addr) := by
  simp [vstStep, h]

theorem vstStep_of_none (haligned : addr % 4 = 0) (h : wordElems (s.me.mask m) addr = []) : vstStep s i v m cap addr = .done s := by
  simp [vstStep, haligned, h]

theorem vstStep_of_some (haligned : addr % 4 = 0) (h : wordElems (s.me.mask m) addr ≠ []) : vstStep s i v m cap addr =
    vecStore s i cap false addr (s.me.vreg v).val 0 (wordElems (s.me.mask m) addr) := by
  simp [vstStep, haligned, h]

end

section
variable {s : State} {v b : VReg} {a c : Reg} {m : MReg} {w : ElemWidth} {f : WideElem} {es : List VElem}

theorem vlds_gathers (hissue : issuable (.vlds v a c w m) s = true)
    (hready : sourcesReady { cs := [a, c], ms := [m], dv := some v } s = true)
    (hes : es = strideElems (s.me.mask m) (src (readSources s.me [a, c]) 0) (operand s [a, c] 1) (ewBits w / 8)) :
    (∀ e, es.find? (fun e => e.addr % (ewBits w / 8) ≠ 0) = some e → Traps (.vlds v a c w m) s 0x101 (BitVec.ofNat 64 e.addr)) ∧
    (es = [] → exec (.vlds v a c w m) s = .next (completed s [a, c])) ∧
    ((∀ e ∈ es, e.addr % (ewBits w / 8) = 0) → es ≠ [] →
      LoadsElems (.vlds v a c w m) [a, c] s v (src (readSources s.me [a, c]) 0) false false es es) :=
  gathers_of_gatherLoad (o := { cs := [a, c], ms := [m], dv := some v }) hissue hready rfl rfl rfl (exec_vlds s v a c m w)
    (hes ▸ strideElems_size _ _ _ _) (hes ▸ rfl)

theorem vgath_gathers (hissue : issuable (.vgath v a b f m) s = true)
    (hready : sourcesReady { cs := [a], vs := [b], ms := [m], dv := some v } s = true)
    (hes : es = indexElems (s.me.mask m) (src (readSources s.me [a]) 0) (s.me.vreg b).val (wideBytes f)) :
    (∀ e, es.find? (fun e => e.addr % wideBytes f ≠ 0) = some e → Traps (.vgath v a b f m) s 0x101 (BitVec.ofNat 64 e.addr)) ∧
    (es = [] → exec (.vgath v a b f m) s = .next (completed s [a])) ∧
    ((∀ e ∈ es, e.addr % wideBytes f = 0) → es ≠ [] →
      LoadsElems (.vgath v a b f m) [a] s v (src (readSources s.me [a]) 0) true false es es) :=
  gathers_of_gatherLoad (o := { cs := [a], vs := [b], ms := [m], dv := some v }) hissue hready rfl rfl rfl (exec_vgath s v b a m f)
    (hes ▸ indexElems_size _ _ _ _) (hes ▸ rfl)

theorem vsts_scatters (hissue : issuable (.vsts v a c w m) s = true)
    (hready : sourcesReady { cs := [a, c], vs := [v], ms := [m] } s = true)
    (hes : es = strideElems (s.me.mask m) (src (readSources s.me [a, c]) 0) (operand s [a, c] 1) (ewBits w / 8)) :
    (∀ e, es.find? (fun e => e.addr % (ewBits w / 8) ≠ 0) = some e → Traps (.vsts v a c w m) s 0x101 (BitVec.ofNat 64 e.addr)) ∧
    ((∀ e ∈ es, e.addr % (ewBits w / 8) = 0) →
      StoresElems (.vsts v a c w m) [a, c] s (src (readSources s.me [a, c]) 0) false
        (capAddr (src (readSources s.me [a, c]) 0).val) (s.me.vreg v).val (ewBits w / 8) es) :=
  scatters_of_scatterStore (o := { cs := [a, c], vs := [v], ms := [m] }) hissue hready rfl rfl rfl (exec_vsts s v a c m w)
    (hes ▸ strideElems_size _ _ _ _) (hes ▸ rfl)

theorem vscat_scatters (hissue : issuable (.vscat v a b f m) s = true)
    (hready : sourcesReady { cs := [a], vs := [v, b], ms := [m] } s = true)
    (hes : es = indexElems (s.me.mask m) (src (readSources s.me [a]) 0) (s.me.vreg b).val (wideBytes f)) :
    (∀ e, es.find? (fun e => e.addr % wideBytes f ≠ 0) = some e → Traps (.vscat v a b f m) s 0x101 (BitVec.ofNat 64 e.addr)) ∧
    ((∀ e ∈ es, e.addr % wideBytes f = 0) →
      StoresElems (.vscat v a b f m) [a] s (src (readSources s.me [a]) 0) true (capAddr (src (readSources s.me [a]) 0).val)
        (s.me.vreg v).val (wideBytes f) es) :=
  scatters_of_scatterStore (o := { cs := [a], vs := [v, b], ms := [m] }) hissue hready rfl rfl rfl (exec_vscat s v b a m f)
    (hes ▸ indexElems_size _ _ _ _) (hes ▸ rfl)

theorem vst_stores {o : BitVec 12} {addr : Nat} (hissue : issuable (.vst v a m o) s = true)
    (hready : sourcesReady { cs := [a], vs := [v], ms := [m] } s = true)
    (haddr : addr = effAddr (src (readSources s.me [a]) 0) (o.toInt * 64)) (hes : es = wordElems (s.me.mask m) addr)
    (haligned : addr % 4 = 0) (hsome : es ≠ []) :
    StoresElems (.vst v a m o) [a] s (src (readSources s.me [a]) 0) false addr (s.me.vreg v).val 0 es := by
  subst hes haddr
  exact storesElems_of_vecStore (o := { cs := [a], vs := [v], ms := [m] }) hissue hready rfl rfl rfl (exec_vst s v a m o)
    (vstStep_of_some haligned hsome)

end

/-- Settles O29: the elements that each word names are those of the statement, and a word that loads or stores elements has the checks
and the end of `vecLoad` or `vecStore`. -/
theorem vectorAccesses : Obligations.VectorAccesses := by
  unfold Obligations.VectorAccesses
  refine ⟨?_, ?_⟩
  · intro s v b a c m o w f cap g addr words z stride strided y index gathered
    refine ⟨fun hissue hready => ⟨fun hmis => ?_, fun haligned hnone => ?_, fun haligned hsome => ?_⟩,
      fun hissue hready => vlds_gathers hissue hready rfl,
      fun hissue hready => vgath_gathers hissue hready (indexElems_eq g cap (s.me.vreg b).val f).symm⟩
    · exact vecWord_traps hissue hready rfl rfl (exec_vld s v a m o) (vldStep_of_misaligned hmis)
    · exact (exec_vld s v a m o).trans (runWord_done_plain hissue hready (vldStep_of_none haligned hnone) rfl rfl)
    · exact loadsElems_of_vecLoad hissue hready rfl rfl rfl (exec_vld s v a m o) (vldStep_of_some haligned hsome)
  · intro s v b a c m o w f cap g data addr words z cap2 stride strided y index gathered
    refine ⟨fun hissue hready => ⟨fun hmis => ?_, fun haligned hnone => ?_, fun haligned hsome => ?_⟩,
      fun hissue hready => vsts_scatters hissue hready rfl,
      fun hissue hready => vscat_scatters hissue hready (indexElems_eq g cap (s.me.vreg b).val f).symm⟩
    · exact vecWord_traps hissue hready rfl rfl (exec_vst s v a m o) (vstStep_of_misaligned hmis)
    · exact (exec_vst s v a m o).trans (runWord_done_plain hissue hready (vstStep_of_none haligned hnone) rfl rfl)
    · exact vst_stores hissue hready rfl rfl haligned hsome

end Sys2Proof.Proofs

namespace Sys2Proof.Proofs

open Sys2Proof Sys2Proof.Machine

/-! ### A fill that ends with what has been invalidated meanwhile (R136, R141, R144) -/

/-- A folio of an L1F, of one byte that has yet to come and has been invalidated meanwhile. -/
def overtakenFolio : Folio :=
  { st := .filling, scr := false, start := 0, fin := 1, base := 0, key := 0,
    data := [(0, false)], drops := [(0, 1, false)] }

/-- The folio of the L2F with that byte, which another core has fetched since: its mask names core 0. -/
def refetchedFolio : Folio :=
  { st := .clean, scr := false, wmk := 1, start := 0, fin := 1, base := 0, key := 0,
    data := [(0, false)], mask := [0] }

/-- Core 0 with the one, and its cluster with the other. -/
def overtakenState : State :=
  { cores := [(0, { l1 := { folios := [overtakenFolio] } })], clusters := [(0, { l2 := { folios := [refetchedFolio] } })] }

/-- The masks of the folios of cluster 0's L2F. -/
def masksOf (s : State) : List (List Nat) := (s.cluster 0).l2.folios.map (·.mask)

/-- The last byte of the fill comes: the folio ends, loses the byte, and so leaves the L1F, and the mask of the L2F's folio names core 0 no
longer (R144). -/
theorem masksOf_overtaken : ∀ t, exec (.fillDataReturn 0 0 1) overtakenState = .next t → masksOf t = [[]] := by
  have h : (match exec (.fillDataReturn 0 0 1) overtakenState with | .next t => masksOf t == [[]] | _ => false) = true := by
    decide +kernel
  intro t ht
  rw [ht] at h
  exact beq_iff_eq.1 h

/-- Refutes O51: its second clause has a step of a fill leave every cluster as it was. The step that brings a fill's last bytes ends the
fill, and the bytes that were invalidated meanwhile then leave the L1F (R141), so that the mask of the L2F's folio is made anew
(R144): in `overtakenState` it loses core 0. What the clause lacks is the premise that the fill goes on, `g.wmk ≠ g.fin`, or that
nothing of it was invalidated, `f.drops = []`. -/
theorem not_memoryAndNetworkEvents : ¬ Obligations.MemoryAndNetworkEvents := by
  unfold Obligations.MemoryAndNetworkEvents
  intro h
  obtain ⟨-, hfill, -⟩ := h overtakenState
  obtain ⟨t, hnext, -, hclusters, -⟩ := hfill 0 0 1 overtakenFolio _ _ (by decide) rfl (by decide)
  have hmasks : masksOf t = masksOf overtakenState := by rw [masksOf, State.cluster, hclusters]; rfl
  rw [masksOf_overtaken t hnext] at hmasks
  exact absurd hmasks (by decide)

end Sys2Proof.Proofs

namespace Sys2Proof.Proofs

open Sys2Proof Sys2Proof.Machine

/-! ### A carrel of the module, set -/

@[simp] theorem carrel_setCarrel_same (s : State) (c i : Nat) (x : Carrel) : (s.setCarrel c i x).carrel c i = x := by
  simp [State.setCarrel, State.carrel]

/-- Another carrel is untouched by a change to one. -/
theorem carrel_setCarrel_of_ne (s : State) {c i d j : Nat} (x : Carrel) (h : (d, j) ≠ (c, i)) :
    (s.setCarrel c i x).carrel d j = s.carrel d j := by
  by_cases hd : c = d
  · have hj : i ≠ j := fun e => h (by rw [hd, e])
    simp [State.setCarrel, State.carrel, hd, hj]
  · simp [State.setCarrel, State.carrel, hd]

@[simp] theorem carrel_tellOs (s : State) (o : Output) (c i : Nat) : (s.tellOs o).carrel c i = s.carrel c i := rfl

/-! ### Taking a trap (R117, R119, R124) -/

/-- The carrel with its trap registers written and at the entry of the runtime or of the resident OS, before its level and its state
change. -/
def trapped (k : Carrel) (tvec : Va) (code : Nat) (tval : Word) : Carrel :=
  { k with
    epc := k.groupPc, cause := causeWord code k.hints.length, tval := tval,
    plv := k.lv, hints := [], park := none, prioTried := false, bufs := [], barr := none,
    loads := k.loads.filter fun l => l.dest != .buffer,
    pc := tvec }

section
variable {s : State} {c i : Nat}

theorem takeTrap_of_handler (h : (s.carrel c i).lv = 0) (code : Nat) (v : Word) : takeTrap s c i code v =
    s.setCarrel c i { trapped (s.carrel c i) (s.ctx (s.core c).ctx).tvec code v with lv := 1, st := .runtime } := by
  have hruntime : (s.carrel c i).lv ≠ 1 := by rw [h]; decide
  have hresident : (s.carrel c i).lv ≠ 2 := by rw [h]; decide
  exact (if_neg hruntime).trans (if_neg hresident)

theorem takeTrap_of_runtime (h : (s.carrel c i).lv = 1) (code : Nat) (v : Word) :
    takeTrap s c i code v = doubleTrap s c i code v := if_pos h

theorem takeTrap_of_resident (h : (s.carrel c i).lv = 2) (code : Nat) (v : Word) :
    takeTrap s c i code v = s.setCarrel c i (trapped (s.carrel c i) (s.ctx (s.core c).ctx).tvec code v) := by
  have hruntime : (s.carrel c i).lv ≠ 1 := by rw [h]; decide
  exact (if_neg hruntime).trans (if_pos h)

end

/-- CAUSE holds the code in its ten low bits and HN above them (R117). -/
theorem toNat_causeWord {code hn : Nat} (hcode : code < 1024) (hhn : hn < 4) :
    (causeWord code hn).toNat = 1024 * hn + code := by
  rw [causeWord, BitVec.toNat_ofNat]; omega

/-- Settles O17: the carrel that a trap leaves, at each of the three levels. -/
theorem trapEntry : Obligations.TrapEntry := by
  unfold Obligations.TrapEntry
  refine ⟨fun s c i code v => ?handler, fun s c i code v => ⟨fun hlv => ?double, fun hlv => ?resident⟩⟩
  case handler =>
    intro k t k' hlv
    have ht : t = s.setCarrel c i { trapped k (s.ctx (s.core c).ctx).tvec code v with lv := 1, st := .runtime } :=
      takeTrap_of_handler hlv code v
    have hk : k' = { trapped k (s.ctx (s.core c).ctx).tvec code v with lv := 1, st := .runtime } :=
      (congrArg (State.carrel · c i) ht).trans (carrel_setCarrel_same ..)
    rw [ht, hk]
    exact ⟨rfl, toNat_causeWord, rfl, hlv, rfl, rfl, rfl, rfl, rfl, rfl, rfl, rfl, rfl, rfl, rfl, rfl⟩
  case double =>
    rw [takeTrap_of_runtime hlv, doubleTrap]
    exact ⟨by rw [carrel_tellOs, carrel_setCarrel_same], rfl, rfl, rfl,
      fun d j hother => (carrel_tellOs ..).trans (carrel_setCarrel_of_ne s _ hother)⟩
  case resident =>
    rw [takeTrap_of_resident hlv, carrel_setCarrel_same]
    exact ⟨hlv, hlv, rfl, rfl, rfl, rfl, rfl, rfl⟩

end Sys2Proof.Proofs

namespace Sys2Proof.Proofs

open Sys2Proof Sys2Proof.Machine

/-! ### The end of an activation (R30, R44, R126) -/

section
variable (k : Core) (i cyc : Nat)

theorem carrel_endActivation : (k.endActivation i cyc).carrel i = (k.carrel i).freed cyc := by
  rw [Core.endActivation, carrel_setCarrel, if_pos rfl]

theorem id_ne_of_mem_inbox_endActivation {e : InboxEnt} (h : e ∈ (k.endActivation i cyc).inbox) : e.id ≠ (k.carrel i).entry :=
  of_decide_eq_true (List.mem_filter.1 h).2

@[simp] theorem queue_endActivation : (k.endActivation i cyc).queue = k.queue := rfl

theorem tagOf_endActivation (t : Nat) : (k.endActivation i cyc).tagOf t =
    if (k.carrel i).tag = t then { k.tagOf t with act := (k.tagOf t).act - 1 } else k.tagOf t := by
  have hlater : (k.endActivation i cyc).tagOf t = (k.laterTag (k.carrel i).tag
      { k.tagOf (k.carrel i).tag with act := (k.tagOf (k.carrel i).tag).act - 1 }).tagOf t := rfl
  rw [hlater, tagOf_laterTag]
  split
  · next h => rw [h]
  · rfl

end

/-- Tainting a verdict changes a record at the hub and nothing else (R287). -/
theorem taint_frame (s : State) (c : Nat) : s.taint c = { s with hub := (s.taint c).hub } := by
  unfold State.taint State.modLaunch; split <;> rfl

section
variable (s : State) (c i : Nat)

@[simp] theorem cur_abandon : (abandon s c i).cur = s.cur := by rw [abandon, taint_frame]; rfl
@[simp] theorem mem_abandon : (abandon s c i).mem = s.mem := by rw [abandon, taint_frame]; rfl
theorem core_abandon : (abandon s c i).core c = (s.core c).endActivation i s.cycle := by
  rw [abandon, taint_frame, State.modCore, core_setCore, if_pos rfl]; rfl

end

/-- The core of an executing carrel that abandons its activation. -/
theorem myCore_abandon (s : State) : (abandon s s.cur.1 s.cur.2).myCore = s.myCore.endActivation s.cur.2 s.cycle := by
  rw [State.myCore, cur_abandon, core_abandon]; rfl

/-- The carrel of an activation that it abandons. -/
theorem me_abandon (s : State) : (abandon s s.cur.1 s.cur.2).me = s.me.freed s.cycle := by
  have hcarrel : (abandon s s.cur.1 s.cur.2).me = (abandon s s.cur.1 s.cur.2).myCore.carrel s.cur.2 := by
    rw [State.me, State.carrel, cur_abandon, State.myCore, cur_abandon]
  rw [hcarrel, myCore_abandon, carrel_endActivation]; rfl

/-! ### ERET (R120, R126, R354) -/

/-- A word that leaves its activation answers the state that its operation leaves. -/
theorem runWord_exit {i : Instr} {o : OpSpec} {s t : State} {body : State → List TCap → WordRes} (hissue : issuable i s = true)
    (hready : sourcesReady o s = true) (hdest : o.dc = none) (hbody : body s (readSources s.me o.cs) = .exit t) :
    runWord i o s body = .next t := by
  rw [runWord_of_issuable hissue, runOps_of_no_cause hready hbody rfl (by simp [hdest])]
  rfl

/-- What a return from a trap does to the carrel: its level and its state are those from before the trap (R120). -/
def returned (x : Carrel) : Carrel := { x with lv := x.plv, st := if x.plv = 1 then .runtime else .running }

/-- The activation is abandoned, and with it the other execution of a pair (R126, R286). -/
def abandoned (s : State) : State :=
  match (if s.me.pair then partner s s.cur.1 s.cur.2 else none) with
  | some (d, j) => abandon (abandon s s.cur.1 s.cur.2) d j
  | none => abandon s s.cur.1 s.cur.2

theorem abandoned_of_alone {s : State} (h : s.me.pair = false) : abandoned s = abandon s s.cur.1 s.cur.2 := by
  simp [abandoned, h]

/-- What ERET comes to. -/
def eretStep (s : State) : WordRes :=
  afterLoads s <| if causeIsAbortive s.me.cause then .exit (abandoned s) else .jump (s.modMe returned) s.me.epc

theorem exec_eret (s : State) : exec .eret s = runWord .eret {} s fun s _ => eretStep s := rfl

theorem eretStep_of_abortive {s : State} (hsettled : s.me.settled = true) (h : causeIsAbortive s.me.cause = true) :
    eretStep s = .exit (abandoned s) := by
  rw [eretStep, afterLoads, if_pos hsettled, if_pos h]

theorem eretStep_of_returning {s : State} (hsettled : s.me.settled = true) (h : causeIsAbortive s.me.cause = false) :
    eretStep s = .jump (s.modMe returned) s.me.epc := by
  rw [eretStep, afterLoads, if_pos hsettled, h]; rfl

/-- Settles O18: ERET jumps to EPC at the level of PLV, or leaves the activation abandoned. -/
theorem eretReturns : Obligations.EretReturns := by
  unfold Obligations.EretReturns
  intro s hissue hsettled
  refine ⟨fun hcause => ?returns, fun hcause halone => ⟨abandon s s.cur.1 s.cur.2, ?abandons, ?state⟩⟩
  case returns =>
    rw [exec_eret]
    exact runWord_jump (o := {}) hissue (sourcesReady_nothing s) (eretStep_of_returning hsettled hcause) (fun _ hd => by cases hd)
  case abandons =>
    rw [exec_eret, runWord_exit hissue (sourcesReady_nothing s) rfl (eretStep_of_abortive hsettled hcause), abandoned_of_alone halone]
  case state =>
    rw [me_abandon, myCore_abandon, mem_abandon]
    refine ⟨rfl, rfl, fun e he => id_ne_of_mem_inbox_endActivation _ _ _ he, queue_endActivation .., rfl, ?act⟩
    rw [tagOf_endActivation]
    exact congrArg HTag.act (if_pos rfl)

end Sys2Proof.Proofs

namespace Sys2Proof.Proofs

open Sys2Proof Sys2Proof.Machine

/-! ### Words that raise a cause of class 1 (R121) -/

/-- A word with a cause of class 1 traps at issue, whatever its sources hold. -/
theorem runWord_of_classOne {i : Instr} {o : OpSpec} {s : State} {body : State → List TCap → WordRes} {c : Nat} {v : Word}
    (hissues : s.me.issues = true) (htwin : (isSync i && isTwin s) = false) (hprimary : isPrimary s = false)
    (hclass : classOne s i = some (c, v)) (hsettled : s.me.settled = true) :
    runWord i o s body = .next (takeTrap s s.cur.1 s.cur.2 c v) := by
  rw [runWord, hissues, htwin, wordRes, hclass]
  simp only [Bool.not_true, Bool.false_eq_true, if_false, complete, recordSync_of_not_primary hprimary, raise, hsettled, if_true]
  rfl

/-- A legal word below its level raises 0x042 (R67, R120). -/
theorem classOne_of_levelBad {i : Instr} {s : State} (hlegal : illegalNow s i = none) (hlevel : levelBad s.me.lv.toNat i = true) :
    classOne s i = some (0x042, (encode i).setWidth 64) := by
  rw [classOne, hlegal]; exact if_pos hlevel

/-- Every word that some level does not permit is run as a word with sources and an operation. -/
theorem exec_of_levelBad {i : Instr} {lv : Nat} (h : levelBad lv i = true) (s : State) :
    ∃ o body, exec i s = runWord i o s body := by
  cases i with
  | sysr d n => exact ⟨_, _, rfl⟩
  | sysw a n => exact ⟨_, _, rfl⟩
  | syswRttw a => exact ⟨_, _, rfl⟩
  | syswTwin a => exact ⟨_, _, rfl⟩
  | syswScpbase a => exact ⟨_, _, rfl⟩
  | eret => exact ⟨_, _, rfl⟩
  | rtinv a => exact ⟨_, _, rfl⟩
  | halt => exact ⟨_, _, rfl⟩
  | _ => exact Bool.noConfusion h

/-- A word below its level raises 0x042 with itself as TVAL and has no effect. -/
theorem traps_of_levelBad {i : Instr} {s : State} (hlevel : levelBad s.me.lv.toNat i = true) (hissues : s.me.issues = true)
    (hlegal : illegalNow s i = none) (htwin : (isSync i && isTwin s) = false) (hprimary : isPrimary s = false) :
    Traps i s 0x042 ((encode i).setWidth 64) := by
  intro hsettled
  obtain ⟨o, body, hexec⟩ := exec_of_levelBad hlevel s
  rw [hexec]
  exact runWord_of_classOne hissues htwin hprimary (classOne_of_levelBad hlegal hlevel) hsettled

/-! ### TRAP and words that are no instruction (R85, R129, R399) -/

theorem exec_trap (c : BitVec 12) (s : State) :
    exec (.trap c) s = runWord (.trap c) {} s fun _ _ => .trap (0x340 + c.toNat % 64) (c.setWidth 64) := rfl

/-- The causes of TRAP are those of class 13. -/
theorem causeRank_trap (n : Nat) : causeRank (0x340 + n % 64) = 3 := by
  have hclass : (0x340 + n % 64) / 64 = 13 := by omega
  rw [causeRank, hclass]; rfl

theorem illegalInstruction_traps {s : State} {w : Insn} (hissues : s.me.issues = true) :
    Traps (.illegalInstruction w) s 0x041 (w.setWidth 64) := by
  intro hsettled
  have hexec : exec (.illegalInstruction w) s = execIllegalInstruction w s := rfl
  rw [hexec, execIllegalInstruction, hissues, raise, if_pos hsettled]; rfl

/-- Settles O19: TRAP's cause is its operation's, and each word of the two lists is below its level where the statement says so. -/
theorem exceptionWords : Obligations.ExceptionWords := by
  unfold Obligations.ExceptionWords
  refine ⟨fun s c w => ⟨fun hissue hsettled => ?trap, illegalInstruction_traps⟩, fun s d a => ?level⟩
  case trap =>
    have hrank : causeRank (0x340 + c.toNat % 64) < 4 := by rw [causeRank_trap]; decide
    rw [exec_trap, runWord_trap hissue (sourcesReady_nothing s) rfl rfl rfl hrank hsettled]
  case level =>
    intro low high i hlevel hissues hlegal htwin hprimary
    have hlow : ∀ i ∈ low, levelBad 0 i = true := by
      simp [low, levelBad, levelOf, sysReadLevel, sysWriteLevel]
    have hhigh : ∀ i ∈ high, ∀ lv < 2, levelBad lv i = true := by
      simp [high, levelBad, levelOf, sysWriteLevel]
    have hbad : levelBad s.me.lv.toNat i = true := by
      obtain ⟨hi, hlv⟩ | ⟨rfl | rfl, hlv⟩ | ⟨hi, hlv⟩ := hlevel
      · rw [hlv]; exact hlow i hi
      · rw [hlv]; rfl
      · rw [hlv]; rfl
      · exact hhigh i hi _ hlv
    exact traps_of_levelBad hbad hissues hlegal htwin hprimary

end Sys2Proof.Proofs

namespace Sys2Proof.Proofs

open Sys2Proof Sys2Proof.Machine

/-! ### WBRI of part of a Dirty folio in a full set (R138, R143, R152, R365) -/

/-- WBRI of one granule part, as the word does it: the Dirty bytes go to memory, and the part leaves the caches. -/
def copyBackAndRemove (t : State) (p : GranPart) : State :=
  removePart (copyBackPart t (clusterOf t.cur.1) p) (clusterOf t.cur.1) p

/-- WBRI of one granule part, as the statement has it: the Dirty bytes go to memory and stay, Clean, as WBR leaves them, and the part
leaves the caches. -/
def cleanAndRemove (t : State) (p : GranPart) : State :=
  removePart (writeBackPart t (clusterOf t.cur.1) p) (clusterOf t.cur.1) p

/-- WBRI whose checks pass copies the Dirty bytes of each part of its extent to memory and removes the part (R365). -/
theorem wbri_completes {s t : State} {a b : Reg} {addr len : Nat} {qs : List GranPart}
    (hissue : issuable (.wbri a b) s = true) (hready : sourcesReady { cs := [a, b] } s = true)
    (haddr : capAddr (src (readSources s.me [a, b]) 0).val = addr) (hlen : (operand s [a, b] 1).toNat = len) (hpos : len ≠ 0)
    (hcheck : capCheck s s.cur.1 (src (readSources s.me [a, b]) 0) addr len permW = none) (hegress : egressOf s addr len = none)
    (hparts : granParts s addr .write false (extentOf s addr len) = (t, .ok qs)) (hsettled : t.me.settled = true)
    (hqueue : queueWrites t addr len (qs.filter fun p => !p.cistern && hasDram p.pa) = false) :
    exec (.wbri a b) s =
      .next (completed ((qs.filter fun p => !p.cistern && hasDram p.pa).foldl copyBackAndRemove t) [a, b]) := by
  subst haddr hlen
  rw [operand] at hpos hcheck hegress hparts hqueue
  refine runWord_done_plain hissue hready ?_ rfl rfl
  simp only [hpos, if_false, hcheck, Bool.false_and, Bool.false_eq_true, hegress, hparts, hsettled, hqueue, Bool.not_true, Bool.or_false]
  rfl

/-- The end of a word leaves the clusters as they are. -/
theorem clusters_completed (t : State) (cs : List Reg) : (completed t cs).clusters = t.clusters := by
  have hpop : (popAll t cs).clusters = t.clusters := by
    unfold popAll
    split
    · exact clusters_modMe ..
    · rfl
  exact (clusters_modMe ..).trans hpop

/-- One of eight abutting folios of 32 bytes of physical granule 3; the first is Dirty. -/
def abuttingFolio (n : Nat) : Folio :=
  { st := if n = 0 then .dirty else .clean, scr := false, wmk := 32 * n + 32, start := 32 * n, fin := 32 * n + 32, base := n, key := 3,
    data := List.replicate 32 (0, false) }

/-- A carrel with a capability over virtual granule 1 in c1 and a length of 16 in c2. -/
def rangeCarrel : Carrel :=
  { st := .running, regs := [(1, { val := mkCap 0x3FF 0 0 0x1000 0x1000, tag := true }), (2, { val := 16 })] }

/-- Core 0 with that carrel, in a context whose range table maps virtual granule 1 to physical granule 3, and the L2F of its cluster
with the eight folios, which fill their set. -/
def fullSetState : State :=
  { cores := [(0, { ctx := 1, carrels := [(0, rangeCarrel)] })], ctxs := [(1, { rtBase := 0x1000, rtCount := 1 })],
    mem := [(0x1008, 16), (0x1010, 2), (0x1018, 0xF)], clusters := [(0, { l2 := { folios := (List.range 8).map abuttingFolio } })] }

/-- The state in which the extent has been translated. -/
def fullSetTranslated : State := (granParts fullSetState 0x1000 .write false (extentOf fullSetState 0x1000 16)).1

/-- The extent's one part: half of the Dirty folio. -/
def dirtyHalf : GranPart := { pa := 0x3000, len := 16, window := false, cistern := false }

theorem granParts_fullSetState :
    granParts fullSetState 0x1000 .write false (extentOf fullSetState 0x1000 16) = (fullSetTranslated, .ok [dirtyHalf]) :=
  Prod.ext rfl (by decide +kernel)

theorem filter_dirtyHalf : ([dirtyHalf].filter fun p => !p.cistern && hasDram p.pa) = [dirtyHalf] := by decide

/-- Where the folios of cluster 0's L2F begin and end. -/
def extentsOf (s : State) : List (Nat × Nat) := (s.cluster 0).l2.folios.map fun f => (f.start, f.fin)

theorem extentsOf_completed (t : State) (cs : List Reg) : extentsOf (completed t cs) = extentsOf t := by
  rw [extentsOf, State.cluster, clusters_completed]; rfl

/-- Removing the bytes shortens the Dirty folio, which takes no way: the other folios stay as they are (R141). -/
theorem extentsOf_copyBackAndRemove : extentsOf (copyBackAndRemove fullSetTranslated dirtyHalf) =
    [(16, 32), (32, 64), (64, 96), (96, 128), (128, 160), (160, 192), (192, 224), (224, 256)] := by decide +kernel

/-- Splitting the Dirty folio into a Clean and a Dirty part takes a way, for which two Clean folios coalesce (R138, step 2). -/
theorem extentsOf_cleanAndRemove : extentsOf (cleanAndRemove fullSetTranslated dirtyHalf) =
    [(32, 96), (16, 32), (96, 128), (128, 160), (160, 192), (192, 224), (224, 256)] := by decide +kernel

/-- Refutes O33: its clause on WBRI has each part written back as WBR does it, `writeBackPart`, before it is removed. WBR keeps the
bytes, and splits a folio that lies only partly in the extent; in `fullSetState` the split needs a way, and two other folios coalesce.
WBRI itself keeps no bytes (R143): it copies them back, `copyBackPart`, and the cut that removes them needs no way. What the clause
should name is the state of `wbri_completes`. -/
theorem not_rangeWords : ¬ Obligations.RangeWords := by
  unfold Obligations.RangeWords
  intro h
  have hissue : issuable (.wbri 1 2) fullSetState = true := by decide +kernel
  have hready : sourcesReady { cs := [1, 2] } fullSetState = true := by decide +kernel
  have haddr : capAddr (src (readSources fullSetState.me [1, 2]) 0).val = 0x1000 := by decide +kernel
  have hlen : (operand fullSetState [1, 2] 1).toNat = 16 := by decide +kernel
  have hcheck : capCheck fullSetState fullSetState.cur.1 (src (readSources fullSetState.me [1, 2]) 0) 0x1000 16 permW = none := by
    decide +kernel
  have hegress : egressOf fullSetState 0x1000 16 = none := by decide +kernel
  have hsettled : fullSetTranslated.me.settled = true := by decide +kernel
  have hqueue : queueWrites fullSetTranslated 0x1000 16 [dirtyHalf] = false := by decide +kernel
  have hmodel := wbri_completes hissue hready haddr hlen (by decide) hcheck hegress granParts_fullSetState hsettled
    (filter_dirtyHalf ▸ hqueue)
  rw [filter_dirtyHalf] at hmodel
  have hclaims := h fullSetState 1 2
  simp only [haddr, hlen] at hclaims
  obtain ⟨-, -, -, hwbri, -⟩ := hclaims
  obtain ⟨-, hwritten⟩ := hwbri ⟨hissue, hready⟩
  have hclaim := hwritten fullSetTranslated [dirtyHalf]
    ⟨by decide, hcheck, hegress, [dirtyHalf], granParts_fullSetState, filter_dirtyHalf.symm⟩ hsettled hqueue
  rw [hmodel] at hclaim
  have hstate : completed (copyBackAndRemove fullSetTranslated dirtyHalf) [1, 2] =
      completed (cleanAndRemove fullSetTranslated dirtyHalf) [1, 2] := by injection hclaim
  have hextents := congrArg extentsOf hstate
  rw [extentsOf_completed, extentsOf_completed, extentsOf_copyBackAndRemove, extentsOf_cleanAndRemove] at hextents
  exact absurd hextents (by decide)

end Sys2Proof.Proofs

namespace Sys2Proof.Proofs

open Sys2Proof Sys2Proof.Machine

/-! ### The entries of the dies through the caches (R154): a write of an L2F, an eviction from it and a removal leave them as they are

What a granted write does to the module changes a die's masks and its inbox; its entries stay those of `E`. -/

/-- The entries of each die are those of `E`. -/
structure EntriesAre (E : Nat → List CatEntry) (s : State) : Prop where
  entries : ∀ d, (s.die d).entries = E d

section
variable {E : Nat → List CatEntry} {s : State}

theorem EntriesAre.of_dies_eq {t : State} (h : EntriesAre E s) (hdies : t.dies = s.dies) : EntriesAre E t :=
  ⟨fun d => by rw [← h.entries d, State.die, State.die, hdies]⟩

theorem entriesAre_foldl {α : Type} {f : State → α → State} (hf : ∀ s a, EntriesAre E s → EntriesAre E (f s a)) (l : List α)
    (h : EntriesAre E s) : EntriesAre E (l.foldl f s) := foldl_keeps hf l h

theorem entriesAre_modDie (h : EntriesAre E s) (die : Nat) {f : Die → Die} (hf : ∀ d, (f d).entries = d.entries) :
    EntriesAre E (s.modDie die f) := by
  refine ⟨fun d => ?_⟩
  rw [← h.entries d, State.die, State.modDie, State.setDie, fgetD_fset]
  split
  · next e => rw [hf, e]
  · rfl

theorem dies_modCache (s : State) (r : CacheRef) (f : Cache → Cache) : (s.modCache r f).dies = s.dies := by
  cases r <;> rfl

theorem entriesAre_modCache (h : EntriesAre E s) (r : CacheRef) (f : Cache → Cache) : EntriesAre E (s.modCache r f) :=
  h.of_dies_eq (dies_modCache s r f)

theorem entriesAre_refreshMask (h : EntriesAre E s) (k key : Nat) : EntriesAre E (refreshMask s k key) := h.of_dies_eq rfl

section
variable {ev : State → Folio → State} (hev : ∀ s f, EntriesAre E s → EntriesAre E (ev s f))
include hev

theorem entriesAre_makeRun (r : CacheRef) (n : Nat) (keep : List Folio) (fuel : Nat) {s : State} (h : EntriesAre E s)
    {p : State × Nat} (hp : makeRun ev r n keep fuel s = some p) : EntriesAre E p.1 := by
  fun_induction makeRun <;> grind [Option.map_eq_some_iff]

theorem entriesAre_mergeStep (h : EntriesAre E s) (r : CacheRef) (key : Nat) {t : State} (ht : mergeStep ev s r key = some t) :
    EntriesAre E t := by
  obtain ⟨⟨f, g⟩, -, hpair⟩ := List.exists_of_findSome?_eq_some ht
  obtain ⟨u, hu, rfl⟩ := Option.map_eq_some_iff.mp hpair
  have hjoined : EntriesAre E u := by
    split at hu
    · cases hu
      exact entriesAre_modCache h _ _
    · obtain ⟨⟨v, b⟩, hrun, rfl⟩ := Option.map_eq_some_iff.mp hu
      exact entriesAre_modCache (entriesAre_makeRun hev r _ _ _ h hrun) _ _
  cases r with
  | l1 _ => exact hjoined
  | l2 k => exact entriesAre_refreshMask hjoined k _

theorem entriesAre_freeWays (r : CacheRef) (key n fuel : Nat) {s : State} (h : EntriesAre E s) {t : State}
    (ht : freeWays ev r key n fuel s = some t) : EntriesAre E t := by
  fun_induction freeWays <;> grind [entriesAre_mergeStep]

theorem entriesAre_makeWay (h : EntriesAre E s) (r : CacheRef) (key : Nat) {t : State} (ht : makeWay ev s r key = some t) :
    EntriesAre E t := by
  unfold makeWay at ht
  split at ht
  · next hways => exact entriesAre_freeWays hev r key 1 8 h (hways.trans ht)
  · obtain ⟨f, -, rfl⟩ := Option.map_eq_some_iff.mp ht
    exact hev s f h

theorem entriesAre_newFolio (h : EntriesAre E s) (r : CacheRef) (f : Folio) (lru : Bool) {t : State}
    (ht : newFolio ev s r f lru = some t) : EntriesAre E t := by
  unfold newFolio at ht
  split at ht
  · cases ht
  · next u hway =>
    obtain ⟨⟨v, b⟩, hrun, rfl⟩ := Option.map_eq_some_iff.mp ht
    exact entriesAre_modCache (entriesAre_makeRun hev r _ _ _ (entriesAre_makeWay hev h r _ hway) hrun) _ _

theorem entriesAre_cutFolios {lost : State → Folio → List Folio → State}
    (hlost : ∀ s f fs, EntriesAre E s → EntriesAre E (lost s f fs))
    (r : CacheRef) (key lo hi : Nat) (win : Bool) (fuel : Nat) {s : State} (h : EntriesAre E s) :
    EntriesAre E (cutFolios ev lost r key lo hi win fuel s) := by
  fun_induction cutFolios <;> grind [entriesAre_mergeStep, entriesAre_modCache]

end

theorem entriesAre_evictL1 (h : EntriesAre E s) (c : Nat) (f : Folio) : EntriesAre E (evictL1 s c f) := h.of_dies_eq rfl

theorem entriesAre_removeL1 (h : EntriesAre E s) (c key lo hi : Nat) (win : Bool) : EntriesAre E (removeL1 s c key lo hi win) := by
  unfold removeL1
  grind [entriesAre_cutFolios, entriesAre_evictL1, entriesAre_modCache, entriesAre_refreshMask]

theorem entriesAre_removeFromL1s (h : EntriesAre E s) (k key lo hi : Nat) (win : Bool) :
    EntriesAre E (removeFromL1s s k key lo hi win) :=
  entriesAre_foldl (fun _ c hs => entriesAre_removeL1 hs c ..) _ h

theorem entriesAre_taintWriters (h : EntriesAre E s) (f : Folio) (ws : List Nat) : EntriesAre E (taintWriters s f ws) := by
  unfold taintWriters
  split
  · exact h
  · exact h.of_dies_eq rfl

theorem dies_writeMem (s : State) (a : Nat) (bs : List TByte) : (s.writeMem a bs).dies = s.dies := by
  induction bs generalizing a s with
  | nil => rfl
  | cons b bs ih => exact ih (s.setMemByte a b) (a + 1)

theorem entriesAre_storeMem (h : EntriesAre E s) (a : Nat) (bs : List TByte) : EntriesAre E (s.storeMem a bs) :=
  h.of_dies_eq (dies_writeMem s a bs)

theorem entriesAre_writeBack (h : EntriesAre E s) (k : Nat) (f : Folio) (lo hi : Nat) : EntriesAre E (writeBack s k f lo hi) :=
  (entriesAre_storeMem (entriesAre_taintWriters h f _) ..).of_dies_eq rfl

theorem entriesAre_sendEvn (h : EntriesAre E s) (k : Nat) (f : Folio) : EntriesAre E (sendEvn s k f) := by
  unfold sendEvn
  split
  · split
    · exact entriesAre_writeBack h ..
    · exact h
  · split
    · exact h.of_dies_eq rfl
    · refine entriesAre_foldl (fun t p ht => ?_) _ (entriesAre_taintWriters h ..)
      exact ht.of_dies_eq rfl

theorem entriesAre_leaveMasks (h : EntriesAre E s) (k key : Nat) : EntriesAre E (leaveMasks s k key) :=
  entriesAre_modDie h (key / 2 ^ 26 % 4) (f := fun d => { d with masks := d.masks.map _ }) fun _ => rfl

theorem entriesAre_dropL2 (h : EntriesAre E s) (k : Nat) (f : Folio) : EntriesAre E (dropL2 s k f) :=
  entriesAre_leaveMasks (entriesAre_removeFromL1s (entriesAre_modCache h _ _) ..) ..

theorem entriesAre_evictL2 (h : EntriesAre E s) (k : Nat) (f : Folio) : EntriesAre E (evictL2 s k f) :=
  entriesAre_dropL2 (entriesAre_sendEvn h k f) k f

theorem entriesAre_loseL2 (h : EntriesAre E s) (k : Nat) (f : Folio) (parts : List Folio) : EntriesAre E (loseL2 s k f parts) :=
  entriesAre_dropL2 (entriesAre_foldl (fun _ p hs => entriesAre_sendEvn hs k p) _ h) k f

theorem entriesAre_removeL2 (h : EntriesAre E s) (k key lo hi : Nat) (win tell : Bool) :
    EntriesAre E (removeL2 s k key lo hi win tell).1 := by
  unfold removeL2
  grind [entriesAre_cutFolios, entriesAre_evictL2, entriesAre_leaveMasks, entriesAre_loseL2, entriesAre_modCache,
    entriesAre_removeFromL1s]

theorem entriesAre_copyBack (h : EntriesAre E s) (k key lo hi : Nat) (win : Bool) : EntriesAre E (copyBack s k key lo hi win) :=
  entriesAre_foldl (fun _ f hs => entriesAre_writeBack hs k f lo hi) _ h

theorem entriesAre_newL2 (h : EntriesAre E s) (k key lo hi : Nat) (st : FState) (data : List TByte) (p : Policy) {t : State}
    (ht : newL2 s k key lo hi st data p = some t) : EntriesAre E t := by
  obtain ⟨u, hu, rfl⟩ := Option.map_eq_some_iff.mp ht
  exact entriesAre_refreshMask (entriesAre_newFolio (fun _ f hs => entriesAre_evictL2 hs k f) h _ _ _ hu) ..

theorem entriesAre_stainWords (h : EntriesAre E s) (k key lo hi : Nat) (ws : List Nat) : EntriesAre E (stainWords s k key lo hi ws) := by
  unfold stainWords
  grind [entriesAre_modCache]

theorem entriesAre_updateL1s (h : EntriesAre E s) (k key : Nat) (bytes : List (Nat × TByte)) (lo hi : Nat) :
    EntriesAre E (updateL1s s k key bytes lo hi) :=
  entriesAre_foldl (fun _ _ ht => by split <;> [exact entriesAre_modCache ht _ _; exact ht]) _ h

theorem entriesAre_dirtyClean (k key lo hi : Nat) (own : Option (Nat × Nat)) (n : Nat) {s : State} (h : EntriesAre E s) :
    EntriesAre E (dirtyClean k key lo hi own n s) := by
  fun_induction dirtyClean <;> grind [entriesAre_mergeStep, entriesAre_evictL2, entriesAre_foldl, entriesAre_modCache,
    entriesAre_removeFromL1s, entriesAre_sendEvn]

theorem entriesAre_writeHeld (h : EntriesAre E s) (k key lo : Nat) (bs : List TByte) (p : Policy) :
    EntriesAre E (writeHeld s k key lo bs p) :=
  entriesAre_updateL1s (entriesAre_refreshMask (entriesAre_modCache (entriesAre_dirtyClean _ _ _ _ _ _ h) _ _) ..) ..

theorem entriesAre_addDirty (h : EntriesAre E s) (k key lo : Nat) (bs : List TByte) (p : Policy) {t : State}
    (ht : addDirty s k key lo bs p = some t) : EntriesAre E t := by
  unfold addDirty at ht
  grind [entriesAre_modCache, entriesAre_newL2, entriesAre_refreshMask]

theorem entriesAre_staleReads (h : EntriesAre E s) (k pa len : Nat) : EntriesAre E (staleReads s k pa len) := h.of_dies_eq rfl

/-- Bytes are added run after run, as long as each finds a way. -/
theorem entriesAre_foldl_bind {α : Type} {f : State → α → Option State}
    (hf : ∀ s a t, EntriesAre E s → f s a = some t → EntriesAre E t) (l : List α) {o : Option State} {t : State}
    (ho : ∀ u, o = some u → EntriesAre E u) (ht : l.foldl (fun o a => o.bind fun s => f s a) o = some t) : EntriesAre E t :=
  foldl_keeps (P := fun o => ∀ u, o = some u → EntriesAre E u) (fun o a hP u hu => by
    obtain ⟨v, hv, hu⟩ := Option.bind_eq_some_iff.mp hu
    exact hf v a u (hP v hv) hu) l ho t ht

theorem entriesAre_placeWrite (h : EntriesAre E s) (k key lo : Nat) (bs : List TByte) (p : Policy) {t : State}
    (ht : placeWrite s k key lo bs p = some t) : EntriesAre E t :=
  entriesAre_foldl_bind (f := fun s (a : Nat × Nat) => addDirty s k key a.1 ((bs.drop (a.1 - lo)).take (a.2 - a.1)) p)
    (fun _ _ _ hs hu => entriesAre_addDirty hs _ _ _ _ _ hu) _
    (fun _ hu => Option.some.inj hu ▸ entriesAre_staleReads (entriesAre_writeHeld h k key lo bs p) _ _ _) ht

theorem fget_map_snd {α : Type} (m : FMap α) (f : α → α) (k : Nat) : fget (m.map fun p => (p.1, f p.2)) k = (fget m k).map f := by
  induction m with
  | nil => rfl
  | cons p m ih =>
    simp only [List.map_cons, fget]
    split
    · rfl
    · exact ih

theorem entriesAre_modFlying (h : EntriesAre E s) (g : CatMsg → CatMsg) : EntriesAre E (s.modFlying g) := by
  refine ⟨fun d => ?_⟩
  have hdie : (s.modFlying g).die d =
      ((fget s.dies d).map fun x => { x with inbox := x.inbox.map g : Die }).getD {} :=
    congrArg (fun o => o.getD ({} : Die)) (fget_map_snd s.dies (fun x => { x with inbox := x.inbox.map g }) d)
  rw [hdie, ← h.entries d, State.die, fgetD]
  cases fget s.dies d <;> rfl

theorem entriesAre_overtake (h : EntriesAre E s) (pa len : Nat) : EntriesAre E (overtake s pa len) := by
  unfold overtake
  grind [entriesAre_modFlying]

/-! ### The write that a GRANT stands for, at the home (R157, R333) -/

theorem entriesAre_flushOwn (h : EntriesAre E s) (k pa len : Nat) : EntriesAre E (flushOwn s k pa len) :=
  entriesAre_foldl (fun _ _ hs => entriesAre_removeL2 (entriesAre_copyBack hs ..) ..) _ h

theorem entriesAre_writeDivided (h : EntriesAre E s) (k pa : Nat) (bs : List TByte) (p : Policy) :
    EntriesAre E (writeDivided s k pa bs p) :=
  entriesAre_foldl (fun _ _ hs => entriesAre_storeMem hs ..) _ 
    (entriesAre_staleReads (entriesAre_writeHeld h ..) ..)

theorem entriesAre_modEntry (h : EntriesAre E s) (core id : Nat) (f : Entry → Entry) : EntriesAre E (modEntry s core id f) :=
  h.of_dies_eq rfl

theorem entriesAre_placeGranted (h : EntriesAre E s) (m : CatMsg) (pa : Nat) (bs : List TByte) (p : Policy) :
    EntriesAre E (placeGranted s m pa bs p) := by
  unfold placeGranted
  grind [entriesAre_placeWrite, entriesAre_writeDivided, entriesAre_overtake]

theorem entriesAre_storeGranted (h : EntriesAre E s) (m : CatMsg) (core : Nat) (e : Entry) (cells : List (Loc × Byte)) (tag : Bool) :
    EntriesAre E (storeGranted s m core e cells tag) := by
  unfold storeGranted
  grind [entriesAre_placeGranted, entriesAre_modEntry]

theorem entriesAre_amoGranted (h : EntriesAre E s) (m : CatMsg) (core : Nat) (e : Entry) (pa : Nat) (op : AmoOp) (size : Nat) (v : Word) :
    EntriesAre E (amoGranted s m core e pa op size v) := by
  unfold amoGranted
  grind [entriesAre_placeWrite, entriesAre_stainWords, entriesAre_modEntry, entriesAre_storeMem, entriesAre_overtake, entriesAre_flushOwn]

theorem entriesAre_putLoad (h : EntriesAre E s) (core carrel : Nat) (l : Outst) : EntriesAre E (putLoad s core carrel l) :=
  h.of_dies_eq rfl

theorem entriesAre_atomicL2 (h : EntriesAre E s) (core pa : Nat) (bs : List (TByte × Bool)) (l : Outst) (own : Option (Nat × Nat))
    {r : State × Outst} (hr : atomicL2 s core pa bs l own = some r) : EntriesAre E r.1 := by
  unfold atomicL2 at hr
  split at hr
  · cases hr
    exact h
  · split at hr
    · cases hr
      exact h
    · obtain ⟨t, ht, rfl⟩ := Option.map_eq_some_iff.mp hr
      exact entriesAre_placeWrite h _ _ _ _ _ ht

theorem entriesAre_atomicMem (h : EntriesAre E s) (pa : Nat) (bs : List (TByte × Bool)) (l : Outst) :
    EntriesAre E (atomicMem s pa bs l).1 := by
  unfold atomicMem
  grind [entriesAre_storeMem]

theorem entriesAre_atomicGranted (h : EntriesAre E s) (m : CatMsg) (core carrel : Nat) (l : Outst) :
    EntriesAre E (atomicGranted s m core carrel l) := by
  unfold atomicGranted
  split
  · next pa _ _ =>
    have hput : ∀ r : State × Outst, EntriesAre E r.1 → EntriesAre E (putLoad r.1 core carrel { r.2 with started := true }) :=
      fun _ hr => entriesAre_putLoad hr ..
    dsimp only
    split
    · next r hr =>
      refine hput r ?_
      split at hr
      · exact entriesAre_atomicL2 h _ _ _ _ _ hr
      · cases hr
    · exact hput _ (entriesAre_atomicMem (entriesAre_overtake (entriesAre_flushOwn h ..) ..) pa _ l)
  · exact h

theorem entriesAre_makeWrite (h : EntriesAre E s) (m : CatMsg) : EntriesAre E (makeWrite s m) := by
  unfold makeWrite
  split
  · exact h
  · split
    · split
      · exact entriesAre_atomicGranted h m ..
      · exact h
    · split
      · split
        · exact entriesAre_amoGranted h m ..
        · exact entriesAre_storeGranted h m ..
        · exact h
      · exact h
    · exact h

theorem entries_makeWrite (s : State) (m : CatMsg) (d : Nat) : ((makeWrite s m).die d).entries = (s.die d).entries :=
  (entriesAre_makeWrite ⟨fun _ => rfl⟩ m).entries d

end

end Sys2Proof.Proofs

namespace Sys2Proof.Proofs

open Sys2Proof Sys2Proof.Machine

/-! ### The parts of the module after an update -/

@[simp] theorem die_setDie_same (s : State) (d : Nat) (x : Die) : (s.setDie d x).die d = x := fgetD_fset_same ..
@[simp] theorem die_modDie_same (s : State) (d : Nat) (f : Die → Die) : (s.modDie d f).die d = f (s.die d) := die_setDie_same ..
@[simp] theorem cluster_setCluster_same (s : State) (k : Nat) (x : Cluster) : (s.setCluster k x).cluster k = x := fgetD_fset_same ..
@[simp] theorem cluster_modCluster_same (s : State) (k : Nat) (f : Cluster → Cluster) : (s.modCluster k f).cluster k = f (s.cluster k) :=
  cluster_setCluster_same ..

/-! ### Messages from homes and clusters (R156) -/

/-- The bytes that a catalogue flit carries. -/
def catBytes (f : Flit) : List TByte := match f.body with
  | .cat x => x.data
  | _ => []

theorem flits_sendToCluster (s : State) (m : CatMsg) :
    ∃ f, (sendToCluster s m).flits = s.flits ++ [f] ∧ f.dst = m.cluster ∧ f.body = .cat m := ⟨_, rfl, rfl, rfl⟩

@[simp] theorem mem_sendToCluster (s : State) (m : CatMsg) : (sendToCluster s m).mem = s.mem := rfl

@[simp] theorem entries_sendToCluster (s : State) (m : CatMsg) (d : Nat) : ((sendToCluster s m).die d).entries = (s.die d).entries :=
  (entriesAre_modDie (E := fun d => (s.die d).entries) ⟨fun _ => rfl⟩ m.die
    (f := fun d => { d with sendSeq := fset d.sendSeq m.cluster _ }) fun _ => rfl).entries d

theorem flits_sendToHome (s : State) (m : CatMsg) : ∃ f, (sendToHome s m).flits = s.flits ++ [f] ∧ f.body = .cat m := ⟨_, rfl, rfl⟩

theorem l2_sendToHome (s : State) (m : CatMsg) : ((sendToHome s m).cluster m.cluster).l2 = (s.cluster m.cluster).l2 := by
  change ((s.setCluster m.cluster { s.cluster m.cluster with sendSeq := _ }).cluster m.cluster).l2 = _
  rw [cluster_setCluster_same]

@[simp] theorem mem_sendAll (s : State) (ks : List Nat) (f : Nat → CatMsg) : (sendAll s ks f).mem = s.mem :=
  foldl_keeps (P := fun t : State => t.mem = s.mem) (fun t k (h : t.mem = s.mem) => (mem_sendToCluster t (f k)).trans h) ks rfl

@[simp] theorem entries_sendAll (s : State) (ks : List Nat) (f : Nat → CatMsg) (d : Nat) :
    ((sendAll s ks f).die d).entries = (s.die d).entries :=
  foldl_keeps (P := fun t : State => (t.die d).entries = (s.die d).entries) (fun _ _ h => by rw [entries_sendToCluster, h]) ks rfl

/-! ### DATA in the pieces that flits carry (R300) -/

theorem readMem_congr {s t : State} (hmem : t.mem = s.mem) (htags : t.memTags = s.memTags) (a n : Nat) :
    t.readMem a n = s.readMem a n := by
  induction n generalizing a with
  | zero => rfl
  | succ n ih => rw [State.readMem, State.readMem, ih, State.memByte, State.memByte, hmem, htags]

theorem readMem_add (s : State) (a n k : Nat) : s.readMem a (n + k) = s.readMem a n ++ s.readMem (a + n) k := by
  induction n generalizing a with
  | zero => simp [State.readMem]
  | succ n ih => rw [Nat.add_right_comm, State.readMem, State.readMem, ih (a + 1), List.cons_append, Nat.add_right_comm, Nat.add_assoc]

/-- A stretch of the bytes of memory is what memory holds there. -/
theorem take_drop_readMem (s : State) {pa len a n : Nat} (hlo : pa ≤ a) (hhi : a + n ≤ pa + len) :
    ((s.readMem pa len).drop (a - pa)).take n = s.readMem a n := by
  have hsplit : s.readMem pa len = s.readMem pa (a - pa) ++ (s.readMem a n ++ s.readMem (a + n) (pa + len - (a + n))) := by
    rw [← readMem_add, show s.readMem a = s.readMem (pa + (a - pa)) by rw [Nat.add_sub_cancel' hlo], ← readMem_add]
    congr 1
    omega
  rw [hsplit, List.drop_left' (readMem_length ..), List.take_left' (readMem_length ..)]

/-- Where piece `i` of an extent begins, and the piece before it ends. -/
def cutPoint (pa len i : Nat) : Nat := min (pa + len) (max pa ((pa / 64 + i) * 64))

theorem pieces_eq (pa : Nat) {len : Nat} (hlen : 0 < len) : pieces pa len =
    (List.range ((pa + len - 1) / 64 - pa / 64 + 1)).map fun i => (cutPoint pa len i, cutPoint pa len (i + 1) - cutPoint pa len i) := by
  rw [pieces, if_neg (by omega)]
  refine List.map_congr_left fun i hi => ?_
  have hi := List.mem_range.mp hi
  simp only [cutPoint, Prod.mk.injEq]
  omega

/-- A piece lies in the extent, and a flit can carry it. -/
theorem mem_pieces {pa len : Nat} {p : Nat × Nat} (hp : p ∈ pieces pa len) : pa ≤ p.1 ∧ p.1 + p.2 ≤ pa + len ∧ p.2 ≤ 64 := by
  by_cases hlen : len = 0
  · simp [pieces, hlen] at hp
  rw [pieces_eq pa (by omega)] at hp
  obtain ⟨i, -, rfl⟩ := List.mem_map.mp hp
  simp only [cutPoint]
  omega

/-- Reading from cut to cut is reading from the first to the last. -/
theorem flatMap_readMem_cuts (s : State) {c : Nat → Nat} (hc : Monotone c) (n : Nat) :
    ((List.range n).flatMap fun i => s.readMem (c i) (c (i + 1) - c i)) = s.readMem (c 0) (c n - c 0) := by
  induction n with
  | zero => simp [State.readMem]
  | succ n ih =>
    have h0 : c 0 ≤ c n := hc (Nat.zero_le n)
    have hn : c n ≤ c (n + 1) := hc (Nat.le_succ n)
    rw [List.range_succ, List.flatMap_append, ih, List.flatMap_singleton,
      show c (n + 1) - c 0 = (c n - c 0) + (c (n + 1) - c n) by omega, readMem_add, show c 0 + (c n - c 0) = c n by omega]

theorem monotone_cutPoint (pa len : Nat) : Monotone (cutPoint pa len) := by
  intro i j hij
  simp only [cutPoint]
  omega

/-- The pieces of an extent together are the extent. -/
theorem flatMap_readMem_pieces (s : State) (pa len : Nat) : ((pieces pa len).flatMap fun p => s.readMem p.1 p.2) = s.readMem pa len := by
  rcases Nat.eq_zero_or_pos len with rfl | hlen
  · rfl
  have hfirst : cutPoint pa len 0 = pa := by simp only [cutPoint]; omega
  have hlast : cutPoint pa len ((pa + len - 1) / 64 - pa / 64 + 1) = pa + len := by simp only [cutPoint]; omega
  rw [pieces_eq pa hlen, List.flatMap_map, flatMap_readMem_cuts s (monotone_cutPoint pa len), hfirst, hlast, Nat.add_sub_cancel_left]

/-- Pieces that are sent one after the other. -/
theorem flits_sendPieces (whole : CatMsg) (ps : List (Nat × Nat)) (s : State) :
    ∃ fs, (ps.foldl (fun t p => sendToCluster t (whole.piece p.1 p.2)) s).flits = s.flits ++ fs ∧
      (∀ f ∈ fs, f.dst = whole.cluster ∧ ∃ p ∈ ps, f.body = .cat (whole.piece p.1 p.2)) ∧
      fs.flatMap catBytes = ps.flatMap fun p => (whole.piece p.1 p.2).data := by
  induction ps generalizing s with
  | nil => exact ⟨[], by simp⟩
  | cons p ps ih =>
    obtain ⟨f, hflits, hdst, hbody⟩ := flits_sendToCluster s (whole.piece p.1 p.2)
    obtain ⟨fs, hrest, heach, hbytes⟩ := ih (sendToCluster s (whole.piece p.1 p.2))
    refine ⟨f :: fs, by rw [List.foldl_cons, hrest, hflits, List.append_assoc]; rfl, ?_, ?_⟩
    · intro g hg
      rcases List.mem_cons.mp hg with rfl | hg
      · exact ⟨hdst, p, List.mem_cons_self, hbody⟩
      · obtain ⟨hd, q, hq, hb⟩ := heach g hg
        exact ⟨hd, q, List.mem_cons_of_mem _ hq, hb⟩
    · rw [List.flatMap_cons, List.flatMap_cons, hbytes, catBytes, hbody]

/-- A flit that brings a piece of the answer to a read of memory. -/
def dataFlit (s : State) (m : CatMsg) (f : Flit) : Prop :=
  f.dst = m.cluster ∧ ∃ x, f.body = .cat x ∧ x.kind = .data ∧ x.req = m.req ∧ x.len ≤ 64 ∧ x.data = s.readMem x.pa x.len

/-- An answer that is the bytes of memory goes in pieces, each with the bytes of its own extent. -/
theorem flits_sendData {whole : CatMsg} {s : State} (hdata : whole.data = s.readMem whole.pa whole.len) (hkind : whole.kind = .data)
    (t : State) : ∃ fs, ((pieces whole.pa whole.len).foldl (fun t p => sendToCluster t (whole.piece p.1 p.2)) t).flits = t.flits ++ fs ∧
      (∀ f ∈ fs, dataFlit s whole f) ∧ fs.flatMap catBytes = s.readMem whole.pa whole.len := by
  have hpiece : ∀ p ∈ pieces whole.pa whole.len, (whole.piece p.1 p.2).data = s.readMem p.1 p.2 := fun p hp => by
    obtain ⟨hlo, hhi, -⟩ := mem_pieces hp
    rw [← take_drop_readMem s hlo hhi, ← hdata]; rfl
  obtain ⟨fs, hflits, heach, hbytes⟩ := flits_sendPieces whole (pieces whole.pa whole.len) t
  refine ⟨fs, hflits, fun f hf => ?_, ?_⟩
  · obtain ⟨hdst, p, hp, hbody⟩ := heach f hf
    exact ⟨hdst, _, hbody, hkind, rfl, (mem_pieces hp).2.2, hpiece p hp⟩
  · rw [hbytes, ← flatMap_readMem_pieces]
    exact List.flatMap_congr hpiece

end Sys2Proof.Proofs

namespace Sys2Proof.Proofs

open Sys2Proof Sys2Proof.Machine

/-! ### Which message a home takes (R156) -/

/-- A message that a home takes is of its kind; and of the entries that a request meets none is BUSY. -/
theorem of_homeTake {s : State} {die idx : Nat} {kind : CatKind} {m : CatMsg} (h : homeTake s die idx kind = some m) :
    m.kind = kind ∧ (kind.asks = true → ∀ e ∈ (s.die die).entries, e.meets m.pa (m.pa + m.len) = true → e.cur = none) := by
  simp only [homeTake] at h
  split at h
  · cases h
  · next x _ =>
    split at h
    · cases h
    · next hkind =>
      simp only [Bool.or_eq_true, decide_eq_true_eq, not_or, not_not] at hkind
      split at h
      · cases h
      · next hfree =>
        cases h
        refine ⟨hkind.1, fun hasks e he hmeets => ?_⟩
        rw [hkind.1, hasks] at hfree
        simp only [Bool.true_and, Bool.or_eq_true, not_or, Bool.not_eq_true, List.any_eq_false] at hfree
        simpa [hmeets] using hfree.2 e he

theorem takeRequest_of_homeTake {s : State} {die idx : Nat} {kind : CatKind} {m : CatMsg} (h : homeTake s die idx kind = some m) :
    takeRequest s die idx kind = .next (serveRequest (homeDrop s die idx) die m) := by
  rw [takeRequest, h]

@[simp] theorem entries_homeDrop (s : State) (die idx : Nat) : ((homeDrop s die idx).die die).entries = (s.die die).entries := by
  rw [homeDrop, die_modDie_same]

@[simp] theorem filter_homeDrop (s : State) (die idx : Nat) : ((homeDrop s die idx).die die).filter = (s.die die).filter := by
  rw [homeDrop, die_modDie_same]

/-! ### Entries for an extent (R156, R159) -/

theorem firstBare_eq_none {es : List CatEntry} {e : CatEntry} (he : e ∈ es) {lo hi : Nat} (hlo : e.lo ≤ lo) (hhi : hi ≤ e.hi) :
    firstBare es lo hi = none := by
  refine List.find?_eq_none.mpr fun a ha => ?_
  obtain ⟨i, hi', rfl⟩ := List.mem_map.mp ha
  have hi' := List.mem_range.mp hi'
  have hany : (es.any fun e => e.lo ≤ lo + i && lo + i < e.hi) = true :=
    List.any_eq_true.mpr ⟨e, he, by simp only [Bool.and_eq_true, decide_eq_true_eq]; omega⟩
  simp [hany]

/-- An extent that has its entry needs no new one. -/
theorem coverExtent_of_covered (d : Die) (cyc : Nat) {es : List CatEntry} {e : CatEntry} (he : e ∈ es) {lo hi : Nat} (hlo : e.lo ≤ lo)
    (hhi : hi ≤ e.hi) (fuel : Nat) : coverExtent d cyc lo hi fuel es = es := by
  cases fuel with
  | zero => rfl
  | succ fuel => rw [coverExtent, firstBare_eq_none he hlo hhi]

/-- The entry of the 64 KiB tract of an address, with no holder (log entry 85). -/
def freshTract (pa cyc : Nat) : CatEntry := { size := 10, tract := pa / 65536 * 1024, quiet := cyc }

theorem freshTract_lo (pa cyc : Nat) : (freshTract pa cyc).lo = pa / 65536 * 65536 := by
  simp only [CatEntry.lo, freshTract]; omega

theorem freshTract_hi (pa cyc : Nat) : (freshTract pa cyc).hi = pa / 65536 * 65536 + 65536 := by
  simp only [CatEntry.hi, freshTract]; omega

theorem firstBare_nil {lo hi : Nat} (h : lo < hi) : firstBare [] lo hi = some lo := by
  obtain ⟨n, hn⟩ : ∃ n, hi - lo = n + 1 := ⟨hi - lo - 1, by omega⟩
  simp [firstBare, hn, List.range_succ_eq_map]

theorem freeBlock_nil (pa : Nat) : freeBlock [] pa = 10 := by
  simp [freeBlock, List.range_succ]

/-- The first request of a tract makes one entry for it. -/
theorem coverExtent_nil {d : Die} (hfilter : d.filter = []) (cyc : Nat) {pa len : Nat} (hlen : 0 < len)
    (htract : pa / 65536 = (pa + len - 1) / 65536) : coverExtent d cyc pa (pa + len) 64 [] = [freshTract pa cyc] := by
  rw [coverExtent, firstBare_nil (by omega)]
  simp only [freeBlock_nil, hfilter, List.contains_nil, List.nil_append]
  exact coverExtent_of_covered d cyc (e := freshTract pa cyc) List.mem_cons_self (by rw [freshTract_lo]; omega)
    (by rw [freshTract_hi]; omega) 63

/-! ### A request at one entry, from its round to its answer (R157) -/

/-- A request lies in one tract. -/
def spans (e : CatEntry) (m : CatMsg) : Prop := e.lo ≤ m.pa ∧ m.pa + m.len ≤ e.hi ∧ 0 < m.len

theorem freshTract_spans {m : CatMsg} (cyc : Nat) (hlen : 0 < m.len) (htract : m.pa / 65536 = (m.pa + m.len - 1) / 65536) :
    spans (freshTract m.pa cyc) m :=
  ⟨by rw [freshTract_lo]; omega, by rw [freshTract_hi]; omega, hlen⟩

theorem meets_of_spans {e : CatEntry} {m : CatMsg} (h : spans e m) : e.meets m.pa (m.pa + m.len) = true := by
  obtain ⟨hlo, hhi, hlen⟩ := h
  simp only [CatEntry.meets, Bool.and_eq_true, decide_eq_true_eq]
  omega

theorem partOf_of_spans {e : CatEntry} {m : CatMsg} (h : spans e m) : partOf e m = (m.pa, m.pa + m.len) := by
  obtain ⟨hlo, hhi, -⟩ := h
  simp only [partOf, Prod.mk.injEq]
  omega

/-- The clusters that a request's round asks: the holders that it has to invalidate, or to fetch from, but for its requester. -/
def toAsk (e : CatEntry) (m : CatMsg) : List Nat := (if m.kind.owns then e.named else e.marked).filter (· ≠ m.cluster)

/-- An entry that is BUSY with a request, and waits for the clusters that it asks. -/
def busyWith (e : CatEntry) (m : CatMsg) (cyc : Nat) : CatEntry :=
  { e with cur := some m, wait := toAsk e m, acks := [], crossed := [], disc := false, quiet := cyc }

/-- The state in which the round of a request at an entry has begun. -/
theorem startRound_eq (s : State) (die : Nat) (e : CatEntry) (m : CatMsg) : startRound s die e m =
    (sendAll s (toAsk e m) fun k => toHolder e die k (if m.kind.owns then .inv else .fetch) (partOf e m).1 (partOf e m).2 m.atomic
      m.colour).modDie die fun d => d.modEntry e.tract fun x =>
        { x with cur := some m, wait := toAsk e m, acks := [], crossed := [], disc := false, quiet := s.cycle } := rfl

theorem entries_startRound {s : State} {die : Nat} {e : CatEntry} (hentries : (s.die die).entries = [e]) (m : CatMsg) :
    ((startRound s die e m).die die).entries = [busyWith e m s.cycle] := by
  rw [startRound_eq, die_modDie_same, Die.modEntry, entries_sendAll, hentries, List.map_singleton, if_pos rfl, busyWith]

theorem startRound_of_toAsk_nil {e : CatEntry} {m : CatMsg} (h : toAsk e m = []) (s : State) (die : Nat) :
    (startRound s die e m).flits = s.flits ∧ (startRound s die e m).mem = s.mem ∧ (startRound s die e m).memTags = s.memTags := by
  rw [startRound_eq, h]
  exact ⟨rfl, rfl, rfl⟩

theorem mem_startRound (s : State) (die : Nat) (e : CatEntry) (m : CatMsg) : (startRound s die e m).mem = s.mem := by
  rw [startRound_eq, mem_modDie, mem_sendAll]

/-- The state with one entry at a die. -/
def withEntry (s : State) (die : Nat) (e : CatEntry) : State := s.setDie die { s.die die with entries := [e] }

theorem entries_withEntry (s : State) (die : Nat) (e : CatEntry) : ((withEntry s die e).die die).entries = [e] := by
  rw [withEntry, die_setDie_same]

/-- A request whose extent comes to lie in one entry, with no discovery, begins the round of that entry. -/
theorem serveRequest_of_one {s : State} {die : Nat} {m : CatMsg} {e : CatEntry}
    (hcover : coverExtent (s.die die) s.cycle m.pa (m.pa + m.len) 64 (s.die die).entries = [e]) (hspans : spans e m)
    (hdisc : e.disc = false) :
    serveRequest s die m = tryFinish (startRound (withEntry s die e) die e m) die m := by
  simp [withEntry, serveRequest, hcover, meets_of_spans hspans, hdisc]

/-- The only entry of a die answers its request when it has every answer that it waits for. -/
theorem tryFinish_of_one {s : State} {die : Nat} {m : CatMsg} {e : CatEntry} (hentries : (s.die die).entries = [e])
    (hcur : e.cur = some m) : tryFinish s die m = if e.ready then finishRequest s die m else s := by
  simp [tryFinish, serving, hentries, hcur]

/-- A request that takes ownership has its write made, and is answered with a GRANT. -/
theorem finishRequest_of_owns {s : State} {die : Nat} {m : CatMsg} {e : CatEntry} (howns : m.kind.owns = true)
    (hentries : (s.die die).entries = [e]) (hcur : e.cur = some m) :
    ((finishRequest s die m).die die).entries = afterOwn (makeWrite s m) e m ∧
      ∃ f x, f ∈ (finishRequest s die m).flits ∧ f.dst = m.cluster ∧ f.body = .cat x ∧ x.kind = .grant ∧ x.req = m.req := by
  have hwritten : ((makeWrite s m).die die).entries = [e] := by rw [entries_makeWrite, hentries]
  simp only [finishRequest, howns, if_true]
  refine ⟨?_, ?_⟩
  · rw [entries_sendToCluster, die_setDie_same, hwritten]
    simp [hcur]
  · obtain ⟨f, hflits, hdst, hbody⟩ := flits_sendToCluster _ _
    exact ⟨f, _, hflits ▸ List.mem_append_right _ List.mem_cons_self, hdst, hbody, rfl, rfl⟩

/-- The bytes that answer a read, before they are cut in pieces. -/
def readAnswer (s : State) (die : Nat) (m : CatMsg) : CatMsg :=
  { kind := .data, cluster := m.cluster, die := die, pa := m.pa, len := m.len, req := m.req, atomic := m.atomic, colour := m.colour,
    data := (homeData s m).1, poison := (homeData s m).2 }

/-- A request that reads is answered in pieces, once its entries are free again. -/
theorem finishRequest_eq_of_reads {s : State} {die : Nat} {m : CatMsg} (howns : m.kind.owns = false) :
    finishRequest s die m = (pieces m.pa m.len).foldl (fun t p => sendToCluster t ((readAnswer s die m).piece p.1 p.2))
      (s.setDie die { s.die die with entries := (s.die die).entries.flatMap fun e => if e.cur == some m then afterRead e m else [e] }) := by
  simp only [finishRequest, howns]
  rfl

theorem mem_finishRequest {m : CatMsg} (howns : m.kind.owns = false) (s : State) (die : Nat) : (finishRequest s die m).mem = s.mem := by
  rw [finishRequest_eq_of_reads howns]
  exact foldl_keeps (P := fun t : State => t.mem = s.mem) (fun t p ht => (mem_sendToCluster ..).trans ht) _ rfl

/-- A request that reads is answered with the bytes of memory. -/
theorem finishRequest_of_reads {s : State} {die : Nat} {m : CatMsg} {e : CatEntry} (howns : m.kind.owns = false)
    (hentries : (s.die die).entries = [e]) (hcur : e.cur = some m) :
    ((finishRequest s die m).die die).entries = afterRead e m ∧
      ∃ fs, (finishRequest s die m).flits = s.flits ++ fs ∧ (∀ f ∈ fs, dataFlit s m f) ∧
        fs.flatMap catBytes = s.readMem m.pa m.len := by
  rw [finishRequest_eq_of_reads howns, hentries, List.flatMap_singleton, hcur, beq_self_eq_true, if_pos rfl]
  refine ⟨foldl_keeps (P := fun t : State => (t.die die).entries = afterRead e m)
    (fun t p ht => (entries_sendToCluster ..).trans ht) _ ?_, flits_sendData (whole := readAnswer s die m) rfl rfl _⟩
  rw [die_setDie_same]

theorem mem_startDisc (s : State) (die : Nat) (e : CatEntry) (m : CatMsg) : (startDisc s die e m).mem = s.mem := by
  rw [startDisc, mem_modDie, mem_sendAll]

/-- Reads do not change home memory. -/
theorem mem_serveRequest {m : CatMsg} (howns : m.kind.owns = false) (s : State) (die : Nat) : (serveRequest s die m).mem = s.mem := by
  have htry : ∀ t : State, (tryFinish t die m).mem = t.mem := fun t => by
    rw [tryFinish]
    split
    · exact mem_finishRequest howns t die
    · rfl
  rw [serveRequest, htry]
  refine foldl_keeps (P := fun t : State => t.mem = s.mem) (fun t e ht => ?_) _ rfl
  split
  · exact (mem_startDisc t die e m).trans ht
  · exact (mem_startRound t die e m).trans ht

/-! ### The entries after a round (R157) -/

/-- The entry after an ownership round that has left bytes with nobody else, for a GETO: its requester holds it Dirty. -/
theorem afterOwn_geto {s : State} {e : CatEntry} {m : CatMsg} (hkind : m.kind = .geto) (hspans : spans e m)
    (hacks : ∀ a ∈ e.acks, a.hold = false) :
    ∃ x, afterOwn s e m = [x] ∧ x.ptrs = [(m.cluster, true)] ∧ x.isShared = false ∧ x.cur = none := by
  have hkept : keptHolders e = [] := by
    rw [keptHolders, List.filter_eq_nil_iff.mpr (by simpa using hacks), List.map_nil]
  have hapart : (e.acks.filter fun a => !a.ovl && a.hold && !(e.crossed.contains a.cluster)) = [] := by
    refine List.filter_eq_nil_iff.mpr fun a ha => ?_
    simp [hacks a ha]
  obtain ⟨hlo, hhi, hlen⟩ := hspans
  have hwithin : m.pa < e.hi ∧ e.lo < m.pa + m.len := by omega
  simp only [afterOwn, partOf_of_spans ⟨hlo, hhi, hlen⟩, hkept, hapart]
  refine ⟨_, by simp [hkind, hwithin]; rfl, ?_⟩
  simp [CatEntry.withHolders]

/-- After an uncached write that has met no holder its requester alone is named, if it holds bytes of the tract. -/
theorem afterOwn_uncw {s : State} {e : CatEntry} {m : CatMsg} (hkind : m.kind = .uncw) (hacks : e.acks = []) :
    ∀ x ∈ afterOwn s e m, x.ptrs.map (·.1) = [m.cluster] ∧ x.cur = none := by
  have hentries : afterOwn s e m = (ownHolding s m.cluster e.lo e.hi).toList.map fun h =>
      ({ e with cur := none, wait := [], acks := [], crossed := [] } : CatEntry).withHolders [h] := by
    simp only [afterOwn, hkind, keptHolders, hacks]
    cases ownHolding s m.cluster e.lo e.hi <;> rfl
  intro x hx
  rw [hentries, ownHolding] at hx
  split at hx
  · rw [List.mem_singleton.mp hx]
    exact ⟨rfl, rfl⟩
  · cases hx

/-- After a read that caches the bytes the requester is one more pointer of the entry. -/
theorem afterRead_gets {e : CatEntry} {m : CatMsg} (hkind : m.kind = .gets) (hcoarse : e.coarse = false)
    (hnew : ∀ p ∈ e.ptrs, p.1 ≠ m.cluster) (hroom : e.ptrs.length < 4) :
    ∃ x, afterRead e m = [x] ∧ x.ptrs = e.ptrs ++ [(m.cluster, false)] ∧ x.isShared = decide (1 ≤ e.ptrs.length) ∧ x.cur = none ∧
      x.lo = e.lo ∧ x.hi = e.hi := by
  have hfresh : (e.ptrs.any (·.1 == m.cluster)) = false := by simpa using hnew
  have hadd : afterRead e m =
      [{ e with cur := none, wait := [], acks := [], crossed := [], coarse := false, ptrs := e.ptrs ++ [(m.cluster, false)], groups := [],
                anyDirty := false, isShared := decide (2 ≤ (e.ptrs ++ [(m.cluster, false)]).length) }] := by
    simp only [afterRead, hkind, if_true, CatEntry.add, hcoarse, hfresh, CatEntry.withHolders, List.length_append, List.length_singleton,
      if_pos (show e.ptrs.length + 1 ≤ 4 by omega), CatEntry.named]
    simp
  exact ⟨_, hadd, rfl, by simp, rfl, rfl, rfl⟩

/-- An uncached read leaves no entry where nobody holds bytes. -/
theorem afterRead_uncr {e : CatEntry} {m : CatMsg} (hkind : m.kind = .uncr) (hnamed : e.named = []) : afterRead e m = [] := by
  have hidle : ({ e with cur := none, wait := [], acks := [], crossed := [] } : CatEntry).named = [] := hnamed
  simp [afterRead, hkind, hidle]

/-! ### The first request of a tract (R159) -/

theorem toAsk_freshTract (pa cyc : Nat) (m : CatMsg) : toAsk (freshTract pa cyc) m = [] := by
  simp [toAsk, freshTract, CatEntry.named, CatEntry.marked]

/-- A request of a die without entries and drop bits meets no holder: it is answered at once, with an entry of its tract BUSY with it. -/
theorem serveRequest_of_bare {s : State} {die : Nat} {m : CatMsg} (hentries : (s.die die).entries = []) (hfilter : (s.die die).filter = [])
    (hlen : 0 < m.len) (htract : m.pa / 65536 = (m.pa + m.len - 1) / 65536) :
    ∃ t, serveRequest s die m = finishRequest t die m ∧ (t.die die).entries = [busyWith (freshTract m.pa s.cycle) m s.cycle] ∧
      t.flits = s.flits ∧ ∀ a n, t.readMem a n = s.readMem a n := by
  have hcover : coverExtent (s.die die) s.cycle m.pa (m.pa + m.len) 64 (s.die die).entries = [freshTract m.pa s.cycle] := by
    rw [hentries, coverExtent_nil hfilter s.cycle hlen htract]
  rw [serveRequest_of_one hcover (freshTract_spans s.cycle hlen htract) rfl]
  have hbusy := entries_startRound (entries_withEntry s die (freshTract m.pa s.cycle)) m
  obtain ⟨hflits, hmem, htags⟩ := startRound_of_toAsk_nil (toAsk_freshTract m.pa s.cycle m)
    (withEntry s die (freshTract m.pa s.cycle)) die
  refine ⟨_, ?_, hbusy, hflits, readMem_congr hmem htags⟩
  rw [tryFinish_of_one hbusy rfl, if_pos]
  rw [CatEntry.ready, busyWith, toAsk_freshTract]
  rfl

/-! ### The answers of clusters (R157) -/

/-- The last answer that an entry waits for is counted at it. -/
theorem entries_countAnswer {s : State} {die : Nat} {e : CatEntry} {m : CatMsg} (hentries : (s.die die).entries = [e]) (hlo : e.lo ≤ m.pa)
    (hhi : m.pa < e.hi) (hwait : e.wait = [m.cluster]) (f : CatEntry → CatEntry) :
    ((countAnswer s die m f).die die).entries = [f { e with wait := [], acks := e.acks ++ [m] }] := by
  rw [countAnswer, die_modDie_same, hentries]
  simp [hlo, hhi, hwait]

/-- With the last answer the request of the only entry is answered. -/
theorem afterAnswer_of_ready {s : State} {die pa : Nat} {e : CatEntry} {q : CatMsg} (hentries : (s.die die).entries = [e])
    (hlo : e.lo ≤ pa) (hhi : pa < e.hi) (hrecalled : e.recalled = false) (hcur : e.cur = some q) (hready : e.ready = true) :
    afterAnswer s die pa = finishRequest s die q := by
  have hentry : entryOf s die pa = some e := by simp [entryOf, hentries, hlo, hhi]
  simp only [afterAnswer, hentry, hrecalled, hcur, tryFinish_of_one hentries hcur, hready]
  rfl

end Sys2Proof.Proofs

namespace Sys2Proof.Proofs

open Sys2Proof Sys2Proof.Machine

/-! ### What each request and answer comes to at a home (R157) -/

section
variable {s : State} {die idx : Nat} {m : CatMsg}

/-- A GRANT for a request, among the flits of a state. -/
def granted (t : State) (m : CatMsg) : Prop :=
  ∃ f x, f ∈ t.flits ∧ f.dst = m.cluster ∧ f.body = .cat x ∧ x.kind = .grant ∧ x.req = m.req

/-- A read that has been answered from memory, with what that leaves of a state. -/
def answered (s t : State) (m : CatMsg) : Prop :=
  ∃ fs, t.flits = s.flits ++ fs ∧ (∀ f ∈ fs, dataFlit s m f) ∧ fs.flatMap catBytes = s.readMem m.pa m.len

/-- A read that is answered from the memory of an earlier state. -/
theorem answered_finishRequest {t : State} {e : CatEntry} (howns : m.kind.owns = false) (hentries : (t.die die).entries = [e])
    (hcur : e.cur = some m) (hflits : t.flits = s.flits) (hmem : ∀ a n, t.readMem a n = s.readMem a n) :
    ((finishRequest t die m).die die).entries = afterRead e m ∧ answered s (finishRequest t die m) m := by
  obtain ⟨hafter, fs, hfs, heach, hbytes⟩ := finishRequest_of_reads howns hentries hcur
  refine ⟨hafter, fs, hflits ▸ hfs, fun f hf => ?_, (hbytes.trans (hmem _ _))⟩
  obtain ⟨hdst, x, hbody, hkind, hreq, hlen, hdata⟩ := heach f hf
  exact ⟨hdst, x, hbody, hkind, hreq, hlen, hdata.trans (hmem _ _)⟩

section
variable (hentries : (s.die die).entries = []) (hfilter : (s.die die).filter = []) (hlen : 0 < m.len)
  (htract : m.pa / 65536 = (m.pa + m.len - 1) / 65536)
include hentries hfilter hlen htract

theorem serveRequest_homeDrop_of_bare :
    ∃ t, serveRequest (homeDrop s die idx) die m = finishRequest t die m ∧
      (t.die die).entries = [busyWith (freshTract m.pa s.cycle) m s.cycle] ∧ t.flits = s.flits ∧ ∀ a n, t.readMem a n = s.readMem a n := by
  obtain ⟨t, hserve, hbusy, hflits, hmem⟩ := serveRequest_of_bare (s := homeDrop s die idx) (die := die)
    ((entries_homeDrop ..).trans hentries) ((filter_homeDrop ..).trans hfilter) hlen htract
  exact ⟨t, hserve, hbusy, hflits, fun a n => (hmem a n).trans (readMem_congr (s := s) (t := homeDrop s die idx) rfl rfl a n)⟩

/-- The first GETO of a tract makes its requester the owner. -/
theorem first_geto (hkind : m.kind = .geto) :
    let t := serveRequest (homeDrop s die idx) die m
    (∃ e, (t.die die).entries = [e] ∧ e.ptrs = [(m.cluster, true)] ∧ e.isShared = false ∧ e.cur = none) ∧ granted t m := by
  obtain ⟨t, hserve, hbusy, -⟩ := serveRequest_homeDrop_of_bare (idx := idx) hentries hfilter hlen htract
  obtain ⟨hafter, hgrant⟩ := finishRequest_of_owns (by rw [hkind]; rfl) hbusy rfl
  obtain ⟨x, hone, hx⟩ := afterOwn_geto (s := makeWrite t m) (e := busyWith (freshTract m.pa s.cycle) m s.cycle) hkind
    (freshTract_spans s.cycle hlen htract) (fun a ha => nomatch ha)
  simp only [hserve]
  exact ⟨⟨x, hafter.trans hone, hx⟩, hgrant⟩

/-- The first UNCW of a tract is granted, and leaves nobody named but its requester. -/
theorem first_uncw (hkind : m.kind = .uncw) :
    let t := serveRequest (homeDrop s die idx) die m
    (∀ e ∈ (t.die die).entries, e.ptrs.map (·.1) = [m.cluster] ∧ e.cur = none) ∧ granted t m := by
  obtain ⟨t, hserve, hbusy, -⟩ := serveRequest_homeDrop_of_bare (idx := idx) hentries hfilter hlen htract
  obtain ⟨hafter, hgrant⟩ := finishRequest_of_owns (by rw [hkind]; rfl) hbusy rfl
  simp only [hserve]
  exact ⟨hafter ▸ afterOwn_uncw hkind rfl, hgrant⟩

/-- The first UNCR of a tract is answered from memory, and leaves no entry. -/
theorem first_uncr (hkind : m.kind = .uncr) :
    let t := serveRequest (homeDrop s die idx) die m
    (t.die die).entries = [] ∧ answered s t m := by
  obtain ⟨t, hserve, hbusy, hflits, hmem⟩ := serveRequest_homeDrop_of_bare (idx := idx) hentries hfilter hlen htract
  obtain ⟨hafter, hanswer⟩ := answered_finishRequest (by rw [hkind]; rfl) hbusy rfl hflits hmem
  simp only [hserve]
  exact ⟨hafter.trans (afterRead_uncr hkind rfl), hanswer⟩

/-- The first GETS of a tract is answered from memory, and leaves its requester as the only holder of the tract. -/
theorem first_gets (hkind : m.kind = .gets) :
    let t := serveRequest (homeDrop s die idx) die m
    (∃ e, (t.die die).entries = [e] ∧ e.isShared = false ∧ e.ptrs = [(m.cluster, false)] ∧ e.cur = none ∧
      e.lo = m.pa / 65536 * 65536 ∧ e.hi = m.pa / 65536 * 65536 + 65536) ∧ answered s t m := by
  obtain ⟨t, hserve, hbusy, hflits, hmem⟩ := serveRequest_homeDrop_of_bare (idx := idx) hentries hfilter hlen htract
  obtain ⟨hafter, hanswer⟩ := answered_finishRequest (by rw [hkind]; rfl) hbusy rfl hflits hmem
  obtain ⟨x, hone, hptrs, hshared, hcur, hxlo, hxhi⟩ := afterRead_gets (e := busyWith (freshTract m.pa s.cycle) m s.cycle) hkind rfl
    (fun p hp => nomatch hp) (Nat.zero_lt_succ 3)
  simp only [hserve]
  exact ⟨⟨x, hafter.trans hone, hshared, hptrs, hcur, hxlo.trans (freshTract_lo m.pa s.cycle),
    hxhi.trans (freshTract_hi m.pa s.cycle)⟩, hanswer⟩

end

/-- A GETO that meets a holder sends it INV, and waits for it. -/
theorem geto_meets_holder {e : CatEntry} {k : Nat} {dirty : Bool} (hkind : m.kind = .geto) (hentries : (s.die die).entries = [e])
    (hspans : spans e m) (hcoarse : e.coarse = false) (hptrs : e.ptrs = [(k, dirty)]) (hother : k ≠ m.cluster) (hdisc : e.disc = false) :
    ∃ f x, (serveRequest s die m).flits = s.flits ++ [f] ∧ f.dst = k ∧ f.body = .cat x ∧ x.kind = .inv ∧ x.pa = m.pa ∧ x.len = m.len ∧
      x.wb = m.atomic ∧ ((serveRequest s die m).die die).entries = [busyWith e m s.cycle] ∧ toAsk e m = [k] ∧
      (serveRequest s die m).mem = s.mem := by
  have hask : toAsk e m = [k] := by simp [toAsk, hkind, CatKind.owns, CatEntry.named, hcoarse, hptrs, hother]
  have hcover : coverExtent (s.die die) s.cycle m.pa (m.pa + m.len) 64 (s.die die).entries = [e] := by
    obtain ⟨hlo, hhi, -⟩ := hspans
    rw [hentries]
    exact coverExtent_of_covered _ _ List.mem_cons_self hlo hhi 64
  have hbusy := entries_startRound (entries_withEntry s die e) m
  have hwaits : (busyWith e m (withEntry s die e).cycle).ready = false := by simp [CatEntry.ready, busyWith, hask]
  have hserve : serveRequest s die m = startRound (withEntry s die e) die e m := by
    rw [serveRequest_of_one hcover hspans hdisc, tryFinish_of_one hbusy rfl, hwaits, if_neg Bool.false_ne_true]
  have hinv : (startRound (withEntry s die e) die e m).flits =
      (sendToCluster (withEntry s die e) (toHolder e die k .inv m.pa (m.pa + m.len) m.atomic m.colour)).flits := by
    rw [startRound_eq, hask, hkind, partOf_of_spans hspans]
    rfl
  obtain ⟨f, hflits, hdst, hbody⟩ := flits_sendToCluster (withEntry s die e)
    (toHolder e die k .inv m.pa (m.pa + m.len) m.atomic m.colour)
  rw [hserve]
  exact ⟨f, _, hinv.trans hflits, hdst, hbody, rfl, rfl, Nat.add_sub_cancel_left .., rfl, hbusy, hask, mem_startRound ..⟩

/-! ### The last answer of a round -/

section
variable {q : CatMsg} {e : CatEntry} (hentries : (s.die die).entries = [e]) (hlo : e.lo ≤ m.pa) (hhi : m.pa < e.hi)
  (hwait : e.wait = [m.cluster]) (hcur : e.cur = some q) (hrecalled : e.recalled = false) (hdisc : e.disc = false)
include hentries hlo hhi hwait hcur hrecalled hdisc

/-- The last IACK hands the block over: its requester is the owner, and has its GRANT. -/
theorem last_iack (hkind : q.kind = .geto) (hspans : spans e q) (hacks : e.acks = []) (hhold : m.hold = false) :
    let t := afterAnswer (countAnswer (homeDrop s die idx) die m id) die m.pa
    (∃ x, (t.die die).entries = [x] ∧ x.ptrs = [(q.cluster, true)] ∧ x.isShared = false ∧ x.cur = none) ∧ granted t q := by
  have hcounted := entries_countAnswer (s := homeDrop s die idx) ((entries_homeDrop ..).trans hentries) hlo hhi hwait id
  have hready : (id { e with wait := [], acks := e.acks ++ [m] } : CatEntry).ready = true := by simp [CatEntry.ready, hdisc]
  simp only [afterAnswer_of_ready hcounted hlo hhi hrecalled hcur hready]
  obtain ⟨hafter, hgrant⟩ := finishRequest_of_owns (by rw [hkind]; rfl) hcounted hcur
  obtain ⟨x, hone, hx⟩ := afterOwn_geto (s := makeWrite (countAnswer (homeDrop s die idx) die m id) q)
    (e := id { e with wait := [], acks := e.acks ++ [m] }) hkind hspans (by simp [hacks, hhold])
  exact ⟨⟨x, hafter.trans hone, hx⟩, hgrant⟩

/-- The FACK of the only holder shares the block: the DM bit is what the holder says, and the requester has the bytes of memory. -/
theorem last_fack (hkind : q.kind = .gets) (hother : q.cluster ≠ m.cluster) (hcoarse : e.coarse = false) (hacks : e.acks = [])
    {dirty : Bool} (hptrs : e.ptrs = [(m.cluster, dirty)]) :
    let t := afterAnswer (countAnswer (homeDrop s die idx) die m noteDleft) die m.pa
    (∃ x, (t.die die).entries = [x] ∧ x.ptrs = [(m.cluster, m.dirty), (q.cluster, false)] ∧ x.isShared = true ∧ x.cur = none) ∧
      answered s t q ∧ t.mem = s.mem := by
  have hnoted : noteDleft { e with wait := [], acks := e.acks ++ [m] } =
      { e with wait := [], acks := [m], ptrs := [(m.cluster, m.dirty)] } := by
    simp [noteDleft, hcoarse, hacks, hptrs]
  have hcounted := entries_countAnswer (s := homeDrop s die idx) ((entries_homeDrop ..).trans hentries) hlo hhi hwait noteDleft
  rw [hnoted] at hcounted
  have hready : ({ e with wait := [], acks := [m], ptrs := [(m.cluster, m.dirty)] } : CatEntry).ready = true := by
    simp [CatEntry.ready, hdisc]
  simp only [afterAnswer_of_ready hcounted hlo hhi hrecalled hcur hready]
  obtain ⟨hafter, hanswer⟩ := answered_finishRequest (s := s) (by rw [hkind]; rfl) hcounted hcur rfl (readMem_congr rfl rfl)
  obtain ⟨x, hone, hxptrs, hshared, hxcur, -⟩ := afterRead_gets
    (e := { e with wait := [], acks := [m], ptrs := [(m.cluster, m.dirty)] }) hkind hcoarse (by simpa using hother.symm) (by simp)
  exact ⟨⟨x, hafter.trans hone, hxptrs, hshared, hxcur⟩, hanswer, mem_finishRequest (by rw [hkind]; rfl) _ _⟩

end

end
end Sys2Proof.Proofs

namespace Sys2Proof.Proofs

open Sys2Proof Sys2Proof.Machine

/-! ### Messages at a cluster (R141, R143, R156, R159) -/

section
variable {s : State} {k idx : Nat} {m : CatMsg}

theorem cluster_clusterDrop (s : State) (k idx : Nat) :
    (clusterDrop s k idx).cluster k = { s.cluster k with arrived := dropAt (s.cluster k).arrived idx } := cluster_modCluster_same ..

theorem holdings_congr {s t : State} {k : Nat} (hl2 : (t.cluster k).l2 = (s.cluster k).l2) (lo hi : Nat) :
    holdings t k lo hi = holdings s k lo hi := by
  rw [holdings, holdings, hl2]

/-- EACK ends one notice that awaits it. -/
theorem exec_catalogueEack (htake : clusterTake s k idx .eack = some m) : ∃ t, exec (.catalogueEack k idx) s = .next t ∧
    (t.cluster k).evn = (s.cluster k).evn.erase (m.pa, m.len) ∧ (t.cluster k).l2 = (s.cluster k).l2 ∧ t.mem = s.mem := by
  refine ⟨_, show execCatalogueEack k idx s = _ by rw [execCatalogueEack, htake], ?_⟩
  rw [cluster_modCluster_same, cluster_clusterDrop]
  exact ⟨rfl, rfl, rfl⟩

/-- DISC is answered with what the L2F holds of the tract. -/
theorem exec_catalogueDisc (htake : clusterTake s k idx .disc = some m) : ∃ t f, exec (.catalogueDisc k idx) s = .next t ∧
    t.flits = s.flits ++ [f] ∧
    (∃ x, f.body = .cat x ∧ x.kind = .dack ∧ x.cluster = k ∧ x.hold = !(holdings s k m.lo m.hi).isEmpty) ∧
    (t.cluster k).l2 = (s.cluster k).l2 ∧ t.mem = s.mem := by
  have hl2 : ((clusterDrop s k idx).cluster k).l2 = (s.cluster k).l2 := by rw [cluster_clusterDrop]
  obtain ⟨f, hflits, hbody⟩ := flits_sendToHome (clusterDrop s k idx) (reportOn (clusterDrop s k idx) k m .dack false)
  refine ⟨_, f, show execCatalogueDisc k idx s = _ by rw [execCatalogueDisc, htake], hflits, ⟨_, hbody, rfl, rfl, ?_⟩, ?_, rfl⟩
  · rw [← holdings_congr hl2]; rfl
  · exact (l2_sendToHome (clusterDrop s k idx) (reportOn (clusterDrop s k idx) k m .dack false)).trans hl2

theorem find?_reqs_clusterDrop (p : CatReq → Bool) : ((clusterDrop s k idx).cluster k).reqs.find? p = (s.cluster k).reqs.find? p := by
  rw [cluster_clusterDrop]

/-- DATA that no request has asked for goes to the folio and the loads that wait for it. -/
theorem exec_catalogueData_of_fill (htake : clusterTake s k idx .data = some m)
    (hreq : (s.cluster k).reqs.find? (fun q => q.id == m.req) = none) :
    exec (.catalogueData k idx) s = .next (feedLoads (fillFolio (clusterDrop s k idx) k m) k m) := by
  change execCatalogueData k idx s = _
  simp only [execCatalogueData, htake, find?_reqs_clusterDrop, hreq]

/-- DATA for an uncached read goes to its access. -/
theorem exec_catalogueData_of_access {q : CatReq} {c i id : Nat} (htake : clusterTake s k idx .data = some m)
    (hreq : (s.cluster k).reqs.find? (fun q => q.id == m.req) = some q) (huser : q.user = .access c i id) :
    exec (.catalogueData k idx) s = .next (feedUncached (if m.last = true
      then (clusterDrop s k idx).modCluster k fun c => { c with reqs := c.reqs.filter fun q => q.id ≠ m.req }
      else clusterDrop s k idx) m c i id) := by
  change execCatalogueData k idx s = _
  simp only [execCatalogueData, htake, find?_reqs_clusterDrop, hreq, huser]

theorem exec_catalogueGrant {q : CatReq} (htake : clusterTake s k idx .grant = some m)
    (hreq : (s.cluster k).reqs.find? (fun q => q.id == m.req) = some q) : exec (.catalogueGrant k idx) s = .next (useGrant
      ((clusterDrop s k idx).modCluster k fun c => { c with reqs := c.reqs.filter fun x => x.id ≠ q.id }) q) := by
  change execCatalogueGrant k idx s = _
  simp only [execCatalogueGrant, htake, find?_reqs_clusterDrop, hreq]

/-- A changed entry is found under its number, as it has become. -/
theorem find?_map_modEntry {es : List Entry} {id : Nat} {e : Entry} (he : es.find? (fun e => e.id == id) = some e)
    {f : Entry → Entry} (hf : ∀ e, (f e).id = e.id) :
    (es.map fun x => if x.id = id then f x else x).find? (fun e => e.id == id) = some (f e) := by
  induction es with
  | nil => cases he
  | cons x xs ih =>
    rw [List.map_cons, List.find?_cons]
    by_cases hx : x.id = id
    · rw [if_pos hx, hf, hx, beq_self_eq_true]
      rw [List.find?_cons, hx, beq_self_eq_true] at he
      exact congrArg (fun o => o.map f) he
    · have hskip : (x.id == id) = false := beq_eq_false_iff_ne.mpr hx
      rw [if_neg hx, hskip]
      rw [List.find?_cons, hskip] at he
      exact ih he

/-- GRANT for an entry: one of which nothing is left leaves the commit queue, and another may ask again. -/
theorem useGrant_entry {q : CatReq} {c id : Nat} {e : Entry} (huser : q.user = .entry c id)
    (he : (s.core c).queue.find? (fun e => e.id == id) = some e) : (useGrant s q).mem = s.mem ∧
      ((∃ tag, e.eff = .store [] tag) → ((useGrant s q).core c).queue = (s.core c).queue.filter fun x => x.id ≠ id) ∧
      ((∀ tag, e.eff ≠ .store [] tag) → ((useGrant s q).core c).queue.find? (fun e => e.id == id) = some { e with sent := none }) := by
  have hdone : ∀ tag, e.eff = .store [] tag → useGrant s q = dropEntry s c id := fun tag htag => by
    simp only [useGrant, huser, he, htag]
  have hmore : (∀ tag, e.eff ≠ .store [] tag) → useGrant s q = modEntry s c id fun x => { x with sent := none } := fun hleft => by
    simp only [useGrant, huser, he]
  by_cases hleft : ∃ tag, e.eff = .store [] tag
  · obtain ⟨tag, htag⟩ := hleft
    rw [hdone tag htag]
    refine ⟨rfl, fun _ => ?_, fun hnone => absurd htag (hnone tag)⟩
    rw [dropEntry, State.modCore, core_setCore, if_pos rfl]
  · have hleft := not_exists.mp hleft
    rw [hmore hleft]
    refine ⟨rfl, fun ⟨tag, htag⟩ => absurd htag (hleft tag), fun _ => ?_⟩
    rw [modEntry, State.modCore, core_setCore, if_pos rfl]
    exact find?_map_modEntry he fun _ => rfl

end

/-! ### Replacement and the union of siblings (R158, R159) -/

section
variable {s : State} {die : Nat}

/-- An idle Private entry is dropped silently: only its drop bit says that there was one. -/
theorem exec_catalogueReplacement {e : CatEntry}
    (he : leastRecent ((s.die die).entries.filter fun e => e.cur.isNone && !e.isShared) = some e) :
    ∃ t, exec (.catalogueReplacement die) s = .next t ∧ t.flits = s.flits ∧ t.mem = s.mem ∧
      (t.die die).entries = (s.die die).entries.filter (fun x => x.tract ≠ e.tract) ∧
      e.lo / 65536 ∈ (t.die die).filter ∧ (∀ x, x ∈ (s.die die).filter → x ∈ (t.die die).filter) := by
  have hidle : leastRecent (((s.die die).entries.filter fun e => e.cur.isNone).filter fun e => !e.isShared) = some e := by
    rw [List.filter_filter, ← he]
    congr 2
    funext x
    exact Bool.and_comm ..
  have hdropped : exec (.catalogueReplacement die) s = .next (s.setDie die { s.die die with
      entries := (s.die die).entries.filter fun x => x.tract ≠ e.tract
      filter := insertNat (s.die die).filter (e.lo / 65536) }) := by
    change execCatalogueReplacement die s = _
    simp only [execCatalogueReplacement, hidle]
  refine ⟨_, hdropped, rfl, rfl, ?_⟩
  rw [die_setDie_same]
  exact ⟨rfl, mem_insertNat.mpr (.inl rfl), fun x hx => mem_insertNat.mpr (.inr hx)⟩

/-- The tract of two siblings with the same holders. -/
def mergedTract (a b : CatEntry) : CatEntry :=
  { a with size := a.size + 1, quiet := max a.quiet b.quiet, anyDirty := a.anyDirty || b.anyDirty,
           ptrs := a.ptrs.map fun (k, x) => (k, x || b.ptrs.any fun (j, y) => j == k && y) }

theorem mergedTract_hi (a b : CatEntry) : (mergedTract a b).hi = a.lo + 2 * 2 ^ (a.size + 6) := by
  rw [CatEntry.hi, CatEntry.lo, mergedTract, show a.size + 1 + 6 = a.size + 6 + 1 from rfl, Nat.pow_succ, Nat.mul_comm 2]

/-- Two quiet siblings become one tract of twice the size. -/
theorem exec_tractMerge {base : Nat} {a b : CatEntry} (ha : (s.die die).entries.find? (fun e => e.lo == base) = some a)
    (hb : (s.die die).entries.find? (fun e => e.lo == base + 2 ^ (a.size + 6) && e.size == a.size) = some b) (hsize : a.size < 10)
    (haligned : base % (2 * 2 ^ (a.size + 6)) = 0) (hcura : a.cur = none) (hcurb : b.cur = none)
    (hquieta : a.quietFor s.cycle = 2 ^ 20) (hquietb : b.quietFor s.cycle = 2 ^ 20) (hsame : sameHolders a b = true) :
    ∃ t m, exec (.tractMerge die base) s = .next t ∧ m ∈ (t.die die).entries ∧ m.lo = base ∧ m.hi = base + 2 * 2 ^ (a.size + 6) ∧
      m.isShared = a.isShared ∧ t.mem = s.mem ∧ t.flits = s.flits := by
  have hlo : a.lo = base := by simpa using List.find?_some ha
  have hbeyond : b.lo = base + 2 ^ (a.size + 6) := by
    have hfound := List.find?_some hb
    simp only [Bool.and_eq_true, beq_iff_eq] at hfound
    exact hfound.1
  have hne : a ≠ b := fun h => by
    have := Nat.two_pow_pos (a.size + 6)
    rw [← h] at hbeyond
    omega
  have hmay : (decide (a.size < 10) && decide (base % (2 * 2 ^ (a.size + 6)) = 0) && (a.cur.isNone && a.quietFor s.cycle == 2 ^ 20) &&
      (b.cur.isNone && b.quietFor s.cycle == 2 ^ 20) && sameHolders a b) = true := by
    simp [hsize, haligned, hcura, hcurb, hquieta, hquietb, hsame]
  refine ⟨s.setDie die { s.die die with
      entries := ((s.die die).entries.filter fun e => !(e == b)).map fun e => if e == a then mergedTract a b else e },
    mergedTract a b, ?_, ?_, hlo, hlo ▸ mergedTract_hi a b, rfl, rfl, rfl⟩
  · change execTractMerge die base s = _
    simp only [execTractMerge, ha, hb]
    rw [if_pos hmay]
    rfl
  · rw [die_setDie_same]
    refine List.mem_map.mpr ⟨a, List.mem_filter.mpr ⟨List.mem_of_find?_eq_some ha, by simpa using hne⟩, ?_⟩
    rw [if_pos (beq_self_eq_true a)]

end
end Sys2Proof.Proofs

namespace Sys2Proof.Proofs

open Sys2Proof Sys2Proof.Machine

/-! ### O50, from what each message comes to -/

section
variable {s : State} {die idx : Nat} {m : CatMsg}

theorem exec_catalogueGets (htake : homeTake s die idx .gets = some m) :
    exec (.catalogueGets die idx) s = .next (serveRequest (homeDrop s die idx) die m) := takeRequest_of_homeTake htake
theorem exec_catalogueGeto (htake : homeTake s die idx .geto = some m) :
    exec (.catalogueGeto die idx) s = .next (serveRequest (homeDrop s die idx) die m) := takeRequest_of_homeTake htake
theorem exec_catalogueUncr (htake : homeTake s die idx .uncr = some m) :
    exec (.catalogueUncr die idx) s = .next (serveRequest (homeDrop s die idx) die m) := takeRequest_of_homeTake htake
theorem exec_catalogueUncw (htake : homeTake s die idx .uncw = some m) :
    exec (.catalogueUncw die idx) s = .next (serveRequest (homeDrop s die idx) die m) := takeRequest_of_homeTake htake

/-- A read that is answered leaves home memory as it is. -/
theorem mem_serveRequest_homeDrop (hreads : m.kind = .gets ∨ m.kind = .uncr) : (serveRequest (homeDrop s die idx) die m).mem = s.mem :=
  mem_serveRequest (by rcases hreads with h | h <;> rw [h] <;> rfl) ..

theorem exec_catalogueIack (htake : homeTake s die idx .iack = some m) :
    exec (.catalogueIack die idx) s = .next (afterAnswer (countAnswer (homeDrop s die idx) die m id) die m.pa) := by
  change execCatalogueIack die idx s = _
  rw [execCatalogueIack, htake]

theorem exec_catalogueFack (htake : homeTake s die idx .fack = some m) :
    exec (.catalogueFack die idx) s = .next (afterAnswer (countAnswer (homeDrop s die idx) die m noteDleft) die m.pa) := by
  change execCatalogueFack die idx s = _
  rw [execCatalogueFack, htake]

/-- The answer to a discovery rebuilds the entry when it is the last. -/
theorem exec_catalogueDack (htake : homeTake s die idx .dack = some m) :
    let t := countAnswer (homeDrop s die idx) die m id
    (∀ e, entryOf t die m.pa = some e → e.disc = true → e.wait = [] → exec (.catalogueDack die idx) s = .next (rebuild t die e)) ∧
      (∀ e, entryOf t die m.pa = some e → e.disc = false ∨ e.wait ≠ [] → exec (.catalogueDack die idx) s = .next t) := by
  intro t
  have hexec : ∀ e, entryOf t die m.pa = some e →
      exec (.catalogueDack die idx) s = .next (if e.disc && e.wait.isEmpty then rebuild t die e else t) := fun e he => by
    change execCatalogueDack die idx s = _
    simp only [execCatalogueDack, htake]
    rw [show entryOf (countAnswer (homeDrop s die idx) die m id) die m.pa = some e from he]
  constructor
  · intro e he hdisc hwait
    rw [hexec e he, hdisc, hwait]
    rfl
  · intro e he hmore
    rw [hexec e he, if_neg]
    rcases hmore with hdisc | hwait
    · simp [hdisc]
    · simp [hwait]

/-- An eviction notice: Dirty bytes go to memory and are confirmed, and the pointers of its tract follow (R157). -/
theorem exec_catalogueEvn (htake : homeTake s die idx .evn = some m) :
    let u := homeDrop s die idx
    let t := if m.dirty then sendToCluster (writeNotice u die m)
        { kind := .eack, cluster := m.cluster, die := die, pa := m.pa, len := m.len, colour := m.colour } else u
    exec (.catalogueEvn die idx) s = .next (t.modDie die fun d => { d with entries := d.entries.flatMap (noteEvict t m) }) ∧
      (m.dirty = false → t.mem = s.mem) := by
  refine ⟨?_, fun hclean => by rw [hclean]; rfl⟩
  change execCatalogueEvn die idx s = _
  rw [execCatalogueEvn, htake]

end

/-- Settles O50, from what each message comes to at a home and at a cluster: a request that meets one entry or none is followed
through its round to its answer; a granted write leaves the entries of every die as they are. -/
theorem catalogueEvents : Obligations.CatalogueEvents := by
  unfold Obligations.CatalogueEvents
  intro s die k idx
  refine ⟨?served, ?first, ?holder, ?last, ?firstGets, fun m => exec_catalogueEvn, fun m => exec_catalogueIack,
    fun m => exec_catalogueFack, fun m => exec_catalogueDack, fun m => exec_catalogueEack, ?inv, ?fetch, fun m => exec_catalogueDisc,
    fun m htake => ⟨exec_catalogueData_of_fill htake, fun q c i id => exec_catalogueData_of_access htake⟩, ?grant,
    fun e => exec_catalogueReplacement, fun base a b => exec_tractMerge⟩
  case served =>
    intro p hp m htake
    simp only [List.mem_cons, List.not_mem_nil, or_false] at hp
    refine ⟨?_, fun hreads => mem_serveRequest_homeDrop ((of_homeTake htake).1 ▸ hreads)⟩
    rcases hp with rfl | rfl | rfl | rfl
    · exact exec_catalogueGets htake
    · exact exec_catalogueGeto htake
    · exact exec_catalogueUncr htake
    · exact exec_catalogueUncw htake
  case first =>
    intro m hentries hfilter _ hlen htract
    refine ⟨fun htake => ?_, fun htake _ => ?_, fun htake => ?_⟩
    · obtain ⟨⟨e, hone, hptrs, hshared, hcur⟩, f, x, hgrant⟩ :=
        first_geto (idx := idx) hentries hfilter hlen htract (of_homeTake htake).1
      exact ⟨_, e, f, x, exec_catalogueGeto htake, hone, hshared, hptrs, hcur, hgrant⟩
    · obtain ⟨hnone, fs, hflits, -, hbytes⟩ := first_uncr (idx := idx) hentries hfilter hlen htract (of_homeTake htake).1
      exact ⟨_, fs, exec_catalogueUncr htake, hflits, hbytes, hnone⟩
    · obtain ⟨hnamed, f, x, hgrant⟩ := first_uncw (idx := idx) hentries hfilter hlen htract (of_homeTake htake).1
      exact ⟨_, f, x, exec_catalogueUncw htake, hnamed, hgrant⟩
  case holder =>
    intro m e k dirty htake hentries hlo hhi hlen hcoarse hptrs hother hdisc
    obtain ⟨f, x, hflits, hdst, hbody, hkind, hpa, hxlen, hwb, hbusy, hask, hmem⟩ := geto_meets_holder (s := homeDrop s die idx)
      (of_homeTake htake).1 ((entries_homeDrop ..).trans hentries) ⟨hlo, hhi, hlen⟩ hcoarse hptrs hother hdisc
    exact ⟨_, f, x, busyWith e m s.cycle, exec_catalogueGeto htake, hflits, hdst, hbody, hkind, hpa, hxlen, hwb, hbusy, rfl,
      hask, rfl, hmem⟩
  case last =>
    intro m q e hentries hlo hhi hwait hcur hrecalled hdisc hacks hcoarse hqlo hqlen hqhi
    refine ⟨fun htake hkind hhold => ?_, fun htake hkind hother ⟨dirty, hptrs⟩ => ?_⟩
    · obtain ⟨⟨e', hone, hptrs, hshared, hcur'⟩, f, x, hgrant⟩ :=
        last_iack (idx := idx) hentries hlo hhi hwait hcur hrecalled hdisc hkind ⟨hqlo, hqhi, hqlen⟩ hacks hhold
      exact ⟨_, f, x, e', exec_catalogueIack htake, hone, hptrs, hshared, hcur', hgrant⟩
    · obtain ⟨⟨e', hone, hptrs', hshared, hcur'⟩, ⟨fs, hflits, -, hbytes⟩, hmem⟩ :=
        last_fack (idx := idx) hentries hlo hhi hwait hcur hrecalled hdisc hkind hother hcoarse hacks hptrs
      exact ⟨_, fs, e', exec_catalogueFack htake, hflits, hbytes, hone, hptrs', hshared, hcur', hmem⟩
  case firstGets =>
    intro m htake hentries hfilter _ _ hlen htract
    obtain ⟨hone, fs, hflits, heach, hbytes⟩ := first_gets (idx := idx) hentries hfilter hlen htract (of_homeTake htake).1
    exact ⟨_, fs, exec_catalogueGets htake, hflits, heach, hbytes, hone⟩
  case inv =>
    intro m htake
    change execCatalogueInv k idx s = _
    rw [execCatalogueInv, htake]
  case fetch =>
    intro m htake
    change execCatalogueFetch k idx s = _
    rw [execCatalogueFetch, htake]
  case grant =>
    intro m q htake hreq
    refine ⟨exec_catalogueGrant htake hreq, fun c id e huser he => ⟨_, exec_catalogueGrant htake hreq, ?_⟩⟩
    exact useGrant_entry (s := (clusterDrop s k idx).modCluster k fun c => { c with reqs := c.reqs.filter fun x => x.id ≠ q.id }) huser he

end Sys2Proof.Proofs

namespace Sys2Proof.Proofs

open Sys2Proof Sys2Proof.Machine

/-! ### The executing carrel and its core's queue after an outbox entry or a commit point (R165, R166, R170) -/

@[simp] theorem setCore_setCore (s : State) (c : Nat) (x y : Core) : (s.setCore c x).setCore c y = s.setCore c y := by
  simp [State.setCore, fset_fset]

@[simp] theorem setCarrel_setCarrel (k : Core) (i : Nat) (x y : Carrel) : (k.setCarrel i x).setCarrel i y = k.setCarrel i y := by
  simp [Core.setCarrel, fset_fset]

/-- The state with another carrel at the word, and another queue and next number in its core: all that the outbox and its drain
touch. -/
def setOutbox (s : State) (n : Nat) (q : List Entry) (x : Carrel) : State :=
  s.setCore s.cur.1 (({ s.myCore with nextId := n, queue := q } : Core).setCarrel s.cur.2 x)

section
variable (s : State) (n : Nat) (q : List Entry) (x : Carrel)

@[simp] theorem cur_setOutbox : (setOutbox s n q x).cur = s.cur := rfl

@[simp] theorem core_setOutbox : (setOutbox s n q x).core s.cur.1 =
    ({ s.myCore with nextId := n, queue := q } : Core).setCarrel s.cur.2 x := by
  simp [setOutbox]

@[simp] theorem myCore_setOutbox : (setOutbox s n q x).myCore =
    ({ s.myCore with nextId := n, queue := q } : Core).setCarrel s.cur.2 x := core_setOutbox ..

@[simp] theorem me_setOutbox : (setOutbox s n q x).me = x := by
  simp [State.me, State.carrel]

theorem core_setOutbox_of_ne {c : Nat} (h : c ≠ s.cur.1) : (setOutbox s n q x).core c = s.core c := by
  simp [setOutbox, h.symm]

theorem carrel_setOutbox_of_ne {j : Nat} (h : j ≠ s.cur.2) : (setOutbox s n q x).carrel s.cur.1 j = s.carrel s.cur.1 j := by
  simp only [State.carrel, core_setOutbox, carrel_setCarrel, if_neg h.symm]
  rfl

theorem modCarrel_setOutbox (f : Carrel → Carrel) :
    (setOutbox s n q x).modCarrel s.cur.1 s.cur.2 f = setOutbox s n q (f x) := by
  rw [State.modCarrel, State.setCarrel, State.carrel, core_setOutbox, carrel_setCarrel, if_pos rfl, setCarrel_setCarrel, setOutbox,
    setCore_setCore]
  rfl

theorem setOutbox_setOutbox (m : Nat) (r : List Entry) (y : Carrel) :
    setOutbox (setOutbox s n q x) m r y = setOutbox s m r y := by
  simp [setOutbox, State.setCore, State.myCore, State.core, Core.setCarrel, fset_fset]

end

/-- The entries that a drain of the executing carrel's outbox hands over: of a twin its own part (R286). -/
def drained (s : State) : List Entry :=
  (if s.me.pair && s.myCore.twinOf.isSome then s.me.outbox.filterMap (twinPart s.cur.1) else s.me.outbox).map
    fun e => { e with drain := s.myCore.nextId }

theorem drained_of_single {s : State} (h : s.me.pair = false) :
    drained s = s.me.outbox.map fun e => { e with drain := s.myCore.nextId } := by
  simp [drained, h]

theorem putEntry_eq (s : State) (e : Entry) : putEntry s s.cur.1 s.cur.2 e =
    setOutbox s (s.myCore.nextId + 1) s.myCore.queue { s.me with outbox := s.me.outbox ++ [{ e with id := s.myCore.nextId }] } := rfl

theorem commitPoint_eq (s : State) : commitPoint s s.cur.1 s.cur.2 =
    setOutbox s (s.myCore.nextId + 1) (s.myCore.queue ++ drained s)
      { s.me with outbox := [], nr := true, pairOk := false, cmpWait := false } := by
  have hdrain : drainOutbox s s.cur.1 s.cur.2 =
      setOutbox s (s.myCore.nextId + 1) (s.myCore.queue ++ drained s) { s.me with outbox := [] } := rfl
  rw [commitPoint, hdrain, modCarrel_setOutbox]

/-- A full outbox leaves as one drain, and the entry stands alone in the outbox (R165). -/
theorem placed_of_full {s : State} (hfull : 64 ≤ s.me.outbox.length) (e : Entry) : placed s e =
    setOutbox s (s.myCore.nextId + 2) (s.myCore.queue ++ drained s)
      { s.me with outbox := [{ e with id := s.myCore.nextId + 1 }], nr := true, pairOk := false, cmpWait := false } := by
  have hlong : ¬ s.me.outbox.length < outboxMax := Nat.not_lt.2 hfull
  rw [placed, if_neg hlong, commitPoint_eq, ← cur_setOutbox s (s.myCore.nextId + 1) (s.myCore.queue ++ drained s) _, putEntry_eq,
    setOutbox_setOutbox]
  simp [Core.setCarrel]

theorem placed_of_room {s : State} (hroom : s.me.outbox.length < 64) (e : Entry) :
    placed s e = putEntry s s.cur.1 s.cur.2 e := if_pos hroom

/-- With room or without, the entry changes the outbox, the queue and the marks of a commit point. -/
theorem placed_eq_setOutbox (s : State) (e : Entry) : ∃ n q o r p w,
    placed s e = setOutbox s n q { s.me with outbox := o, nr := r, pairOk := p, cmpWait := w } := by
  by_cases h : s.me.outbox.length < 64
  · exact ⟨_, _, _, _, _, _, (placed_of_room h e).trans (putEntry_eq s e)⟩
  · exact ⟨_, _, _, _, _, _, placed_of_full (Nat.not_lt.1 h) e⟩

/-- Settles O31: with room the entry is `putEntry`, without it the commit point goes first, and both are `setOutbox`. -/
theorem outboxFrame : Obligations.OutboxFrame := by
  unfold Obligations.OutboxFrame
  intro s e t _
  obtain ⟨n, q, o, r, p, w, hframe⟩ : ∃ n q o r p w, t = _ := placed_eq_setOutbox s e
  have hme : t.me = { s.me with outbox := o, nr := r, pairOk := p, cmpWait := w } := by rw [hframe, me_setOutbox]
  refine ⟨placed_of_room (e := e), fun hfull hsingle => ?_, by rw [hme], by rw [hme], by rw [hme], by rw [hme], by rw [hme], by rw [hme],
    by rw [hme], by rw [hme], by rw [hme], by rw [hme], by rw [hme], by rw [hme], by rw [hme], by rw [hframe]; rfl, by rw [hframe]; rfl,
    by rw [hframe]; rfl, by rw [hframe]; rfl, by rw [hframe]; rfl, fun c hc => ?_, fun j hj => ?_⟩
  · have ht : t = _ := placed_of_full hfull e
    rw [ht, me_setOutbox, myCore_setOutbox, drained_of_single hsingle]
    exact ⟨rfl, rfl, rfl⟩
  · rw [hframe, core_setOutbox_of_ne _ _ _ _ hc]
  · rw [hframe, carrel_setOutbox_of_ne _ _ _ _ hj]

end Sys2Proof.Proofs

namespace Sys2Proof.Proofs

open Sys2Proof Sys2Proof.Machine

/-! ### A synchronised word with a data result -/

/-- A result that is written into a state with the same streams passes the destination's gate as the statement has it. -/
theorem destGate_putData {s t : State} {d : Reg} {r : Word} (hstreams : t.me.streams = s.me.streams) (htakes : takes s d r = true) :
    destGate s d ((WordRes.done (t.putData d r)).element s d) = .go := by
  have hstream : t.me.stream d = s.me.stream d := by rw [Carrel.stream, hstreams]; rfl
  have hput := destGate_put s d (dataCap r) (by simpa [dataCap, TCap.data] using htakes)
  rw [← hput]
  cases hbound : s.me.stream d with
  | none => simp [destGate, hbound]
  | some st =>
    simp [WordRes.element, State.putData, stream_put _ _ _ st hbound, stream_put _ _ _ st (hstream.trans hbound), hbound, Carrel.left]

theorem givesSync_of_done {i : Instr} {d : Reg} {s : State} {r : Word} {body : State → List TCap → WordRes}
    (hexec : exec i s = runWord i { dc := some d } s body) (hbody : body s (readSources s.me []) = .done (s.putData d r)) :
    GivesSync i d [] s r := by
  intro hissue hready htakes
  rw [hexec, runWord_done (o := { dc := some d }) hissue hready hbody]
  · rfl
  · rintro _ ⟨⟩
    exact destGate_putData rfl htakes

/-! ### SCPGET (R173) -/

/-- The word of SCPGET in its fields. -/
theorem scpWord_eq (cover count : Nat) : scpWord cover count =
    (1 : BitVec 1) ++ (0 : BitVec 44) ++ BitVec.ofNat 3 cover ++ (0 : BitVec 3) ++ BitVec.ofNat 13 count := by
  refine BitVec.eq_of_toNat_eq ?_
  simp only [scpWord, toNat_append_eq_add, BitVec.ofNat_eq_ofNat, BitVec.toNat_ofNat]
  omega

/-- SCPGET of an entry comes to what its reading is. -/
def scpgetStep (d : Reg) (id : Nat) (s : State) : WordRes :=
  if id < 6 then .done (s.putData d (scpWord id (fixedScope s s.cur.1 id).length)) else
  match scopeReading s s.cur.1 s.cur.2 id with
  | (t, .error _) => .done (t.putData d 0)
  | (t, .ok r) => .done (t.putData d (if r.isSet then scpWord r.cover r.cores.length else 0))

theorem exec_scpget (d : Reg) (i : BitVec 6) (s : State) :
    exec (.scpget d i) s = runWord (.scpget d i) { dc := some d } s fun s _ => scpgetStep d i.toNat s := rfl

section
variable {s : State} {d : Reg} {id : Nat}

theorem scpgetStep_of_fixed (h : id < 6) :
    scpgetStep d id s = .done (s.putData d (scpWord id (fixedScope s s.cur.1 id).length)) := if_pos h

theorem scpgetStep_of_read {r : ScopeRead} (hid : 6 ≤ id) (hread : fget s.me.scopes id = some r) :
    scpgetStep d id s = .done (s.putData d (if r.isSet then scpWord r.cover r.cores.length else 0)) := by
  have hscope : scopeReading s s.cur.1 s.cur.2 id = (s, .ok r) := by
    rw [State.me, State.carrel] at hread
    simp only [scopeReading, hread]
  rw [scpgetStep, if_neg (Nat.not_lt.2 hid), hscope]

theorem scpgetStep_of_unset (hid : 6 ≤ id) (hread : fget s.me.scopes id = none) (hunset : s.myCtx.scopeSet.contains id = false) :
    scpgetStep d id s =
      .done ((s.modMe fun c => { c with scopes := fset c.scopes id { isSet := false, cover := 1, cores := [] } }).putData d 0) := by
  have hscope : scopeReading s s.cur.1 s.cur.2 id =
      (s.modMe fun c => { c with scopes := fset c.scopes id { isSet := false, cover := 1, cores := [] } },
        .ok { isSet := false, cover := 1, cores := [] }) := by
    rw [State.me, State.carrel] at hread
    rw [State.myCtx, State.myCore] at hunset
    simp only [scopeReading, hread, hunset]
    rfl
  rw [scpgetStep, if_neg (Nat.not_lt.2 hid), hscope]
  rfl

end

/-! ### SCPSET (R173) -/

/-- The sum of the powers of two below `2 ^ k` that pass a test, as the model folds it. -/
def bitSum (p : Nat → Bool) (k : Nat) : Nat := (List.range k).foldl (fun n j => if p j then n + 2 ^ j else n) 0

theorem bitSum_succ (p : Nat → Bool) (k : Nat) : bitSum p (k + 1) = if p k then bitSum p k + 2 ^ k else bitSum p k := by
  simp [bitSum, List.range_succ]

theorem bitSum_lt (p : Nat → Bool) (k : Nat) : bitSum p k < 2 ^ k := by
  induction k with
  | zero => simp [bitSum]
  | succ k ih =>
    rw [bitSum_succ, Nat.pow_succ]
    split <;> omega

theorem testBit_bitSum (p : Nat → Bool) {j k : Nat} (hj : j < k) : (bitSum p k).testBit j = p j := by
  induction k with
  | zero => omega
  | succ k ih =>
    rw [bitSum_succ]
    rcases Nat.lt_succ_iff_lt_or_eq.1 hj with hlt | rfl
    · split
      · rw [Nat.add_comm, Nat.testBit_two_pow_add_gt hlt, ih hlt]
      · exact ih hlt
    · have htop : (bitSum p j).testBit j = false := Nat.testBit_lt_two_pow (bitSum_lt p j)
      split
      next hp => rw [Nat.add_comm, Nat.testBit_two_pow_add_eq, htop, hp]; rfl
      next hp => rw [htop]; simpa using hp

theorem getD_clearClosed {s : State} {ctx n : Nat} {bs : List TByte} (hn : n < bs.length) :
    (clearClosed s ctx bs).getD n (0, false) =
      (BitVec.ofNat 8 (bitSum (fun j => ((bs.getD n (0, false)).1).getLsbD j && inOpenBay s ctx (8 * n + j)) 8), false) := by
  simp [clearClosed, bitSum, hn]

/-- SCPSET of a bitmap in an address of a capability. -/
def scpsetStep (i : Nat) (s : State) (cap : TCap) : WordRes :=
  let addr := capAddr cap.val
  if addr % 64 ≠ 0 then .trap 0x101 (BitVec.ofNat 64 addr) else
  match capCheck s s.cur.1 cap addr 512 permR with
  | some c => .trap c (BitVec.ofNat 64 addr)
  | none => readBuf 0 s addr 512 fun s bs =>
    let va := scopeSlot s.myCore.cregs.scpbase i
    match Machine.translate s s.cur.1 s.myCore.ctx va .vecW (s.cur.1 / 1024) with
    | (t, .fail c) => .trapWith t c (BitVec.ofNat 64 va)
    | (t, .ok p _) =>
      let pa := p * 4096 + va % 4096
      if !(hasDram pa) then .fault (.noDram pa) else
      if homeBusy t pa 512 then .stall else
      afterLoads t <|
        let u := coherentWrite t pa (clearClosed t s.myCore.ctx bs)
        .done (u.setCtx s.myCore.ctx { u.ctx s.myCore.ctx with scopeSet := insertNat (u.ctx s.myCore.ctx).scopeSet i })

theorem exec_scpset (a : Reg) (i : BitVec 6) (s : State) :
    exec (.scpset a i) s = runWord (.scpset a i) { cs := [a] } s fun s vs => scpsetStep i.toNat s (src vs 0) := rfl

theorem scpsetStep_of_misaligned {i : Nat} {s : State} {cap : TCap} (h : capAddr cap.val % 64 ≠ 0) :
    scpsetStep i s cap = .trap 0x101 (BitVec.ofNat 64 (capAddr cap.val)) := if_pos h

/-- SCPSET with its bitmap at hand, and the slot of its id in memory that the home can write now. -/
theorem scpsetStep_done {i pgran : Nat} {s t u : State} {cap : TCap} {bs : List TByte} {e : RtEntry}
    (haligned : capAddr cap.val % 64 = 0) (hcheck : capCheck s s.cur.1 cap (capAddr cap.val) 512 permR = none)
    (harrived : arrived s (capAddr cap.val) 512 = some (t, bs))
    (hslot : Machine.translate t t.cur.1 t.myCore.ctx (scopeSlot t.myCore.cregs.scpbase i) .vecW (t.cur.1 / 1024) = (u, .ok pgran e))
    (hdram : hasDram (pgran * 4096 + scopeSlot t.myCore.cregs.scpbase i % 4096) = true)
    (hfree : homeBusy u (pgran * 4096 + scopeSlot t.myCore.cregs.scpbase i % 4096) 512 = false) (hsettled : u.me.settled = true) :
    let x := coherentWrite u (pgran * 4096 + scopeSlot t.myCore.cregs.scpbase i % 4096) (clearClosed u t.myCore.ctx bs)
    scpsetStep i s cap = .done (x.setCtx t.myCore.ctx { x.ctx t.myCore.ctx with
      scopeSet := insertNat (x.ctx t.myCore.ctx).scopeSet i }) := by
  intro x
  have hmis : ¬ capAddr cap.val % 64 ≠ 0 := not_not_intro haligned
  simp only [scpsetStep, hmis, if_false, hcheck, readBuf_of_arrived harrived, hslot, hdram, hfree, Bool.not_true, Bool.false_eq_true,
    afterLoads, hsettled, if_true]
  rfl

/-- Settles O26: SCPGET gives what the reading of its entry is, SCPSET writes its bitmap, and a bit of the bitmap stays where its
core is in an open bay. -/
theorem scopeTable : Obligations.ScopeTable := by
  unfold Obligations.ScopeTable
  intro s d a i
  refine ⟨fun hfixed => ?_, fun hid hread hunset hissue hready htakes => ?_, fun r hid hread => ?_, fun hissue hready => ?_,
    fun bs n hn j hj => ?_⟩
  · refine givesSync_of_done (exec_scpget d i s) ((scpgetStep_of_fixed hfixed).trans ?_)
    have hcover : BitVec.ofNat 3 i.toNat = i.extractLsb' 0 3 := by
      refine BitVec.eq_of_toNat_eq ?_
      simp
    rw [scpWord_eq, hcover]
  · rw [exec_scpget, runWord_done (o := { dc := some d }) hissue hready (scpgetStep_of_unset hid hread hunset)]
    · rfl
    · rintro _ ⟨⟩
      exact destGate_putData (by rw [me_modMe]) htakes
  · refine givesSync_of_done (exec_scpget d i s) ((scpgetStep_of_read hid hread).trans ?_)
    rw [scpWord_eq]
  · refine ⟨fun hprimary hmis hsettled => ?_, fun haligned hcheck t bs u p e harrived hslot hdram hfree hsettled => ?_⟩
    · exact (exec_scpset a i s).trans (runWord_trap_of_not_primary hissue hready hprimary (scpsetStep_of_misaligned hmis) (by decide)
        hsettled)
    · exact (exec_scpset a i s).trans (runWord_finished hissue hready rfl
        (scpsetStep_done haligned hcheck harrived hslot hdram hfree hsettled))
  · rw [getD_clearClosed hn, BitVec.getLsbD_ofNat, testBit_bitSum _ hj, decide_eq_true hj, Bool.true_and]

end Sys2Proof.Proofs

namespace Sys2Proof.Proofs

open Sys2Proof Sys2Proof.Machine

/-! ### Outboxes, NR and streams through the caches: an atomic access, wherever it is performed (R333), leaves those of every carrel -/

/-- The outbox of a carrel, its NR and its streams. -/
def kept (c : Carrel) : List Entry × Bool × FMap Stream := (c.outbox, c.nr, c.streams)

/-- The carrels of `s` have the outboxes, NR and streams of those of `u`, and the executing word is the same. -/
structure CarrelsKept (u s : State) : Prop where
  cur : s.cur = u.cur
  carrels : ∀ c i, kept (s.carrel c i) = kept (u.carrel c i)

theorem CarrelsKept.refl (u : State) : CarrelsKept u u := ⟨rfl, fun _ _ => rfl⟩

section
variable {u s : State}

theorem CarrelsKept.me (h : CarrelsKept u s) : kept s.me = kept u.me := by
  rw [State.me, h.cur, h.carrels]
  rfl

theorem CarrelsKept.of_cores_eq {t : State} (h : CarrelsKept u s) (hcores : t.cores = s.cores) (hcur : t.cur = s.cur) :
    CarrelsKept u t :=
  ⟨hcur.trans h.cur, fun c i => by rw [← h.carrels c i, State.carrel, State.core, hcores]; rfl⟩

theorem carrelsKept_foldl {α : Type} {f : State → α → State} (hf : ∀ s a, CarrelsKept u s → CarrelsKept u (f s a)) (l : List α)
    (h : CarrelsKept u s) : CarrelsKept u (l.foldl f s) := foldl_keeps hf l h

theorem carrelsKept_modCore (h : CarrelsKept u s) (c : Nat) (f : Core → Core) (hf : ∀ k i, kept ((f k).carrel i) = kept (k.carrel i)) :
    CarrelsKept u (s.modCore c f) := by
  refine ⟨h.cur, fun d i => ?_⟩
  rw [← h.carrels d i, State.carrel, State.modCore, core_setCore]
  split
  · next e => rw [hf, e]; rfl
  · rfl

theorem carrelsKept_modCluster (h : CarrelsKept u s) (k : Nat) (f : Cluster → Cluster) : CarrelsKept u (s.modCluster k f) :=
  h.of_cores_eq rfl rfl

theorem carrelsKept_modCache (h : CarrelsKept u s) (r : CacheRef) (f : Cache → Cache) : CarrelsKept u (s.modCache r f) := by
  cases r with
  | l1 c => exact carrelsKept_modCore h c (fun k => { k with l1 := f k.l1 }) fun _ _ => rfl
  | l2 k => exact h.of_cores_eq rfl rfl

theorem carrelsKept_refreshMask (h : CarrelsKept u s) (k key : Nat) : CarrelsKept u (refreshMask s k key) := h.of_cores_eq rfl rfl

section
variable {ev : State → Folio → State} (hev : ∀ s f, CarrelsKept u s → CarrelsKept u (ev s f))
include hev

theorem carrelsKept_makeRun (r : CacheRef) (n : Nat) (keep : List Folio) (fuel : Nat) {s : State} (h : CarrelsKept u s)
    {p : State × Nat} (hp : makeRun ev r n keep fuel s = some p) : CarrelsKept u p.1 := by
  fun_induction makeRun <;> grind [Option.map_eq_some_iff]

theorem carrelsKept_mergeStep (h : CarrelsKept u s) (r : CacheRef) (key : Nat) {t : State} (ht : mergeStep ev s r key = some t) :
    CarrelsKept u t := by
  obtain ⟨⟨f, g⟩, -, hpair⟩ := List.exists_of_findSome?_eq_some ht
  obtain ⟨v, hv, rfl⟩ := Option.map_eq_some_iff.mp hpair
  have hjoined : CarrelsKept u v := by
    split at hv
    · cases hv
      exact carrelsKept_modCache h _ _
    · obtain ⟨⟨w, b⟩, hrun, rfl⟩ := Option.map_eq_some_iff.mp hv
      exact carrelsKept_modCache (carrelsKept_makeRun hev r _ _ _ h hrun) _ _
  cases r with
  | l1 _ => exact hjoined
  | l2 k => exact carrelsKept_refreshMask hjoined k _

theorem carrelsKept_freeWays (r : CacheRef) (key n fuel : Nat) {s : State} (h : CarrelsKept u s) {t : State}
    (ht : freeWays ev r key n fuel s = some t) : CarrelsKept u t := by
  fun_induction freeWays <;> grind [carrelsKept_mergeStep]

theorem carrelsKept_makeWay (h : CarrelsKept u s) (r : CacheRef) (key : Nat) {t : State} (ht : makeWay ev s r key = some t) :
    CarrelsKept u t := by
  unfold makeWay at ht
  split at ht
  · next hways => exact carrelsKept_freeWays hev r key 1 8 h (hways.trans ht)
  · obtain ⟨f, -, rfl⟩ := Option.map_eq_some_iff.mp ht
    exact hev s f h

theorem carrelsKept_newFolio (h : CarrelsKept u s) (r : CacheRef) (f : Folio) (lru : Bool) {t : State}
    (ht : newFolio ev s r f lru = some t) : CarrelsKept u t := by
  unfold newFolio at ht
  split at ht
  · cases ht
  · next v hway =>
    obtain ⟨⟨w, b⟩, hrun, rfl⟩ := Option.map_eq_some_iff.mp ht
    exact carrelsKept_modCache (carrelsKept_makeRun hev r _ _ _ (carrelsKept_makeWay hev h r _ hway) hrun) _ _

theorem carrelsKept_cutFolios {lost : State → Folio → List Folio → State}
    (hlost : ∀ s f fs, CarrelsKept u s → CarrelsKept u (lost s f fs))
    (r : CacheRef) (key lo hi : Nat) (win : Bool) (fuel : Nat) {s : State} (h : CarrelsKept u s) :
    CarrelsKept u (cutFolios ev lost r key lo hi win fuel s) := by
  fun_induction cutFolios <;> grind [carrelsKept_mergeStep, carrelsKept_modCache]

end

theorem carrelsKept_evictL1 (h : CarrelsKept u s) (c : Nat) (f : Folio) : CarrelsKept u (evictL1 s c f) :=
  carrelsKept_refreshMask (carrelsKept_modCache h _ _) ..

theorem carrelsKept_removeL1 (h : CarrelsKept u s) (c key lo hi : Nat) (win : Bool) : CarrelsKept u (removeL1 s c key lo hi win) := by
  unfold removeL1
  grind [carrelsKept_cutFolios, carrelsKept_evictL1, carrelsKept_modCache, carrelsKept_refreshMask]

theorem carrelsKept_removeFromL1s (h : CarrelsKept u s) (k key lo hi : Nat) (win : Bool) :
    CarrelsKept u (removeFromL1s s k key lo hi win) :=
  carrelsKept_foldl (fun _ c hs => carrelsKept_removeL1 hs c ..) _ h

theorem carrelsKept_taintWriters (h : CarrelsKept u s) (f : Folio) (ws : List Nat) : CarrelsKept u (taintWriters s f ws) := by
  unfold taintWriters
  split
  · exact h
  · exact h.of_cores_eq rfl rfl

theorem carrelsKept_writeMem (h : CarrelsKept u s) (a : Nat) (bs : List TByte) : CarrelsKept u (s.writeMem a bs) := by
  induction bs generalizing a s with
  | nil => exact h
  | cons b bs ih => exact ih (s := s.setMemByte a b) (h.of_cores_eq rfl rfl) (a + 1)

theorem carrelsKept_storeMem (h : CarrelsKept u s) (a : Nat) (bs : List TByte) : CarrelsKept u (s.storeMem a bs) :=
  (carrelsKept_writeMem h a bs).of_cores_eq rfl rfl

theorem carrelsKept_writeBack (h : CarrelsKept u s) (k : Nat) (f : Folio) (lo hi : Nat) : CarrelsKept u (writeBack s k f lo hi) :=
  (carrelsKept_storeMem (carrelsKept_taintWriters h f _) ..).of_cores_eq rfl rfl

theorem carrelsKept_sendEvn (h : CarrelsKept u s) (k : Nat) (f : Folio) : CarrelsKept u (sendEvn s k f) := by
  unfold sendEvn
  split
  · split
    · exact carrelsKept_writeBack h ..
    · exact h
  · split
    · exact h.of_cores_eq rfl rfl
    · refine carrelsKept_foldl (fun t p ht => ?_) _ (carrelsKept_taintWriters h ..)
      exact ht.of_cores_eq rfl rfl

theorem carrelsKept_leaveMasks (h : CarrelsKept u s) (k key : Nat) : CarrelsKept u (leaveMasks s k key) := h.of_cores_eq rfl rfl

theorem carrelsKept_dropL2 (h : CarrelsKept u s) (k : Nat) (f : Folio) : CarrelsKept u (dropL2 s k f) :=
  carrelsKept_leaveMasks (carrelsKept_removeFromL1s (carrelsKept_modCache h _ _) ..) ..

theorem carrelsKept_evictL2 (h : CarrelsKept u s) (k : Nat) (f : Folio) : CarrelsKept u (evictL2 s k f) :=
  carrelsKept_dropL2 (carrelsKept_sendEvn h k f) k f

theorem carrelsKept_loseL2 (h : CarrelsKept u s) (k : Nat) (f : Folio) (parts : List Folio) : CarrelsKept u (loseL2 s k f parts) :=
  carrelsKept_dropL2 (carrelsKept_foldl (fun _ p hs => carrelsKept_sendEvn hs k p) _ h) k f

theorem carrelsKept_removeL2 (h : CarrelsKept u s) (k key lo hi : Nat) (win tell : Bool) :
    CarrelsKept u (removeL2 s k key lo hi win tell).1 := by
  unfold removeL2
  grind [carrelsKept_cutFolios, carrelsKept_evictL2, carrelsKept_leaveMasks, carrelsKept_loseL2, carrelsKept_modCache, carrelsKept_removeFromL1s]

theorem carrelsKept_copyBack (h : CarrelsKept u s) (k key lo hi : Nat) (win : Bool) : CarrelsKept u (copyBack s k key lo hi win) :=
  carrelsKept_foldl (fun _ f hs => carrelsKept_writeBack hs k f lo hi) _ h

theorem carrelsKept_newL2 (h : CarrelsKept u s) (k key lo hi : Nat) (st : FState) (data : List TByte) (p : Policy) {t : State}
    (ht : newL2 s k key lo hi st data p = some t) : CarrelsKept u t := by
  obtain ⟨v, hv, rfl⟩ := Option.map_eq_some_iff.mp ht
  exact carrelsKept_refreshMask (carrelsKept_newFolio (fun _ f hs => carrelsKept_evictL2 hs k f) h _ _ _ hv) ..

theorem carrelsKept_updateL1s (h : CarrelsKept u s) (k key : Nat) (bytes : List (Nat × TByte)) (lo hi : Nat) :
    CarrelsKept u (updateL1s s k key bytes lo hi) :=
  carrelsKept_foldl (fun _ _ ht => by split <;> [exact carrelsKept_modCache ht _ _; exact ht]) _ h

theorem carrelsKept_dirtyClean (k key lo hi : Nat) (own : Option (Nat × Nat)) (n : Nat) {s : State} (h : CarrelsKept u s) :
    CarrelsKept u (dirtyClean k key lo hi own n s) := by
  fun_induction dirtyClean <;> grind [carrelsKept_mergeStep, carrelsKept_evictL2, carrelsKept_foldl, carrelsKept_modCache,
    carrelsKept_removeFromL1s, carrelsKept_sendEvn]

theorem carrelsKept_writeHeld (h : CarrelsKept u s) (k key lo : Nat) (bs : List TByte) (p : Policy) :
    CarrelsKept u (writeHeld s k key lo bs p) :=
  carrelsKept_updateL1s (carrelsKept_refreshMask (carrelsKept_modCache (carrelsKept_dirtyClean _ _ _ _ _ _ h) _ _) ..) ..

theorem carrelsKept_addDirty (h : CarrelsKept u s) (k key lo : Nat) (bs : List TByte) (p : Policy) {t : State}
    (ht : addDirty s k key lo bs p = some t) : CarrelsKept u t := by
  unfold addDirty at ht
  grind [carrelsKept_modCache, carrelsKept_newL2, carrelsKept_refreshMask]

/-- What every entry of a map keeps of its value, the map keeps of the value of each number. -/
theorem fgetD_map_of {α β : Type} {f : Nat × α → Nat × α} {g : α → β} (hf : ∀ p, (f p).1 = p.1 ∧ g (f p).2 = g p.2) (m : FMap α)
    (k : Nat) (d : α) : g (fgetD (m.map f) k d) = g (fgetD m k d) := by
  induction m with
  | nil => rfl
  | cons p m ih =>
    obtain ⟨hkey, hval⟩ := hf p
    simp only [fgetD, List.map_cons, fget, hkey] at ih ⊢
    split
    · exact hval
    · exact ih

/-- A core each of whose carrels keeps its outbox, NR and streams. -/
theorem kept_map_carrels {f : Nat × Carrel → Nat × Carrel} (hf : ∀ p, (f p).1 = p.1 ∧ kept (f p).2 = kept p.2) (k : Core) (i : Nat) :
    kept (({ k with carrels := k.carrels.map f } : Core).carrel i) = kept (k.carrel i) := fgetD_map_of hf _ i {}

theorem carrelsKept_staleReads (h : CarrelsKept u s) (k pa len : Nat) : CarrelsKept u (staleReads s k pa len) := by
  refine ⟨h.cur, fun c i => ?_⟩
  rw [← h.carrels c i]
  refine fgetD_map_of (g := fun x : Core => kept (x.carrel i)) (fun p => ⟨?_, ?_⟩) s.cores c {}
  · dsimp only
    split <;> rfl
  · dsimp only
    split
    · exact kept_map_carrels (by exact fun _ => ⟨rfl, rfl⟩) p.2 i
    · rfl

/-- Bytes are added run after run, as long as each finds a way. -/
theorem carrelsKept_foldl_bind {α : Type} {f : State → α → Option State}
    (hf : ∀ s a t, CarrelsKept u s → f s a = some t → CarrelsKept u t) (l : List α) {o : Option State} {t : State}
    (ho : ∀ v, o = some v → CarrelsKept u v) (ht : l.foldl (fun o a => o.bind fun s => f s a) o = some t) : CarrelsKept u t :=
  foldl_keeps (P := fun o => ∀ v, o = some v → CarrelsKept u v) (fun o a hP v hv => by
    obtain ⟨w, hw, hv⟩ := Option.bind_eq_some_iff.mp hv
    exact hf w a v (hP w hw) hv) l ho t ht

theorem carrelsKept_placeWrite (h : CarrelsKept u s) (k key lo : Nat) (bs : List TByte) (p : Policy) {t : State}
    (ht : placeWrite s k key lo bs p = some t) : CarrelsKept u t :=
  carrelsKept_foldl_bind (f := fun s (a : Nat × Nat) => addDirty s k key a.1 ((bs.drop (a.1 - lo)).take (a.2 - a.1)) p)
    (fun _ _ _ hs hv => carrelsKept_addDirty hs _ _ _ _ _ hv) _
    (fun _ hv => Option.some.inj hv ▸ carrelsKept_staleReads (carrelsKept_writeHeld h k key lo bs p) _ _ _) ht

/-! ### The same through a scratchpad region (R149) -/

theorem cores_trigger (s : State) (k p : Nat) : (trigger s k p).cores = s.cores ∧ (trigger s k p).cur = s.cur := by
  unfold trigger honour
  grind [State.modCluster, State.setCluster, State.tellOs, State.emit, State.modHub]

theorem carrelsKept_countAt (h : CarrelsKept u s) (core : Nat) : CarrelsKept u (countAt s core) := by
  unfold countAt countError
  dsimp only
  split
  · exact h.of_cores_eq (cores_trigger ..).1 (cores_trigger ..).2
  · exact h.of_cores_eq rfl rfl

theorem carrelsKept_repairScr (h : CarrelsKept u s) (core region off : Nat) : CarrelsKept u (repairScr s core region off) := by
  unfold repairScr
  dsimp only
  split
  · exact h
  · exact carrelsKept_countAt (carrelsKept_modCore h core _ fun _ _ => by rfl) core

theorem carrelsKept_healRegion (h : CarrelsKept u s) (core region off n : Nat) : CarrelsKept u (healRegion s core region off n) :=
  carrelsKept_foldl (fun _ _ ht => by split <;> [exact carrelsKept_repairScr ht ..; exact ht]) _ h

theorem carrelsKept_scrPut (h : CarrelsKept u s) (core region off : Nat) (bs : List TByte) : CarrelsKept u (scrPut s core region off bs) :=
  carrelsKept_foldl (fun _ _ ht => carrelsKept_modCluster (carrelsKept_modCore ht core _ fun _ _ => by rfl) ..) _ h

theorem carrelsKept_wakeBwait (h : CarrelsKept u s) (core region off len : Nat) : CarrelsKept u (wakeBwait s core region off len) := by
  refine carrelsKept_modCore h core _ fun k i => kept_map_carrels (fun p => ⟨by rfl, ?_⟩) k i
  dsimp only
  split
  · split
    · split <;> rfl
    · rfl
  · rfl

theorem carrelsKept_scrWrite (h : CarrelsKept u s) (core region off : Nat) (bs : List TByte) :
    CarrelsKept u (scrWrite s core region off bs) :=
  (carrelsKept_wakeBwait (carrelsKept_scrPut h core region off bs) core region off bs.length).of_cores_eq rfl rfl

/-! ### The same through an atomic access (R333) -/

theorem carrelsKept_flushOwn (h : CarrelsKept u s) (k pa len : Nat) : CarrelsKept u (flushOwn s k pa len) :=
  carrelsKept_foldl (fun _ _ ht => carrelsKept_removeL2 (carrelsKept_copyBack ht ..) ..) _ h

theorem carrelsKept_atomicMem (h : CarrelsKept u s) (pa : Nat) (bs : List (TByte × Bool)) (l : Outst) :
    CarrelsKept u (atomicMem s pa bs l).1 := by
  unfold atomicMem
  grind [carrelsKept_storeMem]

theorem carrelsKept_atomicL2 (h : CarrelsKept u s) (core pa : Nat) (bs : List (TByte × Bool)) (l : Outst) (own : Option (Nat × Nat))
    {r : State × Outst} (hr : atomicL2 s core pa bs l own = some r) : CarrelsKept u r.1 := by
  unfold atomicL2 at hr
  split at hr
  · cases hr; exact h
  · split at hr
    · cases hr; exact h
    · obtain ⟨t, ht, rfl⟩ := Option.map_eq_some_iff.mp hr
      exact carrelsKept_placeWrite h _ _ _ _ _ ht

theorem carrelsKept_atomicScr (h : CarrelsKept u s) (core region off : Nat) (l : Outst) :
    CarrelsKept u (atomicScr s core region off l).1 := by
  unfold atomicScr
  grind [carrelsKept_healRegion, carrelsKept_scrWrite]

theorem carrelsKept_sendOp (h : CarrelsKept u s) (core : Nat) (user : ReqUser) (l : Loc) (op : PeerOp) :
    CarrelsKept u (sendOp s core user l op).1 := by
  have hseq : ∀ (t : State) (stream : Nat), CarrelsKept u t → CarrelsKept u (takeSeq t core stream).1 := fun t stream ht =>
    carrelsKept_modCore ht core
      (fun k => { k with sendSeq := fset k.sendSeq stream ((fgetD (t.core core).sendSeq stream 0 + 1) % 65536) }) fun _ _ => rfl
  have hreq : ∀ addr outside, CarrelsKept u (newReq s user addr outside).1 := fun _ _ => h.of_cores_eq rfl rfl
  have hsend : ∀ (t : State) r f, CarrelsKept u t → CarrelsKept u (sendReq t r f) := fun _ _ _ ht => ht.of_cores_eq rfl rfl
  have hemit : ∀ (t : State) o, CarrelsKept u t → CarrelsKept u (t.emit o) := fun _ _ ht => ht.of_cores_eq rfl rfl
  unfold sendOp
  grind

theorem carrelsKept_sendCatReq (h : CarrelsKept u s) (k : Nat) (user : CatUser) (m : CatMsg) : CarrelsKept u (sendCatReq s k user m) :=
  h.of_cores_eq rfl rfl

theorem carrelsKept_stepAtomic (h : CarrelsKept u s) (core carrel : Nat) (l : Outst) :
    CarrelsKept u (stepAtomic s core carrel l).1 := by
  unfold stepAtomic
  grind [carrelsKept_atomicL2, carrelsKept_atomicMem, carrelsKept_atomicScr, carrelsKept_flushOwn, carrelsKept_sendCatReq,
    carrelsKept_sendOp]

end

end Sys2Proof.Proofs

namespace Sys2Proof.Proofs

open Sys2Proof Sys2Proof.Machine

/-! ### States with the same caches: what is read and written in a scratchpad region depends on nothing else (R148, R149) -/

/-- Every cache of the two states holds the same. -/
structure SameCaches (s t : State) : Prop where
  l1 : ∀ c, (s.core c).l1 = (t.core c).l1
  l2 : ∀ k, (s.cluster k).l2 = (t.cluster k).l2

theorem SameCaches.refl (s : State) : SameCaches s s := ⟨fun _ => rfl, fun _ => rfl⟩
theorem SameCaches.symm {s t : State} (h : SameCaches s t) : SameCaches t s := ⟨fun c => (h.l1 c).symm, fun k => (h.l2 k).symm⟩
theorem SameCaches.trans {s t u : State} (h : SameCaches s t) (h' : SameCaches t u) : SameCaches s u :=
  ⟨fun c => (h.l1 c).trans (h'.l1 c), fun k => (h.l2 k).trans (h'.l2 k)⟩

theorem sameCaches_modCore (s : State) (c : Nat) {f : Core → Core} (hf : ∀ k, (f k).l1 = k.l1) : SameCaches (s.modCore c f) s := by
  refine ⟨fun d => ?_, fun _ => rfl⟩
  rw [State.modCore, core_setCore]
  split
  · next e => rw [hf, e]
  · rfl

theorem cluster_modCluster (s : State) (k j : Nat) (f : Cluster → Cluster) :
    (s.modCluster k f).cluster j = if k = j then f (s.cluster k) else s.cluster j := by
  simp [State.modCluster, State.setCluster, State.cluster, fgetD_fset]

theorem sameCaches_modCluster (s : State) (k : Nat) {f : Cluster → Cluster} (hf : ∀ c, (f c).l2 = c.l2) :
    SameCaches (s.modCluster k f) s := by
  refine ⟨fun _ => rfl, fun j => ?_⟩
  rw [cluster_modCluster]
  split
  · next e => rw [hf, e]
  · rfl

theorem sameCaches_trigger (s : State) (k p : Nat) : SameCaches (trigger s k p) s := by
  have htold : ∀ o, SameCaches (s.tellOs o) s := fun _ => ⟨fun _ => rfl, fun _ => rfl⟩
  unfold trigger honour
  grind [sameCaches_modCluster]

theorem sameCaches_countAt (s : State) (core : Nat) : SameCaches (countAt s core) s := by
  have hhealth : ∀ w, SameCaches (s.setHealth (clusterOf core) (physOf s core) w) s := fun w => sameCaches_modCluster _ _ fun _ => rfl
  unfold countAt countError
  dsimp only
  split
  · exact (sameCaches_trigger ..).trans (hhealth _)
  · exact hhealth _

theorem sameCaches_wakeBwait (s : State) (core region off len : Nat) : SameCaches (wakeBwait s core region off len) s := by
  unfold wakeBwait
  exact sameCaches_modCore s core fun _ => by rfl

section
variable {s t : State} (h : SameCaches s t)
include h

theorem scrByte_of_sameCaches (core region off : Nat) : scrByte s core region off = scrByte t core region off := by
  rw [scrByte, scrByte, h.l1]

theorem twinByte_of_sameCaches (core region off : Nat) : twinByte s core region off = twinByte t core region off := by
  rw [twinByte, twinByte, h.l2]

theorem baseNow_of_sameCaches (core region off : Nat) :
    baseNow s core .caches (.scr core region off) = baseNow t core .caches (.scr core region off) := by
  simp only [baseNow, scrByte_of_sameCaches h, twinByte_of_sameCaches h]

theorem sameCaches_setL1 (core : Nat) (g : Cache → Cache) :
    SameCaches (s.modCore core fun k => { k with l1 := g k.l1 }) (t.modCore core fun k => { k with l1 := g k.l1 }) := by
  refine ⟨fun d => ?_, h.l2⟩
  simp only [State.modCore, core_setCore]
  split
  · rw [h.l1]
  · exact h.l1 d

theorem sameCaches_setL2 (k : Nat) (g : Cache → Cache) :
    SameCaches (s.modCluster k fun c => { c with l2 := g c.l2 }) (t.modCluster k fun c => { c with l2 := g c.l2 }) := by
  refine ⟨h.l1, fun j => ?_⟩
  simp only [cluster_modCluster]
  split
  · rw [h.l2]
  · exact h.l2 j

theorem sameCaches_repairScr (core region off : Nat) : SameCaches (repairScr s core region off) (repairScr t core region off) := by
  have htwin : ∀ o, twinByte s core region o = twinByte t core region o := twinByte_of_sameCaches h core region
  unfold repairScr
  simp only [h.l1, htwin]
  split
  · exact h
  · exact (sameCaches_countAt ..).trans ((sameCaches_setL1 h core fun _ => _).trans (sameCaches_countAt ..).symm)

theorem sameCaches_healRegion (core region off n : Nat) :
    SameCaches (healRegion s core region off n) (healRegion t core region off n) :=
  List.foldl_rel h fun j _ s t hst => by
    simp only [scrByte_of_sameCaches hst, twinByte_of_sameCaches hst]
    split
    · exact sameCaches_repairScr hst ..
    · exact hst

theorem sameCaches_scrPut (core region off : Nat) (bs : List TByte) :
    SameCaches (scrPut s core region off bs) (scrPut t core region off bs) :=
  List.foldl_rel h fun ⟨g, lo, hi⟩ _ _ _ hst =>
    let bytes := offsets lo ((bs.drop (g * 4096 + lo - off)).take (hi - lo))
    let tkey := twinKey (slotOf core) region g
    sameCaches_setL2 (sameCaches_setL1 hst core fun x => (x.updateHeld true (scrKey region g) bytes).scrub true (scrKey region g) lo hi)
      (clusterOf core) fun x => (x.updateHeld true tkey bytes).scrub true tkey lo hi

theorem sameCaches_scrWrite (core region off : Nat) (bs : List TByte) :
    SameCaches (scrWrite s core region off bs) (scrWrite t core region off bs) := by
  have hwake : ∀ x : State, SameCaches (scrWrite x core region off bs) (scrPut x core region off bs) := fun x => by
    have hnodes : ∀ y : State, SameCaches (wakeNodes y core region off bs.length) y := fun y => ⟨fun _ => rfl, fun _ => rfl⟩
    exact (hnodes _).trans (sameCaches_wakeBwait ..)
  exact (hwake s).trans ((sameCaches_scrPut h core region off bs).trans (hwake t).symm)

end

theorem cur_healRegion (s : State) (core region off n : Nat) : (healRegion s core region off n).cur = s.cur :=
  (carrelsKept_healRegion (.refl s) core region off n).cur

/-! ### The bytes that an atomic access has read, as a number (R332) -/

theorem lbNat_cons (b : LByte) (bs : List LByte) : lbNat (b :: bs) = b.byte.1.toNat * 256 ^ b.dst + lbNat bs := by
  simp [lbNat]

/-- Bytes in ascending places from `k` on. -/
theorem lbNat_zipIdx {f : (TByte × Bool) × Nat → LByte} (hf : ∀ p, (f p).byte = p.1.1 ∧ (f p).dst = p.2) (bs : List (TByte × Bool)) :
    ∀ k, lbNat ((bs.zipIdx k).map f) = 256 ^ k * oldOf bs := by
  induction bs with
  | nil => intro k; simp [lbNat, oldOf, tbNat, leNat]
  | cons b bs ih =>
    intro k
    obtain ⟨hbyte, hdst⟩ := hf (b, k)
    have hold : oldOf (b :: bs) = b.1.1.toNat + 256 * oldOf bs := rfl
    rw [List.zipIdx_cons, List.map_cons, lbNat_cons, ih, hbyte, hdst, hold]
    ring

theorem lbNat_withOld (l : Outst) (bs : List (TByte × Bool)) : lbNat (l.withOld bs).got = oldOf bs :=
  (lbNat_zipIdx (f := fun p => { dst := p.2, addr := l.addr + BitVec.ofNat 64 p.2, byte := p.1.1, poison := p.1.2 })
    (fun _ => ⟨rfl, rfl⟩) bs 0).trans (by simp)

theorem firstPoison_withOld {l : Outst} {bs : List (TByte × Bool)} (h : ∀ b ∈ bs, b.2 = false) : firstPoison (l.withOld bs) = none := by
  simp only [firstPoison, Outst.withOld, Option.map_eq_none_iff, List.find?_eq_none, List.mem_map]
  rintro _ ⟨p, hp, rfl⟩
  have := h p.1 (List.fst_mem_of_mem_zipIdx hp)
  simpa using this

/-- The register value of an atomic access of a word or a doubleword (R331). -/
theorem extValue_eq (w : Bool) (v : Nat) : extValue (if w then 4 else 8) true v =
    dataCap (if w then (BitVec.ofNat 32 v).signExtend 64 else BitVec.ofNat 64 v) := by
  cases w <;> simp [extValue, sext64_eq_signExtend]

/-! ### An access that is over (R164) -/

theorem land_frame (c : Carrel) (l : Outst) : (c.land l).outbox = c.outbox ∧ (c.land l).nr = c.nr := by
  have hput : ∀ r v, (c.put r v).outbox = c.outbox ∧ (c.put r v).nr = c.nr := fun r v => by rw [put_frame]; exact ⟨rfl, rfl⟩
  have hfill : ∀ r id x, (c.fillStream r id x).outbox = c.outbox ∧ (c.fillStream r id x).nr = c.nr := fun r id x => by
    unfold Carrel.fillStream; split <;> exact ⟨rfl, rfl⟩
  have hmark : ∀ r m, (c.markReg r m).outbox = c.outbox ∧ (c.markReg r m).nr = c.nr := fun r m => by
    unfold Carrel.markReg; split <;> exact ⟨rfl, rfl⟩
  have hset : ∀ v x, (c.setV v x).outbox = c.outbox ∧ (c.setV v x).nr = c.nr := fun _ _ => ⟨rfl, rfl⟩
  unfold Carrel.land
  grind

/-- An access that met no poison lands in its carrel. -/
theorem finishLoad_of_clean {l : Outst} (h : firstPoison l = none) (s : State) (c i : Nat) : finishLoad s c i l =
    { s with reqs := s.reqs.filter fun q => q.user != ReqUser.access c i l.id }.modCarrel c i fun x =>
      ({ x with loads := x.loads.filter fun y => y.id ≠ l.id }.landAll l).syncResult l := by
  simp only [finishLoad, h]
  simp [State.modCarrel, State.setCarrel, State.setCore, State.carrel, State.core, Core.setCarrel, Core.carrel, fset_fset]

end Sys2Proof.Proofs

namespace Sys2Proof.Proofs

open Sys2Proof Sys2Proof.Machine

/-! ### The value-returning access after its commit (R332, R344) -/

theorem tryCommit_of_commits {s : State} (h : commits s = true) (k : State → WordRes) :
    tryCommit s k = k (commitPoint s s.cur.1 s.cur.2) := by
  simp only [commits, Bool.and_eq_true, Bool.not_eq_true'] at h
  obtain ⟨⟨hdrain, hecc⟩, hcompare⟩ := h
  simp [tryCommit, hdrain, hecc, hcompare]

/-- The state in which the access is made: the outbox has drained, NR is set, and the access has its number. -/
def atomicStart (u : State) : State :=
  setOutbox u (u.myCore.nextId + 2) (u.myCore.queue ++ drained u)
    { u.me with outbox := [], nr := true, pairOk := false, cmpWait := false }

/-- The access: under a release order it waits for every earlier entry, else for markers and for entries of its bytes. -/
def atomicAccess (u : State) (op : AccOp) (d : Reg) (addr size : Nat) (p : Places) (sc : ScopeRef) (o : Order) : Outst :=
  { id := u.myCore.nextId + 1, op := op, dest := .ext d size true, addr := BitVec.ofNat 64 addr, size := size,
    elems := [elemOf p.window sc 0 addr p.locs], locs := p.locs, acquire := ordAcq o,
    entries := ((u.myCore.queue ++ drained u).filter fun e => ordRel o || isMarker e || entryTouches p.locs e).map (·.id),
    through := !p.window.isEmpty, count := 1, undo := some u.me.snap }

/-- The access goes as far as it can, but for a siphon command of its own commit (R190). -/
def atomicGone (u : State) (l : Outst) (addr : Nat) : State × Outst :=
  if siphStall (atomicStart u) u.cur.1 addr l.size = .go then stepAtomic (atomicStart u) u.cur.1 u.cur.2 l else (atomicStart u, l)

/-- The access stands among the carrel's outstanding ones. -/
def atomicPending (r : State × Outst) : State :=
  r.1.modMe fun x => { x with fenceLoads := false, scWait := [], loads := x.loads ++ [r.2] }

/-- The access is outstanding, or over where it has read its bytes. -/
def atomicEnd (u : State) (r : State × Outst) : State :=
  if r.2.elems.isEmpty && (firstPoison r.2).isNone then finishLoad (atomicPending r) u.cur.1 u.cur.2 r.2 else atomicPending r

theorem commitPoint_fresh (u : State) : (commitPoint u u.cur.1 u.cur.2).setCore u.cur.1 (commitPoint u u.cur.1 u.cur.2).myCore.fresh.2 =
    atomicStart u := by
  rw [commitPoint_eq, myCore_setOutbox]
  simp [atomicStart, setOutbox, State.setCore, fset_fset, Core.fresh, Core.setCarrel]

section
variable {u : State} {op : AccOp} {d : Reg} {addr n : Nat} {q : Places} {sc : ScopeRef} {o : Order}

theorem issueAtomic_eq (hheld : loadHeld u q.locs = false) (hroom : outstanding u.myCore + 1 ≤ 256) (hcommits : commits u = true) :
    issueAtomic u op d addr n q sc o = .done (atomicEnd u (atomicGone u (atomicAccess u op d addr n q sc o) addr)) := by
  have hfits : ¬ outstanding u.myCore + 1 > requestMax := Nat.not_lt.2 hroom
  have hqueue : (commitPoint u u.cur.1 u.cur.2).myCore.queue = u.myCore.queue ++ drained u := by
    rw [commitPoint_eq, myCore_setOutbox]; rfl
  have hid : (commitPoint u u.cur.1 u.cur.2).myCore.nextId = u.myCore.nextId + 1 := by
    rw [commitPoint_eq, myCore_setOutbox]; rfl
  have hsnap : (commitPoint u u.cur.1 u.cur.2).me.snap = u.me.snap := by
    rw [commitPoint_eq, me_setOutbox]; rfl
  have hstart := commitPoint_fresh u
  have haccess : atomicAccess u op d addr n q sc o =
      { id := (commitPoint u u.cur.1 u.cur.2).myCore.nextId, op := op, dest := .ext d n true, addr := BitVec.ofNat 64 addr, size := n,
        elems := [elemOf q.window sc 0 addr q.locs], locs := q.locs, acquire := ordAcq o,
        entries := ((commitPoint u u.cur.1 u.cur.2).myCore.queue.filter fun e =>
          ordRel o || isMarker e || entryTouches q.locs e).map (·.id),
        through := !q.window.isEmpty, count := 1, undo := some (commitPoint u u.cur.1 u.cur.2).me.snap } := by
    rw [hid, hqueue, hsnap]; rfl
  rw [issueAtomic, if_neg (by simp [hheld]), if_neg hfits, tryCommit_of_commits hcommits, atomicEnd, atomicGone, haccess, ← hstart, apply_ite WordRes.done]
  rfl

/-- What the access was made of stands: the word is the same, and outboxes, NR and streams are those of its start. -/
theorem carrelsKept_atomicGone (u : State) (l : Outst) (addr : Nat) : CarrelsKept (atomicStart u) (atomicGone u l addr).1 := by
  unfold atomicGone
  split
  · exact carrelsKept_stepAtomic (.refl _) ..
  · exact .refl _

end

section
variable {u : State} {r : State × Outst} (hcur : r.1.cur = u.cur)

theorem me_atomicPending (r : State × Outst) : (atomicPending r).me =
    { r.1.me with fenceLoads := false, scWait := [], loads := r.1.me.loads ++ [r.2] } := me_modMe ..

theorem me_finishLoad {l : Outst} (hclean : firstPoison l = none) (s : State) : (finishLoad s s.cur.1 s.cur.2 l).me =
    ({ s.me with loads := s.me.loads.filter fun y => y.id ≠ l.id }.landAll l).syncResult l := by
  rw [finishLoad_of_clean hclean]
  exact carrel_modCarrel_same ..

include hcur in
/-- The carrel once the access is over. -/
theorem me_atomicEnd_of_over (hover : r.2.elems = []) (hclean : firstPoison r.2 = none) : (atomicEnd u r).me =
    ({ (atomicPending r).me with loads := (atomicPending r).me.loads.filter fun y => y.id ≠ r.2.id }.landAll r.2).syncResult r.2 := by
  have hlands : (r.2.elems.isEmpty && (firstPoison r.2).isNone) = true := by simp [hover, hclean]
  rw [atomicEnd, if_pos hlands, ← hcur]
  exact me_finishLoad hclean (atomicPending r)

include hcur in
/-- The end of the access leaves the outbox and NR. -/
theorem me_atomicEnd_frame : (atomicEnd u r).me.outbox = r.1.me.outbox ∧ (atomicEnd u r).me.nr = r.1.me.nr := by
  by_cases hlands : (r.2.elems.isEmpty && (firstPoison r.2).isNone) = true
  · obtain ⟨hover, hclean⟩ : r.2.elems = [] ∧ firstPoison r.2 = none := by simpa using hlands
    rw [me_atomicEnd_of_over hcur hover hclean, me_atomicPending]
    exact land_frame ..
  · rw [atomicEnd, if_neg hlands, me_atomicPending]
    exact ⟨rfl, rfl⟩

/-- The value of an access with a register of its own, where nothing has failed (R331). -/
theorem read_land {c : Carrel} {l : Outst} {d : Reg} {n : Nat} (hdest : l.dest = .ext d n true) (herrs : l.errs = []) (hd : d ≠ 0)
    (hstream : c.stream d = none) : (c.land l).read d = extValue n true (lbNat l.got) := by
  have hland : c.land l = c.put d (extValue n true (lbNat l.got)) := by
    rw [Carrel.land, hdest, herrs]
    rfl
  rw [hland, put_plain _ _ _ hstream, read_write, if_pos ⟨rfl, hd⟩]

theorem read_landAll (c : Carrel) (l : Outst) (d : Reg) : ((c.landAll l).syncResult l).read d = (c.land l).read d := rfl

include hcur in
/-- Once the access is over its value is in its register. -/
theorem read_atomicEnd {d : Reg} {n : Nat} (hover : r.2.elems = []) (hclean : firstPoison r.2 = none) (hdest : r.2.dest = .ext d n true)
    (herrs : r.2.errs = []) (hd : d ≠ 0) (hstream : r.1.me.stream d = none) :
    (atomicEnd u r).me.read d = extValue n true (lbNat r.2.got) := by
  rw [me_atomicEnd_of_over hcur hover hclean, read_landAll]
  refine read_land hdest herrs hd ?_
  rw [me_atomicPending]
  exact hstream

include hcur in
theorem cur_atomicEnd : (atomicEnd u r).cur = u.cur := by
  by_cases hlands : (r.2.elems.isEmpty && (firstPoison r.2).isNone) = true
  · obtain ⟨-, hclean⟩ : r.2.elems = [] ∧ firstPoison r.2 = none := by simpa using hlands
    rw [atomicEnd, if_pos hlands, finishLoad_of_clean hclean]
    exact hcur
  · rw [atomicEnd, if_neg hlands]
    exact hcur

theorem sameCaches_modCarrel (s : State) (c i : Nat) (f : Carrel → Carrel) : SameCaches (s.modCarrel c i f) s :=
  sameCaches_modCore s c (f := fun k => k.setCarrel i (f (k.carrel i))) fun _ => rfl

theorem sameCaches_modMe (s : State) (f : Carrel → Carrel) : SameCaches (s.modMe f) s := sameCaches_modCarrel s s.cur.1 s.cur.2 f

theorem sameCaches_atomicEnd (u : State) (r : State × Outst) : SameCaches (atomicEnd u r) r.1 := by
  have hpending : SameCaches (atomicPending r) r.1 := sameCaches_modMe r.1 _
  by_cases hlands : (r.2.elems.isEmpty && (firstPoison r.2).isNone) = true
  · obtain ⟨-, hclean⟩ : r.2.elems = [] ∧ firstPoison r.2 = none := by simpa using hlands
    rw [atomicEnd, if_pos hlands, finishLoad_of_clean hclean]
    exact (sameCaches_modCarrel ..).trans ⟨hpending.l1, hpending.l2⟩
  · rw [atomicEnd, if_neg hlands]
    exact hpending

end

/-- However far the access has gone, its outbox is empty and NR set (R170). -/
theorem atomicEnd_frame (u : State) (l : Outst) (addr : Nat) :
    (atomicEnd u (atomicGone u l addr)).me.nr = true ∧ (atomicEnd u (atomicGone u l addr)).me.outbox = [] := by
  have hgone := carrelsKept_atomicGone u l addr
  obtain ⟨houtbox, hnr⟩ := me_atomicEnd_frame (u := u) (r := atomicGone u l addr) hgone.cur
  have hme := hgone.me
  rw [atomicStart, me_setOutbox] at hme
  simp only [kept, Prod.mk.injEq] at hme
  exact ⟨hnr.trans hme.2.1, houtbox.trans hme.1⟩

/-! ### An atomic access in the core's own scratchpad (R333) -/

/-- What an access leaves in a region that holds the bytes `old` there. -/
def scrResult (h : State) (core region off n : Nat) : Option Nat → State
  | none => h
  | some v => scrWrite h core region off (tbytes n v false)

theorem atomicScr_eq {s h : State} {core region off : Nat} {l : Outst} {old : List TByte}
    (hheal : h = healRegion s core region off l.size)
    (hbytes : ((List.range l.size).map fun j => baseNow h core .caches (.scr core region (off + j))) = old.map fun y => some (y, false)) :
    atomicScr s core region off l = (scrResult h core region off l.size (atomicNew l.op l.size (leNat (old.map (·.1)))),
      l.withOld (old.map fun y => (y, false))) := by
  have hread : ((List.range l.size).map fun j => (baseNow h core .caches (.scr core region (off + j))).getD ((0, false), false)) =
      old.map fun y => (y, false) := by
    have := congrArg (List.map fun x : Option (TByte × Bool) => x.getD ((0, false), false)) hbytes
    simpa [Function.comp_def] using this
  have hclean : ((old.map fun y => (y, false)).any fun b : TByte × Bool => b.2) = false := by simp
  have hold : oldOf (old.map fun y => (y, false)) = leNat (old.map (·.1)) := by simp [oldOf, tbNat, Function.comp_def]
  simp only [atomicScr, ← hheal, hread, hclean, Bool.false_eq_true, if_false, hold]
  unfold scrResult
  split <;> simp_all

theorem sameCaches_scrResult {s t : State} (h : SameCaches s t) (core region off n : Nat) (v : Option Nat) :
    SameCaches (scrResult s core region off n v) (scrResult t core region off n v) := by
  cases v with
  | none => exact h
  | some v => exact sameCaches_scrWrite h ..

theorem cur_scrResult (s : State) (core region off n : Nat) (v : Option Nat) : (scrResult s core region off n v).cur = s.cur := by
  cases v with
  | none => rfl
  | some v => exact (carrelsKept_scrWrite (.refl s) ..).cur

theorem sameCaches_atomicStart (u : State) : SameCaches (atomicStart u) u :=
  sameCaches_modCore u u.cur.1 (f := fun k => ({ k with nextId := _, queue := _ } : Core).setCarrel u.cur.2 _) fun _ => rfl

/-- The watermark rule sees the commands that are queued, and no other part of the carrel or its core. -/
theorem siphStall_atomicStart {u : State} (houtbox : u.me.outbox = []) {addr n : Nat}
    (hfree : siphStalls u u.cur.1 [(addr, n)] = .go) : siphStall (atomicStart u) u.cur.1 addr n = .go := by
  have hdrained : drained u = [] := by simp [drained, houtbox]
  have hsame : siphStall (atomicStart u) u.cur.1 addr n = siphStall u u.cur.1 addr n := by
    have htouch : touchesCmd (atomicStart u) = touchesCmd u := rfl
    have hcore : (atomicStart u).core u.cur.1 = _ := core_setOutbox u _ _ _
    rw [hdrained, List.append_nil] at hcore
    rw [siphStall, siphStall, htouch, hcore]
    rfl
  rw [hsame]
  unfold siphStalls siphStalls at hfree
  split at hfree
  · cases hfree
  · cases hfree
  · assumption

section
variable {u : State} {op : AccOp} {d : Reg} {addr n region off : Nat} {q : Places} {sc : ScopeRef} {o : Order} {old : List TByte}
  (hn : 0 < n) (hlocs : q.locs = (List.range n).map fun j => Loc.scr u.cur.1 region (off + j)) (hqueue : u.myCore.queue = [])
  (houtbox : u.me.outbox = []) (hfree : siphStalls u u.cur.1 [(addr, n)] = .go)
include hn hlocs hqueue houtbox hfree

/-- With an empty queue the access is made at once (R333). -/
theorem atomicGone_scr : atomicGone u (atomicAccess u op d addr n q sc o) addr =
    atomicScr (atomicStart u) u.cur.1 region off (atomicAccess u op d addr n q sc o) := by
  have hdrained : drained u = [] := by simp [drained, houtbox]
  have hentries : (atomicAccess u op d addr n q sc o).entries = [] := by simp [atomicAccess, hqueue, hdrained]
  have hfirst : (atomicAccess u op d addr n q sc o).locs =
      .scr u.cur.1 region off :: ((List.range (n - 1)).map (· + 1)).map fun j => Loc.scr u.cur.1 region (off + j) := by
    obtain ⟨m, rfl⟩ : ∃ m, n = m + 1 := ⟨n - 1, by omega⟩
    rw [atomicAccess, hlocs, List.range_succ_eq_map]
    rfl
  have hstarted : (atomicAccess u op d addr n q sc o).started = false := rfl
  have hgo : siphStall (atomicStart u) u.cur.1 addr (atomicAccess u op d addr n q sc o).size = .go :=
    siphStall_atomicStart houtbox hfree
  rw [atomicGone, if_pos hgo, stepAtomic, hfirst, hentries, hstarted]
  simp

variable (hbytes : ((List.range n).map fun j => baseNow (healRegion u u.cur.1 region off n) u.cur.1 .caches
  (.scr u.cur.1 region (off + j))) = old.map fun y => some (y, false))
include hbytes

theorem atomicGone_scr_eq : atomicGone u (atomicAccess u op d addr n q sc o) addr =
    (scrResult (healRegion (atomicStart u) u.cur.1 region off n) u.cur.1 region off n (atomicNew op n (leNat (old.map (·.1)))),
      (atomicAccess u op d addr n q sc o).withOld (old.map fun y => (y, false))) := by
  have hheal := sameCaches_healRegion (sameCaches_atomicStart u) u.cur.1 region off n
  rw [atomicGone_scr hn hlocs hqueue houtbox hfree]
  refine atomicScr_eq rfl ?_
  simp only [baseNow_of_sameCaches hheal]
  exact hbytes

/-- The old value is in the register at once (R331). -/
theorem read_scrAtomic (hd : d ≠ 0) (hstream : u.me.stream d = none) :
    (atomicEnd u (atomicGone u (atomicAccess u op d addr n q sc o) addr)).me.read d = extValue n true (leNat (old.map (·.1))) := by
  have hkept := carrelsKept_atomicGone u (atomicAccess u op d addr n q sc o) addr
  have hgone := atomicGone_scr_eq (op := op) (d := d) (sc := sc) (o := o) hn hlocs hqueue houtbox hfree hbytes
  have hunbound : (atomicGone u (atomicAccess u op d addr n q sc o) addr).1.me.stream d = none := by
    have hme := hkept.me
    rw [atomicStart, me_setOutbox] at hme
    simp only [kept, Prod.mk.injEq] at hme
    rw [Carrel.stream, hme.2.2]
    exact hstream
  rw [read_atomicEnd (u := u) (n := n) hkept.cur (by rw [hgone]; rfl) (by rw [hgone]; exact firstPoison_withOld (by simp)) (by rw [hgone]; rfl)
    (by rw [hgone]; rfl) hd hunbound, hgone, lbNat_withOld]
  simp [oldOf, tbNat, Function.comp_def]

/-- The bytes hold the result (R149, R332). -/
theorem l1_scrAtomic : (atomicEnd u (atomicGone u (atomicAccess u op d addr n q sc o) addr)).myCore.l1 =
    (scrResult (healRegion u u.cur.1 region off n) u.cur.1 region off n (atomicNew op n (leNat (old.map (·.1))))).myCore.l1 := by
  have hgone := atomicGone_scr_eq (op := op) (d := d) (sc := sc) (o := o) hn hlocs hqueue houtbox hfree hbytes
  have hcaches := sameCaches_atomicEnd u (atomicGone u (atomicAccess u op d addr n q sc o) addr)
  have hcur := cur_atomicEnd (u := u) (carrelsKept_atomicGone u (atomicAccess u op d addr n q sc o) addr).cur
  rw [State.myCore, hcur, hcaches.l1, hgone, State.myCore, cur_scrResult, cur_healRegion]
  exact (sameCaches_scrResult (sameCaches_healRegion (sameCaches_atomicStart u) ..) ..).l1 _

end

end Sys2Proof.Proofs

namespace Sys2Proof.Proofs

open Sys2Proof Sys2Proof.Machine

/-! ### The checks of AMO and CAS (R332, R344) -/

/-- A word traps with a cause of its own, but for the primary of a pair where it is synchronised (R284). -/
theorem runWord_trap_of_own {i : Instr} {o : OpSpec} {s : State} {body : State → List TCap → WordRes} {c : Nat} {v : Word}
    (hissue : issuable i s = true) (hready : sourcesReady o s = true) (hown : isSync i = true → isPrimary s = false)
    (hbody : body s (readSources s.me o.cs) = .trap c v) (hrank : causeRank c < 4) (hsettled : s.me.settled = true) :
    runWord i o s body = .next (takeTrap s s.cur.1 s.cur.2 c v) := by
  cases hsync : isSync i with
  | true => exact runWord_trap_of_not_primary hissue hready (hown hsync) hbody hrank hsettled
  | false => exact runWord_trap_of_sends hissue hready hsync hbody hrank hsettled

section
variable {s t : State} {cap : TCap} {n : Nat} {hostOk : Bool} {k : State → Places → ScopeRef → WordRes}

theorem atomicChecks_of_misaligned (h : capAddr cap.val % n ≠ 0) :
    atomicChecks s cap n hostOk k = .trap 0x101 (BitVec.ofNat 64 (capAddr cap.val)) := by
  simp [atomicChecks, h]

variable (haligned : capAddr cap.val % n = 0)
include haligned

theorem atomicChecks_of_capCheck {c : Nat} (hcheck : capCheck s s.cur.1 cap (capAddr cap.val) n (permR ||| permW) = some c) :
    atomicChecks s cap n hostOk k = .trap c (BitVec.ofNat 64 (capAddr cap.val)) := by
  simp [atomicChecks, haligned, hcheck]

variable (hcheck : capCheck s s.cur.1 cap (capAddr cap.val) n (permR ||| permW) = none)
include hcheck

theorem atomicChecks_of_host (hspace : spaceOf (capAddr cap.val) = 3) (hhost : hostOk = false) :
    atomicChecks s cap n hostOk k = .trap 0x085 (BitVec.ofNat 64 (capAddr cap.val)) := by
  simp [atomicChecks, haligned, hcheck, hspace, hhost]

theorem atomicChecks_of_places {q : Places} (hserved : spaceOf (capAddr cap.val) ≠ 3 ∨ hostOk = true)
    (hplaces : places s s.cur.1 s.myCore.ctx (capAddr cap.val) n .rw = (t, .ok q))
    (hfree : siphStalls (opScope t 4).1 (opScope t 4).1.cur.1 [(capAddr cap.val, n)] = .go) (hbad : badLoc q.locs = none) :
    atomicChecks s cap n hostOk k = k (opScope t 4).1 q (opScope t 4).2 := by
  have hhere : (spaceOf (capAddr cap.val) = 3 && !hostOk) = false := by
    rcases hserved with h | h <;> simp [h]
  have hmis : ¬ capAddr cap.val % n ≠ 0 := not_not_intro haligned
  simp only [atomicChecks, hmis, if_false, hcheck, hhere, Bool.false_eq_true, hplaces, afterStall_of_go hfree, hbad]

end

/-- What the checks of an atomic access come to: a trap, or what `done` says of the places. -/
def AccessChecked (i : Instr) (s : State) (cap : TCap) (n : Nat) (hostOk : Bool) (done : State → Places → ScopeRef → Prop) : Prop :=
  let addr := capAddr cap.val
  let x : Word := BitVec.ofNat 64 addr
  (addr % n ≠ 0 → (isSync i = true → isPrimary s = false) → Traps i s 0x101 x) ∧
  (addr % n = 0 → (isSync i = true → isPrimary s = false) →
    ∀ c, capCheck s s.cur.1 cap addr n (permR ||| permW) = some c → Traps i s c x) ∧
  (addr % n = 0 → capCheck s s.cur.1 cap addr n (permR ||| permW) = none →
    (spaceOf addr = 3 → hostOk = false → (isSync i = true → isPrimary s = false) → Traps i s 0x085 x) ∧
    ((spaceOf addr ≠ 3 ∨ hostOk = true) → ∀ t q, places s s.cur.1 s.myCore.ctx addr n .rw = (t, .ok q) →
      siphStalls (opScope t 4).1 (opScope t 4).1.cur.1 [(addr, n)] = .go → badLoc q.locs = none →
      done (opScope t 4).1 q (opScope t 4).2))

/-- A word whose operation begins with the checks of an atomic access. -/
theorem accessChecked_of_word {i : Instr} {o : OpSpec} {s : State} {n : Nat} {hostOk : Bool} {body : State → List TCap → WordRes}
    {k : State → Places → ScopeRef → WordRes} {done : State → Places → ScopeRef → Prop}
    (hexec : exec i s = runWord i o s body)
    (hbody : body s (readSources s.me o.cs) = atomicChecks s (src (readSources s.me o.cs) 0) n hostOk k)
    (hissue : issuable i s = true) (hready : sourcesReady o s = true)
    (hdone : ∀ u q sc, body s (readSources s.me o.cs) = k u q sc →
      siphStalls u u.cur.1 [(capAddr (src (readSources s.me o.cs) 0).val, n)] = .go → done u q sc) :
    AccessChecked i s (src (readSources s.me o.cs) 0) n hostOk done := by
  have htraps : ∀ {c : Nat} {v : Word}, atomicChecks s (src (readSources s.me o.cs) 0) n hostOk k = .trap c v → causeRank c < 4 →
      (isSync i = true → isPrimary s = false) → Traps i s c v := fun hcause hrank hown hsettled =>
    hexec.trans (runWord_trap_of_own hissue hready hown (hbody.trans hcause) hrank hsettled)
  refine ⟨fun hmis hown => htraps (atomicChecks_of_misaligned hmis) (by decide) hown,
    fun haligned hown c hcheck => htraps (atomicChecks_of_capCheck haligned hcheck) (causeRank_capCheck hcheck) hown,
    fun haligned hcheck => ⟨fun hspace hhost hown => htraps (atomicChecks_of_host haligned hcheck hspace hhost) (by decide) hown,
      fun hserved t q hplaces hfree hbad => hdone _ _ _ (hbody.trans (atomicChecks_of_places haligned hcheck hserved hplaces hfree hbad)) hfree⟩⟩

/-! ### AMO and CAS (R331, R343) -/

theorem exec_amo (d a b : Reg) (o : Order) (w : Bool) (p : AmoOp) (s : State) : exec (.amo d a b o w p) s =
    runWord (.amo d a b o w p) { cs := [a, b], dc := some d } s fun s vs => atomicChecks s (src vs 0) (ampBytes w) (hostAmo p)
      fun t q sc => issueAtomic t (.amo p (src vs 1).data) d (capAddr (src vs 0).val) (ampBytes w) q sc o := rfl

theorem exec_cas (d a b : Reg) (o : Order) (w : Bool) (s : State) : exec (.cas d a b o w) s =
    runWord (.cas d a b o w) { cs := [a, b, d], dc := some d } s fun s vs => atomicChecks s (src vs 0) (ampBytes w) true
      fun t q sc => issueAtomic t (.cas (src vs 2).data (src vs 1).data) d (capAddr (src vs 0).val) (ampBytes w) q sc o := rfl

theorem exec_amoNoReturn (a b : Reg) (o : Order) (w : Bool) (p : AmoOp) (s : State) : exec (.amoNoReturn a b o w p) s =
    runWord (.amoNoReturn a b o w p) { cs := [a, b] } s fun s vs => atomicChecks s (src vs 0) (ampBytes w) (hostAmo p)
      fun t q sc => storeOut t [(capAddr (src vs 0).val, ampBytes w)]
        { storeEntry t (.amoNoReturn a b o w p) (.amo ((q.locs.head?).getD (.mem 0)) p (ampBytes w) (src vs 1).data)
            (capAddr (src vs 0).val) q.window sc with release := if ordRel o then some sc else none } := rfl

theorem hostAmo_eq (p : AmoOp) : hostAmo p = (p == .add || p == .swap) := by
  cases p <;> rfl

theorem ordRel_iff {o : Order} : ordRel o = true ↔ o = .rel ∨ o = .ar ∨ o = .sc := by
  cases o <;> simp [ordRel]

theorem ordAcq_iff {o : Order} : ordAcq o = true ↔ o = .acq ∨ o = .ar ∨ o = .sc := by
  cases o <;> simp [ordAcq]

/-- A word whose destination takes any value finishes in the state that its operation leaves. -/
theorem word_finishes {i : Instr} {o : OpSpec} {s t : State} {body : State → List TCap → WordRes} (hexec : exec i s = runWord i o s body)
    (hissue : issuable i s = true) (hready : sourcesReady o s = true) (hbody : body s (readSources s.me o.cs) = .done t)
    (htakes : ∀ d, o.dc = some d → takesAny s d) : exec i s = .next (finished i o s t) :=
  hexec.trans (runWord_done hissue hready hbody fun d hd => htakes d hd _)

/-- The value-returning access from its issue: the commit, and in the core's own scratchpad the old value and the result. -/
theorem issueAtomic_done {u : State} {op : AccOp} {d : Reg} {addr : Nat} {w : Bool} {q : Places} {sc : ScopeRef} {o : Order}
    (hfree : siphStalls u u.cur.1 [(addr, ampBytes w)] = .go) (hheld : loadHeld u q.locs = false)
    (hroom : outstanding u.myCore + 1 ≤ 256) (hcommits : commits u = true) :
    ∃ t, issueAtomic u op d addr (ampBytes w) q sc o = .done t ∧ t.me.nr = true ∧ t.me.outbox = [] ∧
      ∀ region off, q.locs = (List.range (ampBytes w)).map (fun j => Loc.scr u.cur.1 region (off + j)) →
        u.myCore.queue = [] → u.me.outbox = [] →
        let h := healRegion u u.cur.1 region off (ampBytes w)
        ∀ old : List TByte,
          ((List.range (ampBytes w)).map fun j => baseNow h h.cur.1 .caches (.scr h.cur.1 region (off + j))) =
            old.map (fun y => some (y, false)) →
          let v := leNat (old.map (·.1))
          (d ≠ 0 → u.me.stream d = none →
            t.me.read d = dataCap (if w then (BitVec.ofNat 32 v).signExtend 64 else BitVec.ofNat 64 v)) ∧
          t.myCore.l1 = (match atomicNew op (ampBytes w) v with
            | some z => (scrWrite h h.cur.1 region off (tbytes (ampBytes w) z false)).myCore.l1
            | none => h.myCore.l1) := by
  obtain ⟨hnr, houtbox⟩ := atomicEnd_frame u (atomicAccess u op d addr (ampBytes w) q sc o) addr
  refine ⟨_, issueAtomic_eq hheld hroom hcommits, hnr, houtbox, fun region off hlocs hqueue hempty old hbytes => ?_⟩
  have hn : 0 < ampBytes w := by cases w <;> decide
  have hcur := cur_healRegion u u.cur.1 region off (ampBytes w)
  simp only [hcur] at hbytes ⊢
  refine ⟨fun hd hstream => ?_, ?_⟩
  · rw [read_scrAtomic hn hlocs hqueue hempty hfree hbytes hd hstream]
    exact extValue_eq w _
  · rw [l1_scrAtomic hn hlocs hqueue hempty hfree hbytes]
    cases atomicNew op (ampBytes w) (leNat (old.map (·.1))) <;> rfl

/-! ### FENCE (R169, R360) -/

/-- The marker of a FENCE that releases at a scope. -/
def fenceMarker (i : Instr) (t : State) (sc : ScopeRef) : Entry :=
  { mkEntry t i .marker (BitVec.ofNat 64 sc.id) with release := some sc }

/-- What FENCE leaves of the loads and entries that later words wait for. -/
def fenceSets (k : Bool) (o : Order) (earlier : List Nat) (t : State) : State :=
  t.modMe fun x => { x with
    fenceLoads := x.fenceLoads || (ordAcq o && x.loads.any fun l => l.dest != .none),
    scWait := if o == .sc && k then x.scWait ++ earlier else x.scWait }

/-- FENCE after its commit, if there is one. -/
def fenceBody (i : Instr) (k : Bool) (o : Order) (sc : ScopeRef) (t : State) : WordRes :=
  if ordRel o then
    match putOut t [fenceMarker i t sc] with
    | .done v => .done (fenceSets k o (t.myCore.queue.map (·.id)) v)
    | r => r
  else .done (fenceSets k o (t.myCore.queue.map (·.id)) t)

theorem exec_fence (f : BitVec 5) (k : Bool) (o : Order) (s : State) : exec (.fence f k o) s =
    runWord (.fence f k o) {} s fun s _ =>
      if k then tryCommit (opScope s f.toNat).1 (fenceBody (.fence f k o) k o (opScope s f.toNat).2)
      else fenceBody (.fence f k o) k o (opScope s f.toNat).2 (opScope s f.toNat).1 := rfl

/-- The state that FENCE leaves. -/
def fenceEnd (i : Instr) (k : Bool) (o : Order) (sc : ScopeRef) (t : State) : State :=
  fenceSets k o (t.myCore.queue.map (·.id)) (if ordRel o then placed t (fenceMarker i t sc) else t)

theorem fenceBody_done {i : Instr} {k : Bool} {o : Order} {sc : ScopeRef} {t : State} (hroom : ordRel o = true → hasRoom t = true) :
    fenceBody i k o sc t = .done (fenceEnd i k o sc t) := by
  unfold fenceBody fenceEnd
  split
  next hrel => rw [putOut_of_hasRoom (hroom hrel)]
  next => rfl

theorem queue_modMe (s : State) (f : Carrel → Carrel) : (s.modMe f).myCore.queue = s.myCore.queue := by
  simp [State.modMe, State.setMe, State.setCarrel, State.myCore, Core.setCarrel]

section
variable (i : Instr) (k : Bool) (o : Order) (sc : ScopeRef) (t : State)

/-- FENCE with its marker or without it keeps registers and memory, and notes the loads that an acquire waits for. -/
theorem fenceEnd_frame : (fenceEnd i k o sc t).me.regs = t.me.regs ∧ (fenceEnd i k o sc t).mem = t.mem ∧
    (fenceEnd i k o sc t).me.fenceLoads = (t.me.fenceLoads || (ordAcq o && t.me.loads.any fun l => l.dest != .none)) := by
  unfold fenceEnd fenceSets
  rw [me_modMe]
  split
  next =>
    obtain ⟨n, q, b, r, p, w, hplaced⟩ := placed_eq_setOutbox t (fenceMarker i t sc)
    rw [hplaced, me_setOutbox]
    exact ⟨rfl, rfl, rfl⟩
  next => exact ⟨rfl, rfl, rfl⟩

variable {o t}

theorem outbox_fenceEnd_of_plain (h : ordRel o = false) : (fenceEnd i k o sc t).me.outbox = t.me.outbox := by
  rw [fenceEnd, h, fenceSets, me_modMe]
  rfl

/-- After a commit the queue is what the commit left, and NR stays set. -/
theorem fenceEnd_of_empty (hempty : t.me.outbox = []) :
    (fenceEnd i k o sc t).me.nr = t.me.nr ∧ (fenceEnd i k o sc t).myCore.queue = t.myCore.queue := by
  have hshort : t.me.outbox.length < 64 := by simp [hempty]
  unfold fenceEnd fenceSets
  rw [me_modMe, queue_modMe]
  split
  next =>
    rw [placed_of_room hshort, putEntry_eq, me_setOutbox, myCore_setOutbox]
    exact ⟨rfl, rfl⟩
  next => exact ⟨rfl, rfl⟩

/-- The entry placed last stands last in the outbox, and alone where the outbox was empty or full. -/
theorem outbox_placed (s : State) (e : Entry) : ∃ n, (placed s e).me.outbox.getLast? = some { e with id := n } ∧
    (s.me.outbox = [] → (placed s e).me.outbox = [{ e with id := n }]) := by
  by_cases h : s.me.outbox.length < 64
  · refine ⟨s.myCore.nextId, ?_⟩
    rw [placed_of_room h, putEntry_eq, me_setOutbox]
    exact ⟨by simp, fun hempty => by simp [hempty]⟩
  · refine ⟨s.myCore.nextId + 1, ?_⟩
    rw [placed_of_full (Nat.not_lt.1 h), me_setOutbox]
    exact ⟨rfl, fun _ => rfl⟩

/-- Under a release order the marker stands last in the outbox (R169). -/
theorem marker_fenceEnd (h : ordRel o = true) : ∃ e, (fenceEnd i k o sc t).me.outbox.getLast? = some e ∧ e.eff = .marker ∧
    e.release = some sc ∧ (t.me.outbox = [] → (fenceEnd i k o sc t).me.outbox = [e]) := by
  obtain ⟨n, hlast, halone⟩ := outbox_placed t (fenceMarker i t sc)
  have houtbox : (fenceEnd i k o sc t).me.outbox = (placed t (fenceMarker i t sc)).me.outbox := by
    rw [fenceEnd, if_pos h, fenceSets, me_modMe]
  rw [houtbox]
  exact ⟨_, hlast, rfl, rfl, halone⟩

end

theorem hasRoom_of_empty {s : State} (h : s.me.outbox = []) : hasRoom s = true := by
  simp [hasRoom, h, outboxMax]

/-- The state in which FENCE sets its waits and places its marker: after the commit that it asks for (R170). -/
def fenceStart (k : Bool) (u : State) : State := if k then commitPoint u u.cur.1 u.cur.2 else u

/-- The commit of a FENCE changes neither registers nor loads nor memory. -/
theorem fenceStart_frame (k : Bool) (u : State) : (fenceStart k u).me.regs = u.me.regs ∧ (fenceStart k u).mem = u.mem ∧
    (fenceStart k u).me.loads = u.me.loads := by
  unfold fenceStart
  split
  · rw [commitPoint_eq, me_setOutbox]
    exact ⟨rfl, rfl, rfl⟩
  · exact ⟨rfl, rfl, rfl⟩

theorem exec_fence_done {s : State} {f : BitVec 5} {k : Bool} {o : Order} (hissue : issuable (.fence f k o) s = true)
    (hready : sourcesReady {} s = true) (hcommits : k = true → commits (opScope s f.toNat).1 = true)
    (hroom : k = false → ordRel o = true → hasRoom (opScope s f.toNat).1 = true) :
    exec (.fence f k o) s = .next (completed
      (fenceEnd (.fence f k o) k o (opScope s f.toNat).2 (fenceStart k (opScope s f.toNat).1)) []) := by
  refine (exec_fence f k o s).trans (runWord_done_plain (o := {}) hissue hready ?_ rfl rfl)
  cases k with
  | true =>
    have hempty : (commitPoint (opScope s f.toNat).1 (opScope s f.toNat).1.cur.1 (opScope s f.toNat).1.cur.2).me.outbox = [] := by
      rw [commitPoint_eq, me_setOutbox]
    simp only [if_true, tryCommit_of_commits (hcommits rfl)]
    exact fenceBody_done fun _ => hasRoom_of_empty hempty
  | false => exact fenceBody_done (hroom rfl)

/-! ### The four words -/

/-- What a value-returning access at the places `q` comes to: the commit, the access, and in the core's own scratchpad its result. -/
def AtomicIssued (i : Instr) (s : State) (cs : List Reg) (d : Reg) (w : Bool) (o : Order) (op : AccOp) (new : Nat → Option Nat)
    (u : State) (q : Places) (sc : ScopeRef) : Prop :=
  loadHeld u q.locs = false → outstanding u.myCore + 1 ≤ 256 → commits u = true → takesAny s d →
    ∃ t, issueAtomic u op d (capAddr (src (readSources s.me cs) 0).val) (ampBytes w) q sc o = .done t ∧
      exec i s = .next (finished i { cs := cs, dc := some d } s t) ∧ t.me.nr = true ∧ t.me.outbox = [] ∧
      ∀ region off, q.locs = (List.range (ampBytes w)).map (fun j => Loc.scr u.cur.1 region (off + j)) →
        u.myCore.queue = [] → u.me.outbox = [] →
        let h := healRegion u u.cur.1 region off (ampBytes w)
        ∀ old : List TByte,
          ((List.range (ampBytes w)).map fun j => baseNow h h.cur.1 .caches (.scr h.cur.1 region (off + j))) =
            old.map (fun y => some (y, false)) →
          let v := leNat (old.map (·.1))
          (d ≠ 0 → u.me.stream d = none →
            t.me.read d = dataCap (if w then (BitVec.ofNat 32 v).signExtend 64 else BitVec.ofNat 64 v)) ∧
          t.myCore.l1 = (match new v with
            | some z => (scrWrite h h.cur.1 region off (tbytes (ampBytes w) z false)).myCore.l1
            | none => h.myCore.l1)

section
variable {s : State} {a b d : Reg} {o : Order} {w : Bool}

theorem atomicIssued_of_word {i : Instr} {cs : List Reg} {op : AccOp} {body : State → List TCap → WordRes} {u : State} {q : Places}
    {sc : ScopeRef} (hexec : exec i s = runWord i { cs := cs, dc := some d } s body)
    (hissue : issuable i s = true) (hready : sourcesReady { cs := cs, dc := some d } s = true)
    (hbody : body s (readSources s.me cs) = issueAtomic u op d (capAddr (src (readSources s.me cs) 0).val) (ampBytes w) q sc o)
    (hfree : siphStalls u u.cur.1 [(capAddr (src (readSources s.me cs) 0).val, ampBytes w)] = .go) :
    AtomicIssued i s cs d w o op (atomicNew op (ampBytes w)) u q sc := by
  intro hheld hroom hcommits htakes
  obtain ⟨t, ht, hend⟩ := issueAtomic_done (op := op) (d := d) (sc := sc) (o := o) hfree hheld hroom hcommits
  refine ⟨t, ht, word_finishes hexec hissue hready (hbody.trans ht) ?_, hend⟩
  rintro _ ⟨⟩
  exact htakes

theorem accessChecked_amo {p : AmoOp} (hissue : issuable (.amo d a b o w p) s = true)
    (hready : sourcesReady { cs := [a, b], dc := some d } s = true) :
    AccessChecked (.amo d a b o w p) s (src (readSources s.me [a, b]) 0) (ampBytes w) (hostAmo p)
      (AtomicIssued (.amo d a b o w p) s [a, b] d w o (.amo p (operand s [a, b] 1))
        (atomicNew (.amo p (operand s [a, b] 1)) (ampBytes w))) :=
  accessChecked_of_word (o := { cs := [a, b], dc := some d }) (exec_amo d a b o w p s) rfl hissue hready fun _ _ _ hbody hfree =>
    atomicIssued_of_word (exec_amo d a b o w p s) hissue hready hbody hfree

theorem accessChecked_cas (hissue : issuable (.cas d a b o w) s = true)
    (hready : sourcesReady { cs := [a, b, d], dc := some d } s = true) :
    AccessChecked (.cas d a b o w) s (src (readSources s.me [a, b, d]) 0) (ampBytes w) true
      (AtomicIssued (.cas d a b o w) s [a, b, d] d w o (.cas (operand s [a, b, d] 2) (operand s [a, b, d] 1))
        (atomicNew (.cas (operand s [a, b, d] 2) (operand s [a, b, d] 1)) (ampBytes w))) :=
  accessChecked_of_word (o := { cs := [a, b, d], dc := some d }) (exec_cas d a b o w s) rfl hissue hready fun _ _ _ hbody hfree =>
    atomicIssued_of_word (exec_cas d a b o w s) hissue hready hbody hfree

/-- The other form of AMO: one entry with the operation, a release under a release order. -/
def AmoPlaced (s : State) (a b : Reg) (o : Order) (w : Bool) (p : AmoOp) (u : State) (q : Places) (sc : ScopeRef) : Prop :=
  hasRoom u [(capAddr (src (readSources s.me [a, b]) 0).val, ampBytes w)] = true → q.locs ≠ [] →
    ∃ e, exec (.amoNoReturn a b o w p) s = .next (completed (placed u e) [a, b]) ∧
      (∀ l ls, q.locs = l :: ls → e.eff = .amo l p (ampBytes w) (operand s [a, b] 1)) ∧
      e.release = if o = .rel ∨ o = .ar ∨ o = .sc then some sc else none

theorem accessChecked_amoNoReturn {p : AmoOp} (hissue : issuable (.amoNoReturn a b o w p) s = true)
    (hready : sourcesReady { cs := [a, b] } s = true) :
    AccessChecked (.amoNoReturn a b o w p) s (src (readSources s.me [a, b]) 0) (ampBytes w) (hostAmo p) (AmoPlaced s a b o w p) := by
  refine accessChecked_of_word (o := { cs := [a, b] }) (exec_amoNoReturn a b o w p s) rfl hissue hready
    fun u q sc hbody _ hroom _ => ?_
  refine ⟨_, (exec_amoNoReturn a b o w p s).trans (runWord_done_plain (o := { cs := [a, b] }) hissue hready
    (hbody.trans (storeOut_of_hasRoom hroom _)) rfl rfl), fun l ls hl => ?_, if_congr ordRel_iff rfl rfl⟩
  rw [hl]
  rfl

end

/-- What FENCE leaves (R169, R170, R360). -/
theorem fence_completes {s : State} {f : BitVec 5} {k : Bool} {o : Order} (hissue : issuable (.fence f k o) s = true)
    (hready : sourcesReady {} s = true) (hcommits : k = true → commits (opScope s f.toNat).1 = true)
    (hroom : k = false → ordRel o = true → hasRoom (opScope s f.toNat).1 = true) :
    let u := (opScope s f.toNat).1
    ∃ t, exec (.fence f k o) s = .next (completed t []) ∧ t.me.regs = u.me.regs ∧ t.mem = u.mem ∧
      (k = true → t.me.nr = true ∧ t.myCore.queue = (commitPoint u u.cur.1 u.cur.2).myCore.queue ∧
        (ordRel o = false → t.me.outbox = [])) ∧
      (ordRel o = true → ∃ e, t.me.outbox.getLast? = some e ∧ e.eff = .marker ∧
        e.release = some (opScope s f.toNat).2 ∧ (k = true → t.me.outbox = [e])) ∧
      (ordAcq o = true → (u.me.loads.any fun l => l.dest != .none) = true → t.me.fenceLoads = true) := by
  obtain ⟨hregs, hmem, hloads⟩ := fenceStart_frame k (opScope s f.toNat).1
  obtain ⟨hregs', hmem', hwaits⟩ := fenceEnd_frame (.fence f k o) k o (opScope s f.toNat).2 (fenceStart k (opScope s f.toNat).1)
  have hcommit : k = true → fenceStart k (opScope s f.toNat).1 = _ := fun hk => (if_pos hk).trans (commitPoint_eq _)
  have hempty : k = true → (fenceStart k (opScope s f.toNat).1).me.outbox = [] := fun hk => by rw [hcommit hk, me_setOutbox]
  refine ⟨_, exec_fence_done hissue hready hcommits hroom, hregs'.trans hregs, hmem'.trans hmem, fun hk => ?_, fun hrel => ?_,
    fun hacq hout => ?_⟩
  · obtain ⟨hnr, hqueue⟩ := fenceEnd_of_empty (.fence f k o) k (o := o) (opScope s f.toNat).2 (hempty hk)
    exact ⟨hnr.trans (by rw [hcommit hk, me_setOutbox]), hqueue.trans (by rw [fenceStart, if_pos hk]), fun hplain =>
      (outbox_fenceEnd_of_plain _ _ _ hplain).trans (hempty hk)⟩
  · obtain ⟨e, hlast, heff, hrelease, halone⟩ := marker_fenceEnd (.fence f k o) k (opScope s f.toNat).2
      (t := fenceStart k (opScope s f.toNat).1) hrel
    exact ⟨e, hlast, heff, hrelease, fun hk => halone (hempty hk)⟩
  · rw [hwaits, hloads, hacq, hout]
    simp

theorem ordRel_eq_false_iff {o : Order} : ordRel o = false ↔ o = .rlx ∨ o = .acq := by
  cases o <;> simp [ordRel]

/-- Settles O32: AMO and CAS have the checks of `AccessChecked` and then their access, which the value-returning forms issue and the
other form of AMO places, and FENCE is its commit followed by its marker. -/
theorem atomicsAndFences : Obligations.AtomicsAndFences := by
  unfold Obligations.AtomicsAndFences
  intro s d a b o w p f k n own checked issued
  refine ⟨fun hissue hready => ?amo, fun hissue hready => ?amoNoReturn, fun hissue hready => ?cas, fun hissue hready hcommits hroom => ?fence⟩
  case amo =>
    rw [← hostAmo_eq]
    exact accessChecked_amo hissue hready
  case amoNoReturn =>
    rw [← hostAmo_eq]
    exact accessChecked_amoNoReturn hissue hready
  case cas => exact accessChecked_cas hissue hready
  case fence =>
    simp only [← ordRel_iff, ← ordAcq_iff, ← ordRel_eq_false_iff] at hroom ⊢
    exact fence_completes hissue hready hcommits hroom

end Sys2Proof.Proofs

namespace Sys2Proof.Proofs

open Sys2Proof Sys2Proof.Machine

/-! ### A store that is performed element by element (R166, R412) -/

/-- Two elements of four bytes in region 0 of core 0, as VSCAT stores them: each is a write of its own. -/
def spreadEntry : Entry :=
  { id := 1, unit := 4, eff := .store (((List.range 8).map fun j => Loc.scr 0 0 (0x40 + j)).zip [1, 2, 3, 4, 5, 6, 7, 8]) false }

/-- Core 0 with that entry alone in its commit queue. -/
def spreadState : State := { cores := [(0, { queue := [spreadEntry] })] }

/-- What an outcome leaves in the commit queue of core 0. -/
def queueLeft : Host.Outcome State Fault Refusal → List Entry
  | .next t => (t.core 0).queue
  | _ => []

theorem spreadEntry_due : due spreadState 0 0 spreadEntry := by
  unfold due
  decide +kernel

/-- Once the first element is written the second is still queued. -/
theorem queueLeft_spreadEntry : (queueLeft (exec (.commitEntryPerform 0 0) spreadState)).map (fun e => (e.id, effLocs e.eff)) =
    [(1, (List.range 4).map fun j => Loc.scr 0 0 (0x44 + j))] := by
  decide +kernel

/-- Refutes O48: its clause on a store to the core's own scratchpad has one event write all the bytes and take the entry out of the
queue. The entry of a VSCAT or VSTS is performed element by element (R412, `Entry.unit`), and stays queued with the elements
that are left: what the clause lacks is the premise that `unit` is 0. -/
theorem not_entryEvents : ¬ Obligations.EntryEvents := by
  unfold Obligations.EntryEvents
  rintro ⟨hentry, -⟩
  obtain ⟨-, hstore, -⟩ := hentry spreadState 0 0 spreadEntry spreadEntry_due
  have hexec := hstore 0 0x40 [1, 2, 3, 4, 5, 6, 7, 8] false rfl (by simp) (by simp)
  have hleft := queueLeft_spreadEntry
  rw [hexec] at hleft
  exact absurd hleft (by decide +kernel)

end Sys2Proof.Proofs

namespace Sys2Proof.Proofs

open Sys2Proof Sys2Proof.Machine

/-! ### The fields of a number after one of them is replaced (R7) -/

theorem testBit_bitsAt (w lo n j : Nat) : (bitsAt w lo n).testBit j = (decide (j < n) && w.testBit (lo + j)) := by
  rw [bitsAt, Nat.testBit_mod_two_pow, Nat.testBit_div_two_pow, Nat.add_comm]

theorem bitAt_eq_testBit (w i : Nat) : bitAt w i = w.testBit i := by
  rw [bitAt, bitsAt, pow_one, Nat.testBit_eq_decide_div_mod_eq]
  rfl

theorem bitsAt_putBits_same (w lo n v : Nat) : bitsAt (putBits w lo n v) lo n = v % 2 ^ n := by
  refine Nat.eq_of_testBit_eq fun j => ?_
  rw [testBit_bitsAt, testBit_putBits, Nat.testBit_mod_two_pow]
  by_cases hj : j < n <;> simp [hj]

theorem bitsAt_putBits_of_disjoint {lo n lo' n' : Nat} (h : lo' + n' ≤ lo ∨ lo + n ≤ lo') (w v : Nat) :
    bitsAt (putBits w lo n v) lo' n' = bitsAt w lo' n' := by
  refine Nat.eq_of_testBit_eq fun j => ?_
  rw [testBit_bitsAt, testBit_bitsAt, testBit_putBits]
  by_cases hj : j < n'
  · rw [if_neg (by omega)]
  · simp [hj]

theorem bitAt_putBits_of_outside {lo n i : Nat} (h : i < lo ∨ lo + n ≤ i) (w v : Nat) : bitAt (putBits w lo n v) i = bitAt w i := by
  rw [bitAt, bitAt, bitsAt_putBits_of_disjoint h]

/-- A field that is replaced by itself. -/
theorem putBits_of_eq {w lo n v : Nat} (h : v % 2 ^ n = bitsAt w lo n) : putBits w lo n v = w := by
  have hle : bitsAt w lo n * 2 ^ lo ≤ w :=
    (Nat.mul_le_mul_right _ (Nat.mod_le _ _)).trans (Nat.div_mul_le_self w (2 ^ lo))
  rw [putBits, h, Nat.sub_add_cancel hle]

/-! ### The fields of a barrier object (R198) -/

theorem toNat_extractLsb'_ofNat {w : Nat} (hw : w < 2 ^ 128) (lo n : Nat) : ((BitVec.ofNat 128 w).extractLsb' lo n).toNat = bitsAt w lo n := by
  rw [BitVec.extractLsb'_toNat, BitVec.toNat_ofNat, Nat.mod_eq_of_lt hw, Nat.shiftRight_eq_div_pow, bitsAt]

theorem barPending_eq {w : Nat} (hw : w < 2 ^ 128) : barPending w = ((BitVec.ofNat 128 w).extractLsb' 18 14).toInt := by
  rw [barPending, signedOf_eq_toInt, ← toNat_extractLsb'_ofNat hw, BitVec.ofNat_toNat, BitVec.setWidth_eq]

section
variable (w : Nat) (p : Int)

/-- A change of PENDING leaves the other fields. -/
@[simp] theorem barGen_putPending : barGen (putPending w p) = barGen w := bitsAt_putBits_of_disjoint (by omega) ..
@[simp] theorem barExpected_putPending : barExpected (putPending w p) = barExpected w := bitsAt_putBits_of_disjoint (by omega) ..
@[simp] theorem barIn_putPending : barIn (putPending w p) = barIn w := bitsAt_putBits_of_disjoint (by omega) ..
@[simp] theorem barOut_putPending : barOut (putPending w p) = barOut w := bitsAt_putBits_of_disjoint (by omega) ..
@[simp] theorem barBroken_putPending : barBroken (putPending w p) = barBroken w := bitAt_putBits_of_outside (by omega) ..
@[simp] theorem barNotify_putPending : barNotify (putPending w p) = barNotify w := bitAt_putBits_of_outside (by omega) ..

theorem barPending_putPending {p : Int} (hlow : -8192 ≤ p) (hhigh : p < 8192) : barPending (putPending w p) = p := by
  rw [barPending, putPending, bitsAt_putBits_same, signedOf]
  split <;> omega

/-- The object with PENDING as it is. -/
theorem putPending_barPending : putPending w (barPending w) = w := by
  have hfield : bitsAt w 18 14 < 2 ^ 14 := Nat.mod_lt _ (by decide)
  refine putBits_of_eq ?_
  rw [barPending, signedOf]
  split <;> omega

theorem barPending_bounds : -8192 ≤ barPending w ∧ barPending w < 8192 := by
  rw [barPending, signedOf]
  split <;> omega

/-- The object at the next generation. -/
def nextGen : Nat := putBits w 0 4 (barGen w + 1)

@[simp] theorem barGen_nextGen : barGen (nextGen w) = (barGen w + 1) % 16 := bitsAt_putBits_same ..
@[simp] theorem barExpected_nextGen : barExpected (nextGen w) = barExpected w := bitsAt_putBits_of_disjoint (by omega) ..
@[simp] theorem barBroken_nextGen : barBroken (nextGen w) = barBroken w := bitAt_putBits_of_outside (by omega) ..

end

/-! ### What an update makes of the object (R199) -/

/-- Nothing is completed while arrivals are due. -/
theorem barPhases_of_pos (fuel w : Nat) {p : Int} (h : 0 < p) : barPhases (fuel + 1) w p = (putPending w p, []) := by
  rw [barPhases, if_pos h]

/-- A phase ends with nothing due, and the next one begins with EXPECTED arrivals. -/
theorem barPhases_zero (fuel : Nat) {w : Nat} (h : 0 < barExpected w) : barPhases (fuel + 2) w 0 =
    let z := putPending (nextGen w) (barExpected w)
    (z, if barNotify w then [z] else []) := by
  have hexp : barExpected w ≠ 0 := by omega
  rw [barPhases, if_neg (by omega), zero_add]
  dsimp only
  rw [if_neg hexp, barPhases_of_pos _ _ (by exact_mod_cast h)]
  rfl

/-- The evaluation changes nothing while arrivals are due. -/
theorem barEval_of_pending {w : Nat} (h : 0 < barPending w) : barEval w = (w, []) := by
  rw [barEval]
  split
  · rfl
  · rw [barPhases_of_pos _ _ h, putPending_barPending]

theorem barArrive_of_pending {w : Nat} (h : 1 < barPending w) : barArrive w = (putPending w (barPending w - 1), []) := by
  have hbounds := barPending_bounds w
  have hpending := barPending_putPending w (p := barPending w - 1) (by omega) (by omega)
  rw [barArrive, if_neg (by omega), if_neg (by omega), barEval_of_pending (by omega)]

/-- The last arrival of a phase, with no bytes due. -/
theorem barArrive_of_last {w : Nat} (hbroken : barBroken w = false) (hpending : barPending w = 1) (hin : barIn w = 0)
    (hout : barOut w = 0) (hexp : 0 < barExpected w) : barArrive w =
      let z := putPending (nextGen (putPending w 0)) (barExpected w)
      (z, if barNotify w then [z] else []) := by
  have hzero := barPending_putPending w (p := 0) (by omega) (by omega)
  have hclear : (barBroken (putPending w 0) || barIn (putPending w 0) ≠ 0 || barOut (putPending w 0) ≠ 0) = false := by
    simp [hbroken, hin, hout]
  rw [barArrive, hpending]
  dsimp only
  rw [sub_self, if_neg (by omega), if_neg (by omega), barEval, hclear, hzero, if_neg Bool.false_ne_true,
    barPhases_zero 8192 (by simpa using hexp)]
  simp

/-- The count of bytes that a direction has due (R198). -/
def barDue (out : Bool) (w : Nat) : Nat := bitsAt w (if out then 72 else 32) 40

theorem barDue_eq (out : Bool) (w : Nat) : barDue out w = if out then barOut w else barIn w := by
  cases out <;> rfl

/-- The object after a count in range, before its evaluation. -/
def withDue (out : Bool) (w n : Nat) : Nat := putBits w (if out then 72 else 32) 40 n

theorem barDue_withDue {n : Nat} (hn : n < 2 ^ 40) (out : Bool) (w : Nat) : barDue out (withDue out w n) = n :=
  (bitsAt_putBits_same ..).trans (Nat.mod_eq_of_lt hn)

@[simp] theorem barGen_withDue (out : Bool) (w n : Nat) : barGen (withDue out w n) = barGen w := by
  cases out <;> exact bitsAt_putBits_of_disjoint (by simp) ..

@[simp] theorem barPending_withDue (out : Bool) (w n : Nat) : barPending (withDue out w n) = barPending w := by
  cases out <;> exact congrArg (signedOf 14) (bitsAt_putBits_of_disjoint (by simp) ..)

/-- A count out of range is one that would leave 0 to 2^40 − 1 (R199). -/
def outOfRange (sub : Bool) (old n : Nat) : Prop := if sub then old < n else 2 ^ 40 ≤ old + n

theorem barCount_of_broken {w : Nat} (h : barBroken w = true) (out sub : Bool) (n : Nat) : barCount w out sub n = (w, []) := by
  rw [barCount, if_pos h]

theorem barCount_of_outOfRange {w n : Nat} {out sub : Bool} (hbroken : barBroken w = false) (h : outOfRange sub (barDue out w) n) :
    barCount w out sub n = (barBreak w, []) := by
  rw [barDue_eq, outOfRange] at h
  rw [barCount, hbroken, if_neg Bool.false_ne_true]
  dsimp only
  rw [if_pos h]

theorem barCount_of_pending {w n : Nat} {out sub : Bool} (hbroken : barBroken w = false) (h : ¬outOfRange sub (barDue out w) n)
    (hpending : 0 < barPending w) :
    barCount w out sub n = (withDue out w (if sub then barDue out w - n else barDue out w + n), []) := by
  rw [outOfRange, barDue_eq] at h
  rw [barCount, hbroken, if_neg Bool.false_ne_true, barDue_eq]
  dsimp only
  rw [if_neg h]
  exact barEval_of_pending (by rw [← withDue, barPending_withDue]; exact hpending)

theorem barBroken_barBreak (w : Nat) : barBroken (barBreak w) = true := by
  rw [barBroken, bitAt_eq_testBit, barBreak, testBit_putBits, if_pos (by omega)]
  decide

theorem barDue_barBreak (out : Bool) (w : Nat) : barDue out (barBreak w) = barDue out w := by
  cases out <;> exact bitsAt_putBits_of_disjoint (by simp) ..

/-- The value of a count in range fits its field. -/
theorem lt_of_not_outOfRange {out sub : Bool} {w n : Nat} (h : ¬outOfRange sub (barDue out w) n) :
    (if sub then barDue out w - n else barDue out w + n) < 2 ^ 40 := by
  have hold : barDue out w < 2 ^ 40 := Nat.mod_lt _ (by decide)
  cases sub <;> simp only [outOfRange, Bool.false_eq_true, if_true, if_false] at h ⊢ <;> omega

/-! ### BARM's initial value (R200) -/

section
variable {w lo n k v : Nat}

/-- A field below what is added. -/
theorem bitsAt_add_of_le (h : lo + n ≤ k) : bitsAt (w + v * 2 ^ k) lo n = bitsAt w lo n := by
  obtain ⟨m, rfl⟩ := Nat.exists_eq_add_of_le h
  have hsplit : v * 2 ^ (lo + n + m) = v * 2 ^ m * 2 ^ n * 2 ^ lo := by ring
  rw [bitsAt, bitsAt, hsplit, Nat.add_mul_div_right _ _ (Nat.two_pow_pos lo), Nat.add_mul_mod_self_right]

/-- The field that is added. -/
theorem bitsAt_add_same (hw : w < 2 ^ lo) (hv : v < 2 ^ n) : bitsAt (w + v * 2 ^ lo) lo n = v := by
  rw [bitsAt, Nat.add_mul_div_right _ _ (Nat.two_pow_pos lo), Nat.div_eq_of_lt hw, zero_add, Nat.mod_eq_of_lt hv]

/-- A field above the number. -/
theorem bitsAt_of_lt (hw : w < 2 ^ lo) : bitsAt w lo n = 0 := by
  rw [bitsAt, Nat.div_eq_of_lt hw, Nat.zero_mod]

end

/-- The fields of the initial value, each from its own bits of the word but for GEN. -/
theorem barInit_fields (w : Nat) (b : Word) :
    barGen (barInit w b) = barGen w ∧ barExpected (barInit w b) = bitsAt b.toNat 0 14 ∧ barIn (barInit w b) = 0 ∧
      barOut (barInit w b) = 0 ∧ bitsAt (barInit w b) 112 1 = 0 ∧ bitsAt (barInit w b) 115 1 = bitsAt b.toNat 15 1 ∧
      bitsAt (barInit w b) 116 1 = bitsAt b.toNat 14 1 ∧ barTag (barInit w b) = bitsAt b.toNat 16 6 ∧
      barScope (barInit w b) = bitsAt b.toNat 22 5 := by
  have hgen : barGen w < 2 ^ 4 := Nat.mod_lt _ (by decide)
  have hexp : bitsAt b.toNat 0 14 < 2 ^ 14 := Nat.mod_lt _ (by decide)
  have hauto : bitsAt b.toNat 15 1 < 2 ^ 1 := Nat.mod_lt _ (by decide)
  have hnotify : bitsAt b.toNat 14 1 < 2 ^ 1 := Nat.mod_lt _ (by decide)
  have htag : bitsAt b.toNat 16 6 < 2 ^ 6 := Nat.mod_lt _ (by decide)
  have hscope : bitsAt b.toNat 22 5 < 2 ^ 5 := Nat.mod_lt _ (by decide)
  have hlow : bitsAt (barGen w) 0 4 = barGen w := by rw [bitsAt, pow_zero, Nat.div_one, Nat.mod_eq_of_lt hgen]
  simp only [barInit]
  generalize barGen w = g, bitsAt b.toNat 0 14 = e, bitsAt b.toNat 15 1 = a, bitsAt b.toNat 14 1 = n, bitsAt b.toNat 16 6 = t,
    bitsAt b.toNat 22 5 = c at *
  simp only [barGen, barExpected, barIn, barOut, barTag, barScope]
  simp (disch := omega) only [bitsAt_add_of_le, bitsAt_add_same, bitsAt_of_lt, hlow, and_self]

theorem barInit_eq (w : Nat) (b : Word) :
    let z := barInit w b
    barGen z = barGen w ∧ barExpected z = (b.extractLsb' 0 14).toNat ∧ barIn z = 0 ∧ barOut z = 0 ∧ barBroken z = false ∧
      barNotify z = b.getLsbD 14 ∧ barAuto z = b.getLsbD 15 ∧ barTag z = (b.extractLsb' 16 6).toNat ∧
      barScope z = (b.extractLsb' 22 5).toNat := by
  obtain ⟨hgen, hexp, hin, hout, hbroken, hauto, hnotify, htag, hscope⟩ := barInit_fields w b
  simp only [toNat_extractLsb'_eq_bitsAt, ← bitAt_eq_getLsbD]
  refine ⟨hgen, hexp, hin, hout, ?_, ?_, ?_, htag, hscope⟩
  · rw [barBroken, bitAt, hbroken]
    rfl
  · rw [barNotify, bitAt, hnotify, bitAt]
  · rw [barAuto, bitAt, hauto, bitAt]

/-- Settles O41: an object is its fields, an arrival and a count change the one they are about, and the evaluation that follows does
nothing while arrivals are due. -/
theorem barrierObjects : Obligations.BarrierObjects := by
  unfold Obligations.BarrierObjects
  intro w b n out sub hw pend exp due
  have hpend : pend = barPending w := (barPending_eq hw).symm
  have hexp : exp = barExpected w := toNat_extractLsb'_ofNat hw 4 14
  have hdue : ∀ o, due o = barDue o w := by
    intro o
    cases o <;> exact toNat_extractLsb'_ofNat hw _ 40
  have hfield : ∀ z, (if out then barOut z else barIn z) = barDue out z := fun z => (barDue_eq out z).symm
  simp only [hpend, hexp, hdue, hfield]
  refine ⟨by simp [barGen, bitsAt], trivial, trivial, rfl, rfl, fun h => barCount_of_broken h .., fun hbroken hp => ?_,
    fun hbroken hp hin hout hpos hle => ?_, fun hbroken hrange => ?_, fun hbroken hrange hp => ?_, barInit_eq w b⟩
  · have hbounds := barPending_bounds w
    rw [barArrive_of_pending hp]
    exact ⟨barPending_putPending w (by omega) (by omega), barGen_putPending .., rfl⟩
  · rw [barArrive_of_last hbroken hp hin hout hpos]
    exact ⟨barPending_putPending _ (by omega) (by omega), by simp, by simp, by simpa using hbroken, rfl⟩
  · rw [barCount_of_outOfRange hbroken hrange]
    exact ⟨barBroken_barBreak w, rfl, barDue_barBreak out w⟩
  · rw [barCount_of_pending hbroken hrange hp]
    exact ⟨barDue_withDue (lt_of_not_outOfRange hrange) out w, barGen_withDue ..⟩

end Sys2Proof.Proofs

namespace Sys2Proof.Proofs

open Sys2Proof Sys2Proof.Machine

/-! ### A wait at a broken object that is read from its twin (R149, R336) -/

/-- The bytes of a broken object at offset 0x40 of its folio: BROKEN is bit 0 of byte 14 (R198). -/
def brokenBytes : List TByte := List.replicate 78 (0, false) ++ (1, false) :: List.replicate 49 (0, false)

/-- The first bytes of a region of core 0, pinned. -/
def pinnedFolio (key : Nat) (bytes : List TByte) : Folio :=
  { st := .pinned, scr := true, start := 0, fin := 128, base := 0, key := key, data := bytes }

/-- A Running carrel; c3 is a capability to 256 bytes at the object of core 0, with every permission. -/
def waitCarrel : Carrel := { st := .running, regs := [(3, { val := mkCap 0x3FF 0 0 0x100 lateAddr, tag := true })] }

/-- The first-level cache with its copy of the object poisoned. -/
def poisonedCache : Cache := { folios := [pinnedFolio (scrKey 0 0) brokenBytes], poison := [2] }

/-- Core 0 with that carrel and that cache, and the twin's copy clean. -/
def twinState : State :=
  { cores := [(0, { regions := [(0, 0x1000)], l1 := poisonedCache, carrels := [(0, waitCarrel)] })],
    clusters := [(0, { l2 := { folios := [pinnedFolio (twinKey 0 0 0) brokenBytes] } })] }

/-- BWAIT at the object, for GEN = 0. -/
def twinWait : Instr := .bwait 1 3 2

/-- The place of the object. -/
def twinPlaces : Places := { locs := (List.range 16).map fun j => .scr 0 0 (0x40 + j) }

theorem places_twinState : places twinState twinState.cur.1 twinState.myCore.ctx lateAddr 16 .rw = (twinState, .ok twinPlaces) :=
  eq_of_foundAs (by decide +kernel)

theorem reachesBarrier_twinState : ReachesBarrier twinState (src (readSources twinState.me [3, 2]) 0) (permR ||| permENG) true
    twinState (.scr 0 0 0x40) := by
  have haddr : capAddr (src (readSources twinState.me [3, 2]) 0).val = lateAddr := by decide +kernel
  have hcheck : capCheck twinState twinState.cur.1 (src (readSources twinState.me [3, 2]) 0) lateAddr 16 (permR ||| permENG) = none := by
    decide +kernel
  rw [ReachesBarrier, haddr]
  exact ⟨twinPlaces, _, places_twinState, rfl, by decide, hcheck, by decide, fun _ => by decide +kernel⟩

/-- The poisoned sectors of core 0's first-level cache after a step. -/
def poisonAfter : Host.Outcome State Fault Refusal → List Nat
  | .next t => (t.core 0).l1.poison
  | _ => []

/-- The word has corrected the poisoned sector when it traps (R149). -/
theorem poisonAfter_twinWait : poisonAfter (exec twinWait twinState) = [] := by decide +kernel

/-- A trap alone leaves the sector poisoned. -/
theorem poisonAfter_takeTrap :
    poisonAfter (.next (takeTrap twinState twinState.cur.1 twinState.cur.2 0x281 (BitVec.ofNat 64 lateAddr))) = [2] := by
  decide +kernel

/-- Refutes O40: its clause on BWAIT at a broken object says that the word traps with no other effect. Where a byte of the object is
poisoned and its twin clean, the word first corrects the sector and counts the error (R149, R279), and traps in the state that this
leaves: what the clause lacks is that the trap is taken from the healed state, as the clauses on BARR have it. -/
theorem not_barrierWords : ¬ Obligations.BarrierWords := by
  unfold Obligations.BarrierWords
  intro h
  have hissue : issuable twinWait twinState = true := by decide +kernel
  have hready : sourcesReady { cs := [3, 2], dc := some 1 } twinState = true := by decide +kernel
  have hstream : twinState.me.stream 1 = none := by decide +kernel
  have htakes : takesAny twinState 1 := fun v => by simp only [destGate, hstream]
  have haddr : capAddr (src (readSources twinState.me [3, 2]) 0).val = lateAddr := by decide +kernel
  have hclean : barPoisoned (healRegion twinState 0 0 0x40 16) 0 0 0x40 = false := by decide +kernel
  have hbroken : barBroken (barObject (healRegion twinState 0 0 0x40 16) 0 0 0x40) = true := by decide +kernel
  obtain ⟨-, -, -, hwait⟩ := h twinState 1 3 2
  obtain ⟨-, hobject⟩ := hwait hissue hready htakes (by decide +kernel)
  obtain ⟨htrap, -⟩ := hobject twinState 0 0 0x40 reachesBarrier_twinState hclean
  have hexec := htrap hbroken (by decide +kernel)
  have hpoison := poisonAfter_twinWait
  rw [twinWait, hexec, haddr, poisonAfter_takeTrap] at hpoison
  exact absurd hpoison (by decide)

end Sys2Proof.Proofs

namespace Sys2Proof.Proofs

open Sys2Proof Sys2Proof.Machine

/-! ### SBIND (R197, R384) -/

/-- The carrel with register `r` bound to a stream, and with no load of an earlier one. -/
def bound (c : Carrel) (r : Reg) (st : Stream) : Carrel := { c.unbind r with streams := fset (c.unbind r).streams r.toNat st }

/-- The operation of SBIND with the record's operand `cap`. -/
def sbindStep (r : Reg) (a b : Reg) (base cap : TCap) (s : State) : WordRes :=
  let addr := capAddr cap.val
  if unbindWaits s.me r then .stall else
  if addr % 64 ≠ 0 then .trap 0x101 (BitVec.ofNat 64 addr) else
  match capCheck s s.cur.1 cap addr 64 permR with
  | some c => .trap c (BitVec.ofNat 64 addr)
  | none => readBuf 0 s addr 64 fun s p =>
    let st := streamOf base p
    if 2 ^ 32 ≤ st.total then .trap 0x102 (BitVec.ofNat 64 (st.total % 2 ^ 32))
    else .exit ((popAll s [a, b]).modMe fun c => bound c r st).retire

theorem exec_sbind (q : SReg) (a b : Reg) (s : State) : exec (.sbind q a b) s =
    runWord (.sbind q a b) { cs := [a, b] } s fun s vs => sbindStep (streamReg q) a b (src vs 0) (src vs 1) s := rfl

section
variable {s t : State} {r a b : Reg} {base cap : TCap} {bs : List TByte} (hfree : unbindWaits s.me r = false)
include hfree

theorem sbindStep_of_misaligned (h : capAddr cap.val % 64 ≠ 0) :
    sbindStep r a b base cap s = .trap 0x101 (BitVec.ofNat 64 (capAddr cap.val)) := by
  simp [sbindStep, hfree, h]

variable (hmis : capAddr cap.val % 64 = 0)
include hmis

theorem sbindStep_of_cause {c : Nat} (h : capCheck s s.cur.1 cap (capAddr cap.val) 64 permR = some c) :
    sbindStep r a b base cap s = .trap c (BitVec.ofNat 64 (capAddr cap.val)) := by
  simp [sbindStep, hfree, hmis, h]

theorem sbindStep_of_arrived (hcheck : capCheck s s.cur.1 cap (capAddr cap.val) 64 permR = none)
    (h : arrived s (capAddr cap.val) 64 = some (t, bs)) : sbindStep r a b base cap s =
      let st := streamOf base bs
      if 2 ^ 32 ≤ st.total then .trap 0x102 (BitVec.ofNat 64 (st.total % 2 ^ 32))
      else .exit ((popAll t [a, b]).modMe fun c => bound c r st).retire := by
  simp only [sbindStep, hfree, Bool.false_eq_true, if_false, hmis, ne_eq, not_true_eq_false, hcheck, readBuf_of_arrived h]

end

/-- A pattern record gives the stream its extents, its strides and its control bits (R197). -/
theorem streamOf_eq (base : TCap) (bs : List TByte) :
    let num := fun (off n : Nat) => leNat (((bs.drop off).take n).map (·.1))
    streamOf base bs = {
      base := base, extents := [num 0 4, num 4 4, num 8 4],
      strides := [(BitVec.ofNat 64 (num 16 8)).toInt, (BitVec.ofNat 64 (num 24 8)).toInt, (BitVec.ofNat 64 (num 32 8)).toInt],
      size := 2 ^ (num 12 4 % 4), write := (num 12 4).testBit 2, sign := (num 12 4).testBit 3,
      total := num 0 4 * num 4 4 * num 8 4 } := by
  have hnum : ∀ off n, fieldAt bs off n = leNat (((bs.drop off).take n).map (·.1)) := fun _ _ => rfl
  simp only [streamOf, signedOf_eq_toInt, bitAt_eq_testBit, ← hnum, List.foldl, one_mul, bitsAt, pow_zero, Nat.div_one]
  rfl

/-- The registers of the carrel stay, and of its streams only the one of `r` changes. -/
theorem stream_bound (c : Carrel) (r p : Reg) (st : Stream) : (bound c r st).stream p = if r = p then some st else c.stream p := by
  rw [Carrel.stream, bound, Carrel.unbind, fget_fset, fget_fdel]
  by_cases hp : r = p
  · rw [if_pos (congrArg BitVec.toNat hp), if_pos hp]
  · have hne : r.toNat ≠ p.toNat := fun e => hp (BitVec.eq_of_toNat_eq e)
    rw [if_neg hne, if_neg hne, if_neg hp, Carrel.stream]

theorem stream_unbind (c : Carrel) (r p : Reg) : (c.unbind r).stream p = if r = p then none else c.stream p := by
  rw [Carrel.stream, Carrel.unbind, fget_fdel, Carrel.stream]
  simp only [BitVec.toNat_inj]

theorem me_retire (s : State) : s.retire.me = nextWordOf s.me := me_modMe s _

theorem regs_nextWordOf (c : Carrel) : (nextWordOf c).regs = c.regs := rfl
theorem pc_nextWordOf (c : Carrel) : (nextWordOf c).pc = c.pc + 4 := rfl
theorem regs_bound (c : Carrel) (r : Reg) (st : Stream) : (bound c r st).regs = c.regs := rfl
theorem pc_bound (c : Carrel) (r : Reg) (st : Stream) : (bound c r st).pc = c.pc := rfl

/-- What SBIND leaves once its record has arrived. -/
theorem sbind_binds (t : State) (r : Reg) (cs : List Reg) (st : Stream) :
    let u := ((popAll t cs).modMe fun c => bound c r st).retire
    u.me.stream r = some st ∧ u.me.regs = t.me.regs ∧ u.me.pc = t.me.pc + 4 ∧ u.mem = t.mem ∧
      ∀ p, p ≠ r → p ∉ cs → u.me.stream p = t.me.stream p := by
  intro u
  have hme : u.me = nextWordOf (bound (cs.foldl Carrel.pop t.me) r st) := by rw [me_retire, me_modMe, me_popAll]
  have hstream : ∀ p, u.me.stream p = if r = p then some st else (cs.foldl Carrel.pop t.me).stream p := fun p => by
    rw [hme, ← stream_bound]
    rfl
  refine ⟨by rw [hstream, if_pos rfl], ?_, ?_, ?_, fun p hr hcs => ?_⟩
  · rw [hme, regs_nextWordOf, regs_bound, foldl_pop_frame]
  · rw [hme, pc_nextWordOf, pc_bound, foldl_pop_frame]
  · simp only [u, State.retire, mem_modMe, popAll]
    split <;> rfl
  · rw [hstream, if_neg (Ne.symm hr), stream_foldl_pop_of_not_mem _ hcs]

/-! ### SUNBIND and SSTAT -/

theorem exec_sunbind (q : SReg) (s : State) : exec (.sunbind q) s = runWord (.sunbind q) {} s fun s _ =>
    if unbindWaits s.me (streamReg q) then .stall
    else .done (s.modMe fun c => (c.unbind (streamReg q)).write (streamReg q) {}) := rfl

theorem streamReg_ne_zero (q : SReg) : streamReg q ≠ 0 := by
  intro h
  have hlt := q.isLt
  have hnum : (48 + q.toNat) % 2 ^ 6 = 0 := by simpa [streamReg] using congrArg BitVec.toNat h
  omega

/-- What SUNBIND leaves. -/
theorem sunbind_unbinds {s : State} {r : Reg} (h : r ≠ 0) :
    let u := completed (s.modMe fun c => (c.unbind r).write r {}) []
    u.me.stream r = none ∧ u.me.read r = {} ∧ u.me.absent r = false ∧ u.me.pc = s.me.pc + 4 ∧
      (∀ p, p ≠ r → u.me.creg p = s.me.creg p ∧ u.me.stream p = s.me.stream p) ∧ u.mem = s.mem := by
  intro u
  have hme : u.me = nextWordOf ((s.me.unbind r).write r {}) := by rw [← me_modMe s fun c => (c.unbind r).write r {}, ← me_retire]; rfl
  have hstream : ∀ p, u.me.stream p = if r = p then none else s.me.stream p := fun p => by
    rw [hme, ← stream_unbind, ← write_stream (s.me.unbind r) r p {}]
    rfl
  have hcreg : ∀ p, u.me.creg p = if r = p ∧ r ≠ 0 then {} else s.me.creg p := fun p => by
    rw [hme]
    exact creg_write (s.me.unbind r) r p {}
  refine ⟨by rw [hstream, if_pos rfl], ?_, ?_, ?_, fun p hp => ⟨?_, ?_⟩, rfl⟩
  · rw [read_of_ne _ h, hcreg r, if_pos (show r = r ∧ r ≠ 0 from ⟨rfl, h⟩)]
    rfl
  · rw [hme]
    exact absent_write (s.me.unbind r) {} h
  · rw [hme, nextWordOf, Carrel.write, if_neg h]
    rfl
  · rw [hcreg, if_neg fun e => hp e.1.symm]
  · rw [hstream, if_neg (Ne.symm hp)]

/-- The status word of a stream in its fields (R197). -/
theorem streamStatus_eq (st : Stream) :
    let used := if st.write then st.next else st.used
    let held := if st.write then st.buffer.length
      else (st.ready.filter fun e => match e with
        | .pending _ => false
        | _ => true).length
    streamStatus st = BitVec.ofBool true ++ BitVec.ofBool st.write ++ BitVec.ofBool (decide (st.total ≤ used)) ++ (0 : BitVec 24) ++
      BitVec.ofNat 5 held ++ BitVec.ofNat 32 (st.total - used) := by
  intro used held
  have hwrite := Bool.toNat_lt st.write
  have hdone := Bool.toNat_lt (decide (st.total ≤ used))
  have hword : streamStatus st = BitVec.ofNat 64 (2 ^ 63 + st.write.toNat * 2 ^ 62 + (decide (st.total ≤ used)).toNat * 2 ^ 61 +
      held % 32 * 2 ^ 32 + (st.total - used) % 2 ^ 32) := rfl
  rw [hword]
  generalize decide (st.total ≤ used) = e, held = n, st.total - used = k at *
  refine BitVec.eq_of_toNat_eq ?_
  simp only [toNat_append_eq_add, BitVec.ofNat_eq_ofNat, BitVec.toNat_ofNat, BitVec.toNat_ofBool, Bool.toNat_true]
  omega

/-- Settles O38: SBIND and SUNBIND check in the order of R384 and then replace one binding, and the status word is its fields. -/
theorem streamWords : Obligations.StreamWords := by
  unfold Obligations.StreamWords
  intro s q a b d r base cap addr x i
  refine ⟨fun hissue hready hfree => ⟨fun hmis hsettled => ?_, fun hmis c hcheck hsettled => ?_,
    fun hmis hcheck t bs harrived => ?_⟩, fun hissue hready hfree => ?_, ?_⟩
  · rw [exec_sbind]
    exact runWord_trap hissue hready rfl rfl (sbindStep_of_misaligned hfree hmis) (by decide) hsettled
  · rw [exec_sbind]
    exact runWord_trap hissue hready rfl rfl (sbindStep_of_cause hfree hmis hcheck) (causeRank_capCheck hcheck) hsettled
  · intro num ext total
    have hstep := sbindStep_of_arrived (r := r) (a := a) (b := b) (base := base) hfree hmis hcheck harrived
    rw [streamOf_eq] at hstep
    obtain ⟨hbound, hregs, hpc, hmem, hothers⟩ := sbind_binds t r [a, b] (streamOf base bs)
    rw [streamOf_eq] at hbound hregs hpc hmem hothers
    refine ⟨fun hbig hsettled => ?_, fun hsmall => ⟨_, ?_, hbound, hregs, hpc, hmem,
      fun p hr ha hb => hothers p hr (by simp [ha, hb])⟩⟩
    · rw [exec_sbind]
      exact runWord_trap hissue hready rfl rfl (hstep.trans (if_pos hbig)) (by decide) hsettled
    · rw [exec_sbind]
      exact runWord_exit hissue hready rfl (hstep.trans (if_neg (Nat.not_le.2 hsmall)))
  · refine ⟨_, ?_, sunbind_unbinds (streamReg_ne_zero q)⟩
    rw [exec_sunbind]
    exact runWord_done_plain hissue hready (if_neg (by rw [show unbindWaits s.me (streamReg q) = false from hfree]; decide)) rfl rfl
  · refine givesData_of_done (show exec (.sstat d q) s = _ from rfl) rfl ?_
    have hstream : s.me.stream (streamReg q) = s.me.stream r := rfl
    dsimp only
    rw [hstream]
    cases s.me.stream r with
    | none => rfl
    | some st => exact congrArg (fun w => WordRes.done (s.putData d w)) (streamStatus_eq st)

end Sys2Proof.Proofs

namespace Sys2Proof.Proofs

open Sys2Proof Sys2Proof.Machine

/-! ### A word without a destination (R121) -/

/-- A word that writes no register and raises a cause of its own comes to that cause, whatever its place in R121. -/
theorem runOps_cause_of_no_dest {o : OpSpec} {s : State} {body : State → List TCap → WordRes} {c : Nat} {v : Word}
    (hready : sourcesReady o s = true) (hdest : o.dc = none) (hbody : body s (readSources s.me o.cs) = .trap c v) :
    runOps o s body = .trap c v := by
  simp only [sourcesReady, Bool.and_eq_true, Bool.not_eq_true', beq_iff_eq] at hready
  obtain ⟨hgate, hecc⟩ := hready
  have hown : firstCause ((ownCauses o s .go (.trap c v) .go ++ [none]).filterMap id) = some (.trap c v) := by
    rw [ownCauses]
    split
    · split <;> simp [Gate.cause, firstCause, WordRes.rank]
    · simp [Gate.cause, firstCause, WordRes.rank]
  simp only [runOps, hgate, hecc, hbody, hdest, Option.map_none, Option.getD_none, Bool.false_eq_true, if_false, hown]

/-- Such a word traps with its cause. -/
theorem runWord_trap_of_no_dest {i : Instr} {o : OpSpec} {s : State} {body : State → List TCap → WordRes} {c : Nat} {v : Word}
    (hissue : issuable i s = true) (hready : sourcesReady o s = true) (hplain : isSync i = false) (hdest : o.dc = none)
    (hbody : body s (readSources s.me o.cs) = .trap c v) (hsettled : s.me.settled = true) :
    runWord i o s body = .next (takeTrap s s.cur.1 s.cur.2 c v) := by
  rw [runWord_of_issuable hissue, runOps_cause_of_no_dest hready hdest hbody, complete, recordSync_plain hplain, raise, if_pos hsettled]
  rfl

/-! ### The descriptor of SIPH and SGATH (R186, R195) -/

section
variable {s t : State} {cap : TCap} {bs : List TByte} {k : State → List TByte → WordRes}

theorem readDesc_of_cause {c : Nat} (h : capCheck s s.cur.1 cap (capAddr cap.val) 128 (permR ||| permENG) = some c) :
    readDesc s cap k = .trap c (BitVec.ofNat 64 (capAddr cap.val)) := by
  simp only [readDesc, h]

variable (hcheck : capCheck s s.cur.1 cap (capAddr cap.val) 128 (permR ||| permENG) = none)
include hcheck

theorem readDesc_of_unfit (h : hasPerms (capPerms cap.val) permX = true ∨ capAddr cap.val % 128 ≠ 0) :
    readDesc s cap k = .trap 0x1C1 (BitVec.ofNat 64 (capAddr cap.val)) := by
  have hunfit : (hasPerms (capPerms cap.val) permX || decide (capAddr cap.val % 128 ≠ 0)) = true := by simpa using h
  simp only [readDesc, hcheck, hunfit, if_true]

theorem readDesc_of_arrived (hperm : hasPerms (capPerms cap.val) permX = false) (hmis : capAddr cap.val % 128 = 0)
    (h : arrived s (capAddr cap.val) 128 = some (t, bs)) : readDesc s cap k = k t bs := by
  simp [readDesc, hcheck, hperm, hmis, readBuf_of_arrived h]

end

section
variable {i : Instr} {cs : List Reg} {s : State} {body : State → List TCap → WordRes} {cap : TCap} {k : State → List TByte → WordRes}
  (hexec : exec i s = runWord i { cs := cs } s body) (hplain : isSync i = false)
include hexec hplain

/-- A word that reads a descriptor first is refused by the checks of its operand. -/
theorem refused_of_readDesc (hissue : issuable i s = true) (hready : sourcesReady { cs := cs } s = true)
    (hbody : body s (readSources s.me cs) = readDesc s cap k) :
    (∀ c, capCheck s s.cur.1 cap (capAddr cap.val) 128 (permR ||| permENG) = some c →
      Traps i s c (BitVec.ofNat 64 (capAddr cap.val))) ∧
    (capCheck s s.cur.1 cap (capAddr cap.val) 128 (permR ||| permENG) = none →
      hasPerms (capPerms cap.val) permX = true ∨ capAddr cap.val % 128 ≠ 0 →
        Traps i s 0x1C1 (BitVec.ofNat 64 (capAddr cap.val))) := by
  refine ⟨fun c hcause hsettled => ?_, fun hcheck hunfit hsettled => ?_⟩
  · rw [hexec]
    exact runWord_trap_of_no_dest hissue hready hplain rfl (hbody.trans (readDesc_of_cause hcause)) hsettled
  · rw [hexec]
    exact runWord_trap_of_no_dest hissue hready hplain rfl (hbody.trans (readDesc_of_unfit hcheck hunfit)) hsettled

end

/-! ### SIPH (R186) -/

/-- The entry of a siphon word: it releases at device scope (R183). -/
def devEntry (s : State) (i : Instr) (eff : Effect) (x : Word) : Entry := { mkEntry s i eff x with release := some ⟨4, 4, []⟩ }

/-- SIPH with the bytes of its descriptor. -/
def siphStep (i : Instr) (h : BitVec 6) (b0 : Bool) (sc dc : TCap) (x : Word) (s : State) (bs : List TByte) : WordRes :=
  match siphBuild s s.cur.1 (siphOfDesc bs sc dc x) b0 with
  | .error (c, v) => .trap c v
  | .ok c => putOut s [devEntry s i (.siph h.toNat c) x]

theorem exec_siph (d a b : Reg) (h : BitVec 6) (s : State) : exec (.siph d a b h) s =
    runWord (.siph d a b h) { cs := [a, b, d] } s fun s vs =>
      readDesc s (src vs 2) (siphStep (.siph d a b h) h (b == 0) (src vs 0) (src vs 1) (src vs 2).data) := rfl

/-! ### SGATH (R195, R196) -/

/-- SGATH with the bytes of its row pointers. -/
def sgathRows (i : Instr) (h : BitVec 6) (feat csr : TCap) (x : Word) (bs : List TByte) (n ea eb : Nat) (s : State)
    (ps : List TByte) : WordRes :=
  match gathBuild s bs feat csr x ((List.range (n + 1)).map fun j => fieldAt ps (4 * j) 4) ea eb with
  | .error (c, v) => .trap c v
  | .ok c => putOut s [devEntry s i (.sgath h.toNat c) x]

/-- SGATH with the bytes of its descriptor. -/
def sgathStep (i : Instr) (h : BitVec 6) (feat csr : TCap) (x : Word) (s : State) (bs : List TByte) : WordRes :=
  let g := gCtl bs
  let r := s.myCore.cregs
  match winTile r (bitsAt g 0 4), winTile r (bitsAt g 4 4) with
  | none, _ => .trap 0x202 (BitVec.ofNat 64 (bitsAt g 0 4))
  | _, none => .trap 0x202 (BitVec.ofNat 64 (bitsAt g 4 4))
  | some ea, some eb =>
    let n := gRhi bs - gRlo bs
    if gRhi bs < gRlo bs || n > tdRows (fgetD r.td (bitsAt g 0 4) 0).toNat then .trap 0x1C1 x else
    let addr := (capAddr csr.val + gRoff bs + 4 * gRlo bs) % 2 ^ 64
    match capCheck s s.cur.1 csr addr (4 * (n + 1)) permR with
    | some c => .trap c (BitVec.ofNat 64 addr)
    | none => readBuf 0 s addr (4 * (n + 1)) (sgathRows i h feat csr x bs n ea eb)

theorem exec_sgath (d a b : Reg) (h : BitVec 6) (s : State) : exec (.sgath d a b h) s =
    runWord (.sgath d a b h) { cs := [a, b, d] } s fun s vs =>
      readDesc s (src vs 2) (sgathStep (.sgath d a b h) h (src vs 0) (src vs 1) (src vs 2).data) := rfl

theorem winTile_of_le {r : CtxRegs} {n : Nat} (h : r.tcnt ≤ n) : winTile r n = none := if_neg (Nat.not_lt.2 h)

theorem winTile_of_lt {r : CtxRegs} {n : Nat} (h : n < r.tcnt) : winTile r n = some (r.tbase + n) := if_pos h

section
variable {i : Instr} {h : BitVec 6} {feat csr : TCap} {x : Word} {t u : State} {bs ps : List TByte}

/-- The tiles that the descriptor names (R195). -/
def gTileA (bs : List TByte) : Nat := bitsAt (gCtl bs) 0 4
def gTileB (bs : List TByte) : Nat := bitsAt (gCtl bs) 4 4

/-- The rows that the descriptor names, and the address of the first row pointer. -/
def gRows (bs : List TByte) : Nat := gRhi bs - gRlo bs
def gFrom (csr : TCap) (bs : List TByte) : Nat := (capAddr csr.val + gRoff bs + 4 * gRlo bs) % 2 ^ 64

theorem sgathStep_of_badA (ha : t.myCore.cregs.tcnt ≤ gTileA bs) :
    sgathStep i h feat csr x t bs = .trap 0x202 (BitVec.ofNat 64 (gTileA bs)) := by
  rw [gTileA] at ha
  simp only [sgathStep, winTile_of_le ha, gTileA]

variable (ha : gTileA bs < t.myCore.cregs.tcnt)
include ha

theorem sgathStep_of_badB (hb : t.myCore.cregs.tcnt ≤ gTileB bs) :
    sgathStep i h feat csr x t bs = .trap 0x202 (BitVec.ofNat 64 (gTileB bs)) := by
  rw [gTileA] at ha
  rw [gTileB] at hb
  simp only [sgathStep, winTile_of_lt ha, winTile_of_le hb, gTileB]

variable (hb : gTileB bs < t.myCore.cregs.tcnt)
include hb

theorem sgathStep_of_badRows (hrows : gRhi bs < gRlo bs ∨ tdRows (fgetD t.myCore.cregs.td (gTileA bs) 0).toNat < gRows bs) :
    sgathStep i h feat csr x t bs = .trap 0x1C1 x := by
  simp only [gTileA, gTileB, gRows] at ha hb hrows
  simp only [sgathStep, winTile_of_lt ha, winTile_of_lt hb, Bool.or_eq_true, decide_eq_true_eq, gt_iff_lt, if_pos hrows]

theorem sgathStep_of_arrived (hle : gRlo bs ≤ gRhi bs) (hrows : gRows bs ≤ tdRows (fgetD t.myCore.cregs.td (gTileA bs) 0).toNat)
    (hcheck : capCheck t t.cur.1 csr (gFrom csr bs) (4 * (gRows bs + 1)) permR = none)
    (harrived : arrived t (gFrom csr bs) (4 * (gRows bs + 1)) = some (u, ps)) : sgathStep i h feat csr x t bs =
      sgathRows i h feat csr x bs (gRows bs) (t.myCore.cregs.tbase + gTileA bs) (t.myCore.cregs.tbase + gTileB bs) u ps := by
  simp only [gTileA, gTileB, gRows, gFrom] at ha hb hrows hcheck harrived ⊢
  have hfit : ¬(gRhi bs < gRlo bs ∨ tdRows (fgetD t.myCore.cregs.td (bitsAt (gCtl bs) 0 4) 0).toNat < gRhi bs - gRlo bs) := by
    omega
  simp only [sgathStep, winTile_of_lt ha, winTile_of_lt hb, Bool.or_eq_true, decide_eq_true_eq, gt_iff_lt, if_neg hfit, hcheck,
    readBuf_of_arrived harrived]

end

/-! ### SCFG and SWMR (R193, R194) -/

theorem exec_scfg (a : Reg) (h : BitVec 6) (s : State) : exec (.scfg a h) s = runWord (.scfg a h) { cs := [a] } s fun s vs =>
    putOut s [devEntry s (.scfg a h) (.scfg h.toNat (src vs 0).data) (BitVec.ofNat 64 h.toNat)] := rfl

/-- The status word of a channel in its fields (R194). -/
theorem chanWord_status (k : Core) (h : Nat) : chanWord k h .status =
    BitVec.ofBool (k.chan h).v ++ BitVec.ofBool (k.chan h).done ++ BitVec.ofBool (k.chan h).flt ++
      BitVec.ofBool (k.queue.any (namesChan h)) ++ (0 : BitVec 20) ++ BitVec.ofNat 40 (k.chan h).wmk := by
  have hv := Bool.toNat_lt (k.chan h).v
  have hdone := Bool.toNat_lt (k.chan h).done
  have hflt := Bool.toNat_lt (k.chan h).flt
  have hqueued := Bool.toNat_lt (k.queue.any (namesChan h))
  refine BitVec.eq_of_toNat_eq ?_
  simp only [chanWord, toNat_append_eq_add, BitVec.ofNat_eq_ofNat, BitVec.toNat_ofNat, BitVec.toNat_ofBool]
  omega

/-- Settles O39: SIPH and SGATH check the descriptor's operand, then what the descriptor says in the order of R186 and R196, and place
one entry; SWMR's status word is its fields. -/
theorem siphonWords : Obligations.SiphonWords := by
  unfold Obligations.SiphonWords
  intro s d a b h sel vs cap addr x refused reads ready
  refine ⟨?siph, ?sgath, ?scfg, ?swmr⟩
  case siph =>
    rintro i ⟨hissue, hready⟩
    refine ⟨refused_of_readDesc (exec_siph d a b h s) rfl hissue hready rfl, ?_⟩
    rintro t bs ⟨hcheck, hperm, hmis, harrived⟩
    have hread := readDesc_of_arrived (k := siphStep i h (b == 0) (src vs 0) (src vs 1) cap.data) hcheck hperm hmis harrived
    refine ⟨fun c v hbuild hsettled => ?_, fun c hbuild hroom => ?_⟩
    · rw [exec_siph]
      exact runWord_trap_of_no_dest hissue hready rfl rfl (hread.trans (by simp only [siphStep, hbuild])) hsettled
    · rw [exec_siph]
      have hput : siphStep i h (b == 0) (src vs 0) (src vs 1) cap.data t bs = .done (placed t (devEntry t i (.siph h.toNat c) cap.data)) := by
        simp only [siphStep, hbuild, putOut_of_hasRoom hroom]
      exact runWord_done_plain hissue hready (hread.trans hput) rfl rfl
  case sgath =>
    rintro i ⟨hissue, hready⟩
    refine ⟨refused_of_readDesc (exec_sgath d a b h s) rfl hissue hready rfl, ?_⟩
    rintro t bs ⟨hcheck, hperm, hmis, harrived⟩ num ta tb n r from_
    have hread := readDesc_of_arrived (k := sgathStep i h (src vs 0) (src vs 1) cap.data) hcheck hperm hmis harrived
    have hta : ta = gTileA bs := by
      simp only [gTileA, bitsAt, pow_zero, Nat.div_one]
      rfl
    have htb : tb = gTileB bs := rfl
    have htrap : ∀ c v, sgathStep i h (src vs 0) (src vs 1) cap.data t bs = .trap c v → Traps i s c v := by
      intro c v hstep hsettled
      rw [exec_sgath]
      exact runWord_trap_of_no_dest hissue hready rfl rfl (hread.trans hstep) hsettled
    rw [hta, htb]
    refine ⟨fun ha => htrap _ _ (sgathStep_of_badA ha), fun ha hb => htrap _ _ (sgathStep_of_badB ha hb),
      fun ha hb => ⟨fun hrows => htrap _ _ (sgathStep_of_badRows ha hb hrows), fun hle hrows hrowCheck u ps hrowArrived c hbuild hroom => ?_⟩⟩
    have hstep := sgathStep_of_arrived (i := i) (h := h) (feat := src vs 0) (x := cap.data) ha hb hle hrows hrowCheck hrowArrived
    have hput : sgathRows i h (src vs 0) (src vs 1) cap.data bs (gRows bs) (r.tbase + gTileA bs) (r.tbase + gTileB bs) u ps =
        .done (placed u (devEntry u i (.sgath h.toNat c) cap.data)) := by
      rw [sgathRows]
      have hbuild' : gathBuild u bs (src vs 0) (src vs 1) cap.data ((List.range (gRows bs + 1)).map fun j => fieldAt ps (4 * j) 4)
        (r.tbase + gTileA bs) (r.tbase + gTileB bs) = .ok c := hbuild
      simp only [hbuild', putOut_of_hasRoom hroom]
    rw [exec_sgath]
    exact runWord_done_plain hissue hready (hread.trans (hstep.trans hput)) rfl rfl
  case scfg =>
    intro i hissue hready hroom
    have hchan : BitVec.ofNat 64 h.toNat = h.setWidth 64 := by rw [BitVec.ofNat_toNat]
    rw [exec_scfg, hchan]
    exact runWord_placed hissue hready rfl rfl hroom rfl
  case swmr =>
    refine givesSync_of_done (show exec (.swmr d sel h) s = _ from rfl) ?_
    cases sel with
    | status => exact congrArg (fun w => WordRes.done (s.putData d w)) (chanWord_status s.myCore h.toNat)
    | dlo => rfl
    | fault => rfl

end Sys2Proof.Proofs

namespace Sys2Proof.Proofs

open Sys2Proof Sys2Proof.Machine

/-! ### What a translation leaves alone (R110, R111, R323): it changes range caches and counts violations -/

/-- The carrels, engines, ranges and contexts of `s` are those of `u`. -/
structure TranslationFrame (u s : State) : Prop where
  carrels : ∀ c i, s.carrel c i = u.carrel c i
  engines : ∀ k, s.engine k = u.engine k
  ranges : s.ranges = u.ranges
  ctxs : s.ctxs = u.ctxs

theorem TranslationFrame.refl (u : State) : TranslationFrame u u := ⟨fun _ _ => rfl, fun _ => rfl, rfl, rfl⟩

section
variable {u s : State} (h : TranslationFrame u s)
include h

theorem translationFrame_tlb (c : Nat) (f : Core → List TlbEnt) :
    TranslationFrame u (s.modCore c fun k => { k with tlb := f k }) := by
  refine ⟨fun d i => ?_, h.engines, h.ranges, h.ctxs⟩
  rw [← h.carrels d i, State.carrel, State.modCore, core_setCore]
  split
  · next e => rw [← e]; rfl
  · rfl

theorem translationFrame_rtc (k : Nat) (f : Cluster → List TlbEnt) :
    TranslationFrame u (s.modCluster k fun x => { x with rtc := f x }) := by
  refine ⟨h.carrels, fun j => ?_, h.ranges, h.ctxs⟩
  rw [← h.engines j, State.engine, cluster_modCluster]
  split
  · next e => rw [← e]; rfl
  · rfl

theorem translationFrame_rtLookup (core ctx g : Nat) : TranslationFrame u (rtLookup s core ctx g).1 := by
  unfold rtLookup
  dsimp only
  split
  · dsimp only
    exact translationFrame_tlb h ..
  · split
    · dsimp only
      exact translationFrame_tlb (translationFrame_rtc h ..) ..
    · split
      · exact h
      · split
        · dsimp only
          exact translationFrame_tlb (translationFrame_rtc h ..) ..
        · exact h

theorem translationFrame_translate (core ctx va : Nat) (acc : Acc_) (die : Nat) :
    TranslationFrame u (Machine.translate s core ctx va acc die).1 := by
  unfold Machine.translate
  dsimp only
  split <;> exact translationFrame_rtLookup h ..

theorem translationFrame_egCore (ctx core : Nat) (typ : Bool) (addr : Nat) : TranslationFrame u (egCore s ctx core typ addr) := by
  unfold egCore
  split <;> exact ⟨h.carrels, h.engines, h.ranges, h.ctxs⟩

end

theorem translationFrame_placesVa {u : State} (core ctx addr : Nat) (acc : Acc_) (gs : List (Nat × Nat × Nat)) {s : State}
    (h : TranslationFrame u s) : TranslationFrame u (placesVa s core ctx addr acc gs).1 := by
  fun_induction placesVa with
  | case1 => exact h
  | case2 s g lo hi rest t c ht =>
    have hnext := translationFrame_translate h core ctx (g * 4096 + lo) acc (core / 1024)
    rw [ht] at hnext
    exact hnext
  | case3 s g lo hi rest t p e ht x r hrest ih =>
    have hnext := translationFrame_translate h core ctx (g * 4096 + lo) acc (core / 1024)
    rw [ht] at hnext
    simpa only [hrest] using ih hnext
  | case4 s g lo hi rest t p e ht x q hrest ih =>
    have hnext := translationFrame_translate h core ctx (g * 4096 + lo) acc (core / 1024)
    rw [ht] at hnext
    simpa only [hrest] using ih hnext

theorem translationFrame_places {u s : State} (h : TranslationFrame u s) (core ctx addr size : Nat) (acc : Acc_) :
    TranslationFrame u (places s core ctx addr size acc).1 := by
  have hva := translationFrame_placesVa core ctx addr acc (granules (addr % 2 ^ 48) size) h
  unfold places
  split
  · exact hva
  · split
    · exact hva
    · split
      · exact translationFrame_egCore h ..
      · exact h
  · grind [translationFrame_egCore]
  · split
    · exact translationFrame_egCore h ..
    · exact h
  · exact h

/-- A place found leaves the frame of the state in which it was looked for. -/
theorem translationFrame_of_places {s t : State} {core ctx addr size : Nat} {acc : Acc_} {p : Places}
    (h : places s core ctx addr size acc = (t, .ok p)) : TranslationFrame s t := by
  have hframe := translationFrame_places (TranslationFrame.refl s) core ctx addr size acc
  rwa [h] at hframe

/-! ### STREAM_FETCH (R197) -/

section
variable {s t : State} {core i : Nat} {r : Reg} {st : Stream}

theorem fetchElement_of_misaligned (h : streamAddr st st.next % st.size ≠ 0) : fetchElement s core i r st =
    .next (pushElem s core i r (.fault 0x101 (BitVec.ofNat 64 (streamAddr st st.next)))) := if_pos h

section
variable (hmis : streamAddr st st.next % st.size = 0)
include hmis

theorem fetchElement_of_cause {c : Nat} (h : capCheck s core st.base (streamAddr st st.next) st.size permR = some c) :
    fetchElement s core i r st = .next (pushElem s core i r (.fault c (BitVec.ofNat 64 (streamAddr st st.next)))) := by
  simp [fetchElement, hmis, h]

/-- An element whose checks pass is the view of a cistern cell, or an ordinary load. -/
theorem fetchElement_of_places {p : Places} (hcheck : capCheck s core st.base (streamAddr st st.next) st.size permR = none)
    (hplaces : places s core (s.core core).ctx (streamAddr st st.next) st.size .read = (t, .ok p))
    (hstall : siphStall t core (streamAddr st st.next) st.size = .go) : fetchElement s core i r st =
      match cellOf p with
      | some (pa, typ) => elementCell t core i r st (streamAddr st st.next) pa typ
      | none => elementLoad t core i r st (streamAddr st st.next) p := by
  have hgo : ¬streamAddr st st.next % st.size ≠ 0 := not_not.2 hmis
  rw [fetchElement]
  simp only [if_neg hgo, hcheck, hplaces, hstall]
  split
  next hent hlocs =>
    simp only [cellOf, hent, hlocs]
    split <;> rfl
  next hother =>
    simp [cellOf]

end

theorem elementCell_of_view {z : State} {a pa typ v : Nat} (hsize : st.size = cellSize typ) (hdram : hasDram pa = true)
    (hfree : loadHeld t ((List.range st.size).map fun j => .mem (pa + j)) = false)
    (hview : viewCell t core i pa typ st.size {} = (z, v, false)) : elementCell t core i r st a pa typ =
      .next (pushElem z core i r (.value (extValue st.size st.sign v).data)) := by
  have hfit : ¬st.size ≠ cellSize typ := not_not.2 hsize
  rw [elementCell]
  simp only [if_neg hfit, hfree, Bool.false_eq_true, if_false, badLoc_mem hdram, hview]

theorem execStreamFetch_of_room {reg : Nat} (hst : streamAt s core i reg = some st) (hread : st.write = false)
    (hleft : st.next < st.total) (hroom : st.ready.length < 16) : exec (.streamFetch core i reg) s =
      fetchElement { s with cur := (core, i) } core i (BitVec.ofNat 6 reg) st := by
  refine (show exec (.streamFetch core i reg) s = execStreamFetch core i reg s from rfl).trans ?_
  have hgo : (st.write || decide (st.total ≤ st.next) || decide (16 ≤ st.ready.length)) = false := by simp [hread, hleft, hroom]
  simp only [execStreamFetch, hst, hgo, Bool.false_eq_true, if_false]

end

/-- The value of a cell of 4 or 8 bytes as an element (R197, R208). -/
theorem data_extValue {size : Nat} (h : size = 4 ∨ size = 8) (sign : Bool) (v : Nat) : (extValue size sign v).data =
    if sign then (if size = 4 then (BitVec.ofNat 32 v).signExtend 64 else BitVec.ofNat 64 v) else BitVec.ofNat 64 (v % 2 ^ (8 * size)) := by
  have hdata : ∀ x, (dataCap x).data = x := fun x => by simp [dataCap, TCap.data]
  cases sign with
  | false => exact hdata _
  | true =>
    obtain rfl | rfl := h
    · exact (congrArg TCap.data (extValue_eq true v)).trans (hdata _)
    · exact (congrArg TCap.data (extValue_eq false v)).trans (hdata _)

/-- An element takes its place behind those that wait. -/
theorem stream_pushElem {t : State} {core i : Nat} {r : Reg} {e : StreamElem} {q : Stream} (h : (t.carrel core i).stream r = some q) :
    ((pushElem t core i r e).carrel core i).stream r = some { q with ready := q.ready ++ [e], next := q.next + 1 } := by
  rw [pushElem, carrel_modCarrel_same, h, Carrel.stream, fget_fset, if_pos rfl]

/-! ### STREAM_CONVERT (R197, R353) -/

/-- The entry of an ST of the stream's size, with the bytes of the element. -/
def elementEntry (s : State) (st : Stream) (a : Nat) (v : Word) (p : Places) : Entry :=
  let width : StWidth := match st.size with | 1 => .b | 2 => .h | 4 => .w | _ => .d
  { mkEntry s (.st 0 0 width 0) .marker (BitVec.ofNat 64 a) with
    eff := .store (p.locs.zip (natBytes st.size v.toNat)) false, window := p.window, through := true }

/-- An element that goes neither to a cistern cell nor to another module is a store. -/
theorem convertElement_plain {s t : State} {core i n : Nat} {st : Stream} {v : Word} {p : Places}
    (hplaces : places s core (s.core core).ctx (streamAddr st n) st.size .write = (t, .ok p)) (hcell : cellOf p = none)
    (hbad : badLoc p.locs = none) (hpeer : ∀ ga ls, p.locs ≠ .peer ga :: ls) :
    convertElement s core i st n v = some (putEntry t core i (elementEntry s st (streamAddr st n) v p)) := by
  rw [convertElement]
  simp only [hplaces, hbad, Option.isSome_none, Bool.false_eq_true, if_false]
  split
  next e pa _ hent hlocs =>
    have hkind : e.kind ≠ 1 := by
      intro hk
      simp [cellOf, hent, hlocs, hk] at hcell
    rw [if_neg hkind]
    rfl
  next ga ls hlocs => exact absurd hlocs (hpeer ga ls)
  next => rfl

theorem carrel_putEntry (s : State) (c i : Nat) (e : Entry) : (putEntry s c i e).carrel c i =
    { s.carrel c i with outbox := (s.carrel c i).outbox ++ [{ e with id := (s.core c).nextId }] } := by
  simp only [putEntry, State.carrel, core_setCore, if_true, carrel_setCarrel]
  rfl

/-- The streams of a carrel from which an element has been taken: an Ending one without elements left loses them all. -/
theorem streams_ended (c : Carrel) : c.ended.streams =
    if c.st = .ending ∧ ∀ p ∈ c.streams, p.2.write = true → p.2.buffer = [] then [] else c.streams := by
  have hcond : (c.st == .ending && c.streams.all fun (_, st) => !st.write || st.buffer.isEmpty) = true ↔
      c.st = .ending ∧ ∀ p ∈ c.streams, p.2.write = true → p.2.buffer = [] := by
    simp only [Bool.and_eq_true, beq_iff_eq, List.all_eq_true, Bool.or_eq_true, Bool.not_eq_true', List.isEmpty_iff]
    refine and_congr_right fun _ => forall₂_congr fun p _ => ?_
    cases p.2.write <;> simp
  rw [Carrel.ended]
  by_cases h : c.st = .ending ∧ ∀ p ∈ c.streams, p.2.write = true → p.2.buffer = []
  · rw [if_pos (hcond.2 h), if_pos h]
  · rw [if_neg fun hc => h (hcond.1 hc), if_neg h]

theorem outbox_ended (c : Carrel) : c.ended.outbox = c.outbox := by
  rw [Carrel.ended]
  split <;> rfl

/-- The carrel without the element at the head of a write stream. -/
def withoutHead (c : Carrel) (r : Reg) (st : Stream) (rest : List (Nat × Word)) : Carrel :=
  { c with streams := fset c.streams r.toNat { st with buffer := rest } }

theorem execStreamConvert_of_room {s u : State} {core i reg n : Nat} {st : Stream} {v : Word} {rest : List (Nat × Word)}
    (hst : streamAt s core i reg = some st) (hbuf : st.buffer = (n, v) :: rest) (hroom : (s.carrel core i).outbox.length < 64)
    (hconvert : convertElement { s with cur := (core, i) } core i st n v = some u) : exec (.streamConvert core i reg) s =
      .next (u.modCarrel core i fun c => (withoutHead c (BitVec.ofNat 6 reg) st rest).ended) := by
  refine (show exec (.streamConvert core i reg) s = execStreamConvert core i reg s from rfl).trans ?_
  have hfits : (s.carrel core i).outbox.length < outboxMax := hroom
  have hcommit : convertCommit { s with cur := (core, i) } core i = some { s with cur := (core, i) } := if_pos hfits
  have hnot : ¬outboxMax ≤ (s.carrel core i).outbox.length := Nat.not_le.2 hfits
  have hecc : (decide (outboxMax ≤ (s.carrel core i).outbox.length) && canDrain s core i && (s.carrel core i).outbox.any (·.ecc)) = false := by
    simp [hnot]
  have hcarrel : State.carrel { s with cur := (core, i) } core i = s.carrel core i := rfl
  simp only [execStreamConvert, hst, hbuf, hecc, Bool.false_eq_true, if_false, hcommit, hcarrel, if_neg hnot, hconvert]
  rfl

/-- Settles O49: the fetch checks its element in the order of R197, and the conversion takes the head of the buffer into the outbox. -/
theorem streamEvents : Obligations.StreamEvents := by
  unfold Obligations.StreamEvents
  intro s core i reg st hst r a x u gets
  refine ⟨fun hread hleft hroom => ?fetch, fun t e => ⟨rfl, fun q hq => stream_pushElem hq⟩,
    fun n v rest hwrite hbuf hroom t p hplaces hcell hbad hpeer houtbox => ?convert⟩
  case fetch =>
    have ha : a = streamAddr st st.next := by simp only [a, hread, Bool.false_eq_true, if_false]
    have hexec := execStreamFetch_of_room hst hread hleft hroom
    simp only [gets, x, ha]
    refine ⟨fun hmis => hexec.trans (fetchElement_of_misaligned hmis),
      fun hmis c hcause => hexec.trans (fetchElement_of_cause hmis hcause), fun hmis hcheck t p hplaces hstall => ?_⟩
    have hfetch := hexec.trans (fetchElement_of_places hmis hcheck hplaces hstall)
    refine ⟨fun hcell w hissue => ?_, fun pa typ hcell hsize hwide hdram hfree z w hview => ?_⟩
    · rw [hfetch, hcell]
      simp only [elementLoad]
      rw [hissue]
    · rw [hfetch, hcell]
      simp only [elementCell_of_view hsize hdram hfree hview, data_extValue hwide]
      rfl
  case convert =>
    have ha : a = streamAddr st n := by simp only [a, hwrite, hbuf, if_true, List.head?_cons, Option.map_some, Option.getD_some]
    rw [ha] at hplaces
    have hkept : t.carrel core i = s.carrel core i := (translationFrame_of_places hplaces).carrels core i
    have hexec := execStreamConvert_of_room hst hbuf hroom (convertElement_plain (v := v) hplaces hcell hbad hpeer)
    refine ⟨_, { elementEntry u st (streamAddr st n) v p with id := (t.core core).nextId }, hexec, ?_, rfl, ?_, rfl⟩
    · rw [carrel_modCarrel_same, outbox_ended, withoutHead, carrel_putEntry, hkept]
    · rw [carrel_modCarrel_same, streams_ended, withoutHead, carrel_putEntry, hkept]

end Sys2Proof.Proofs

namespace Sys2Proof.Proofs

open Sys2Proof Sys2Proof.Machine

/-! ### Engines, ranges and contexts through the caches: a write at the home (R157) or through them (R167) leaves them as they are -/

/-- The engines, ranges and contexts of `s` are those of `u`. -/
structure UnitsKept (u s : State) : Prop where
  engines : ∀ k, s.engine k = u.engine k
  ranges : s.ranges = u.ranges
  ctxs : s.ctxs = u.ctxs

theorem UnitsKept.refl (u : State) : UnitsKept u u := ⟨fun _ => rfl, rfl, rfl⟩

theorem TranslationFrame.unitsKept {u s : State} (h : TranslationFrame u s) : UnitsKept u s := ⟨h.engines, h.ranges, h.ctxs⟩

section
variable {u s : State}

/-- A change elsewhere. -/
theorem UnitsKept.of_parts_eq {t : State} (h : UnitsKept u s) (hclusters : t.clusters = s.clusters) (hranges : t.ranges = s.ranges)
    (hctxs : t.ctxs = s.ctxs) : UnitsKept u t :=
  ⟨fun k => by rw [← h.engines k, State.engine, State.cluster, hclusters]; rfl, hranges.trans h.ranges, hctxs.trans h.ctxs⟩

theorem unitsKept_foldl {α : Type} {f : State → α → State} (hf : ∀ s a, UnitsKept u s → UnitsKept u (f s a)) (l : List α)
    (h : UnitsKept u s) : UnitsKept u (l.foldl f s) := foldl_keeps hf l h

theorem unitsKept_modCluster (h : UnitsKept u s) (k : Nat) {f : Cluster → Cluster} (hf : ∀ x, (f x).engine = x.engine) :
    UnitsKept u (s.modCluster k f) := by
  refine ⟨fun j => ?_, h.ranges, h.ctxs⟩
  rw [← h.engines j, State.engine, cluster_modCluster]
  split
  · next e => rw [hf, e]; rfl
  · rfl

theorem unitsKept_modCache (h : UnitsKept u s) (r : CacheRef) (f : Cache → Cache) : UnitsKept u (s.modCache r f) := by
  cases r with
  | l1 c => exact h.of_parts_eq rfl rfl rfl
  | l2 k => exact unitsKept_modCluster h k (f := fun x => { x with l2 := f x.l2 }) fun _ => rfl

theorem unitsKept_refreshMask (h : UnitsKept u s) (k key : Nat) : UnitsKept u (refreshMask s k key) := by
  unfold refreshMask
  exact unitsKept_modCache h ..

section
variable {ev : State → Folio → State} (hev : ∀ s f, UnitsKept u s → UnitsKept u (ev s f))
include hev

theorem unitsKept_makeRun (r : CacheRef) (n : Nat) (keep : List Folio) (fuel : Nat) {s : State} (h : UnitsKept u s)
    {p : State × Nat} (hp : makeRun ev r n keep fuel s = some p) : UnitsKept u p.1 := by
  fun_induction makeRun <;> grind [Option.map_eq_some_iff]

theorem unitsKept_mergeStep (h : UnitsKept u s) (r : CacheRef) (key : Nat) {t : State} (ht : mergeStep ev s r key = some t) :
    UnitsKept u t := by
  obtain ⟨⟨f, g⟩, -, hpair⟩ := List.exists_of_findSome?_eq_some ht
  obtain ⟨v, hv, rfl⟩ := Option.map_eq_some_iff.mp hpair
  have hjoined : UnitsKept u v := by
    split at hv
    · cases hv
      exact unitsKept_modCache h _ _
    · obtain ⟨⟨w, b⟩, hrun, rfl⟩ := Option.map_eq_some_iff.mp hv
      exact unitsKept_modCache (unitsKept_makeRun hev r _ _ _ h hrun) _ _
  cases r with
  | l1 _ => exact hjoined
  | l2 k => exact unitsKept_refreshMask hjoined k _

theorem unitsKept_cutFolios {lost : State → Folio → List Folio → State}
    (hlost : ∀ s f fs, UnitsKept u s → UnitsKept u (lost s f fs))
    (r : CacheRef) (key lo hi : Nat) (win : Bool) (fuel : Nat) {s : State} (h : UnitsKept u s) :
    UnitsKept u (cutFolios ev lost r key lo hi win fuel s) := by
  fun_induction cutFolios <;> grind [unitsKept_mergeStep, unitsKept_modCache]

end

theorem unitsKept_evictL1 (h : UnitsKept u s) (c : Nat) (f : Folio) : UnitsKept u (evictL1 s c f) :=
  unitsKept_refreshMask (unitsKept_modCache h _ _) ..

theorem unitsKept_removeL1 (h : UnitsKept u s) (c key lo hi : Nat) (win : Bool) : UnitsKept u (removeL1 s c key lo hi win) := by
  unfold removeL1
  grind [unitsKept_cutFolios, unitsKept_evictL1, unitsKept_modCache, unitsKept_refreshMask]

theorem unitsKept_removeFromL1s (h : UnitsKept u s) (k key lo hi : Nat) (win : Bool) : UnitsKept u (removeFromL1s s k key lo hi win) :=
  unitsKept_foldl (fun _ c hs => unitsKept_removeL1 hs c ..) _ h

theorem unitsKept_taintWriters (h : UnitsKept u s) (f : Folio) (ws : List Nat) : UnitsKept u (taintWriters s f ws) := by
  unfold taintWriters
  split
  · exact h
  · exact h.of_parts_eq rfl rfl rfl

theorem unitsKept_writeMem (h : UnitsKept u s) (a : Nat) (bs : List TByte) : UnitsKept u (s.writeMem a bs) := by
  induction bs generalizing a s with
  | nil => exact h
  | cons b bs ih => exact ih (s := s.setMemByte a b) (h.of_parts_eq rfl rfl rfl) (a + 1)

theorem unitsKept_storeMem (h : UnitsKept u s) (a : Nat) (bs : List TByte) : UnitsKept u (s.storeMem a bs) :=
  (unitsKept_writeMem h a bs).of_parts_eq rfl rfl rfl

theorem unitsKept_writeBack (h : UnitsKept u s) (k : Nat) (f : Folio) (lo hi : Nat) : UnitsKept u (writeBack s k f lo hi) :=
  (unitsKept_storeMem (unitsKept_taintWriters h f _) ..).of_parts_eq rfl rfl rfl

theorem unitsKept_sendEvn (h : UnitsKept u s) (k : Nat) (f : Folio) : UnitsKept u (sendEvn s k f) := by
  have hsend : ∀ t m, UnitsKept u t → UnitsKept u (sendToHome t m) := fun t m ht =>
    (unitsKept_modCluster ht m.cluster (f := fun k => { k with sendSeq := fset k.sendSeq m.die ((fgetD k.sendSeq m.die 0 + 1) % 65536) })
      fun _ => rfl).of_parts_eq rfl rfl rfl
  unfold sendEvn
  split
  · split
    · exact unitsKept_writeBack h ..
    · exact h
  · split
    · exact hsend _ _ h
    · refine unitsKept_foldl (fun t p ht => ?_) _ (unitsKept_taintWriters h ..)
      exact hsend _ _ (unitsKept_modCluster ht k fun _ => by rfl)

theorem unitsKept_leaveMasks (h : UnitsKept u s) (k key : Nat) : UnitsKept u (leaveMasks s k key) := h.of_parts_eq rfl rfl rfl

theorem unitsKept_dropL2 (h : UnitsKept u s) (k : Nat) (f : Folio) : UnitsKept u (dropL2 s k f) :=
  unitsKept_leaveMasks (unitsKept_removeFromL1s (unitsKept_modCache h _ _) ..) ..

theorem unitsKept_evictL2 (h : UnitsKept u s) (k : Nat) (f : Folio) : UnitsKept u (evictL2 s k f) :=
  unitsKept_dropL2 (unitsKept_sendEvn h k f) k f

theorem unitsKept_loseL2 (h : UnitsKept u s) (k : Nat) (f : Folio) (parts : List Folio) : UnitsKept u (loseL2 s k f parts) :=
  unitsKept_dropL2 (unitsKept_foldl (fun _ p hs => unitsKept_sendEvn hs k p) _ h) k f

theorem unitsKept_removeL2 (h : UnitsKept u s) (k key lo hi : Nat) (win tell : Bool) :
    UnitsKept u (removeL2 s k key lo hi win tell).1 := by
  unfold removeL2
  grind [unitsKept_cutFolios, unitsKept_evictL2, unitsKept_leaveMasks, unitsKept_loseL2, unitsKept_modCache, unitsKept_removeFromL1s]

theorem unitsKept_updateL1s (h : UnitsKept u s) (k key : Nat) (bytes : List (Nat × TByte)) (lo hi : Nat) :
    UnitsKept u (updateL1s s k key bytes lo hi) :=
  unitsKept_foldl (fun _ _ ht => by split <;> [exact unitsKept_modCache ht _ _; exact ht]) _ h

/-! ### A write at the home and a write through the caches -/

theorem unitsKept_purge (h : UnitsKept u s) (pa len : Nat) : UnitsKept u (purge s pa len) :=
  unitsKept_foldl (fun _ _ hs => unitsKept_foldl (fun _ _ ht => unitsKept_removeL2 ht ..) _ hs) _ h

theorem unitsKept_modFlying (h : UnitsKept u s) (g : CatMsg → CatMsg) : UnitsKept u (s.modFlying g) := by
  refine ⟨fun k => ?_, h.ranges, h.ctxs⟩
  rw [← h.engines k]
  refine fgetD_map_of (g := Cluster.engine) (fun p => ⟨?_, ?_⟩) s.clusters k {} <;> rfl

theorem unitsKept_overtake (h : UnitsKept u s) (pa len : Nat) : UnitsKept u (overtake s pa len) := by
  unfold overtake
  split
  · exact h
  · exact unitsKept_modFlying h _

theorem unitsKept_noteAccess (h : UnitsKept u s) (pa len : Nat) (own : Bool) : UnitsKept u (noteAccess s pa len own) := by
  have hfound : UnitsKept u (discover s pa len) := by
    unfold discover
    dsimp only
    split
    · exact h
    · exact h.of_parts_eq rfl rfl rfl
  exact hfound.of_parts_eq rfl rfl rfl

theorem unitsKept_coherentWrite (h : UnitsKept u s) (pa : Nat) (bs : List TByte) : UnitsKept u (coherentWrite s pa bs) :=
  unitsKept_noteAccess (unitsKept_storeMem (unitsKept_overtake (unitsKept_purge h ..) ..) ..) ..

theorem unitsKept_writeThrough (h : UnitsKept u s) (k pa : Nat) (bs : List TByte) : UnitsKept u (writeThrough s k pa bs) :=
  unitsKept_storeMem (unitsKept_updateL1s (unitsKept_modCluster h k fun _ => by rfl) ..) ..

end

end Sys2Proof.Proofs

namespace Sys2Proof.Proofs

open Sys2Proof Sys2Proof.Machine

/-! ### An engine after a change to one (R254) -/

section
variable (s : State) (k j : Nat) (f : Engine → Engine)

theorem engine_modEngine : (s.modEngine k f).engine j = if k = j then f (s.engine k) else s.engine j := by
  rw [State.engine, State.modEngine, cluster_modCluster]
  split
  · rfl
  · rfl

@[simp] theorem engine_modEngine_same : (s.modEngine k f).engine k = f (s.engine k) := by rw [engine_modEngine, if_pos rfl]

theorem engine_modEngine_of_ne {j : Nat} (h : k ≠ j) : (s.modEngine k f).engine j = s.engine j := by
  rw [engine_modEngine, if_neg h]

@[simp] theorem engine_setAcc_same (a : Nat) (x : Acc) :
    (s.setAcc k a x).engine k = { s.engine k with accs := fset (s.engine k).accs a x } := engine_modEngine_same ..

@[simp] theorem engine_idleEngine_same : (idleEngine s k).engine k = { s.engine k with running := none } := engine_modEngine_same ..

end

/-- An accumulator after one of them has been replaced. -/
theorem acc_fset (e : Engine) (a b : Nat) (x : Acc) :
    ({ e with accs := fset e.accs a x } : Engine).acc b = if a = b then x else e.acc b := fgetD_fset ..

/-! ### The start of a command (R271) -/

/-- A MACST without a barrier counts nothing. -/
theorem macstCount_of_no_bar {m : MacstCmd} (h : macstBar m = none) (s : State) (c : EngCmd) (sub auto : Bool) (n : Nat) :
    macstCount s c m sub auto n = s := by
  rw [macstCount, h]

section
variable {s : State} {k : Nat} {c : EngCmd} {rest : List EngCmd} (hqueue : (s.engine k).queue = c :: rest)
  (hidle : (s.engine k).running = none) (halone : (s.engine k).migrant = none) (hready : headReady s k c = true)
include hqueue hidle halone hready

theorem engineCommandStart_of_cause {p : Nat × Nat} (h : startCheck (s.engine k) c = some p) : exec (.engineCommandStart k) s =
    .next (engineNotice (s.modEngine k fun e => { e with queue := rest }) c p.1 p.2) := by
  refine (show exec (.engineCommandStart k) s = execEngineCommandStart k s from rfl).trans ?_
  simp [execEngineCommandStart, hqueue, hidle, halone, hready, h]

theorem engineCommandStart_of_go (h : startCheck (s.engine k) c = none) (hbar : ∀ m, c.op = .macst m → macstBar m = none) :
    exec (.engineCommandStart k) s = .next (s.modEngine k fun e => { e with queue := rest, running := some c }) := by
  refine (show exec (.engineCommandStart k) s = execEngineCommandStart k s from rfl).trans ?_
  cases hop : c.op with
  | macst m => simp [execEngineCommandStart, hqueue, hidle, halone, hready, h, hop, macstCount_of_no_bar (hbar m hop)]
  | mma m => simp [execEngineCommandStart, hqueue, hidle, halone, hready, h, hop]
  | macz a kind => simp [execEngineCommandStart, hqueue, hidle, halone, hready, h, hop]

end

/-! ### The end of an MMA (R263, R267, R269) -/

theorem engineCommandComplete_of_running {s : State} {k : Nat} {c : EngCmd} (h : (s.engine k).running = some c) :
    exec (.engineCommandComplete k) s = .next (finishCmd s k c) := by
  refine (show exec (.engineCommandComplete k) s = execEngineCommandComplete k s from rfl).trans ?_
  rw [execEngineCommandComplete, h]

/-- What a list numbered from `n` on holds at a number. -/
theorem fget_map_zipIdx {α β : Type} (f : α → β) (l : List α) (n i : Nat) :
    fget ((l.zipIdx n).map fun p => (p.2, f p.1)) (n + i) = l[i]?.map f := by
  induction l generalizing n i with
  | nil => simp [fget]
  | cons x l ih =>
    rw [List.zipIdx_cons, List.map_cons, fget]
    cases i with
    | zero => simp
    | succ i =>
      rw [if_neg (by omega), show n + (i + 1) = n + 1 + i by omega, ih]
      simp

/-- An element of the accumulator after an MMA. -/
theorem elems_mmaResult (m : MmaCmd) (ta tb : Tile) {acc : Acc} {i j : Nat} (hi : i < accSide acc.kind) (hj : j < accSide acc.kind) :
    fgetD (mmaResult m ta tb acc).elems (i * accSide acc.kind + j) 0 =
      BitVec.ofNat 64 (mmaElem m ta tb (fgetD acc.elems (i * accSide acc.kind + j) 0).toNat i j).bits := by
  generalize hn : accSide acc.kind = n at hi hj ⊢
  have hlt : i * n + j < n * n := by nlinarith
  have hdiv : (i * n + j) / n = i := by rw [Nat.add_comm, Nat.add_mul_div_right _ _ (by omega), Nat.div_eq_of_lt hj, Nat.zero_add]
  have hmod : (i * n + j) % n = j := by rw [Nat.add_comm, Nat.add_mul_mod_self_right, Nat.mod_eq_of_lt hj]
  have hget := fget_map_zipIdx (fun v : AccVal => BitVec.ofNat 64 v.bits)
    ((List.range (n * n)).map fun e => mmaElem m ta tb (fgetD acc.elems e 0).toNat (e / n) (e % n)) 0 (i * n + j)
  rw [Nat.zero_add] at hget
  rw [fgetD, mmaResult, hn]
  refine (congrArg (·.getD 0) hget).trans ?_
  simp [hlt, hdiv, hmod]

theorem signedOf_clamp {c : Int} (hlow : -(2 ^ 31) ≤ c) (hhigh : c ≤ 2 ^ 31 - 1) :
    signedOf 32 (BitVec.ofNat 64 (c % (2 ^ 32 : Nat)).toNat).toNat = c := by
  rw [BitVec.toNat_ofNat, signedOf]
  split <;> omega

/-- INT8: the exact sum, clamped (R267). -/
theorem signedOf_accInt8 (ps : List (Int × Int)) (old : Nat) : signedOf 32 (BitVec.ofNat 64 (accInt8 ps old).bits).toNat =
    min (2 ^ 31 - 1) (max (-(2 ^ 31)) (signedOf 32 old + (ps.map fun (x, y) => x * y).sum)) :=
  signedOf_clamp (by omega) (by omega)

/-- What an MMA at its end leaves. -/
theorem engineCommandComplete_mma {s : State} {k : Nat} {c : EngCmd} {m : MmaCmd} (hop : c.op = .mma m)
    (hrun : (s.engine k).running = some c) : ∃ t, exec (.engineCommandComplete k) s = .next t ∧ t.mem = s.mem ∧
      (let acc := mmaResult m ((s.engine k).tile m.a) ((s.engine k).tile m.b) ((s.engine k).acc m.acc)
       t.engine k = { s.engine k with running := none, accs := fset (s.engine k).accs m.acc acc }) := by
  refine ⟨_, engineCommandComplete_of_running hrun, ?_, ?_⟩
  · simp only [finishCmd, hop]
    rfl
  · simp only [finishCmd, hop, engine_setAcc_same, engine_idleEngine_same]

/-- An element of an INT8 accumulator after an MMA. -/
theorem int8_mmaResult {m : MmaCmd} (ta tb : Tile) {acc : Acc} (hkind : acc.kind = .i32) (hfmt : tdFmt m.tda.toNat = 2) {i j : Nat}
    (hi : i < 128) (hj : j < 128) : signedOf 32 (fgetD (mmaResult m ta tb acc).elems (i * 128 + j) 0).toNat =
      min (2 ^ 31 - 1) (max (-(2 ^ 31)) (signedOf 32 (fgetD acc.elems (i * 128 + j) 0).toNat +
        ((List.range (tdCols m.tda.toNat)).map fun q => signedOf 8 (ta.elem (tdCols m.tda.toNat) 1 i q) *
          signedOf 8 (tb.elem (tdCols m.tdb.toNat) 1 q j)).sum)) := by
  have hside : accSide acc.kind = 128 := by rw [hkind]; rfl
  have helem := elems_mmaResult m ta tb (hside ▸ hi) (hside ▸ hj)
  rw [hside] at helem
  rw [helem, mmaElem]
  simp only [hfmt, signedOf_accInt8, List.map_map]
  rfl

/-! ### MACST (R264, R265) -/

/-- A MACST that has written everything ends. -/
theorem engineCommandComplete_macst {s : State} {k : Nat} {c : EngCmd} {m : MacstCmd} (hop : c.op = .macst m)
    (hrun : (s.engine k).running = some c) (hall : macstElems m ≤ m.next) (hquiet : bitAt m.ctl.toNat 34 = false) :
    exec (.engineCommandComplete k) s = .next (idleEngine s k) := by
  rw [engineCommandComplete_of_running hrun]
  simp only [finishCmd, hop, if_neg (Nat.not_lt.2 hall), hquiet, Bool.false_eq_true, if_false]

theorem macstWrite_of_running {s : State} {k : Nat} {c : EngCmd} {m : MacstCmd} (hop : c.op = .macst m)
    (hrun : (s.engine k).running = some c) (hleft : m.next < macstElems m) :
    exec (.macstWrite k) s = .next (macstStep s k c m) := by
  refine (show exec (.macstWrite k) s = execMacstWrite k s from rfl).trans ?_
  simp only [execMacstWrite, hrun, hop, if_pos hleft]

/-- The value of the next element, and whether it saturates. -/
def macstValue (s : State) (k : Nat) (m : MacstCmd) : Nat × Bool :=
  macstConvert m.kind (bitsAt m.ctl.toNat 32 2) (fgetD ((s.engine k).acc m.acc).elems m.next 0).toNat

/-- The state in which its place is found: a saturating conversion has set NSAT. -/
def macstNoted (s : State) (k : Nat) (m : MacstCmd) : State :=
  if (macstValue s k m).2 then s.setAcc k m.acc { (s.engine k).acc m.acc with nsat := true } else s

section
variable {s t : State} {k : Nat} {c : EngCmd} {m : MacstCmd} {p : Places}

theorem macstStep_of_error {e : Nat × Nat}
    (h : macstPlaces (macstNoted s k m) c (macstAddr m m.next) (macstSize m) = (t, .error e)) : macstStep s k c m =
      postNotice (idleEngine t k) c.core e.1 0 (BitVec.ofNat 64 (macstAddr m m.next)) c.pc := by
  rw [macstNoted, macstValue] at h
  simp only [macstStep, h]

/-- The state once an element has been written. -/
def macstWritten (s t : State) (k : Nat) (c : EngCmd) (m : MacstCmd) (p : Places) (pa : Nat) : State :=
  (macstPut t c pa (tbytes (macstSize m) (macstValue s k m).1 false) (p.window.contains (pa / 4096)) ((s.engine k).acc m.acc).poison).modEngine
    k fun e => { e with running := some { c with op := .macst { m with next := m.next + 1 } } }

variable (h : macstPlaces (macstNoted s k m) c (macstAddr m m.next) (macstSize m) = (t, .ok p)) {pa : Nat} {ls : List Loc}
  (hlocs : p.locs = .mem pa :: ls) (hbad : badLoc p.locs = none)
include h hlocs hbad

theorem macstStep_of_held (hheld : homeHolds t p = true) : macstStep s k c m = s := by
  rw [macstNoted, macstValue] at h
  rw [hlocs] at hbad
  simp only [macstStep, h, hlocs, hbad, Option.isSome_none, Bool.false_eq_true, if_false, hheld, if_true]

theorem macstStep_of_free (hfree : homeHolds t p = false) (hbar : macstBar m = none) : macstStep s k c m = macstWritten s t k c m p pa := by
  rw [macstNoted, macstValue] at h
  rw [hlocs] at hbad
  simp only [macstStep, h, hlocs, hbad, Option.isSome_none, Bool.false_eq_true, if_false, hfree, macstCount_of_no_bar hbar]
  rfl

end

theorem unitsKept_taint {u s : State} (h : UnitsKept u s) (c : Nat) : UnitsKept u (s.taint c) := by
  rw [State.taint]
  cases (s.core c).launchId with
  | none => exact h
  | some id => exact h.of_parts_eq rfl rfl rfl

theorem unitsKept_macstPut {u s : State} (h : UnitsKept u s) (c : EngCmd) (pa : Nat) (bs : List TByte) (window bad : Bool) :
    UnitsKept u (macstPut s c pa bs window bad) := by
  have hput : UnitsKept u (if window then writeThrough s (clusterOf c.core) pa bs else coherentWrite s pa bs) := by
    split
    · exact unitsKept_writeThrough h ..
    · exact unitsKept_coherentWrite h ..
  unfold macstPut
  dsimp only
  split
  · refine unitsKept_taint ?_ c.core
    exact hput.of_parts_eq rfl rfl rfl
  · exact hput

theorem unitsKept_macstPlaces {s t : State} {c : EngCmd} {a z : Nat} {p : Places} (h : macstPlaces s c a z = (t, .ok p)) : UnitsKept s t := by
  rw [macstPlaces] at h
  split at h
  · cases h
  · exact (translationFrame_of_places h).unitsKept

theorem nsat_macstNoted (s : State) (k : Nat) (m : MacstCmd) : (((macstNoted s k m).engine k).acc m.acc).nsat =
    (((s.engine k).acc m.acc).nsat || (macstValue s k m).2) := by
  rw [macstNoted]
  cases (macstValue s k m).2 with
  | false => simp
  | true => rw [if_pos rfl, engine_setAcc_same, acc_fset, if_pos rfl, Bool.or_true]

/-- The engine once an element has been written. -/
theorem engine_macstWritten {s t : State} {k : Nat} {c : EngCmd} {m : MacstCmd} {p : Places}
    (h : macstPlaces (macstNoted s k m) c (macstAddr m m.next) (macstSize m) = (t, .ok p)) (pa : Nat) :
    (macstWritten s t k c m p pa).engine k =
      { (macstNoted s k m).engine k with running := some { c with op := .macst { m with next := m.next + 1 } } } := by
  rw [macstWritten, engine_modEngine_same, (unitsKept_macstPut (unitsKept_macstPlaces h) ..).engines]

/-! ### Migration (R274) -/

theorem neighbourEngine_ne (k : Nat) : k ≠ neighbourEngine k := by
  rw [neighbourEngine]
  omega

theorem migration_moves {s : State} {k idx : Nat} {c : EngCmd} {m : MmaCmd} (hat : (s.engine k).queue[idx]? = some c)
    (hop : c.op = .mma m) (hmay : mayMigrate s k idx m = true) : ∃ t, exec (.migration k idx) s = .next t ∧ t.mem = s.mem ∧
      t.engine k = { s.engine k with queue := dropAt (s.engine k).queue idx, away := (s.engine k).away ++ [c] } ∧
      (let e := s.engine k
       (t.engine (neighbourEngine k)).migrant =
         some { cmd := c, home := k, ta := e.tile m.a, tb := e.tile m.b, acc := e.acc m.acc, started := false }) := by
  have hexec : exec (.migration k idx) s = execMigration k idx s := rfl
  simp only [execMigration, hat, hop, hmay, Bool.not_true, Bool.false_eq_true, if_false] at hexec
  refine ⟨_, hexec, rfl, ?_, ?_⟩
  · rw [engine_modEngine_of_ne _ _ _ (neighbourEngine_ne k).symm, engine_modEngine_same]
  · rw [engine_modEngine_same]

section
variable {s : State} {k : Nat} {g : Migrant} {m : MmaCmd} (hmig : (s.engine k).migrant = some g) (hop : g.cmd.op = .mma m)
include hmig hop

theorem migratedMmaStart_of_go (hnew : g.started = false) (h : mmaStart m g.ta g.tb g.acc = none) : exec (.migratedMmaStart k) s =
    .next (s.modEngine k fun e => { e with migrant := some { g with started := true } }) := by
  have hexec : exec (.migratedMmaStart k) s = execMigratedMmaStart k s := rfl
  simpa only [execMigratedMmaStart, hmig, hop, hnew, Bool.false_eq_true, if_false, h] using hexec

theorem migratedMmaStart_of_cause (hnew : g.started = false) {p : Nat × Nat} (h : mmaStart m g.ta g.tb g.acc = some p) :
    exec (.migratedMmaStart k) s = .next (engineNotice (migrantLeaves s k g) g.cmd p.1 p.2) := by
  have hexec : exec (.migratedMmaStart k) s = execMigratedMmaStart k s := rfl
  simpa only [execMigratedMmaStart, hmig, hop, hnew, Bool.false_eq_true, if_false, h] using hexec

theorem migrationReturn_comes_home (hdone : g.started = true) : ∃ t, exec (.migrationReturn k) s = .next t ∧
    (t.engine k).migrant = none ∧ (t.engine g.home).acc m.acc = mmaResult m g.ta g.tb g.acc ∧
    (t.engine g.home).away = (s.engine g.home).away.erase g.cmd ∧ t.mem = s.mem := by
  have hexec : exec (.migrationReturn k) s = execMigrationReturn k s := rfl
  simp only [execMigrationReturn, hmig, hop, hdone, Bool.not_true, Bool.false_eq_true, if_false] at hexec
  refine ⟨_, hexec, ?_, ?_, ?_, rfl⟩
  · rw [State.setAcc, engine_modEngine, migrantLeaves, engine_modEngine_same, engine_modEngine, engine_modEngine]
    by_cases hself : g.home = k
    · subst hself
      simp
    · simp [hself]
  · rw [engine_setAcc_same, acc_fset, if_pos rfl]
  · rw [engine_setAcc_same, migrantLeaves, engine_modEngine_same, engine_modEngine]
    split
    · next e => rw [← e]
    · rfl

end

end Sys2Proof.Proofs

namespace Sys2Proof.Proofs

open Sys2Proof Sys2Proof.Machine

/-! ### A channel after a change to it (R181) -/

section
variable (s : State) (core ch : Nat)

theorem core_modCore_same (f : Core → Core) : (s.modCore core f).core core = f (s.core core) := by
  rw [State.modCore, core_setCore, if_pos rfl]

@[simp] theorem chan_setChan_same (x : Channel) : (s.setChan core ch x).chan core ch = x := by
  rw [State.chan, State.setChan, core_modCore_same]
  exact fgetD_fset_same ..

@[simp] theorem chan_modChan_same (f : Channel → Channel) : (s.modChan core ch f).chan core ch = f (s.chan core ch) :=
  chan_setChan_same ..

/-- What ends a command changes carrels besides. -/
theorem chan_endChan (x : Channel) : (s.endChan core ch x).chan core ch = x := by
  rw [State.chan, State.endChan, core_modCore_same]
  exact fgetD_fset_same ..

@[simp] theorem engine_modChan (f : Channel → Channel) (k : Nat) : (s.modChan core ch f).engine k = s.engine k := rfl

@[simp] theorem chan_modTile (k t : Nat) (f : Tile → Tile) : (s.modTile k t f).chan core ch = s.chan core ch := rfl

theorem tile_modTile (k t : Nat) (f : Tile → Tile) : ((s.modTile k t f).engine k).tile t = f ((s.engine k).tile t) := by
  rw [State.modTile, engine_modEngine_same]
  exact fgetD_fset_same ..

end

/-! ### The walk of a command (R187 to R189) -/

/-- Without answers to wait for there is nothing to collect. -/
theorem collectWrites_of_none {s : State} {core ch : Nat} (h : (s.chan core ch).inflight = []) (c : SiphCmd) :
    collectWrites s core ch c = s := by
  rw [collectWrites, h]
  rfl

/-- The next step of a channel's command. -/
def nextStep (s : State) (core ch : Nat) : ChanCmd → State
  | .siph d => nextUnit s core ch d
  | .gath g => nextGath s core ch g

section
variable {s : State} {core ch : Nat} {c : ChanCmd} (hcmd : (s.chan core ch).cmd = some c) (hwalks : walks (s.chan core ch) = true)
  (hthawed : chanFrozen s core = false) (hinflight : (s.chan core ch).inflight = [])
  (hturn : (s.chan core ch).hi = true ∨ hipriFirst s core ch = false)
include hcmd hwalks hthawed hinflight hturn

/-- A channel whose turn it is takes its next step. -/
theorem siphElementWrite_walks : exec (.siphElementWrite core ch) s = .next (nextStep s core ch c) := by
  refine (show exec (.siphElementWrite core ch) s = execSiphElementWrite core ch s from rfl).trans ?_
  have hfirst : (!(s.chan core ch).hi && hipriFirst s core ch) = false := by
    obtain hhi | hnone := hturn
    · rw [hhi]; rfl
    · rw [hnone, Bool.and_false]
  cases c with
  | siph d =>
    simp only [execSiphElementWrite, hcmd, hwalks, hthawed, collectWrites_of_none hinflight, hfirst, Bool.not_true, Bool.or_self,
      Bool.false_eq_true, if_false, nextStep]
  | gath g =>
    simp only [execSiphElementWrite, hcmd, hwalks, hthawed, hfirst, Bool.not_true, Bool.or_self, Bool.false_eq_true, if_false, nextStep]

end

/-- Equal bytes from an offset up: those offsets hold the byte, every other what it held. -/
theorem fget_foldl_fset {α β : Type} {f : β → α} {v : α} (l : List β) (hl : ∀ b ∈ l, f b = v) (m : FMap α) (off n a : Nat) :
    fget ((l.zipIdx n).foldl (fun m p => fset m (off + p.2) (f p.1)) m) a =
      if off + n ≤ a ∧ a < off + n + l.length then some v else fget m a := by
  induction l generalizing n m with
  | nil =>
    rw [if_neg (by simp only [List.length_nil]; omega)]
    rfl
  | cons b l ih =>
    rw [List.zipIdx_cons, List.foldl_cons, ih (fun x hx => hl x (List.mem_cons_of_mem _ hx)), fget_fset, hl b List.mem_cons_self,
      List.length_cons]
    by_cases hfirst : off + n = a
    · rw [if_pos hfirst, if_pos (by omega : off + n ≤ a ∧ a < off + n + (l.length + 1))]
      exact ite_self _
    · rw [if_neg hfirst]
      exact if_congr (by omega) rfl rfl

/-- A tile after equal bytes have been written to it. -/
theorem bytes_tileWrite_replicate (t : Tile) (off size a : Nat) (v : Byte) (tag bad : Bool) :
    fget (tileWrite t off (List.replicate size ((v, tag), bad))).bytes a =
      if off ≤ a ∧ a < off + size then some v else fget t.bytes a := by
  have hfold := fget_foldl_fset (f := fun b : TByte × Bool => b.1.1) (v := v) (List.replicate size ((v, tag), bad))
    (fun b hb => by rw [List.eq_of_mem_replicate hb]) t.bytes off 0 a
  rw [List.length_replicate, Nat.add_zero] at hfold
  exact hfold

section
variable {s : State} {core ch : Nat} {d : SiphCmd} {n : Nat} (htile : d.tile = some n) (hbar : ctlBarv d.ctl.toNat = false)
  (hfree : barWaits s core ch = false) (hscales : d.scales ≤ (s.chan core ch).next) (hleft : (s.chan core ch).next < d.units)
  (hpad : d.unitSrc (s.chan core ch).next = none) (hinflight : (s.chan core ch).inflight = [])
include htile hbar hfree hscales hleft hpad hinflight

/-- A padded element of a tile is written with PAD, and with nothing else (R189). -/
theorem nextUnit_pads :
    let i := (s.chan core ch).next
    let t := nextUnit s core ch d
    t.mem = s.mem ∧ (t.chan core ch).next = i + 1 ∧ (t.engine (clusterOf core)).tile n =
      tileWrite ((s.engine (clusterOf core)).tile n) (d.unitDst i)
        (List.replicate (d.unitSize i) ((ctlPad d.ctl.toNat, false), false)) := by
  intro i t
  have hplain : ¬i < d.scales := Nat.not_lt.2 hscales
  have hroom : ¬d.inflightMax ≤ (s.chan core ch).inflight.length := by
    rw [hinflight, SiphCmd.inflightMax]
    split <;> simp
  have hdst : dstHeld s core ch d i = false := by simp [dstHeld, countFree, hbar, htile]
  have hgo : (decide (d.units ≤ i) || barWaits s core ch || decide (d.inflightMax ≤ (s.chan core ch).inflight.length) ||
      dstHeld s core ch d i) = false := by simp [Nat.not_le.2 hleft, hfree, hroom, hdst, i]
  have ht : t = ((s.modChan core ch fun x => { x with next := i + 1 }).modTile (clusterOf core) n fun x =>
      tileWrite x (d.unitDst i) (List.replicate (d.unitSize i) ((ctlPad d.ctl.toNat, false), false))).modChan core ch fun x =>
        { x with wmk := watermark d x, written := d.units ≤ x.next && x.inflight.isEmpty } := by
    simp only [t, nextUnit, i] at hgo ⊢
    simp only [hgo, Bool.false_eq_true, if_false, hpad, writeUnit, htile, unitBytes, unitPerformed, countCmd, hbar, ite_self, if_neg hplain, i]
  rw [ht]
  refine ⟨rfl, ?_, ?_⟩
  · rw [chan_modChan_same, chan_modTile, chan_modChan_same]
  · simp only [engine_modChan, tile_modTile]

end

/-! ### The end of a command (R188, R190, R191) -/

/-- A notice changes nothing but the core's outgoing messages, to which it adds one (R125). -/
theorem postNotice_frame (s : State) (core cause field : Nat) (c2 : Word) (pc : Va) (ch : Nat) :
    let t := postNotice s core cause field c2 pc
    t.chan core ch = s.chan core ch ∧ t.mem = s.mem ∧ (t.core core).out.length = (s.core core).out.length + 1 := by
  intro t
  have hcore : t.core core = { s.core core with out := (t.core core).out } ∧ (t.core core).out.length = (s.core core).out.length + 1 := by
    simp only [t, postNotice, postMsg, core_modCore_same, List.length_append, List.length_singleton, and_self]
  obtain ⟨hcore, hout⟩ := hcore
  exact ⟨by rw [State.chan, hcore]; rfl, rfl, hout⟩

theorem endNode_of_none {c : ChanCmd} (h : nodeOf c = none) (s : State) (status verdict : Nat) : endNode s c status verdict = s := by
  rw [endNode, h]

/-- A command without a follow-on, a notice or a node ends with DONE and WMK alone. -/
theorem tryDone_plain {s : State} {core ch : Nat} {c : ChanCmd} (hfollow : c.follow = none) (hnode : nodeOf c = none)
    (hnote : (s.chan core ch).note = false) :
    tryDone s core ch c = s.endChan core ch { s.chan core ch with cmd := none, wmk := c.span, done := true } := by
  simp only [tryDone, hfollow, doneChan, hnote, Bool.false_eq_true, if_false, endNode_of_none hnode]

section
variable {s : State} {core ch : Nat} {c : ChanCmd} (hcmd : (s.chan core ch).cmd = some c)
include hcmd

theorem siphDone_of_written (hwritten : (s.chan core ch).written = true) (hfine : (s.chan core ch).failed = none)
    (hfree : barWaits s core ch = false) : exec (.siphDone core ch) s = .next (tryDone s core ch c) := by
  refine (show exec (.siphDone core ch) s = execSiphDone core ch s from rfl).trans ?_
  simp only [execSiphDone, hcmd, hwritten, hfine, hfree, Option.isNone_none, Bool.not_false, Bool.and_self, if_true]

/-- The channel of a command that has failed at an address, and the state with it. -/
def faulted (x : Channel) (a : Word) : Channel :=
  { x with cmd := none, flt := true, faultAddr := a, failed := none, reading := none, inflight := [] }
def faultedState (s : State) (core ch : Nat) (a : Word) : State :=
  ({ s with reqs := s.reqs.filter fun q => !(ofChan core ch q.user) } : State).endChan core ch (faulted (s.chan core ch) a)

theorem siphFault_of_failed {a : Word} (hfailed : (s.chan core ch).failed = some a) (hnode : nodeOf c = none) :
    exec (.siphFault core ch) s = .next (siphNotice (faultedState s core ch a) core ch 0x1C4 a) := by
  refine (show exec (.siphFault core ch) s = execSiphFault core ch s from rfl).trans ?_
  simp only [execSiphFault, hcmd, hfailed, endNode_of_none hnode]
  rfl

end

/-- A failed command ends with FLT and its address, and its notice where it is no node's. -/
theorem siphNotice_faultedState (s : State) (core ch : Nat) (a : Word) :
    let t := siphNotice (faultedState s core ch a) core ch 0x1C4 a
    t.chan core ch = faulted (s.chan core ch) a ∧ t.mem = s.mem ∧
      ((s.chan core ch).quiet = false → (t.core core).out.length = (s.core core).out.length + 1) := by
  have hchan : (faultedState s core ch a).chan core ch = faulted (s.chan core ch) a := chan_endChan ..
  have hout : ((faultedState s core ch a).core core).out = (s.core core).out := by
    rw [faultedState, State.endChan, core_modCore_same]
    rfl
  obtain ⟨hpostChan, hpostMem, hpostOut⟩ :=
    postNotice_frame (faultedState s core ch a) core 0x1C4 ch a (faulted (s.chan core ch) a).pc ch
  have hnotice : siphNotice (faultedState s core ch a) core ch 0x1C4 a = if (s.chan core ch).quiet then faultedState s core ch a
      else postNotice (faultedState s core ch a) core 0x1C4 ch a (faulted (s.chan core ch) a).pc := by
    have hsame : ((faultedState s core ch a).core core).chan ch = faulted (s.chan core ch) a := hchan
    simp only [siphNotice, hsame]
    rfl
  rw [hnotice]
  cases (s.chan core ch).quiet with
  | true => exact ⟨hchan, rfl, fun h => Bool.noConfusion h⟩
  | false => exact ⟨hpostChan.trans hchan, hpostMem, fun _ => hpostOut.trans (by rw [hout])⟩

end Sys2Proof.Proofs

namespace Sys2Proof.Proofs

open Sys2Proof Sys2Proof.Machine

/-! ### The rounds of the pumps (R217) -/

/-- The participants that are to begin with others are among those that do. -/
theorem mem_roundSet {s : State} {r : Range} {p : Nat} (fuel : Nat) {ps : List Nat} (h : p ∈ ps) : p ∈ roundSet s r fuel ps := by
  induction fuel generalizing ps with
  | zero => exact h
  | succ fuel ih =>
    rw [roundSet]
    dsimp only
    split
    · exact h
    · exact ih (List.mem_append_left _ h)

/-- The partners of the participant are the module's peers, which begin on their own, or have begun the round. -/
def aheadOf (s : State) (r : Range) (part : Nat) : Prop :=
  part = modulePart ∨ ∀ j ∈ partners r.sched (layerOf s r part).1 part (r.part part).round, (r.part part).round < (r.part j).round

theorem layerOf_of_die {s : State} {r : Range} {part : Nat} (h : part ≠ modulePart) : layerOf s r part = (4, part) := if_neg h

/-- A participant whose partners are ahead begins alone. -/
theorem roundSet_of_ahead {s : State} {r : Range} {part : Nat} (h : aheadOf s r part) : roundSet s r 4 [part] = [part] := by
  rw [roundSet]
  simp only [List.flatMap_cons, List.flatMap_nil, List.append_nil]
  by_cases hmodule : part = modulePart
  · rw [if_pos hmodule]
    rfl
  · have hahead := h.resolve_left hmodule
    rw [layerOf_of_die hmodule] at hahead
    have hnone : (partners r.sched 4 part (r.part part).round).filter
        (fun j => !(decide ((r.part part).round < (r.part j).round)) && !([part].contains j)) = [] := by
      rw [List.filter_eq_nil_iff]
      intro j hj
      simp [hahead j hj]
    rw [if_neg hmodule, hnone]
    rfl

/-- One participant of those that would begin can begin. -/
def mayBegin (s : State) (r : Range) (n i : Nat) (set : List Nat) (p : Nat) : Bool :=
  partReady s r p && (partners r.sched n (if p = modulePart then i else p) (r.part p).round).all fun j =>
    partnerOk s r set (r.part p).round p j

/-- Nothing but its interval holds back a participant whose partners are ahead. -/
theorem mayBegin_of_ahead {s : State} {r : Range} {part : Nat} (h : aheadOf s r part) (set : List Nat) :
    mayBegin s r (layerOf s r part).1 (layerOf s r part).2 set part = partReady s r part := by
  rw [mayBegin]
  have hall : ((partners r.sched (layerOf s r part).1 (if part = modulePart then (layerOf s r part).2 else part)
      (r.part part).round).all fun j => partnerOk s r set (r.part part).round part j) = true := by
    rw [List.all_eq_true]
    intro j hj
    by_cases hmodule : part = modulePart
    · simp [partnerOk, hmodule]
    · rw [if_neg hmodule] at hj
      simp [partnerOk, h.resolve_left hmodule j hj]
  rw [hall, Bool.and_true]

section
variable {s : State} {range part : Nat} {r : Range} (hat : (liftHolds s).ranges[range]? = some r) (hpart : part ≤ modulePart)
  (hmany : 1 < (layerOf (liftHolds s) r part).1)
include hat hpart hmany

theorem pumpRoundStart_eq :
    let u := liftHolds s
    let set := roundSet u r 4 [part]
    exec (.pumpRoundStart part range) s = .next (if set.all (mayBegin u r (layerOf u r part).1 (layerOf u r part).2 set) then
      endRounds (set.foldl (fun s p => beginRound s range p) u) range else u) := by
  intro u set
  have hsmall : ¬4 < part := Nat.not_lt.2 hpart
  have hgo : (decide ((layerOf u r part).1 ≤ 1) || decide (4 < part)) = false := by simp [u, hmany, hsmall]
  refine (show exec (.pumpRoundStart part range) s = execPumpRoundStart part range s from rfl).trans ?_
  simp only [execPumpRoundStart, hat, u] at hgo ⊢
  simp only [hgo, Bool.false_eq_true, if_false]
  rfl

theorem pumpRoundStart_of_ready (hready : partReady (liftHolds s) r part = true) (hahead : aheadOf (liftHolds s) r part) :
    exec (.pumpRoundStart part range) s = .next (endRounds (beginRound (liftHolds s) range part) range) := by
  rw [pumpRoundStart_eq hat hpart hmany]
  simp only [roundSet_of_ahead hahead, List.all_cons, List.all_nil, Bool.and_true, mayBegin_of_ahead hahead, hready, if_true,
    List.foldl_cons, List.foldl_nil]

theorem pumpRoundStart_of_not_ready (hwait : partReady (liftHolds s) r part = false) :
    exec (.pumpRoundStart part range) s = .next (liftHolds s) := by
  rw [pumpRoundStart_eq hat hpart hmany]
  have hnot : ¬((roundSet (liftHolds s) r 4 [part]).all (mayBegin (liftHolds s) r (layerOf (liftHolds s) r part).1
      (layerOf (liftHolds s) r part).2 (roundSet (liftHolds s) r 4 [part]))) = true := by
    intro hall
    have hmay := List.all_eq_true.1 hall part (mem_roundSet 4 (List.mem_singleton.2 rfl))
    rw [mayBegin, hwait, Bool.false_and] at hmay
    exact Bool.noConfusion hmay
  exact congrArg _ (if_neg hnot)

end

/-! ### Pushes and blocks (R214, R216) -/

theorem replicaPush_of_at {s : State} {k idx : Nat} {p : Push} (h : pushAt s k idx = some p) :
    let u := endMerge (joinL2 { s with pushes := s.pushes.erase p } k p.pa p.typ p.size p.val.toNat) p.merge
    exec (.replicaPush k idx) s = .next ((List.range u.ranges.length).foldl endRounds u) := by
  refine (show exec (.replicaPush k idx) s = execReplicaPush k idx s from rfl).trans ?_
  rw [execReplicaPush, h]

section
variable {s : State} {idx : Nat} {b : PumpBlock} (hat : s.blocks[idx]? = some b)
include hat

theorem pumpBlockReceive_of_in (hin : comesIn b = true) (hnew : b.merged = false) (hidle : blockBusy s b = false) :
    exec (.pumpBlockReceive idx) s = .next (receiveBlock s b) := by
  refine (show exec (.pumpBlockReceive idx) s = execPumpBlockReceive idx s from rfl).trans ?_
  simp [execPumpBlockReceive, hat, hin, hnew, hidle]

/-- What an acknowledgement leaves. -/
def afterAck (idx range : Nat) (t : State) : State := endRounds (liftHolds { t with blocks := dropAt t.blocks idx }) range

theorem pumpBlockAck_eq : exec (.pumpBlockAck idx) s = .next (match acknowledged s b with
    | some t => afterAck idx b.range t
    | none => s) := by
  refine (show exec (.pumpBlockAck idx) s = execPumpBlockAck idx s from rfl).trans ?_
  simp only [execPumpBlockAck, hat]
  cases acknowledged s b <;> rfl

theorem pumpBlockAck_of_own (hown : b.req = none) : exec (.pumpBlockAck idx) s = .next (if b.merged then (match b.back with
    | some d => afterAck idx b.range (replyPeer s d (.ok [] false))
    | none => afterAck idx b.range (clearMark s b)) else s) := by
  rw [pumpBlockAck_eq hat, acknowledged, hown]
  cases b.back <;> cases b.merged <;> rfl

theorem pumpBlockAck_of_sent {q : Nat} (hsent : b.req = some q) : exec (.pumpBlockAck idx) s = .next (match respOf s q with
    | none => s
    | some (.ok ..) => afterAck idx b.range (clearMark (dropReq s q) b)
    | some _ => afterAck idx b.range (dropReq s q)) := by
  rw [pumpBlockAck_eq hat, acknowledged, hsent]
  dsimp only
  cases respOf s q with
  | none => rfl
  | some a => cases a <;> rfl

end

/-! ### A range of cisterns (R206) -/

/-- A range as it is created, for the hub's time. -/
def freshRange (init : RangeInit) (time : Nat) : Range :=
  { ctx := init.ctx, vgran := init.vgran, len := init.len, pgran := init.pgran, home := init.pgran / 2 ^ 26 % 4, typ := init.typ,
    sched := init.sched, interval := init.interval, peers := init.peers, parts := (List.range 5).map fun i => (i, { ended := time }) }

theorem part_freshRange (init : RangeInit) (time : Nat) {p : Nat} (h : p < 5) : (freshRange init time).part p = { ended := time } := by
  rw [Range.part, freshRange]
  obtain rfl | rfl | rfl | rfl | rfl : p = 0 ∨ p = 1 ∨ p = 2 ∨ p = 3 ∨ p = 4 := by omega
  all_goals rfl

/-- The cells of every replica at the bottom, and then the table entry (R206). -/
def bottomed (s : State) (init : RangeInit) : State :=
  (List.range 4).foldl (fun s d => (purge s (onDie d (init.pgran * 4096)) (init.len * 4096)).storeMem (onDie d (init.pgran * 4096))
    (bottoms init.typ (init.len * 4096 / cellSize init.typ))) s
def entered (s : State) (init : RangeInit) : State :=
  coherentWrite (bottomed s init) (((bottomed s init).ctx init.ctx).rtBase + 32 * init.entry) ((rangeWords init).map fun b => (b, false))

theorem unitsKept_entered (s : State) (init : RangeInit) : UnitsKept s (entered s init) :=
  unitsKept_coherentWrite (unitsKept_foldl (fun _ _ ht => unitsKept_storeMem (unitsKept_purge ht ..) ..) _ (UnitsKept.refl s)) ..

section
variable {s : State} {init : RangeInit} (htyp : cellSize init.typ ≠ 0) (hlen : init.len ≠ 0)
  (hfits : init.pgran % 2 ^ 26 + init.len ≤ dramBytes / 4096) (hsched : init.sched ≤ 2) (hpgran : init.pgran < 2 ^ 28)
  (hpeers : init.peers = []) (hctx : (fget s.ctxs init.ctx).isSome = true) (hentry : init.entry < (s.ctx init.ctx).rtCount)
include htyp hlen hfits hsched hpgran hpeers hctx hentry

theorem cisternRangeCreation_eq : exec (.cisternRangeCreation init) s =
    .next { entered s init with ranges := (entered s init).ranges ++ [freshRange init s.hub.time.toNat] } := by
  refine (show exec (.cisternRangeCreation init) s = execCisternRangeCreation init s from rfl).trans ?_
  simp only [execCisternRangeCreation, decide_eq_true htyp, decide_eq_true hlen, decide_eq_true hfits, decide_eq_true hsched,
    decide_eq_true hpgran, hpeers, hctx, decide_eq_false (Nat.not_le.2 hentry), List.isEmpty_nil, Bool.true_or, Bool.and_self,
    Bool.not_true, Bool.or_self, Bool.false_eq_true, if_false]
  simp only [entered, bottomed, freshRange, hpeers]

/-- The creation adds the range and leaves the contexts. -/
theorem cisternRangeCreation_creates : ∃ t, exec (.cisternRangeCreation init) s = .next t ∧
    t.ranges = s.ranges ++ [freshRange init s.hub.time.toNat] ∧ t.ctxs = s.ctxs := by
  have hexec := cisternRangeCreation_eq htyp hlen hfits hsched hpgran hpeers hctx hentry
  have hkept := unitsKept_entered s init
  generalize entered s init = u at hexec hkept
  exact ⟨_, hexec, congrArg (· ++ [freshRange init s.hub.time.toNat]) hkept.ranges, hkept.ctxs⟩

end

end Sys2Proof.Proofs

namespace Sys2Proof.Proofs

open Sys2Proof Sys2Proof.Machine

/-- Settles O52: each event is the step of the unit that its section above describes. -/
theorem unitEvents : Obligations.UnitEvents := by
  unfold Obligations.UnitEvents
  intro s k e nb
  refine ⟨?element, ?done, ?fault, ?start, ?mma, ?macstEnd, ?macst, ?migrates, ?migrant, fun idx p h => replicaPush_of_at h,
    ?round, ?block, ?cistern⟩
  case element =>
    intro core ch c x hcmd hwalks hthawed hinflight hturn
    have hexec := siphElementWrite_walks hcmd hwalks hthawed hinflight hturn
    refine ⟨fun d hd => by rw [hexec, hd, nextStep], fun g hg => by rw [hexec, hg, nextStep], fun d n hd htile hbar hfree hscales hleft hpad => ?_⟩
    obtain ⟨hmem, hnext, hbytes⟩ := nextUnit_pads htile hbar hfree hscales hleft hpad hinflight
    refine ⟨_, by rw [hexec, hd, nextStep], hmem, hnext, fun j hj => ?_, fun a ha => ?_⟩
    · rw [hbytes, bytes_tileWrite_replicate, if_pos ⟨Nat.le_add_right .., Nat.add_lt_add_left hj _⟩]
    · rw [hbytes, bytes_tileWrite_replicate]
      exact if_neg fun hin => ha.elim (Nat.not_lt.2 hin.1) (Nat.not_le.2 hin.2)
  case done =>
    intro core ch c x hcmd hwritten hfine hfree
    have hexec := siphDone_of_written hcmd hwritten hfine hfree
    refine ⟨hexec, fun hfollow hnode hnote => ⟨_, hexec.trans (congrArg _ (tryDone_plain hfollow hnode hnote)), chan_endChan .., rfl⟩⟩
  case fault =>
    intro core ch c a x hcmd hfailed hnode
    exact ⟨_, siphFault_of_failed hcmd hfailed hnode, siphNotice_faultedState s core ch a⟩
  case start =>
    intro c rest hqueue hidle halone hready
    refine ⟨fun p hp => engineCommandStart_of_cause hqueue hidle halone hready hp, fun hcheck hbar =>
      ⟨_, engineCommandStart_of_go hqueue hidle halone hready hcheck hbar, ?_, ?_, ?_, rfl⟩⟩ <;> rw [engine_modEngine_same]
  case mma =>
    intro m c hop hrun
    obtain ⟨t, hexec, hmem, hengine⟩ := engineCommandComplete_mma hop hrun
    have hacc : ∀ a, (t.engine k).acc a = if m.acc = a then mmaResult m (e.tile m.a) (e.tile m.b) (e.acc m.acc) else e.acc a :=
      fun a => by rw [hengine]; exact fgetD_fset ..
    refine ⟨t, hexec, by rw [hengine], by rw [hengine], hmem, fun a ha => by rw [hacc, if_neg (Ne.symm ha)],
      by rw [hacc, if_pos rfl]; rfl, fun hkind hfmt i hi j hj => ?_⟩
    rw [hacc, if_pos rfl]
    exact int8_mmaResult _ _ hkind hfmt hi hj
  case macstEnd =>
    intro m c hop hrun hall hquiet
    exact ⟨_, engineCommandComplete_macst hop hrun hall hquiet, by rw [engine_idleEngine_same], by rw [engine_idleEngine_same], rfl⟩
  case macst =>
    intro m c hop hrun hleft a v y r
    have hexec := macstWrite_of_running hop hrun hleft
    refine ⟨fun p hp => ?_, fun p pa ls hp hlocs hbad => ?_⟩
    · exact hexec.trans (congrArg _ (macstStep_of_error (t := r.1) (Prod.ext rfl hp)))
    · have hplaces : macstPlaces (macstNoted s k m) c (macstAddr m m.next) (macstSize m) = (r.1, .ok p) := Prod.ext rfl hp
      refine ⟨fun hheld => hexec.trans (congrArg _ (macstStep_of_held hplaces hlocs hbad hheld)), fun hfree hbar =>
        ⟨_, hexec.trans (congrArg _ (macstStep_of_free hplaces hlocs hbad hfree hbar)), ?_, ?_, rfl⟩⟩
      · rw [engine_macstWritten hplaces]
        exact nsat_macstNoted s k m
      · rw [engine_macstWritten hplaces]
  case migrates =>
    intro idx m c hat hop hmay
    obtain ⟨t, hexec, hmem, hengine, hmigrant⟩ := migration_moves hat hop hmay
    exact ⟨t, hexec, by rw [hengine], by rw [hengine], hmigrant, hmem⟩
  case migrant =>
    intro g m hmig hop
    refine ⟨fun hnew hgo => ⟨_, migratedMmaStart_of_go hmig hop hnew hgo, ?_, ?_, rfl⟩,
      fun p hnew hcause => migratedMmaStart_of_cause hmig hop hnew hcause, fun hdone => migrationReturn_comes_home hmig hop hdone⟩
    · rw [engine_modEngine_same]
    · rw [engine_modEngine_same]
  case round =>
    intro range r part u hat hpart hmany n
    exact ⟨fun hready hahead => pumpRoundStart_of_ready hat hpart hmany hready hahead,
      fun hwait => pumpRoundStart_of_not_ready hat hpart hmany hwait⟩
  case block =>
    intro idx b hat
    refine ⟨fun hin hnew hidle => pumpBlockReceive_of_in hat hin hnew hidle, ?_⟩
    intro settle
    exact ⟨fun hown => pumpBlockAck_of_own hat hown, fun q hsent => pumpBlockAck_of_sent hat hsent⟩
  case cistern =>
    intro init htyp hlen hfits hsched hpgran hpeers hctx hentry
    obtain ⟨t, hexec, hranges, hctxs⟩ := cisternRangeCreation_creates htyp hlen hfits hsched hpgran hpeers hctx hentry
    exact ⟨t, _, hexec, hranges, rfl, rfl, rfl, rfl, rfl, hpeers, fun p hp => part_freshRange init _ hp, by
      rw [State.ctx, hctxs]
      rfl⟩

end Sys2Proof.Proofs

namespace Sys2Proof.Proofs

open Sys2Proof Sys2Proof.Machine

/-! ### Who executes a word: neither a translation nor the reading of a scope changes it (R110, R171, R323) -/

/-- What an entry or a cache hint takes from the word's carrel. -/
def issuingFields (x : Carrel) : Va × Nat × List Insn := (x.pc, x.act, x.hints)

/-- What an entry or a cache hint takes from the word's carrel and core. -/
def issuer (s : State) : (Nat × Nat) × (Va × Nat × List Insn) × Nat := (s.cur, issuingFields s.me, s.myCore.ctx)

theorem issuer_modCore (s : State) (c : Nat) {f : Core → Core} (hctx : ∀ k, (f k).ctx = k.ctx)
    (hfields : ∀ k i, issuingFields ((f k).carrel i) = issuingFields (k.carrel i)) : issuer (s.modCore c f) = issuer s := by
  have hcore : (s.modCore c f).core s.cur.1 = if c = s.cur.1 then f (s.core c) else s.core s.cur.1 := core_setCore ..
  change (s.cur, issuingFields (((s.modCore c f).core s.cur.1).carrel s.cur.2), ((s.modCore c f).core s.cur.1).ctx) = issuer s
  rw [hcore]
  split
  next h =>
    rw [hctx, hfields, h]
    rfl
  next => rfl

theorem issuer_setTlb (s : State) (c : Nat) (f : Core → List TlbEnt) :
    issuer (s.modCore c fun k => { k with tlb := f k }) = issuer s :=
  issuer_modCore s c (fun _ => rfl) fun _ _ => rfl

theorem issuer_setScopes (s : State) (c i : Nat) (f : Carrel → FMap ScopeRead) :
    issuer (s.modCarrel c i fun x => { x with scopes := f x }) = issuer s := by
  refine issuer_modCore s c (f := fun k => k.setCarrel i { k.carrel i with scopes := f (k.carrel i) }) (fun _ => rfl) fun k j => ?_
  rw [carrel_setCarrel]
  split
  next h =>
    rw [← h]
    rfl
  next => rfl

theorem issuer_rtLookup (s : State) (core ctx g : Nat) : issuer (rtLookup s core ctx g).1 = issuer s := by
  unfold rtLookup
  dsimp only
  split
  · exact issuer_setTlb ..
  · split
    · exact issuer_setTlb ..
    · split
      · rfl
      · split
        · exact issuer_setTlb ..
        · rfl

theorem issuer_translate (s : State) (core ctx va : Nat) (acc : Acc_) (die : Nat) :
    issuer (Machine.translate s core ctx va acc die).1 = issuer s := by
  unfold Machine.translate
  dsimp only
  split <;> exact issuer_rtLookup ..

theorem issuer_egCore (s : State) (ctx core : Nat) (typ : Bool) (addr : Nat) : issuer (egCore s ctx core typ addr) = issuer s := by
  unfold egCore
  split <;> rfl

theorem issuer_placesVa (core ctx addr : Nat) (acc : Acc_) (gs : List (Nat × Nat × Nat)) (s : State) :
    issuer (placesVa s core ctx addr acc gs).1 = issuer s := by
  fun_induction placesVa <;> grind [issuer_translate]

theorem issuer_places (s : State) (core ctx addr size : Nat) (acc : Acc_) :
    issuer (places s core ctx addr size acc).1 = issuer s := by
  unfold places
  grind [issuer_placesVa, issuer_egCore]

theorem issuer_scopeReading (s : State) (c i id : Nat) : issuer (scopeReading s c i id).1 = issuer s := by
  have hread := issuer_translate s c (s.core c).ctx (scopeSlot (s.core c).cregs.scpbase id) .read (c / 1024)
  unfold scopeReading
  dsimp only
  split
  · rfl
  · split
    · exact issuer_setScopes ..
    · split
      next htr =>
        rw [htr] at hread
        exact hread
      next htr =>
        rw [htr] at hread
        exact (issuer_setScopes ..).trans hread

theorem issuer_opScope (s : State) (default : Nat) : issuer (opScope s default).1 = issuer s := by
  unfold opScope scopeOf
  grind [issuer_scopeReading]

/-- An entry is the same whether it is made before or after the word's scope is read. -/
theorem mkEntry_opScope (s : State) (default : Nat) (i : Instr) (eff : Effect) (addr : Word) :
    mkEntry (opScope s default).1 i eff addr = mkEntry s i eff addr := by
  have hissuer := issuer_opScope s default
  simp only [issuer, issuingFields, Prod.mk.injEq] at hissuer
  obtain ⟨-, ⟨hpc, hact, -⟩, hctx⟩ := hissuer
  simp only [mkEntry, hpc, hact, hctx]

theorem hints_of_places {s t : State} {core ctx addr size : Nat} {acc : Acc_} {p : Places}
    (h : places s core ctx addr size acc = (t, .ok p)) : t.me.hints = s.me.hints := by
  have hissuer := issuer_places s core ctx addr size acc
  rw [h] at hissuer
  simp only [issuer, issuingFields, Prod.mk.injEq] at hissuer
  obtain ⟨-, ⟨-, -, hhints⟩, -⟩ := hissuer
  exact hhints

/-! ### The checks of LJOIN and LWAIT (R210, R370) -/

/-- LJOIN or LWAIT reaches a peer, with the state after translation: the counterpart of `ReachesCell` (R220). -/
def ReachesPeer (s : State) (cap : TCap) (perm : Nat) (acc : Acc_) (t : State) : Prop :=
  let addr := capAddr cap.val
  ∃ p ga, places s s.cur.1 s.myCore.ctx addr 4 acc = (t, .ok p) ∧ p.locs.head? = some (.peer ga) ∧ addr % 4 = 0 ∧
    capCheck s s.cur.1 cap addr 4 perm = none ∧ spaceOf addr ≠ 2 ∧ spaceOf addr ≠ 3

/-- A double word at the operand's address passes the checks too: the peer's cell may have 64 bits. -/
def wideAllowed (t : State) (cap : TCap) (perm : Nat) : Bool :=
  capAddr cap.val % 8 == 0 && (capCheck t t.cur.1 cap (capAddr cap.val) 8 perm).isNone

section
variable {s t : State} {cap : TCap} {perm : Nat} {acc : Acc_} {here : State → Nat → Nat → WordRes} {there : State → Bool → WordRes}

theorem cellChecks_of_misaligned (h : capAddr cap.val % 4 ≠ 0) :
    cellChecks s cap perm acc here there = .trap 0x101 (BitVec.ofNat 64 (capAddr cap.val)) := by
  simp [cellChecks, h]

theorem cellChecks_of_reaches {pa typ : Nat} (h : ReachesCell s cap perm acc t pa typ) :
    cellChecks s cap perm acc here there = here t pa typ := by
  obtain ⟨p, e, ls, hplaces, hent, hlocs, rfl, haligned, hcheck, hscr, hhost, hcell, hcheck8, hdram⟩ := h
  have hwide : (if cellSize e.typ = 8 then capCheck t t.cur.1 cap (capAddr cap.val) 8 perm else none) = none := by
    split
    next hsize => exact hcheck8 hsize
    next => rfl
  simp [cellChecks, haligned, hcheck, hscr, hhost, hplaces, hent, hlocs, hcell, hwide, badLoc_mem hdram]

theorem cellChecks_of_peer (h : ReachesPeer s cap perm acc t) :
    cellChecks s cap perm acc here there = there t (wideAllowed t cap perm) := by
  obtain ⟨p, ga, hplaces, hpeer, haligned, hcheck, hscr, hhost⟩ := h
  obtain ⟨ls, hlocs⟩ := List.head?_eq_some_iff.1 hpeer
  simp [cellChecks, wideAllowed, haligned, hcheck, hscr, hhost, hplaces, hlocs]

variable (haligned : capAddr cap.val % 4 = 0)
include haligned

theorem cellChecks_of_capCheck {c : Nat} (hcheck : capCheck s s.cur.1 cap (capAddr cap.val) 4 perm = some c) :
    cellChecks s cap perm acc here there = .trap c (BitVec.ofNat 64 (capAddr cap.val)) := by
  simp [cellChecks, haligned, hcheck]

variable (hcheck : capCheck s s.cur.1 cap (capAddr cap.val) 4 perm = none)
include hcheck

theorem cellChecks_of_scratchpad (hscr : spaceOf (capAddr cap.val) = 2) :
    cellChecks s cap perm acc here there = .trap 0x0C3 (BitVec.ofNat 64 (capAddr cap.val)) := by
  simp [cellChecks, haligned, hcheck, hscr]

theorem cellChecks_of_host (hhost : spaceOf (capAddr cap.val) = 3) :
    cellChecks s cap perm acc here there = .trap 0x085 (BitVec.ofNat 64 (capAddr cap.val)) := by
  simp [cellChecks, haligned, hcheck, hhost]

variable (hscr : spaceOf (capAddr cap.val) ≠ 2) (hhost : spaceOf (capAddr cap.val) ≠ 3)
include hscr hhost

theorem cellChecks_of_error {c y : Nat} (hplaces : places s s.cur.1 s.myCore.ctx (capAddr cap.val) 4 acc = (t, .error (c, y))) :
    cellChecks s cap perm acc here there = .trapWith t c (BitVec.ofNat 64 y) := by
  simp [cellChecks, haligned, hcheck, hscr, hhost, hplaces]

theorem cellChecks_of_off_cell {p : Places} {e : RtEntry} {pa : Nat} {ls : List Loc}
    (hplaces : places s s.cur.1 s.myCore.ctx (capAddr cap.val) 4 acc = (t, .ok p)) (hent : p.ent = some e) (hlocs : p.locs = .mem pa :: ls)
    (hcell : capAddr cap.val % cellSize e.typ ≠ 0) :
    cellChecks s cap perm acc here there = .trap 0x182 (BitVec.ofNat 64 (capAddr cap.val)) := by
  simp [cellChecks, haligned, hcheck, hscr, hhost, hplaces, hent, hlocs, hcell]

end

/-- What the checks turn away, in their order. -/
def CellRefused (i : Instr) (s : State) (cap : TCap) (perm : Nat) (acc : Acc_) : Prop :=
  let addr := capAddr cap.val
  let x : Word := BitVec.ofNat 64 addr
  (addr % 4 ≠ 0 → Traps i s 0x101 x) ∧
  (addr % 4 = 0 → ∀ c, capCheck s s.cur.1 cap addr 4 perm = some c → Traps i s c x) ∧
  (addr % 4 = 0 → capCheck s s.cur.1 cap addr 4 perm = none →
    (spaceOf addr = 2 → Traps i s 0x0C3 x) ∧ (spaceOf addr = 3 → Traps i s 0x085 x) ∧
    (spaceOf addr ≠ 2 → spaceOf addr ≠ 3 → s.me.settled = true →
      (∀ t c y, places s s.cur.1 s.myCore.ctx addr 4 acc = (t, .error (c, y)) →
        exec i s = .next (takeTrap t t.cur.1 t.cur.2 c (BitVec.ofNat 64 y))) ∧
      (∀ t p e pa ls, places s s.cur.1 s.myCore.ctx addr 4 acc = (t, .ok p) → p.ent = some e → p.locs = .mem pa :: ls →
        addr % cellSize e.typ ≠ 0 → Traps i s 0x182 x)))

/-- A word whose operation begins with the checks of a cell. -/
theorem cellRefused_of_word {i : Instr} {o : OpSpec} {s : State} {body : State → List TCap → WordRes} {cap : TCap} {perm : Nat}
    {acc : Acc_} {here : State → Nat → Nat → WordRes} {there : State → Bool → WordRes} (hexec : exec i s = runWord i o s body)
    (hplain : isSync i = false) (hissue : issuable i s = true) (hready : sourcesReady o s = true)
    (hbody : body s (readSources s.me o.cs) = cellChecks s cap perm acc here there) : CellRefused i s cap perm acc := by
  have htraps : ∀ {c : Nat} {v : Word}, cellChecks s cap perm acc here there = .trap c v → causeRank c < 4 → Traps i s c v :=
    fun hcause hrank hsettled =>
      hexec.trans (runWord_trap_of_sends hissue hready hplain (hbody.trans hcause) hrank hsettled)
  refine ⟨fun hmis => htraps (cellChecks_of_misaligned hmis) (by decide),
    fun haligned c hcheck => htraps (cellChecks_of_capCheck haligned hcheck) (causeRank_capCheck hcheck),
    fun haligned hcheck => ⟨fun hscr => htraps (cellChecks_of_scratchpad haligned hcheck hscr) (by decide),
      fun hhost => htraps (cellChecks_of_host haligned hcheck hhost) (by decide), fun hscr hhost hsettled => ⟨?_, ?_⟩⟩⟩
  · intro t c y hplaces
    exact hexec.trans (runWord_trapWith hissue hready hplain
      (hbody.trans (cellChecks_of_error haligned hcheck hscr hhost hplaces)) (causeRank_places hplaces) hsettled)
  · intro t p e pa ls hplaces hent hlocs hcell
    exact htraps (cellChecks_of_off_cell haligned hcheck hscr hhost hplaces hent hlocs hcell) (by decide)

/-! ### LJOIN (R209, R221) -/

/-- The scope at which a join under REL releases. -/
def joinRelease (r : Bool) (t : State) : Option ScopeRef := if r then some (opScope t 4).2 else none

/-- The entry of a join whose address is translated. -/
def joinEntry (i : Instr) (r : Bool) (x : Word) (eff : Option ScopeRef → Effect) (t : State) : Entry :=
  { mkEntry t i (eff (joinRelease r t)) x with release := joinRelease r t }

/-- A join places its entry once its scope is read. -/
def joinOut (i : Instr) (r : Bool) (x : Word) (eff : Option ScopeRef → Effect) (t : State) : WordRes :=
  putOut (opScope t 4).1
    [{ mkEntry (opScope t 4).1 i (eff (joinRelease r t)) x with release := joinRelease r t }]

/-- The effect of a join at a cell of this module: the low bits of the operand (R209). -/
def joinEffect (v : Word) (pa typ : Nat) : Effect :=
  .join pa typ (cellSize typ) (BitVec.ofNat 64 (v.toNat % 2 ^ (8 * cellSize typ)))

theorem exec_ljoin (a b : Reg) (r : Bool) (s : State) : exec (.ljoin a b r) s =
    runWord (.ljoin a b r) { cs := [a, b] } s fun s vs => cellChecks s (src vs 0) permLAT .joinW
      (fun t pa typ => joinOut (.ljoin a b r) r (BitVec.ofNat 64 (capAddr (src vs 0).val))
        (fun _ => joinEffect (src vs 1).data pa typ) t)
      (fun t ok8 => joinOut (.ljoin a b r) r (BitVec.ofNat 64 (capAddr (src vs 0).val))
        (fun rs => .peer (BitVec.ofNat 64 (capAddr (src vs 0).val)) (.join (src vs 1).data ok8 (rs.map (·.cover)))) t) := rfl

theorem joinOut_of_hasRoom {t : State} (hroom : hasRoom (opScope t 4).1 = true) (i : Instr) (r : Bool) (x : Word)
    (eff : Option ScopeRef → Effect) : joinOut i r x eff t = .done (placed (opScope t 4).1 (joinEntry i r x eff t)) := by
  rw [joinOut, putOut_of_hasRoom hroom, mkEntry_opScope, joinEntry]

theorem cover_joinRelease (r : Bool) (t : State) :
    (joinRelease r t).map (·.cover) = if r then some (opScope t 4).2.cover else none := by
  cases r <;> rfl

/-! ### LWAIT (R208, R210, R220) -/

/-- The record of a parked wait; `h` is the word's cache hint. -/
def waitRec (d : Reg) (cap : TCap) (h : CacheHint) (pa typ : Nat) (x : Word) (req : Option Nat) : LWaitRec :=
  { d := d, addr := BitVec.ofNat 64 (capAddr cap.val), pa := pa, typ := typ, size := cellSize typ, x := x,
    nal2 := h.nal2, stream := h.stream, keep := h.keep, req := req }

/-- A wait at a cell of this module: it completes with a view that has reached the threshold, and parks below it. -/
def waitHere (d : Reg) (cap : TCap) (v : Word) (h : CacheHint) (t : State) (pa typ : Nat) : WordRes :=
  if loadHeld t ((List.range (cellSize typ)).map fun j => .mem (pa + j)) then .stall else
  match viewCell t t.cur.1 t.cur.2 pa typ (cellSize typ) h with
  | (u, view, bad) =>
    if bad then .consume (BitVec.ofNat 64 (capAddr cap.val)) else
    if geq typ view (v.toNat % 2 ^ (8 * cellSize typ)) then .done (u.put d (lwaitValue view false))
    else .park u (.lwait (waitRec d cap h pa typ (BitVec.ofNat 64 (v.toNat % 2 ^ (8 * cellSize typ))) none))

/-- A wait at a cell of a peer is sent to it, and its carrel parks with the request (R220). -/
def waitThere (d : Reg) (cap : TCap) (v : Word) (h : CacheHint) (t : State) (ok8 : Bool) : WordRes :=
  if loadHeld t [] then .stall else
  let w := sendOp t t.cur.1 (.lwait t.cur.1 t.cur.2) (.peer (capAddr cap.val)) (.lwait v ok8)
  .park w.1 (.lwait (waitRec d cap h 0 0 v (some w.2)))

/-- LWAIT of an address and a threshold. -/
def waitStep (s : State) (d : Reg) (cap : TCap) (v : Word) : WordRes :=
  cellChecks s cap permR .joinR (waitHere d cap v (cacheHint s.me.hints)) (waitThere d cap v (cacheHint s.me.hints))

theorem exec_lwait (d a b : Reg) (q : Bool) (s : State) : exec (.lwait d a b q) s =
    runWord (.lwait d a b q) { cs := [a, b], dc := some d } s fun s vs => waitStep s d (src vs 0) (src vs 1).data := rfl

/-- The value of a wait that ends in time is the view, zero-extended (R210). -/
theorem lwaitValue_in_time (view : Nat) : lwaitValue view false = dataCap (BitVec.ofNat 64 view) := by
  rw [lwaitValue, dataCap]
  congr 1
  apply BitVec.eq_of_toNat_eq
  simp

section
variable {t u : State} {d : Reg} {cap : TCap} {v : Word} {h : CacheHint}

section
variable {pa typ view : Nat} (hheld : loadHeld t ((List.range (cellSize typ)).map fun j => .mem (pa + j)) = false)
  (hview : viewCell t t.cur.1 t.cur.2 pa typ (cellSize typ) h = (u, view, false))
include hheld hview

theorem waitHere_of_reached (hreached : geq typ view (v.toNat % 2 ^ (8 * cellSize typ)) = true) :
    waitHere d cap v h t pa typ = .done (u.put d (dataCap (BitVec.ofNat 64 view))) := by
  simp [waitHere, hheld, hview, hreached, lwaitValue_in_time]

theorem waitHere_of_below (hbelow : geq typ view (v.toNat % 2 ^ (8 * cellSize typ)) = false) :
    waitHere d cap v h t pa typ =
      .park u (.lwait (waitRec d cap h pa typ (BitVec.ofNat 64 (v.toNat % 2 ^ (8 * cellSize typ))) none)) := by
  simp [waitHere, hheld, hview, hbelow]

end

theorem waitThere_of_free (hheld : loadHeld t [] = false) (ok8 : Bool) : waitThere d cap v h t ok8 =
    let w := sendOp t t.cur.1 (.lwait t.cur.1 t.cur.2) (.peer (capAddr cap.val)) (.lwait v ok8)
    .park w.1 (.lwait (waitRec d cap h 0 0 v (some w.2))) := by
  simp [waitThere, hheld]

end

/-- The threshold of a wait is kept whole in its record: a cell has at most 64 bits (R204). -/
theorem toNat_cellOperand (v : Word) (typ : Nat) :
    (BitVec.ofNat 64 (v.toNat % 2 ^ (8 * cellSize typ))).toNat = v.toNat % 2 ^ (8 * cellSize typ) := by
  rw [BitVec.toNat_ofNat]
  exact Nat.mod_eq_of_lt (Nat.lt_of_le_of_lt (Nat.mod_le _ _) v.isLt)

/-- A word whose operation parks, with a destination that takes any value, parks in the state that its operation leaves. -/
theorem word_parks {i : Instr} {o : OpSpec} {s t : State} {body : State → List TCap → WordRes} {why : ParkWhy}
    (hexec : exec i s = runWord i o s body) (hissue : issuable i s = true) (hready : sourcesReady o s = true)
    (hbody : body s (readSources s.me o.cs) = .park t why) (htakes : ∀ d, o.dc = some d → takesAny s d) :
    exec i s = .next (t.setMe { t.me with st := .parked, park := some { why := why, pops := o.cs } }) := by
  rw [hexec, runWord_of_issuable hissue, runOps_of_no_cause hready hbody rfl fun d hd => htakes d hd _]
  rfl

/-! ### The two words -/

section
variable {s t : State} {a b : Reg} {r : Bool} (hissue : issuable (.ljoin a b r) s = true)
  (hready : sourcesReady { cs := [a, b] } s = true)
include hissue hready

theorem ljoin_refused : CellRefused (.ljoin a b r) s (src (readSources s.me [a, b]) 0) permLAT .joinW :=
  cellRefused_of_word (exec_ljoin a b r s) rfl hissue hready rfl

variable (hroom : hasRoom (opScope t 4).1 = true)
include hroom

theorem ljoin_at_cell {pa typ : Nat} (hcell : ReachesCell s (src (readSources s.me [a, b]) 0) permLAT .joinW t pa typ) :
    exec (.ljoin a b r) s = .next (completed (placed (opScope t 4).1
      (joinEntry (.ljoin a b r) r (BitVec.ofNat 64 (capAddr (src (readSources s.me [a, b]) 0).val))
        (fun _ => joinEffect (operand s [a, b] 1) pa typ) t)) [a, b]) :=
  (exec_ljoin a b r s).trans (runWord_done_plain hissue hready
    ((cellChecks_of_reaches hcell).trans (joinOut_of_hasRoom hroom ..)) rfl rfl)

theorem ljoin_at_peer (hpeer : ReachesPeer s (src (readSources s.me [a, b]) 0) permLAT .joinW t) :
    let cap := src (readSources s.me [a, b]) 0
    let x : Word := BitVec.ofNat 64 (capAddr cap.val)
    exec (.ljoin a b r) s = .next (completed (placed (opScope t 4).1 (joinEntry (.ljoin a b r) r x
      (fun rs => .peer x (.join (operand s [a, b] 1) (wideAllowed t cap permLAT) (rs.map (·.cover)))) t)) [a, b]) :=
  (exec_ljoin a b r s).trans (runWord_done_plain hissue hready
    ((cellChecks_of_peer hpeer).trans (joinOut_of_hasRoom hroom ..)) rfl rfl)

end

section
variable {s t : State} {d a b : Reg} {q : Bool} (hissue : issuable (.lwait d a b q) s = true)
  (hready : sourcesReady { cs := [a, b], dc := some d } s = true)
include hissue hready

theorem lwait_refused : CellRefused (.lwait d a b q) s (src (readSources s.me [a, b]) 0) permR .joinR :=
  cellRefused_of_word (exec_lwait d a b q s) rfl hissue hready rfl

variable (htakes : takesAny s d)
include htakes

theorem lwait_completes
    (hstep : waitStep s d (src (readSources s.me [a, b]) 0) (operand s [a, b] 1) = .done t) :
    exec (.lwait d a b q) s = .next (completed t [a, b]) := by
  rw [word_finishes (exec_lwait d a b q s) hissue hready hstep (by rintro _ ⟨⟩; exact htakes), finished, recordSync_plain rfl]

theorem lwait_parks {why : ParkWhy}
    (hstep : waitStep s d (src (readSources s.me [a, b]) 0) (operand s [a, b] 1) = .park t why) :
    exec (.lwait d a b q) s = .next (t.setMe { t.me with st := .parked, park := some { why := why, pops := [a, b] } }) :=
  word_parks (exec_lwait d a b q s) hissue hready hstep (by rintro _ ⟨⟩; exact htakes)

end

/-- Settles O34: after the checks of R210 and R370 a join is one entry, and a wait completes or parks by its view, or is sent. -/
theorem cisternWords : Obligations.CisternWords := by
  unfold Obligations.CisternWords
  intro s d a b r cap v addr x refused
  refine ⟨fun hissue hready => ⟨ljoin_refused hissue hready, ?joinHere, ?joinThere⟩,
    fun hissue hready htakes => ⟨lwait_refused hissue hready, ?waitHere, ?waitThere⟩⟩
  case joinHere => exact fun t pa typ hcell hroom => ljoin_at_cell hissue hready hroom hcell
  case joinThere =>
    intro t ga p haligned hcheck hscr hhost hplaces hpeer hroom
    rw [← cover_joinRelease]
    exact ljoin_at_peer hissue hready hroom ⟨p, ga, hplaces, hpeer, haligned, hcheck, hscr, hhost⟩
  case waitHere =>
    intro t pa typ hcell hheld u view hview y
    have hchecks := fun here there => cellChecks_of_reaches (here := here) (there := there) hcell
    obtain ⟨p, -, -, hplaces, -⟩ := hcell
    rw [hints_of_places hplaces] at hview
    refine ⟨fun hreached => lwait_completes hissue hready htakes ((hchecks _ _).trans (waitHere_of_reached hheld hview hreached)),
      fun hbelow => ⟨_, lwait_parks hissue hready htakes ((hchecks _ _).trans (waitHere_of_below hheld hview hbelow)), ?_⟩⟩
    exact ⟨rfl, rfl, rfl, rfl, rfl, toNat_cellOperand _ _, rfl⟩
  case waitThere =>
    intro t ga p haligned hcheck hscr hhost hplaces hpeer hheld w
    exact ⟨_, lwait_parks hissue hready htakes
      ((cellChecks_of_peer ⟨p, ga, hplaces, hpeer, haligned, hcheck, hscr, hhost⟩).trans (waitThere_of_free hheld _)), rfl, rfl, rfl, rfl⟩

end Sys2Proof.Proofs

namespace Sys2Proof.Proofs

open Sys2Proof Sys2Proof.Machine

/-! ### Operations of n bits on numbers and on bit vectors (R7, R328, R352, R390) -/

section
variable {n : Nat} (x y : BitVec n)

theorem ofNat_wrapInt (z : Int) : BitVec.ofNat n (wrapInt n z) = BitVec.ofInt n z := by
  rw [wrapInt_eq_toNat, BitVec.ofNat_toNat, BitVec.setWidth_eq]

theorem ofNat_minSigned : BitVec.ofNat n (minSigned n x.toNat y.toNat) = if x.sle y then x else y := by
  simp only [minSigned, signedOf_toNat, BitVec.sle, decide_eq_true_eq]
  split <;> simp

theorem ofNat_maxSigned : BitVec.ofNat n (maxSigned n x.toNat y.toNat) = if x.sle y then y else x := by
  simp only [maxSigned, signedOf_toNat, BitVec.sle, decide_eq_true_eq]
  split <;> simp

theorem ofNat_minUnsigned : BitVec.ofNat n (if x.toNat ≤ y.toNat then x.toNat else y.toNat) = if x.ule y then x else y := by
  simp only [BitVec.ule, decide_eq_true_eq]
  split <;> simp

theorem ofNat_maxUnsigned : BitVec.ofNat n (if x.toNat ≤ y.toNat then y.toNat else x.toNat) = if x.ule y then y else x := by
  simp only [BitVec.ule, decide_eq_true_eq]
  split <;> simp

theorem ofNat_add : BitVec.ofNat n (x.toNat + y.toNat) = x + y := by simp [BitVec.ofNat_add]

theorem ofNat_mul : BitVec.ofNat n (x.toNat * y.toNat) = x * y := by simp [BitVec.ofNat_mul]

theorem ofNat_sub : BitVec.ofNat n (x.toNat + 2 ^ n - y.toNat) = x - y := by
  have hy := y.isLt
  refine BitVec.eq_of_toNat_eq ?_
  rw [BitVec.toNat_ofNat, BitVec.toNat_sub, Nat.add_sub_assoc hy.le, Nat.add_comm]

theorem ofNat_and : BitVec.ofNat n (x.toNat &&& y.toNat) = x &&& y := by
  rw [← BitVec.toNat_and, BitVec.ofNat_toNat, BitVec.setWidth_eq]

theorem ofNat_or : BitVec.ofNat n (x.toNat ||| y.toNat) = x ||| y := by
  rw [← BitVec.toNat_or, BitVec.ofNat_toNat, BitVec.setWidth_eq]

theorem ofNat_xor : BitVec.ofNat n (x.toNat ^^^ y.toNat) = x ^^^ y := by
  rw [← BitVec.toNat_xor, BitVec.ofNat_toNat, BitVec.setWidth_eq]

theorem ofNat_shl (k : Nat) : BitVec.ofNat n (x.toNat * 2 ^ k) = x <<< k := by
  refine BitVec.eq_of_toNat_eq ?_
  rw [BitVec.toNat_ofNat, BitVec.toNat_shiftLeft, Nat.shiftLeft_eq]

theorem ofNat_shr (k : Nat) : BitVec.ofNat n (x.toNat / 2 ^ k) = x >>> k := by
  rw [← Nat.shiftRight_eq_div_pow, ← BitVec.toNat_ushiftRight, BitVec.ofNat_toNat, BitVec.setWidth_eq]

theorem ofNat_sra (k : Nat) : BitVec.ofNat n (sraBits n x.toNat k) = x.sshiftRight k := by
  rw [sraBits, ofNat_wrapInt, signedOf_toNat, BitVec.sshiftRight, Int.shiftRight_eq_div_pow]

/-- Cond of R74 at every width. -/
theorem condHolds_toNat (c : Cond) : condHolds c n x.toNat y.toNat = condOf c x y := by
  cases c <;> simp only [condHolds, condOf, signedOf_toNat, BitVec.slt, BitVec.sle, BitVec.ult, BitVec.ule]
  case eq => rw [Bool.eq_iff_iff]; simp [BitVec.toNat_inj]
  case ne => rw [Bool.eq_iff_iff]; simp [BitVec.toNat_inj]

/-! ### Products and quotients (R352, R376) -/

theorem toNat_signExtend_mul (m : Nat) :
    (x.signExtend m * y.signExtend m).toNat = wrapInt m (x.toInt * y.toInt) := by
  rw [wrapInt_eq_toNat, BitVec.ofInt_mul]
  rfl

theorem ofNat_mulh : BitVec.ofNat n (wrapInt (2 * n) (signedOf n x.toNat * signedOf n y.toNat) / 2 ^ n) =
    (x.signExtend (2 * n) * y.signExtend (2 * n)).extractLsb' n n := by
  rw [signedOf_toNat, signedOf_toNat, ← toNat_signExtend_mul x y (2 * n), ← Nat.shiftRight_eq_div_pow]
  rfl

theorem ofNat_mulhu : BitVec.ofNat n (x.toNat * y.toNat / 2 ^ n) =
    (x.setWidth (2 * n) * y.setWidth (2 * n)).extractLsb' n n := by
  have hx := x.isLt
  have hy := y.isLt
  have hwide : 2 ^ n ≤ 2 ^ (2 * n) := Nat.pow_le_pow_right (by decide) (by omega)
  have hproduct : x.toNat * y.toNat < 2 ^ (2 * n) := by
    rw [two_mul, Nat.pow_add]
    exact Nat.mul_lt_mul_of_lt_of_le hx hy.le (Nat.two_pow_pos n)
  have hmul : (x.setWidth (2 * n) * y.setWidth (2 * n)).toNat = x.toNat * y.toNat := by
    rw [BitVec.toNat_mul, BitVec.toNat_setWidth, BitVec.toNat_setWidth, Nat.mod_eq_of_lt (hx.trans_le hwide),
      Nat.mod_eq_of_lt (hy.trans_le hwide), Nat.mod_eq_of_lt hproduct]
  rw [← hmul, ← Nat.shiftRight_eq_div_pow]
  rfl

theorem ofNat_eq_allOnes : BitVec.ofNat n (2 ^ n - 1) = BitVec.allOnes n := by
  rw [← BitVec.toNat_allOnes, BitVec.ofNat_toNat, BitVec.setWidth_eq]

theorem toNat_eq_zero_iff : y.toNat = 0 ↔ y = 0 := by
  rw [← BitVec.toNat_inj]; simp

/-- The operands of the one quotient that is out of range (R352). -/
theorem overflow_iff (hy : y ≠ 0) : (x.toNat = 2 ^ (n - 1) ∧ y.toNat = 2 ^ n - 1) ↔ x = BitVec.intMin n ∧ y = -1#n := by
  have hn : 0 < n := by
    rcases Nat.eq_zero_or_pos n with rfl | hn
    · exact absurd (Subsingleton.elim y 0) hy
    · exact hn
  have hmin : (BitVec.intMin n).toNat = 2 ^ (n - 1) := by
    rw [BitVec.toNat_intMin, Nat.mod_eq_of_lt (Nat.pow_lt_pow_right (by decide) (by omega))]
  rw [← BitVec.toNat_inj (x := x), hmin, BitVec.neg_one_eq_allOnes, ← BitVec.toNat_inj (x := y), BitVec.toNat_allOnes]

theorem ofInt_tdiv : BitVec.ofInt n (x.toInt.tdiv y.toInt) = x.sdiv y := by
  rw [← BitVec.toInt_inj, BitVec.toInt_sdiv, BitVec.toInt_ofInt]

theorem ofNat_divSigned : BitVec.ofNat n (divSigned n x.toNat y.toNat) =
    if y = 0 then BitVec.allOnes n else x.sdiv y := by
  by_cases hy : y = 0
  · rw [divSigned, if_pos ((toNat_eq_zero_iff y).2 hy), if_pos hy, ofNat_eq_allOnes]
  · rw [divSigned, if_neg (mt (toNat_eq_zero_iff y).1 hy), if_neg hy]
    simp only [Bool.and_eq_true, decide_eq_true_eq, overflow_iff x y hy]
    split
    · next h =>
      obtain ⟨rfl, rfl⟩ := h
      rw [BitVec.intMin_sdiv_neg_one, BitVec.ofNat_toNat, BitVec.setWidth_eq]
    · rw [ofNat_wrapInt, signedOf_toNat, signedOf_toNat, ofInt_tdiv]

theorem ofInt_tmod : BitVec.ofInt n (x.toInt - x.toInt.tdiv y.toInt * y.toInt) = x.srem y := by
  have hmod : x.toInt - x.toInt.tdiv y.toInt * y.toInt = (x.srem y).toInt := by
    rw [BitVec.toInt_srem, Int.tmod_def, Int.mul_comm]
  rw [hmod, BitVec.ofInt_toInt]

theorem ofNat_remSigned : BitVec.ofNat n (remSigned n x.toNat y.toNat) = if y = 0 then x else x.srem y := by
  by_cases hy : y = 0
  · rw [remSigned, if_pos ((toNat_eq_zero_iff y).2 hy), if_pos hy, BitVec.ofNat_toNat, BitVec.setWidth_eq]
  · rw [remSigned, if_neg (mt (toNat_eq_zero_iff y).1 hy), if_neg hy]
    simp only [Bool.and_eq_true, decide_eq_true_eq, overflow_iff x y hy]
    split
    · next h =>
      obtain ⟨rfl, rfl⟩ := h
      have hn : n ≠ 0 := by rintro rfl; exact hy (Subsingleton.elim _ _)
      have hone : (-1#n).toInt = -1 := by rw [BitVec.neg_one_eq_allOnes, BitVec.toInt_allOnes, if_pos (Nat.pos_of_ne_zero hn)]
      rw [← BitVec.toInt_inj, BitVec.toInt_srem, hone]
      simp
    · rw [ofNat_wrapInt, signedOf_toNat, signedOf_toNat, ofInt_tmod]

theorem ofNat_divUnsigned : BitVec.ofNat n (divUnsigned n x.toNat y.toNat) =
    if y = 0 then BitVec.allOnes n else x.udiv y := by
  by_cases hy : y = 0
  · rw [divUnsigned, if_pos ((toNat_eq_zero_iff y).2 hy), if_pos hy, ofNat_eq_allOnes]
  · rw [divUnsigned, if_neg (mt (toNat_eq_zero_iff y).1 hy), if_neg hy, ← BitVec.toNat_udiv, BitVec.ofNat_toNat, BitVec.setWidth_eq]
    rfl

theorem ofNat_remUnsigned : BitVec.ofNat n (remUnsigned x.toNat y.toNat) = if y = 0 then x else x.umod y := by
  by_cases hy : y = 0
  · rw [remUnsigned, if_pos ((toNat_eq_zero_iff y).2 hy), if_pos hy, BitVec.ofNat_toNat, BitVec.setWidth_eq]
  · rw [remUnsigned, if_neg (mt (toNat_eq_zero_iff y).1 hy), if_neg hy, ← BitVec.toNat_umod, BitVec.ofNat_toNat, BitVec.setWidth_eq]
    rfl

end

/-! ### Counts (R349) -/

theorem popCount_eq_cpopNatRec {n : Nat} (x : BitVec n) (k acc : Nat) : x.cpopNatRec k acc = acc + popCount k x.toNat := by
  induction k generalizing acc with
  | zero => simp [popCount]
  | succ k ih =>
    have hbit : (x.getLsbD k).toNat = x.toNat / 2 ^ k % 2 := by
      rw [BitVec.getLsbD, Nat.testBit_eq_decide_div_mod_eq]
      rcases Nat.mod_two_eq_zero_or_one (x.toNat / 2 ^ k) with h | h <;> rw [h] <;> rfl
    rw [BitVec.cpopNatRec_succ, ih, popCount, hbit, Nat.add_assoc]

theorem toNat_cpop {n : Nat} (x : BitVec n) : x.cpop.toNat = popCount n x.toNat := by
  rw [BitVec.toNat_cpop, popCount_eq_cpopNatRec, Nat.zero_add]

/-- The bit length of a value is its width less its leading zeros. -/
theorem bitLength_eq_of_bits {k n x : Nat} (hk : k ≤ n) (hhigh : ∀ i, k ≤ i → i < n → x.testBit i = false)
    (htop : 0 < k → x.testBit (k - 1) = true) : bitLength n x = k := by
  induction n with
  | zero => exact (Nat.le_zero.1 hk).symm
  | succ n ih =>
    have hbit : x.testBit n = true ↔ x / 2 ^ n % 2 = 1 := by rw [Nat.testBit_eq_decide_div_mod_eq]; simp
    rw [bitLength, ← if_congr hbit rfl rfl]
    rcases Nat.lt_or_eq_of_le hk with hlt | rfl
    · rw [if_neg (by simp [hhigh n (by omega) (by omega)])]
      exact ih (by omega) (fun i hi hin => hhigh i hi (by omega))
    · rw [if_pos (by simpa using htop (Nat.succ_pos n))]

theorem bitLength_eq_sub_clz {n : Nat} (x : BitVec n) : bitLength n x.toNat = n - x.clz.toNat := by
  refine bitLength_eq_of_bits (Nat.sub_le ..) (fun i hi _ => ?_) (fun hpos => ?_)
  · exact Nat.testBit_lt_two_pow (BitVec.toNat_lt_two_pow_sub_clz.trans_le (Nat.pow_le_pow_right (by decide) hi))
  · have hx : x ≠ 0#n := by
      rintro rfl
      rw [BitVec.clz_eq_iff_eq_zero.2 rfl] at hpos
      simp at hpos
    rw [Nat.sub_right_comm]
    exact BitVec.getLsbD_true_clz_of_ne_zero (by omega) hx

theorem toNat_clz {n : Nat} (x : BitVec n) : x.clz.toNat = n - bitLength n x.toNat := by
  have hclz : x.clz.toNat ≤ n := by
    simpa [BitVec.le_def] using BitVec.clz_le (x := x)
  rw [bitLength_eq_sub_clz, Nat.sub_sub_self hclz]

/-! ### The integer words (R328, R329) -/

section
variable {i : Instr} {d a b : Reg} {w : Bool} {s : State}

/-- The low bits of a source as a bit vector. -/
theorem lowOf_eq_toNat_setWidth (n : Nat) (v : List Word) (k : Nat) : lowOf n v k = ((v.getD k 0).setWidth n).toNat := by
  rw [lowOf, BitVec.toNat_setWidth]

/-- A word of major 0x01 gives the operation of its width, where that operation is `g` on numbers (R329). -/
theorem givesData_aluWord {g : Nat → Nat → Nat → Nat} {f : (n : Nat) → BitVec n → BitVec n → BitVec n}
    (hexec : exec i s = aluWord i d a b w s g) (hplain : isSync i = false)
    (hop : ∀ {n} (x y : BitVec n), BitVec.ofNat n (g n x.toNat y.toNat) = f n x y) :
    GivesData i d [a, b] s (onWidth w f (operand s [a, b] 0) (operand s [a, b] 1)) := by
  refine givesData_of_dataWord_eq hexec hplain ?_
  rw [sext64_eq_signExtend, lowOf_eq_toNat_setWidth, lowOf_eq_toNat_setWidth, hop]
  cases w
  · change (f 64 ((operand s [a, b] 0).setWidth 64) ((operand s [a, b] 1).setWidth 64)).signExtend 64 = _
    rw [BitVec.signExtend_eq, BitVec.setWidth_eq, BitVec.setWidth_eq]
    rfl
  · rfl

/-- A count of a word's source is that of its low 32 bits under W, else of all 64 (R349). -/
theorem zext64_count {count : Nat → Nat → Nat} {f : (n : Nat) → BitVec n → BitVec n}
    (hop : ∀ {n} (x : BitVec n), (f n x).toNat = count n x.toNat) (w : Bool) (v : List Word) : zext64 64 (count (widthOf w) (lowOf (widthOf w) v 0)) =
      if w then (f 32 ((v.getD 0 0).setWidth 32)).setWidth 64 else f 64 (v.getD 0 0) := by
  rw [zext64_eq_ofNat, lowOf_eq_toNat_setWidth, ← hop, BitVec.ofNat_toNat]
  cases w
  · change (f 64 ((v.getD 0 0).setWidth 64)).setWidth 64 = f 64 (v.getD 0 0)
    rw [BitVec.setWidth_eq, BitVec.setWidth_eq]
  · rfl

theorem boolWord_condHolds (c : Cond) (w : Bool) (v : List Word) :
    boolWord (condHolds c (widthOf w) (lowOf (widthOf w) v 0) (lowOf (widthOf w) v 1)) =
      if (if w then condOf c ((v.getD 0 0).setWidth 32) ((v.getD 1 0).setWidth 32) else condOf c (v.getD 0 0) (v.getD 1 0))
      then 1 else 0 := by
  rw [lowOf_eq_toNat_setWidth, lowOf_eq_toNat_setWidth, condHolds_toNat, boolWord]
  cases w
  · change (if condOf c ((v.getD 0 0).setWidth 64) ((v.getD 1 0).setWidth 64) then (1 : Word) else 0) = _
    rw [BitVec.setWidth_eq, BitVec.setWidth_eq]
    rfl
  · rfl

theorem zext64_lowOf (n : Nat) (v : List Word) : zext64 n (lowOf 64 v 0) = ((v.getD 0 0).setWidth n).setWidth 64 := by
  rw [zext64, lowOf_64, ← BitVec.toNat_setWidth, BitVec.ofNat_toNat]

theorem sext64_lowOf (n : Nat) (v : List Word) : sext64 n (lowOf 64 v 0) = ((v.getD 0 0).setWidth n).signExtend 64 := by
  rw [sext64_eq_signExtend, lowOf_64, BitVec.ofNat_toNat]

end

section
variable (s : State) (d a b : Reg) (w : Bool)

theorem exec_add : exec (.add d a b w) s = aluWord (.add d a b w) d a b w s fun _ x y => x + y := rfl
theorem exec_sub : exec (.sub d a b w) s = aluWord (.sub d a b w) d a b w s fun n x y => x + 2 ^ n - y := rfl
theorem exec_and : exec (.and_ d a b w) s = aluWord (.and_ d a b w) d a b w s fun _ x y => x &&& y := rfl
theorem exec_or : exec (.or_ d a b w) s = aluWord (.or_ d a b w) d a b w s fun _ x y => x ||| y := rfl
theorem exec_xor : exec (.xor_ d a b w) s = aluWord (.xor_ d a b w) d a b w s fun _ x y => x ^^^ y := rfl
theorem exec_min : exec (.min d a b w) s = aluWord (.min d a b w) d a b w s minSigned := rfl
theorem exec_max : exec (.max d a b w) s = aluWord (.max d a b w) d a b w s maxSigned := rfl
theorem exec_minu : exec (.minu d a b w) s = aluWord (.minu d a b w) d a b w s fun _ x y => if x ≤ y then x else y := rfl
theorem exec_maxu : exec (.maxu d a b w) s = aluWord (.maxu d a b w) d a b w s fun _ x y => if x ≤ y then y else x := rfl
theorem exec_shl : exec (.shl d a b w) s = aluWord (.shl d a b w) d a b w s fun n x y => x * 2 ^ shiftBy n y := rfl
theorem exec_shr : exec (.shr d a b w) s = aluWord (.shr d a b w) d a b w s fun n x y => x / 2 ^ shiftBy n y := rfl
theorem exec_sra : exec (.sra d a b w) s = aluWord (.sra d a b w) d a b w s fun n x y => sraBits n x (shiftBy n y) := rfl
theorem exec_mul : exec (.mul d a b w) s = aluWord (.mul d a b w) d a b w s fun _ x y => x * y := rfl
theorem exec_mulh : exec (.mulh d a b w) s =
    aluWord (.mulh d a b w) d a b w s fun n x y => wrapInt (2 * n) (signedOf n x * signedOf n y) / 2 ^ n := rfl
theorem exec_mulhu : exec (.mulhu d a b w) s = aluWord (.mulhu d a b w) d a b w s fun n x y => x * y / 2 ^ n := rfl
theorem exec_div : exec (.div d a b w) s = aluWord (.div d a b w) d a b w s divSigned := rfl
theorem exec_divu : exec (.divu d a b w) s = aluWord (.divu d a b w) d a b w s divUnsigned := rfl
theorem exec_rem : exec (.rem d a b w) s = aluWord (.rem d a b w) d a b w s remSigned := rfl
theorem exec_remu : exec (.remu d a b w) s = aluWord (.remu d a b w) d a b w s fun _ x y => remUnsigned x y := rfl
theorem exec_clz : exec (.clz d a w) s =
    dataWord (.clz d a w) d [a] s fun v => zext64 64 (widthOf w - bitLength (widthOf w) (lowOf (widthOf w) v 0)) := rfl
theorem exec_popc : exec (.popc d a w) s =
    dataWord (.popc d a w) d [a] s fun v => zext64 64 (popCount (widthOf w) (lowOf (widthOf w) v 0)) := rfl
theorem exec_sel : exec (.sel d a b) s =
    dataWord (.sel d a b) d [a, b, d] s fun v => if v.getD 2 0 ≠ 0 then v.getD 0 0 else v.getD 1 0 := rfl
theorem exec_sext (c : ExtCode) : exec (.sext d a c) s = dataWord (.sext d a c) d [a] s fun v => sext64 (extBits c) (lowOf 64 v 0) := rfl
theorem exec_zext (c : ExtCode) : exec (.zext d a c) s = dataWord (.zext d a c) d [a] s fun v => zext64 (extBits c) (lowOf 64 v 0) := rfl
theorem exec_cmp (c : Cond) : exec (.cmp d a b w c) s = dataWord (.cmp d a b w c) d [a, b] s fun v =>
    boolWord (condHolds c (widthOf w) (lowOf (widthOf w) v 0) (lowOf (widthOf w) v 1)) := rfl
theorem exec_cmpi (c : Cond) (i : BitVec 10) : exec (.cmpi d a c i) s =
    dataWord (.cmpi d a c i) d [a] s fun v => boolWord (condHolds c 64 (lowOf 64 v 0) (sext64 10 i.toNat).toNat) := rfl

end

/-- Settles O2: each shift is an operation of its width, with the amount that R390 takes. -/
theorem integerShifts : Obligations.IntegerShifts := by
  unfold Obligations.IntegerShifts
  intro s d a b w x y
  exact ⟨givesData_aluWord (exec_shl s d a b w) rfl fun p q => ofNat_shl p _,
    givesData_aluWord (exec_shr s d a b w) rfl fun p q => ofNat_shr p _,
    givesData_aluWord (exec_sra s d a b w) rfl fun p q => ofNat_sra p _⟩

/-- Settles O3: the products and quotients on numbers are those on bit vectors, at every width. -/
theorem integerMulDiv : Obligations.IntegerMulDiv := by
  unfold Obligations.IntegerMulDiv
  intro s d a b w x y
  exact ⟨givesData_aluWord (exec_mul s d a b w) rfl ofNat_mul,
    givesData_aluWord (exec_mulh s d a b w) rfl ofNat_mulh,
    givesData_aluWord (exec_mulhu s d a b w) rfl ofNat_mulhu,
    givesData_aluWord (exec_div s d a b w) rfl ofNat_divSigned,
    givesData_aluWord (exec_divu s d a b w) rfl ofNat_divUnsigned,
    givesData_aluWord (exec_rem s d a b w) rfl ofNat_remSigned,
    givesData_aluWord (exec_remu s d a b w) rfl ofNat_remUnsigned⟩

/-- Settles O1: the words of R328 are operations of their width, and the others are data words whose values are those of R349,
R350, R388 and R389. -/
theorem integerArithmetic : Obligations.IntegerArithmetic := by
  unfold Obligations.IntegerArithmetic
  refine ⟨fun s d a b w => ?ofWidth, fun s d a b w c e i => ?others⟩
  case ofWidth =>
    intro x y
    exact ⟨givesData_aluWord (exec_add s d a b w) rfl ofNat_add,
      givesData_aluWord (exec_sub s d a b w) rfl ofNat_sub,
      givesData_aluWord (exec_and s d a b w) rfl ofNat_and,
      givesData_aluWord (exec_or s d a b w) rfl ofNat_or,
      givesData_aluWord (exec_xor s d a b w) rfl ofNat_xor,
      givesData_aluWord (exec_min s d a b w) rfl ofNat_minSigned,
      givesData_aluWord (exec_max s d a b w) rfl ofNat_maxSigned,
      givesData_aluWord (exec_minu s d a b w) rfl ofNat_minUnsigned,
      givesData_aluWord (exec_maxu s d a b w) rfl ofNat_maxUnsigned⟩
  case others =>
    intro x
    refine ⟨⟨?clz, ?popc⟩, ?sel, ?sext, ?zext, ?cmp, ?cmpi⟩
    case clz =>
      exact givesData_of_dataWord_eq (exec_clz s d a w) rfl
        (zext64_count (count := fun n y => n - bitLength n y) (f := fun _ y => y.clz) toNat_clz w _)
    case popc =>
      exact givesData_of_dataWord_eq (exec_popc s d a w) rfl (zext64_count (f := fun _ y => y.cpop) toNat_cpop w _)
    case sel => exact givesData_of_dataWord_eq (exec_sel s d a b) rfl rfl
    case sext =>
      refine givesData_of_dataWord_eq (exec_sext s d a e) rfl ((sext64_lowOf ..).trans ?_)
      cases e <;> rfl
    case zext =>
      refine givesData_of_dataWord_eq (exec_zext s d a e) rfl ((zext64_lowOf ..).trans ?_)
      cases e <;> rfl
    case cmp => exact givesData_of_dataWord_eq (exec_cmp s d a b w c) rfl (boolWord_condHolds c w _)
    case cmpi =>
      refine givesData_of_dataWord_eq (exec_cmpi s d a c i) rfl ?_
      rw [lowOf_64, condHolds_toNat, sext64_eq_signExtend, BitVec.ofNat_toNat, BitVec.setWidth_eq]
      rfl

end Sys2Proof.Proofs

namespace Sys2Proof.Proofs

open Sys2Proof Sys2Proof.Machine

/-! ### LOCQ.HOPS (R12, R298) -/

theorem ringDist_eq (p q : Nat) : ringDist p q = min ((p : Int) - q).natAbs (16 - ((p : Int) - q).natAbs) := by
  have habs : max p q - min p q = ((p : Int) - q).natAbs := by omega
  rw [ringDist, habs]

/-- No way along a side of the torus is longer than half of it. -/
theorem ringDist_le (p q : Nat) : ringDist p q ≤ 8 := by
  rw [ringDist]
  omega

/-- The fields of LOCQ.HOPS (R298). -/
theorem hopsWord_eq (k j : Nat) : hopsWord k j =
    (0 : BitVec 51) ++ BitVec.ofNat 5 (ringDist (torusX k) (torusX j) + ringDist (torusY k) (torusY j)) ++
      BitVec.ofNat 4 (ringDist (torusY k) (torusY j)) ++ BitVec.ofNat 4 (ringDist (torusX k) (torusX j)) := by
  have hx := ringDist_le (torusX k) (torusX j)
  have hy := ringDist_le (torusY k) (torusY j)
  rw [hopsWord]
  generalize ringDist (torusX k) (torusX j) = x at *
  generalize ringDist (torusY k) (torusY j) = y at *
  have hsum : (x + y) % 2 ^ 5 = x + y := Nat.mod_eq_of_lt (by omega)
  have hymod : y % 2 ^ 4 = y := Nat.mod_eq_of_lt (by omega)
  have hxmod : x % 2 ^ 4 = x := Nat.mod_eq_of_lt (by omega)
  refine BitVec.eq_of_toNat_eq ?_
  simp only [toNat_append_eq_add, BitVec.ofNat_eq_ofNat, BitVec.toNat_ofNat, hsum, hymod, hxmod]
  omega

theorem locqHops_gives {s : State} {d a : Reg} {c : Nat} (htarget : locqTarget s a (operand s [a] 0) = some c) :
    GivesData (.locqHops d a) d [a] s (hopsWord (clusterOf s.cur.1) (clusterOf c)) := by
  refine givesData_of_done (show exec (.locqHops d a) s = execLocqHops d a s from rfl) rfl ?_
  rw [operand] at htarget
  rw [htarget]

/-- Settles O25: the distances of the result are those along the two sides of the torus, at most half of one each, and they and
their sum stand in its fields. -/
theorem locqHops : Obligations.LocqHops := by
  unfold Obligations.LocqHops
  intro s d a v core k j dist hx hy _ htarget
  have hnamed : locqTarget s a v = some core := by
    refine htarget.elim (fun ha => ?_) id
    rw [ha, locqTarget_zero]
    simp only [core, ha, if_true]
  have hxeq : ringDist (torusX k) (torusX j) = hx := ringDist_eq _ _
  have hyeq : ringDist (torusY k) (torusY j) = hy := ringDist_eq _ _
  refine ⟨hxeq ▸ ringDist_le .., hyeq ▸ ringDist_le .., ?_⟩
  rw [← hxeq, ← hyeq, ← hopsWord_eq]
  exact locqHops_gives hnamed

/-! ### Jumps to a register's target (R341, R342) -/

section
variable {s : State} {t : Word}

theorem low_ne_zero_iff : t.toNat % 4 ≠ 0 ↔ t.extractLsb' 0 2 ≠ 0 := by
  rw [ne_eq, ne_eq, ← bitsAt_eq_zero_iff]
  simp [bitsAt]

theorem high_ne_zero_iff : t.toNat / 2 ^ 48 ≠ 0 ↔ t.extractLsb' 48 16 ≠ 0 := by
  have ht := t.isLt
  rw [ne_eq, ne_eq, ← bitsAt_eq_zero_iff, bitsAt]
  omega

theorem jumpTo_of_misaligned (h : t.extractLsb' 0 2 ≠ 0) (link dead : Bool) : jumpTo s t link dead = .trap 0x101 t :=
  if_pos (low_ne_zero_iff.2 h)

theorem jumpTo_of_high (hlow : t.extractLsb' 0 2 = 0) (h : t.extractLsb' 48 16 ≠ 0) (link dead : Bool) :
    jumpTo s t link dead = .trap 0x0C1 t := by
  rw [jumpTo, if_neg (mt low_ne_zero_iff.1 (not_not.2 hlow)), if_pos (high_ne_zero_iff.2 h)]

theorem jumpTo_of_not_dead (hlow : t.extractLsb' 0 2 = 0) (hhigh : t.extractLsb' 48 16 = 0) :
    jumpTo s t false false = .jump s (t.setWidth 48) := by
  rw [jumpTo, if_neg (mt low_ne_zero_iff.1 (not_not.2 hlow)), if_neg (mt high_ne_zero_iff.1 (not_not.2 hhigh))]
  rfl

end

theorem exec_jr (a : Reg) (s : State) : exec (.jr a) s =
    runWord (.jr a) { cs := [a] } s fun s vs => jumpTo s (src vs 0).data false false := rfl

/-- A word that jumps to its first source turns a misaligned target away, and then one outside the local addresses. -/
theorem jumpTo_traps {i : Instr} {o : OpSpec} {s : State} {link dead : Bool}
    (hexec : exec i s = runWord i o s fun s vs => jumpTo s (src vs 0).data link dead)
    (hissue : issuable i s = true) (hready : sourcesReady o s = true) (hplain : isSync i = false) :
    let t := operand s o.cs 0
    (t.extractLsb' 0 2 ≠ 0 → Traps i s 0x101 t) ∧
      (t.extractLsb' 0 2 = 0 → t.extractLsb' 48 16 ≠ 0 → Traps i s 0x0C1 t) :=
  ⟨fun hlow hsettled => hexec.trans
      (runWord_trap_of_sends hissue hready hplain (jumpTo_of_misaligned hlow ..) (by decide) hsettled),
    fun hlow hhigh hsettled => hexec.trans
      (runWord_trap_of_sends hissue hready hplain (jumpTo_of_high hlow hhigh ..) (by decide) hsettled)⟩

/-- The link is the word's own address plus 4 as a 64-bit value (R341). -/
theorem linkOf_eq (pc : Va) : linkOf pc = dataCap (pc.setWidth 64 + 4) := by
  refine congrArg dataCap (BitVec.eq_of_toNat_eq ?_)
  simp

@[simp] theorem data_dataCap (w : Word) : (dataCap w).data = w := by simp [dataCap, TCap.data]

/-- Settles O14: a target is turned away or reached, after the link and the dead marking where the word has them. -/
theorem callsAndJumps : Obligations.CallsAndJumps := by
  unfold Obligations.CallsAndJumps
  intro s a d link dies waits
  have hlink : linkOf s.me.pc = link := linkOf_eq s.me.pc
  have hdata : link.data = s.me.pc.setWidth 64 + 4 := data_dataCap _
  have hcregs : (s.put 30 link).myCore.cregs = s.myCore.cregs := cregs_modMe s _
  have hdies : killMe (s.put 30 link) = dies (s.put 30 link) := by rw [killMe, hcregs]
  refine ⟨?call, ?jr, ?callr, ?ret⟩
  case call =>
    intro hissue hready htakes hwaits
    rw [hdata] at htakes
    rw [call_jumps hissue hready htakes hwaits, hlink, hdies, branchTo_eq, signedOf_toNat]
    rfl
  case jr =>
    intro t hissue hready
    obtain ⟨hmisaligned, hforeign⟩ := jumpTo_traps (exec_jr a s) hissue hready rfl
    exact ⟨hmisaligned, hforeign, fun hlow hhigh => (exec_jr a s).trans
      (runWord_jump hissue hready (jumpTo_of_not_dead hlow hhigh) (fun _ h => nomatch h))⟩
  case callr =>
    intro t hissue hready
    obtain ⟨hmisaligned, hforeign⟩ := jumpTo_traps (exec_callr a s) hissue hready rfl
    refine ⟨hmisaligned, hforeign, fun hlow hhigh htakes hwaits => ?_⟩
    rw [hdata] at htakes
    rw [callr_jumps hissue hready htakes hlow hhigh hwaits, hlink, hdies]
  case ret =>
    intro t hissue hready
    obtain ⟨hmisaligned, hforeign⟩ := jumpTo_traps (exec_ret s) hissue hready rfl
    exact ⟨hmisaligned, hforeign, fun hlow hhigh hwaits => ret_jumps hissue hready hlow hhigh hwaits⟩

end Sys2Proof.Proofs

namespace Sys2Proof.Proofs

open Sys2Proof Sys2Proof.Machine

/-! ### Fields of a value of any width -/

theorem toNat_field {w : Nat} (v : BitVec w) (lo n : Nat) : (v.extractLsb' lo n).toNat = bitsAt v.toNat lo n := by
  rw [BitVec.extractLsb'_toNat, Nat.shiftRight_eq_div_pow, bitsAt]

theorem bitAt_toNat {w : Nat} (v : BitVec w) (k : Nat) : bitAt v.toNat k = v.getLsbD k := by
  rw [bitAt, bitsAt, BitVec.getLsbD, Nat.testBit_eq_decide_div_mod_eq]
  rfl

/-! ### E4M3 (R252) -/

/-- The number that is no NaN or infinity, as a rational. -/
def ratOf : FNum → Option ℚ
  | .num n k q => some ((if n then -1 else 1) * k * (2 : ℚ) ^ q)
  | _ => none

/-- The three cases of R252 by the fields of the byte. -/
theorem decode43_eq (x : BitVec 8) : decode43 x.toNat =
    if (x.extractLsb' 3 4).toNat = 15 ∧ (x.extractLsb' 0 3).toNat = 7 then .nan false
    else if (x.extractLsb' 3 4).toNat = 0 then .num (x.getLsbD 7) (x.extractLsb' 0 3).toNat (-9)
    else .num (x.getLsbD 7) (8 + (x.extractLsb' 0 3).toNat) ((x.extractLsb' 3 4).toNat - 10) := by
  simp only [toNat_field, ← bitAt_toNat, decode43, Bool.and_eq_true, decide_eq_true_eq]

theorem ratOf_subnormal (neg : Bool) (m : Nat) :
    ratOf (.num neg m (-9)) = some ((if neg then -1 else 1) * (2 : ℚ) ^ (-6 : ℤ) * (m / 8)) := by
  have hpow : (2 : ℚ) ^ (-9 : ℤ) = (2 : ℚ) ^ (-6 : ℤ) / 8 := by norm_num
  rw [ratOf, hpow]
  ring_nf

theorem ratOf_normal (neg : Bool) (m e : Nat) :
    ratOf (.num neg (8 + m) ((e : ℤ) - 10)) = some ((if neg then -1 else 1) * (2 : ℚ) ^ ((e : ℤ) - 7) * (1 + m / 8)) := by
  have hpow : (2 : ℚ) ^ ((e : ℤ) - 10) = (2 : ℚ) ^ ((e : ℤ) - 7) / 8 := by
    rw [show (e : ℤ) - 10 = (e - 7) - 3 by ring, zpow_sub₀ two_ne_zero]
    norm_num
  rw [ratOf, hpow, Nat.cast_add]
  push_cast
  ring_nf

/-- Settles O9: the byte is decoded by its fields, and each case has the value that R252 gives. -/
theorem e4M3Values : Obligations.E4M3Values := by
  unfold Obligations.E4M3Values
  intro x sgn e m value
  have hvalue : ∀ v, value v = ratOf v := fun v => by cases v <;> rfl
  refine ⟨fun he => ?subnormal, fun he hnan => ?normal, fun he hm => ?notANumber⟩
  case subnormal =>
    have hnan : ¬(e = 15 ∧ m = 7) := by omega
    rw [hvalue, decode43_eq, if_neg hnan, if_pos he]
    exact ratOf_subnormal _ _
  case normal =>
    have hne : ¬ e = 0 := by omega
    rw [hvalue, decode43_eq, if_neg hnan, if_neg hne]
    exact ratOf_normal _ _ _
  case notANumber => rw [decode43_eq, if_pos ⟨he, hm⟩]

/-! ### The ends of a word with flags (R69, R128) -/

/-- A word with ready sources whose operation raises a cause and keeps a change comes to that, where its destination raises none. -/
theorem runOps_trapWith {o : OpSpec} {s t : State} {body : State → List TCap → WordRes} {c : Nat} {v : Word}
    (hready : sourcesReady o s = true) (hsends : o.sends = false) (hbody : body s (readSources s.me o.cs) = .trapWith t c v)
    (hdest : ∀ d, o.dc = some d → destGate s d none = .go) : runOps o s body = .trapWith t c v := by
  simp only [sourcesReady, Bool.and_eq_true, Bool.not_eq_true', beq_iff_eq] at hready
  obtain ⟨hgate, hecc⟩ := hready
  have hgo : (o.dc.map fun d => destGate s d ((WordRes.trapWith t c v).element s d)).getD .go = .go := by
    cases hdc : o.dc with
    | none => rfl
    | some d => exact hdest d hdc
  have hown : firstCause ((ownCauses o s .go (.trapWith t c v) .go ++ [none]).filterMap id) = some (.trapWith t c v) := by
    simp [ownCauses, hsends, Gate.cause, firstCause, WordRes.rank]
  simp only [runOps, hgate, hecc, hbody, hgo, Bool.false_eq_true, if_false, hown]

/-- Such a word traps in the state that it keeps. -/
theorem runWord_trapWith_kept {i : Instr} {o : OpSpec} {s t : State} {body : State → List TCap → WordRes} {c : Nat} {v : Word}
    (hissue : issuable i s = true) (hready : sourcesReady o s = true) (hplain : isSync i = false) (hsends : o.sends = false)
    (hbody : body s (readSources s.me o.cs) = .trapWith t c v) (hdest : ∀ d, o.dc = some d → destGate s d none = .go)
    (hsettled : s.me.settled = true) : runWord i o s body = .next (takeTrap t t.cur.1 t.cur.2 c v) := by
  rw [runWord_of_issuable hissue, runOps_trapWith hready hsends hbody hdest, complete, recordSync_plain hplain, raise, if_pos hsettled]
  rfl

/-- The state in which FPC has the flags of an operation (R69). -/
def flagged (s : State) (fl : FFlags) : State := s.modMe fun c => { c with fpc := fpcRaise c.fpc fl }

/-- A scalar floating-point word with result `r` and flags `fl`: it completes, or an enabled flag traps (R128, R355). -/
theorem fpWord_ends {i : Instr} {d : Reg} {cs : List Reg} {s : State} {f : Rm → List Word → Word × FFlags} {r : Word} {fl : FFlags}
    (hexec : exec i s = fpWord i d cs s f) (hplain : isSync i = false)
    (hvalue : f (fpcRm s.me.fpc) ((readSources s.me cs).map TCap.data) = (r, fl)) (hissue : issuable i s = true)
    (hready : sourcesReady { cs := cs, dc := some d } s = true) :
    (fpTrap s.me.fpc fl = none → takes s d r = true → exec i s = .next (completed ((flagged s fl).putData d r) cs)) ∧
    (∀ n, fpTrap s.me.fpc fl = some n → s.me.settled = true → destGate s d none = .go →
      exec i s = .next (takeTrap (flagged s fl) (flagged s fl).cur.1 (flagged s fl).cur.2 (0x140 + n) 0)) := by
  have hstreams : (flagged s fl).me.streams = s.me.streams := by rw [flagged, me_modMe]
  rw [hexec, fpWord]
  refine ⟨fun hquiet htakes => ?_, fun n htrap hsettled hdest => ?_⟩
  · rw [runWord_done (o := { cs := cs, dc := some d }) (t := (flagged s fl).putData d r) hissue hready, recordSync_plain hplain]
    · simp only [hvalue, hquiet]
      rfl
    · rintro _ ⟨⟩
      exact destGate_putData hstreams htakes
  · refine runWord_trapWith_kept (t := flagged s fl) hissue hready hplain rfl ?_ ?_ hsettled
    · simp only [hvalue, htrap]
      rfl
    · rintro _ ⟨⟩
      exact hdest

/-! ### Special values (R356) -/

section
variable (F : Fmt) (rm : Rm) {x y z : FNum}

theorem addX_of_nan (h : x.isNan ∨ y.isNan) : addX rm x y = nanOp (x.isSig || y.isSig) := by
  cases x <;> cases y <;> simp_all [addX, FNum.isNan, FNum.isSig]

theorem mulX_of_nan (h : x.isNan ∨ y.isNan) : mulX x y = nanOp (x.isSig || y.isSig) := by
  cases x <;> cases y <;> simp_all [mulX, FNum.isNan, FNum.isSig]

theorem divide_of_nan (h : x.isNan ∨ y.isNan) : F.divide rm x y = F.finish rm (nanOp (x.isSig || y.isSig)) := by
  cases x <;> cases y <;> simp_all [Fmt.divide, FNum.isNan, FNum.isSig]

theorem isNan_neg : x.neg.isNan = x.isNan := by cases x <;> rfl
theorem isSig_neg : x.neg.isSig = x.isSig := by cases x <;> rfl

theorem fmaX_of_nan (h : x.isNan ∨ y.isNan ∨ z.isNan) : (fmaX rm x y z).val = .nan false := by
  by_cases hp : (mulX x y).val.isNan
  · rw [fmaX, if_pos hp]
  · have hxy : ¬(x.isNan ∨ y.isNan) := fun hxy => hp (by rw [mulX_of_nan hxy]; rfl)
    have hz : z.isNan := h.elim (fun hx => absurd (.inl hx) hxy) fun h => h.resolve_left fun hy => hxy (.inr hy)
    rw [fmaX, if_neg hp, addX_of_nan rm (.inr hz)]
    rfl

theorem eq_nan_of_isNan (h : x.isNan) : ∃ sg, x = .nan sg := by
  cases x with
  | nan sg => exact ⟨sg, rfl⟩
  | inf | num => exact nomatch h

theorem finish_fst_of_nan {e : Exact} (h : e.val = .nan false) : (F.finish rm e).1 = F.nanBits := by
  rw [Fmt.finish, h]
  rfl

/-- Opposite numbers cancel to a zero whose sign the rounding mode gives. -/
theorem addNum_opposite (zneg a : Bool) (m : Nat) (e : Int) : addNum zneg a m e (!a) m e = .num zneg 0 0 := by
  have hcancel : signedMant a m + signedMant (!a) m = 0 := by cases a <;> simp [signedMant]
  have hsign : (a == !a) = false := by cases a <;> rfl
  simp [addNum, hcancel, hsign]

theorem minmax_of_nan_left {a b : Nat} (isMax : Bool) (ha : (F.decode a).isNan) (hb : ¬(F.decode b).isNan) : (F.minmax isMax a b).1 = b := by
  simp [Fmt.minmax, ha, hb]

theorem minmax_of_nan_right {a b : Nat} (isMax : Bool) (ha : ¬(F.decode a).isNan) (hb : (F.decode b).isNan) : (F.minmax isMax a b).1 = a := by
  simp [Fmt.minmax, ha, hb]

end

/-! ### The scalar words (R355, R357, R358) -/

section
variable (s : State) (d a b : Reg) (f : FpFmt)

theorem exec_fadd : exec (.fadd d a b f) s = fpArith (.fadd d a b f) d [a, b] f .add s := rfl
theorem exec_fsub : exec (.fsub d a b f) s = fpArith (.fsub d a b f) d [a, b] f .sub s := rfl
theorem exec_fmul : exec (.fmul d a b f) s = fpArith (.fmul d a b f) d [a, b] f .mul s := rfl
theorem exec_fdiv : exec (.fdiv d a b f) s = fpArith (.fdiv d a b f) d [a, b] f .div s := rfl
theorem exec_fsqrt : exec (.fsqrt d a f) s = fpArith (.fsqrt d a f) d [a] f .sqrt s := rfl
theorem exec_fmin : exec (.fmin d a b f) s = fpArith (.fmin d a b f) d [a, b] f .min s := rfl
theorem exec_fmax : exec (.fmax d a b f) s = fpArith (.fmax d a b f) d [a, b] f .max s := rfl
theorem exec_ffma : exec (.ffma d a b f) s = fpArith (.ffma d a b f) d [a, b, d] f .fma s := rfl
theorem exec_fcvt (c : FcvtCode) : exec (.fcvt d a c f) s =
    fpWord (.fcvt d a c f) d [a] s fun rm v => fcvt rm c f (v.getD 0 0).toNat := rfl
theorem exec_fcmp (c : FcmpOp) : exec (.fcmp d a b f c) s = execFcmp d a b f c s := rfl

end

/-- The low bits of a source that a scalar word of format F reads (R75). -/
def fpSource (s : State) (F : Fmt) (cs : List Reg) (n : Nat) : Nat := (operand s cs n).toNat % 2 ^ F.bits

theorem fpSource_eq (s : State) (F : Fmt) (cs : List Reg) (n : Nat) :
    (((readSources s.me cs).map TCap.data).getD n 0).toNat % 2 ^ F.bits = fpSource s F cs n := by
  change (((readSources s.me cs).map TCap.data).getD n (TCap.data {})).toNat % 2 ^ F.bits = _
  rw [List.getD_map]
  rfl

/-- An arithmetic word ends with the operation on the low bits of its sources. -/
theorem fpArith_ends {i : Instr} {d : Reg} {cs : List Reg} {f : FpFmt} {o : FpOp} {s : State}
    (hexec : exec i s = fpArith i d cs f o s) (hplain : isSync i = false) (hissue : issuable i s = true)
    (hready : sourcesReady { cs := cs, dc := some d } s = true) :
    let F := fpFmtOf f
    let r := F.apply (fpcRm s.me.fpc) o (fpSource s F cs 0) (fpSource s F cs 1) (fpSource s F cs 2)
    let t := flagged s r.2
    (fpTrap s.me.fpc r.2 = none → takes s d (zext64 F.bits r.1) = true →
      exec i s = .next (completed (t.putData d (zext64 F.bits r.1)) cs)) ∧
    (∀ n, fpTrap s.me.fpc r.2 = some n → s.me.settled = true → destGate s d none = .go →
      exec i s = .next (takeTrap t t.cur.1 t.cur.2 (0x140 + n) 0)) := by
  intro F r t
  refine fpWord_ends hexec hplain ?_ hissue hready
  simp only [fpSource_eq]
  rfl

theorem fcmp_ends {d a b : Reg} {f : FpFmt} {c : FcmpOp} {s : State} (hissue : issuable (.fcmp d a b f c) s = true)
    (hready : sourcesReady { cs := [a, b], dc := some d } s = true) :
    let F := fpFmtOf f
    let r := fcmpX c (F.decode (fpSource s F [a, b] 0)) (F.decode (fpSource s F [a, b] 1))
    let w : Word := if r.1 then 1 else 0
    let t := flagged s r.2
    (fpTrap s.me.fpc r.2 = none → takes s d w = true → exec (.fcmp d a b f c) s = .next (completed (t.putData d w) [a, b])) ∧
    (∀ n, fpTrap s.me.fpc r.2 = some n → s.me.settled = true → destGate s d none = .go →
      exec (.fcmp d a b f c) s = .next (takeTrap t t.cur.1 t.cur.2 (0x140 + n) 0)) := by
  intro F r w t
  refine fpWord_ends (exec_fcmp s d a b f c) rfl ?_ hissue hready
  simp only [fpSource_eq]
  rfl

/-- Settles O8: every word ends as one with flags does, and the special values are those of the exact operations. -/
theorem scalarFloat : Obligations.ScalarFloat := by
  unfold Obligations.ScalarFloat
  refine ⟨fun s d a b f c k => ?words, fun F rm x y z => ?special⟩
  case words =>
    intro rm F v ends arith
    refine ⟨fpArith_ends (exec_fadd s d a b f) rfl, fpArith_ends (exec_fsub s d a b f) rfl, fpArith_ends (exec_fmul s d a b f) rfl,
      fpArith_ends (exec_fdiv s d a b f) rfl, fpArith_ends (exec_fsqrt s d a f) rfl, fpArith_ends (exec_fmin s d a b f) rfl,
      fpArith_ends (exec_fmax s d a b f) rfl, fpArith_ends (exec_ffma s d a b f) rfl, ?cmp, fpWord_ends (exec_fcvt s d a f k) rfl rfl⟩
    case cmp => cases c <;> exact fcmp_ends
  case special =>
    intro X Y nan
    obtain ⟨hX, hY⟩ : F.decode x = X ∧ F.decode y = Y := ⟨rfl, rfl⟩
    refine ⟨fun h o ho => ?nanOperand, fun h => finish_fst_of_nan F rm (fmaX_of_nan rm h), fun h => ?rootOfNan, fun a hx hy => ?subInf,
      fun a hx hy => ?addInf, fun a b e hx hy => ?mulInf, fun a b e e' hx hy => ?zeroByZero, fun a b hx hy => ?infByInf,
      fun a b m e e' hx hy => ?byZero, fun m e hx => ?root, fun a m e hx hy => ?cancel, fun o ho hx hy => ?second,
      fun o ho hx hy => ?first⟩
    case nanOperand =>
      obtain rfl | rfl | rfl | rfl := ho
      · rw [Fmt.apply, addX_of_nan rm h]; exact ⟨rfl, rfl⟩
      · rw [Fmt.apply, addX_of_nan rm (by rwa [isNan_neg]), isSig_neg]; exact ⟨rfl, rfl⟩
      · rw [Fmt.apply, mulX_of_nan h]; exact ⟨rfl, rfl⟩
      · rw [Fmt.apply, divide_of_nan F rm h]; exact ⟨rfl, rfl⟩
    case rootOfNan =>
      obtain ⟨sg, hx⟩ := eq_nan_of_isNan h
      rw [Fmt.apply, hX, hx]; exact ⟨rfl, rfl⟩
    case subInf => rw [Fmt.apply, hX, hY, hx, hy]; cases a <;> rfl
    case addInf => rw [Fmt.apply, hX, hY, hx, hy]; cases a <;> rfl
    case mulInf => rw [Fmt.apply, hX, hY, hx, hy]; rfl
    case zeroByZero => rw [Fmt.apply, hX, hY, hx, hy]; rfl
    case infByInf => rw [Fmt.apply, hX, hY, hx, hy]; rfl
    case byZero => rw [Fmt.apply, hX, hY, hx, hy]; rfl
    case root => rw [Fmt.apply, hX, hx]; rfl
    case cancel => rw [Fmt.apply, hX, hY, hx, hy, addX, addNum_opposite]; rfl
    case second => obtain rfl | rfl := ho <;> exact minmax_of_nan_left F _ hx hy
    case first => obtain rfl | rfl := ho <;> exact minmax_of_nan_right F _ hx hy

end Sys2Proof.Proofs

namespace Sys2Proof.Proofs

open Sys2Proof Sys2Proof.Machine

/-! ### The fields of a capability (R103, R104) -/

/-- A field of a value is that of the number it is made from. -/
theorem bitsAt_toNat_ofNat {width : Nat} (w : Nat) {lo n : Nat} (h : lo + n ≤ width) :
    bitsAt (BitVec.ofNat width w).toNat lo n = bitsAt w lo n := by
  refine Nat.eq_of_testBit_eq fun j => ?_
  rw [testBit_bitsAt, testBit_bitsAt, BitVec.toNat_ofNat, Nat.testBit_mod_two_pow]
  by_cases hj : j < n
  · rw [decide_eq_true (show lo + j < width by omega), Bool.true_and]
  · simp [hj]

section
variable (perms g down up addr : Nat)

/-- A capability from its fields has them. -/
theorem mkCap_eq : mkCap perms g down up addr =
    BitVec.ofNat 11 perms ++ BitVec.ofNat 5 g ++ BitVec.ofNat 24 down ++ BitVec.ofNat 24 up ++ BitVec.ofNat 64 addr := by
  refine BitVec.eq_of_toNat_eq ?_
  simp only [mkCap, toNat_append_eq_add, BitVec.toNat_ofNat]
  omega

theorem capAddr_mkCap : capAddr (mkCap perms g down up addr) = addr % 2 ^ 64 := by
  simp only [capAddr, bitsAt, mkCap_eq, toNat_append_eq_add, BitVec.toNat_ofNat]
  omega
theorem capUp_mkCap : capUp (mkCap perms g down up addr) = up % 2 ^ 24 := by
  simp only [capUp, bitsAt, mkCap_eq, toNat_append_eq_add, BitVec.toNat_ofNat]
  omega
theorem capDown_mkCap : capDown (mkCap perms g down up addr) = down % 2 ^ 24 := by
  simp only [capDown, bitsAt, mkCap_eq, toNat_append_eq_add, BitVec.toNat_ofNat]
  omega
theorem capG_mkCap : capG (mkCap perms g down up addr) = g % 2 ^ 5 := by
  simp only [capG, bitsAt, mkCap_eq, toNat_append_eq_add, BitVec.toNat_ofNat]
  omega
theorem capPerms_mkCap : capPerms (mkCap perms g down up addr) = perms % 2 ^ 11 := by
  simp only [capPerms, bitsAt, mkCap_eq, toNat_append_eq_add, BitVec.toNat_ofNat]
  omega

end

theorem capAddr_lt (c : Cap) : capAddr c < 2 ^ 64 := Nat.mod_lt _ (by decide)
theorem capPerms_lt (c : Cap) : capPerms c < 2 ^ 11 := Nat.mod_lt _ (by decide)

/-! ### CBND (R346) -/

/-- Granule exponent g encodes the extent [b, b + len) exactly. -/
def granuleFits (b len g : Nat) : Prop := 1 ≤ len ∧ len ≤ (2 ^ 24 - 1) * 2 ^ g ∧ b % 2 ^ g = 0 ∧ (b + len) % 2 ^ g = 0

theorem granFor_spec (b len : Nat) :
    (∀ g, granFor b (b + len) = some g → g ≤ 24 ∧ granuleFits b len g) ∧
    (granFor b (b + len) = none ↔ ∀ g ≤ 24, ¬granuleFits b len g) := by
  have htest : ∀ g, (1 ≤ b + len - b && b + len - b ≤ (2 ^ 24 - 1) * 2 ^ g && b % 2 ^ g == 0 && (b + len) % 2 ^ g == 0) = true ↔
      granuleFits b len g := fun g => by simp [granuleFits, and_assoc]
  refine ⟨fun g h => ?_, ?_⟩
  · rw [granFor] at h
    have hfits := List.find?_some h
    exact ⟨Nat.le_of_lt_succ (List.mem_range.1 (List.mem_of_find?_eq_some h)), (htest g).1 hfits⟩
  · simp only [granFor, List.find?_eq_none, htest, List.mem_range, Nat.lt_succ_iff]

/-- The capability of an extent that the granule encodes decodes to it (R346). -/
theorem capBounds_mkCap {b len g : Nat} (perms : Nat) (hb : b < 2 ^ 64) (hg : g ≤ 24) (hfits : granuleFits b len g) :
    capBounds (mkCap perms g 0 (len / 2 ^ g) b) = ((b : Int), ((b + len : Nat) : Int)) := by
  obtain ⟨-, hlen, hbase, htop⟩ := hfits
  have hunits : len / 2 ^ g < 2 ^ 24 :=
    Nat.lt_of_le_of_lt (Nat.div_le_of_le_mul (by rwa [Nat.mul_comm] at hlen)) (by decide)
  have hexact : len / 2 ^ g * 2 ^ g = len :=
    Nat.div_mul_cancel ((Nat.dvd_add_right (Nat.dvd_of_mod_eq_zero hbase)).1 (Nat.dvd_of_mod_eq_zero htop))
  rw [capBounds, capAddr_mkCap, capUp_mkCap, capDown_mkCap, capG_mkCap, Nat.mod_eq_of_lt hb, Nat.mod_eq_of_lt hunits,
    Nat.mod_eq_of_lt (show g < 2 ^ 5 by omega), hbase, hexact]
  simp

section
variable {a : TCap} {len : Nat}

theorem cbnd_of_untagged (h : a.tag = false) : cbnd a len = .error (0x081, BitVec.ofNat 64 (capAddr a.val)) := by
  simp [cbnd, h]

variable (htag : a.tag = true)
include htag

theorem cbnd_of_outside (h : (capAddr a.val : Int) < (capBounds a.val).1 ∨ ((capAddr a.val + len : Nat) : Int) > (capBounds a.val).2) :
    cbnd a len = .error (0x082, BitVec.ofNat 64 (capAddr a.val)) := by
  simp only [cbnd, htag, Bool.not_true, Bool.false_eq_true, if_false, Bool.or_eq_true, decide_eq_true_eq, if_pos h]

variable (hbase : (capBounds a.val).1 ≤ capAddr a.val) (htop : ((capAddr a.val + len : Nat) : Int) ≤ (capBounds a.val).2)
include hbase htop

/-- The check of the bounds passes. -/
theorem cbnd_in_bounds : (!a.tag) = false ∧
    ((capAddr a.val : Int) < (capBounds a.val).1 || ((capAddr a.val + len : Nat) : Int) > (capBounds a.val).2) = false := by
  simp [htag, hbase]
  omega

theorem cbnd_of_no_granule (h : ∀ g ≤ 24, ¬granuleFits (capAddr a.val) len g) :
    cbnd a len = .error (0x084, BitVec.ofNat 64 (capAddr a.val)) := by
  obtain ⟨htagged, hinside⟩ := cbnd_in_bounds htag hbase htop
  simp only [cbnd, htagged, hinside, Bool.false_eq_true, if_false, (granFor_spec _ _).2.2 h]

theorem cbnd_of_granFor {g : Nat} (hgran : granFor (capAddr a.val) (capAddr a.val + len) = some g) (hend : capAddr a.val + len ≤ 2 ^ 64) :
    cbnd a len = .ok { val := mkCap (capPerms a.val) g 0 (len / 2 ^ g) (capAddr a.val), tag := true } := by
  obtain ⟨htagged, hinside⟩ := cbnd_in_bounds htag hbase htop
  simp only [cbnd, htagged, hinside, Bool.false_eq_true, if_false, hgran, gt_iff_lt, if_neg (Nat.not_lt.2 hend)]

/-- An extent that a granule encodes gives a tagged capability of just that extent. -/
theorem cbnd_of_granule (h : ∃ g ≤ 24, granuleFits (capAddr a.val) len g) (hend : capAddr a.val + len ≤ 2 ^ 64) :
    ∃ r, cbnd a len = .ok r ∧ r.tag = true ∧ capBounds r.val = ((capAddr a.val : Int), ((capAddr a.val + len : Nat) : Int)) ∧
      capAddr r.val = capAddr a.val ∧ capPerms r.val = capPerms a.val := by
  obtain ⟨g, hg, hfits⟩ := h
  cases hgran : granFor (capAddr a.val) (capAddr a.val + len) with
  | none => exact absurd hfits ((granFor_spec _ _).2.1 hgran g hg)
  | some g =>
    obtain ⟨hg, hfits⟩ := (granFor_spec _ _).1 g hgran
    refine ⟨_, cbnd_of_granFor htag hbase htop hgran hend, rfl, capBounds_mkCap _ (capAddr_lt _) hg hfits, ?_, ?_⟩
    · rw [capAddr_mkCap, Nat.mod_eq_of_lt (capAddr_lt _)]
    · rw [capPerms_mkCap, Nat.mod_eq_of_lt (capPerms_lt _)]

end

theorem exec_cbnd (d a b : Reg) (s : State) : exec (.cbnd d a b) s = execCbnd d a b s := rfl

theorem cbnd_traps {s : State} {d a b : Reg} {c : Nat} {w : Word} (hissue : issuable (.cbnd d a b) s = true)
    (hready : sourcesReady { cs := [a, b], dc := some d } s = true)
    (hfault : cbnd (src (readSources s.me [a, b]) 0) (src (readSources s.me [a, b]) 1).data.toNat = .error (c, w))
    (hrank : causeRank c < 4) : Traps (.cbnd d a b) s c w := by
  refine fun hsettled => (exec_cbnd d a b s).trans (runWord_trap_of_sends hissue hready rfl ?_ hrank hsettled)
  simp only [hfault]

theorem cbnd_completes {s : State} {d a b : Reg} {r : TCap} (hissue : issuable (.cbnd d a b) s = true)
    (hready : sourcesReady { cs := [a, b], dc := some d } s = true)
    (hok : cbnd (src (readSources s.me [a, b]) 0) (src (readSources s.me [a, b]) 1).data.toNat = .ok r)
    (htakes : takes s d r.data = true) : exec (.cbnd d a b) s = .next (completed (s.put d r) [a, b]) := by
  rw [exec_cbnd, execCbnd, runWord_done (o := { cs := [a, b], dc := some d }) (t := s.put d r) hissue hready, recordSync_plain rfl]
  · simp only [hok]
  · rintro _ ⟨⟩
    exact destGate_put s d r htakes

/-- The data half of a capability is its address (R55, R103). -/
theorem data_eq_ofNat_capAddr (c : TCap) : c.data = BitVec.ofNat 64 (capAddr c.val) := by
  refine BitVec.eq_of_toNat_eq ?_
  rw [TCap.data, capAddr, bitsAt, BitVec.toNat_setWidth, BitVec.toNat_ofNat]
  simp

/-! ### CPERM (R347) -/

theorem cperm_eq (a : TCap) (m : TCap) : cperm a m.data.toNat =
    { val := (a.val.extractLsb' 117 11 &&& m.val.extractLsb' 0 11) ++ a.val.extractLsb' 0 117, tag := a.tag } := by
  refine congrArg (fun v => TCap.mk v a.tag) (BitVec.eq_of_getLsbD_eq fun j hj => ?_)
  have hperms : (capPerms a.val &&& m.data.toNat % 2 ^ 11).testBit (j - 117) =
      (a.val.extractLsb' 117 11 &&& m.val.extractLsb' 0 11).getLsbD (j - 117) := by
    rw [Nat.testBit_and, capPerms, testBit_bitsAt, Nat.testBit_mod_two_pow, BitVec.getLsbD_and, BitVec.getLsbD_extractLsb',
      BitVec.getLsbD_extractLsb', TCap.data, BitVec.toNat_setWidth, Nat.testBit_mod_two_pow, Nat.zero_add]
    by_cases hin : j - 117 < 11
    · simp [hin, show j - 117 < 64 by omega, BitVec.getLsbD]
    · simp [hin]
  rw [BitVec.getLsbD_ofNat, testBit_putBits, hperms, BitVec.getLsbD_append, BitVec.getLsbD_extractLsb']
  by_cases hlow : j < 117
  · rw [if_neg (by omega), if_pos hlow]
    simp [hlow, hj, BitVec.getLsbD]
  · rw [if_pos (by omega), if_neg hlow, decide_eq_true hj, Bool.true_and]

/-- Settles O6: the checks of R346 in their order, and the extent of what CBND gives; CPERM replaces the permission field. -/
theorem capabilityNarrowing : Obligations.CapabilityNarrowing := by
  unfold Obligations.CapabilityNarrowing
  intro s d a b v c len lo i o
  refine ⟨fun hissue hready => ⟨fun htag => ?untagged, fun htag hout => ?outside, fun htag hbase htop hno => ?noGranule,
    fun htag hbase htop hend hgran htakes => ?narrowed⟩, ?perm⟩
  case untagged => exact cbnd_traps hissue hready (cbnd_of_untagged htag) (by decide)
  case outside => exact cbnd_traps hissue hready (cbnd_of_outside htag hout) (by decide)
  case noGranule => exact cbnd_traps hissue hready (cbnd_of_no_granule htag hbase htop hno) (by decide)
  case narrowed =>
    obtain ⟨r, hok, hrtag, hbounds, haddr, hperms⟩ := cbnd_of_granule htag hbase htop hgran hend
    have hdata : r.data = BitVec.ofNat 64 lo := by rw [data_eq_ofNat_capAddr, haddr]
    exact ⟨r, cbnd_completes hissue hready hok (by rwa [hdata]), hrtag, hbounds, haddr, hperms⟩
  case perm =>
    rw [← cperm_eq]
    exact givesCap_word (f := fun _ vs => cperm (src vs 0) (src vs 1).data.toNat) rfl rfl

/-! ### A capability with a new address (R347) -/

/-- The new address rounded down to the capability's granule. -/
def movedAnchor (c : Cap) (na : Word) : Nat := na.toNat - na.toNat % 2 ^ capG c

/-- The new address keeps the capability representable: it is tagged, and the rounded address lies in its bounds. -/
def staysTagged (a : TCap) (na : Word) : Prop :=
  a.tag = true ∧ (capBounds a.val).1 ≤ movedAnchor a.val na ∧ (movedAnchor a.val na : Int) ≤ (capBounds a.val).2

/-- The granules from the base to the new address, and from it to the top. -/
def movedDown (a : TCap) (na : Word) : Nat := ((movedAnchor a.val na - (capBounds a.val).1) / (2 ^ capG a.val : Nat)).toNat
def movedUp (a : TCap) (na : Word) : Nat := (((capBounds a.val).2 - movedAnchor a.val na) / (2 ^ capG a.val : Nat)).toNat

section
variable {a : TCap} {na : Word}

theorem cmove_of_stays (h : staysTagged a na) : cmove a na =
    { val := BitVec.ofNat 128 (putBits (putBits (putBits a.val.toNat 0 64 na.toNat) 88 24 (movedDown a na)) 64 24 (movedUp a na)),
      tag := true } := by
  obtain ⟨htag, hbase, htop⟩ := h
  rw [movedAnchor] at hbase htop
  simp only [cmove, htag, Bool.true_and, Bool.and_eq_true, decide_eq_true_eq, hbase, htop, and_self, if_true]
  simp [movedDown, movedUp, movedAnchor]

theorem cmove_of_not_stays (h : ¬staysTagged a na) : cmove a na =
    { val := BitVec.ofNat 128 (putBits a.val.toNat 0 64 na.toNat), tag := false } := by
  have hcond : (a.tag && decide ((capBounds a.val).1 ≤ (movedAnchor a.val na : Int)) &&
      decide ((movedAnchor a.val na : Int) ≤ (capBounds a.val).2)) ≠ true := by
    simpa [staysTagged, and_assoc] using h
  simp only [cmove]
  exact if_neg hcond

/-- The granule and the permissions are as they were. -/
theorem bitsAt_cmove {lo n : Nat} (hlo : 112 ≤ lo) (hn : lo + n ≤ 128) (a : TCap) (na : Word) :
    bitsAt (cmove a na).val.toNat lo n = bitsAt a.val.toNat lo n := by
  by_cases h : staysTagged a na
  · rw [cmove_of_stays h, bitsAt_toNat_ofNat _ hn, bitsAt_putBits_of_disjoint (by omega), bitsAt_putBits_of_disjoint (by omega),
      bitsAt_putBits_of_disjoint (by omega)]
  · rw [cmove_of_not_stays h, bitsAt_toNat_ofNat _ hn, bitsAt_putBits_of_disjoint (by omega)]

theorem capPerms_cmove (a : TCap) (na : Word) : capPerms (cmove a na).val = capPerms a.val := bitsAt_cmove (by decide) (by decide) a na

theorem capG_cmove (a : TCap) (na : Word) : capG (cmove a na).val = capG a.val := bitsAt_cmove (by decide) (by decide) a na

theorem capAddr_cmove (a : TCap) (na : Word) : capAddr (cmove a na).val = na.toNat := by
  have hna : na.toNat % 2 ^ 64 = na.toNat := Nat.mod_eq_of_lt na.isLt
  rw [capAddr]
  by_cases h : staysTagged a na
  · rw [cmove_of_stays h, bitsAt_toNat_ofNat _ (by decide), bitsAt_putBits_of_disjoint (by decide),
      bitsAt_putBits_of_disjoint (by decide), bitsAt_putBits_same, hna]
  · rw [cmove_of_not_stays h, bitsAt_toNat_ofNat _ (by decide), bitsAt_putBits_same, hna]

theorem data_cmove (a : TCap) (na : Word) : (cmove a na).data = na := by
  rw [data_eq_ofNat_capAddr, capAddr_cmove, BitVec.ofNat_toNat, BitVec.setWidth_eq]

theorem tag_cmove_iff : (cmove a na).tag = true ↔ staysTagged a na := by
  by_cases h : staysTagged a na
  · simp [cmove_of_stays h, h]
  · simp [cmove_of_not_stays h, h]

/-- A capability that loses its tag keeps its high half. -/
theorem high_cmove (h : (cmove a na).tag = false) : (cmove a na).val.extractLsb' 64 64 = a.val.extractLsb' 64 64 := by
  have hstays : ¬staysTagged a na := fun hs => by rw [tag_cmove_iff.2 hs] at h; exact Bool.noConfusion h
  refine BitVec.eq_of_toNat_eq ?_
  rw [toNat_field, toNat_field, cmove_of_not_stays hstays, bitsAt_toNat_ofNat _ (by decide), bitsAt_putBits_of_disjoint (by decide)]

/-- The distances of a new address from the two ends of the bounds, in granules (R104). -/
theorem moved_granules (h : staysTagged a na) :
    (movedAnchor a.val na - movedDown a na * (2 ^ capG a.val : Nat) : Int) = (capBounds a.val).1 ∧
      (movedAnchor a.val na + movedUp a na * (2 ^ capG a.val : Nat) : Int) = (capBounds a.val).2 ∧
      movedDown a na + movedUp a na = capDown a.val + capUp a.val := by
  obtain ⟨-, hbase, htop⟩ := h
  have hanchor : movedAnchor a.val na = 2 ^ capG a.val * (na.toNat / 2 ^ capG a.val) := by
    rw [movedAnchor]; have := Nat.div_add_mod na.toNat (2 ^ capG a.val); omega
  have hold : capAddr a.val - capAddr a.val % 2 ^ capG a.val = 2 ^ capG a.val * (capAddr a.val / 2 ^ capG a.val) := by
    have := Nat.div_add_mod (capAddr a.val) (2 ^ capG a.val); omega
  simp only [movedDown, movedUp, capBounds, hanchor, hold] at hbase htop ⊢
  have hpos : (0 : Int) < (2 ^ capG a.val : Nat) := by positivity
  generalize 2 ^ capG a.val = g at *
  generalize na.toNat / g = k at *
  generalize capAddr a.val / g = j at *
  push_cast at *
  have hdown : ((g : Int) * k - (g * j - capDown a.val * g)) / g = k - j + capDown a.val := by
    rw [show (g : Int) * k - (g * j - capDown a.val * g) = g * (k - j + capDown a.val) by ring, Int.mul_ediv_cancel_left _ hpos.ne']
  have hup : ((g : Int) * j + capUp a.val * g - g * k) / g = j + capUp a.val - k := by
    rw [show (g : Int) * j + capUp a.val * g - g * k = g * (j + capUp a.val - k) by ring, Int.mul_ediv_cancel_left _ hpos.ne']
  have hdown0 : (0 : Int) ≤ k - j + capDown a.val := by nlinarith
  have hup0 : (0 : Int) ≤ j + capUp a.val - k := by nlinarith
  rw [hdown, hup, Int.toNat_of_nonneg hdown0, Int.toNat_of_nonneg hup0]
  exact ⟨by ring, by ring, by omega⟩

theorem capDown_cmove (h : staysTagged a na) : capDown (cmove a na).val = movedDown a na % 2 ^ 24 := by
  rw [capDown, cmove_of_stays h, bitsAt_toNat_ofNat _ (by decide), bitsAt_putBits_of_disjoint (by decide), bitsAt_putBits_same]

theorem capUp_cmove (h : staysTagged a na) : capUp (cmove a na).val = movedUp a na % 2 ^ 24 := by
  rw [capUp, cmove_of_stays h, bitsAt_toNat_ofNat _ (by decide), bitsAt_putBits_same]

/-- A capability that stays tagged keeps its bounds, where their distance fits the fields (R104, R347). -/
theorem capBounds_cmove (h : staysTagged a na) (hfits : capDown a.val + capUp a.val < 2 ^ 24) :
    capBounds (cmove a na).val = capBounds a.val := by
  obtain ⟨hbase, htop, hsum⟩ := moved_granules h
  have hdown : movedDown a na % 2 ^ 24 = movedDown a na := Nat.mod_eq_of_lt (by omega)
  have hup : movedUp a na % 2 ^ 24 = movedUp a na := Nat.mod_eq_of_lt (by omega)
  rw [capBounds, capAddr_cmove, capG_cmove, capDown_cmove h, capUp_cmove h, hdown, hup]
  refine Prod.ext (Eq.trans ?_ hbase) (Eq.trans ?_ htop) <;> simp [movedAnchor]

end

/-- The move of R347 in the terms of the statement. -/
theorem cmove_moves (c : TCap) (na : Word) :
    let r := cmove c na
    let anchor : Int := (na.toNat - na.toNat % 2 ^ capG c.val : Nat)
    r.data = na ∧ capPerms r.val = capPerms c.val ∧ capG r.val = capG c.val ∧
      (r.tag = true ↔ c.tag = true ∧ (capBounds c.val).1 ≤ anchor ∧ anchor ≤ (capBounds c.val).2) ∧
      (r.tag = true → capDown c.val + capUp c.val < 2 ^ 24 → capBounds r.val = capBounds c.val) ∧
      (r.tag = false → r.val.extractLsb' 64 64 = c.val.extractLsb' 64 64) :=
  ⟨data_cmove c na, capPerms_cmove c na, capG_cmove c na, tag_cmove_iff, fun htag => capBounds_cmove (tag_cmove_iff.1 htag), high_cmove⟩

/-! ### CGET and CTEST (R348) -/

/-- A field of a capability in the bits that R103 gives it. -/
theorem cgetField_eq (c : TCap) (f : CapField) : cgetField c f = match f with
    | .addr => c.val.extractLsb' 0 64
    | .base => BitVec.ofInt 64 (capBounds c.val).1
    | .top => BitVec.ofInt 64 (capBounds c.val).2
    | .perms => (c.val.extractLsb' 117 11).setWidth 64
    | .tag => if c.tag then 1 else 0
    | .gran => (c.val.extractLsb' 112 5).setWidth 64 := by
  cases f with
  | addr => rfl
  | base => rfl
  | top => rfl
  | perms => rw [cgetField, capPerms, ← toNat_field, BitVec.ofNat_toNat]
  | tag => rfl
  | gran => rw [cgetField, capG, ← toNat_field, BitVec.ofNat_toNat]

/-- A permission set within another has none that the other lacks. -/
theorem hasPerms_iff (p q : Cap) : hasPerms (capPerms p) (capPerms q) = true ↔
    q.extractLsb' 117 11 &&& ~~~(p.extractLsb' 117 11) = 0 := by
  rw [hasPerms, beq_iff_eq, capPerms, capPerms, ← toNat_field, ← toNat_field, ← BitVec.toNat_and, BitVec.toNat_inj]
  generalize p.extractLsb' 117 11 = x, q.extractLsb' 117 11 = y
  simp only [BitVec.eq_of_getLsbD_eq_iff, BitVec.getLsbD_and, BitVec.getLsbD_not]
  refine forall_congr' fun j => forall_congr' fun hj => ?_
  cases x.getLsbD j <;> cases y.getLsbD j <;> simp [hj]

theorem boolWord_capWithin (p q : TCap) : boolWord (capWithin p q) =
    if p.tag = true ∧ q.tag = true ∧ (capBounds p.val).1 ≤ (capBounds q.val).1 ∧ (capBounds q.val).2 ≤ (capBounds p.val).2 ∧
      q.val.extractLsb' 117 11 &&& ~~~(p.val.extractLsb' 117 11) = 0 then 1 else 0 := by
  rw [boolWord]
  refine if_congr ?_ rfl rfl
  simp only [capWithin, Bool.and_eq_true, decide_eq_true_eq, hasPerms_iff, and_assoc]

/-- Settles O7: each word gives the capability with its new address, and CGET and CTEST the fields of R103. -/
theorem capabilityWords : Obligations.CapabilityWords := by
  unfold Obligations.CapabilityWords
  refine ⟨fun s d a b imm => ?moves, fun s d a b f => ?reads⟩
  case moves =>
    intro v c w moves wide
    have hwide : immOf s.me.hints imm = wide := by
      cases h : hintsOf 0 s.me.hints with
      | nil => simp only [wide, h, immOf_of_nil h]
      | cons p ps => simp only [wide, h, immOf_of_cons h]
    refine ⟨⟨_, cmove_moves .., ?cinc⟩, ⟨_, cmove_moves .., ?cseta⟩, ⟨_, cmove_moves .., ?cinci⟩⟩
    case cinc => exact givesCap_word (f := fun _ vs => cmove (src vs 0) ((src vs 0).data + (src vs 1).data)) rfl rfl
    case cseta => exact givesCap_word (f := fun _ vs => cmove (src vs 0) (src vs 1).data) rfl rfl
    case cinci =>
      rw [← hwide]
      exact givesCap_word (f := fun s vs => cmove (src vs 0) ((src vs 0).data + immOf s.me.hints imm)) rfl rfl
  case reads =>
    intro c p q
    refine ⟨?cget, ?ctest⟩
    case cget =>
      have h := givesCap_word (d := d) (cs := [a]) (s := s) (i := .cget d a f) (f := fun _ vs => dataCap (cgetField (src vs 0) f)) rfl rfl
      rwa [cgetField_eq] at h
    case ctest =>
      have h := givesCap_word (d := d) (cs := [a, b]) (s := s) (i := .ctest d a b)
        (f := fun _ vs => dataCap (boolWord (capWithin (src vs 0) (src vs 1)))) rfl rfl
      rwa [boolWord_capWithin] at h

end Sys2Proof.Proofs

namespace Sys2Proof.Proofs

open Sys2Proof Sys2Proof.Machine

/-! ### A full write of a vector whose earlier result is still on its way (R246) -/

theorem me_completed (t : State) (cs : List Reg) : (completed t cs).me = nextWordOf (cs.foldl Carrel.pop t.me) := by
  rw [completed, State.retire, me_modMe, me_popAll, nextWordOf]

theorem lat_completed (t : State) (cs : List Reg) : (completed t cs).me.lat = t.me.lat := by
  rw [me_completed, foldl_pop_frame]
  rfl

/-- The statements' write of a vector leaves what is waited for as it is. -/
theorem lat_putV (s : State) (v : VReg) (x : VWord) (all : Bool) : (s.putV v x all).me.lat = s.me.lat := by
  rw [State.putV, me_modMe]

/-- A Running carrel that waits for a result of an earlier word in v1 for 4 more cycles. -/
def lateVecState : State := { cores := [(0, { carrels := [(0, { st := .running, lat := [(65, 4)] })] })] }

/-- The state after a word that writes all of v1 waits for v1 no more, while the statements' state still does. -/
theorem not_completed_putV {t : State} (hlat : t.me.lat = []) (x : VWord) (all : Bool) (cs : List Reg) :
    t ≠ completed (lateVecState.putV 1 x all) cs := by
  rintro rfl
  rw [lat_completed, lat_putV] at hlat
  exact absurd hlat (by decide)

/-- What is waited for after a word, where it has a next state. -/
def latAfter (i : Instr) (s : State) : Option (FMap Nat) :=
  match exec i s with
  | .next t => some t.me.lat
  | _ => none

theorem lat_of_latAfter {i : Instr} {s t : State} {m : FMap Nat} (h : latAfter i s = some m) (hexec : exec i s = .next t) : t.me.lat = m := by
  simpa [latAfter, hexec] using h

/-- Refutes O10: VADD of v1 under m0 writes every element, and what an earlier word still had on its way to v1 is waited for no more
(R246), while the statement's next state keeps that wait. A run can come to such a state: a word with a latency that writes v1,
and then one that writes v1 without reading it, which waits for nothing. The statement lacks the premise that no result is on its
way to v, or the change of `lat`. -/
theorem not_vectorInteger : ¬ Obligations.VectorInteger := by
  unfold Obligations.VectorInteger
  intro h
  have hissue : issuable (.vadd 1 2 3 0 .e8) lateVecState = true := by decide +kernel
  have hready : sourcesReady { vs := [2, 3], ms := [0], dv := some 1 } lateVecState = true := by decide +kernel
  have hlat : latAfter (.vadd 1 2 3 0 .e8) lateVecState = some [] := by decide +kernel
  obtain ⟨hadd, -⟩ := h lateVecState 1 2 3 0 .e8
  obtain ⟨x, hexec, -⟩ := hadd hissue hready
  exact not_completed_putV (lat_of_latAfter hlat hexec) x _ _ rfl

/-- Refutes O11: VBCAST into v1, as VADD in O10, ends the wait for an earlier result on its way to v1 (R246), which the statement's next
state keeps. -/
theorem not_vectorTransfersAndMasks : ¬ Obligations.VectorTransfersAndMasks := by
  unfold Obligations.VectorTransfersAndMasks
  rintro ⟨h, -⟩
  have hissue : issuable (.vbcast 1 0 .e8) lateVecState = true := by decide +kernel
  have hready : sourcesReady { cs := [0], dv := some 1 } lateVecState = true := by decide +kernel
  have hlat : latAfter (.vbcast 1 0 .e8) lateVecState = some [] := by decide +kernel
  obtain ⟨hbcast, -⟩ := h lateVecState 1 0 0 0 0 0 0 .e8 .add
  obtain ⟨x, hexec, -⟩ := hbcast hissue hready
  exact not_completed_putV (lat_of_latAfter hlat hexec) x _ _ rfl

end Sys2Proof.Proofs

namespace Sys2Proof.Proofs

open Sys2Proof Sys2Proof.Machine

/-! ### Vectors as lists of elements (R64, R398) -/

/-- Element k of a packed list. -/
theorem bitsAt_ofElems (w : Nat) : ∀ (l : List Nat) (k : Nat), bitsAt (ofElems w l) (k * w) w = l.getD k 0 % 2 ^ w
  | [], k => by simp [ofElems, bitsAt]
  | e :: es, 0 => by simp [ofElems, bitsAt]
  | e :: es, k + 1 => by
    have hlow : (e % 2 ^ w + 2 ^ w * ofElems w es) / 2 ^ w = ofElems w es := by
      rw [Nat.add_mul_div_left _ _ (Nat.two_pow_pos w), Nat.div_eq_of_lt (Nat.mod_lt _ (Nat.two_pow_pos w)), Nat.zero_add]
    rw [bitsAt, ofElems, Nat.succ_mul, Nat.add_comm (k * w), Nat.pow_add, ← Nat.div_div_eq_div_mul, hlow, List.getD_cons_succ]
    exact bitsAt_ofElems w es k

section
variable {w k : Nat} (hk : k < 512 / w)
include hk

theorem lane_bits : k * w + w ≤ 512 :=
  calc k * w + w = (k + 1) * w := (Nat.succ_mul k w).symm
    _ ≤ 512 / w * w := Nat.mul_le_mul_right w hk
    _ ≤ 512 := Nat.div_mul_le_self 512 w

theorem getD_elems (v : VWord) : (elems w v).getD k 0 = (lane w v k).toNat := by
  rw [elems, List.getD_eq_getElem?_getD, List.getElem?_map, List.getElem?_range hk, lane, toNat_field]
  rfl

/-- A lane of a vector that is packed from a list. -/
theorem lane_ofElems (l : List Nat) : lane w (BitVec.ofNat 512 (ofElems w l)) k = BitVec.ofNat w (l.getD k 0) := by
  refine BitVec.eq_of_toNat_eq ?_
  rw [lane, toNat_field, bitsAt_toNat_ofNat _ (lane_bits hk), bitsAt_ofElems, BitVec.toNat_ofNat]

end

theorem length_elems (w : Nat) (v : VWord) : (elems w v).length = 512 / w := by simp [elems]

theorem getD_governedBy {m : Word} {old new : List Nat} {k : Nat} (hold : k < old.length) (hnew : k < new.length) :
    (governedBy m old new).getD k 0 = if m.getLsbD k then new.getD k 0 else old.getD k 0 := by
  simp [governedBy, List.getD_eq_getElem?_getD, hold, hnew]

/-! ### The write of governed elements (R398) -/

section
variable (c : Carrel) (v : VReg) (w : Nat) (m : Word) (new : List Nat)

/-- It changes the vector registers, and what is waited for. -/
theorem mergeV_frame : c.mergeV v w m new = { c with vregs := (c.mergeV v w m new).vregs, lat := (c.mergeV v w m new).lat } := by
  unfold Carrel.mergeV
  split <;> rfl

theorem val_vreg_mergeV : ((c.mergeV v w m new).vreg v).val = BitVec.ofNat 512 (ofElems w (governedBy m (elems w (c.vreg v).val) new)) := by
  unfold Carrel.mergeV
  split <;> simp [Carrel.vreg, Carrel.setV]

theorem vreg_mergeV_of_ne {x : VReg} (h : x ≠ v) : (c.mergeV v w m new).vreg x = c.vreg x := by
  have hn : v.toNat ≠ x.toNat := fun e => h (BitVec.eq_of_toNat_eq e.symm)
  unfold Carrel.mergeV
  split <;> simp [Carrel.vreg, Carrel.setV, fgetD_fset, hn]

theorem lane_mergeV {k : Nat} (hk : k < 512 / w) (hnew : new.length = 512 / w) : lane w ((c.mergeV v w m new).vreg v).val k =
    if m.getLsbD k then BitVec.ofNat w (new.getD k 0) else lane w (c.vreg v).val k := by
  rw [val_vreg_mergeV, lane_ofElems hk, getD_governedBy (by rwa [length_elems]) (by rwa [hnew])]
  split
  · rfl
  · rw [getD_elems hk, BitVec.ofNat_toNat, BitVec.setWidth_eq]

end

/-! ### The flags of a vector word (R128, R407) -/

/-- The flags that the elements with the given numbers raise together. -/
def raisedBy (js : List Nat) (fl : Nat → FFlags) : FFlags := js.foldl (fun x j => x.or (fl j)) {}

/-- A vector floating-point word: it completes with its flags in FPC, or traps with the lowest element that raised the enabled one. -/
theorem fpFinish_ends {i : Instr} {o : OpSpec} {s : State} {body : State → List TCap → WordRes} {next : State → State} {js : List Nat}
    {fl : Nat → FFlags} (hexec : exec i s = runWord i o s body) (hplain : isSync i = false) (hdest : o.dc = none)
    (hsends : o.sends = false) (hbody : body s (readSources s.me o.cs) = fpFinish s (js.map fun j => (j, fl j)) next)
    (hissue : issuable i s = true) (hready : sourcesReady o s = true) :
    let t := flagged s (raisedBy js fl)
    (fpTrap s.me.fpc (raisedBy js fl) = none → exec i s = .next (completed (next t) o.cs)) ∧
    (∀ e, fpTrap s.me.fpc (raisedBy js fl) = some e → s.me.settled = true →
      exec i s = .next (takeTrap t t.cur.1 t.cur.2 (0x140 + e) (BitVec.ofNat 64 ((js.find? fun j => (fl j).detail e).getD 0)))) := by
  intro t
  have hraised : (js.map fun j => (j, fl j)).foldl (fun f (x : Nat × FFlags) => f.or x.2) ({} : FFlags) = raisedBy js fl := by
    rw [List.foldl_map, raisedBy]
  have hfirst : ∀ e, firstRaiser e (js.map fun j => (j, fl j)) = (js.find? fun j => (fl j).detail e).getD 0 := fun e => by
    rw [firstRaiser, List.find?_map, Option.map_map]
    simp [Function.comp_def]
  refine ⟨fun hquiet => ?_, fun e htrap hsettled => ?_⟩
  · refine hexec.trans (runWord_done_plain hissue hready (hbody.trans ?_) hplain hdest)
    simp only [fpFinish, hraised, hquiet]
    rfl
  · refine hexec.trans (runWord_trapWith_kept hissue hready hplain hsends (hbody.trans ?_) (by simp [hdest]) hsettled)
    simp only [fpFinish, hraised, htrap, hfirst]
    rfl

/-- The elements of an element-wise word that the mask governs, with their flags. -/
theorem governedFlags_eq (m : Word) (n : Nat) (r : Nat → Nat × FFlags) :
    governedFlags m ((List.range n).map r) = ((List.range n).filter m.getLsbD).map fun j => (j, (r j).2) := by
  have hindex : ((List.range n).map r).zipIdx = (List.range n).map fun j => (r j, j) := by
    refine List.ext_getElem (by simp) fun k h1 h2 => by simp
  rw [governedFlags, hindex, List.filter_map, List.map_map]
  rfl

/-! ### The executing carrel after a vector floating-point word -/

theorem me_flagged (s : State) (fl : FFlags) : (flagged s fl).me = { s.me with fpc := fpcRaise s.me.fpc fl } := me_modMe s _

/-- A word without register sources leaves the carrel that its operation makes, at the next word. -/
theorem me_completed_modMe (t : State) (f : Carrel → Carrel) : (completed (t.modMe f) []).me = nextWordOf (f t.me) := by
  rw [me_completed, List.foldl_nil, me_modMe]

/-- The carrel after a vector floating-point word that writes governed elements of `v`. -/
def afterMerge (c : Carrel) (fl : FFlags) (v : VReg) (w : Nat) (m : Word) (new : List Nat) : Carrel :=
  nextWordOf (({ c with fpc := fpcRaise c.fpc fl } : Carrel).mergeV v w m new)

theorem me_completed_mergeV (s : State) (fl : FFlags) (v : VReg) (w : Nat) (m : Carrel → Word) (new : Carrel → List Nat) :
    (completed ((flagged s fl).modMe fun c => c.mergeV v w (m c) (new c)) []).me =
      afterMerge s.me fl v w (m { s.me with fpc := fpcRaise s.me.fpc fl }) (new { s.me with fpc := fpcRaise s.me.fpc fl }) := by
  rw [me_completed_modMe, me_flagged, afterMerge]

section
variable (c : Carrel) (fl : FFlags) (v : VReg) (w : Nat) (m : Word) (new : List Nat)

/-- A merge leaves all but the vectors: FPC has the flags, and the next word follows. -/
theorem afterMerge_frame : (afterMerge c fl v w m new).fpc = c.fpc ||| fl.mask ∧ (afterMerge c fl v w m new).pc = c.pc + 4 ∧
    (afterMerge c fl v w m new).regs = c.regs := by
  rw [afterMerge, mergeV_frame]
  exact ⟨rfl, rfl, rfl⟩

theorem vreg_afterMerge_of_ne {x : VReg} (h : x ≠ v) : (afterMerge c fl v w m new).vreg x = c.vreg x :=
  vreg_mergeV_of_ne { c with fpc := fpcRaise c.fpc fl } v w m new h

theorem lane_afterMerge {k : Nat} (hk : k < 512 / w) (hnew : new.length = 512 / w) :
    lane w ((afterMerge c fl v w m new).vreg v).val k = if m.getLsbD k then BitVec.ofNat w (new.getD k 0) else lane w (c.vreg v).val k :=
  lane_mergeV { c with fpc := fpcRaise c.fpc fl } v w m new hk hnew

end

/-! ### The element-wise floating-point words (R407) -/

/-- What an element-wise word makes of element j of its sources. -/
def vecFpElem (s : State) (F : Fmt) (o : FpOp) (vs : List VReg) (j : Nat) : Nat × FFlags :=
  F.apply (fpcRm s.me.fpc) o (lane F.bits (s.me.vreg (vs.getD 0 0)).val j).toNat (lane F.bits (s.me.vreg (vs.getD 1 0)).val j).toNat
    (lane F.bits (s.me.vreg (vs.getD 2 0)).val j).toNat

section
variable {i : Instr} {v : VReg} {vs : List VReg} {m : MReg} {f : VfFmt} {o : FpOp} {s : State}

/-- The elements that a mask governs, of `n`. -/
def governed (m : Word) (n : Nat) : List Nat := (List.range n).filter m.getLsbD

theorem vecFp_ends (hexec : exec i s = vecFp i v vs m f o s) (hplain : isSync i = false) (hissue : issuable i s = true)
    (hready : sourcesReady { vs := vs, ms := [m], dv := some v } s = true) :
    let n := (vfFmtOf f).bits
    let g := s.me.mask m
    let r := vecFpElem s (vfFmtOf f) o vs
    let fl := raisedBy (governed g (512 / n)) fun j => (r j).2
    let t := flagged s fl
    (fpTrap s.me.fpc fl = none → ∃ u, exec i s = .next u ∧
      (∀ j < 512 / n, lane n (u.me.vreg v).val j = if g.getLsbD j then BitVec.ofNat n (r j).1 else lane n (s.me.vreg v).val j) ∧
      (∀ x, x ≠ v → u.me.vreg x = s.me.vreg x) ∧ u.me.fpc = s.me.fpc ||| fl.mask ∧ u.me.pc = s.me.pc + 4 ∧
      u.me.regs = s.me.regs ∧ u.mem = s.mem) ∧
    (∀ e, fpTrap s.me.fpc fl = some e → s.me.settled = true → exec i s = .next (takeTrap t t.cur.1 t.cur.2 (0x140 + e)
      (BitVec.ofNat 64 (((governed g (512 / n)).find? fun j => (r j).2.detail e).getD 0)))) := by
  intro n g r fl t
  have hresults : ((List.range (512 / n)).map fun j => (vfFmtOf f).apply (fpcRm s.me.fpc) o ((elems n (s.me.vreg (vs.getD 0 0)).val).getD j 0)
      ((elems n (s.me.vreg (vs.getD 1 0)).val).getD j 0) ((elems n (s.me.vreg (vs.getD 2 0)).val).getD j 0)) =
      (List.range (512 / n)).map r := by
    refine List.map_congr_left fun j hj => ?_
    rw [getD_elems (List.mem_range.1 hj), getD_elems (List.mem_range.1 hj), getD_elems (List.mem_range.1 hj)]
    rfl
  obtain ⟨hdone, htrap⟩ := fpFinish_ends (o := { vs := vs, ms := [m], dv := some v }) (fl := fun j => (r j).2)
    (next := fun t => t.modMe fun c => c.mergeV v n (c.mask m) (((List.range (512 / n)).map r).map (·.1)))
    (hexec.trans rfl) hplain rfl rfl (by simp only [n, hresults]; rw [governedFlags_eq]) hissue hready
  refine ⟨fun hquiet => ⟨_, hdone hquiet, ?_⟩, htrap⟩
  obtain ⟨hfpc, hpc, hregs⟩ := afterMerge_frame s.me fl v n (s.me.mask m) (((List.range (512 / n)).map r).map (·.1))
  rw [me_completed_mergeV]
  refine ⟨fun j hj => ?_, fun x hx => vreg_afterMerge_of_ne _ _ _ _ _ _ hx, hfpc, hpc, hregs, rfl⟩
  have hnew : (((List.range (512 / n)).map r).map (·.1)).getD j 0 = (r j).1 := by
    simp [List.getD_eq_getElem?_getD, List.getElem?_range hj]
  rw [← hnew]
  exact lane_afterMerge _ _ _ _ _ _ hj (by simp)

end

/-! ### VFCMP (R409) -/

theorem toNat_mod_two (b : Bool) : (b.toNat % 2 ^ 1 == 1) = b := by cases b <;> rfl

/-- A bit of a mask that a comparison writes (R404). -/
theorem getLsbD_cmpMask {e j : Nat} (hj : j < 64) (old g : Word) (r : List Bool) :
    (cmpMask e old g r).getLsbD j = if e ≤ j then false else if g.getLsbD j then r.getD j false else old.getLsbD j := by
  have hbit : ∀ x : Nat, x.testBit j = (bitsAt x (j * 1) 1 == 1) := fun x => by
    rw [Nat.mul_one, ← bitAt_eq_testBit, bitAt]
  rw [cmpMask, BitVec.getLsbD_ofNat, decide_eq_true hj, Bool.true_and, hbit, bitsAt_ofElems]
  by_cases hin : e ≤ j
  · rw [if_pos hin]
    simp [List.getD_eq_getElem?_getD, hin]
  · rw [if_neg hin, List.getD_eq_getElem?_getD, List.getElem?_map, List.getElem?_range (by omega)]
    change ((if g.getLsbD j then (r.getD j false).toNat else (old.getLsbD j).toNat) % 2 ^ 1 == 1) = _
    split <;> exact toNat_mod_two _

theorem setM_frame (c : Carrel) (d : MReg) (z : Word) : c.setM d z = { c with masks := (c.setM d z).masks, lat := (c.setM d z).lat } := by
  unfold Carrel.setM
  split <;> rfl

theorem mask_setM {d : MReg} (h : d ≠ 0) (c : Carrel) (z : Word) : (c.setM d z).mask d = z := by
  rw [Carrel.setM, if_neg h, Carrel.mask, if_neg h, fgetD_fset_same]

theorem elems_eq (w : Nat) (v : VWord) : elems w v = (List.range (512 / w)).map fun j => (lane w v j).toNat :=
  List.map_congr_left fun j _ => (toNat_field v (j * w) w).symm

theorem zip_elems (w : Nat) (x y : VWord) : (elems w x).zip (elems w y) =
    (List.range (512 / w)).map fun j => ((lane w x j).toNat, (lane w y j).toNat) := by
  rw [elems_eq, elems_eq, List.zip_map']

/-- What VFCMP makes of element j of its sources. -/
def vfcmpElem (s : State) (F : Fmt) (c : FcmpOp) (a b : VReg) (j : Nat) : Bool × FFlags :=
  fcmpX c (F.decode (lane F.bits (s.me.vreg a).val j).toNat) (F.decode (lane F.bits (s.me.vreg b).val j).toNat)

theorem exec_vfcmp (d : MReg) (a b : VReg) (m : MReg) (f : VfFmt) (c : FcmpOp) (s : State) :
    exec (.vfcmp d a b m f c) s = execVfcmp d a b m f c s := rfl

theorem vfcmp_ends {d m : MReg} {a b : VReg} {f : VfFmt} {c : FcmpOp} {s : State} (hissue : issuable (.vfcmp d a b m f c) s = true)
    (hready : sourcesReady { vs := [a, b], ms := [m, d] } s = true) :
    let n := (vfFmtOf f).bits
    let g := s.me.mask m
    let r := vfcmpElem s (vfFmtOf f) c a b
    let fl := raisedBy (governed g (512 / n)) fun j => (r j).2
    let t := flagged s fl
    (fpTrap s.me.fpc fl = none → ∃ u, exec (.vfcmp d a b m f c) s = .next u ∧
      (∀ j < 64, d ≠ 0 → (u.me.mask d).getLsbD j =
        if 512 / n ≤ j then false else if g.getLsbD j then (r j).1 else (s.me.mask d).getLsbD j) ∧
      u.me.fpc = s.me.fpc ||| fl.mask ∧ u.me.vregs = s.me.vregs ∧ u.me.pc = s.me.pc + 4) ∧
    (∀ e, fpTrap s.me.fpc fl = some e → s.me.settled = true → exec (.vfcmp d a b m f c) s =
      .next (takeTrap t t.cur.1 t.cur.2 (0x140 + e)
        (BitVec.ofNat 64 (((governed g (512 / n)).find? fun j => (r j).2.detail e).getD 0)))) := by
  intro n g r fl t
  have hresults : ((elems n (s.me.vreg a).val).zip (elems n (s.me.vreg b).val)).map
      (fun x => fcmpX c ((vfFmtOf f).decode x.1) ((vfFmtOf f).decode x.2)) = (List.range (512 / n)).map r := by
    rw [zip_elems, List.map_map]
    rfl
  obtain ⟨hdone, htrap⟩ := fpFinish_ends (o := { vs := [a, b], ms := [m, d] }) (fl := fun j => (r j).2) (js := governed g (512 / n))
    (next := fun t => t.modMe fun k => k.setM d (cmpMask (512 / n) (k.mask d) (k.mask m) (((List.range (512 / n)).map r).map (·.1))))
    (exec_vfcmp d a b m f c s) rfl rfl rfl
    (by simp only [n, hresults, List.map_map]; rw [Function.comp_def, governedFlags_eq]; rfl) hissue hready
  refine ⟨fun hquiet => ⟨_, hdone hquiet, ?_⟩, htrap⟩
  rw [me_completed_modMe, me_flagged]
  refine ⟨fun j hj hd => ?_, by rw [setM_frame]; rfl, by rw [setM_frame]; rfl, by rw [setM_frame]; rfl⟩
  have hnew : j < 512 / n → (((List.range (512 / n)).map r).map (·.1)).getD j false = (r j).1 := fun hin => by
    simp [List.getD_eq_getElem?_getD, List.getElem?_range hin]
  change ((Carrel.setM _ d _).mask d).getLsbD j = _
  rw [mask_setM hd, getLsbD_cmpMask hj]
  by_cases hin : 512 / n ≤ j
  · rw [if_pos hin, if_pos hin]
  · rw [if_neg hin, if_neg hin, hnew (Nat.lt_of_not_le hin)]
    rfl

/-! ### VCVT (R405, R406) -/

theorem length_modAt {α : Type} (f : α → α) : ∀ (l : List α) (k : Nat), (modAt l k f).length = l.length
  | [], _ => rfl
  | _ :: _, 0 => rfl
  | _ :: l, k + 1 => congrArg (· + 1) (length_modAt f l k)

theorem getD_modAt {α : Type} (f : α → α) (d : α) : ∀ (l : List α) (k j : Nat),
    (modAt l k f).getD j d = if j = k ∧ j < l.length then f (l.getD j d) else l.getD j d
  | [], _, _ => by simp [modAt]
  | x :: l, 0, 0 => by simp [modAt]
  | x :: l, 0, j + 1 => by simp [modAt]
  | x :: l, k + 1, 0 => by simp [modAt]
  | x :: l, k + 1, j + 1 => by
    have ih := getD_modAt f d l k j
    simpa [modAt] using ih

/-- The list with the elements at given places replaced. -/
def replacedAt (js : List Nat) (f : Nat → Nat) (l : List Nat) : List Nat := js.foldl (fun l j => modAt l j fun _ => f j) l

theorem length_replacedAt (js : List Nat) (f : Nat → Nat) : ∀ l : List Nat, (replacedAt js f l).length = l.length := by
  induction js with
  | nil => exact fun l => rfl
  | cons k js ih => exact fun l => (ih _).trans (length_modAt _ l k)

theorem getD_replacedAt (f : Nat → Nat) (js : List Nat) {j : Nat} : ∀ {l : List Nat}, j < l.length →
    (replacedAt js f l).getD j 0 = if j ∈ js then f j else l.getD j 0 := by
  induction js with
  | nil => simp [replacedAt]
  | cons k js ih =>
    intro l hj
    have hstep := ih (l := modAt l k fun _ => f k) (by rwa [length_modAt])
    rw [getD_modAt] at hstep
    refine hstep.trans ?_
    by_cases hmem : j ∈ js
    · simp [hmem]
    · by_cases hjk : j = k
      · subst hjk; simp [hmem, hj]
      · simp [hmem, hjk]

/-- A power of two whose bit is clear sets just that bit. -/
theorem testBit_add_two_pow {n k : Nat} (h : n.testBit k = false) (j : Nat) :
    (n + 2 ^ k).testBit j = (decide (j = k) || n.testBit j) := by
  have hclear : bitsAt n k 1 = 0 := by
    have hbit : (bitsAt n k 1 == 1) = false := by rw [← h, ← bitAt_eq_testBit, bitAt]
    have hlt : bitsAt n k 1 < 2 := Nat.mod_lt _ (by decide)
    have hne : bitsAt n k 1 ≠ 1 := by simpa using hbit
    omega
  have hput : putBits n k 1 1 = n + 2 ^ k := by simp [putBits, hclear]
  rw [← hput, testBit_putBits]
  by_cases hj : j = k
  · subst hj; simp
  · rw [if_neg (by omega), decide_eq_false hj, Bool.false_or]

/-- The sum of different powers of two has their bits. -/
theorem testBit_sum_two_pow (i : Nat) (js : List Nat) : ∀ n : Nat, js.Nodup → (∀ j ∈ js, n.testBit j = false) →
    (js.foldl (fun n j => n + 2 ^ j) n).testBit i = (n.testBit i || decide (i ∈ js)) := by
  induction js with
  | nil => simp
  | cons k js ih =>
    intro n hnodup hn
    obtain ⟨hk, hnodup⟩ := List.nodup_cons.1 hnodup
    have hadd := testBit_add_two_pow (hn k List.mem_cons_self)
    have hrest : ∀ j ∈ js, (n + 2 ^ k).testBit j = false := fun j hj => by
      have hne : j ≠ k := fun e => hk (e ▸ hj)
      rw [hadd, decide_eq_false hne, hn j (List.mem_cons_of_mem _ hj), Bool.false_or]
    rw [List.foldl_cons, ih _ hnodup hrest, hadd]
    by_cases hik : i = k <;> simp [hik]

/-- The elements that a slice of a conversion writes, and the element of the source for each (R406). -/
def sliceDst (c : VcvtCode) (p i : Nat) : Nat :=
  if (vcvtWidths c).2 ≤ (vcvtWidths c).1 then p * (512 / max (vcvtWidths c).1 (vcvtWidths c).2) + i else i
def sliceSrc (c : VcvtCode) (p j : Nat) : Nat :=
  if (vcvtWidths c).2 ≤ (vcvtWidths c).1 then j - p * (512 / max (vcvtWidths c).1 (vcvtWidths c).2)
  else p * (512 / max (vcvtWidths c).1 (vcvtWidths c).2) + j

/-- The governed elements that VCVT writes. -/
def sliceGoverned (c : VcvtCode) (p : Nat) (g : Word) : List Nat :=
  ((List.range (512 / max (vcvtWidths c).1 (vcvtWidths c).2)).map (sliceDst c p)).filter g.getLsbD

theorem vcvtPairs_eq (c : VcvtCode) (p : Nat) : vcvtPairs c p =
    ((List.range (512 / max (vcvtWidths c).1 (vcvtWidths c).2)).map (sliceDst c p)).map fun j => (sliceSrc c p j, j) := by
  rw [List.map_map]
  refine List.map_congr_left fun i _ => ?_
  change (if (vcvtWidths c).2 ≤ (vcvtWidths c).1 then (i, p * (512 / max (vcvtWidths c).1 (vcvtWidths c).2) + i)
    else (p * (512 / max (vcvtWidths c).1 (vcvtWidths c).2) + i, i)) = (sliceSrc c p (sliceDst c p i), sliceDst c p i)
  rw [sliceSrc, sliceDst]
  split
  · rw [Nat.add_sub_cancel_left]
  · rfl

theorem nodup_sliceGoverned (c : VcvtCode) (p : Nat) (g : Word) : (sliceGoverned c p g).Nodup := by
  refine List.Nodup.filter _ (List.Nodup.map (fun i j h => ?_) List.nodup_range)
  simp only [sliceDst] at h
  split at h <;> omega

/-- A slice lies in its two registers (R406). -/
theorem slice_bounds {c : VcvtCode} {p : Nat} (hp : p < c.ratio) {g : Word} {j : Nat} (hj : j ∈ sliceGoverned c p g) :
    sliceSrc c p j < 512 / (vcvtWidths c).1 ∧ j < 512 / (vcvtWidths c).2 ∧ j < 64 := by
  obtain ⟨i, hi, rfl⟩ := List.mem_map.1 (List.mem_of_mem_filter hj)
  rw [List.mem_range] at hi
  cases c <;> simp only [VcvtCode.ratio, vcvtWidths, sliceSrc, sliceDst] at * <;> norm_num at * <;> omega

/-- What VCVT makes of the source of element j. -/
def vcvtResult (s : State) (c : VcvtCode) (p : Nat) (a : VReg) (j : Nat) : Nat × FFlags :=
  vcvtElem (fpcRm s.me.fpc) c (lane (vcvtWidths c).1 (s.me.vreg a).val (sliceSrc c p j)).toNat

theorem vcvt_results {s : State} {c : VcvtCode} {p : Nat} (hp : p < c.ratio) (a : VReg) (g : Word) :
    (((vcvtPairs c p).filter fun x => g.getLsbD x.2).map fun x =>
      (x.2, vcvtElem (fpcRm s.me.fpc) c ((elems (vcvtWidths c).1 (s.me.vreg a).val).getD x.1 0))) =
    (sliceGoverned c p g).map fun j => (j, vcvtResult s c p a j) := by
  rw [vcvtPairs_eq, List.filter_map, List.map_map]
  refine List.map_congr_left fun j hj => ?_
  have hj : j ∈ sliceGoverned c p g := hj
  obtain ⟨hsrc, -, -⟩ := slice_bounds hp hj
  simp only [Function.comp_apply, getD_elems hsrc]
  rfl

/-- The carrel's vector as VCVT leaves its elements before the mask is applied. -/
def vcvtNew (s : State) (c : VcvtCode) (p : Nat) (a : VReg) (js : List Nat) (old : VWord) : List Nat :=
  replacedAt js (fun j => (vcvtResult s c p a j).1) (elems (vcvtWidths c).2 old)

/-- The mask of the elements that VCVT writes. -/
def vcvtMask (js : List Nat) : Word := BitVec.ofNat 64 (js.foldl (fun n j => n + 2 ^ j) 0)

theorem getLsbD_vcvtMask {js : List Nat} (hnodup : js.Nodup) {j : Nat} (hj : j < 64) : (vcvtMask js).getLsbD j = decide (j ∈ js) := by
  rw [vcvtMask, BitVec.getLsbD_ofNat, decide_eq_true hj, Bool.true_and, testBit_sum_two_pow j js 0 hnodup (by simp), Nat.zero_testBit,
    Bool.false_or]

theorem exec_vcvt (v a : VReg) (c : VcvtCode) (m : MReg) (p : BitVec 2) (s : State) : exec (.vcvt v a c m p) s =
    runWord (.vcvt v a c m p) { vs := [a], ms := [m], dv := some v } s fun s _ =>
      let rs := ((vcvtPairs c p.toNat).filter fun x => (s.me.mask m).getLsbD x.2).map fun x =>
        (x.2, vcvtElem (fpcRm s.me.fpc) c ((elems (vcvtWidths c).1 (s.me.vreg a).val).getD x.1 0))
      fpFinish s (rs.map fun x => (x.1, x.2.2)) fun t => t.modMe fun k =>
        k.mergeV v (vcvtWidths c).2 (BitVec.ofNat 64 (rs.foldl (fun n x => n + 2 ^ x.1) 0))
          (rs.foldl (fun l x => modAt l x.1 fun _ => x.2.1) (elems (vcvtWidths c).2 (k.vreg v).val)) := rfl

theorem vcvt_ends {v a : VReg} {c : VcvtCode} {m : MReg} {p : BitVec 2} {s : State} (hp : p.toNat < c.ratio)
    (hissue : issuable (.vcvt v a c m p) s = true) (hready : sourcesReady { vs := [a], ms := [m], dv := some v } s = true) :
    let wd := (vcvtWidths c).2
    let js := sliceGoverned c p.toNat (s.me.mask m)
    let r := vcvtResult s c p.toNat a
    let fl := raisedBy js fun j => (r j).2
    let t := flagged s fl
    (fpTrap s.me.fpc fl = none → ∃ u, exec (.vcvt v a c m p) s = .next u ∧
      (∀ j < 512 / wd, lane wd (u.me.vreg v).val j = if j ∈ js then BitVec.ofNat wd (r j).1 else lane wd (s.me.vreg v).val j) ∧
      (∀ x, x ≠ v → u.me.vreg x = s.me.vreg x) ∧ u.me.fpc = s.me.fpc ||| fl.mask ∧ u.me.pc = s.me.pc + 4) ∧
    (∀ e, fpTrap s.me.fpc fl = some e → s.me.settled = true → exec (.vcvt v a c m p) s =
      .next (takeTrap t t.cur.1 t.cur.2 (0x140 + e) (BitVec.ofNat 64 ((js.find? fun j => (r j).2.detail e).getD 0)))) := by
  intro wd js r fl t
  obtain ⟨hdone, htrap⟩ := fpFinish_ends (o := { vs := [a], ms := [m], dv := some v }) (fl := fun j => (r j).2) (js := js)
    (next := fun t => t.modMe fun k => k.mergeV v wd (vcvtMask js) (vcvtNew s c p.toNat a js (k.vreg v).val))
    (exec_vcvt v a c m p s) rfl rfl rfl
    (by simp only [vcvt_results hp, List.map_map, List.foldl_map]; rfl) hissue hready
  refine ⟨fun hquiet => ⟨_, hdone hquiet, ?_⟩, htrap⟩
  obtain ⟨hfpc, hpc, -⟩ := afterMerge_frame s.me fl v wd (vcvtMask js) (vcvtNew s c p.toNat a js (s.me.vreg v).val)
  rw [me_completed_mergeV]
  refine ⟨fun j hj => ?_, fun x hx => vreg_afterMerge_of_ne _ _ _ _ _ _ hx, hfpc, hpc⟩
  have hwide : j < 64 := by
    have hle : 512 / wd ≤ 64 := by simp only [wd]; cases c <;> decide
    omega
  have hlen : j < (elems wd (s.me.vreg v).val).length := by rwa [length_elems]
  refine (lane_afterMerge _ _ _ _ _ _ hj ((length_replacedAt ..).trans (length_elems ..))).trans ?_
  rw [getLsbD_vcvtMask (nodup_sliceGoverned c p.toNat (s.me.mask m)) hwide]
  by_cases hin : j ∈ js
  · rw [decide_eq_true hin, if_pos rfl, if_pos hin]
    refine congrArg (BitVec.ofNat wd) ((getD_replacedAt _ js hlen).trans (if_pos hin))
  · rw [decide_eq_false hin, if_neg Bool.false_ne_true, if_neg hin]

/-- Settles O12: each word ends by its flags, which its governed elements raise together; a completed one has each of them computed from
the elements of the sources, and all else of the vectors as it was. -/
theorem vectorFloat : Obligations.VectorFloat := by
  unfold Obligations.VectorFloat
  intro s v a b d m f c k p rm F n g el raised ends arith
  refine ⟨vecFp_ends rfl rfl, vecFp_ends rfl rfl, vecFp_ends rfl rfl, vecFp_ends rfl rfl, vecFp_ends rfl rfl, vecFp_ends rfl rfl,
    vecFp_ends rfl rfl, vecFp_ends rfl rfl, vfcmp_ends, vcvt_ends⟩

end Sys2Proof.Proofs

namespace Sys2Proof.Proofs

open Sys2Proof Sys2Proof.Machine

/-! ### Numbers in the window (R66, R256) -/

section
variable {r : CtxRegs} {n : Nat}

theorem winTile_of_inside (h : n < r.tcnt) : winTile r n = some (r.tbase + n) := if_pos h
theorem winTile_of_outside (h : r.tcnt ≤ n) : winTile r n = none := if_neg (Nat.not_lt.2 h)
theorem winAcc_of_inside (h : n < r.acnt) : winAcc r n = some (r.abase + n) := if_pos h
theorem winAcc_of_outside (h : r.acnt ≤ n) : winAcc r n = none := if_neg (Nat.not_lt.2 h)

end

/-- The number of a tile or an accumulator as TVAL. -/
theorem ofNat_number {n : Nat} (x : BitVec n) : BitVec.ofNat 64 x.toNat = x.setWidth 64 := BitVec.ofNat_toNat 64 x

/-- An engine command is one entry that releases at device scope (R166). -/
theorem engineEntry_of_hasRoom {s : State} (hroom : hasRoom s = true) (i : Instr) (op : EngOp) (addr : Word) :
    engineEntry s i op addr = .done (placed s { mkEntry s i (.engine op) addr with release := some ⟨4, 4, []⟩ }) :=
  putOut_of_hasRoom hroom _

/-! ### MACZ (R263) -/

theorem exec_macz (c : BitVec 3) (k : AccKind) (s : State) : exec (.macz c k) s = execMacz c k s := rfl

section
variable {s : State} {c : BitVec 3} {kind : AccKind} (hissue : issuable (.macz c kind) s = true) (hready : sourcesReady {} s = true)
include hissue hready

theorem macz_outside (hout : s.myCore.cregs.acnt ≤ c.toNat) : Traps (.macz c kind) s 0x202 (c.setWidth 64) := by
  refine fun hsettled => (exec_macz c kind s).trans (runWord_trap_of_no_dest hissue hready rfl rfl ?_ hsettled)
  simp only [winAcc_of_outside hout, ofNat_number]

theorem macz_places (hin : c.toNat < s.myCore.cregs.acnt) (hfeature : kind ≠ .f64 ∨ s.hasFeature 1 = true) (hroom : hasRoom s = true) :
    exec (.macz c kind) s = .next (completed (placed s { mkEntry s (.macz c kind) (.engine (.macz (s.myCore.cregs.abase + c.toNat) kind)) 0
      with release := some ⟨4, 4, []⟩ }) []) := by
  have hlegal : (kind == .f64 && !(s.hasFeature 1)) = false := by
    obtain hkind | hfp64 := hfeature
    · simp [hkind]
    · simp [hfp64]
  refine (exec_macz c kind s).trans (runWord_done_plain (o := {}) hissue hready ?_ rfl rfl)
  simp only [winAcc_of_inside hin, hlegal, Bool.false_eq_true, if_false, engineEntry_of_hasRoom hroom]

end

/-- What a MACZ at its end leaves. -/
theorem engineCommandComplete_macz {s : State} {k a : Nat} {kind : AccKind} {x : EngCmd} (hrun : (s.engine k).running = some x)
    (hop : x.op = .macz a kind) : ∃ t, exec (.engineCommandComplete k) s = .next t ∧ t.mem = s.mem ∧
      t.engine k = { s.engine k with running := none, accs := fset (s.engine k).accs a { kind := kind } } := by
  refine ⟨_, engineCommandComplete_of_running hrun, ?_, ?_⟩
  · simp only [finishCmd, hop]
    rfl
  · simp only [finishCmd, hop, engine_setAcc_same, engine_idleEngine_same]

/-- Settles O43: the word places its command or traps, and the command at its end replaces the accumulator by one with nothing but its
kind. -/
theorem accumulatorClear : Obligations.AccumulatorClear := by
  unfold Obligations.AccumulatorClear
  intro s c kind r i
  refine ⟨fun hissue hready => ⟨macz_outside hissue hready, macz_places hissue hready⟩, fun k x acc hrun hop => ?_⟩
  obtain ⟨t, hexec, hmem, hengine⟩ := engineCommandComplete_macz hrun hop
  have hacc : ∀ q, (t.engine k).acc q = if acc = q then { kind := kind } else (s.engine k).acc q := fun q => by
    rw [hengine]
    exact acc_fset _ _ _ _
  have hclear : (t.engine k).acc acc = { kind := kind } := (hacc acc).trans (if_pos rfl)
  refine ⟨t, hexec, ?_⟩
  rw [hclear]
  exact ⟨rfl, fun _ => rfl, rfl, rfl, rfl, rfl, rfl, by rw [hengine], fun q hq => (hacc q).trans (if_neg hq.symm), by rw [hengine], hmem⟩

/-! ### TDSET (R257 to R260) -/

theorem exec_tdset (m : BitVec 4) (a : Reg) (s : State) : exec (.tdset m a) s = execTdset m a s := rfl

section
variable {s : State} {m : BitVec 4} {a : Reg} (hissue : issuable (.tdset m a) s = true) (hready : sourcesReady { cs := [a] } s = true)
include hissue hready

theorem tdset_outside (hprimary : isPrimary s = false) (hout : s.myCore.cregs.tcnt ≤ m.toNat) :
    Traps (.tdset m a) s 0x202 (m.setWidth 64) := by
  refine fun hsettled => (exec_tdset m a s).trans (runWord_trap_of_not_primary hissue hready hprimary ?_ (by decide) hsettled)
  simp only [winTile_of_outside hout, ofNat_number]

variable (hin : m.toNat < s.myCore.cregs.tcnt)
include hin

theorem tdset_misaligned (hprimary : isPrimary s = false) (halign : capAddr (src (readSources s.me [a]) 0).val % 16 ≠ 0) :
    Traps (.tdset m a) s 0x101 (BitVec.ofNat 64 (capAddr (src (readSources s.me [a]) 0).val)) := by
  refine fun hsettled => (exec_tdset m a s).trans (runWord_trap_of_not_primary hissue hready hprimary ?_ (by decide) hsettled)
  simp only [winTile_of_inside hin, if_pos halign]

variable (halign : capAddr (src (readSources s.me [a]) 0).val % 16 = 0)
  (hcheck : capCheck s s.cur.1 (src (readSources s.me [a]) 0) (capAddr (src (readSources s.me [a]) 0).val) 16 permR = none)
  (hspace : spaceOf (capAddr (src (readSources s.me [a]) 0).val) ≠ 3) {t : State} {bs : List TByte}
  (harrived : arrived s (capAddr (src (readSources s.me [a]) 0).val) 16 = some (t, bs))
include halign hcheck hspace harrived

theorem tdset_illegal (hprimary : isPrimary s = false)
    (hbad : leNat (((bs.drop 8).take 8).map (·.1)) ≠ 0 ∨ tdLegal (t.hasFeature 1) (leNat ((bs.take 8).map (·.1))) = false) :
    Traps (.tdset m a) s 0x203 (m.setWidth 64) := by
  have hrefused : (fieldAt bs 8 8 ≠ 0 || !(tdLegal (t.hasFeature 1) (fieldAt bs 0 8))) = true := by
    obtain hhigh | hlow := hbad
    · have hfield : fieldAt bs 8 8 ≠ 0 := hhigh
      simp [hfield]
    · have hfield : tdLegal (t.hasFeature 1) (fieldAt bs 0 8) = false := hlow
      simp [hfield]
  refine fun hsettled => (exec_tdset m a s).trans (runWord_trap_of_not_primary hissue hready hprimary ?_ (by decide) hsettled)
  simp only [winTile_of_inside hin, halign, ne_eq, not_true_eq_false, if_false, hcheck, hspace, readBuf_of_arrived harrived]
  rw [if_pos hrefused, ofNat_number]

theorem tdset_completes (hzero : leNat (((bs.drop 8).take 8).map (·.1)) = 0)
    (hlegal : tdLegal (t.hasFeature 1) (leNat ((bs.take 8).map (·.1))) = true) (hsettled : t.me.settled = true) :
    exec (.tdset m a) s = .next (finished (.tdset m a) { cs := [a] } s (t.modMyCore fun q =>
      q.setCregs { q.cregs with td := fset q.cregs.td m.toNat (BitVec.ofNat 64 (leNat ((bs.take 8).map (·.1)))) })) := by
  have hgood : ¬(fieldAt bs 8 8 ≠ 0 || !(tdLegal (t.hasFeature 1) (fieldAt bs 0 8))) = true := by
    have hhigh : fieldAt bs 8 8 = 0 := hzero
    have hlow : tdLegal (t.hasFeature 1) (fieldAt bs 0 8) = true := hlegal
    simp [hhigh, hlow]
  refine (exec_tdset m a s).trans (runWord_finished hissue hready rfl ?_)
  simp only [winTile_of_inside hin, halign, ne_eq, not_true_eq_false, if_false, hcheck, hspace, readBuf_of_arrived harrived]
  rw [if_neg hgood, afterLoads, if_pos hsettled]
  rfl

end

/-! ### TDGET (R260, R261) -/

theorem tileStatus_eq (s : State) (k t : Nat) : tileStatus s k t =
    BitVec.ofNat 41 0 ++ BitVec.ofNat 7 ((s.engine k).useTile t) ++ (0 : BitVec 10) ++ BitVec.ofBool (tileFilling s k t) ++
      BitVec.ofBool ((s.engine k).tile t).poison ++ BitVec.ofNat 4 ((s.engine k).tile t).swz := by
  have hfill := Bool.toNat_lt (tileFilling s k t)
  have hpoison := Bool.toNat_lt ((s.engine k).tile t).poison
  refine BitVec.eq_of_toNat_eq ?_
  simp only [tileStatus, toNat_append_eq_add, BitVec.ofNat_eq_ofNat, BitVec.toNat_ofNat, BitVec.toNat_ofBool]
  omega

theorem accStatus_eq (s : State) (k a : Nat) : accStatus s k a =
    BitVec.ofNat 41 0 ++ BitVec.ofNat 7 ((s.engine k).useAcc a) ++ (0 : BitVec 8) ++
      BitVec.ofBool ((s.engine k).away.any fun z => z.op.accOf == a) ++ BitVec.ofBool ((s.engine k).acc a).poison ++
      BitVec.ofBool ((s.engine k).acc a).nsat ++ BitVec.ofBool ((s.engine k).acc a).asat ++ BitVec.ofBool ((s.engine k).acc a).aiv ++
      BitVec.ofBool ((s.engine k).acc a).aov ++ BitVec.ofNat 2 (accCode ((s.engine k).acc a).kind) := by
  have hkind : accCode ((s.engine k).acc a).kind < 4 := by cases ((s.engine k).acc a).kind <;> decide
  have haway := Bool.toNat_lt ((s.engine k).away.any fun z => z.op.accOf == a)
  have hpoison := Bool.toNat_lt ((s.engine k).acc a).poison
  have hnsat := Bool.toNat_lt ((s.engine k).acc a).nsat
  have hasat := Bool.toNat_lt ((s.engine k).acc a).asat
  have haiv := Bool.toNat_lt ((s.engine k).acc a).aiv
  have haov := Bool.toNat_lt ((s.engine k).acc a).aov
  refine BitVec.eq_of_toNat_eq ?_
  simp only [accStatus, toNat_append_eq_add, BitVec.ofNat_eq_ofNat, BitVec.toNat_ofNat, BitVec.toNat_ofBool]
  omega

theorem exec_tdget (d : Reg) (m : BitVec 4) (s : State) : exec (.tdget d m) s = execTdget d m s := rfl
theorem exec_tdgetSt (d : Reg) (m : BitVec 4) (s : State) : exec (.tdgetSt d m) s = execTdgetSt d m s := rfl
theorem exec_tdgetAcc (d : Reg) (c : BitVec 3) (s : State) : exec (.tdgetAcc d c) s = execTdgetAcc d c s := rfl

section
variable {s : State} {d : Reg} {m : BitVec 4} {c : BitVec 3}

theorem tdget_gives (hin : m.toNat < s.myCore.cregs.tcnt) : GivesSync (.tdget d m) d [] s (fgetD s.myCore.cregs.td m.toNat 0) :=
  givesSync_of_done (exec_tdget d m s) (by simp only [winTile_of_inside hin])

theorem tdgetSt_gives (hin : m.toNat < s.myCore.cregs.tcnt) :
    GivesSync (.tdgetSt d m) d [] s (tileStatus s (clusterOf s.cur.1) (s.myCore.cregs.tbase + m.toNat)) :=
  givesSync_of_done (exec_tdgetSt d m s) (by simp only [winTile_of_inside hin, myCluster])

theorem tdgetAcc_gives (hin : c.toNat < s.myCore.cregs.acnt) :
    GivesSync (.tdgetAcc d c) d [] s (accStatus s (clusterOf s.cur.1) (s.myCore.cregs.abase + c.toNat)) :=
  givesSync_of_done (exec_tdgetAcc d c s) (by simp only [winAcc_of_inside hin, myCluster])

theorem tdget_outside (hout : s.myCore.cregs.tcnt ≤ m.toNat) (hissue : issuable (.tdget d m) s = true)
    (hready : sourcesReady { dc := some d } s = true) (hprimary : isPrimary s = false) : Traps (.tdget d m) s 0x202 (m.setWidth 64) := by
  refine fun hsettled => (exec_tdget d m s).trans (runWord_trap_of_not_primary hissue hready hprimary ?_ (by decide) hsettled)
  simp only [winTile_of_outside hout, ofNat_number]

theorem tdgetSt_outside (hout : s.myCore.cregs.tcnt ≤ m.toNat) (hissue : issuable (.tdgetSt d m) s = true)
    (hready : sourcesReady { dc := some d } s = true) (hprimary : isPrimary s = false) : Traps (.tdgetSt d m) s 0x202 (m.setWidth 64) := by
  refine fun hsettled => (exec_tdgetSt d m s).trans (runWord_trap_of_not_primary hissue hready hprimary ?_ (by decide) hsettled)
  simp only [winTile_of_outside hout, ofNat_number]

theorem tdgetAcc_outside (hout : s.myCore.cregs.acnt ≤ c.toNat) (hissue : issuable (.tdgetAcc d c) s = true)
    (hready : sourcesReady { dc := some d } s = true) (hprimary : isPrimary s = false) :
    Traps (.tdgetAcc d c) s 0x202 (c.setWidth 64) := by
  refine fun hsettled => (exec_tdgetAcc d c s).trans (runWord_trap_of_not_primary hissue hready hprimary ?_ (by decide) hsettled)
  simp only [winAcc_of_outside hout, ofNat_number]

end

/-! ### MMA (R259, R262) -/

theorem exec_mma (c : BitVec 3) (a b : BitVec 4) (mig : Bool) (s : State) : exec (.mma c a b mig) s = execMma c a b mig s := rfl

/-- An outbox with room takes the entry, where what the overflow commit brings lets it. -/
theorem putOutWhen_of_hasRoom {s : State} (hroom : hasRoom s = true) {ok : State → Bool}
    (hok : s.me.outbox.length < outboxMax ∨ ok (commitPoint s s.cur.1 s.cur.2) = true) (e : Entry) :
    putOutWhen s ok e = .done (placed s e) := by
  by_cases hfull : s.me.outbox.length < outboxMax
  · have hfits : s.me.outbox.length + 1 ≤ outboxMax := hfull
    simp only [putOutWhen, placed, hfits, hfull, if_true]
  · have hfits : ¬ s.me.outbox.length + 1 ≤ outboxMax := hfull
    have hgo := hok.resolve_left hfull
    simp only [hasRoom, hfull, decide_false, Bool.false_or, Bool.and_eq_true, commits, Bool.not_eq_true'] at hroom
    obtain ⟨⟨⟨hdrain, hecc⟩, hcompare⟩, -⟩ := hroom
    simp [putOutWhen, placed, hfits, hfull, tryCommit, hdrain, hecc, hcompare, hgo]

/-- The tiles of an MMA that lie in the window. -/
def mmaTiles (r : CtxRegs) (m n : BitVec 4) : List Nat := (winTile r m.toNat).toList ++ (winTile r n.toNat).toList

/-- The checks of an MMA word, on its own window and descriptors. -/
def mmaOf (s : State) (c : BitVec 3) (m n : BitVec 4) (mig : Bool) : Except (Nat × Nat) MmaCmd :=
  let r := s.myCore.cregs
  mmaChecks s (clusterOf s.cur.1) r (fgetD r.td m.toNat 0) (fgetD r.td n.toNat 0) m.toNat n.toNat c.toNat mig false

section
variable {s : State} {c : BitVec 3} {m n : BitVec 4} {mig : Bool}

section
variable (hissue : issuable (.mma c m n mig) s = true) (hready : sourcesReady {} s = true)
  (hgo : tileStall s s.cur.1 (mmaTiles s.myCore.cregs m n) = .go)
include hissue hready hgo

theorem mma_traps {cause j : Nat} (h : mmaOf s c m n mig = .error (cause, j)) :
    Traps (.mma c m n mig) s cause (BitVec.ofNat 64 j) := by
  unfold mmaTiles at hgo
  unfold mmaOf at h
  refine fun hsettled => (exec_mma c m n mig s).trans (runWord_trap_of_no_dest hissue hready rfl rfl ?_ hsettled)
  simp only [hgo, myCluster, h]

theorem mma_places {q : MmaCmd} (h : mmaOf s c m n mig = .ok q) (hroom : hasRoom s = true)
    (hok : s.me.outbox.length < outboxMax ∨
      tileStall (commitPoint s s.cur.1 s.cur.2) s.cur.1 (mmaTiles s.myCore.cregs m n) = .go) :
    exec (.mma c m n mig) s = .next (completed (placed s { mkEntry s (.mma c m n mig) (.engine (.mma q)) 0 with
      release := some ⟨4, 4, []⟩ }) []) := by
  have hput := putOutWhen_of_hasRoom hroom (ok := fun t => tileStall t t.cur.1 (mmaTiles s.myCore.cregs m n) = .go)
    (hok.imp_right fun h => decide_eq_true h)
  unfold mmaTiles at hgo hput
  unfold mmaOf at h
  refine (exec_mma c m n mig s).trans (runWord_done_plain (o := {}) hissue hready ?_ rfl rfl)
  simp only [hgo, myCluster, h, hput]

end

/-! #### The checks, in their order (R262) -/

theorem mmaOf_outside_a (hm : s.myCore.cregs.tcnt ≤ m.toNat) : mmaOf s c m n mig = .error (0x202, m.toNat) := by
  simp only [mmaOf, mmaChecks, winTile_of_outside hm]

variable (hm : m.toNat < s.myCore.cregs.tcnt)
include hm

theorem mmaOf_outside_b (hn : s.myCore.cregs.tcnt ≤ n.toNat) : mmaOf s c m n mig = .error (0x202, n.toNat) := by
  simp only [mmaOf, mmaChecks, winTile_of_inside hm, winTile_of_outside hn]

variable (hn : n.toNat < s.myCore.cregs.tcnt)
include hn

theorem mmaOf_outside_acc (hc : s.myCore.cregs.acnt ≤ c.toNat) : mmaOf s c m n mig = .error (0x202, c.toNat) := by
  simp only [mmaOf, mmaChecks, winTile_of_inside hm, winTile_of_inside hn, winAcc_of_outside hc]

variable (hc : c.toNat < s.myCore.cregs.acnt)
include hc

/-- Within the window the pairing is checked, and then the swizzle of each tile. -/
theorem mmaOf_inside :
    let r := s.myCore.cregs
    let e := s.engine (clusterOf s.cur.1)
    let tda := fgetD r.td m.toNat 0
    let tdb := fgetD r.td n.toNat 0
    mmaOf s c m n mig =
      if tdPair (s.hasFeature 1) tda.toNat tdb.toNat = false then .error (0x203, m.toNat)
      else if (e.tile (r.tbase + m.toNat)).swz ≠ tdSwz tda.toNat then .error (0x201, m.toNat)
      else if (e.tile (r.tbase + n.toNat)).swz ≠ tdSwz tdb.toNat then .error (0x201, n.toNat)
      else .ok ⟨r.tbase + m.toNat, r.tbase + n.toNat, r.abase + c.toNat, tda, tdb, mig, m.toNat, n.toNat, c.toNat, false⟩ := by
  intro r e tda tdb
  simp only [mmaOf, mmaChecks, winTile_of_inside hm, winTile_of_inside hn, winAcc_of_inside hc, Bool.not_eq_true']
  rfl

end

/-! ### MACST (R264, R265) -/

theorem exec_macst (c : BitVec 3) (a b : Reg) (k : AccKind) (s : State) : exec (.macst c a b k) s = execMacst c a b k s := rfl

section
variable {s : State} {c : BitVec 3} {a b : Reg} {kind : AccKind} (hissue : issuable (.macst c a b kind) s = true)
  (hready : sourcesReady { cs := [a, b] } s = true)
include hissue hready

theorem macst_outside (hout : s.myCore.cregs.acnt ≤ c.toNat) : Traps (.macst c a b kind) s 0x202 (c.setWidth 64) := by
  refine fun hsettled => (exec_macst c a b kind s).trans (runWord_trap_of_no_dest hissue hready rfl rfl ?_ hsettled)
  simp only [winAcc_of_outside hout, ofNat_number]

variable (hin : c.toNat < s.myCore.cregs.acnt)
include hin

theorem macst_refused {z : Nat} {v : Word}
    (h : macstFault s c.toNat kind (src (readSources s.me [a, b]) 0) (operand s [a, b] 1).toNat = some (z, v)) :
    Traps (.macst c a b kind) s z v := by
  unfold operand at h
  refine fun hsettled => (exec_macst c a b kind s).trans (runWord_trap_of_no_dest hissue hready rfl rfl ?_ hsettled)
  simp only [winAcc_of_inside hin, h]

theorem macst_places (h : macstFault s c.toNat kind (src (readSources s.me [a, b]) 0) (operand s [a, b] 1).toNat = none)
    (hroom : hasRoom s = true) :
    exec (.macst c a b kind) s = .next (completed (placed s { mkEntry s (.macst c a b kind)
      (.engine (.macst ⟨s.myCore.cregs.abase + c.toNat, c.toNat, kind, src (readSources s.me [a, b]) 0, operand s [a, b] 1, 0⟩))
      (src (readSources s.me [a, b]) 0).data with release := some ⟨4, 4, []⟩ }) [a, b]) := by
  unfold operand at h ⊢
  refine (exec_macst c a b kind s).trans (runWord_done_plain (o := { cs := [a, b] }) hissue hready ?_ rfl rfl)
  simp only [winAcc_of_inside hin, h, engineEntry_of_hasRoom hroom]

end

/-- Settles O42: the checks of each word in their order, and its result or its one entry. -/
theorem matrixWords : Obligations.MatrixWords := by
  unfold Obligations.MatrixWords
  intro s d a b m n c mig kind r k e td
  refine ⟨?tdset, ⟨tdget_gives, tdget_outside⟩, ⟨?status, tdgetSt_outside⟩, ⟨?accStatus, tdgetAcc_outside⟩, ?mma, ?macst⟩
  case tdset =>
    intro i cap addr x o hissue hready
    refine ⟨fun hout hprimary => tdset_outside hissue hready hprimary hout,
      fun hin halign hprimary => tdset_misaligned hissue hready hin hprimary halign,
      fun hin halign hcheck hspace t bs harrived => ⟨fun hbad hprimary => ?_, fun hzero hlegal hsettled => ?_⟩⟩
    · exact tdset_illegal hissue hready hin halign hcheck hspace harrived hprimary hbad
    · exact tdset_completes hissue hready hin halign hcheck hspace harrived hzero hlegal hsettled
  case status =>
    intro hin
    have h := tdgetSt_gives (d := d) hin
    rwa [tileStatus_eq] at h
  case accStatus =>
    intro hin
    have h := tdgetAcc_gives (d := d) hin
    rwa [accStatus_eq] at h
  case mma =>
    intro i ta tb tiles hissue hready hgo
    have htraps : ∀ {cause : Nat} {j : Word}, (∃ x, mmaOf s c m n mig = .error (cause, x) ∧ BitVec.ofNat 64 x = j) →
        Traps i s cause j := by
      rintro cause _ ⟨x, h, rfl⟩
      exact mma_traps hissue hready hgo h
    refine ⟨fun hm => htraps ⟨_, mmaOf_outside_a hm, ofNat_number m⟩, fun hm hn => htraps ⟨_, mmaOf_outside_b hm hn, ofNat_number n⟩,
      fun hm hn hc => htraps ⟨_, mmaOf_outside_acc hm hn hc, ofNat_number c⟩, fun hm hn hc => ?_⟩
    have hchecks := mmaOf_inside (mig := mig) hm hn hc
    refine ⟨fun hpair => htraps ⟨_, hchecks.trans (if_pos hpair), ofNat_number m⟩, fun hpair => ?_⟩
    have hpaired := hchecks.trans (if_neg (by rw [hpair]; exact Bool.noConfusion))
    refine ⟨fun ha => htraps ⟨_, hpaired.trans (if_pos ha), ofNat_number m⟩,
      fun ha hb => htraps ⟨_, hpaired.trans ((if_neg (not_not.2 ha)).trans (if_pos hb)), ofNat_number n⟩,
      fun ha hb hroom hok => ?_⟩
    exact mma_places hissue hready hgo (hpaired.trans ((if_neg (not_not.2 ha)).trans (if_neg (not_not.2 hb)))) hroom hok
  case macst =>
    intro i vs hissue hready
    exact ⟨macst_outside hissue hready, fun hin => ⟨fun z v h => macst_refused hissue hready hin h, macst_places hissue hready hin⟩⟩

end Sys2Proof.Proofs
